-- ==== Sys2Proof/Word.lean ====
section
/-! DEFINITION. The word types of the VD16-M model: bytes, 16-, 32- and 64-bit words (R2, R4). -/

namespace Sys2Proof

/-- One byte of memory. -/
abbrev Byte := BitVec 8
/-- A half, 16 bits. -/
abbrev Half := BitVec 16
/-- A word is 32 bits unless a chapter states another width (R4). -/
abbrev Word := BitVec 32
/-- A 64-bit register or memory word. -/
abbrev Dword := BitVec 64

end Sys2Proof
end

