-- ==== Sys2Proof/Config.lean ====
section
/-! DEFINITION. What is fixed for the module: its geometry (R13-R23), and the free functions the spec leaves open or takes
from standards it only names (notes/assumptions 6, 7 and 14). -/

namespace Sys2Proof.Config

/-! ### Geometry -/

/-- Tile columns and rows of the module (R16). -/
def gridSide : Nat := 640
/-- Tiles of a chiplet edge (R13). -/
def chipSide : Nat := 160
/-- Graph sequencers of the module and of a chiplet (R13, R21). -/
def numSeqs : Nat := 1024
def seqsPerChip : Nat := 64
/-- Lantern cores of the module and of a chiplet (R13, R21). -/
def numHarts : Nat := 256
def hartsPerChip : Nat := 16
/-- Edge memory ports and their request channels (R14, R21, R60). -/
def numEmps : Nat := 512
def empChans : Nat := 4
/-- Partitions and virtual functions (R23). -/
def numParts : Nat := 16
def numVfs : Nat := 128
/-- PCIe ports, each with a physical function and its VFs (R23, R462), and the VFs that a partition may hold (R115). -/
def numPfs : Nat := 4
def vfsPerPf : Nat := 32
def vfsPerPart : Nat := 8
/-- Submission pages of a VF (R115). -/
def numPages : Nat := 256
/-- Queues of a partition (R138). -/
def numQueues : Nat := 64
/-- HBM4 stacks and the bytes of one (R19). -/
def numStacks : Nat := 16
def stackBytes : Nat := 64 * 2 ^ 30
/-- LPDDR-6 channels and the bytes of one (R19). -/
def numLpddr : Nat := 64
def lpddrBytes : Nat := 32 * 2 ^ 30
/-- Collective engines of a chiplet (R13), Akend ports (R23), rails (R469). -/
def collsPerChip : Nat := 4
def numAkend : Nat := 32
def numRails : Nat := 32

/-! ### Free functions -/

/-- SHA3-256 of R29 and R33, a standard the spec names without giving it (entry 6). -/
opaque sha3 : List Byte → BitVec 256
/-- SHA-384 of R466 (entry 6). -/
opaque sha384 : List Byte → BitVec 384
/-- SHA-256 of R466 (entry 6). -/
opaque sha256 : List Byte → BitVec 256
/-- ECDSA over P-384 of R35 and R466: whether a signature of a digest verifies under a key (entry 6). -/
opaque ecdsaP384 (key : List Byte) (digest : BitVec 384) (sig : List Byte) : Bool
/-- LMS of R35 and R466: whether a signature of a message verifies under a key (entry 6). -/
opaque lms (key msg sig : List Byte) : Bool
/-- The placement the mapper finds for a CANON section and a target on a module with the given defect maps (R178-R184 give constraints
only): why there is none, or the column and row of each node in the region and by region-relative tile number the switch fields of each
tile (entry 7). -/
opaque placement (canon target : List Byte) (dmver : BitVec 64) : Except Nat (List (Nat × Nat) × List (Nat × List (Nat × Word)))
/-- The configuration section of a node, an assembler option for which CANON has no place (R487; entry 7). -/
opaque nodeSection (canon : List Byte) (node : Nat) : Nat
/-- Whether the mapper marks the periods of a graph in-place (R424; entry 7). -/
opaque inPlace (canon : List Byte) : Bool
/-- Whether an Akend port is cabled to a module (R450). -/
opaque cabled (port : Nat) : Bool
/-- Where in device memory the ROM puts the payload of the firmware it starts (R464 does not say). -/
opaque firmwareBase : BitVec 64
/-- A choice the spec leaves to the device, by number (entry 15). -/
opaque choose : Nat → Nat
/-- The local-port lane of a tile's own source, by the tile's region-relative number and the source's code (outputs 0-3, attachments 4-7, express lanes 8-15): even 0, odd 1.
R375 does not say how they share the two lanes (entry 19). -/
opaque localOut (tile code : Nat) : Nat
/-- Where a beat from a source (16 · region-relative tile + code) goes that a route brings to a lane of a tile's local port: channel 0-3, attachment 4-7, express
lane 8-15, modulo 16 (entry 19). -/
opaque localIn (tile lane src : Nat) : Nat
/-- A word the spec leaves open, by number (entry 14). -/
opaque freeWord : Nat → Word

end Sys2Proof.Config
end

