-- ==== Sys2Proof/Syntax.lean ====
section
/-! DEFINITION. The steps of the VD16-M, one constructor for each row of spec/opcode_table.json: the sequencer words of
R203-R233, the Xlan words of R141, the configuration-stream words of R50-R53, and the steps that have no word of their
own (host, fabric, memory, service, pod and reset steps). A row with no word carries the unit it acts on and the data
that comes from outside the module. -/

namespace Sys2Proof

/-- A register number of five bits: s0-s31 of a sequencer (R75), x0-x31 of a hart (R78). -/
abbrev Reg := BitVec 5

/-- A source operand of a sequencer word: the register and its T bit (R75). -/
structure Src where
  reg : Reg
  t : Bool
  deriving DecidableEq, Repr

/-- A write of the host to a submission page (R116): offset in the page, whether it is a Deferrable Memory Write, and
the bytes. -/
structure HostWrite where
  off : Nat
  dmw : Bool
  bytes : List Byte
  deriving DecidableEq, Repr

/-- The register a REGISTER_WRITE names (R7): 8 bytes of a VF's BAR0 by their offset from the control page, a device CSR written by a hart,
or a setting for which the spec names no register: the partition a VF is assigned to and the one a hart acts in below HV, which the hypervisor
sets (R115, R146), and the minimum security version, which maker firmware raises (R466). -/
inductive RegSel where
  | vf (vf off : Nat)
  | csr (hart : Nat) (num : BitVec 12)
  | vfAssign (vf : Nat)
  | hartAssign (hart : Nat)
  | minSvn
  deriving DecidableEq, Repr

/-- The engine classes of FORK (R216): fabric rules, pattern streams, macros. -/
inductive EngineClass where
  | fabric | stream | cim
  deriving DecidableEq, Repr

/-- The three units of the compute-in-memory tile (R378). -/
inductive MacroUnit where
  | loader | array | search
  deriving DecidableEq, Repr

/-- Where a beat that moves stands (R240, R375): an output FIFO of a channel, a stage of a channel's delay line, or the
switch lane register of a port (N 0, E 1, S 2, W 3, L 4) and lane. -/
inductive BeatSource where
  | outFifo (ch : Nat)
  | delay (ch stage : Nat)
  | laneReg (port lane : Nat)
  deriving DecidableEq, Repr

/-- One failed item of a self-test (R467): ITEM, WHERE, expected and observed signatures. -/
structure BistFail where
  item : Nat
  place : Word
  expect : Dword
  observed : Dword
  deriving DecidableEq, Repr

/-- The single parts of R423. -/
inductive FailedPart where
  | lanternCore (h : Nat)
  | sequencer (sq : Nat)
  | regionArea (rn : Nat)
  | pseudoChannel (stack pc : Nat)
  | linkLane (port lane : Nat)
  | seamLane (seam lane : Nat)
  /-- Both copies of the journal of these periods (R427). -/
  | journalCopies (periods : List Nat)
  deriving DecidableEq, Repr

/-- Where a parity check is made (R104, R433): at a FIFO of a tile, on the 580 bits of a beat that has come to it, or in a macro, a file or a
delay line of a tile. -/
inductive ParitySite where
  | fifo (tile : Nat) (beat : BitVec 580)
  | store (tile : Nat)
  deriving DecidableEq, Repr

/-- The tile of a parity check. -/
def ParitySite.tile : ParitySite → Nat
  | .fifo t _ => t
  | .store t => t

/-- Where an ECC check finds an error (R433): a byte of device memory, or a byte of an MT's scratchpad. -/
inductive EccSite where
  | memory (pa : Nat)
  | scratchpad (tile off : Nat)
  deriving DecidableEq, Repr

/-- What patrol scrubbing finds at a place (R435). -/
inductive ScrubFinding where
  | clean | singleBit | doubleBit
  deriving DecidableEq, Repr

/-- The answer of an NVMe controller (R432): an error status, and the bytes a read returned. -/
structure NvmeReply where
  error : Bool
  bytes : List Byte
  deriving DecidableEq, Repr

/-- A firmware image as the ROM finds it in a staging window (R464, R465), and what the self-test of this boot has found: the Lantern cores
that fail it, and whether the module passes. -/
structure BootImage where
  bytes : List Byte
  badCores : List Nat := []
  passed : Bool := true
  deriving DecidableEq, Repr

/-- What came over the links of one rank of a collective that has matched (R456-R458): its rank, its bytes, which are its source data or in
an EXACT sum its accumulators, and its status where it has failed. -/
structure PeerData where
  rank : Nat
  bytes : List Byte
  status : Nat := 0
  deriving DecidableEq, Repr

/-- The integer AMO operations of the RISC-V A extension (R21, R500). -/
inductive AmoOp where
  | swap | add | xor | and | or | min | max | minu | maxu
  deriving DecidableEq, Repr

/-- A memory access of a Lantern hart (R500): scalar integer loads and stores of 2^log bytes, floating loads and stores,
LR, SC and AMO, and unit-stride vector loads and stores of n elements of 2^log bytes under a mask list. -/
inductive LanOp where
  | load (log : BitVec 2) (signed : Bool) (rd : Reg)
  | store (log : BitVec 2) (rs2 : Reg)
  | fload (log : BitVec 2) (fd : Reg)
  | fstore (log : BitVec 2) (fs : Reg)
  | lr (log : BitVec 2) (rd : Reg)
  | sc (log : BitVec 2) (rd rs2 : Reg)
  | amo (op : AmoOp) (log : BitVec 2) (rd rs2 : Reg)
  | vload (log : BitVec 2) (vd : Reg) (elems : List (Nat × Dword))
  | vstore (log : BitVec 2) (vs : Reg) (elems : List (Nat × Dword))
  deriving DecidableEq, Repr

/-- The steps of the module: one constructor for each row of the opcode table, in the table's order. -/
inductive Instr where
  /-- HOST_SUBMISSION (R117): A 128-byte Deferrable Memory Write to a bound submission page is checked in order and either refused, answered as a repeat, retried or accepted. -/
  | hostSubmission (vf page : Nat) (w : HostWrite)
  /-- SUBMISSION_PAGE_BIND (R115): The guest kernel binds a submission page to a host process, setting its QMASK and resetting LASTSEQ to 0. -/
  | submissionPageBind (vf page : Nat) (qmask : Dword)
  /-- LAUNCH_EXPANSION (R122): An accepted launch is checked, its graph and shape class resolved, a join block and frames allocated, and one PERIOD record pushed per instance. -/
  | launchExpansion (p q : Nat)
  /-- COMPLETION_POST (R124): A waiting completion record is posted to the VF ring at CRTAIL when room exists, CRTAIL and PHASE advance, and the MSI-X message is sent unless NOIRQ. -/
  | completionPost (vf q : Nat)
  /-- CRHEAD_WRITE (R124): A host write of CRHEAD frees ring entries so that waiting completion records can be posted. -/
  | crheadWrite (vf : Nat) (v : Dword)
  /-- RING_ENABLE_WRITE (R123): A write of EN and LOG2N enables or disables the completion ring, resetting CRTAIL to 0 and PHASE to 1 on enable. -/
  | ringEnableWrite (vf : Nat) (v : Dword)
  /-- FUNCTION_LEVEL_RESET (R463): An FLR of a VF clears its control page and unbinds its submission pages while accepted work runs on. -/
  | functionLevelReset (vf : Nat)
  /-- REGISTER_WRITE (R7): A write to a register with no behaviour of its own sets its RW fields as its table gives. -/
  | registerWrite (r : RegSel) (v : Dword)
  /-- REGION_POP (R129): An idle region takes the next PERIOD or RESUME record of its shape class from its queue under the aging rule and starts it. -/
  | regionPop (rn : Nat)
  /-- RESERVE_PUSH_RETRY (R128): A reserve push that found the reserve full is retried by the device when room frees and is never dropped. -/
  | reservePushRetry (p q : Nat)
  /-- TRIM_POP (R329): The partition's trim-engine share pops a TRIM record, checks the command block and requests the sequence's sync object exclusive. -/
  | trimPop (p q : Nat)
  /-- TRIM_EXECUTE (R329): With the sync object granted, the trim engine checks the chain, drops tokens, writes spares, commits the new table, frees old handles, releases the object and fills the token. -/
  | trimExecute (p i : Nat)
  /-- GLOW_UPDATE_APPLY (R324): The atomic unit applies one glow update to its counter with a saturating add, or drops it and counts GLOWDROP or GLOWBAD. -/
  | glowUpdateApply (tile : Nat)
  /-- SO_GRANT (R166): A waiting shared or exclusive request on a sync object is granted when its grant condition comes to hold, carrying earlier holders' writes. -/
  | soGrant (p slot : Nat)
  /-- XLAN_WAIT_INTERRUPT (R145): An enabled interrupt taken while so.acq or xlt.sync waits withdraws the instruction, leaving no waiter entry. -/
  | xlanWaitInterrupt (h cause : Nat)
  /-- INVALIDATION_COMPLETE (R170): An issued xlt.inv completes once every core and engine has drained accesses that used the old entries. -/
  | invalidationComplete (h : Nat)
  /-- CFG_BEGIN (R50): The BEGIN stream command opens a configuration stream with its version and, in a full install, clears the region. -/
  | cfgBegin (v : BitVec 16)
  /-- CFG_END (R51): The END stream command closes the stream, runs the end-of-stream checks and sets the region READY with BEGIN's version. -/
  | cfgEnd (v : BitVec 16)
  /-- CFG_NOP (R50): The NOP stream command does nothing, requiring a zero operand. -/
  | cfgNop (v : BitVec 16)
  /-- CFG_WIN (R50): The WIN stream command selects the current 16 by 16 window of the region. -/
  | cfgWin (v : BitVec 16)
  /-- CFG_HI (R51): The HI stream command latches the upper half of the next element write's value. -/
  | cfgHi (v : BitVec 16)
  /-- CFG_SECT (R51): The SECT stream command sets the section that later element writes join. -/
  | cfgSect (v : BitVec 16)
  /-- CFG_ESC (R51): The ESC stream command makes the next word an element write to window position (15, 15). -/
  | cfgEsc (v : BitVec 16)
  /-- CFG_ZWIN (R50): The ZWIN stream command clears every good element of the current window as by ZERO. -/
  | cfgZwin (v : BitVec 16)
  /-- CFG_ELEMENT_WRITE (R52): An element write sets one configuration field of an element, or is rejected with FIELD, OP or CRC. -/
  | cfgElementWrite (idx fld : Byte) (v : BitVec 16)
  /-- CT_RULE_FIRE (R246): A CT fires its lowest-numbered holding rule, capturing heads, dequeuing, taking credits, loading slots and sending a vector through P1 to P6. -/
  | ctRuleFire (tile : Nat)
  /-- MT_RULE_FIRE (R353): An MT fires its lowest-numbered holding rule and issues the rule's operation word to one of its engines. -/
  | mtRuleFire (tile : Nat)
  /-- STREAM_RULE_FIRE (R360): An MT stream rule fires in the stream slot and moves one beat of its pattern descriptor's walk. -/
  | streamRuleFire (tile : Nat)
  /-- CLASS_DONE (R256): An element's forked class reports done in the first cycle in which its pass count, in-flight work and file writes allow. -/
  | classDone (tile : Nat) (c : EngineClass)
  /-- BARRIER_SNUFF_MERGE (R243): When every non-loop input holds the same barrier or snuff kind, the element removes those heads and enqueues one such beat on each output. -/
  | barrierSnuffMerge (tile : Nat)
  /-- RESERVED_KIND_DROP (R238): A beat of a reserved kind reaching an input head is dropped and a KIND fault record is written. -/
  | reservedKindDrop (tile ch : Nat)
  /-- INTERSECT_DISCARD (R310): The intersect pair discards an unmatched or empty head at the end of a cycle and adds 1 to ISKIP. -/
  | intersectDiscard (tile : Nat)
  /-- BEAT_TRANSFER (R375): A switch lane passes one beat to the next switch or FIFO when the next register has room, fanning out only when every route accepts. -/
  | beatTransfer (tile : Nat) (src : BeatSource)
  /-- EXPRESS_LANE_TRANSFER (R376): An express lane carries one beat in its slot between an entering and a leaving attachment of the same region and context. -/
  | expressLaneTransfer (tile lane slot : Nat)
  /-- SEAM_BEAT_RETRY (R15): A seam beat that fails its CRC is retried, and eight consecutive failures raise UELINK and retire the lane. -/
  | seamBeatRetry (seam lane : Nat) (rn : Nat)
  /-- PARTITION_REQUEST_SERVE (R365): A partition-section member serves one gather or scatter request arriving on its lane at its X port. -/
  | partitionRequestServe (tile : Nat)
  /-- GTH_RESULT_ENQUEUE (R365): Once every reply of a GTH has returned, or every write of an SCT is performed, its result or done beat is enqueued. -/
  | gthResultEnqueue (tile : Nat)
  /-- ISTRM_BLOCK_ACCEPT (R367): An indirect-stream engine checks a parameter block and accepts or refuses it, enqueuing the MT's status beat. -/
  | istrmBlockAccept (tile : Nat)
  /-- INDIRECT_STREAM_ROW (R367): An indirect-stream engine reads one index, translates the row and delivers it to the issuing region's attachment. -/
  | indirectStreamRow (stack eng : Nat)
  /-- ACQN_GRANT (R370): A waiting ACQN's request is granted or refused and its result beat is enqueued. -/
  | acqnGrant (tile : Nat)
  /-- MACRO_UNIT_START (R385): A queued macro operation starts on its loader, array or mask search unit once its cross-unit waits are met. -/
  | macroUnitStart (tile : Nat) (u : MacroUnit)
  /-- MACRO_OP_DONE (R384): A running macro operation finishes, enqueuing its column beats or landing its Y or mask writes and sending done beats. -/
  | macroOpDone (tile : Nat) (u : MacroUnit)
  /-- EMP_REQUEST (R343): An EMP takes one request beat from a channel's request FIFO, checks it, translates it and issues its units. -/
  | empRequest (rn emp ch : Nat)
  /-- EMP_WRITE_DATA (R343): An EMP takes a data beat of a raw write and writes its valid lanes to memory. -/
  | empWriteData (rn emp ch : Nat)
  /-- EMP_REPLY (R344): A memory unit returns to the EMP and its reply beat leaves on the reply channel in request order, stale incarnations dropped. -/
  | empReply (rn emp ch : Nat)
  /-- EMP_MARKER_FORWARD (R344): A punctuation, barrier or snuff marker on a request channel is forwarded to the reply side once earlier replies and writes are done. -/
  | empMarkerForward (rn emp ch : Nat)
  /-- FAULT_RECORD_WRITE (R407): A pending fault record is written at the fault queue tail when an entry is free, raising the guest kernel's fault interrupt. -/
  | faultRecordWrite (p : Nat)
  /-- FREEZE_LIMIT_EXPIRY (R347): When a withheld access's count reaches 2^FRZLIM cycles, the region is frozen with WHY 3 and the fault's FID is retired. -/
  | freezeLimitExpiry (rn : Nat)
  /-- COPY_BEAT (R210): A copy moves one beat to its destination, rechecking an MT endpoint and stopping on fault or revocation. -/
  | copyBeat (rn i : Nat)
  /-- COPY_COMPLETE (R210): A copy finishes or stops and fills its destination register with the token word. -/
  | copyComplete (rn i : Nat)
  /-- SEQ_LOAD_FILL (R206): The data of a sequencer LD or LW arrives and fills its destination register. -/
  | seqLoadFill (rn i : Nat)
  /-- BARR_COMPLETE (R220): When the barrier has arrived at every egress port, the BARR destination fills with 0 and the region is drained. -/
  | barrComplete (rn : Nat)
  /-- FREEZE_COMPLETE (R411): After in-flight firings, units and issued memory units complete, the region becomes STOPPED with its WHY. -/
  | freezeComplete (rn : Nat)
  /-- SNUFF_DRAIN_COMPLETE (R410): When every element has merged, every egress port has a marker and nothing is outstanding, the region becomes STOPPED with WHY 1. -/
  | snuffDrainComplete (rn : Nat)
  /-- SAVE_COMPLETE (R159): An rg.save finishes writing the image with its valid word last and the region returns to STOPPED. -/
  | saveComplete (rn : Nat)
  /-- LOAD_COMPLETE (R418): An rg.load finishes restoring the image into the region, which becomes STOPPED, or fails to CLAIMED. -/
  | loadComplete (rn : Nat)
  /-- REBASE_COMPLETE (R160): An rg.rebase finishes moving the context, leaving the source CLAIMED and the destination STOPPED. -/
  | rebaseComplete (rn : Nat)
  /-- REGION_ZEROING_COMPLETE (R439): The zeroing of a region's tiles after an owner change completes, after which claims covering them no longer return BUSY. -/
  | regionZeroingComplete (rn : Nat)
  /-- DEBUG_STOP (R448): An armed region reaching a reconfiguration boundary stops before the instruction with WHY 6 and the request is disarmed. -/
  | debugStop (rn : Nat)
  /-- TRACE_SAMPLE (R446): Every 2^SLOG region cycles while RUNNING, a SAMPLE trace record is written. -/
  | traceSample (rn : Nat)
  /-- PG_MIG_GRANULE (R171): A base-die engine moves one granule atomically to the target tier, withholding accesses to it and writing the DONE word after the last. -/
  | pgMigGranule (i : Nat) (frame : Option Nat)
  /-- BIST_COMPLETE (R467): A self-test finishes, writing its failure records and summary and zeroing the tested tiles. -/
  | bistComplete (h test : Nat) (fails : List BistFail) (cycles : Nat)
  /-- PART_FAILURE (R423): Maker firmware declares a part failed, starting replay of the periods that used it. -/
  | partFailure (part : FailedPart) (users lost : List Nat)
  /-- PARITY_ERROR (R433): A parity error detected at a FIFO, macro, file or delay line raises PARITY and freezes the region with WHY 4. -/
  | parityError (site : ParitySite)
  /-- MEMORY_ECC_ERROR (R433): A SECDED or ECC check on memory corrects and counts a single error or raises UEMEM for an uncorrectable one. -/
  | memoryEccError (site : EccSite) (correctable : Bool) (users : List Nat)
  /-- PATROL_SCRUB (R435): At its interval, patrol scrubbing reads memory, correcting single-bit errors and raising UEMEM for double-bit errors. -/
  | patrolScrub (site : EccSite) (err : ScrubFinding)
  /-- SERVICE_CALL (R431): A service core pops a LANTERN call record, journals it, runs the call and writes its result to the completion address. -/
  | serviceCall (p svc h : Nat) (result : Dword)
  /-- MAPPER_PLACE (R178): The mapper serves a placement request, writing the configuration stream and the result header with STATUS last. -/
  | mapperPlace (p h : Nat) (req : Dword)
  /-- STORAGE_READ (R432): The storage service fills BUF from the namespace through its cache. -/
  | storageRead (p h : Nat) (arg : Dword) (nvme : NvmeReply)
  /-- STORAGE_WRITE (R432): The storage service copies BUF into its cache, issuing FUA and waiting for NVMe completion when DURABLE. -/
  | storageWrite (p h : Nat) (arg : Dword) (nvme : NvmeReply)
  /-- STORAGE_PERSIST (R432): The storage service issues NVMe Flush and completes after the Flush completes. -/
  | storagePersist (p h : Nat) (arg : Dword) (nvme : NvmeReply)
  /-- SERVICE_WATCHDOG_EXPIRY (R428): A service that fails to reset its watchdog in time has its core reset and is restarted, replaying journalled calls by STATE. -/
  | serviceWatchdogExpiry (p svc : Nat)
  /-- LOADER_LOAD (R190): The Lantern loader checks an object, verifies its signatures, requests placement and installs it, returning one result code. -/
  | loaderLoad (rn h : Nat) (obj buf : Dword)
  /-- QUEUE_CREATE (R139): A vdqctl write with OP 1 reads and checks queue-table entry Q and creates the queue. -/
  | queueCreate (h : Nat) (v : Dword)
  /-- QUEUE_DESTROY (R139): A vdqctl write with OP 2 destroys queue Q unless records, regions or unretired periods still use it. -/
  | queueDestroy (h : Nat) (v : Dword)
  /-- PARTITION_DESCRIPTOR_UPDATE (R136): A write of vdpupd makes the device read, check and put in force or refuse a partition descriptor. -/
  | partitionDescriptorUpdate (h : Nat) (v : Dword)
  /-- VDRESUME (R348): A write of an FID to vdresume retranslates the withheld access it names, resuming it or recording a new fault. -/
  | vdresume (h : Nat) (v : Dword)
  /-- REVOKE_GRAPH (R422): A vdrevoke write with TABLE 0 frees a graph handle, so PERIOD records naming it complete REVOKED when popped. -/
  | revokeGraph (h : Nat) (v : Dword)
  /-- REVOKE_SYNC_OBJECT (R422): A vdrevoke write with TABLE 1 frees a sync object, ending every hold and giving every waiter REVOKED. -/
  | revokeSyncObject (h : Nat) (v : Dword)
  /-- REVOKE_ATTN_PAGE (R422): A vdrevoke write with TABLE 2 frees an ATTN page handle, stopping transfers that reference it and zeroing its granules. -/
  | revokeAttnPage (h : Nat) (v : Dword)
  /-- REVOKE_REGION (R422): A vdrevoke write with TABLE 3 kills and frees the region. -/
  | revokeRegion (h : Nat) (v : Dword)
  /-- REVOKE_QUEUE (R422): A vdrevoke write with TABLE 4 discards the queue's records, each retired with status REVOKED. -/
  | revokeQueue (h : Nat) (v : Dword)
  /-- FAULT_QUEUE_HEAD_WRITE (R407): A write of vdfqhead consumes fault records, freeing entries for records waiting on the device. -/
  | faultQueueHeadWrite (h : Nat) (v : Dword)
  /-- PAGE_ZERO (R440): A write of vdpgzero zeroes a physical granule, retiring once every word holds zero. -/
  | pageZero (h : Nat) (v : Dword)
  /-- DEBUG_ARM (R448): A vddebug write with ARM 1 arms a debug stop for the region. -/
  | debugArm (h : Nat) (v : Dword)
  /-- DEBUG_CANCEL (R448): A vddebug write with ARM 0 cancels an armed debug stop. -/
  | debugCancel (h : Nat) (v : Dword)
  /-- VOLTAGE_OFFSET_WRITE (R469): A write of vmdat OFFSET starts a change of the selected rail's voltage offset. -/
  | voltageOffsetWrite (h : Nat) (v : Dword)
  /-- VOLTAGE_SETTLED (R469): The rail reaches its new offset within 10 us and SETTLED becomes 1. -/
  | voltageSettled (rail : Nat)
  /-- LINK_MARGIN_RUN (R470): A write of lmdat GO starts a margining run of 2^24 bits on the shadow sampler of the selected lane. -/
  | linkMarginRun (h : Nat) (v : Dword)
  /-- LINK_MARGIN_DONE (R470): A margining run ends, clearing BUSY and recording ERRS. -/
  | linkMarginDone (phy inst lane errs : Nat)
  /-- COLD_RESET (R463): Power-on resets every register, zeroes offsets and device memory, and starts the boot sequence. -/
  | coldReset
  /-- RSTCOLD (R463): The I3C maker command RSTCOLD performs a cold reset and boot. -/
  | rstcold
  /-- RSTWARM (R463): The I3C maker command RSTWARM performs a warm reset, keeping P fields and memory contents, and boots. -/
  | rstwarm
  /-- RST (R463): Maker firmware writing RST to the boot status register performs a warm reset and boot. -/
  | rst
  /-- FIRMWARE_IMAGE_VERIFY (R466): When an image header completes in a staging window, the ROM checks the header, key hashes, SVN and both signatures and accepts or zeroes it. -/
  | firmwareImageVerify (win : Nat) (image : BootImage)
  /-- HYPERVISOR_IMAGE_LOAD (R464): The hypervisor image is taken from the leader's staging window or the leader, verified and committed. -/
  | hypervisorImageLoad (win : Nat) (image : List Byte) (epoch : Nat) (id : Dword)
  /-- AKEND_DATA_FLIT (R451): A received data flit is CRC and sequence checked and its beats land in the receive buffers of their slots. -/
  | akendDataFlit (port : Nat) (flit : List Byte)
  /-- AKEND_CREDIT_FLIT (R453): A received credit flit returns slot credits to the sender. -/
  | akendCreditFlit (port : Nat) (flit : List Byte)
  /-- AKEND_RETRY_REQUEST (R452): A received retry request makes the sender resend every flit from the named SEQ out of its retry buffer. -/
  | akendRetryRequest (port : Nat) (flit : List Byte)
  /-- AKEND_ELECTION_FLIT (R459): A received election flit is compared by precedence, adopted, acknowledged and relayed, and a candidate with a majority becomes leader. -/
  | akendElectionFlit (port : Nat) (flit : List Byte)
  /-- AKEND_IDLE_FLIT (R451): A received idle flit carries only its ACK and CRC. -/
  | akendIdleFlit (port : Nat) (flit : List Byte)
  /-- FOLLOWER_LOAD_TIMEOUT (R460): A follower seeing no load progress for 2 s discards its staged image and re-enters election at epoch + 1. -/
  | followerLoadTimeout
  /-- LEADER_HEAL (R461): When links heal between two leaders, the lower-precedence one cedes and the survivor raises its epoch and reloads the ceded followers. -/
  | leaderHeal (epoch : Nat) (id : Dword)
  /-- ALLREDUCE (R457): A collective command with OP 0 reduces the group's values and delivers the result to every rank. -/
  | allreduce (p chip : Nat) (peers : List PeerData)
  /-- REDUCE (R457): A collective command with OP 1 reduces the group's values to one rank. -/
  | reduce (p chip : Nat) (peers : List PeerData)
  /-- BROADCAST (R456): A collective command with OP 2 sends ROOT's data to every rank. -/
  | broadcast (p chip : Nat) (peers : List PeerData)
  /-- ALLGATHER (R456): A collective command with OP 3 gathers every rank's data to every rank. -/
  | allgather (p chip : Nat) (peers : List PeerData)
  /-- COLLECTIVE_DONE (R458): A collective completes and each rank's engine writes its DONE word with the combined flags and status. -/
  | collectiveDone (p chip : Nat)
  /-- COLLECTIVE_TIMEOUT (R458): When the ranks have not all matched within 2^TLOG cycles, the collective completes with TIMEOUT. -/
  | collectiveTimeout (p chip : Nat)
  /-- ADD (R203): Sequencer ADD writes A + B modulo 2^64. -/
  | add (d : Reg) (a b : Src)
  /-- SUB (R203): Sequencer SUB writes A - B modulo 2^64. -/
  | sub (d : Reg) (a b : Src)
  /-- AND (R203): Sequencer AND writes the bitwise AND. -/
  | and (d : Reg) (a b : Src)
  /-- OR (R203): Sequencer OR writes the bitwise OR. -/
  | or (d : Reg) (a b : Src)
  /-- XOR (R203): Sequencer XOR writes the bitwise XOR. -/
  | xor (d : Reg) (a b : Src)
  /-- SLL (R203): Sequencer SLL shifts A left by B[5:0]. -/
  | sll (d : Reg) (a b : Src)
  /-- SRL (R203): Sequencer SRL shifts A right by B[5:0], filling zeros. -/
  | srl (d : Reg) (a b : Src)
  /-- SRA (R203): Sequencer SRA shifts A right by B[5:0], copying bit 63. -/
  | sra (d : Reg) (a b : Src)
  /-- SLT (R203): Sequencer SLT writes 1 if A < B signed, else 0. -/
  | slt (d : Reg) (a b : Src)
  /-- SLTU (R203): Sequencer SLTU writes 1 if A < B unsigned, else 0. -/
  | sltu (d : Reg) (a b : Src)
  /-- MUL (R203): Sequencer MUL writes the low 64 bits of A times B. -/
  | mul (d : Reg) (a b : Src)
  /-- MULHU (R203): Sequencer MULHU writes the high 64 bits of the unsigned product. -/
  | mulhu (d : Reg) (a b : Src)
  /-- ADDI (R204): Sequencer ADDI adds a sign-extended immediate. -/
  | addi (d : Reg) (a : Src) (imm : BitVec 15)
  /-- ANDI (R204): Sequencer ANDI ANDs a zero-extended immediate. -/
  | andi (d : Reg) (a : Src) (imm : BitVec 15)
  /-- ORI (R204): Sequencer ORI ORs a zero-extended immediate. -/
  | ori (d : Reg) (a : Src) (imm : BitVec 15)
  /-- XORI (R204): Sequencer XORI XORs a zero-extended immediate. -/
  | xori (d : Reg) (a : Src) (imm : BitVec 15)
  /-- SLLI (R204): Sequencer SLLI shifts left by an immediate count. -/
  | slli (d : Reg) (a : Src) (sh : BitVec 6)
  /-- SRLI (R204): Sequencer SRLI shifts right logically by an immediate count. -/
  | srli (d : Reg) (a : Src) (sh : BitVec 6)
  /-- SRAI (R204): Sequencer SRAI shifts right arithmetically by an immediate count. -/
  | srai (d : Reg) (a : Src) (sh : BitVec 6)
  /-- SLTI (R204): Sequencer SLTI writes 1 if A is below the sign-extended immediate. -/
  | slti (d : Reg) (a : Src) (imm : BitVec 15)
  /-- LUI (R204): Sequencer LUI writes the 21-bit immediate shifted left by 15, sign-extended. -/
  | lui (d : Reg) (imm : BitVec 21)
  /-- BEQ (R205): Branches when A equals B. -/
  | beq (a b : Src) (off : BitVec 14)
  /-- BNE (R205): Branches when A differs from B. -/
  | bne (a b : Src) (off : BitVec 14)
  /-- BLT (R205): Branches when A is signed less than B. -/
  | blt (a b : Src) (off : BitVec 14)
  /-- BGE (R205): Branches when A is signed greater or equal to B. -/
  | bge (a b : Src) (off : BitVec 14)
  /-- BLTU (R205): Branches when A is unsigned less than B. -/
  | bltu (a b : Src) (off : BitVec 14)
  /-- BGEU (R205): Branches when A is unsigned greater or equal to B. -/
  | bgeu (a b : Src) (off : BitVec 14)
  /-- JMP (R205): Jumps by a 26-bit word offset. -/
  | jmp (off : BitVec 26)
  /-- JAL (R205): Writes PC + 4 into s31 and jumps. -/
  | jal (off : BitVec 26)
  /-- JR (R205): Writes PC + 4 into D and jumps to A, trapping BADPC on a bad target. -/
  | jr (d : Reg) (a : Src)
  /-- LD (R206): Issues an 8-byte SEQ-class load, marking D empty until the data arrives. -/
  | ld (d : Reg) (a : Src) (imm : BitVec 15)
  /-- ST (R206): Posts an 8-byte SEQ-class store. -/
  | st (b a : Src) (imm : BitVec 14)
  /-- LW (R206): Issues a 4-byte sign-extending SEQ-class load. -/
  | lw (d : Reg) (a : Src) (imm : BitVec 15)
  /-- SW (R206): Posts a 4-byte SEQ-class store. -/
  | sw (b a : Src) (imm : BitVec 14)
  /-- CPY (R209): Starts a linear copy from a 32-byte descriptor, marking D empty until the token fills. -/
  | cpy (d : Reg) (a : Src)
  /-- CPY2 (R209): Starts a two-dimensional copy from a 64-byte descriptor. -/
  | cpy2 (d : Reg) (a : Src)
  /-- CPYI (R209): Starts a copy of n 64-byte units between two endpoint registers. -/
  | cpyi (d : Reg) (a b : Src) (n : BitVec 9)
  /-- CFG (R214): Starts a partial configuration install into the sequencer's own region, filling D with a status token. -/
  | cfg (d : Reg) (a b : Src)
  /-- ARM (R215): Adds B to the pass count of section A. -/
  | arm (a b : Src)
  /-- FORK (R216): Starts the engine classes of the mask in every element of section A. -/
  | fork (a : Src) (m : BitVec 3)
  /-- RDV (R217): Waits until section A is done, ordering its writes before later instructions. -/
  | rdv (a : Src)
  /-- PUNCT (R219): Injects an end-of-round marker into the selected ingress ports and advances their rounds. -/
  | punct (a : Src)
  /-- BARR (R220): Injects a barrier token into the selected ingress ports, filling D once it reaches every egress port. -/
  | barr (d : Reg) (a : Src)
  /-- SNUF (R221): Starts the cooperative drain of the sequencer's own region and stops the sequencer. -/
  | snuf
  /-- SPAWN_RECORD (R222): SPAWN with f = 0 checks and pushes a continuation record as hq.push does. -/
  | spawnRecord (d : Reg) (a b : Src)
  /-- SPAWN_LAUNCH (R222): SPAWN with f = 1 journals, expands and pushes a launch record as lan.dispatch does. -/
  | spawnLaunch (d : Reg) (a b : Src)
  /-- JOIN (R223): Arms the join block named by an arm block, as lan.join does. -/
  | join (d : Reg) (a : Src)
  /-- RETIRE (R224): Waits for registers and sections, releases held sync objects and retires the period. -/
  | retire
  /-- YIELD (R225): Ends the period and pushes a PERIOD record with a new entry to ORIGQ from the reserve. -/
  | yield (a : Src)
  /-- ACQ (R226): Requests a hold on a sync object for the sequencer. -/
  | acq (d : Reg) (a b : Src)
  /-- REL (R227): Releases the sequencer's hold on a sync object. -/
  | rel (d : Reg) (a : Src)
  /-- FENCEX (R228): Issues a cross-class fence from the sequencer. -/
  | fencex (a b : Src)
  /-- TRIM (R229): Pushes a TRIM record, filling D with the trim result when the engine finishes. -/
  | trim (d : Reg) (a b : Src)
  /-- WAITT_ALL (R230): WAITT with f = 0 waits until all named registers are full. -/
  | waittAll (d : Reg) (a : Src)
  /-- WAITT_ANY (R230): WAITT with f = 1 waits until at least one named register is full. -/
  | waittAny (d : Reg) (a : Src)
  /-- PROF (R231): Reads the region cycle count or a phase count into D. -/
  | prof (d : Reg) (n : BitVec 9)
  /-- TRAP (R232): Raises the USER trap with code n and argument A. -/
  | trap (a : Src) (n : BitVec 9)
  /-- CSRR (R233): Reads a sequencer CSR into D. -/
  | csrr (d : Reg) (n : BitVec 9)
  /-- CSRW (R233): Writes A to a sequencer CSR. -/
  | csrw (a : Src) (n : BitVec 9)
  /-- LAN_DISPATCH (R148): Checks, journals, expands and pushes a launch record into a queue. -/
  | lanDispatch (rd rs1 rs2 : Reg)
  /-- LAN_JOIN (R149): Arms a join block from an arm block. -/
  | lanJoin (rd rs1 : Reg)
  /-- HQ_PUSH (R150): Checks and pushes a continuation record to a queue. -/
  | hqPush (rd rs1 rs2 : Reg)
  /-- HQ_POP (R151): Pops a LANTERN record from a queue into memory, or returns EMPTY. -/
  | hqPop (rd rs1 rs2 : Reg)
  /-- RG_CLAIM (R154): Claims a rectangle of tiles and a sequencer as a new region. -/
  | rgClaim (rd rs1 rs2 : Reg)
  /-- RG_CFG (R156): Starts an asynchronous full or partial configuration install into a region. -/
  | rgCfg (rd rs1 rs2 : Reg)
  /-- RG_START (R157): Attaches a READY region to a queue or resumes a STOPPED region. -/
  | rgStart (rd rs1 rs2 : Reg)
  /-- RG_SNUFF (R158): Starts the cooperative drain of a region, or detaches an IDLE one. -/
  | rgSnuff (rd rs1 : Reg)
  /-- RG_FREEZE (R158): Starts the hard stop of a region. -/
  | rgFreeze (rd rs1 : Reg)
  /-- RG_SAVE (R159): Starts writing a STOPPED region's context to an image. -/
  | rgSave (rd rs1 rs2 : Reg)
  /-- RG_LOAD (R159): Starts reading an image into a CLAIMED or READY region with rebasing. -/
  | rgLoad (rd rs1 rs2 : Reg)
  /-- RG_REBASE (R160): Starts moving a STOPPED region's context into a CLAIMED region of the same shape. -/
  | rgRebase (rd rs1 rs2 : Reg)
  /-- RG_KILL (R161): Raises the incarnation, abandons operations and zeroes the region to CLAIMED. -/
  | rgKill (rd rs1 : Reg)
  /-- RG_STAT (R162): Returns a region's state, version, incarnation, LASTERR, WHY and HELD. -/
  | rgStat (rd rs1 : Reg)
  /-- RG_FREE (R163): Zeroes a region's tiles, releases its sequencer and frees its handle. -/
  | rgFree (rd rs1 : Reg)
  /-- SO_BIND (R165): Creates, rebinds or frees a sync object. -/
  | soBind (rd rs1 rs2 : Reg)
  /-- SO_ACQ (R166): Requests a shared or exclusive hold on a sync object for an OWNER. -/
  | soAcq (rd rs1 rs2 : Reg)
  /-- SO_REL (R167): Releases an OWNER's hold on a sync object. -/
  | soRel (rd rs1 : Reg)
  /-- FENCE_X (R168): Completes once FROM-class writes ordered before it are visible to TO classes at its scope. -/
  | fenceX (rs1 rs2 : Reg)
  /-- XLT_INV (R169): Starts invalidating translation entries on every core, EMP and engine. -/
  | xltInv (rs1 rs2 : Reg)
  /-- XLT_SYNC (R170): Waits until the hart's earlier invalidations have completed. -/
  | xltSync (rd : Reg)
  /-- PG_MIG (R171): Starts migrating a range of granules to a tier. -/
  | pgMig (rd rs1 rs2 : Reg)
  /-- BIST_RUN (R172): Starts a self-test of a window, chiplet or seam. -/
  | bistRun (rd rs1 rs2 : Reg)
  /-- BIST_STAT (R173): Reports the state and record count of a self-test. -/
  | bistStat (rd rs1 : Reg)
  /-- ILLEG (R77): A sequencer word with an unassigned OPC, an ALU FN of 12 to 511, or a non-zero unused field traps ILLEG at issue and performs nothing. -/
  | illeg (w : Word)
  /-- BADPC (R201): A sequencer fetch at a PC at or beyond the SEQ section's length traps BADPC. -/
  | badpc
  /-- BADCMD (R50): A stream word with IDX 0xFF and a command code of 0x08 to 0xFF aborts the configuration stream with BADCMD. -/
  | badcmd (w : Word)
  /-- XLAN_ILLEGAL_INSTRUCTION (R79): An Xlan encoding with an unlisted funct3 and funct7 pair, or a non-zero unused register field, raises the RISC-V illegal-instruction exception. -/
  | xlanIllegalInstruction (w : Word)
  /-- LANTERN_LOAD_STORE (R500): A Lantern core performs a scalar or vector load, store, LR, SC or AMO in class LAN, doing misaligned accesses in hardware and raising the exceptions of R500. -/
  | lanternLoadStore (h : Nat) (op : LanOp) (addr : Dword)
  /-- CSR_READ (R12): A Lantern hart's read of a device CSR below its least privilege raises illegal-instruction or virtual-instruction and returns no data. -/
  | csrRead (h : Nat) (rd : Reg) (num : BitVec 12)
  /-- COLLECTIVE_RESERVED_CODE (R456): A collective command with a reserved OP, DTYPE or REDOP code, or a non-zero zero field, completes BADARG at once. -/
  | collectiveReservedCode (p chip : Nat)
  /-- AKEND_RESERVED_FLIT_TYPE (R451): A received Akend flit with TYPE 5 to 255 is dropped and counted. -/
  | akendReservedFlitType (port : Nat) (flit : List Byte)
  /-- POWER_LOSS (R430): Loss of the module's supply discards device memory, including storage-service cache contents that are not yet durable. -/
  | powerLoss
  deriving DecidableEq, Repr

end Sys2Proof
end

