-- ==== Sys2Proof/Machine/State.lean ====
section
/-! DEFINITION. The state of the VD16-M module, as plain data: every piece of state the spec names. Tables are lists of
(key, value) pairs with rising keys; a key that is not listed stands for the value after reset. -/

namespace Sys2Proof.Machine

/-- A table by number: rising keys, none twice. -/
abbrev Tbl (α : Type) := List (Nat × α)

/-- A memory: rising addresses, no listed byte equal to zero, which is what an unlisted byte reads as (R463). -/
abbrev Memory := List Host.Cell

/-- The 16 lanes of a beat or a slot (R18, R103). -/
abbrev Lanes := List Word

/-- Why the machine stops with a fault. -/
inductive Fault where
  /-- Raised by step once POWER_LOSS has happened and the module has no supply (R430); safe: nothing runs. -/
  | powerOff
  deriving DecidableEq, Repr

/-- Why the model refuses a step. -/
inductive Refusal where
  /-- An instruction with no meaning yet; raised by exec's arms only; safe. -/
  | notModelled (mnemonic : String)
  deriving DecidableEq, Repr

/-! ### Beats and records -/

/-- A beat (R103): kind, round, tag, lane-valid mask and lanes. PAR is a function of these (R104). -/
structure Beat where
  kind : BitVec 4
  rnd : BitVec 8
  tag : Word
  valid : BitVec 16
  lanes : Lanes
  deriving DecidableEq, Repr

/-- A continuation record (R126): CODE, FRAME, JOIN, FLAGS, the last with IIDX and ISTAT in bits 63:32 of the device's copy. -/
structure Cont where
  code : Dword
  frame : Dword
  join : Dword
  flags : Dword
  deriving DecidableEq, Repr

/-- A fault record (R405) before PHASE is put in. -/
structure FaultRec where
  fid : Nat
  code : BitVec 16
  src : Byte
  flags : Byte
  region : Word
  incarn : Half
  version : Half
  place : Word
  detail : Word
  addr : Dword
  aux : Dword
  tags : List Word
  part : Nat
  deriving DecidableEq, Repr

/-- The party whose access a port or engine withholds (R346, R206, R144). -/
inductive Holder where
  | port (rn emp ch : Nat)
  | seqAccess (rn i : Nat)
  | copy (rn i : Nat)
  | cfg (rn : Nat)
  | image (rn : Nat)
  | result (addr : Dword)
  | istrm (stack eng : Nat)
  | trim (p i : Nat)
  | glow (tile : Nat)
  | mig (i : Nat)
  | bist (h test : Nat)
  | join (addr : Dword)
  | coll (p chip : Nat)
  deriving DecidableEq, Repr

/-- A withheld access: its FID, its party, its region, the cycles it has been withheld, whether they count towards the
freeze limit (R347), and whether it has been resumed and waits to be translated afresh (R348). -/
structure Held where
  fid : Nat
  who : Holder
  rn : Nat
  age : Nat
  counts : Bool
  deriving DecidableEq, Repr

/-- The translation an access uses (R144, R339): partition, ASID, stage-1 root if there is one, whether stage 2 applies,
whether the agent is a supervisor hart, and whether a hart in VS-mode or VU-mode issued the work. -/
structure Xlate where
  part : Nat
  asid : Nat
  s1 : Option Nat
  s2 : Option Nat
  sup : Bool
  guest : Bool := false
  deriving DecidableEq, Repr

/-- The kinds of access (R341). -/
inductive Access where
  | read | write | atomic
  deriving DecidableEq, Repr

/-- The fault kinds of a translation (R341, R346). -/
inductive XFaultKind where
  | page | perm | format | req
  deriving DecidableEq, Repr

/-- A translation fault: kind, stage (1 or 2), guest-physical address of a stage-2 fault. -/
structure XFault where
  kind : XFaultKind
  stage : Nat
  ga : Nat
  deriving DecidableEq, Repr

/-! ### Elements -/

/-- A firing of a CT in flight (R251, R314): its age in cycles, beats, whether it renormalises, its kind, the words it fired
with, ERND at fire, the captured heads by channel and pass, the file values and header latches at fire, the slots, valid bits
and VALID mask of each pass, p7 to p0 and S as the first pass finds them in each stage, what the passes have gathered for a pair
(with the offset of its norm) or a dot product, and a trap it has raised: code, stage and lane. -/
structure Flight where
  rule : Nat
  age : Nat
  beats : Nat
  renorm : Bool
  kind : Nat
  action : Word
  map : Word
  stages : List Word
  imm : List Word
  rnd : BitVec 8
  heads : List (List (Option Beat))
  dvals : List Lanes
  hvals : List (List Half)
  dims : List Nat
  nvals : List Half
  latches : List (Option Word)
  slots : List (List Lanes)
  valids : List (List (BitVec 16))
  vmasks : List (Option (BitVec 16))
  seen : List (Word × Word)
  raw : List Word
  lAdd : Option Half
  pair : Option (List Half × Nat × Half)
  dot : Int
  trap : Option (Nat × Nat × Nat)
  deriving DecidableEq, Repr

/-- A pattern descriptor's position (R361, R415). -/
structure PatPos where
  i0 : Nat
  i1 : Nat
  i2 : Nat
  i3 : Nat
  exhausted : Bool
  deriving DecidableEq, Repr

/-- An outstanding MT operation (R373, R415): the operation word, the lanes performed, the captured ICH and DCH heads, ENQ, the
tag and round of its beats, what has come back, its offsets and g registers at fire, and the operations it waits for. -/
structure MtOp where
  op : Dword
  progress : Nat
  ich : Option Beat
  dch : Option Beat
  enq : BitVec 4
  tag : Word
  rnd : BitVec 8
  reply : List (Option Word)
  done : Bool
  off : Nat
  gA : Word
  gB : Word
  waits : List Nat
  seqNo : Nat
  deriving DecidableEq, Repr

/-- Beats that a firing of an MT owes an output (R353, R354): the output, the firing's number, the cycles to the enqueue, the
credits taken, whether it leaves only after the firing's result (R384), and the beats once known. -/
structure Owed where
  out : Nat
  op : Nat
  due : Nat
  n : Nat
  after : Bool
  beats : Option (List Beat)
  deriving DecidableEq, Repr

/-- What the firing of an MT leaves to the end of its cycle (R246, R372): S, p0 to p3, whether a pass ends and by how many
the round advances. -/
structure MtEnd where
  st : BitVec 6
  preds : BitVec 4
  pass : Bool
  round : Nat
  deriving DecidableEq, Repr

/-- A request in the partition network (R365): the issuing tile and its operation's number, the lanes, the member's X
offset, the size in bytes, and the data of a scatter. -/
structure NetReq where
  src : Nat
  op : Nat
  lane : Nat
  off : Nat
  size : Nat
  data : Option Dword
  deriving DecidableEq, Repr

/-- One B tile of a macro (R377): values, scales, spares as differences from the cleared state, the side flag, and the
places whose mask bit is 0. -/
structure MacTile where
  b : Tbl Byte
  scale : Tbl Byte
  spare : Tbl Byte
  e2b : Bool
  dropped : List Nat
  deriving DecidableEq, Repr

/-- A macro unit (R378): the running operation and those waiting. -/
structure MacUnit where
  running : Option MtOp
  waiting : List MtOp
  deriving DecidableEq, Repr

/-- A glow update (R323): handle, slot and binary32 weight. -/
structure Glow where
  handle : Word
  slot : Word
  weight : Word
  deriving DecidableEq, Repr

/-- A beat on a route (R375, R376): its source, numbered 16 · tile + code, and the beat. -/
structure Hop where
  src : Nat
  beat : Beat
  deriving DecidableEq, Repr

/-- A tile: its element's configuration and state (R54, R57, R235) and its switch (R60, R375, R376). `deqs` are the beats each
input loses and `arr` those it gains at the end of the present cycle (R238); `gone` are the beats that have left each output and
`came` the stages of delay lines that have taken a beat in the present cycle (R239, R240); `macHeld` is the rule that a MACC holds
at fire (R386); `hold` and `shold` are the cycles for which the
fire slot and the stream slot of an MT are still held (R353, R360). -/
structure Tile where
  fields : Tbl Word
  pctr : Nat
  pbuf : List Word
  crcLo : BitVec 16
  crcAcc : BitVec 32
  st : BitVec 6
  preds : BitVec 4
  pend : List Nat
  kmask : List (BitVec 16)
  empty : BitVec 8
  d : List Lanes
  h : List (List Half)
  dim : List Nat
  n : List Half
  treg : Word
  ernd : BitVec 8
  passc : Nat
  status : BitVec 6
  iskip : Word
  latch : List (Option Word)
  inF : List (List Beat)
  outF : List (List Beat)
  dly : List (List (Option Beat))
  loopIn : BitVec 4
  flights : List Flight
  hold : Nat
  shold : Nat
  owed : List Owed
  mtEnd : Option MtEnd
  deqs : List Nat
  arr : List (List Beat)
  gone : List Nat
  came : List (Nat × Nat)
  macHeld : Option Nat
  forked : BitVec 3
  doneCls : BitVec 3
  trap : Option (BitVec 16)
  merged : Bool
  sect : Option Nat
  glow : List Glow
  g : List Word
  pats : List PatPos
  banks : Memory
  ops : List MtOp
  opNo : Nat
  net : List NetReq
  mac : List MacTile
  units : List MacUnit
  lanes : Tbl Hop
  xbuf : Tbl (List Hop)
  deriving DecidableEq, Repr

/-! ### Sequencers and regions -/

/-- A scalar access a sequencer has issued (R206): whether a store, its destination, address, size and data, the PC that
issued it. -/
structure SeqAcc where
  store : Bool
  reg : Reg
  va : Dword
  size : Nat
  data : Dword
  pc : Nat
  deriving DecidableEq, Repr

/-- An outstanding copy (R209, R417): its form, descriptor address while unread, endpoints, row length, rows, strides,
decode flag, bytes done, status, token register and issuing PC. -/
structure Copy where
  form : Nat
  desc : Option Dword
  src : Dword
  dst : Dword
  len : Nat
  rows : Nat
  sstride : Int
  dstride : Int
  dec : Bool
  done : Nat
  status : Nat
  reg : Reg
  pc : Nat
  ord : Nat
  raw : List Byte
  buf : List Byte
  off : Nat
  deriving DecidableEq, Repr

/-- A graph sequencer (R198, R233). -/
structure Seq where
  regs : List Dword
  full : BitVec 32
  pc : Nat
  scr : List Dword
  profbase : Dword
  acc : Tbl SeqAcc
  copies : Tbl Copy
  opNo : Nat
  cfgReg : Option Reg
  barr : Option (Reg × BitVec 8)
  acqWait : Option (Reg × Word)
  trims : List (Nat × Reg)
  trapped : Option (BitVec 16)
  stopNext : Bool
  first : Bool
  deriving DecidableEq, Repr

/-- Region states (R152). -/
inductive RgState where
  | claimed | installing | ready | idle | running | draining | freezing | stopped | saving | loading
  deriving DecidableEq, Repr

/-- A configuration install in progress (R49-R53, R191-R195). -/
structure Install where
  full : Bool
  byCfg : Bool
  va : Dword
  count : Nat
  next : Nat
  xl : Xlate
  result : Dword
  reg : Reg
  pc : Nat
  begun : Bool
  ended : Bool
  version : Half
  win : Option (Nat × Nat)
  section_ : Nat
  hi : Option Half
  esc : Bool
  crcHi : Option Word
  crcEsc : Option Word
  touched : List Nat
  deriving DecidableEq, Repr

/-- An asynchronous context operation (R159, R160). -/
inductive AsyncOp where
  | save (va : Dword) (xl : Xlate)
  | load (va : Dword) (xl : Xlate)
  | rebaseFrom (dst : Nat)
  | rebaseTo (src : Nat)
  deriving DecidableEq, Repr

/-- A request an EMP channel carries out (R343): address, COUNT, OP, next unit, tag, and the address of the next unit. -/
structure PortReq where
  va : Dword
  count : Nat
  op : Nat
  next : Nat
  tag : Word
  cur : Nat
  deriving DecidableEq, Repr

/-- An indirect stream (R366, R367): its issuing region and incarnation, block bytes, next index, the row it is delivering, and
whether the read of its next index has been withheld and not been made since. -/
structure IStream where
  rn : Nat
  incarn : Half
  block : List Byte
  next : Nat
  row : Option PortReq
  stuck : Bool
  deriving DecidableEq, Repr

/-- A pod channel on a port in link mode (R454): its number here, the Akend port, and its pod number, partition and number on the remote
module. -/
structure PodLink where
  chan : Nat
  aport : Nat
  rpod : Nat
  rpart : Nat
  rchan : Nat
  deriving DecidableEq, Repr

/-- One channel of an EMP for one region (R499): the request FIFO, the request in progress, a raw write expecting data,
the reply buffer with the incarnation of each beat, the port's round, whether a token of the channel has been withheld and not
passed since (R346), the markers that wait behind it (R219), the flags of R417, the indirect streams paused at it, and in link mode the
pod channels of its ingress and egress sides and the beats of the egress side not yet sent (R454, R455). -/
structure Port where
  reqF : List Beat
  cur : Option PortReq
  wr : Option PortReq
  reply : List (Half × Beat)
  round : BitVec 8
  wait : Bool
  marks : List (BitVec 4)
  snuff : Bool
  barrIn : Bool
  barrOut : Bool
  snuffOut : Bool
  streams : List IStream
  linkIn : Option PodLink
  linkOut : Option PodLink
  egress : List Beat
  deriving DecidableEq, Repr

/-- What a section keeps for RDV and the phase counts (R216, R217, R442). -/
structure Sect where
  forked : BitVec 3
  forkCycle : Option Nat
  firstEnd : Option Nat
  lastEnd : Nat
  deriving DecidableEq, Repr

/-- A copy-on-write shadow (R424): the granule it stands for, its guest-physical address, the shadow's granule and its guest-physical
address in the shadow pool. -/
structure Shadow where
  pa : Nat
  ga : Nat
  own : Nat
  sga : Nat
  deriving DecidableEq, Repr

/-- A region (R152-R162), by its module region number. -/
structure Region where
  part : Nat
  slot : Nat
  gen : Nat
  ocol : Nat
  orow : Nat
  width : Nat
  height : Nat
  state : RgState
  version : Half
  incarn : Half
  lasterr : Byte
  why : Nat
  frzWhy : Nat
  attach : Option (Word × Nat)
  run : Option Cont
  period : Nat
  origq : Word
  code : List Word
  seq : Seq
  sects : Tbl Sect
  inst : Option Install
  async : Option AsyncOp
  zeroing : Bool
  freeing : Bool
  cycles : Nat
  phase : Nat
  phaseStart : Nat
  cfgFrom : Option Nat
  cfgLoad : Nat
  prof : List Nat
  saved : Bool
  debug : Bool
  warm : Bool
  inPlace : Bool
  shadows : List Shadow
  firings : Nat
  beatsOut : Nat
  sampleAt : Nat
  pushIdx : Nat
  deriving DecidableEq, Repr

/-- What the device keeps of a context whose image it has written, for what the format of R414 has no place for
(notes/assumptions 29): the region, its tiles by module number, and its ports by 4 · EMP + channel with the streams that feed
them. -/
structure Kept where
  reg : Region
  tiles : Tbl Tile
  ports : Tbl Port
  deriving DecidableEq, Repr

/-! ### Partitions -/

/-- A party that holds or waits for a sync object (R166, R419). -/
inductive SoParty where
  | owner (n : Nat)
  | seq (rn : Nat)
  | trim (i : Nat)
  | orphan
  deriving DecidableEq, Repr

/-- How a waiting request is answered (R166, R226, R370). -/
inductive SoReply where
  | hart (h : Nat) (rd : Reg)
  | seqReg (rn : Nat) (rd : Reg)
  | mtOp (tile op : Nat)
  | trim (i : Nat)
  deriving DecidableEq, Repr

/-- A granted hold: party, mode, scope and hold tag (R419). -/
structure SoHold where
  who : SoParty
  excl : Bool
  scope : Nat
  tag : Nat
  deriving DecidableEq, Repr

/-- A waiting request (R166). -/
structure SoWait where
  who : SoParty
  excl : Bool
  scope : Nat
  reply : SoReply
  deriving DecidableEq, Repr

/-- A sync object (R165). -/
structure SyncObj where
  classes : BitVec 9
  exclOnly : Bool
  ranges : List (Nat × Nat)
  holds : List SoHold
  waits : List SoWait
  nextTag : Nat
  deriving DecidableEq, Repr

/-- A loaded graph (R29, R190): its hash and SEQ sections. -/
structure Graph where
  ghash : List Byte
  seqs : List (List Word)
  inPlace : Bool
  deriving DecidableEq, Repr

/-- A record in a ring (R126, R128): the record with IIDX and ISTAT, whether it stands in the reserve, the number of
the period it replays (R425), and the number of the TRIM instruction that pushed it. -/
structure QRec where
  cont : Cont
  rsv : Bool
  period : Option Nat
  trim : Option Nat
  deriving DecidableEq, Repr

/-- A hardware queue (R128, R138). -/
structure Queue where
  asid : Nat
  s1root : Nat
  share : Nat
  log2n : List Nat
  ring : List Nat
  recs : List (List QRec)
  age : Nat
  accNo : Nat
  rsv : List QRec
  deriving DecidableEq, Repr

/-- What a launch's join block does when it fires (R122, R148). -/
inductive Completion where
  | host (vf page : Nat) (seq : Dword) (ctag : Word) (noirq : Bool)
  | parent (addr : Dword) (iidx : Nat)
  | nothing
  deriving DecidableEq, Repr

/-- An accepted launch (R118-R125): queue, acceptance number, priority, whether its short form broke the limits of R116, record, completion action, join block
and frames once expanded, and the status once it has completed. -/
structure Launch where
  q : Nat
  accNo : Nat
  prio : Nat
  short : Bool
  record : List Byte
  act : Completion
  expanded : Bool
  join : Dword
  units : List Nat
  status : Option Nat
  deriving DecidableEq, Repr

/-- A running trim (R329): queue, record, the number of the TRIM instruction that pushed it, its command block once read, the handle of the object it has
requested, whether that has been granted, the status of a trim that has failed, the stack whose trim engine runs it (R20), and, of a trim
whose work is done and whose result is still to be written, the status of its record and the two words of the result (R329, R346). -/
structure Trim where
  q : Nat
  cont : Cont
  num : Option Nat
  cmd : List Byte
  so : Option Word
  granted : Bool
  fail : Option Nat
  stack : Option Nat
  ended : Option (Nat × Dword × Dword)
  deriving DecidableEq, Repr

/-- A join-block change waiting at the atomic unit (R131, R346). -/
structure JoinChange where
  addr : Dword
  xl : Xlate
  retire : Option (Nat × Nat)
  deriving DecidableEq, Repr

/-- The result of an rg.cfg whose write is withheld (R144, R156): its address, translation and bytes, and the region that takes a state and
a version once it is written. -/
structure CfgResult where
  addr : Dword
  xl : Xlate
  bytes : List Byte
  next : Option (Nat × RgState × Half)
  deriving DecidableEq, Repr

/-- A started device-run service (R428, R429): its core, the cycles its watchdog has left, and the calls it has popped and not
finished: the journal entry and the record of each. -/
structure Service where
  hart : Nat
  left : Nat
  calls : List (Nat × Cont)
  deriving DecidableEq, Repr

/-- A block in the storage service's cache (R430, R432): namespace, logical block, bytes, and whether it is durable. -/
structure CacheBlock where
  ns : Nat
  lba : Nat
  bytes : List Byte
  durable : Bool
  deriving DecidableEq, Repr

/-- The quotas and fields of a partition descriptor in force (R137). -/
structure Desc where
  reqsig : Bool
  fqlog : Nat
  frzlim : Nat
  trlog : Nat
  s2root : Nat
  sctab : Nat
  attntab : Nat
  attnstat : Nat
  fqbase : Nat
  trbase : Nat
  errblk : Nat
  svctab : Nat
  qtab : Nat
  framebase : Nat
  framelen : Nat
  frameva : Nat
  shadowbase : Nat
  shadowlen : Nat
  pchtab : Nat
  coldesc : Nat
  keytab : Nat
  nstab : Nat
  nattn : Nat
  quotas : List Nat
  deriving DecidableEq, Repr

/-- A placement in the mapper's cache (R180, R187): its key, the CANON section, shape, origin and maps it is of, the columns and rows of its
nodes, the switch fields of its tiles by region-relative number, and its stream. -/
structure Placement where
  key : List Byte
  canon : List Byte
  wd : Nat
  ht : Nat
  ox : Nat
  oy : Nat
  dmver : Dword
  pos : List (Nat × Nat)
  switches : List (Nat × List (Nat × Word))
  words : List Word
  deriving DecidableEq, Repr

/-- A partition (R115, R127, R136): its descriptor, its tables of handles, the holds that a revocation ended (R422), the
queues, the roots and ASIDs of revoked queues that periods still run under, the frame area, the fault and trace rings, and the
work of its engines and services, with the mapper's cache (R180) and the storage service's (R430). -/
structure Partition where
  desc : Option Desc
  gens : Tbl Nat
  graphs : Tbl Graph
  sos : Tbl SyncObj
  ended : List (Nat × SoParty)
  rgs : Tbl Nat
  queues : Tbl Queue
  frames : List Nat
  launches : List Launch
  fqTail : Nat
  fqPhase : Bool
  fqHead : Nat
  fqWait : List FaultRec
  nextFid : Nat
  held : List Held
  irq : Bool
  trSlog : Nat
  trEn : BitVec 8
  trHead : Nat
  trTail : Nat
  trPhase : Bool
  trLost : Bool
  trims : Tbl Trim
  trimNo : Nat
  joins : List JoinChange
  results : List CfgResult
  svcs : Tbl Service
  oldq : List (Nat × Nat × Nat)
  placed : List Placement
  cache : List CacheBlock
  deriving DecidableEq, Repr

/-- A submission page (R115). -/
structure SubPage where
  qmask : Dword
  lastseq : Dword
  deriving DecidableEq, Repr

/-- The completion of a host write (R117). -/
inductive Cpl where
  | none | sc | ur | rrs
  deriving DecidableEq, Repr

/-- A virtual function (R115, R123, R124). -/
structure Vf where
  part : Option Nat
  crbase : Dword
  en : Bool
  log2n : Nat
  crhead : Nat
  phase : Bool
  crtail : Nat
  qvec : Tbl Nat
  pages : Tbl SubPage
  errs : Nat
  msixTable : Memory
  msixPba : Memory
  msgs : List Nat
  cpl : Cpl
  deriving DecidableEq, Repr

/-! ### Harts -/

/-- Privilege modes of a hart (R11). -/
inductive Mode where
  | u | vu | vs | hs | m
  deriving DecidableEq, Repr

/-- What a hart waits for (R145). -/
inductive HartWait where
  | acq (p slot : Nat) (rd : Reg)
  | sync (rd : Reg)
  deriving DecidableEq, Repr

/-- A Lantern hart (R21): RISC-V state with RISC-V's names, with the physical address and the bytes of its reservation, and the device
CSRs kept per hart. -/
structure Hart where
  x : List Dword
  f : List Dword
  v : List (List Byte)
  pc : Dword
  mode : Mode
  part : Nat
  satp : Dword
  vsatp : Dword
  hgatp : Dword
  csr : Tbl Dword
  resv : Option (Nat × List Byte)
  wait : Option HartWait
  invs : Nat
  vdpart : Nat
  vdqctl : Dword
  vmsel : Nat
  lmsel : Dword
  ddsel : Nat
  bists : Tbl (Nat × Nat × Nat × Dword × Xlate)
  bistNo : Nat
  deriving DecidableEq, Repr

/-! ### Base dies, links and the module -/

/-- The indirect-stream engines of a stack (R367): eight engines and a queue of 64. -/
structure Stack where
  engines : Tbl IStream
  queue : List IStream
  deriving DecidableEq, Repr

/-- A page migration (R171): its range, tier and DONE word, the granules moved, and its status once it has ended. -/
structure Migration where
  base : Dword
  count : Nat
  tier : Nat
  done : Dword
  xl : Xlate
  moved : Nat
  code : Option Nat
  deriving DecidableEq, Repr

/-- A voltage rail (R469). -/
structure Rail where
  offset : Int
  settled : Bool
  deriving DecidableEq, Repr

/-- A link margining selection (R470). -/
structure Margin where
  errs : Nat
  busy : Bool
  dir : Nat
  step : Nat
  deriving DecidableEq, Repr

/-- A pair of leader election (R459). -/
structure Epoch where
  epoch : Nat
  id : Dword
  deriving DecidableEq, Repr

/-- A flit that waits for room in the retry buffer of its port: TYPE, NBEAT, SLOT, CREDIT and the beat records (R451, R452). -/
structure PendFlit where
  type : Nat
  nbeat : Nat
  slot : Nat
  credit : Nat
  payload : List Byte
  deriving DecidableEq, Repr

/-- An Akend port (R450-R453): whether it is up, the lanes retired, the SEQ of its next flit, the SEQ it expects, the flits not yet
acknowledged, at most 64, those that wait for room among them, the flits sent, the beats received by slot, the credit it holds by slot,
the slots it has given credit for, the retries in a row that each lane has caused, and its counts. -/
structure Akend where
  up : Bool
  badLanes : List Nat
  txSeq : Half
  rxSeq : Half
  retry : List (List Byte)
  pend : List PendFlit
  out : List (List Byte)
  slots : Tbl (List Beat)
  credits : Tbl Nat
  granted : List Nat
  consec : Tbl Nat
  retries : Nat
  dropped : Nat
  deriving DecidableEq, Repr

/-- A collective an engine has taken (R456, R458): its command, the cycles since, whether an access of it is the one withheld, and its
status and flags once it has ended. -/
structure Coll where
  cmd : List Byte
  age : Nat
  stuck : Bool
  ended : Option (Nat × BitVec 6)
  deriving DecidableEq, Repr

/-- A journal entry (R423, R118); a push has its pusher's period number and push index, where a period made it. -/
inductive JEntry where
  | accept (p q accNo : Nat) (header : List Byte) (record : List Byte)
  | push (p q : Nat) (c : Cont) (by_ : Option (Nat × Nat))
  | result (period idx : Nat) (word : Dword)
  | pop (period p q lvl rn : Nat) (c : Cont)
  | lanternPop (p q lvl h : Nat) (c : Cont)
  | join (p : Nat) (addr : Dword) (count : Nat)
  | commit (period : Nat) (image : List Byte)
  | switch (period : Nat) (pairs : List (Nat × Nat))
  | trimPush (period idx num : Nat)
  | trimToken (p num : Nat) (word : Dword)
  | retire (period : Nat)
  | trim (p : Nat) (table : Dword) (gen : Nat)
  deriving DecidableEq, Repr

/-- Fuses (R24, R25, R464, R466, R472): whether they load and the clocks lock, stepping, chip ID, fused elements and lost windows by number,
fused cores and sequencers, the version of each chiplet's map, key hashes and the minimum security version, and the repaired seam lanes (1,024 for each chiplet), pseudo-channels
(512 for each chiplet) and Akend lanes (64 for each chiplet) by number. -/
structure Fuses where
  loads : Bool
  step : Nat
  chipId : Dword
  elems : List Nat
  lost : List Nat
  cores : List Nat
  seqs : List Nat
  mapVersions : List Word
  keyHash : List Byte
  lmsHash : List Byte
  minSvn : Nat
  seamLanes : List Nat
  pcs : List Nat
  akLanes : List Nat
  deriving DecidableEq, Repr

/-- Which agent moves next: a passing fclk cycle, a sequencer, a hart, an install engine, or a step with no word. -/
inductive Move where
  | tick
  | seq (sq : Nat)
  | hart (h : Nat)
  | stream (rn : Nat)
  | ev (i : Instr)
  deriving DecidableEq, Repr

/-- The module. -/
structure State where
  agenda : List Move
  power : Bool
  cycle : Nat
  freeCtr : Nat
  curSeq : Nat
  curHart : Nat
  curReg : Nat
  mem : Memory
  fuses : Fuses
  bootstat : Byte
  staging : List (List Byte)
  lastWin : Nat
  firmware : Option (List Byte)
  hvImage : Option (List Byte)
  vdtab : Nat
  updBad : Bool
  updOffset : Nat
  updPart : Nat
  modErr : List Nat
  hvq : List FaultRec
  mkq : List FaultRec
  failed : List FailedPart
  journal : List JEntry
  /-- The entries that the journal has room for: the model's own field, the spec gives no size (R117; notes/assumptions 25). -/
  journalCap : Nat
  periodNo : Nat
  seamFails : Tbl Nat
  seamRetired : List Nat
  vfs : Tbl Vf
  parts : Tbl Partition
  regions : Tbl Region
  tiles : Tbl Tile
  ports : Tbl Port
  harts : Tbl Hart
  dies : Tbl Stack
  migs : Tbl Migration
  rails : Tbl Rail
  margins : Tbl Margin
  akend : Tbl Akend
  podX : BitVec 4
  podY : BitVec 4
  epoch : Epoch
  best : Option Epoch
  acks : List Nat
  nmod : Nat
  leader : Bool
  selfOk : Bool
  /-- The leader that loaded this module's hypervisor image (R461), and the cores that the self-test of this boot found bad (R464). -/
  loadedBy : Option Dword
  outCores : List Nat
  colls : Tbl (List Coll)
  collHead : Tbl Nat
  lostPeriods : List Nat
  /-- The granules that running periods have used: period and granule number (R426). -/
  used : List (Nat × Nat)
  /-- The granules that held a word that could not be read (R426). -/
  lostGran : List Nat
  saves : List (List Byte × Kept)
  deriving DecidableEq, Repr

/-! ### The state after reset -/

/-- A cleared tile (R236, R377). -/
def Tile.cleared : Tile :=
  { fields := [], pctr := 0, pbuf := [], crcLo := 0, crcAcc := 0xFFFFFFFF, st := 0, preds := 0, pend := []
    kmask := [0, 0, 0, 0], empty := 0
    d := List.replicate 4 (List.replicate 16 0), h := List.replicate 2 (List.replicate 128 0)
    dim := [128, 128], n := [0x8000, 0x8000], treg := 0, ernd := 0, passc := 0, status := 0, iskip := 0
    latch := [none, none, none, none], inF := [[], [], [], []], outF := [[], [], [], []], dly := [[], [], [], []]
    loopIn := 0, flights := [], hold := 0, shold := 0, owed := [], mtEnd := none, deqs := [0, 0, 0, 0]
    arr := [[], [], [], []], gone := [0, 0, 0, 0], came := [], macHeld := none, forked := 0, doneCls := 0, trap := none
    merged := false, sect := none, glow := [], g := List.replicate 8 0
    pats := List.replicate 4 { i0 := 0, i1 := 0, i2 := 0, i3 := 0, exhausted := false }
    banks := [], ops := [], opNo := 0, net := []
    mac := List.replicate 4 { b := [], scale := [], spare := [], e2b := false, dropped := [] }
    units := List.replicate 3 { running := none, waiting := [] }, lanes := [], xbuf := [] }

/-- A sequencer with its registers zero and full (R122, R439). -/
def Seq.zero : Seq :=
  { regs := List.replicate 32 0, full := 0xFFFFFFFF, pc := 0, scr := List.replicate 8 0, profbase := 0, acc := []
    copies := [], opNo := 0, cfgReg := none, barr := none, acqWait := none, trims := [], trapped := none, stopNext := false, first := false }

/-- An empty EMP channel of a region. -/
def Port.empty : Port :=
  { reqF := [], cur := none, wr := none, reply := [], round := 0, wait := false, marks := [], snuff := false, barrIn := false, barrOut := false
    snuffOut := false, streams := [], linkIn := none, linkOut := none, egress := [] }

/-- A hart after reset: M-mode, registers zero (notes/assumptions 1 and 3). -/
def Hart.reset : Hart :=
  { x := List.replicate 32 0, f := List.replicate 32 0, v := List.replicate 32 (List.replicate 32 0), pc := 0, mode := .m
    part := 0, satp := 0, vsatp := 0, hgatp := 0, csr := [], resv := none, wait := none, invs := 0
    vdpart := 0, vdqctl := 0, vmsel := 0, lmsel := 0, ddsel := 0, bists := [], bistNo := 0 }

/-- A VF after reset (R123): every register zero but PHASE, assigned to no partition. -/
def Vf.reset : Vf :=
  { part := none, crbase := 0, en := false, log2n := 0, crhead := 0, phase := true, crtail := 0, qvec := [], pages := []
    errs := 0, msixTable := [], msixPba := [], msgs := [], cpl := .none }

/-- An inactive partition (R136). -/
def Partition.inactive : Partition :=
  { desc := none, gens := [], graphs := [], sos := [], ended := [], rgs := [], queues := [], frames := [], launches := []
    fqTail := 0, fqPhase := true, fqHead := 0, fqWait := [], nextFid := 1, held := [], irq := false, trSlog := 0, trEn := 0
    trHead := 0, trTail := 0, trPhase := true, trLost := false, trims := [], trimNo := 0, joins := [], results := [], svcs := []
    oldq := [], placed := [], cache := [] }

/-- Idle indirect-stream engines. -/
def Stack.idle : Stack := { engines := [], queue := [] }

/-- A rail after reset (R469). -/
def Rail.reset : Rail := { offset := 0, settled := true }

/-- A margining selection after reset (R470). -/
def Margin.reset : Margin := { errs := 0, busy := false, dir := 0, step := 0 }

/-- An Akend port after reset: down (R450). -/
def Akend.reset : Akend :=
  { up := false, badLanes := [], txSeq := 0, rxSeq := 0, retry := [], pend := [], out := [], slots := [], credits := [], granted := [], consec := []
    retries := 0, dropped := 0 }

/-- The fuses of a module with no defect (notes/assumptions 11). -/
def Fuses.allGood : Fuses :=
  { loads := true, step := 1, chipId := 0, elems := [], lost := [], cores := [], seqs := [], mapVersions := List.replicate 16 0, keyHash := List.replicate 48 0, lmsHash := List.replicate 32 0
    minSvn := 0, seamLanes := [], pcs := [], akLanes := [] }

/-- The module right after a cold reset (R463): every register at its Reset column, device memory zero, no partition in
force, no work. -/
def State.reset : State :=
  { agenda := [], power := true, cycle := 0, freeCtr := 0, curSeq := 0, curHart := 0, curReg := 0, mem := []
    fuses := Fuses.allGood, bootstat := 0, staging := [[], []], lastWin := 0, firmware := none, hvImage := none, vdtab := 0
    updBad := false, updOffset := 0, updPart := 0, modErr := [0, 0, 0, 0], hvq := [], mkq := [], failed := [], journal := [], journalCap := 2 ^ 32, periodNo := 0
    seamFails := [], seamRetired := [], vfs := [], parts := [], regions := [], tiles := [], ports := [], harts := []
    dies := [], migs := [], rails := [], margins := [], akend := [], podX := 0, podY := 0
    epoch := { epoch := 0, id := 0 }, best := none, acks := [], nmod := 1, leader := false, selfOk := false, loadedBy := none, outCores := []
    colls := [], collHead := [], lostPeriods := [], used := [], lostGran := [], saves := [] }

end Sys2Proof.Machine
end

