-- ==== Sys2Proof/Machine/Base.lean ====
section
/-! DEFINITION. Helpers every meaning uses: bit fields, little-endian bytes (R2), tables, the canonical memory, CRCs (R53,
R451). -/

namespace Sys2Proof.Machine

/-! ### Bit fields -/

/-- x[h:l] of a number (R9). -/
def nbits (x h l : Nat) : Nat := x / 2 ^ l % 2 ^ (h + 1 - l)

/-- x[h:l] of a word, as a number. -/
def bits {n : Nat} (x : BitVec n) (h l : Nat) : Nat := nbits x.toNat h l

/-- Bit i of a word. -/
def bit {n : Nat} (x : BitVec n) (i : Nat) : Bool := x.getLsbD i

/-- 1 for true. -/
def b2n (b : Bool) : Nat := if b then 1 else 0

/-- A number as a word of n bits. -/
def w {n : Nat} (x : Nat) : BitVec n := BitVec.ofNat n x

/-- The two's complement value of the low n bits of x (R81). -/
def snat (n x : Nat) : Int := let y := x % 2 ^ n; if y < 2 ^ (n - 1) then (y : Int) else (y : Int) - 2 ^ n

/-- An integer modulo 2^n as a word. -/
def wi (n : Nat) (x : Int) : BitVec n := BitVec.ofInt n x

/-- The value of cat of 16-bit halves. -/
def cat16 (hi lo : BitVec 16) : Word := hi ++ lo

/-- The numbers below n whose bit of x is set, ascending. -/
def setBits (x n : Nat) : List Nat := (List.range n).filter (fun i => x.testBit i)

/-! ### Little-endian bytes (R2) -/

/-- The value of bytes, the least significant first. -/
def leNat : List Byte → Nat
  | [] => 0
  | b :: bs => b.toNat + 256 * leNat bs

/-- The k bytes of a number, the least significant first. -/
def leBytes (x : Nat) : Nat → List Byte
  | 0 => []
  | k + 1 => BitVec.ofNat 8 x :: leBytes (x / 256) k

/-- The k bytes at an offset of a block, read as a number. -/
def fieldAt (bs : List Byte) (off k : Nat) : Nat := leNat ((bs.drop off).take k)

/-- Whether every byte of a block from lo up to hi (not included) is zero. -/
def zeroAt (bs : List Byte) (lo hi : Nat) : Bool := ((bs.drop lo).take (hi - lo)).all (· == 0)

/-- The big-endian value of bytes, for the keys and signatures of R35. -/
def beNat (bs : List Byte) : Nat := leNat bs.reverse

/-! ### Tables -/

/-- The value listed under a key. -/
def Tbl.find {α : Type} : Tbl α → Nat → Option α
  | [], _ => none
  | (k, v) :: t, x => if k = x then some v else Tbl.find t x

/-- A table with a value listed under a key. -/
def Tbl.put {α : Type} : Tbl α → Nat → α → Tbl α
  | [], x, v => [(x, v)]
  | (k, u) :: t, x, v =>
    if x < k then (x, v) :: (k, u) :: t
    else if x = k then (x, v) :: t
    else (k, u) :: Tbl.put t x v

/-- A table with no value under a key. -/
def Tbl.del {α : Type} (t : Tbl α) (x : Nat) : Tbl α := t.filter (fun e => e.1 != x)

/-- The value under a key, or what an unlisted key stands for. -/
def Tbl.get {α : Type} (t : Tbl α) (x : Nat) (dflt : α) : α := (Tbl.find t x).getD dflt

/-- Element i of a list, or a default. -/
def nth {α : Type} (l : List α) (i : Nat) (dflt : α) : α := (l[i]?).getD dflt

/-- Lane l of a slot, zero beyond the list. -/
def lane (l : Lanes) (i : Nat) : Word := nth l i 0

/-- Sixteen lanes by number. -/
def lanesOf (f : Nat → Word) : Lanes := (List.range 16).map f

/-! ### Memory -/

/-- The byte at an address: zero where nothing is listed (R463). -/
def Memory.get : Memory → Nat → Byte
  | [], _ => 0
  | (k, v) :: t, a => if k = a then v else if a < k then 0 else Memory.get t a

/-- A memory with one byte written, in canonical form: a zero byte is not listed. -/
def Memory.put : Memory → Nat → Byte → Memory
  | [], a, v => if v = 0 then [] else [(a, v)]
  | (k, u) :: t, a, v =>
    if a < k then (if v = 0 then (k, u) :: t else (a, v) :: (k, u) :: t)
    else if a = k then (if v = 0 then t else (a, v) :: t)
    else (k, u) :: Memory.put t a v

/-- The addresses rise strictly and no listed byte is zero. -/
def Memory.wf : Memory → Bool
  | [] => true
  | [(_, v)] => v != 0
  | (a, v) :: (b, u) :: t => v != 0 && decide (a < b) && Memory.wf ((b, u) :: t)

/-- The k bytes from an address. -/
def Memory.read (m : Memory) (a : Nat) : Nat → List Byte
  | 0 => []
  | k + 1 => m.get a :: Memory.read m (a + 1) k

/-- The bytes written from an address. -/
def Memory.write (m : Memory) (a : Nat) : List Byte → Memory
  | [] => m
  | b :: bs => Memory.write (m.put a b) (a + 1) bs

/-- Memory with the bytes from lo to hi (not included) zero: none of them is listed. -/
def Memory.zero (m : Memory) (lo hi : Nat) : Memory := m.filter (fun c => decide (c.1 < lo) || decide (hi ≤ c.1))

/-- The k bytes from an address as a number (R2). -/
def Memory.readN (m : Memory) (a k : Nat) : Nat := leNat (m.read a k)

/-- A number written as k bytes. -/
def Memory.writeN (m : Memory) (a k x : Nat) : Memory := m.write a (leBytes x k)

/-! ### CRCs -/

/-- One bit of a reflected CRC. -/
def crcBit (poly c : BitVec 32) : BitVec 32 := if c.getLsbD 0 then (c >>> 1) ^^^ poly else c >>> 1

/-- One byte into a reflected CRC register. -/
def crcByte (poly c : BitVec 32) (b : Byte) : BitVec 32 :=
  (List.range 8).foldl (fun a _ => crcBit poly a) (c ^^^ b.setWidth 32)

/-- A reflected CRC over bytes from a register value. -/
def crcRun (poly c : BitVec 32) (bs : List Byte) : BitVec 32 := bs.foldl (crcByte poly) c

/-- The Castagnoli polynomial of R53, reflected. -/
def castagnoli : BitVec 32 := 0x82F63B78

/-- The IEEE 802.3 polynomial of R451, reflected. -/
def ieee8023 : BitVec 32 := 0xEDB88320

/-- CRC-32C (R53). -/
def crc32c (bs : List Byte) : BitVec 32 := crcRun castagnoli 0xFFFFFFFF bs ^^^ 0xFFFFFFFF

/-- CRC-32 of a flit (R451). -/
def crc32 (bs : List Byte) : BitVec 32 := crcRun ieee8023 0xFFFFFFFF bs ^^^ 0xFFFFFFFF

end Sys2Proof.Machine
end

