-- ==== Sys2Proof/Machine/Ops.lean ====
section
/-! DEFINITION. The named operations on the state: access to its tables, geometry (R13-R16), handles (R127), registers of
sequencers and harts. -/

namespace Sys2Proof.Machine

open Sys2Proof.Config

/-! ### Tables of the state -/

def State.part (s : State) (p : Nat) : Partition := s.parts.get p Partition.inactive
def State.setPart (s : State) (p : Nat) (x : Partition) : State := { s with parts := s.parts.put p x }
def State.modPart (s : State) (p : Nat) (f : Partition → Partition) : State := s.setPart p (f (s.part p))

def State.region? (s : State) (rn : Nat) : Option Region := s.regions.find rn
def State.setRegion (s : State) (rn : Nat) (x : Region) : State := { s with regions := s.regions.put rn x }
/-- A region changed by f; nothing where it does not exist. -/
def State.modRegion (s : State) (rn : Nat) (f : Region → Region) : State :=
  match s.region? rn with
  | some r => s.setRegion rn (f r)
  | none => s

def State.tile (s : State) (t : Nat) : Tile := s.tiles.get t Tile.cleared
def State.setTile (s : State) (t : Nat) (x : Tile) : State := { s with tiles := s.tiles.put t x }
def State.modTile (s : State) (t : Nat) (f : Tile → Tile) : State := s.setTile t (f (s.tile t))

/-- The number of a region's channel of an EMP in the table of ports (R499). -/
def portKey (rn emp ch : Nat) : Nat := rn * 2048 + emp * 4 + ch
def State.port (s : State) (k : Nat) : Port := s.ports.get k Port.empty
def State.setPort (s : State) (k : Nat) (x : Port) : State := { s with ports := s.ports.put k x }
def State.modPort (s : State) (k : Nat) (f : Port → Port) : State := s.setPort k (f (s.port k))

def State.hart (s : State) (h : Nat) : Hart := s.harts.get h Hart.reset
def State.setHart (s : State) (h : Nat) (x : Hart) : State := { s with harts := s.harts.put h x }
def State.modHart (s : State) (h : Nat) (f : Hart → Hart) : State := s.setHart h (f (s.hart h))

def State.vf (s : State) (v : Nat) : Vf := s.vfs.get v Vf.reset
def State.setVf (s : State) (v : Nat) (x : Vf) : State := { s with vfs := s.vfs.put v x }
def State.modVf (s : State) (v : Nat) (f : Vf → Vf) : State := s.setVf v (f (s.vf v))

def State.die (s : State) (k : Nat) : Stack := s.dies.get k Stack.idle
def State.setDie (s : State) (k : Nat) (x : Stack) : State := { s with dies := s.dies.put k x }

/-- A change of a region's sequencer. -/
def State.modSeq (s : State) (rn : Nat) (f : Seq → Seq) : State := s.modRegion rn (fun r => { r with seq := f r.seq })

/-- A choice the spec leaves to the device: below n, fresh at each use. -/
def State.pick (s : State) (n : Nat) : Nat × State :=
  (choose s.freeCtr % (if n = 0 then 1 else n), { s with freeCtr := s.freeCtr + 1 })

/-! ### Geometry -/

/-- Module column and row of a tile, and the tile at a column and row (R6, R16). -/
def tileX (t : Nat) : Nat := t % gridSide
def tileY (t : Nat) : Nat := t / gridSide
def tileAt (x y : Nat) : Nat := y * gridSide + x

/-- Whether a tile is a CT: column + row is even (R16). -/
def isCt (t : Nat) : Bool := (tileX t + tileY t) % 2 == 0

/-- The chiplet 4cy + cx of a tile (R13). -/
def chipOf (t : Nat) : Nat := tileY t / chipSide * 4 + tileX t / chipSide

/-- The module window of a tile, in row-major order of the module's 40 x 40 windows (R16). -/
def windowOf (t : Nat) : Nat := tileY t / 16 * 40 + tileX t / 16

/-- Whether a tile stands in a lost window, and whether its element is fused off (R17). -/
def State.lostAt (s : State) (t : Nat) : Bool := s.fuses.lost.contains (windowOf t)
def State.fusedAt (s : State) (t : Nat) : Bool := s.lostAt t || s.fuses.elems.contains t

/-- Whether a tile is in a region's rectangle. -/
def Region.covers (r : Region) (t : Nat) : Bool :=
  decide (r.ocol ≤ tileX t) && decide (tileX t < r.ocol + r.width) &&
  decide (r.orow ≤ tileY t) && decide (tileY t < r.orow + r.height)

/-- The region that owns a tile. -/
def State.ownerOf (s : State) (t : Nat) : Option (Nat × Region) := s.regions.find? (fun x => x.2.covers t)

/-- The tiles of a region, in row-major region-relative order. -/
def Region.tiles (r : Region) : List Nat :=
  (List.range (r.width * r.height)).map (fun i => tileAt (r.ocol + i % r.width) (r.orow + i / r.width))

/-- The tiles of a region that are not in their cleared state: the ones the table lists. -/
def State.listed (s : State) (r : Region) : List Nat := (s.tiles.map (·.1)).filter r.covers

/-- The neighbour of a tile at port N 0, E 1, S 2, W 3, if it is on the module (R60). -/
def neighbour (t port : Nat) : Option Nat :=
  match port with
  | 0 => if tileY t = 0 then none else some (t - gridSide)
  | 1 => if tileX t + 1 = gridSide then none else some (t + 1)
  | 2 => if tileY t + 1 = gridSide then none else some (t + gridSide)
  | 3 => if tileX t = 0 then none else some (t - 1)
  | _ => none

/-- The number of a lane of a seam: the switch lanes of every seam before the express lanes (R15, R376). -/
def seamLaneNo (seam lane : Nat) : Nat := if lane < 2 then 2 * seam + lane else 8 * (gridSide * gridSide) + 4 * seam + (lane - 2)

/-- The port of the neighbour that faces port p. -/
def facing (p : Nat) : Nat := (p + 2) % 4

/-- A change of every listed tile of a region. -/
def State.modListed (s : State) (r : Region) (f : Tile → Tile) : State :=
  { s with tiles := s.tiles.map (fun x => if r.covers x.1 then (x.1, f x.2) else x) }

/-- Tiles of a region cleared: no longer listed (R439, R161). -/
def State.zeroTiles (s : State) (r : Region) : State := { s with tiles := s.tiles.filter (fun x => !r.covers x.1) }

/-! ### Handles (R127) -/

/-- The tables of handles, numbered as vdrevoke does (R421). -/
def tblGraph : Nat := 0
def tblSo : Nat := 1
def tblAttn : Nat := 2
def tblRegion : Nat := 3
def tblQueue : Nat := 4

/-- Slot and generation of a handle. -/
def hSlot (h : Nat) : Nat := h % 2 ^ 20
def hGen (h : Nat) : Nat := h / 2 ^ 20 % 4096

/-- A slot's current generation; 1 before any was freed. -/
def Partition.gen (P : Partition) (tbl slot : Nat) : Nat := P.gens.get (tbl * 2 ^ 20 + slot) 1

/-- The handle of a slot. -/
def Partition.handle (P : Partition) (tbl slot : Nat) : Nat := P.gen tbl slot * 2 ^ 20 + slot

/-- Whether a slot of a table kept on the device holds a live object; the ATTN page table stands in memory (R322). -/
def Partition.live (P : Partition) (tbl slot : Nat) : Bool :=
  match tbl with
  | 0 => (P.graphs.find slot).isSome
  | 1 => (P.sos.find slot).isSome
  | 2 => false
  | 3 => (P.rgs.find slot).isSome
  | _ => slot != 0 && (P.queues.find (slot - 1)).isSome

/-- Whether a handle names a live object of the current generation. -/
def Partition.current (P : Partition) (tbl h : Nat) : Bool :=
  hSlot h != 0 && hGen h == P.gen tbl (hSlot h) && P.live tbl (hSlot h)

/-- Freeing a slot: its generation advances, 4,095 wrapping to 1. -/
def Partition.bump (P : Partition) (tbl slot : Nat) : Partition :=
  let g := P.gen tbl slot
  let P := { P with gens := P.gens.put (tbl * 2 ^ 20 + slot) (if g = 4095 then 1 else g + 1) }
  match tbl with
  | 0 => { P with graphs := P.graphs.del slot }
  | 1 => { P with sos := P.sos.del slot }
  | 2 => P
  | 3 => { P with rgs := P.rgs.del slot }
  | _ => { P with queues := P.queues.del (slot - 1) }

/-- The first slot from a start that a table does not use, within `fuel` tries. -/
def freeSlotFrom (P : Partition) (tbl : Nat) : Nat → Nat → Nat
  | 0, i => i
  | fuel + 1, i => if i != 0 && !P.live tbl i then i else freeSlotFrom P tbl fuel ((i + 1) % 2 ^ 20)

/-- A free slot of a table; which one the device takes is its choice. -/
def State.freeSlot (s : State) (p tbl : Nat) : Nat × State :=
  let r := s.pick (2 ^ 20)
  let P := s.part p
  (freeSlotFrom P tbl (P.graphs.length + P.sos.length + P.rgs.length + 66) r.1, r.2)

/-- The handle of a region. -/
def State.rgHandle (s : State) (r : Region) : Nat := (s.part r.part).handle tblRegion r.slot

/-- The region a handle of a partition names. -/
def State.rgOf (s : State) (p h : Nat) : Option (Nat × Region) :=
  if (s.part p).current tblRegion h then
    match (s.part p).rgs.find (hSlot h) with
    | some rn => (s.region? rn).map (fun r => (rn, r))
    | none => none
  else none

/-- Whether a core or a sequencer is out of service: fused off, or failed during this boot (R22, R425, R464). -/
def State.hartOut (s : State) (h : Nat) : Bool := s.fuses.cores.contains h || s.outCores.contains h || s.failed.contains (.lanternCore h)
def State.seqOut (s : State) (sq : Nat) : Bool := s.fuses.seqs.contains sq || s.failed.contains (.sequencer sq)

/-- Whether a partition's descriptor has been put in force (R136). -/
def Partition.active (P : Partition) : Bool := P.desc.isSome

/-! ### Registers -/

/-- s-register i of a sequencer; s0 reads zero (R198). -/
def Seq.get (q : Seq) (i : Reg) : Dword := if i = 0 then 0 else nth q.regs i.toNat 0
/-- Whether a register is full; s0 is always full (R198). -/
def Seq.isFull (q : Seq) (i : Reg) : Bool := i == 0 || q.full.getLsbD i.toNat
/-- A register written and full; a write to s0 is discarded (R198). -/
def Seq.set (q : Seq) (i : Reg) (v : Dword) : Seq :=
  if i = 0 then q else { q with regs := q.regs.set i.toNat v, full := q.full ||| ((1 : BitVec 32) <<< i.toNat) }
/-- A register marked empty; s0 stays full (R198). -/
def Seq.clear (q : Seq) (i : Reg) : Seq := if i = 0 then q else { q with full := q.full &&& ~~~((1 : BitVec 32) <<< i.toNat) }

/-- x-register i of a hart; x0 reads zero (R142). -/
def Hart.get (h : Hart) (i : Reg) : Dword := if i = 0 then 0 else nth h.x i.toNat 0
/-- A register written; a write to x0 is discarded (R142). -/
def Hart.set (h : Hart) (i : Reg) (v : Dword) : Hart := if i = 0 then h else { h with x := h.x.set i.toNat v }

/-- The running hart past its 4-byte word. -/
def Hart.advance (h : Hart) : Hart := { h with pc := h.pc + 4 }

/-- A hart past a word of n bytes. -/
def Hart.past (n : Nat) (h : Hart) : Hart := { h with pc := h.pc + w n }

/-! ### Result words (R142, R143) -/

/-- A result word with ERR set and a code. -/
def errWord (code : Nat) : Dword := (1 : Dword) <<< 63 ||| BitVec.ofNat 64 code

def eSTALE : Nat := 0x0001
def eQFULL : Nat := 0x0002
def eBADREC : Nat := 0x0003
def eBADJOIN : Nat := 0x0004
def eQUOTA : Nat := 0x0005
def eNOSEQ : Nat := 0x0006
def eBUSY : Nat := 0x0007
def eBADARG : Nat := 0x0008
def eEMPTY : Nat := 0x0009
def eBADSTATE : Nat := 0x000A
def eBADIMG : Nat := 0x000B
def eSHAPE : Nat := 0x000C
def eREVOKED : Nat := 0x000D
def ePGFLT : Nat := 0x000E
def eNOSHAPE : Nat := 0x000F
def eABORTED : Nat := 0x0012
def eIOERR : Nat := 0x0015
def ePRIV : Nat := 0x0016

/-! ### Completion statuses (R125) -/

def stOK : Nat := 0
def stDATALOST : Nat := 1
def stFAULT : Nat := 2
def stKILLED : Nat := 3
def stREVOKED : Nat := 4
def stSTALE : Nat := 5
def stBADREC : Nat := 6
def stNOSHAPE : Nat := 7
def stQUOTA : Nat := 8

end Sys2Proof.Machine
end

