-- ==== Sys2Proof/Machine/Akend.lean ====
section
/-! DEFINITION. Flits, and what an Akend port sends and acknowledges (R451-R453). -/

namespace Sys2Proof.Machine

/-! ### Flits (R451) -/

def flSEQ (b : List Byte) : Nat := fieldAt b 0 2
def flACK (b : List Byte) : Nat := fieldAt b 2 2
def flTYPE (b : List Byte) : Nat := fieldAt b 4 1
def flNBEAT (b : List Byte) : Nat := min 3 (fieldAt b 5 1)
def flSLOT (b : List Byte) : Nat := fieldAt b 6 2 % 1024
def flCREDIT (b : List Byte) : Nat := fieldAt b 8 4

/-- A flit with its CRC. -/
def flitOf (seq ack type nbeat slot credit : Nat) (payload : List Byte) : List Byte :=
  let b := leBytes seq 2 ++ leBytes ack 2 ++ leBytes type 1 ++ leBytes nbeat 1 ++ leBytes slot 2 ++ leBytes credit 4 ++
    (payload ++ List.replicate (240 - payload.length) 0)
  b ++ leBytes (crc32 b).toNat 4

/-- Whether the CRC of a flit is right. -/
def flitOk (b : List Byte) : Bool := fieldAt b 252 4 == (crc32 (b.take 252)).toNat

/-! ### Sending and acknowledging (R452, R453) -/

/-- An Akend port. -/
def State.ak (s : State) (port : Nat) : Akend := s.akend.get port Akend.reset
def State.modAk (s : State) (port : Nat) (f : Akend → Akend) : State := { s with akend := s.akend.put port (f (s.ak port)) }

/-- A flit sent: it takes the next SEQ, acknowledges what came in order, and stays in the retry buffer; it waits while the 64 flits of that
buffer are all unacknowledged, or another waits before it. -/
def Akend.send (a : Akend) (p : PendFlit) : Akend :=
  if a.retry.length < 64 && a.pend.isEmpty then
    let f := flitOf a.txSeq.toNat (a.rxSeq - 1).toNat p.type p.nbeat p.slot p.credit p.payload
    { a with txSeq := a.txSeq + 1, retry := a.retry ++ [f], out := a.out ++ [f] }
  else { a with pend := a.pend ++ [p] }
def State.sendFlit (s : State) (port type nbeat slot credit : Nat) (payload : List Byte) : State :=
  s.modAk port fun a => a.send { type := type, nbeat := nbeat, slot := slot, credit := credit, payload := payload }

/-- The flits that wait sent, as far as the retry buffer has room. -/
def Akend.pump (a : Akend) : Akend := a.pend.foldl Akend.send { a with pend := [] }

/-- A retry request or an idle flit sent: it carries the SEQ of the flit to come, takes none of its own, and is never sent again
(notes/assumptions 47). -/
def State.sendBare (s : State) (port type : Nat) : State :=
  s.modAk port fun a => { a with out := a.out ++ [flitOf a.txSeq.toNat (a.rxSeq - 1).toNat type 0 0 0 []] }

/-- The flits not yet acknowledged by an ACK: those of the 2^15 SEQs after it. -/
def unacked (ack : Nat) (l : List (List Byte)) : List (List Byte) :=
  l.filter (fun f => let d := (flSEQ f + 65536 - ack) % 65536; decide (0 < d) && decide (d < 32768))

/-- Credit that a flit returns: beats of a slot. -/
def Akend.credited (a : Akend) (c : Nat) : Akend :=
  let n := nbits c 17 16
  if n = 0 then a else { a with credits := a.credits.put (c % 1024) (a.credits.get (c % 1024) 0 + n) }

/-- The ACK of a flit whose CRC is right: what it acknowledges leaves the retry buffer, and the flits that wait go on; no lane has failed. -/
def Akend.acked (a : Akend) (b : List Byte) : Akend := { a with consec := [], retry := unacked (flACK b) a.retry }.pump

end Sys2Proof.Machine
end

