-- ==== Sys2Proof/Machine/Defects.lean ====
section
/-! DEFINITION. The fused defect map (R17, R22, R24, R472, R473) and its version (R181). -/

namespace Sys2Proof.Machine

open Sys2Proof.Config

/-- The bytes of a bit string of n bits, bit 0 first. -/
def bitBytes (n : Nat) (f : Nat → Bool) : List Byte :=
  (List.range (n / 8)).map fun i => w ((List.range 8).map (fun j => if f (8 * i + j) then 2 ^ j else 0)).sum

/-- The module tile of a chiplet's bitmap bit. -/
def chipTile (chip b : Nat) : Nat := tileAt (chip % 4 * chipSide + b % chipSide) (chip / 4 * chipSide + b / chipSide)

/-- The module window of a window of a chiplet. -/
def chipWindow (chip k : Nat) : Nat := (chip / 4 * 10 + k / 10) * 40 + chip % 4 * 10 + k % 10

/-- The outer edges of a chiplet, in ascending edge number (R14, R186). -/
def chipEdges (chip : Nat) : List Nat :=
  let x := chip % 4
  let y := chip / 4
  (if y = 0 then [x] else []) ++ (if x = 3 then [4 + y] else []) ++ (if y = 3 then [8 + x] else []) ++ (if x = 0 then [12 + y] else [])

/-- k bytes for each outer edge of a chiplet, then zeros. -/
def edgeBytes (chip k total : Nat) (f : Nat → List Byte) : List Byte :=
  let n := (chipEdges chip).length
  ((List.range n).map f).flatten ++ List.replicate (total - k * n) 0

/-- Whether a bit of the seam lanes of a chiplet, the east seam's 512 and then the south's, is of a seam on the outline. -/
def onOutline (chip i : Nat) : Bool := if i < 512 then chip % 4 == 3 else decide (12 ≤ chip)

/-- Bytes 0 to 3,447 of a chiplet's map (R472). -/
def State.mapBody (s : State) (chip : Nat) : List Byte :=
  let fz := s.fuses
  let elem := bitBytes 25600 (fun b => s.fusedAt (chipTile chip b))
  let wins := (List.range 100).filter (fun k => fz.lost.contains (chipWindow chip k))
  let lans := (List.range hartsPerChip).filter (fun i => fz.cores.contains (hartsPerChip * chip + i))
  let seqs := (List.range seqsPerChip).filter (fun i => fz.seqs.contains (seqsPerChip * chip + i))
  leBytes 0x4D444456 4 ++ leBytes (nth fz.mapVersions chip 0).toNat 4 ++ leBytes chip 1 ++ leBytes wins.length 1 ++
  leBytes ((List.range 25600).filter (fun b => s.fusedAt (chipTile chip b))).length 2 ++ leBytes lans.length 1 ++ leBytes seqs.length 1 ++
  leBytes 0 2 ++ elem ++ bitBytes 128 (fun k => wins.contains k) ++
  bitBytes 128 (fun k => if k < 16 then lans.contains k else seqs.contains (k - 16) && decide (k < 80)) ++
  bitBytes 1024 (fun i => !onOutline chip i && fz.seamLanes.contains (1024 * chip + i)) ++
  edgeBytes chip 32 64 (fun j => bitBytes 256 (fun q => fz.pcs.contains (512 * chip + 256 * j + q))) ++
  edgeBytes chip 2 8 (fun j => bitBytes 16 (fun q => fz.akLanes.contains (64 * chip + 16 * j + q)))

/-- The CRC field of a chiplet's map. -/
def State.mapCrc (s : State) (chip : Nat) : Word := crc32c (s.mapBody chip)

/-- The 3,456 bytes of a chiplet's map. -/
def State.mapBytes (s : State) (chip : Nat) : List Byte :=
  let b := s.mapBody chip
  b ++ leBytes (crc32c b).toNat 4 ++ leBytes 0 4

/-- DMVER: the version of chiplet (0, 0)'s map and the CRC of the maps' CRCs (R181). -/
def State.dmver (s : State) : Dword :=
  nth s.fuses.mapVersions 0 0 ++ crc32c ((List.range 16).flatMap (fun c => leBytes (s.mapCrc c).toNat 4))

/-- Good elements of a parity: those not fused off and not in a lost window. -/
def State.goodElems (s : State) (ct : Bool) : Nat :=
  ((List.range (gridSide * gridSide)).filter (fun t => isCt t == ct && !s.fusedAt t)).length

/-- vdid (R24): the good elements counted by what the map marks fused off. -/
def State.vdid (s : State) : Dword :=
  w (s.goodElems true + s.goodElems false * 2 ^ 18 + (numHarts - s.fuses.cores.length) * 2 ^ 36 +
     (numSeqs - s.fuses.seqs.length) * 2 ^ 45 + s.fuses.step % 16 * 2 ^ 60)

/-- vddmdat (R473): the word of the map that a selection names, zero above 431. -/
def State.vddmdat (s : State) (sel : Nat) : Dword :=
  if 431 < nbits sel 15 4 then 0 else w (fieldAt (s.mapBytes (nbits sel 3 0)) (8 * nbits sel 15 4) 8)

end Sys2Proof.Machine
end

