-- ==== Sys2Proof/Machine/Translate.lean ====
section
/-! DEFINITION. Two-stage translation and the accesses made through it (R338-R341), with the translation of each agent
(R144, R339). Every access walks afresh: the compositions R403 and R404 allow (notes/assumptions 16). -/

namespace Sys2Proof.Machine

open Sys2Proof.Config

/-! ### Physical memory (R338) -/

/-- Whether a physical address has a target. -/
def paTarget (pa : Nat) : Bool :=
  decide (pa < 0x30000000000) || (decide (0x8000000000000 ≤ pa) && decide (pa < 0x10000000000000))

/-- Whether a physical address is device memory, and whether it is host memory. -/
def paDevice (pa : Nat) : Bool := decide (pa < 0x30000000000)
def paHost (pa : Nat) : Bool := decide (0x8000000000000 ≤ pa) && decide (pa < 0x10000000000000)

/-- Whether a physical address lies in LPDDR-6. -/
def paLpddr (pa : Nat) : Bool := decide (0x10000000000 ≤ pa) && decide (pa < 0x30000000000)

/-- The HBM4 stack of a physical address. -/
def stackOf (pa : Nat) : Nat := pa / 0x1000000000

/-- Physical address of a host bus address. -/
def hostPa (bus : Nat) : Nat := 0x8000000000000 + bus % 2 ^ 51

/-! ### Walks (R339-R341) -/

/-- The table index of an address at a level, and the bytes a leaf of a level maps. -/
def ptIndex (lvl a : Nat) : Nat :=
  match lvl with
  | 0 => a / 2 ^ 48 % 512
  | 1 => a / 2 ^ 39 % 512
  | 2 => a / 2 ^ 30 % 512
  | 3 => a / 2 ^ 21 % 512
  | _ => a / 2 ^ 16 % 32
def leafSize (lvl : Nat) : Nat := match lvl with | 2 => 2 ^ 30 | 3 => 2 ^ 21 | _ => 2 ^ 16

/-- A leaf found by a walk: address of the byte, permissions, attribute, entry's place and bytes mapped. -/
structure Leaf where
  addr : Nat
  r : Bool
  w : Bool
  u : Bool
  fmt : Nat
  at_ : Nat
  size : Nat
  deriving DecidableEq, Repr

/-- One stage of a walk from a level, `n` levels remaining (R341). Table addresses of a stage-1 walk are turned into
physical ones by `tr`, which says why it cannot. -/
def walkFrom (m : Memory) (tr : Nat → Except XFault Nat) (a : Nat) : Nat → Nat → Except XFaultKind Leaf ⊕ XFault
  | 0, _ => .inl (.error .format)
  | n + 1, t =>
    let lvl := 4 - n
    match tr (t + 8 * ptIndex lvl a) with
    | .error f => .inr f
    | .ok ea =>
      let e := m.readN ea 8
      let adr := nbits e 51 8 * 256
      if !e.testBit 0 then .inl (.error .page)
      else if nbits e 59 52 != 0 || nbits e 7 6 != 0 then .inl (.error .format)
      else if !e.testBit 1 && !e.testBit 2 then
        if n = 0 || nbits e 63 60 != 0 || e.testBit 3 then .inl (.error .format)
        else if lvl < 3 && adr % 4096 != 0 then .inl (.error .format)
        else walkFrom m tr a n adr
      else if !e.testBit 1 || lvl < 2 then .inl (.error .format)
      else if adr % leafSize lvl != 0 then .inl (.error .format)
      else .inl (.ok { addr := adr + a % leafSize lvl, r := e.testBit 1, w := e.testBit 2, u := e.testBit 3
                       fmt := nbits e 63 60, at_ := ea, size := leafSize lvl })

/-- A stage-2 walk, faults reported as stage 2; with no stage 2 the address is physical. -/
def walk2 (m : Memory) (s2 : Option Nat) (ga : Nat) : Except XFault Leaf :=
  match s2 with
  | none => .ok { addr := ga, r := true, w := true, u := true, fmt := 0, at_ := 0, size := 2 ^ 16 }
  | some root =>
    match walkFrom m .ok ga 5 root with
    | .inl (.ok l) => .ok l
    | .inl (.error k) => .error { kind := k, stage := 2, ga := ga }
    | .inr f => .error f

/-- A stage-1 walk, its table reads translated by stage 2. -/
def walk1 (m : Memory) (x : Xlate) (va : Nat) : Except XFault Leaf :=
  match x.s1 with
  | none => .ok { addr := va, r := true, w := true, u := true, fmt := 0, at_ := 0, size := 2 ^ 16 }
  | some root =>
    match walkFrom m (fun ga => (walk2 m x.s2 ga).map (·.addr)) va 5 root with
    | .inl (.ok l) => .ok l
    | .inl (.error k) => .error { kind := k, stage := 1, ga := 0 }
    | .inr f => .error f

/-- Whether a leaf permits an access. -/
def Leaf.permits (l : Leaf) (a : Access) : Bool :=
  match a with
  | .read => l.r
  | .write => l.w
  | .atomic => l.r && l.w

/-- The translation of a virtual address (R341): physical address and format attribute. -/
def translate (m : Memory) (x : Xlate) (va : Nat) (a : Access) : Except XFault (Nat × Nat) :=
  if 2 ^ 57 ≤ va then .error { kind := .perm, stage := 1, ga := 0 }
  else
  match walk1 m x va with
  | .error f => .error f
  | .ok e1 =>
    match walk2 m x.s2 e1.addr with
    | .error f => .error f
    | .ok e2 =>
      if !e1.permits a then .error { kind := .perm, stage := 1, ga := 0 }
      else if !e2.permits a then .error { kind := .perm, stage := 2, ga := e1.addr }
      else if !e1.u && !x.sup then .error { kind := .perm, stage := 1, ga := 0 }
      else if !e2.u then .error { kind := .perm, stage := 2, ga := e1.addr }
      else if e2.fmt != 0 && e2.fmt != e1.fmt then .error { kind := .format, stage := 2, ga := e1.addr }
      else if 7 ≤ e1.fmt then .error { kind := .format, stage := 1, ga := 0 }
      else if !paTarget e2.addr then .error { kind := .perm, stage := 2, ga := e1.addr }
      else .ok (e2.addr, e1.fmt)

/-! ### Accesses of many bytes -/

/-- The granule pieces of an access of n bytes at va: address and bytes of each. -/
def pieces : Nat → Nat → Nat → List (Nat × Nat)
  | 0, _, _ => []
  | fuel + 1, va, n =>
    if n = 0 then []
    else
      let k := min n (65536 - va % 65536)
      (va, k) :: pieces fuel (va + k) (n - k)

/-- The pieces of an access. -/
def piecesOf (va n : Nat) : List (Nat × Nat) := pieces (n / 65536 + 2) va n

/-- The physical addresses of the pieces of an access, or the first fault and the offset it has in the access. -/
def locate (m : Memory) (x : Xlate) (a : Access) (va : Nat) : List (Nat × Nat) → Except (Nat × XFault) (List (Nat × Nat))
  | [] => .ok []
  | (v, k) :: t =>
    match translate m x v a with
    | .error f => .error (v - va, f)
    | .ok (pa, _) => (locate m x a va t).map (fun r => (pa, k) :: r)

/-- The n bytes at a virtual address, or the first fault. -/
def vread (m : Memory) (x : Xlate) (va n : Nat) : Except (Nat × XFault) (List Byte) :=
  (locate m x .read va (piecesOf va n)).map (fun ps => (ps.map (fun q => m.read q.1 q.2)).flatten)

/-- Bytes put at the pieces of an access. -/
def putPieces (m : Memory) : List (Nat × Nat) → List Byte → Memory
  | [], _ => m
  | (pa, k) :: t, bs => putPieces (m.write pa (bs.take k)) t (bs.drop k)

/-- Bytes written at a virtual address, or the first fault and nothing written (R500). -/
def vwrite (m : Memory) (x : Xlate) (va : Nat) (bs : List Byte) : Except (Nat × XFault) Memory :=
  (locate m x .write va (piecesOf va bs.length)).map (fun ps => putPieces m ps bs)

/-- The bytes at a guest-physical address of a partition, under its stage 2 alone. -/
def s2Xlate (p : Nat) (s2root : Nat) : Xlate := { part := p, asid := 0, s1 := none, s2 := some s2root, sup := true }

/-- The stage-2 translation of a partition's own structures (R137). -/
def State.gpa (s : State) (p : Nat) : Xlate :=
  match (s.part p).desc with
  | some d => s2Xlate p d.s2root
  | none => { part := p, asid := 0, s1 := none, s2 := none, sup := true }

/-- Bytes of a structure the descriptor names by guest-physical address; zeros where it does not translate. -/
def State.gread (s : State) (p ga n : Nat) : List Byte :=
  match vread s.mem (s.gpa p) ga n with
  | .ok bs => bs
  | .error _ => List.replicate n 0

/-- Bytes written to such a structure; nothing where it does not translate. -/
def State.gwrite (s : State) (p ga : Nat) (bs : List Byte) : State :=
  match vwrite s.mem (s.gpa p) ga bs with
  | .ok m => { s with mem := m }
  | .error _ => s

/-! ### The translation of each agent -/

/-- The translation of a queue's work (R339). -/
def State.queueXlate (s : State) (p q : Nat) : Xlate :=
  let P := s.part p
  let s2 := P.desc.map (·.s2root)
  match P.queues.find q with
  | some Q => { part := p, asid := Q.asid, s1 := some Q.s1root, s2 := s2, sup := false }
  | none => { part := p, asid := 0, s1 := some 0, s2 := s2, sup := false }

/-- The translation of the work popped from the queue of a handle; a revoked queue's root and ASID stand for the periods that
still run (R339, R422). -/
def State.handleXlate (s : State) (p h : Nat) : Xlate :=
  match (s.part p).oldq.find? (fun x => x.1 == h) with
  | some (_, asid, root) => { s.queueXlate p (hSlot h - 1) with asid := asid, s1 := some root }
  | none => s.queueXlate p (hSlot h - 1)

/-- The translation of a region's period: that of the queue its ORIGQ names (R339). -/
def State.rgXlate (s : State) (r : Region) : Xlate := s.handleXlate r.part r.origq.toNat

/-- The table root of a satp, vsatp or hgatp: MODE 14 names a root of 4 KiB pages in bits 43:0; every other MODE is bare. -/
def atpRoot (v : Dword) : Option Nat := if bits v 63 60 = 14 then some (bits v 43 0 * 4096) else none

/-- Levels of R11: 0 U, 1 GK, 2 HV, 3 MK. -/
def Mode.level (m : Mode) : Nat :=
  match m with
  | .u | .vu => 0
  | .vs => 1
  | .hs => 2
  | .m => 3

/-- The partition whose tables a hart acts on: its own, or at HV and MK that of vdpart (R146). -/
def Hart.actPart (h : Hart) : Nat := if 2 ≤ h.mode.level then h.vdpart else h.part

/-- The translation a hart uses for its own accesses and captures for asynchronous work, whose withheld accesses stand under the partition
that it acts for (R144, R146, R348). -/
def Hart.xlate (h : Hart) : Xlate :=
  match h.mode with
  | .m => { part := h.actPart, asid := 0, s1 := none, s2 := none, sup := true }
  | .hs => { part := h.actPart, asid := bits h.satp 59 44, s1 := atpRoot h.satp, s2 := none, sup := true }
  | .u => { part := h.part, asid := bits h.satp 59 44, s1 := atpRoot h.satp, s2 := none, sup := false }
  | .vs => { part := h.part, asid := bits h.vsatp 59 44, s1 := atpRoot h.vsatp, s2 := atpRoot h.hgatp, sup := true, guest := true }
  | .vu => { part := h.part, asid := bits h.vsatp 59 44, s1 := atpRoot h.vsatp, s2 := atpRoot h.hgatp, sup := false, guest := true }

end Sys2Proof.Machine
end

