-- ==== Sys2Proof/Machine/Faults.lean ====
section
/-! DEFINITION. Fault records (R405-R407), withholding of accesses (R346-R348), and the start of a freeze (R411, R413):
taking a fault as one shared operation, written from the spec's description of it. -/

namespace Sys2Proof.Machine

open Sys2Proof.Config

/-! ### Fault codes (R406) -/

def fILLEG : Nat := 0x01
def fFEEMPTY : Nat := 0x02
def fBADPC : Nat := 0x03
def fMISAL : Nat := 0x04
def fACCESS : Nat := 0x05
def fOPND : Nat := 0x06
def fVERMIS : Nat := 0x07
def fUSER : Nat := 0x08
def fEEMPTY : Nat := 0x10
def fTAGOVF : Nat := 0x11
def fKMIX : Nat := 0x12
def fDECODE : Nat := 0x13
def fBUFCLS : Nat := 0x14
def fBUFRNG : Nat := 0x15
def fKIND : Nat := 0x16
def fPAGE : Nat := 0x20
def fPERM : Nat := 0x21
def fFORMAT : Nat := 0x22
def fREQ : Nat := 0x23
def fUEMEM : Nat := 0x30
def fUELINK : Nat := 0x31
def fPARITY : Nat := 0x32
def fREVOKED : Nat := 0x33
def fJOINUF : Nat := 0x34
def fPRIV : Nat := 0x35
def fWDOG : Nat := 0x36
def fPARTFAIL : Nat := 0x37

/-- The code of a translation fault. -/
def xfCode (f : XFault) : Nat :=
  match f.kind with
  | .page => fPAGE
  | .perm => fPERM
  | .format => fFORMAT
  | .req => fREQ

/-! ### Records -/

/-- A record with every field zero but its code and source (R405). -/
def FaultRec.of (code src : Nat) : FaultRec :=
  { fid := 0, code := w code, src := w src, flags := 0, region := 0, incarn := 0, version := 0, place := 0, detail := 0
    addr := 0, aux := 0, tags := [0, 0, 0, 0], part := 0 }

/-- The fault number after another: from 1, wrapping to 1 after 0xFFFF_FFFF (R405). -/
def nextFid (n : Nat) : Nat := if n = 0xFFFFFFFF then 1 else n + 1

/-- The 64 bytes of a record with its PHASE and PART (R405). -/
def FaultRec.bytes (r : FaultRec) (phase : Bool) (part : Nat) : List Byte :=
  leBytes r.fid 4 ++ leBytes r.code.toNat 2 ++ [r.src, r.flags ||| w (128 * b2n phase)] ++ leBytes r.region.toNat 4 ++
  leBytes r.incarn.toNat 2 ++ leBytes r.version.toNat 2 ++ leBytes r.place.toNat 4 ++ leBytes r.detail.toNat 4 ++
  leBytes r.addr.toNat 8 ++ leBytes r.aux.toNat 8 ++ (r.tags.map (fun t => leBytes t.toNat 4)).flatten ++ leBytes part 8

/-- A record naming a region. -/
def State.inRegion (s : State) (rn : Nat) (r : FaultRec) : FaultRec :=
  match s.region? rn with
  | some g => { r with region := w (s.rgHandle g), incarn := g.incarn, version := g.version }
  | none => r

/-- The entries of a partition's fault ring that are in use (R407). -/
def Partition.fqUsed (P : Partition) : Nat :=
  match P.desc with
  | some d => (P.fqTail + 2 ^ d.fqlog - P.fqHead % 2 ^ d.fqlog) % 2 ^ d.fqlog
  | none => 0

/-- Whether the next record has to wait for an entry: the ring, with the records ahead of it, is full (R407). -/
def Partition.fqFull (P : Partition) : Bool :=
  match P.desc with
  | some d => decide (2 ^ d.fqlog - 1 ≤ P.fqUsed + P.fqWait.length)
  | none => false

/-- One more of a 32-bit wrapping count at a guest-physical address of a partition. -/
def State.count32 (s : State) (p ga : Nat) : State := s.gwrite p ga (leBytes ((leNat (s.gread p ga 4) + 1) % 2 ^ 32) 4)

/-- One more of a count in a partition's error block (R436): 0 STALEREP, 4 CORR, 8 FQWAIT. -/
def State.errCount (s : State) (p off : Nat) : State :=
  match (s.part p).desc with
  | some d => if d.errblk = 0 then s else s.count32 p (d.errblk + off)
  | none => s

/-- One more of a count in the module error block (R436): 0 SEAMRETRY, 1 SEAMFAIL, 2 SCRUBCORR, 3 UNOWNED. -/
def State.modCount (s : State) (i : Nat) : State :=
  { s with modErr := s.modErr.set i ((nth s.modErr i 0 + 1) % 2 ^ 32) }

/-- A record posted with the partition's next FID: to the guest kernel's queue, to the hypervisor's, or to both (R407). -/
def State.post (s : State) (p : Nat) (guest hv : Bool) (r : FaultRec) : State :=
  let P := s.part p
  let r := { r with fid := P.nextFid, part := p }
  let s := if guest && P.fqFull then s.errCount p 8 else s
  let s := s.modPart p fun P =>
    { P with nextFid := nextFid P.nextFid, fqWait := if guest then P.fqWait ++ [r] else P.fqWait }
  if hv then { s with hvq := s.hvq ++ [r] } else s

/-- Three guest-visible facts of a translation fault: its code, whether stage 2, and the guest-physical address. -/
def FaultRec.ofX (src : Nat) (f : XFault) (write : Bool) (va : Nat) : FaultRec :=
  { FaultRec.of (xfCode f) src with
    flags := w (b2n write + 2 * b2n (f.stage == 2)), addr := w va, aux := w (if f.stage = 2 then f.ga else 0) }

/-! ### Trace (R444-R446) -/

/-- A trace record of a kind for a region, if the kind is enabled: dropped, with LOST set in the next one, where the ring is
full. -/
def State.trace (s : State) (rn kind : Nat) (d0 d1 : Nat) : State :=
  match s.region? rn with
  | none => s
  | some g =>
    let P := s.part g.part
    match P.desc with
    | none => s
    | some d =>
      if !P.trEn.getLsbD (kind - 1) then s
      else if (P.trTail + 1) % 2 ^ d.trlog = P.trHead % 2 ^ d.trlog then s.setPart g.part { P with trLost := true }
      else
        let rec_ := leBytes kind 1 ++ leBytes (b2n P.trLost + 128 * b2n P.trPhase) 1 ++ leBytes g.version.toNat 2 ++ leBytes rn 2 ++
          leBytes 0 2 ++ leBytes g.cycles 8 ++ leBytes d0 8 ++ leBytes d1 8
        let tail := (P.trTail + 1) % 2 ^ d.trlog
        let s := s.gwrite g.part (d.trbase + 32 * P.trTail) rec_
        s.modPart g.part fun P => { P with trTail := tail, trPhase := if tail = 0 then !P.trPhase else P.trPhase, trLost := false }

/-- A record naming a region posted, with its FAULT trace record (R446). -/
def State.postRg (s : State) (p rn : Nat) (guest hv : Bool) (r : FaultRec) : State :=
  let fid := (s.part p).nextFid
  (s.post p guest hv (s.inRegion rn r)).trace rn 5 r.code.toNat fid

/-! ### Freezing (R153, R411, R413) -/

/-- WHY when a second cause comes during a freeze: 4 before 5 before the one that acted first (R413). -/
def whyMerge (a b : Nat) : Nat := if a = 4 || b = 4 then 4 else if a = 5 || b = 5 then 5 else a

/-- The waiting requests of a region's sequencer and tiles for sync objects withdrawn, leaving no waiter entry and no hold (R226,
R370). -/
def State.withdrawAcqs (s : State) (rn p : Nat) : State :=
  s.modPart p fun P => { P with sos := P.sos.map (fun (x : Nat × SyncObj) =>
    (x.1, { x.2 with waits := x.2.waits.filter (fun y => y.who != .seq rn) })) }

/-- A freeze of a region for a cause: from RUNNING and DRAINING it goes FREEZING; its withheld accesses' FIDs are retired
(R347, R417), and its waiting ACQs withdrawn (R226). -/
def State.freeze (s : State) (rn why : Nat) : State :=
  match s.region? rn with
  | none => s
  | some r =>
    match r.state with
    | .running | .draining =>
      let s := (s.setRegion rn { r with state := .freezing, frzWhy := why }).withdrawAcqs rn r.part
      s.modPart r.part fun P => { P with held := P.held.filter (fun h => !(h.rn == rn && h.counts)) }
    | .freezing => s.setRegion rn { r with frzWhy := whyMerge r.frzWhy why }
    | _ => s

/-- Whether a cause of a freeze acts on the region now. -/
def State.freezes (s : State) (rn : Nat) : Bool :=
  match s.region? rn with
  | some r => r.state == .running || r.state == .draining || r.state == .freezing
  | none => false

/-- A fault that freezes its region: the record, with FROZE, and the freeze (R405, R406). -/
def State.faultFreeze (s : State) (rn why : Nat) (r : FaultRec) : State :=
  match s.region? rn with
  | none => s
  | some g => ((s.postRg g.part rn true false { r with flags := r.flags ||| w (4 * b2n (s.freezes rn)) }).freeze rn why)

/-! ### Traps of a sequencer and of an element -/

/-- A sequencer trap: the record with SQNUM and PC, the region frozen with WHY 5, the PC staying at the instruction so that
it issues again on rg.start (R202, R406, R408). -/
def State.seqTrap (s : State) (rn code : Nat) (addr aux : Dword) : State :=
  match s.region? rn with
  | none => s
  | some g =>
    let s := s.modSeq rn (fun q => { q with trapped := some (w code) })
    s.faultFreeze rn 5 { FaultRec.of code 1 with place := w rn, detail := w g.seq.pc, addr := addr, aux := aux }

/-- An element trap: the record of R405, the element trapped, the region frozen with WHY 5 (R258, R406). -/
def State.elemTrap (s : State) (t code rule stage lane : Nat) (kinds : List (BitVec 4)) (tags : List Word) : State :=
  match s.ownerOf t with
  | none => s
  | some (rn, g) =>
    let s := s.modTile t (fun x => { x with trap := some (w code) })
    let kw := (nth kinds 0 0).toNat + 16 * (nth kinds 1 0).toNat + 256 * (nth kinds 2 0).toNat + 4096 * (nth kinds 3 0).toNat
    s.faultFreeze rn 5 { FaultRec.of code 0 with
      place := w ((tileX t - g.ocol) + 65536 * (tileY t - g.orow))
      detail := w (rule + 16 * stage + 256 * lane + 4096 * kw), tags := tags }

/-! ### Withholding (R346, R206, R144) -/

/-- Whether a party's access is withheld. -/
def State.isHeld (s : State) (p : Nat) (who : Holder) : Bool := (s.part p).held.any (fun h => h.who == who)

/-- An access withheld: its record posted, the party held under the record's FID. -/
def State.withhold (s : State) (p rn : Nat) (who : Holder) (counts guest hv : Bool) (r : FaultRec) : State :=
  let fid := (s.part p).nextFid
  let s := s.postRg p rn guest hv r
  s.modPart p fun P => { P with held := P.held ++ [{ fid := fid, who := who, rn := rn, age := 0, counts := counts }] }

/-- An access of a region's period withheld for a translation fault (R346): SRC, WHERE and DETAIL as R405 gives. -/
def State.withholdX (s : State) (rn : Nat) (who : Holder) (src place detail : Nat) (f : XFault) (write : Bool) (va : Nat) : State :=
  match s.region? rn with
  | none => s
  | some g =>
    s.withhold g.part rn who true true (f.stage == 2)
      { FaultRec.ofX src f write va with place := w place, detail := w detail }

/-- The HBM4 stack that holds a physical address, where one does. -/
def stackAt (pa : Nat) : Option Nat := if paDevice pa && !paLpddr pa then some (stackOf pa) else none

/-- WHERE of a record of an engine (R405): the stack, where it is known. Which engine of a stack the atomic unit, the trim engine or another
unit is, and the stack where no frame tells it, the spec does not say: free values (notes/assumptions 14). -/
def State.engineWhere (s : State) (stack : Option Nat) : Word :=
  let v := freeWord s.freeCtr
  (match stack with | some k => w k &&& 0xF | none => v &&& 0xF) ||| (v &&& 0x70)

/-- An access of an engine withheld (R346, R405), with the stack whose engine it is where that is known. -/
def State.withholdEngine (s : State) (p rn : Nat) (who : Holder) (f : XFault) (write : Bool) (va : Nat) (stack : Option Nat) : State :=
  { s with freeCtr := s.freeCtr + 1 }.withhold p rn who true true (f.stage == 2)
    { FaultRec.ofX 3 f write va with place := s.engineWhere stack }

/-- An access of work a hart started withheld for a page fault (R144): SRC 4, WHERE 0, DETAIL the offset; to the guest
kernel for a VS-mode or VU-mode issuer, else to the hypervisor. -/
def State.withholdHart (s : State) (rn : Nat) (who : Holder) (x : Xlate) (detail : Nat) (f : XFault) (write : Bool) (va : Nat) : State :=
  s.withhold x.part rn who false x.guest (!x.guest || f.stage == 2)
    { FaultRec.ofX 4 f write va with detail := w detail }

/-! ### Privilege faults (R12) -/

/-- A privilege fault raised at a level for a partition: to the next level above (R12, R407). -/
def State.priv (s : State) (p level : Nat) (r : FaultRec) : State :=
  match level with
  | 0 => s.post p true false r
  | 1 => s.post p true true r
  | _ =>
    let r := { r with fid := (s.part p).nextFid, part := p }
    { (s.modPart p fun P => { P with nextFid := nextFid P.nextFid }) with mkq := s.mkq ++ [r] }

end Sys2Proof.Machine
end

