-- ==== Sys2Proof/Machine/Records.lean ====
section
/-! DEFINITION. Continuation records, queues, join blocks, the frame area, and the expansion of launches (R119-R132, R138,
R140, R176, R501). -/

namespace Sys2Proof.Machine

open Sys2Proof.Config

/-! ### Continuation records (R126) -/

def Cont.prio (c : Cont) : Nat := bits c.flags 1 0
def Cont.kind (c : Cont) : Nat := bits c.flags 5 2
def Cont.sclass (c : Cont) : Nat := bits c.flags 31 8
def Cont.iidx (c : Cont) : Nat := bits c.flags 47 32
def Cont.istat (c : Cont) : Nat := bits c.flags 63 48

def kPERIOD : Nat := 0
def kRESUME : Nat := 1
def kTRIM : Nat := 2
def kLANTERN : Nat := 3

/-- The IIDX of a record that descends from no instance. -/
def noInst : Nat := 0xFFFF

/-- The device's copy of a record, with its IIDX and ISTAT. -/
def Cont.tagged (c : Cont) (iidx istat : Nat) : Cont :=
  { c with flags := w (bits c.flags 31 0 + iidx % 2 ^ 16 * 2 ^ 32 + istat % 2 ^ 16 * 2 ^ 48) }

/-- The record as pushers and hq.pop see it: FLAGS bits 63:32 zero. -/
def Cont.plain (c : Cont) : Cont := { c with flags := w (bits c.flags 31 0) }

/-- The 32 bytes of a record, and the record of 32 bytes. -/
def Cont.bytes (c : Cont) : List Byte :=
  leBytes c.code.toNat 8 ++ leBytes c.frame.toNat 8 ++ leBytes c.join.toNat 8 ++ leBytes c.flags.toNat 8
def contOf (bs : List Byte) : Cont :=
  { code := w (fieldAt bs 0 8), frame := w (fieldAt bs 8 8), join := w (fieldAt bs 16 8), flags := w (fieldAt bs 24 8) }

/-- Fields of a PERIOD record's CODE. -/
def Cont.graph (c : Cont) : Nat := bits c.code 31 0
def Cont.seqsect (c : Cont) : Nat := bits c.code 37 32
def Cont.entry (c : Cont) : Nat := bits c.code 53 40

/-! ### The shape-class table (R176) -/

/-- The bytes of entry n. -/
def State.scEntry (s : State) (p n : Nat) : List Byte :=
  match (s.part p).desc with
  | some d => s.gread p (d.sctab + 64 * n) 64
  | none => List.replicate 64 0

/-- The fields of a valid entry but for its graph. -/
def scEntryOk (e : List Byte) : Bool :=
  fieldAt e 8 4 == 1 && decide (2 ≤ fieldAt e 0 2) && decide (fieldAt e 0 2 ≤ 640) && decide (2 ≤ fieldAt e 2 2) &&
  decide (fieldAt e 2 2 ≤ 640) && zeroAt e 12 32

/-- Whether an entry satisfies the table of R176: its fields, and a current graph handle whose GHASH is the entry's. An entry with VALID
set that does not is no class of the partition. -/
def State.classOk (s : State) (p : Nat) (e : List Byte) : Bool :=
  scEntryOk e && (s.part p).current tblGraph (fieldAt e 4 4) &&
  (match (s.part p).graphs.find (hSlot (fieldAt e 4 4)) with
   | some g => g.ghash == e.drop 32
   | none => false)

/-- Whether a shape class is in the partition's table. -/
def State.hasClass (s : State) (p n : Nat) : Bool := n != 0 && decide (n < 4096) && s.classOk p (s.scEntry p n)

/-- The check of a record at its push (R126). -/
def State.recOk (s : State) (p : Nat) (c : Cont) : Bool :=
  decide (c.kind ≤ 3) && bits c.flags 7 6 == 0 && bits c.flags 63 32 == 0 && c.frame.toNat % 64 == 0 && c.join.toNat % 64 == 0 &&
  (match c.kind with
   | 0 => bits c.code 63 54 == 0 && bits c.code 39 38 == 0 && s.hasClass p c.sclass
   | 1 => c.code.toNat % 64 == 0 && s.hasClass p c.sclass
   | 2 => c.code.toNat % 64 == 0 && c.sclass == 0
   | _ => c.sclass == 0)

/-! ### Queues (R128-R130) -/

/-- Quotas by their place in R137. -/
def Partition.quota (P : Partition) (i : Nat) : Nat := match P.desc with | some d => nth d.quotas i 0 | none => 0

def Queue.level (q : Queue) (l : Nat) : List QRec := nth q.recs l []
/-- Records of a queue, and of a level, outside the reserves. -/
def Queue.shareUsed (q : Queue) : Nat := (q.recs.map (fun l => (l.filter (fun r => !r.rsv)).length)).sum
def Queue.levelUsed (q : Queue) (l : Nat) : Nat := ((q.level l).filter (fun r => !r.rsv)).length
def Queue.rsvUsed (q : Queue) (l : Nat) : Nat := ((q.level l).filter (fun r => r.rsv)).length

/-- Entries in use against QENTRIES: records outside the reserves and units of the frame area (R134, R140). -/
def Partition.entriesUsed (P : Partition) : Nat := (P.queues.map (fun q => q.2.shareUsed)).sum + P.frames.length

/-- Whether a level's share takes n more records, with u units of the frame area (R128, R134). -/
def Partition.room (P : Partition) (q lvl n u : Nat) : Bool :=
  match P.queues.find q with
  | none => false
  | some Q =>
    decide (Q.shareUsed + n ≤ Q.share) && decide (Q.levelUsed lvl + n + 64 ≤ 2 ^ nth Q.log2n lvl 0) &&
    decide (P.entriesUsed + n + u ≤ P.quota 3)

/-- A record appended to its level. -/
def Queue.add (Q : Queue) (r : QRec) : Queue :=
  let l := r.cont.prio
  { Q with recs := Q.recs.set l (Q.level l ++ [r]) }

/-- A push into a queue's share, journalled (R128, R423). -/
def State.push (s : State) (p q : Nat) (c : Cont) : State :=
  let s := s.modPart p fun P =>
    match P.queues.find q with
    | some Q => { P with queues := P.queues.put q (Q.add { cont := c, rsv := false, period := none, trim := none }) }
    | none => P
  { s with journal := s.journal ++ [.push p q c none] }

/-- A record put in the reserve of its level, or left waiting on the device where that reserve is full (R128). -/
def Queue.addReserve (Q : Queue) (r : QRec) : Queue :=
  let l := r.cont.prio
  if Q.rsvUsed l < 64 ∧ (Q.rsv.filter (fun d => d.cont.prio == l)).isEmpty then Q.add r else { Q with rsv := Q.rsv ++ [r] }

/-- A push from the reserve: never dropped; where the level's reserve is full it waits on the device (R128). -/
def State.pushReserve (s : State) (p q : Nat) (c : Cont) (period : Option Nat) : State :=
  let s := s.modPart p fun P =>
    match P.queues.find q with
    | some Q => { P with queues := P.queues.put q (Q.addReserve { cont := c, rsv := true, period := period, trim := none }) }
    | none => P
  { s with journal := s.journal ++ [.push p q c none] }

/-- The place of the first record of a level that satisfies a test. -/
def firstAt (f : QRec → Bool) (l : List QRec) : Option Nat := l.findIdx? f

/-- The pop of R129: the record taken, its level, and the queue left, for records satisfying `ok`, those satisfying `pref`
going ahead within a level. -/
def Queue.pop (Q : Queue) (ok pref : QRec → Bool) : Option (QRec × Nat × Queue) :=
  let cand := (List.range 4).filter (fun l => (Q.level l).any ok)
  match cand with
  | [] => none
  | top :: lower =>
    let aged := !lower.isEmpty && decide (64 ≤ Q.age)
    let lvl := if aged then lower.headD top else top
    let age := if aged || lower.isEmpty then 0 else Q.age + 1
    let recs := Q.level lvl
    match (firstAt (fun r => ok r && pref r) recs <|> firstAt ok recs) with
    | none => none
    | some i =>
      match recs[i]? with
      | none => none
      | some r => some (r, lvl, { Q with age := age, recs := Q.recs.set lvl (recs.eraseIdx i) })

/-! ### The frame area (R140) -/

/-- Units of the frame area. -/
def Partition.frameUnits (P : Partition) : Nat := match P.desc with | some d => d.framelen / 512 | none => 0

/-- The first k free units, counted cyclically from a start, within `fuel` tries. -/
def takeUnits (used : List Nat) (total : Nat) : Nat → Nat → Nat → List Nat
  | 0, _, _ => []
  | fuel + 1, i, k =>
    if k = 0 then []
    else if used.contains (i % total) then takeUnits used total fuel (i + 1) k
    else i % total :: takeUnits used total fuel (i + 1) (k - 1)

/-- k units allocated, if the free part of the area holds them; which ones is the device's choice. -/
def State.allocFrames (s : State) (p k : Nat) : Option (List Nat × State) :=
  let P := s.part p
  let total := P.frameUnits
  if P.frames.length + k ≤ total then
    let r := s.pick total
    let us := takeUnits P.frames total (P.frames.length + k) r.1 k
    some (us, r.2.modPart p fun P => { P with frames := P.frames ++ us })
  else none

/-- Stage-1 and guest-physical addresses of a unit. -/
def Partition.frameVa (P : Partition) (u : Nat) : Nat := match P.desc with | some d => d.frameva + 512 * u | none => 0
def Partition.frameGa (P : Partition) (u : Nat) : Nat := match P.desc with | some d => d.framebase + 512 * u | none => 0

/-- Units freed. -/
def State.freeFrames (s : State) (p : Nat) (us : List Nat) : State :=
  s.modPart p fun P => { P with frames := P.frames.filter (fun u => !us.contains u) }

/-! ### Join blocks (R131, R132, R501) -/

/-- The launch whose join block stands at an address. -/
def Partition.launchAt (P : Partition) (addr : Nat) : Option Launch :=
  P.launches.find? (fun l => l.expanded && l.join.toNat == addr)

/-- The bytes of a join block with new COUNT, STATE, STATUS and SIDX. -/
def joinBytes (blk : List Byte) (count state status sidx : Nat) : List Byte :=
  leBytes count 4 ++ (blk.drop 4).take 1 ++ leBytes state 1 ++ leBytes status 2 ++ leBytes sidx 2 ++ blk.drop 10

/-- A retirement of a child naming a join block (R132), with the completion action of a launch whose block it is; a CONT
whose queue has been revoked, or whose QUEUE byte names no queue for another reason, is discarded, retired with REVOKED (R422), and one
that the check at a push refuses, retired with BADREC (R126; notes/assumptions 44). `fuel` bounds the chain of blocks that name blocks. -/
def State.joinRetire : Nat → State → Nat → Xlate → Nat → Nat → Nat → State
  | 0, s, _, _, _, _, _ => s
  | fuel + 1, s, p, x, addr, status, iidx =>
    if addr = 0 then s
    else
      match translate s.mem x addr .atomic with
      | .error f =>
        let s := s.withholdEngine p 4096 (.join (w addr)) f true addr none
        s.modPart p fun P => { P with joins := P.joins ++ [{ addr := w addr, xl := x, retire := some (status, iidx) }] }
      | .ok (pa, _) =>
        let blk := s.mem.read pa 64
        let count := fieldAt blk 0 4
        if count = 0 then
          { s with freeCtr := s.freeCtr + 1 }.post p true false { FaultRec.of fJOINUF 3 with addr := w addr, place := s.engineWhere (stackAt pa) }
        else
          let old := fieldAt blk 6 2
          let isNew := status != 0 && (old == 0 || decide (iidx < fieldAt blk 8 2))
          let st := if isNew then status else old
          let sidx := if isNew then iidx else fieldAt blk 8 2
          let fires := count == 1 && fieldAt blk 5 1 == 1
          let s := { s with
            mem := s.mem.write pa (joinBytes blk (count - 1) (if fires then 2 else fieldAt blk 5 1) st sidx)
            journal := s.journal ++ [.join p (w addr) (count - 1)] }
          if !fires then s
          else
            match (s.part p).launchAt addr with
            | none =>
              let raw := contOf (blk.drop 32)
              let c := raw.tagged sidx st
              if !s.recOk p raw then joinRetire fuel s p x c.join.toNat stBADREC c.iidx
              else if ((s.part p).queues.find (fieldAt blk 4 1)).isSome then s.pushReserve p (fieldAt blk 4 1) c none
              else joinRetire fuel s p x c.join.toNat stREVOKED c.iidx
            | some l =>
              let s := s.freeFrames p l.units
              match l.act with
              | .host .. =>
                s.modPart p fun P => { P with launches := P.launches.map (fun m =>
                  if m.q == l.q && m.accNo == l.accNo then { m with status := some st, expanded := true, units := [] , join := 0 } else m) }
              | .parent a ix =>
                let s := s.modPart p fun P => { P with launches := P.launches.filter (fun m => !(m.q == l.q && m.accNo == l.accNo)) }
                joinRetire fuel s p (s.queueXlate p l.q) a.toNat st ix
              | .nothing =>
                s.modPart p fun P => { P with launches := P.launches.filter (fun m => !(m.q == l.q && m.accNo == l.accNo)) }

/-- The retirement of a child naming a join block. -/
def State.retireJoin (s : State) (p : Nat) (x : Xlate) (addr status iidx : Nat) : State :=
  s.joinRetire ((s.part p).launches.length + 4096) p x addr status iidx

/-- A push from the reserve of a queue; where that has been revoked the record is discarded, retired with REVOKED (R422). -/
def State.pushOr (s : State) (p q : Nat) (x : Xlate) (c : Cont) (period : Option Nat) : State :=
  if ((s.part p).queues.find q).isSome then s.pushReserve p q c period
  else s.retireJoin p x c.join.toNat stREVOKED c.iidx

/-- A spawn of a child naming a block: COUNT + 1, refused with QFULL at 0xFFFF_FFFF (R132). -/
def State.joinSpawn (s : State) (x : Xlate) (addr : Nat) : Except XFault (Option State) :=
  if addr = 0 then .ok (some s)
  else
    match translate s.mem x addr .atomic with
    | .error f => .error f
    | .ok (pa, _) =>
      let c := s.mem.readN pa 4
      if c = 0xFFFFFFFF then .ok none
      else .ok (some { s with mem := s.mem.writeN pa 4 (c + 1), journal := s.journal ++ [.join x.part (w addr) (c + 1)] })

/-- Arming by JOIN or lan.join (R132): false where STATE is not 0. -/
def State.joinArm (s : State) (p : Nat) (x : Xlate) (addr q : Nat) (c : Cont) : Except XFault (Bool × State) :=
  match translate s.mem x addr .atomic with
  | .error f => .error f
  | .ok (pa, _) =>
    let blk := s.mem.read pa 64
    if fieldAt blk 5 1 ≠ 0 then .ok (false, s)
    else
      let fires := fieldAt blk 0 4 == 0
      let blk' := blk.take 4 ++ leBytes q 1 ++ leBytes (if fires then 2 else 1) 1 ++ (blk.drop 6).take 26 ++ c.bytes
      let s := { s with mem := s.mem.write pa blk', journal := s.journal ++ [.join p (w addr) (fieldAt blk 0 4)] }
      .ok (true, if fires then s.pushReserve p q (c.tagged (fieldAt blk 8 2) (fieldAt blk 6 2)) none else s)

/-! ### Launch records (R119-R122) -/

/-- Level entry i of a launch record. -/
def lrLevel (b : List Byte) (i : Nat) : Nat := fieldAt b (16 + 4 * i) 4
def lrNlev (b : List Byte) : Nat := fieldAt b 3 1
def lrGraph (b : List Byte) : Nat := fieldAt b 48 4

/-- Whether a level entry is one of the table's, after the domain of the level above (R120). -/
def levelOk (above e : Nat) : Bool :=
  nbits e 15 8 == 0 && decide (nbits e 7 0 ≤ 7) && decide (nbits e 7 0 < above) && nbits e 31 16 != 0 &&
  (decide (3 ≤ nbits e 7 0) || nbits e 31 16 == 1)

/-- All level entries. -/
def levelsOk (b : List Byte) : Bool :=
  (List.range 8).all fun i =>
    if i < lrNlev b then levelOk (if i = 0 then 8 else nbits (lrLevel b (i - 1)) 7 0) (lrLevel b i) else lrLevel b i == 0

/-- The instance count of each level: 1 for a non-instance level (R121). -/
def levelCounts (b : List Byte) : List Nat :=
  (List.range (lrNlev b)).map fun i => if 3 ≤ nbits (lrLevel b i) 7 0 then nbits (lrLevel b i) 31 16 else 1

/-- Instances of a launch. -/
def lrInstances (b : List Byte) : Nat := (levelCounts b).foldl (· * ·) 1

/-- The check of a launch record against R119 and R120; PRIO is not checked where the submission's header gives it. -/
def lrOk (b : List Byte) (prio : Bool) : Bool :=
  fieldAt b 0 2 == 0x4C52 && fieldAt b 2 1 == 1 && decide (1 ≤ lrNlev b) && decide (lrNlev b ≤ 8) &&
  (!prio || decide (fieldAt b 4 1 ≤ 3)) && decide (fieldAt b 5 1 ≤ 1) && decide (fieldAt b 6 1 ≤ 128) &&
  decide (fieldAt b 7 1 ≤ 63) && fieldAt b 8 4 % 4 == 0 && decide (fieldAt b 8 4 < 16384) && zeroAt b 12 16 &&
  decide (2 ≤ fieldAt b 52 2) && decide (fieldAt b 52 2 ≤ 640) && decide (2 ≤ fieldAt b 54 2) &&
  decide (fieldAt b 54 2 ≤ 640) && zeroAt b 58 128 && zeroAt b (128 + fieldAt b 6 1) 256 && levelsOk b

/-- The lowest valid shape class of a width, height and graph hash (R122); an entry that breaks the table of R176 is passed over
(DESIGN CHOICE: R122 does not speak of it; notes/assumptions 44). -/
def State.findClass (s : State) (p wd ht : Nat) (ghash : List Byte) : Option Nat :=
  (List.range 4096).find? fun n =>
    n != 0 && (let e := s.scEntry p n; s.classOk p e && fieldAt e 0 2 == wd && fieldAt e 2 2 == ht && e.drop 32 == ghash)

/-- Whether the partition could never hold a launch's instances at once, or they are more than 65,535 (R121, R125). -/
def lrQuota (P : Partition) (b : List Byte) : Bool :=
  decide (P.quota 0 < lrInstances b) || decide (65535 < lrInstances b) ||
  (List.range (lrNlev b)).any fun i =>
    let e := lrLevel b i
    (nbits e 7 0 == 4 && decide (16 < nbits e 31 16)) || (decide (5 ≤ nbits e 7 0) && decide (1 < nbits e 31 16))

/-- The checks of R122: the shape class, or the completion status of a launch that fails them. R122 gives the check of R121 no place: NOSHAPE
goes before QUOTA (DESIGN CHOICE; notes/assumptions 44). -/
def State.launchCheck (s : State) (p : Nat) (b : List Byte) (prio : Bool) : Except Nat Nat :=
  if !lrOk b prio then .error stBADREC
  else
    match (s.part p).graphs.find (hSlot (lrGraph b)) with
    | some g =>
      if !(s.part p).current tblGraph (lrGraph b) then .error stSTALE
      else
        match s.findClass p (fieldAt b 52 2) (fieldAt b 54 2) g.ghash with
        | none => .error stNOSHAPE
        | some c => if lrQuota (s.part p) b then .error stQUOTA else .ok c
    | none => .error stSTALE

/-- Instance index vector number k, innermost level fastest: one entry per level. -/
def indexVec : List Nat → Nat → List Nat
  | [], _ => []
  | _ :: cs, k => let inner := cs.foldl (· * ·) 1; (k / inner) :: indexVec cs (k % inner)

/-- The 512-byte frame of an instance (R122). -/
def frameBytes (b : List Byte) (k : Nat) : List Byte :=
  let v := indexVec (levelCounts b) k
  b ++ ((List.range 8).map (fun i => leBytes (nth v i 0) 4)).flatten ++ List.replicate 224 0

/-- The root record of instance k. -/
def rootRec (b : List Byte) (cls prio : Nat) (frame join k : Nat) : Cont :=
  Cont.tagged
    { code := w (lrGraph b + fieldAt b 7 1 * 2 ^ 32 + fieldAt b 8 4 * 2 ^ 40), frame := w frame, join := w join
      flags := w (cls * 256 + prio) } k 0

/-- The expansion of an accepted launch into its join block, frames and root records (R122, R140), with the units given. -/
def State.expand (s : State) (p q prio cls : Nat) (b : List Byte) (us : List Nat) : State :=
  let P := s.part p
  let n := lrInstances b
  let jb := us.headD 0
  let s := s.gwrite p (P.frameGa jb)
    (leBytes n 4 ++ leBytes q 1 ++ leBytes 1 1 ++ List.replicate 506 0)
  (List.range n).foldl (fun s k =>
    let u := nth us (k + 1) 0
    let s := s.gwrite p (P.frameGa u) (frameBytes b k)
    s.push p q (rootRec b cls prio (P.frameVa u) (P.frameVa jb) k)) s

/-- A launch changed. -/
def State.modLaunch (s : State) (p q no : Nat) (f : Launch → Launch) : State :=
  s.modPart p fun P => { P with launches := P.launches.map (fun l => if l.q == q && l.accNo == no then f l else l) }

/-- The oldest accepted launch of a queue that is not expanded. -/
def State.unexpanded (s : State) (p q : Nat) : Option Launch := (s.part p).launches.find? (fun l => l.q == q && !l.expanded)

/-- It is completed with the status of a failed check, or expanded; it waits for units and for places in its ring (R122, R140). -/
def State.expandNext (s : State) (p q : Nat) : State :=
  match s.unexpanded p q with
  | none => s
  | some l =>
    match (if l.short then .error stBADREC else s.launchCheck p l.record false) with
    | .error st => s.modLaunch p q l.accNo fun m => { m with expanded := true, status := some st }
    | .ok cls =>
      let n := lrInstances l.record
      if !(s.part p).room q l.prio n (n + 1) then s
      else
        match s.allocFrames p (n + 1) with
        | none => s
        | some (us, s) =>
          let s := s.modLaunch p q l.accNo fun m => { m with expanded := true, join := w ((s.part p).frameVa (us.headD 0)), units := us }
          s.expand p q l.prio cls l.record us

/-- The launches accepted before on a queue expanded, as far as they can be: their pushes come before those of a later one (R122). -/
def State.expandAll : Nat → State → Nat → Nat → State
  | 0, s, _, _ => s
  | n + 1, s, p, q => if (s.unexpanded p q).isNone then s else expandAll n (s.expandNext p q) p q

def State.expandEarlier (s : State) (p q : Nat) : State := State.expandAll (s.part p).launches.length s p q

/-- The bytes of a launch block read for dispatch: queue handle and parent (R148). -/
def State.dispatchOk (blk : List Byte) : Bool := zeroAt blk 4 8 && fieldAt blk 8 8 % 64 == 0

/-- lan.dispatch and SPAWN with f = 1 after their reads: the result word, or a fault on the parent's join block (R148).
`iidx` is the IIDX that the launch's own retirement carries. -/
def State.dispatch (s : State) (p : Nat) (x : Xlate) (b blk : List Byte) (iidx : Nat) : Except XFault (Dword × State) :=
  let P := s.part p
  let qh := fieldAt blk 0 4
  let parent := fieldAt blk 8 8
  if !State.dispatchOk blk then .ok (errWord eBADARG, s)
  else if !P.current tblQueue qh then .ok (errWord eSTALE, s)
  else
    match s.launchCheck p b true with
    | .error e =>
      .ok (errWord (if e = stBADREC then eBADREC else if e = stSTALE then eSTALE else if e = stNOSHAPE then eNOSHAPE else eQUOTA), s)
    | .ok cls =>
      let q := hSlot qh - 1
      let n := lrInstances b
      let s1 := s.expandEarlier p q
      let P := s1.part p
      if (s1.unexpanded p q).isSome || !P.room q (fieldAt b 4 1) n (n + 1) then .ok (errWord eQFULL, s)
      else
        match s1.joinSpawn x parent with
        | .error f => .error f
        | .ok none => .ok (errWord eQFULL, s)
        | .ok (some s1) =>
          match s1.allocFrames p (n + 1) with
          | none => .ok (errWord eQFULL, s)
          | some (us, s1) =>
            let acc := match P.queues.find q with | some Q => Q.accNo + 1 | none => 0
            let jb := (s.part p).frameVa (us.headD 0)
            let l : Launch := { q := q, accNo := acc, prio := fieldAt b 4 1, short := false, record := b
                                act := if parent = 0 then .nothing else .parent (w parent) iidx
                                expanded := true, join := w jb, units := us, status := none }
            let s1 := s1.modPart p fun P => { P with
              launches := P.launches ++ [l]
              queues := match P.queues.find q with | some Q => P.queues.put q { Q with accNo := acc } | none => P.queues }
            let s1 := { s1 with journal := s1.journal ++ [JEntry.accept p q acc [] b] }
            .ok (w acc, s1.expand p q (fieldAt b 4 1) cls b us)

/-- hq.push and SPAWN with f = 0 after their reads (R150): `iidx` is the IIDX of the pushed record. -/
def State.pushRec (s : State) (p : Nat) (x : Xlate) (qh : Nat) (c : Cont) (iidx : Nat) : Except XFault (Dword × State) :=
  let P := s.part p
  if !P.current tblQueue qh then .ok (errWord eSTALE, s)
  else if !s.recOk p c then .ok (errWord eBADREC, s)
  else if !P.room (hSlot qh - 1) c.prio 1 0 then .ok (errWord eQFULL, s)
  else
    match s.joinSpawn x c.join.toNat with
    | .error f => .error f
    | .ok none => .ok (errWord eQFULL, s)
    | .ok (some s) => .ok (0, s.push p (hSlot qh - 1) (c.tagged iidx 0))

/-- lan.join and JOIN after the read of the arm block (R149). -/
def State.armJoin (s : State) (p : Nat) (x : Xlate) (blk : List Byte) : Except XFault (Dword × State) :=
  let P := s.part p
  let qh := fieldAt blk 8 4
  let c := contOf (blk.drop 32)
  if fieldAt blk 0 8 % 64 ≠ 0 || fieldAt blk 0 8 = 0 || !zeroAt blk 12 32 then .ok (errWord eBADARG, s)
  else if !P.current tblQueue qh then .ok (errWord eSTALE, s)
  else if !s.recOk p c then .ok (errWord eBADREC, s)
  else
    match s.joinArm p x (fieldAt blk 0 8) (hSlot qh - 1) c with
    | .error f => .error f
    | .ok (ok, s) => .ok (if ok then 0 else errWord eBADJOIN, s)

end Sys2Proof.Machine
end

