-- ==== Sys2Proof/Machine/Sync.lean ====
section
/-! DEFINITION. Sync objects: requests, grants, releases and the end of an object (R165-R167, R226, R227, R419, R422). -/

namespace Sys2Proof.Machine

/-- How a request on an object goes (R166). -/
inductive SoAnswer where
  | granted
  | queued
  | err (code : Nat)
  deriving DecidableEq, Repr

/-- Whether a party holds an object, and whether its request waits. -/
def SyncObj.holds? (o : SyncObj) (p : SoParty) : Bool := o.holds.any (fun h => h.who == p)
def SyncObj.waits? (o : SyncObj) (p : SoParty) : Bool := o.waits.any (fun h => h.who == p)

/-- Whether a request can be granted at once (R166). -/
def SyncObj.grantable (o : SyncObj) (excl : Bool) : Bool :=
  if excl then o.holds.isEmpty && o.waits.isEmpty
  else !o.holds.any (·.excl) && !o.waits.any (·.excl)

/-- A hold added with the next hold tag (R419). -/
def SyncObj.addHold (o : SyncObj) (who : SoParty) (excl : Bool) (scope : Nat) : SyncObj :=
  { o with holds := o.holds ++ [{ who := who, excl := excl, scope := scope, tag := o.nextTag }]
           nextTag := (o.nextTag + 1) % 2 ^ 32 }

/-- A request: granted, queued, or refused (R166). A SCOPE of 0 is SYS. -/
def SyncObj.request (o : SyncObj) (who : SoParty) (excl try_ : Bool) (scope : Nat) (reply : SoReply) : SoAnswer × SyncObj :=
  let excl := excl || o.exclOnly
  let scope := if scope = 0 then 7 else scope
  if o.holds? who || o.waits? who then (.err eBADSTATE, o)
  else if 65535 ≤ o.holds.length then (.err eBUSY, o)
  else if o.grantable excl then (.granted, o.addHold who excl scope)
  else if try_ || decide (256 ≤ o.waits.length) then (.err eBUSY, o)
  else (.queued, { o with waits := o.waits ++ [{ who := who, excl := excl, scope := scope, reply := reply }] })

/-- The waiters at the head that can be granted together: one exclusive, or every shared one before the first exclusive. -/
def SyncObj.ready (o : SyncObj) : List SoWait :=
  match o.waits with
  | [] => []
  | x :: _ =>
    if x.excl then (if o.holds.isEmpty then [x] else [])
    else if o.holds.any (·.excl) then []
    else (o.waits.takeWhile (fun y => !y.excl)).take (65535 - o.holds.length)

/-- A party's waiting request answered with a result word. -/
def State.soAnswer (s : State) (p : Nat) (r : SoReply) (v : Dword) : State :=
  match r with
  | .hart h rd => s.modHart h (fun x => ({ x with wait := none }.set rd v).advance)
  | .seqReg rn rd => s.modSeq rn (fun q => { (q.set rd v) with acqWait := none, pc := q.pc + 4 })
  | .mtOp t op =>
    s.modTile t (fun x => { x with ops := x.ops.map (fun o => if o.seqNo == op then { o with reply := [some (w (bits v 15 0))], done := true } else o) })
  | .trim i =>
    s.modPart p fun P =>
      match P.trims.find i with
      | some t =>
        { P with trims := P.trims.put i (if bit v 63 then { t with fail := some (bits v 15 0) } else { t with granted := true }) }
      | none => P

/-- The object of a slot changed. -/
def State.modSo (s : State) (p slot : Nat) (f : SyncObj → SyncObj) : State :=
  s.modPart p fun P =>
    match P.sos.find slot with
    | some o => { P with sos := P.sos.put slot (f o) }
    | none => P

/-- SO_GRANT: the waiters whose grant condition holds are granted, those that become grantable together, together (R166). -/
def State.grant (s : State) (p slot : Nat) : State :=
  match (s.part p).sos.find slot with
  | none => s
  | some o =>
    let rs := o.ready
    let s := s.modSo p slot fun o =>
      { (rs.foldl (fun o x => o.addHold x.who x.excl x.scope) o) with waits := o.waits.drop rs.length }
    rs.foldl (fun s x => s.soAnswer p x.reply 0) s

/-- A party's hold on an object released: none where it holds nothing (R167, R227). -/
def State.soRelease (s : State) (p slot : Nat) (who : SoParty) : Option State :=
  match (s.part p).sos.find slot with
  | none => none
  | some o =>
    if o.holds? who then some (s.modSo p slot fun o => { o with holds := o.holds.filter (fun h => h.who != who) }) else none

/-- A party's waiting request withdrawn (R145, R226). -/
def State.soWithdraw (s : State) (p slot : Nat) (who : SoParty) : State :=
  s.modSo p slot fun o => { o with waits := o.waits.filter (fun h => h.who != who) }

/-- Slots of the objects a party holds, ascending (R224, R419). -/
def Partition.heldBy (P : Partition) (who : SoParty) : List Nat := (P.sos.filter (fun x => x.2.holds? who)).map (·.1)

/-- Every hold of a party released, in ascending handle order; it is no former holder any more either. -/
def State.releaseAll (s : State) (p : Nat) (who : SoParty) : State :=
  let s := ((s.part p).heldBy who).foldl (fun s slot => (s.soRelease p slot who).getD s) s
  s.modPart p fun P => { P with ended := P.ended.filter (fun e => e.2 != who) }

/-- REL and so.rel of a handle by a party (R167, R227): BADSTATE where it holds nothing, or where a revocation ended its hold
(R422); STALE for any other stale handle (R127). -/
def State.soRel (s : State) (p h : Nat) (who : SoParty) : Dword × State :=
  let P := s.part p
  if P.current tblSo h then
    match s.soRelease p (hSlot h) who with
    | some s => (0, s)
    | none => (errWord eBADSTATE, s)
  else (errWord (if P.ended.contains (h, who) then eBADSTATE else eSTALE), s)

/-- ACQ and so.acq of a handle by a party: the answer, the object with the hold or the wait (R166). -/
def State.soAcq (s : State) (p h : Nat) (who : SoParty) (excl try_ : Bool) (scope : Nat) (reply : SoReply) : SoAnswer × State :=
  let P := s.part p
  if !P.current tblSo h then (.err eSTALE, s)
  else
    match P.sos.find (hSlot h) with
    | none => (.err eSTALE, s)
    | some o =>
      let (a, o) := o.request who excl try_ scope reply
      (a, s.setPart p { P with sos := P.sos.put (hSlot h) o })

/-- Every hold of a party moved to another (R419). -/
def State.moveHolds (s : State) (p : Nat) (old new : SoParty) : State :=
  s.modPart p fun P => { P with sos := P.sos.map (fun x =>
    (x.1, { x.2 with holds := x.2.holds.map (fun h => if h.who == old then { h with who := new } else h) })) }

/-- Whether a party is a sequencer. -/
def SoParty.isSeq (x : SoParty) : Bool := match x with | .seq _ => true | _ => false

/-- The parties whose later release of an object that has ended is told BADSTATE. -/
def SyncObj.told (o : SyncObj) : List SoParty := o.holds.map (·.who) ++ (o.waits.map (·.who)).filter SoParty.isSeq

/-- An object's end: every hold ends and every waiter receives REVOKED (R422). A sequencer that held it or waited for it is told
BADSTATE by a later REL (R227). -/
def State.soEnd (s : State) (p slot : Nat) : State :=
  match (s.part p).sos.find slot with
  | none => s
  | some o =>
    let s := s.modPart p fun P =>
      { (P.bump tblSo slot) with ended := P.ended ++ o.told.map (fun x => (P.handle tblSo slot, x)) }
    o.waits.foldl (fun s x => s.soAnswer p x.reply (errWord eREVOKED)) s

end Sys2Proof.Machine
end

