-- ==== Sys2Proof/Machine/Regions.lean ====
section
/-! DEFINITION. Regions as a whole: attachments and ports (R218, R499), accesses of a period with its shadows (R339, R424),
the end of a period (R224, R437), stopping, killing and freeing (R153, R161, R163, R408, R411, R494). -/

namespace Sys2Proof.Machine

open Sys2Proof.Config

/-! ### Configuration fields of a tile -/

/-- Field f of a tile, zero where no write set it (R53, R54, R57, R60). -/
def Tile.fld (t : Tile) (f : Nat) : Word := Tbl.get t.fields f 0
/-- A field written. -/
def Tile.setFld (t : Tile) (f : Nat) (v : Word) : Tile := { t with fields := t.fields.put f v }
/-- Whether the element is enabled (R53). -/
def Tile.enabled (t : Tile) : Bool := bit (t.fld 0xF2) 0

/-! ### Attachments (R60, R218, R499) -/

/-- An enabled attachment: tile, attachment number, EMP and channel. -/
structure Attach where
  tile : Nat
  a : Nat
  emp : Nat
  ch : Nat
  deriving DecidableEq, Repr

/-- Attachments of a tile with a DIR. -/
def Tile.attach (t : Tile) (n dir : Nat) : List Attach :=
  (List.range 4).filterMap fun a =>
    let v := t.fld (0xE4 + a)
    if bit v 15 && bits v 11 11 == dir then some { tile := n, a := a, emp := bits v 8 0, ch := bits v 10 9 } else none

/-- The ingress (DIR 0) or egress (DIR 1) ports of a region, in the numbering of R218. -/
def State.ports_ (s : State) (r : Region) (dir : Nat) : List Attach :=
  (s.listed r).flatMap fun n => (s.tile n).attach n dir

/-- The region's attachment to an EMP channel in a direction. -/
def State.attachOf (s : State) (r : Region) (emp ch dir : Nat) : Option Attach :=
  (s.ports_ r dir).find? (fun a => a.emp == emp && a.ch == ch)

/-- The key of an attachment's port. -/
def Attach.key (a : Attach) (rn : Nat) : Nat := portKey rn a.emp a.ch

/-! ### Accesses of a period, through its shadows (R339, R424) -/

/-- Where a physical address of a period's access stands: in its shadow, where it has one. -/
def Region.shadowed (r : Region) (pa : Nat) : Nat :=
  match r.shadows.find? (fun x => x.pa == pa / 65536) with
  | some x => x.own * 65536 + pa % 65536
  | none => pa

/-- The n bytes at a virtual address of a region's period. -/
def State.rread (s : State) (rn va n : Nat) : Except (Nat × XFault) (List Byte) :=
  match s.region? rn with
  | none => .ok []
  | some r =>
    (locate s.mem (s.rgXlate r) .read va (piecesOf va n)).map
      (fun ps => (ps.map (fun q => s.mem.read (r.shadowed q.1) q.2)).flatten)

/-! ### Granules a period uses (R426) -/

/-- Whether a granule is lost: it held a word that could not be read, or stands in a failed pseudo-channel. -/
def State.granLost (s : State) (g : Nat) : Bool :=
  s.lostGran.contains g ||
  s.failed.any (fun f =>
    match f with
    | .pseudoChannel st pc => decide (g * 65536 < 16 * stackBytes) && stackOf (g * 65536) == st && g % 8 == pc / 32
    | _ => false)

/-- The running period of a region uses the granules of n bytes at a virtual address: they are noted, and with a lost one among them the
period completes with DATA_LOST (R426). -/
def State.touch (s : State) (rn va n : Nat) : State :=
  match s.region? rn with
  | none => s
  | some r =>
    let gs := match locate s.mem (s.rgXlate r) .read va (piecesOf va n) with
      | .ok ps => ps.map (fun (q : Nat × Nat) => q.1 / 65536)
      | .error _ => []
    { s with
      used := gs.foldl (fun u g => if u.contains (r.period, g) then u else (r.period, g) :: u) s.used
      lostPeriods := if gs.any s.granLost then s.lostPeriods ++ [r.period] else s.lostPeriods }

/-- The regions whose running period has used a granule of a set. -/
def State.usersOf (s : State) (f : Nat → Bool) : List Nat :=
  (s.regions.filter (fun x => x.2.run.isSome && s.used.any (fun u => u.1 == x.2.period && f u.2))).map (·.1)

/-- The shadow granules in use in a partition. -/
def State.shadowUsed (s : State) (p : Nat) : List Nat :=
  (s.regions.filter (fun x => x.2.part == p)).flatMap (fun x => x.2.shadows.map (·.own))

/-- A free granule of the partition's shadow pool: its guest-physical address and its physical granule number. -/
def State.freeShadow (s : State) (p : Nat) : Option (Nat × Nat) :=
  match (s.part p).desc with
  | none => none
  | some d =>
    (List.range (d.shadowlen / 65536)).findSome? fun i =>
      match translate s.mem (s.gpa p) (d.shadowbase + 65536 * i) .write with
      | .ok (pa, _) => if (s.shadowUsed p).contains (pa / 65536) then none else some (d.shadowbase + 65536 * i, pa / 65536)
      | .error _ => none

/-- Whether a piece of an in-place period's write needs a shadow it does not have yet: the granule, in device memory. -/
def Region.needsShadow (r : Region) (pa : Nat) : Bool :=
  r.inPlace && paDevice pa && !r.shadows.any (fun x => x.pa == pa / 65536)

/-- The guest-physical address of a virtual one. -/
def gaOf (m : Memory) (x : Xlate) (va : Nat) : Nat := match walk1 m x va with | .ok l => l.addr | .error _ => 0

/-- Shadows made for the granules of a write, given by virtual and physical address, each a copy of its granule; none where the pool is
empty (R424). -/
def State.makeShadows : List (Nat × Nat) → State → Nat → Option State
  | [], s, _ => some s
  | (va, pa) :: t, s, rn =>
    match s.region? rn with
    | none => some s
    | some r =>
      if r.needsShadow pa then
        match s.freeShadow r.part with
        | none => none
        | some (sga, g) =>
          let x : Shadow := { pa := pa / 65536, ga := gaOf s.mem (s.rgXlate r) va / 65536 * 65536, own := g, sga := sga }
          let s := { s with mem := s.mem.write (g * 65536) (s.mem.read (pa / 65536 * 65536) 65536) }
          makeShadows t (s.setRegion rn { r with shadows := r.shadows ++ [x] }) rn
      else makeShadows t s rn

/-- Bytes written at a virtual address by a region's period: a fault, or none where an in-place period waits for a shadow,
or the state after. -/
def State.rwrite (s : State) (rn va : Nat) (bs : List Byte) : Except (Nat × XFault) (Option State) :=
  match s.region? rn with
  | none => .ok (some s)
  | some r =>
    match locate s.mem (s.rgXlate r) .write va (piecesOf va bs.length) with
    | .error e => .error e
    | .ok ps =>
      match s.makeShadows (((piecesOf va bs.length).zip ps).map (fun x => (x.1.1, x.2.1))) rn with
      | none => .ok none
      | some s =>
        match s.region? rn with
        | none => .ok (some s)
        | some r => .ok (some { s with mem := putPieces s.mem (ps.map (fun q => (r.shadowed q.1, q.2))) bs })

/-- A leaf entry that maps a granule pointed at another (R341). -/
def Memory.aim (m : Memory) (at_ granule : Nat) : Memory :=
  let e := m.readN at_ 8
  m.writeN at_ 8 (e - nbits e 51 8 * 256 + granule * 65536)

/-- One shadow made visible: the stage-2 leaf entries of the granule and of its shadow change places, so that the old granule, zeroed,
is the pool's (R424, R439). Where either is not mapped by a leaf of one granule the bytes change places instead (notes/assumptions
28). -/
def Shadow.show (m : Memory) (s2 : Option Nat) (x : Shadow) : Memory :=
  let bytes := (m.write (x.pa * 65536) (m.read (x.own * 65536) 65536)).zero (x.own * 65536) (x.own * 65536 + 65536)
  match walk2 m s2 x.ga, walk2 m s2 x.sga with
  | .ok a, .ok b =>
    if s2.isSome && a.size = 65536 && b.size = 65536 && a.addr = x.pa * 65536 && b.addr = x.own * 65536 then
      ((m.aim a.at_ x.own).aim b.at_ x.pa).zero (x.pa * 65536) (x.pa * 65536 + 65536)
    else bytes
  | _, _ => bytes

/-- The shadows of a region made visible by one journalled switch (R424). -/
def State.showShadows (s : State) (rn : Nat) : State :=
  match s.region? rn with
  | none => s
  | some r =>
    if r.shadows.isEmpty then s
    else
      let m := r.shadows.foldl (fun m x => x.show m (s.gpa r.part).s2) s.mem
      { s with mem := m, journal := s.journal ++ [JEntry.switch r.period (r.shadows.map (fun (x : Shadow) => (x.ga, x.own)))] }.setRegion rn
        { r with shadows := [] }

/-- Shadows discarded: zeroed and given back (R425, R439). -/
def State.dropShadows (s : State) (rn : Nat) : State :=
  match s.region? rn with
  | none => s
  | some r =>
    let m := r.shadows.foldl (fun m x => m.zero (x.own * 65536) (x.own * 65536 + 65536)) s.mem
    { s with mem := m }.setRegion rn { r with shadows := [] }

/-! ### Stopping (R153, R411) -/

/-- Whether the region's agents run: its beats move, its rules fire and its ports take requests. -/
def Region.active (r : Region) : Bool := r.state == .running || r.state == .draining
def State.runs (s : State) (rn : Nat) : Bool := match s.region? rn with | some r => r.active | none => false

/-- The operations of a region's tiles that wait for an ACQN (R370). -/
def State.waitingAcqns (s : State) (r : Region) : List (Nat × MtOp) :=
  (s.listed r).flatMap fun n => ((s.tile n).ops.filter (fun o => bits o.op 7 0 == 0x1C && !o.done)).map (fun o => (n, o))

/-- A region becomes STOPPED with a WHY; its waiting ACQs are withdrawn (R226), and the STOP record is written (R446). -/
def State.stopped (s : State) (rn why : Nat) : State :=
  match s.region? rn with
  | none => s
  | some r =>
    let s := s.withdrawAcqs rn r.part
    (s.modRegion rn fun r => { r with
      state := .stopped, why := why, frzWhy := 0, saved := false, seq := { r.seq with stopNext := false } }).trace rn 4 why 0

/-! ### The end of a period (R224, R437, R501) -/

/-- The running period ends with a status carried to its join block; the record is no longer held. -/
def State.endPeriod (s : State) (rn status : Nat) : State :=
  match s.region? rn with
  | none => s
  | some r =>
    match r.run with
    | none => s
    | some c =>
      let x := s.rgXlate r
      let s := { s with journal := s.journal ++ [JEntry.retire r.period] }
      let s := s.retireJoin r.part x c.join.toNat status c.iidx
      s.modRegion rn fun r => { r with run := none }

/-- The replies that stand at a region's ports dropped with the incarnation they carry, and counted in STALEREP (R420). -/
def State.countStale (s : State) (rn p : Nat) : State :=
  (List.range ((s.ports.filter (fun x => x.1 / 2048 == rn)).map (fun x => x.2.reply.length)).sum).foldl (fun s _ => s.errCount p 0) s

/-- The beats that have come for a port in link mode and stand at its Akend port dropped, and their credit returned (R453). -/
def State.dropSlot (s : State) (p : Port) : State :=
  match p.linkIn with
  | none => s
  | some l =>
    let n := ((s.ak l.aport).slots.get l.chan []).length
    if n = 0 then s
    else
      let s := s.modAk l.aport fun a => { a with slots := a.slots.del l.chan }
      (List.range n).foldl (fun s _ => s.sendFlit l.aport 1 0 0 (l.chan + 2 ^ 16) []) s

/-- The ports of a region taken away. -/
def State.dropPorts (s : State) (rn : Nat) : State :=
  let s := (s.ports.filter (fun x => x.1 / 2048 == rn)).foldl (fun s x => s.dropSlot x.2) s
  { s with ports := s.ports.filter (fun x => x.1 / 2048 != rn) }

/-- The indirect streams a region issued taken from every engine (R367). -/
def State.dropStreams (s : State) (rn : Nat) : State :=
  { s with dies := s.dies.map (fun d => (d.1,
      { engines := d.2.engines.filter (fun e => e.2.rn != rn), queue := d.2.queue.filter (fun e => e.rn != rn) })) }

/-- The withheld accesses of a region taken away; the result of an install that has ended is still to be written. -/
def State.dropHeld (s : State) (rn : Nat) : State :=
  { s with parts := s.parts.map (fun (x : Nat × Partition) => (x.1, { x.2 with
      held := x.2.held.filter (fun h => h.rn != rn || (match h.who with | .result _ => true | _ => false)) })) }

/-- A region's tiles, switches, ports and sequencer zeroed (R439). -/
def State.zeroRegion (s : State) (rn : Nat) : State :=
  match s.region? rn with
  | none => s
  | some r =>
    let s := ((s.dropHeld rn).dropPorts rn).dropStreams rn
    (s.zeroTiles r).modRegion rn fun r => { r with
      seq := Seq.zero, sects := [], version := 0, cycles := 0, phase := 0, zeroing := true, code := [], attach := none }

/-- The result of an ended install: 16 bytes (R156). A window or an index that the spec does not state is that of `free`. -/
def installResult (status : Nat) (win : Option (Nat × Nat)) (idx : Option Byte) (off ver : Nat) (free : Word) : List Byte :=
  let wv := win.getD (bits free 5 0, bits free 13 8)
  leBytes status 2 ++ leBytes (wv.1 + 256 * wv.2) 2 ++ [idx.getD (w (bits free 23 16))] ++ leBytes 0 3 ++ leBytes off 4 ++ leBytes ver 4

/-- The state that an install leaves its region in once its result is written (R156). -/
def State.installed (s : State) (c : CfgResult) : State :=
  match c.next with
  | some (rn, st, v) => s.modRegion rn fun g => { g with state := st, version := v }
  | none => s

/-- The result of an rg.cfg written at its result address, and then the state of its region: a page fault withholds the write (R144); a
permission or format fault, for which the spec names no other place, ends it with nothing written (notes/assumptions 42). -/
def State.putResult (s : State) (rn : Nat) (c : CfgResult) : State :=
  match vwrite s.mem c.xl c.addr.toNat c.bytes with
  | .ok m => { s with mem := m }.installed c
  | .error (o, f) =>
    if f.kind == .page then
      (s.withholdHart rn (.result c.addr) c.xl o f true (c.addr.toNat + o)).modPart c.xl.part fun P => { P with results := P.results ++ [c] }
    else s.installed c

/-- The result of an install that has ended with a status, an element where one is at fault, and an offset, and the state its region takes
after it. What the result names where no element is at fault the spec does not state: a free value (notes/assumptions 14). -/
def State.putInstall (s : State) (rn : Nat) (i : Install) (status : Nat) (win : Option (Nat × Nat)) (idx : Option Byte) (off : Nat)
    (next : Option (Nat × RgState × Half)) : State :=
  { s with freeCtr := s.freeCtr + 1 }.putResult rn
    { addr := i.result, xl := i.xl, bytes := installResult status win idx off i.version.toNat (Config.freeWord s.freeCtr), next := next }

/-- The results of a region's installs that are still to be written change nothing of it any more: it has been killed. -/
def State.forgetResults (s : State) (rn : Nat) : State :=
  { s with parts := s.parts.map (fun (x : Nat × Partition) => (x.1, { x.2 with
      results := x.2.results.map (fun (c : CfgResult) => if c.next.any (fun y => y.1 == rn) then { c with next := none } else c) })) }

/-- The asynchronous operations of a region abandoned (R161): a cfg result reads KILLED, a save leaves an image without its valid word,
a load ends without loading, and the other side of a rebase is left as if it had not begun. -/
def State.abandon (s : State) (rn : Nat) : State :=
  match s.region? rn with
  | none => s
  | some r =>
    let s := s.forgetResults rn
    let s := match r.inst with
      | some i =>
        let s := s.trace rn 6 6 i.next
        if i.byCfg then s else s.putInstall rn i 6 none none i.next none
      | none => s
    let s := match r.async with
      | some (.save va x) =>
        (match vwrite s.mem x (va.toNat + 248) (leBytes 0 8) with
         | .ok m => { s with mem := m }
         | .error _ => s)
      | some (.rebaseFrom dst) => s.modRegion dst fun g => { g with state := .claimed, async := none }
      | some (.rebaseTo src) => s.modRegion src fun g => { g with state := .stopped, async := none }
      | _ => s
    s.modRegion rn fun g => { g with inst := none, async := none }

/-! ### Replay (R425) -/

/-- The latest commit image journalled for a period. -/
def State.commitImage (s : State) (period : Nat) : Option (List Byte) :=
  s.journal.reverse.findSome? fun e =>
    match e with
    | .commit n b => if n = period then some b else none
    | _ => none

/-- Queue and level of the record a period was popped as. -/
def State.popOf (s : State) (period : Nat) : Option (Nat × Nat × Nat × Cont) :=
  s.journal.reverse.findSome? fun e =>
    match e with
    | .pop n p q _ _ c => if n = period then some (p, q, c.prio, c) else none
    | _ => none

/-- The RESUME record of a period's latest commit image: the image itself stands in the journal. -/
def resumeOf (c : Cont) : Cont := { c with code := 0, flags := w (bits c.flags 63 8 * 256 + kRESUME * 4 + c.prio) }

/-- A period that is not retired pushed again, as its journalled record or as a RESUME of its latest commit image, into the
reserve of the queue and level its record came from; a loaded context's period goes to its ORIGQ (R425). -/
def State.replay (s : State) (r : Region) : State :=
  match r.run with
  | none => s
  | some c =>
    let (p, q, c) := match s.popOf r.period with
      | some (p, q, _, c) => (p, q, c)
      | none => (r.part, hSlot r.origq.toNat - 1, c)
    let c := if r.inPlace && (s.commitImage r.period).isSome then resumeOf c else c
    s.pushOr p q (s.rgXlate r) c (some r.period)

/-! ### Kill and free (R161, R163, R408, R494) -/

/-- A region killed (R161): incarnation raised, operations abandoned, holds released, period completed with a status or, where
there is none, replayed (R408), tiles and sequencer zeroed, CLAIMED. -/
def State.kill (s : State) (rn : Nat) (status : Option Nat) : State :=
  match s.region? rn with
  | none => s
  | some r =>
    let s := s.modRegion rn fun g => { g with incarn := g.incarn + 1 }
    let s := (s.abandon rn).countStale rn r.part
    let s := s.dropShadows rn
    let s := s.withdrawAcqs rn r.part
    let s := s.releaseAll r.part (.seq rn)
    let s := match status with
      | some st => s.endPeriod rn st
      | none => s.replay r
    (s.zeroRegion rn).modRegion rn fun g => { g with state := .claimed, why := 0, frzWhy := 0, run := none, debug := false }

/-- The status a killed region's period completes with: FAULT after WHY 5, no completion after WHY 4 (R408), else KILLED; the region is
still stopped while its image is written or it moves. -/
def Region.killStatus (r : Region) : Option Nat :=
  if r.state == .stopped || r.state == .saving then
    (if r.why == 4 then none else if r.why == 5 then some stFAULT else some stKILLED)
  else some stKILLED

/-- A number for the area of a freed region while its tiles are zeroed: its sequencer is already released (R163, R439). -/
def State.areaKey (s : State) (rn : Nat) : Nat :=
  let ks := (List.range (s.regions.length + 1)).map (fun i => rn + 1024 * (i + 1))
  (ks.find? (fun k => (s.region? k).isNone)).getD rn

/-- A region freed: tiles zeroed, sequencer released, slot freed (R163); its area stays until the zeroing completes. -/
def State.freeRegion (s : State) (rn : Nat) : State :=
  let s := s.zeroRegion rn
  match s.region? rn with
  | none => s
  | some r =>
    let s := s.modPart r.part fun P => P.bump tblRegion r.slot
    let s := { s with regions := s.regions.del rn }
    s.setRegion (s.areaKey rn) { r with freeing := true, state := .claimed, run := none }

/-- What becomes of the period and the holds of a region at rg.free: a period owed by a saved image leaves them as orphan holds;
any other completes, or is replayed after WHY 4 (R408, R419, R494). What an owed period wrote to shadows becomes visible
(notes/assumptions 28). -/
def State.settle (s : State) (rn : Nat) (r : Region) : State :=
  if r.state == .stopped && r.saved && r.run.isSome then (s.showShadows rn).moveHolds r.part (.seq rn) .orphan
  else
    let s := (s.dropShadows rn).releaseAll r.part (.seq rn)
    match r.killStatus with
    | some st => s.endPeriod rn st
    | none => s.replay r

end Sys2Proof.Machine
end

