-- ==== Sys2Proof/Machine/Guard.lean ====
section
/-! DEFINITION. The least privilege of the tables and blocks reached by address (R11, R12, R431, R449; notes/assumptions 48). -/

namespace Sys2Proof.Machine

open Sys2Proof.Config

/-- Whether the k bytes at a meet the n bytes at b. -/
def meets (b n a k : Nat) : Bool := decide (a < b + n) && decide (b < a + k)

/-- The tables and blocks of a descriptor that are read and written at GK, by guest-physical address and length: the shape-class and ATTN
page tables, the ATTN status block, the fault queue, the trace ring, the error block, the queue table and the service table. -/
def Desc.tables (d : Desc) : List (Nat × Nat) :=
  [(d.sctab, 4096 * 64), (d.attntab, 16 * d.nattn), (d.attnstat, 64), (d.fqbase, 64 * 2 ^ d.fqlog), (d.trbase, 32 * 2 ^ d.trlog),
   (d.errblk, 64), (d.qtab, 64 * 128), (d.svctab, 16 * 64)]

/-- Whether an access at a level to guest-physical addresses of a partition is below a table's least privilege; an entry of the service
table with HVSVC set is written at HV alone (R431). -/
def State.gaDenied (s : State) (lvl p ga n : Nat) (write : Bool) : Bool :=
  match (s.part p).desc with
  | none => false
  | some d =>
    if lvl = 0 then d.tables.any (fun t => meets t.1 t.2 ga n)
    else write && meets d.svctab (16 * 64) ga n && (List.range 16).any (fun i =>
      meets (d.svctab + 64 * i) 64 ga n && (fieldAt (s.gread p (d.svctab + 64 * i) 4) 0 4).testBit 1)

/-- The same of what stands at physical addresses: of each partition in force its descriptor and its trusted-key and namespace tables, read at
GK by the partition itself and written at HV. -/
def State.paDenied (s : State) (lvl p pa n : Nat) (write : Bool) : Bool :=
  (List.range numParts).any (fun q =>
    match (s.part q).desc with
    | none => false
    | some d =>
      (write || lvl == 0 || q != p) &&
      [(d.keytab, 64 * 192), (d.nstab, 16 * 32), (s.vdtab + 1024 * q, 1024)].any (fun t => meets t.1 t.2 pa n))

/-- The first address at which an access of n bytes at a level is below the least privilege of what stands there; none where it is below
none, or does not translate. -/
def State.denied (s : State) (lvl : Nat) (x : Xlate) (va n : Nat) (write : Bool) : Option Nat :=
  if 2 ≤ lvl then none
  else (piecesOf va n).findSome? (fun q =>
    match walk1 s.mem x q.1 with
    | .error _ => none
    | .ok l =>
      match walk2 s.mem x.s2 l.addr with
      | .error _ => none
      | .ok m =>
        if (x.s2.isSome && s.gaDenied lvl x.part l.addr q.2 write) || s.paDenied lvl x.part m.addr q.2 write then some q.1 else none)

/-- The record of an access below its least privilege. -/
def privRec (src : Nat) (va : Nat) (write : Bool) : FaultRec := { FaultRec.of fPRIV src with addr := w va, flags := w (b2n write) }

/-- A region's access denied, which is made at U: the address, if it is. -/
def State.rgDenied (s : State) (rn va n : Nat) (write : Bool) : Option Nat :=
  match s.region? rn with
  | some r => s.denied 0 (s.rgXlate r) va n write
  | none => none

/-- The PRIV record of a region's access: the region is unchanged (R12, R406). -/
def State.rgPriv (s : State) (rn src place detail va : Nat) (write : Bool) : State :=
  match s.region? rn with
  | some r => s.postRg r.part rn true false { privRec src va write with place := w place, detail := w detail }
  | none => s

end Sys2Proof.Machine
end

