-- ==== Sys2Proof/Machine/Buffers.lean ====
section
/-! DEFINITION. The typed buffers of an MT (R58, R334, R335), and decoded reads of formatted pages (R108-R113, R345). -/

namespace Sys2Proof.Machine

/-! ### Typed buffers (R58, R334) -/

def bufW : Nat := 0
def bufX : Nat := 1
def bufY : Nat := 2

/-- The banks BANKMAP gives a buffer, ascending. -/
def Tile.bankList (t : Tile) (buf : Nat) : List Nat :=
  (List.range 16).filter fun b => bits (t.fld 0x60) (2 * b + 1) (2 * b) == buf + 1

/-- Bytes of a buffer. -/
def Tile.bufSize (t : Tile) (buf : Nat) : Nat := 4096 * (t.bankList buf).length

/-- The place in the scratchpad of byte x of a buffer. -/
def Tile.bufAt (t : Tile) (buf x : Nat) : Nat := 4096 * nth (t.bankList buf) (x / 4096) 0 + x % 4096

/-- Whether an access of n bytes at x lies in the buffer. -/
def Tile.bufIn (t : Tile) (buf x n : Nat) : Bool := decide (x + n ≤ t.bufSize buf) && decide (0 < n)

/-- The n bytes of a buffer from x. -/
def Tile.bufRead (t : Tile) (buf x n : Nat) : List Byte := (List.range n).map (fun i => t.banks.get (t.bufAt buf (x + i)))

/-- Bytes written to a buffer from x. -/
def Tile.bufPut (t : Tile) (buf : Nat) : Nat → List Byte → Tile
  | _, [] => t
  | x, b :: bs => Tile.bufPut { t with banks := t.banks.put (t.bufAt buf x) b } buf (x + 1) bs

/-- The bytes of SIZE (R73). -/
def sizeBytes (sz : Nat) : Nat := match sz with | 0 => 4 | 1 => 8 | 2 => 64 | _ => 128

/-! ### Beats -/

/-- The lanes of bytes, lane l from byte 4l. -/
def lanesOfBytes (bs : List Byte) : Lanes := lanesOf (fun l => w (fieldAt bs (4 * l) 4))

/-- The bytes of the lanes of a beat. -/
def bytesOfLanes (l : Lanes) : List Byte := (l.map (fun x => leBytes x.toNat 4)).flatten

/-- A data beat. -/
def dataBeat (rnd : BitVec 8) (tag : Word) (valid : Nat) (l : Lanes) : Beat :=
  { kind := 0, rnd := rnd, tag := tag, valid := w valid, lanes := l }

/-- A header beat with its word in lane 0 (R106). -/
def headerBeat (rnd : BitVec 8) (tag : Word) (h : Word) : Beat :=
  { kind := 1, rnd := rnd, tag := tag, valid := 1, lanes := lanesOf (fun l => if l = 0 then h else 0) }

/-- A beat of kinds 2 to 5: zero lanes, mask and tag (R105). -/
def markBeat (kind : Nat) (rnd : BitVec 8) : Beat :=
  { kind := w kind, rnd := rnd, tag := 0, valid := 0, lanes := lanesOf (fun _ => 0) }

/-- A burst header word (R107). -/
def headerWord (hkind last blen spare scale : Nat) : Word :=
  w (hkind * 2 ^ 23 + last * 2 ^ 22 + blen * 2 ^ 16 + spare * 2 ^ 8 + scale)

/-- A beat of its eighteen words. -/
def beatOf18 (ws : List Word) : Beat :=
  let x := nth ws 17 0
  { kind := w (bits x 11 8), rnd := w (bits x 7 0), tag := nth ws 16 0, valid := w (bits x 31 16), lanes := lanesOf (fun l => nth ws l 0) }

/-- The words of a beat (R56). -/
def Beat.words18 (b : Beat) : List Word :=
  b.lanes ++ [b.tag, w (b.rnd.toNat + b.kind.toNat * 256 + b.valid.toNat * 65536)]

/-- The bits of parity group g of a beat: lanes 2g and 2g + 1, and the sideband bits 512 + j with j mod 8 = g (R104). -/
def parityBits (g : Nat) : List Nat :=
  (List.range 64).map (fun i => 64 * g + i) ++ ((List.range 60).filter (fun j => j % 8 == g)).map (fun j => 512 + j)

/-- A beat's bits 571:0 (R103). -/
def Beat.low (b : Beat) : BitVec 572 :=
  b.kind ++ b.rnd ++ b.tag ++ b.valid ++ w (n := 512) (((List.range 16).map (fun l => (lane b.lanes l).toNat * 2 ^ (32 * l))).sum)

/-- Whether the XOR of a group of bits is 1. -/
def groupOdd {n : Nat} (x : BitVec n) (g : Nat) : Bool := (parityBits g).foldl (fun p i => p != x.getLsbD i) false

/-- PAR, formed with the beat: bit g makes group g even (R104). -/
def Beat.par (b : Beat) : Byte := w (((List.range 8).map (fun g => b2n (groupOdd b.low g) * 2 ^ g)).sum)

/-- The 580 bits that links and FIFOs carry (R103), and the check of them at the next FIFO (R104): a beat that fails it is a
PARITY_ERROR. -/
def Beat.bits580 (b : Beat) : BitVec 580 := b.par ++ b.low
def parityOk (x : BitVec 580) : Bool := (List.range 8).all (fun g => groupOdd x g == x.getLsbD (572 + g))

/-! ### Decoded units (R345) -/

/-- The bytes of a unit's data, and units of a granule, by attribute (R109-R112). -/
def unitStep (fmt : Nat) : Nat := match fmt with | 1 => 16 | 2 => 8 | 3 => 32 | 4 => 32 | _ => 256
def unitCount (fmt : Nat) : Nat := match fmt with | 1 => 3584 | 2 => 6144 | 3 => 1920 | 4 => 1920 | _ => 240

/-- One decoded unit: its header (LAST clear), the data bytes, the VALID masks of its data beats, and its tag, none where the
slot sends no beat. -/
structure DecUnit where
  header : Word
  data : List Byte
  beats : List (Nat × Nat)
  tag : Option Word
  live : Bool
  next : Nat
  deriving DecidableEq, Repr

/-- Whether the LIVE, FLAGS and DIM of an ATTN page, at its offset 63,840, are in range; DIM is the byte at 63,844, the rest of its word
ignored (R112, R113). -/
def attnTailOk (t : List Byte) : Bool :=
  decide (fieldAt t 0 2 ≤ 240) && fieldAt t 2 2 / 4 == 0 && decide (1 ≤ fieldAt t 4 1) && decide (fieldAt t 4 1 ≤ 128)

/-- The data beats of n bytes: the offset and the number of lanes of each. -/
def dataBeats (n : Nat) : List (Nat × Nat) := (List.range ((n + 63) / 64)).map (fun i => (64 * i, min 16 ((n - 64 * i) / 4)))

/-- The unit at a byte of a granule, from a function that reads its bytes. -/
def decodeUnit (fmt off : Nat) (rd : Nat → Nat → List Byte) (va : Nat) : Option DecUnit :=
  let step := unitStep fmt
  let k := off / step
  if fmt = 0 || off % step ≠ 0 || unitCount fmt ≤ k then none
  else
    let next := if k + 1 = unitCount fmt then va - off + 65536 else va + step
    let data := rd off step
    match fmt with
    | 1 | 2 =>
      let p := if fmt = 1 then 57344 else 49152
      some { header := headerWord 0 0 (if fmt = 1 then 32 else 16) (leNat (rd (p + 2 * k + 1) 1)) (leNat (rd (p + 2 * k) 1))
             data := data, beats := dataBeats step, tag := none, live := true, next := next }
    | 3 | 4 =>
      some { header := headerWord 0 0 32 0x80 (leNat (rd (61440 + k) 1)), data := data, beats := dataBeats step, tag := none
             live := true, next := next }
    | 5 =>
      let n := leNat (rd (61440 + 2 * k) 2)
      some { header := headerWord 1 0 0 (n / 256) (n % 256), data := data, beats := dataBeats 256, tag := none, live := true
             next := next }
    | _ =>
      let n := leNat (rd (61440 + 2 * k) 2)
      let live := leNat (rd 63840 2)
      let dim := leNat (rd 63844 1)
      if 240 < live || dim = 0 || 128 < dim || leNat (rd 63842 2) / 4 ≠ 0 then none
      else
        some { header := headerWord 1 0 0 (n / 256) (n % 256), data := data.take (64 * ((dim + 31) / 32))
               beats := (List.range ((dim + 31) / 32)).map (fun i => (64 * i, 16))
               tag := some (w (leNat (rd (61920 + 4 * k) 4))), live := decide (k < live), next := next }

/-- A decoded unit at a virtual address under a translation, read where `sh` says the bytes stand, or the fault that
withholds it. -/
def State.decUnit (s : State) (x : Xlate) (sh : Nat → Nat) (va : Nat) : Except XFault DecUnit :=
  match translate s.mem x va .read with
  | .error f => .error f
  | .ok (pa, fmt) =>
    let base := pa - va % 65536
    match decodeUnit fmt (va % 65536) (fun o n => s.mem.read (sh (base + o)) n) va with
    | some u => .ok u
    | none => .error { kind := .format, stage := 1, ga := 0 }

end Sys2Proof.Machine
end

