-- ==== Sys2Proof/Machine/Operands.lean ====
section
/-! DEFINITION. The operand forms of sequencer words and of Xlan words: issue with its waits and traps (R75, R199, R202), the
operands' values, and the reads a hart makes for an Xlan instruction (R142, R144, R146). -/

namespace Sys2Proof.Machine

/-! ### Sequencer operands -/

/-- The value of a source. -/
def Region.src (r : Region) (x : Src) : Dword := r.seq.get x.reg

/-- Whether a source is full, and whether it traps when it is not (R75, R199). -/
def Region.srcFull (r : Region) (x : Src) : Bool := r.seq.isFull x.reg

/-- The registers a mask names that are full, as a mask (R230). -/
def Seq.fullMask (q : Seq) (m : Dword) : Dword := (q.full.setWidth 64 ||| 1) &&& m &&& 0xFFFFFFFE

/-- The sequencer that issues moves past its word. -/
def State.seqNext (s : State) : State := s.modSeq s.curSeq (fun q => { q with pc := q.pc + 4 })

/-- A result written, full, and the sequencer past its word. -/
def State.seqResult (s : State) (d : Reg) (v : Dword) : State :=
  s.modSeq s.curSeq (fun q => { (q.set d v) with pc := q.pc + 4 })

/-- A trap of the sequencer that issues. -/
def State.trapNow (s : State) (code : Nat) : State := s.seqTrap s.curSeq code 0 0

/-- Issue of an instruction (R199): it waits while an empty source's T bit is 0 or its destination is empty, traps FEEMPTY
where an empty source's T bit is 1, and otherwise is performed. -/
def State.issue (s : State) (srcs : List Src) (dst : Option Reg) (f : Region → State → State) : State :=
  match s.region? s.curSeq with
  | none => s
  | some r =>
    if !r.active || r.seq.stopNext then s
    else if srcs.any (fun x => !r.srcFull x && x.t) then s.trapNow fFEEMPTY
    else if srcs.any (fun x => !r.srcFull x) then s
    else
      match dst with
      | some d => if r.seq.isFull d then f r s else s
      | none => f r s

/-- Issue of an instruction that waits while the region drains (R410). -/
def State.issueRunning (s : State) (srcs : List Src) (dst : Option Reg) (f : Region → State → State) : State :=
  s.issue srcs dst (fun r s => if r.state == .running then f r s else s)

/-- The address of a scalar access (R206). -/
def effAddr (a : Dword) {n : Nat} (imm : BitVec n) : Dword := a + imm.signExtend 64

/-- The PC after a branch or jump of OFF words (R205). -/
def jumpPc (pc : Nat) {n : Nat} (off : BitVec n) : Nat := ((w pc : Word) + 4 * off.signExtend 32).toNat

/-- Whether an earlier scalar access outstanding touches one of the aligned 8-byte words from a to b (not included) (R207). -/
def accBlocked (acc : Tbl SeqAcc) (k : Nat) (a b : Nat) : Bool :=
  acc.any (fun x => decide (x.1 < k) && decide (a / 8 ≤ x.2.va.toNat / 8) && decide (x.2.va.toNat / 8 < (b + 7) / 8))

/-- The bytes of the descriptor of a form (R209). -/
def descBytes (form : Nat) : Nat := if form = 1 then 64 else 32

/-- Whether the descriptor of an earlier copy, still to be read, holds the word of an address (R207, R209). -/
def descBlocked (copies : Tbl Copy) (k : Nat) (va : Nat) : Bool :=
  copies.any (fun x => decide (x.2.ord < k) &&
    (match x.2.desc with
     | some da => decide (da.toNat ≤ va) && decide (va < da.toNat + descBytes x.2.form)
     | none => false))

/-! ### Xlan operands -/

/-- The running hart. -/
def State.me (s : State) : Hart := s.hart s.curHart

/-- The result word written to rd and the hart past its word (R142). -/
def State.xResult (s : State) (rd : Reg) (v : Dword) : State := s.modHart s.curHart (fun h => (h.set rd v).advance)

/-- An Xlan instruction refused with an error code. -/
def State.xErr (s : State) (rd : Reg) (code : Nat) : State := s.xResult rd (errWord code)

/-! ### Exceptions of a hart (R12, R79, R144, R500; RISC-V's privileged architecture, notes/assumptions 3) -/

def cILLEGAL : Nat := 2
def cLOADMISAL : Nat := 4
def cLOADACC : Nat := 5
def cSTOREMISAL : Nat := 6
def cSTOREACC : Nat := 7
def cFETCHACC : Nat := 1
def cFETCHPAGE : Nat := 12
def cLOADPAGE : Nat := 13
def cSTOREPAGE : Nat := 15
def cFETCHGPAGE : Nat := 20
def cLOADGPAGE : Nat := 21
def cVIRTUAL : Nat := 22
def cSTOREGPAGE : Nat := 23

/-- RISC-V's numbers of the trap registers used. -/
def xSTATUS : Nat := 0x100
def xTVEC : Nat := 0x105
def xEPC : Nat := 0x141
def xCAUSE : Nat := 0x142
def xTVAL : Nat := 0x143
def vSTATUS : Nat := 0x200
def vTVEC : Nat := 0x205
def vEPC : Nat := 0x241
def vCAUSE : Nat := 0x242
def vTVAL : Nat := 0x243
def mSTATUS : Nat := 0x300
def mEDELEG : Nat := 0x302
def mIDELEG : Nat := 0x303
def mTVEC : Nat := 0x305
def mEPC : Nat := 0x341
def mCAUSE : Nat := 0x342
def mTVAL : Nat := 0x343
def mTINST : Nat := 0x34A
def mTVAL2 : Nat := 0x34B
def hSTATUS : Nat := 0x600
def hEDELEG : Nat := 0x602
def hIDELEG : Nat := 0x603
def hTVAL : Nat := 0x643

/-- A CSR of the RISC-V set, zero before it is written. -/
def Hart.rcsr (h : Hart) (n : Nat) : Dword := Tbl.get h.csr n 0
def Hart.setRcsr (h : Hart) (n : Nat) (v : Dword) : Hart := { h with csr := h.csr.put n v }

/-- A word with bits h:l replaced. -/
def putBits (x : Dword) (h l v : Nat) : Dword :=
  w (x.toNat - nbits x.toNat h l * 2 ^ l + v % 2 ^ (h + 1 - l) * 2 ^ l)

/-- The mode that takes a trap: M unless delegated to HS, and from VS or VU to VS where HS delegates it further. -/
def Hart.trapMode (h : Hart) (cause : Nat) (irq : Bool) : Mode :=
  let md := h.rcsr (if irq then mIDELEG else mEDELEG)
  let hd := h.rcsr (if irq then hIDELEG else hEDELEG)
  if h.mode == .m || !bit md cause then .m
  else if (h.mode == .vs || h.mode == .vu) && bit hd cause then .vs
  else .hs

/-- The handler's address: BASE, plus 4 * cause for an interrupt in vectored mode; the cause is the one the mode's cause register
holds, so a VS interrupt counts from cause - 1. -/
def tvecPc (tvec : Dword) (cause : Nat) (irq : Bool) : Dword :=
  let base : Dword := putBits tvec 1 0 0
  if bits tvec 1 0 = 1 && irq then base + w (4 * cause) else base

/-- Taking an exception or an interrupt: the epc, cause and tval of the mode that takes it, the interrupt-enable stacked and
cleared, the previous privilege recorded, and the pc at the handler (RISC-V's privileged architecture). -/
def Hart.takeTrap (h : Hart) (cause : Nat) (irq : Bool) (tval tval2 : Dword) : Hart :=
  let cw : Dword := w (cause + 2 ^ 63 * b2n irq)
  let virt := h.mode == .vs || h.mode == .vu
  match h.trapMode cause irq with
  | .m =>
    let st := h.rcsr mSTATUS
    let mpp := match h.mode with | .u | .vu => 0 | .vs | .hs => 1 | .m => 3
    let st := putBits (putBits (putBits (putBits st 7 7 (b2n (bit st 3))) 3 3 0) 12 11 mpp) 39 39 (b2n virt)
    let h := ((((h.setRcsr mSTATUS st).setRcsr mEPC h.pc).setRcsr mCAUSE cw).setRcsr mTVAL tval).setRcsr mTVAL2 tval2
    { h with mode := .m, pc := tvecPc (h.rcsr mTVEC) cause irq, wait := none }
  | .vs =>
    let st := h.rcsr vSTATUS
    let st := putBits (putBits (putBits st 5 5 (b2n (bit st 1))) 1 1 0) 8 8 (b2n (h.mode == .vs))
    let cw : Dword := if irq then w (cause - 1 + 2 ^ 63) else cw
    let h := (((h.setRcsr vSTATUS st).setRcsr vEPC h.pc).setRcsr vCAUSE cw).setRcsr vTVAL tval
    { h with mode := .vs, pc := tvecPc (h.rcsr vTVEC) (if irq then cause - 1 else cause) irq, wait := none }
  | _ =>
    let st := h.rcsr mSTATUS
    let st := putBits (putBits (putBits st 5 5 (b2n (bit st 1))) 1 1 0) 8 8 (b2n (h.mode == .vs || h.mode == .hs))
    let hs := putBits (h.rcsr hSTATUS) 7 7 (b2n virt)
    let hs := if virt then putBits hs 8 8 (b2n (h.mode == .vs)) else hs
    let h := (((((h.setRcsr mSTATUS st).setRcsr hSTATUS hs).setRcsr xEPC h.pc).setRcsr xCAUSE cw).setRcsr xTVAL tval).setRcsr hTVAL tval2
    { h with mode := .hs, pc := tvecPc (h.rcsr xTVEC) cause irq, wait := none }

/-- The running hart, or hart n, takes an exception. -/
def State.hartTrap (s : State) (n cause : Nat) (tval tval2 : Dword) : State :=
  s.modHart n (fun h => h.takeTrap cause false tval tval2)

/-- The exception of a fault of a hart's own access (R341): page faults for page and permission faults, access faults for
format faults; a stage-2 fault of a hart that stage 2 applies to (`guest`) is a guest-page fault with the guest-physical address. -/
def hartFaultCause (f : XFault) (guest write fetch : Bool) : Nat :=
  match f.kind with
  | .format => if fetch then cFETCHACC else if write then cSTOREACC else cLOADACC
  | .req => if fetch then cFETCHACC else if write then cSTOREACC else cLOADACC
  | _ =>
    if f.stage = 2 && guest then (if fetch then cFETCHGPAGE else if write then cSTOREGPAGE else cLOADGPAGE)
    else (if fetch then cFETCHPAGE else if write then cSTOREPAGE else cLOADPAGE)

/-- The running hart takes the exception of a faulting access at an address. -/
def State.hartFault (s : State) (n : Nat) (f : XFault) (write fetch : Bool) (va : Nat) : State :=
  let guest := (s.hart n).xlate.s2.isSome
  s.hartTrap n (hartFaultCause f guest write fetch) (w va) (if guest then w (f.ga / 4) else 0)

/-- A device-memory address a hart may not reach: outside every target (R338). -/
def State.hartRead (s : State) (h : Hart) (va n : Nat) : Except (Nat × XFault) (List Byte) := vread s.mem h.xlate va n

/-- An Xlan instruction refused for its privilege (R12, R79): rd receives PRIV and a PRIV record goes to the next level. Its ADDR is the
address that the instruction names with a register; for one that names none the spec does not say: a free value
(R405; notes/assumptions 14). -/
def State.xRefuse (s : State) (rd : Reg) (adr : Option Reg) : State :=
  let h := s.me
  let a : Dword := match adr with
    | some r => h.get r
    | none => Sys2Proof.Config.freeWord s.freeCtr ++ Sys2Proof.Config.freeWord (s.freeCtr + 1)
  (({ s with freeCtr := s.freeCtr + 2 }.priv h.part h.mode.level { FaultRec.of fPRIV 4 with addr := a })).xErr rd ePRIV

/-- The privilege check of an Xlan instruction, which names an address with the register `adr` if with any (R12, R79). -/
def State.xPriv (s : State) (rd : Reg) (least : Nat) (adr : Option Reg) (f : Hart → State → State) : State :=
  let h := s.me
  if h.wait.isSome then s
  else if h.mode.level < least then s.xRefuse rd adr
  else f h s

/-- An Xlan instruction that acts for a partition: BADARG at HV and MK where vdpart names one not in force (R146). -/
def State.xPart (s : State) (rd : Reg) (least : Nat) (adr : Option Reg) (f : Hart → Nat → State → State) : State :=
  s.xPriv rd least adr (fun h s =>
    if 2 ≤ h.mode.level && !(s.part h.actPart).active then s.xErr rd eBADARG else f h h.actPart s)

/-- A block of n bytes an Xlan instruction names, aligned to k: BADARG where misaligned, the exception where it faults. -/
def State.xBlock (s : State) (rd : Reg) (h : Hart) (va : Dword) (n k : Nat) (f : List Byte → State → State) : State :=
  if va.toNat % k ≠ 0 then s.xErr rd eBADARG
  else
    match s.hartRead h va.toNat n with
    | .error (o, x) => s.hartFault s.curHart x false false (va.toNat + o)
    | .ok bs => f bs s

end Sys2Proof.Machine
end

