-- ==== Sys2Proof/Machine/Pod.lean ====
section
/-! DEFINITION. The pod, its ports and the receipt of flits (R450-R453), channels between modules (R454, R455), and leader election (R459, R461). -/

namespace Sys2Proof.Machine

open Sys2Proof.Config

/-! ### The pod (R450) -/

/-- The number of a module of the pod by its coordinates, and of this one. -/
def podOf (mx my : BitVec 4) : Nat := 16 * my.toNat + mx.toNat
def State.podNum (s : State) : Nat := podOf s.podX s.podY

/-- The number of the neighbour on a port's side, and the port of it that a port is cabled to. -/
def State.neighbourPod (s : State) (port : Nat) : Nat :=
  match port / 8 with
  | 0 => podOf s.podX (s.podY - 1)
  | 1 => podOf (s.podX + 1) s.podY
  | 2 => podOf s.podX (s.podY + 1)
  | _ => podOf (s.podX - 1) s.podY
def facingPort (port : Nat) : Nat := 8 * ((port / 8 + 2) % 4) + port % 8

/-! ### Ports (R450, R452) -/

/-- The chiplet of an outer edge (R186), and the fused-off lanes of a port: two ports on each outer edge of a side. -/
def edgeChip (e : Nat) : Nat := match e / 4 with | 0 => e | 1 => 4 * (e - 4) + 3 | 2 => 12 + (e - 8) | _ => 4 * (e - 12)
def State.fusedLanes (s : State) (port : Nat) : List Nat :=
  let e := port / 8 * 4 + port % 8 / 2
  let c := edgeChip e
  let base := 64 * c + 16 * (chipEdges c).idxOf e + 8 * (port % 2)
  (List.range 8).filter (fun l => s.fuses.akLanes.contains (base + l))

/-- The good lanes of a port: not fused off and not retired. -/
def State.goodLanes (s : State) (port : Nat) : List Nat :=
  (List.range 8).filter (fun l => !(s.fusedLanes port).contains l && !(s.ak port).badLanes.contains l)

/-- The cabled ports with lanes enough come up (R450, R452). -/
def State.linksUp (s : State) : State :=
  ((List.range numAkend).filter (fun p => cabled p && decide (4 ≤ (s.goodLanes p).length))).foldl (fun s p => s.modAk p fun a => { a with up := true }) s

/-- A flit on every port that is up. -/
def State.flood (s : State) (type : Nat) (payload : List Byte) : State :=
  ((List.range numAkend).filter (fun p => (s.ak p).up)).foldl (fun s p => s.sendFlit p type 0 0 0 payload) s

/-- Whether a region has a channel over a port. -/
def State.linksOver (s : State) (port : Nat) : List Nat :=
  (s.ports.filter (fun x =>
    (match x.2.linkIn with | some l => l.aport == port | none => false) ||
    (match x.2.linkOut with | some l => l.aport == port | none => false))).map (fun x => x.1 / 2048) |>.eraseDups

/-- A port goes down: UELINK for every region with a channel over it (R406, R452). -/
def State.portDown (s : State) (port : Nat) : State :=
  (s.linksOver port).foldl (fun s rn => s.faultFreeze rn 4 (FaultRec.of fUELINK 4)) (s.modAk port fun a => { a with up := false })

/-- A flit that cannot be taken: a retry request names what is expected by its ACK, and the retry is counted (R452). -/
def State.askRetry (s : State) (port : Nat) : State :=
  (s.sendBare port 2).modAk port fun a => { a with retries := a.retries + 1 }

/-- A wrong CRC besides lies with a lane, which one being the port's to find (notes/assumptions 47): the lane of the sixteenth retry in a
row is retired, and a port with fewer than four good lanes goes down (R452). -/
def State.laneFails (s : State) (port : Nat) : State :=
  let k := s.pick (s.goodLanes port).length
  let l := nth (s.goodLanes port) k.1 0
  let n := (s.ak port).consec.get l 0 + 1
  if n < 16 then k.2.modAk port fun a => { a with consec := a.consec.put l n }
  else
    let s := k.2.modAk port fun a => { a with consec := a.consec.del l, badLanes := a.badLanes ++ [l] }
    if (s.goodLanes port).length < 4 then s.portDown port else s

/-- A flit received on a port: with a wrong CRC or out of order a retry is asked for; else it is taken, with its ACK and its credit, and its
type acts. Nothing where the port is down or the flit is of another type. -/
def State.flitIn (s : State) (port : Nat) (b : List Byte) (isType : Nat → Bool) (f : State → State) : State :=
  let a := s.ak port
  if !a.up then s
  else if !flitOk b then (s.askRetry port).laneFails port
  else if !isType (flTYPE b) then s
  else if flSEQ b ≠ a.rxSeq.toNat then s.askRetry port
  else f (s.modAk port fun a => ({ a with rxSeq := a.rxSeq + 1 }.acked b).credited (flCREDIT b))

/-- A retry request or an idle flit received: its ACK counts and it acts whatever its SEQ, which shows only whether a flit before it was
lost (R452, notes/assumptions 47). -/
def State.bareIn (s : State) (port : Nat) (b : List Byte) (type : Nat) (f : Akend → Akend) : State :=
  let a := s.ak port
  if !a.up then s
  else if !flitOk b then (s.askRetry port).laneFails port
  else if flTYPE b ≠ type then s
  else
    let s := s.modAk port fun a => f (a.acked b)
    if flSEQ b ≠ a.rxSeq.toNat then s.askRetry port else s

/-! ### Channels between modules (R453-R455) -/

/-- The bytes of a beat record: the beat and the pod channel it is for. -/
def beatRecord (b : Beat) (chan : Nat) : List Byte := b.words18.flatMap (fun x => leBytes x.toNat 4) ++ leBytes chan 4 ++ leBytes 0 4

/-- Beat k of a flit. -/
def flitBeat (b : List Byte) (k : Nat) : Beat := beatOf18 ((List.range 18).map (fun i => w (fieldAt b (12 + 80 * k + 4 * i) 4)))

/-- The channel of a region that receives on a slot of a port: region, EMP and channel by the key of its port. -/
def State.linkAt (s : State) (port slot : Nat) : Option Nat :=
  (s.ports.find? (fun x => match x.2.linkIn with | some l => l.aport == port && l.chan == slot | none => false)).map (·.1)

/-- Received beats go on to the reply buffer of their channel while it has room, each returning its credit (R453, R455); a port that has
injected a snuff marker admits nothing more (R409). -/
def State.drainSlot : Nat → State → Nat → Nat → State
  | 0, s, _, _ => s
  | n + 1, s, port, slot =>
    match s.linkAt port slot, (s.ak port).slots.get slot [] with
    | some k, b :: rest =>
      if 32 ≤ (s.port k).reply.length + (s.port k).egress.length || (s.port k).snuff then s
      else
        match s.region? (k / 2048) with
        | none => s
        | some r =>
          let s := (s.modPort k fun p => { p with reply := p.reply ++ [(r.incarn, b)] }).modAk port fun a =>
            { a with slots := if rest.isEmpty then a.slots.del slot else a.slots.put slot rest }
          State.drainSlot n (s.sendFlit port 1 0 0 (slot + 2 ^ 16) []) port slot
    | _, _ => s

/-- AKEND_DATA_FLIT: its beats land in the receive buffer of their slot, and an idle flit acknowledges it where no other does (R451,
R453). -/
def execAkendDataFlit (port : Nat) (flit : List Byte) (s : State) : Host.Outcome State Fault Refusal :=
  .next (s.flitIn port flit (· == 0) (fun s =>
    let slot := flSLOT flit
    let bs := (List.range (flNBEAT flit)).map (flitBeat flit)
    let s := s.modAk port fun a => if bs.isEmpty then a else { a with slots := a.slots.put slot ((a.slots.get slot [] ++ bs).take 4) }
    let t := State.drainSlot 4 s port slot
    if (t.ak port).out = (s.ak port).out then t.sendBare port 4 else t))

/-- AKEND_CREDIT_FLIT: the credit it returns (R453). -/
def execAkendCreditFlit (port : Nat) (flit : List Byte) (s : State) : Host.Outcome State Fault Refusal :=
  .next (s.flitIn port flit (· == 1) id)

/-- AKEND_RETRY_REQUEST: every flit after the one acknowledged is sent again, in order (R452). -/
def execAkendRetryRequest (port : Nat) (flit : List Byte) (s : State) : Host.Outcome State Fault Refusal :=
  .next (s.bareIn port flit 2 (fun a => { a with out := a.out ++ a.retry }))

/-- AKEND_IDLE_FLIT: only its ACK and CRC (R451). -/
def execAkendIdleFlit (port : Nat) (flit : List Byte) (s : State) : Host.Outcome State Fault Refusal :=
  .next (s.bareIn port flit 4 id)

/-- AKEND_RESERVED_FLIT_TYPE: dropped and counted (R451). -/
def execAkendReservedFlitType (port : Nat) (flit : List Byte) (s : State) : Host.Outcome State Fault Refusal :=
  .next (s.flitIn port flit (fun t => decide (5 ≤ t)) (fun s => s.modAk port fun a => { a with dropped := a.dropped + 1 }))

/-- An entry of a partition's pod channel table: channel, region handle, port number, direction, and the link. -/
def State.podEntry (s : State) (p base c : Nat) : Option (Nat × Nat × Nat × PodLink) :=
  let e := s.gread p (base + 32 * c) 32
  if (fieldAt e 7 1).testBit 0 then
    some (fieldAt e 0 4, fieldAt e 4 2, fieldAt e 6 1,
      { chan := c, aport := fieldAt e 14 2, rpod := fieldAt e 8 2, rpart := fieldAt e 10 2, rchan := fieldAt e 12 2 })
  else none

/-- Whether an entry can have a matching one: the remote module is the neighbour that its Akend port is cabled to, and partition and channel
are numbers of one (R450, R454). -/
def State.linkFits (s : State) (l : PodLink) : Bool :=
  decide (l.aport < numAkend) && l.rpod == s.neighbourPod l.aport && decide (l.rpart < numParts) && decide (l.rchan < 1024)

/-- A channel whose receiving side is put in force gives its sender credit for its four beats, once. -/
def State.grantSlot (s : State) (port slot : Nat) : State :=
  if (s.ak port).granted.contains slot || !(s.ak port).up then s
  else
    ((s.modAk port fun a => { a with granted := a.granted ++ [slot] }).sendFlit port 1 0 0 (slot + 3 * 2 ^ 16) []).sendFlit port 1 0 0 (slot + 2 ^ 16) []

/-- One entry put in force for a region: its port is in link mode. -/
def State.linkPort (s : State) (rn : Nat) (r : Region) (e : Nat × Nat × Nat × PodLink) : State :=
  let (_, n, dir, l) := e
  match (s.ports_ r (dir % 2))[n]? with
  | none => s
  | some a =>
    if dir = 1 then s.modPort (a.key rn) fun p => { p with linkOut := some l }
    else
      let s := s.modPort (a.key rn) fun p => { p with linkIn := some l }
      if s.linkFits l then State.drainSlot 4 (s.grantSlot l.aport l.chan) l.aport l.chan else s

/-- The pod channel table read for a region: at each pop that starts a record on it and at each rg.start (R454). -/
def State.readChannels (s : State) (rn : Nat) : State :=
  match s.region? rn with
  | none => s
  | some r =>
    let s : State := { s with ports := s.ports.map (fun (x : Nat × Port) =>
      if x.1 / 2048 = rn then (x.1, { x.2 with linkIn := none, linkOut := none }) else x) }
    match (s.part r.part).desc with
    | none => s
    | some d =>
      let es := ((List.range 1024).filterMap (s.podEntry r.part d.pchtab)).filter (fun e => e.1 == s.rgHandle r)
      es.foldl (fun s e => s.linkPort rn r e) s

/-- Whether a beat can be sent over a link: its entry can have a match, and its port is up, holds credit for the slot, and has room in its
retry buffer. -/
def State.maySend (s : State) (l : PodLink) : Bool :=
  let a := s.ak l.aport
  s.linkFits l && a.up && decide (0 < a.credits.get l.rchan 0) && decide (a.retry.length < 64)

/-- A beat sent over a link. -/
def State.sendBeat (s : State) (l : PodLink) (b : Beat) : State :=
  (s.modAk l.aport fun a => { a with credits := a.credits.put l.rchan (a.credits.get l.rchan 0 - 1) }).sendFlit l.aport 0 1 l.rchan 0
    (beatRecord b l.rchan)

/-- Whether a region's attachment to a channel is in link mode: it carries no memory traffic (R454). -/
def Port.linked (p : Port) : Bool := p.linkIn.isSome || p.linkOut.isSome

/-- An egress port in link mode takes the beat at the head of its FIFO: a barrier or a snuff marker has then arrived there; the beat
waits in the reply buffer, which holds 32 beats of both directions, until it is sent (R344, R454, R455). A reserved kind is recorded and
dropped (R105). -/
def State.linkRequest (s : State) (rn emp ch : Nat) (r : Region) : State :=
  let k := portKey rn emp ch
  let p := s.port k
  match p.reqF with
  | [] => s
  | b :: rest =>
    let p := { p with reqF := rest, barrOut := p.barrOut || b.kind == 3, snuffOut := p.snuffOut || b.kind == 4 }
    if 6 ≤ b.kind.toNat then
      (s.postRg r.part rn true false { FaultRec.of fKIND 2 with place := w (emp + ch * 512) }).setPort k { p with reqF := rest }
    else if 32 ≤ p.reply.length + p.egress.length then s
    else s.setPort k { p with egress := p.egress ++ [b] }

/-- The first beat that an egress port in link mode has not yet sent goes over the link, where it may. -/
def State.linkSend (s : State) (k : Nat) : State :=
  match (s.port k).linkOut, (s.port k).egress with
  | some l, b :: rest => if s.maySend l then (s.modPort k fun p => { p with egress := rest }).sendBeat l b else s
  | _, _ => s

/-! ### Leader election (R459, R461) -/

/-- Whether a pair precedes another: a higher epoch, or the lower ID in the same epoch. -/
def Epoch.precedes (a b : Epoch) : Bool := decide (b.epoch < a.epoch) || (a.epoch == b.epoch && decide (a.id.toNat < b.id.toNat))

/-- The payload of an election flit: epoch, chip ID, NMOD, ACK flag, and in an acknowledgement the ID of the module that makes it
(notes/assumptions 39). -/
def voteBytes (e : Epoch) (nmod : Nat) (ack : Option Dword) : List Byte :=
  leBytes e.epoch 4 ++ leBytes e.id.toNat 8 ++ leBytes nmod 2 ++ leBytes (b2n ack.isSome) 1 ++ leBytes (ack.getD 0).toNat 8

/-- A module is leader once its own pair is the one adopted and a majority has acknowledged it. -/
def State.countVotes (s : State) : State :=
  { s with leader := s.selfOk && s.best == some s.epoch && decide (s.nmod / 2 + 1 ≤ s.acks.length) }

/-- A pair adopted: acknowledged to every neighbour, and relayed. -/
def State.adopt (s : State) (e : Epoch) : State :=
  let s := { s with best := some e, acks := [s.fuses.chipId.toNat], leader := false }
  ((s.flood 3 (voteBytes e s.nmod none)).flood 3 (voteBytes e s.nmod (some s.fuses.chipId))).countVotes

/-- Whether a pair precedes what a module has adopted. -/
def State.beats (s : State) (e : Epoch) : Bool := match s.best with | some b => e.precedes b | none => true

/-- A module that has passed self-test stands for election at an epoch: it floods its own pair, and adopts it where it precedes. -/
def State.standFor (s : State) (epoch : Nat) : State :=
  let e : Epoch := { epoch := epoch, id := s.fuses.chipId }
  let s := { s with epoch := e }
  if !s.selfOk then s
  else if s.beats e then s.adopt e
  else s.flood 3 (voteBytes e s.nmod none)

/-- A pair seen: adopted where it precedes; a candidate then stands at that epoch where it exceeds its own. -/
def State.seePair (s : State) (e : Epoch) : State :=
  if s.beats e then
    let s := s.adopt e
    if s.selfOk && decide (s.epoch.epoch < e.epoch) then s.standFor e.epoch else s
  else s

/-- An acknowledgement of the pair adopted, counted once for each module and passed on. -/
def State.seeAck (s : State) (e : Epoch) (id : Dword) : State :=
  if s.best = some e && !s.acks.contains id.toNat then
    ({ s with acks := s.acks ++ [id.toNat] }.flood 3 (voteBytes e s.nmod (some id))).countVotes
  else s

/-- AKEND_ELECTION_FLIT. -/
def execAkendElectionFlit (port : Nat) (flit : List Byte) (s : State) : Host.Outcome State Fault Refusal :=
  .next (s.flitIn port flit (· == 3) (fun s =>
    let e : Epoch := { epoch := fieldAt flit 12 4, id := w (fieldAt flit 16 8) }
    if (fieldAt flit 26 1).testBit 0 then s.seeAck e (w (fieldAt flit 27 8)) else s.seePair e))

end Sys2Proof.Machine
end

