-- ==== Sys2Proof/Machine/Boot.lean ====
section
/-! DEFINITION. Resets and the boot sequence (R463, R464), firmware and hypervisor images (R465, R466), the rules of followers and
leaders (R460, R461), and the loss of the supply (R430). -/

namespace Sys2Proof.Machine

open Sys2Proof.Config

/-! ### Resets (R463) -/

/-- A cold reset: every register at its Reset column, device memory zero, nothing in force; the host's memory, the fuses, the carrier
board's numbers and the passing of time stay. Where the fuses do not load, or the clocks do not lock, BOOTSTAT says so, and the module
stays in reset (R464, step 1). -/
def State.coldReset (s : State) : State :=
  { State.reset with
    mem := s.mem.filter (fun c => paHost c.1), bootstat := if s.fuses.loads then 0 else 1
    agenda := s.agenda, cycle := s.cycle, freeCtr := s.freeCtr, fuses := s.fuses, nmod := s.nmod, podX := s.podX, podY := s.podY }

/-- A warm reset: as a cold one, but device memory and the staging windows keep their contents. -/
def State.warmReset (s : State) : State := { s.coldReset with mem := s.mem, staging := s.staging, lastWin := s.lastWin }

/-- COLD_RESET: power-on. -/
def execColdReset (s : State) : Host.Outcome State Fault Refusal := .next s.coldReset

/-- RSTCOLD: the maker command of the I3C interface. -/
def execRstcold (s : State) : Host.Outcome State Fault Refusal := .next s.coldReset

/-- RSTWARM: the maker command of the I3C interface. -/
def execRstwarm (s : State) : Host.Outcome State Fault Refusal := .next s.warmReset

/-- RST: maker firmware writes RST to the boot status register. -/
def execRst (s : State) : Host.Outcome State Fault Refusal := .next s.warmReset

/-- POWER_LOSS: all that is not fused is lost, and nothing runs until power-on. -/
def execPowerLoss (s : State) : Host.Outcome State Fault Refusal := .next { s.coldReset with power := false }

/-! ### Images (R465, R466) -/

def imPlen (b : List Byte) : Nat := fieldAt b 12 4
def imTail (b : List Byte) (off n : Nat) : List Byte := (b.drop (64 + imPlen b + off)).take n

/-- Whether the header of an image of a kind is well formed. -/
def headerOk (b : List Byte) (kind : Nat) : Bool :=
  fieldAt b 0 4 == 0x57464456 && fieldAt b 4 2 == 1 && fieldAt b 6 2 == kind && imPlen b % 64 == 0 &&
  decide (imPlen b ≤ 16 * 2 ^ 20 - 8192) && decide (fieldAt b 16 8 ≤ imPlen b) && zeroAt b 24 64 &&
  decide (64 + imPlen b + 253 + fieldAt b (64 + imPlen b + 249) 4 ≤ b.length)

/-- Whether both signatures of an image verify; both are evaluated. -/
def imageSigned (b : List Byte) : Bool :=
  let msg := b.take (64 + imPlen b + 153)
  let ec := ecdsaP384 (imTail b 0 97) (sha384 msg) (imTail b 153 96)
  let lm := lms (imTail b 97 56) msg (imTail b 253 (fieldAt b (64 + imPlen b + 249) 4))
  ec && lm

/-- The code BOOTSTAT reads for an image that is not accepted. -/
def State.imageFault (s : State) (b : List Byte) (kind : Nat) : Option Nat :=
  if !headerOk b kind then some 2
  else if leBytes (sha384 (imTail b 0 97)).toNat 48 != s.fuses.keyHash || leBytes (sha256 (imTail b 97 56)).toNat 32 != s.fuses.lmsHash then some 3
  else if fieldAt b 8 4 < s.fuses.minSvn then some 4
  else if !imageSigned b then some 5
  else none

/-- An image in a staging window. -/
def State.stage (s : State) (win : Nat) (b : List Byte) : State := { s with staging := s.staging.set win b, lastWin := win }

/-- A rejected image: BOOTSTAT names why, and its window is zeroed. -/
def State.rejectImage (s : State) (win code : Nat) : State := { s.stage win [] with bootstat := w code }

/-- The payload of an image. -/
def imPayload (b : List Byte) : List Byte := (b.drop 64).take (imPlen b)

/-- Steps 2, 4 and 5 of the boot: the cores that fail the self-test are out of service; the payload stands in device memory, every good core
starts it in M-mode, and the election begins, in which a module that has not passed only relays. -/
def State.startFirmware (s : State) (img : BootImage) : State :=
  let b := img.bytes
  let start (s : State) (h : Nat) : State := s.modHart h fun _ => { Hart.reset with pc := firmwareBase + w (fieldAt b 16 8) }
  let s : State := { s with
    mem := s.mem.write firmwareBase.toNat (imPayload b), firmware := some b, selfOk := img.passed, outCores := img.badCores }
  let s := ((List.range numHarts).filter (fun h => !s.hartOut h)).foldl start s
  s.linksUp.standFor s.epoch.epoch

/-- FIRMWARE_IMAGE_VERIFY: the ROM, while it waits for firmware, accepts the image of the window whose header came last, or zeroes it; once
firmware runs the window only holds what was written, and so while the module stays in reset (R464, R466). -/
def execFirmwareImageVerify (win : Nat) (image : BootImage) (s : State) : Host.Outcome State Fault Refusal :=
  .next (if s.firmware.isSome || s.bootstat == 1 then s.stage win image.bytes
    else
      match s.imageFault image.bytes 0 with
      | some c => s.rejectImage win c
      | none => (s.stage win image.bytes).startFirmware image)

/-- HYPERVISOR_IMAGE_LOAD: step 6, once a leader is known; a leader takes the image of its own staging window, a follower only that of the
leader of the highest epoch it has seen; with both signatures verified it is committed and BOOTSTAT reads READY (R460, R464). -/
def execHypervisorImageLoad (win : Nat) (image : List Byte) (epoch : Nat) (id : Dword) (s : State) : Host.Outcome State Fault Refusal :=
  .next (if s.firmware.isNone || s.hvImage.isSome then s
    else if !s.leader && s.best != some { epoch := epoch, id := id } then s
    else
      match s.imageFault image 1 with
      | some c => s.rejectImage win c
      | none => { s.stage win image with hvImage := some image, bootstat := 0x80, loadedBy := some (if s.leader then s.fuses.chipId else id) })

/-- FOLLOWER_LOAD_TIMEOUT: the staged image is discarded, and the module enters election again at the next epoch (R460). -/
def execFollowerLoadTimeout (s : State) : Host.Outcome State Fault Refusal :=
  .next (match s.best with
    | none => s
    | some e => if s.leader || s.hvImage.isSome then s else (s.stage s.lastWin []).standFor (e.epoch + 1))

/-- LEADER_HEAL: of two leaders the one whose pair has the lower precedence cedes to the other; the surviving one raises its epoch to one
above the higher of the two and collects a fresh majority; a follower that the one that cedes has loaded is reset, to be loaded again, once it
sees the pair of the surviving one (R461). -/
def execLeaderHeal (epoch : Nat) (id : Dword) (s : State) : Host.Outcome State Fault Refusal :=
  let e : Epoch := { epoch := epoch, id := id }
  .next (if s.leader then
      (if s.epoch.precedes e then { s with leader := false }.standFor (max s.epoch.epoch epoch + 1) else s.adopt e)
    else if (s.beats e || s.best == some e) && s.loadedBy.isSome && s.loadedBy != some id then { s.warmReset with akend := s.akend }.adopt e
    else s)

/-! ### What the host reads of PF 0 (R464) -/

/-- A byte of BAR2 of PF 0: BOOTSTAT stands behind the 16 MiB of the staging window, which is zero beyond what was written. -/
def State.bar2Read (s : State) (off : Nat) : Byte :=
  if off = 0x1000000 then s.bootstat else nth (nth s.staging 0 []) off 0

end Sys2Proof.Machine
end

