-- ==== Sys2Proof/Machine/Elements.lean ====
section
/-! DEFINITION. What CTs and MTs share: rules and their classes (R245, R256, R360, R378), the passes of a section (R255), the
injection of markers at ingress ports (R219, R220, R409), and the start of a drain. -/

namespace Sys2Proof.Machine

/-! ### Rule words -/

/-- Guard and action words of rule i (R54, R57). -/
def Tile.guardW (t : Tile) (i : Nat) : Word := t.fld i
def Tile.actionW (t : Tile) (i : Nat) : Word := t.fld (0x10 + i)
/-- Operation word of rule i of an MT (R57). -/
def Tile.opW (t : Tile) (i : Nat) : Dword := t.fld (0x21 + 2 * i) ++ t.fld (0x20 + 2 * i)

def actV (a : Word) : Bool := bit a 31
def actNsel (a : Word) : Nat := bits a 30 28
def actDsel (a : Word) : Nat := bits a 27 25
def actDwr (a : Word) : Nat := bits a 24 21
def actTagsrc (a : Word) : Nat := bits a 20 18
def actNext (a : Word) : Nat := bits a 17 12
def actEnq (a : Word) : Nat := bits a 11 8
def actDeq (a : Word) : Nat := bits a 7 4
def actRecipe (a : Word) : Nat := bits a 3 0

def opOpc (o : Dword) : Nat := bits o 7 0
def opSub (o : Dword) : Nat := bits o 11 8
def opBuf (o : Dword) : Nat := bits o 13 12
def opSize (o : Dword) : Nat := bits o 15 14
def opIch (o : Dword) : Nat := bits o 17 16
def opOch (o : Dword) : Nat := bits o 19 18
def opDesc (o : Dword) : Nat := bits o 21 20
def opDch (o : Dword) : Nat := bits o 23 22
def opFlags (o : Dword) : Nat := bits o 31 24
def opAddr (o : Dword) : Nat := bits o 47 32
def opGa (o : Dword) : Nat := bits o 50 48
def opGb (o : Dword) : Nat := bits o 54 52

/-- Whether an MT operation is a pattern stream, and whether it is a macro operation (R360, R378). -/
def isStreamOp (opc : Nat) : Bool := opc == 0x05 || opc == 0x06
def isMacroOp (opc : Nat) : Bool := decide (0x0C ≤ opc) && decide (opc ≤ 0x0F)

/-- The class of rule i of an element: 0 fabric, 1 pattern stream, 2 macro. -/
def Tile.ruleClass (t : Tile) (ct : Bool) (i : Nat) : Nat :=
  if ct then 0
  else if isStreamOp (opOpc (t.opW i)) then 1
  else if isMacroOp (opOpc (t.opW i)) then 2 else 0

/-- Whether an element holds a valid rule of a class (R256). -/
def Tile.hasRule (t : Tile) (ct : Bool) (cls : Nat) : Bool :=
  (List.range 16).any fun i => actV (t.actionW i) && t.ruleClass ct i == cls

/-- Channel words of an element, by input and output (R54, R57). -/
def Tile.inW (t : Tile) (ct : Bool) (c : Nat) : Word := t.fld ((if ct then 0xB0 else 0x64) + c)
def Tile.outW (t : Tile) (ct : Bool) (o : Nat) : Word := t.fld ((if ct then 0xB4 else 0x68) + o)
def Tile.inEn (t : Tile) (ct : Bool) (c : Nat) : Bool := bit (t.inW ct c) 26
def Tile.outEn (t : Tile) (ct : Bool) (o : Nat) : Bool := bit (t.outW ct o) 26
/-- Length of the delay line on output o, 0 for none (R56). -/
def Tile.dlen (t : Tile) (ct : Bool) (o : Nat) : Nat := bits (t.fld (if ct then 0xBA else 0x7A)) (5 * o + 4) (5 * o)

/-! ### Sections (R51, R213-R217) -/

/-- The elements of a section. -/
def State.section_ (s : State) (r : Region) (a : Nat) : List Nat :=
  (s.listed r).filter fun n => (s.tile n).sect == some a

/-- A pass ends in an element (R255), and the section's phase counts take the cycle (R442). -/
def State.passEnd (s : State) (t : Nat) : State :=
  match s.ownerOf t, (s.tile t).sect with
  | some (rn, r), some a =>
    let s := s.modTile t fun x => { x with passc := x.passc - 1 }
    s.modRegion rn fun g =>
      match g.sects.find a with
      | some c => { g with sects := g.sects.put a { c with firstEnd := c.firstEnd <|> some r.cycles, lastEnd := r.cycles } }
      | none => g
  | _, _ => s.modTile t fun x => { x with passc := x.passc - 1 }

/-- A change of every tile of a list. -/
def State.modTiles (s : State) (l : List Nat) (f : Nat → Tile → Tile) : State := l.foldl (fun s n => s.modTile n (f n)) s

/-- Whether every forked class of an element is done (R216). -/
def Tile.allDone (t : Tile) : Bool := (t.forked &&& ~~~t.doneCls) == 0

/-- The pass count of a section whose forked classes have all reported done is 0 (R216). -/
def State.sectSpent (s : State) (r : Region) (a : Nat) : State :=
  let els := s.section_ r a
  if els.all (fun n => (s.tile n).allDone) && els.any (fun n => (s.tile n).forked != 0) then s.modTiles els (fun _ t => { t with passc := 0 }) else s

/-! ### Markers at ingress ports (R218-R220, R409) -/

/-- A marker enters a port's stream of beats, with the port's round; punctuation advances it. -/
def Port.enter (p : Port) (incarn : Half) (kind : BitVec 4) : Port :=
  { p with reply := p.reply ++ [(incarn, markBeat kind.toNat p.round)]
           round := if kind = 2 then p.round + 1 else p.round
           barrIn := p.barrIn || kind == 3, snuff := p.snuff || kind == 4 }

/-- Whether a stream feeds a channel of an EMP (R366). -/
def IStream.feeds (i : IStream) (rn emp ch : Nat) : Bool := i.rn == rn && fieldAt i.block 14 2 % 2048 == emp + 512 * ch

/-- Whether a stream has begun what nothing of its channel may come between or overtake: a row half delivered, or a withheld read
of an index (R346, R367). -/
def IStream.open_ (i : IStream) : Bool := i.row.isSome || i.stuck

/-- Whether such a stream feeds a channel. -/
def State.rowOpen (s : State) (rn emp ch : Nat) : Bool :=
  s.dies.any (fun d => d.2.engines.any (fun e => e.2.feeds rn emp ch && e.2.open_)) ||
  (s.port (portKey rn emp ch)).streams.any (·.open_)

/-- A marker injected at an ingress port: behind every beat admitted, behind a withheld token, the rest of a row and the markers that
wait there (R219, R367). -/
def State.inject (s : State) (rn : Nat) (r : Region) (a : Attach) (kind : BitVec 4) : State :=
  let behind := s.rowOpen rn a.emp a.ch
  s.modPort (a.key rn) fun p =>
    if behind || p.wait || !p.marks.isEmpty then { p with marks := p.marks ++ [kind] } else p.enter r.incarn kind

/-- Markers that waited behind a withheld token enter once it has passed. -/
def Port.flush (p : Port) (incarn : Half) : Port :=
  p.marks.foldl (fun p k => p.enter incarn k) { p with marks := [], wait := false }

/-- The ingress ports a mask selects: port i by bit i, every port by 0; ports 64 and above only by 0 (R219). -/
def selected (m : Dword) (l : List Attach) : List Attach :=
  if m = 0 then l else (l.zipIdx.filter (fun x => decide (x.2 < 64) && bit m x.2)).map (·.1)

/-- A cooperative drain begins: every ingress port that is not the reply side of a request channel of the region injects a
snuff marker (R409). -/
def State.drain (s : State) (rn : Nat) : State :=
  match s.region? rn with
  | none => s
  | some r =>
    let ports := (s.ports_ r 0).filter (fun a => (s.attachOf r a.emp a.ch 1).isNone)
    let s := s.modRegion rn fun g => { g with state := .draining }
    ports.foldl (fun s a => s.inject rn r a 4) s

/-! ### Debug boundary (R447) -/

/-- Whether an MT has work outstanding: operations, macro units, glow queue. -/
def Tile.busy (t : Tile) : Bool :=
  !t.ops.isEmpty || !t.glow.isEmpty || t.units.any (fun u => u.running.isSome || !u.waiting.isEmpty)

/-- Whether every FIFO, lane register, slot buffer and reply buffer of the region is empty and nothing is outstanding. -/
def State.quiet (s : State) (rn : Nat) (r : Region) : Bool :=
  (s.listed r).all (fun n =>
    let t := s.tile n
    t.inF.all (·.isEmpty) && t.outF.all (·.isEmpty) && t.flights.isEmpty && t.lanes.isEmpty && t.xbuf.all (·.2.isEmpty) &&
    !t.busy && (t.forked &&& ~~~t.doneCls) == 0) &&
  r.seq.copies.isEmpty && r.inst.isNone && r.seq.barr.isNone &&
  (s.ports.filter (fun x => x.1 / 2048 == rn)).all (fun x => x.2.reply.isEmpty && x.2.reqF.isEmpty && x.2.egress.isEmpty)

end Sys2Proof.Machine
end

