-- ==== Sys2Proof/Machine/Flags.lean ====
section
/-! DEFINITION. The sticky flags of an element's status word (R85, R237). -/

namespace Sys2Proof.Machine

/-- Flags, in the places of the status word. -/
abbrev Flags := BitVec 6

def flINV : Flags := 1
def flOVF : Flags := 2
def flUNF : Flags := 4
def flINX : Flags := 8
def flSAT : Flags := 16
def flSKIPNF : Flags := 32

/-- SAT where a value was clamped. -/
def satFlag (c : Bool) : Flags := if c then flSAT else 0

/-- The flags of a list of results together. -/
def orFlags (l : List Flags) : Flags := l.foldl (· ||| ·) 0

/-- An exact integer clamped to a range, with SAT where it clamps (R81). -/
def clampInt (lo hi x : Int) : Int × Flags := if x < lo then (lo, flSAT) else if hi < x then (hi, flSAT) else (x, 0)

/-- Unsigned addition and subtraction that saturate to n bits (R262). -/
def addUs (n a b : Nat) : Nat × Flags := if 2 ^ n ≤ a + b then (2 ^ n - 1, flSAT) else (a + b, 0)
def subUs (a b : Nat) : Nat × Flags := if a < b then (0, flSAT) else (a - b, 0)

end Sys2Proof.Machine
end

