-- ==== Sys2Proof/Machine/Float.lean ====
section
/-! DEFINITION. Floating formats, rounding and the exact arithmetic of R81-R92 and R98-R102: every operation forms its exact
value and rounds it once. -/

namespace Sys2Proof.Machine

/-! ### Formats (R82) -/

/-- A binary format: exponent and fraction bits, bias, code of the largest finite value, code of the canonical NaN, and
whether it has infinities. -/
structure Fmt where
  ebits : Nat
  fbits : Nat
  bias : Nat
  maxFin : Nat
  nan : Nat
  hasInf : Bool
  deriving DecidableEq, Repr

def b32 : Fmt := { ebits := 8, fbits := 23, bias := 127, maxFin := 0x7F7FFFFF, nan := 0x7FC00000, hasInf := true }
def b16 : Fmt := { ebits := 5, fbits := 10, bias := 15, maxFin := 0x7BFF, nan := 0x7E00, hasInf := true }
def bf16 : Fmt := { ebits := 8, fbits := 7, bias := 127, maxFin := 0x7F7F, nan := 0x7FC0, hasInf := true }
def e4m3 : Fmt := { ebits := 4, fbits := 3, bias := 7, maxFin := 0x7E, nan := 0x7F, hasInf := false }
def e5m2 : Fmt := { ebits := 5, fbits := 2, bias := 15, maxFin := 0x7B, nan := 0x7E, hasInf := true }
/-- binary64, used for the squares of R316. -/
def b64 : Fmt :=
  { ebits := 11, fbits := 52, bias := 1023, maxFin := 0x7FEFFFFFFFFFFFFF, nan := 0x7FF8000000000000, hasInf := true }

/-- The place of the sign bit, and the code of +infinity. -/
def Fmt.sbit (f : Fmt) : Nat := 2 ^ (f.ebits + f.fbits)
def Fmt.inf (f : Fmt) : Nat := f.maxFin + 1

/-- A value: NaN, infinity, or a sign and m * 2^e. -/
inductive FV where
  | nan (signalling : Bool)
  | inf (neg : Bool)
  | fin (neg : Bool) (m : Nat) (e : Int)
  deriving DecidableEq, Repr

/-- The value of a code (R82, R83). -/
def Fmt.val (f : Fmt) (x : Nat) : FV :=
  let mag := x % f.sbit
  let neg := x / f.sbit % 2 == 1
  if f.maxFin < mag then
    if f.hasInf then (if mag = f.inf then .inf neg else .nan (mag / 2 ^ (f.fbits - 1) % 2 == 0)) else .nan false
  else
    let ex := mag / 2 ^ f.fbits
    let fr := mag % 2 ^ f.fbits
    if ex = 0 then .fin neg fr (1 - f.bias - f.fbits) else .fin neg (fr + 2 ^ f.fbits) ((ex : Int) - f.bias - f.fbits)

def FV.isNan : FV → Bool
  | .nan _ => true
  | _ => false
def FV.isSig : FV → Bool
  | .nan s => s
  | _ => false
def FV.isInf : FV → Bool
  | .inf _ => true
  | _ => false
def FV.isZero : FV → Bool
  | .fin _ m _ => m == 0
  | _ => false
def FV.neg? : FV → Bool
  | .nan _ => false
  | .inf s => s
  | .fin s _ _ => s
/-- The value with its sign changed; a NaN stays. -/
def FV.negate : FV → FV
  | .nan s => .nan s
  | .inf s => .inf (!s)
  | .fin s m e => .fin (!s) m e
/-- Whether a value is an infinity or a NaN. -/
def FV.nonFinite : FV → Bool
  | .fin _ _ _ => false
  | _ => true

/-! ### Rounding (R84-R86) -/

/-- Rounding modes of MOD bits 1:0 (R65). -/
def rmRNE : Nat := 0
def rmRTZ : Nat := 1
def rmRDN : Nat := 2
def rmRUP : Nat := 3
/-- RISC-V's fifth mode, of harts alone: to nearest, ties away from zero (notes/assumptions 3). -/
def rmRMM : Nat := 4

/-- x * 2^k for a k of either sign, rounded down, with whether bits were lost. -/
def shiftBy (x : Nat) (k : Int) : Nat × Bool :=
  if 0 ≤ k then (x * 2 ^ k.toNat, false) else (x / 2 ^ (-k).toNat, x % 2 ^ (-k).toNat != 0)

/-- A magnitude n + r/d, with r < d and something more below if sticky, rounded to an integer by a mode; and whether it
differs. -/
def roundMag (rm : Nat) (neg : Bool) (n r d : Nat) (sticky : Bool) : Nat × Bool :=
  let inexact := r != 0 || sticky
  let up :=
    match rm with
    | 0 => decide (d < 2 * r) || (2 * r == d && (sticky || n % 2 == 1))
    | 1 => false
    | 2 => neg && inexact
    | 3 => !neg && inexact
    | _ => decide (d ≤ 2 * r)
  (if up then n + 1 else n, inexact)

/-- The magnitude m * 2^e (and a little more if sticky) rounded to a multiple of 2^q: the multiple, and whether it differs. -/
def roundTo (rm : Nat) (neg : Bool) (m : Nat) (e q : Int) (sticky : Bool) : Nat × Bool :=
  if q ≤ e then roundMag rm neg (m * 2 ^ (e - q).toNat) 0 1 sticky
  else roundMag rm neg (m / 2 ^ (q - e).toNat) (m % 2 ^ (q - e).toNat) (2 ^ (q - e).toNat) sticky

/-- Whether a mode delivers an infinity on overflow. -/
def toInf (rm : Nat) (neg : Bool) : Bool := match rm with | 0 => true | 1 => false | 2 => neg | 3 => !neg | _ => true

/-- A finite non-zero value rounded once into a format (R84-R86): code and flags. -/
def Fmt.round (f : Fmt) (rm : Nat) (satf : Bool) (neg : Bool) (m : Nat) (e : Int) (sticky : Bool) : Nat × Flags :=
  let sg := if neg then f.sbit else 0
  if m = 0 && !sticky then (sg, 0)
  else
    let top : Int := (Nat.log2 m : Int) + e
    let emin : Int := 1 - f.bias
    let q := max top emin - f.fbits
    let (n, inexact) := roundTo rm neg m e q sticky
    let code := ((q - (emin - f.fbits)).toNat) * 2 ^ f.fbits + n
    if f.maxFin < code then
      if satf then (sg + f.maxFin, flSAT ||| flINX)
      else if toInf rm neg then ((if f.hasInf then sg + f.inf else f.nan), flOVF ||| flINX)
      else (sg + f.maxFin, flOVF ||| flINX)
    else
      let n' := (roundTo rm neg m e (top - f.fbits) sticky).1
      let tiny := decide (top < emin) && !(top == emin - 1 && n' == 2 ^ (f.fbits + 1))
      (sg + code, (if inexact then flINX else 0) ||| (if inexact && tiny then flUNF else 0))

/-! ### Fused sums (R84, R101) -/

/-- A value as an integer multiple of 2^q, for q at most its exponent. -/
def FV.scaled (q : Int) : FV → Int
  | .fin s m e => (if s then -1 else 1) * (m * 2 ^ (e - q).toNat : Nat)
  | _ => 0

/-- The least exponent of the finite values of a list. -/
def minExp : List FV → Int
  | [] => 0
  | .fin _ _ e :: [] => e
  | .fin _ _ e :: t => min e (minExp t)
  | _ :: t => minExp t

/-- The product of two values that are not NaN; none for 0 times infinity. -/
def FV.mul (a b : FV) : Option FV :=
  match a, b with
  | .fin s m e, .fin t n g => some (.fin (s != t) (m * n) (e + g))
  | .inf s, x => if x.isZero then none else some (.inf (s != x.neg?))
  | x, .inf s => if x.isZero then none else some (.inf (s != x.neg?))
  | _, _ => none

/-- The sign of an exactly zero sum (R101). -/
def zeroSign (rm : Nat) (l : List FV) : Bool :=
  if l.all (·.neg?) then true else if l.all (fun x => !x.neg?) then false else rm == rmRDN

/-- The sum of addends that are not NaN, rounded once (R84, R101). -/
def Fmt.sum (f : Fmt) (rm : Nat) (l : List FV) : Nat × Flags :=
  let infs := l.filter (·.isInf)
  if infs.any (·.neg?) && infs.any (fun x => !x.neg?) then (f.nan, flINV)
  else
    match infs with
    | x :: _ => (f.inf + (if x.neg? then f.sbit else 0), 0)
    | [] =>
      let q := minExp l
      let s := (l.map (FV.scaled q)).sum
      if s = 0 then (if l.all (·.isZero) && zeroSign rm l || !l.all (·.isZero) && rm == rmRDN then f.sbit else 0, 0)
      else f.round rm false (decide (s < 0)) s.natAbs q false

/-- A fused operation: products and addends, with the NaN and invalid rules of R280. -/
def Fmt.fused (f : Fmt) (rm : Nat) (prods : List (FV × FV)) (adds : List FV) : Nat × Flags :=
  let all := (prods.flatMap (fun p => [p.1, p.2])) ++ adds
  let bad := prods.any (fun p => !p.1.isNan && !p.2.isNan && (p.1.mul p.2).isNone)
  if all.any (·.isNan) then (f.nan, if all.any (·.isSig) || bad then flINV else 0)
  else if bad then (f.nan, flINV)
  else f.sum rm (prods.filterMap (fun p => p.1.mul p.2) ++ adds)

/-- Additions, products and fused products of codes of a format. -/
def Fmt.add (f : Fmt) (rm a b : Nat) : Nat × Flags := f.fused rm [] [f.val a, f.val b]
def Fmt.sub (f : Fmt) (rm a b : Nat) : Nat × Flags := f.fused rm [] [f.val a, (f.val b).negate]
def Fmt.mul (f : Fmt) (rm a b : Nat) : Nat × Flags := f.fused rm [(f.val a, f.val b)] []
def Fmt.fma (f : Fmt) (rm a b c : Nat) : Nat × Flags := f.fused rm [(f.val a, f.val b)] [f.val c]
def Fmt.fnma (f : Fmt) (rm a b c : Nat) : Nat × Flags := f.fused rm [((f.val a).negate, f.val b)] [f.val c]

/-! ### Conversion between formats (R86, R287, R288) -/

/-- A value converted into a format by a mode, with SATF. -/
def Fmt.conv (f : Fmt) (rm : Nat) (satf : Bool) (x : FV) : Nat × Flags :=
  match x with
  | .nan s => (f.nan, if s then flINV else 0)
  | .inf s =>
    if f.hasInf then (f.inf + (if s then f.sbit else 0), 0)
    else if satf then (f.maxFin + (if s then f.sbit else 0), flSAT) else (f.nan, flINV)
  | .fin s m e => f.round rm satf s m e false

/-! ### Order (R281, R283) -/

/-- The order of a code with -0 below +0. -/
def Fmt.key (f : Fmt) (x : Nat) : Int := if x / f.sbit % 2 = 1 then -((x % f.sbit : Nat) : Int) - 1 else (x % f.sbit : Nat)

/-- Minimum or maximum; `num` for the forms that prefer a number (R281). -/
def fminmax (mx num : Bool) (a b : Nat) : Nat × Flags :=
  let va := b32.val a
  let vb := b32.val b
  let fl : Flags := if va.isSig || vb.isSig then flINV else 0
  let r :=
    if va.isNan && vb.isNan then b32.nan
    else if va.isNan then (if num then b else b32.nan)
    else if vb.isNan then (if num then a else b32.nan)
    else if mx then (if b32.key a < b32.key b then b else a) else (if b32.key b < b32.key a then b else a)
  (r, fl)

/-- Whether a is below b as values that are not NaN; equal values of either sign of zero are not. -/
def fless (a b : Nat) : Bool :=
  let va := b32.val a
  let vb := b32.val b
  !(va.isZero && vb.isZero) && decide (b32.key a < b32.key b)

/-- Equality of values that are not NaN. -/
def feq (a b : Nat) : Bool := a == b || ((b32.val a).isZero && (b32.val b).isZero)

/-- The class mask (R283). -/
def fclass (x : Nat) : Nat :=
  match b32.val x with
  | .inf true => 1
  | .inf false => 2 ^ 7
  | .nan true => 2 ^ 8
  | .nan false => 2 ^ 9
  | .fin s m _ =>
    if m = 0 then (if s then 2 ^ 3 else 2 ^ 4)
    else if m < 2 ^ 23 then (if s then 2 ^ 2 else 2 ^ 5)
    else (if s then 2 else 2 ^ 6)

/-! ### Integers -/

/-- An integer rounded into a format. -/
def Fmt.ofInt (f : Fmt) (rm : Nat) (x : Int) : Nat × Flags :=
  if x = 0 then (0, 0) else f.round rm false (decide (x < 0)) x.natAbs 0 false

/-- A finite value rounded to an integer by a mode, and whether it differs. -/
def roundInt (rm : Nat) (s : Bool) (m : Nat) (e : Int) : Int × Bool :=
  let (n, ix) := roundTo rm s m e 0 false
  (if s then -(n : Int) else n, ix)

/-- F2I (R289). -/
def f2i (rm : Nat) (sat u : Bool) (x : Nat) : Nat × Flags :=
  let bad : Nat := if u then 0xFFFFFFFF else 0x80000000
  let hi : Int := if u then 2 ^ 32 - 1 else 2 ^ 31 - 1
  let lo : Int := if u then 0 else -(2 ^ 31)
  let out (v : Int) : Nat := (BitVec.ofInt 32 v).toNat
  match b32.val x with
  | .nan s => if sat then (0, flSAT ||| (if s then flINV else 0)) else (bad, flINV)
  | .inf s => if sat then (out (if s then lo else hi), flSAT ||| flINX) else (bad, flINV)
  | .fin s m e =>
    let (v, ix) := roundInt rm s m e
    if v < lo then (if sat then (out lo, flSAT ||| flINX) else (bad, flINV))
    else if hi < v then (if sat then (out hi, flSAT ||| flINX) else (bad, flINV))
    else (out v, if ix then flINX else 0)

/-! ### Special functions (R284, R285): exact values evaluated to 512 bits (notes/assumptions 17) -/

/-- Bits of the fixed-point work. -/
def spP : Nat := 512

/-- The integer square root of n, from bit k - 1 down. -/
def isqrt (n : Nat) : Nat → Nat → Nat
  | 0, r => r
  | k + 1, r => isqrt n k (if (r + 2 ^ k) * (r + 2 ^ k) ≤ n then r + 2 ^ k else r)
/-- floor of the square root of n below 2^(2k). -/
def sqrtN (k n : Nat) : Nat := isqrt n k 0

/-- sum of z^(2i+1)/(2i+1) over `fuel` terms in fixed point, z2 being z squared. -/
def atanhSum (z2 : Nat) : Nat → Nat → Nat → Nat
  | 0, _, _ => 0
  | fuel + 1, t, d => t / d + atanhSum z2 fuel (t * z2 / 2 ^ spP) (d + 2)

/-- The natural logarithm of num/den from 1 to 2, in fixed point. -/
def lnFix (num den : Nat) : Nat :=
  let z := (num - den) * 2 ^ spP / (num + den)
  2 * atanhSum (z * z / 2 ^ spP) 180 z 1

/-- ln 2 in fixed point. -/
def ln2Fix : Nat := lnFix 2 1

/-- The Taylor series of e^x in fixed point, `fuel` terms from term t over factorial step k. -/
def expSum (x : Nat) : Nat → Nat → Nat → Nat
  | 0, t, _ => t
  | fuel + 1, t, k => t + expSum x fuel (t * x / (2 ^ spP * k)) (k + 1)

/-- 2^f for a fixed-point fraction f, in fixed point: from 1 to 2. -/
def exp2Fix (f : Nat) : Nat := expSum (f * ln2Fix / 2 ^ spP) 130 (2 ^ spP) 1

/-- m * 2^e in fixed point, rounded down. -/
def toFix (m : Nat) (e : Int) : Nat := (shiftBy m (e + spP)).1

/-- e^-y for fixed-point y: k and F with the value F * 2^-(k + spP), F from 2^spP to 2^(spP+1). -/
def expNeg (y : Nat) : Nat × Nat :=
  let t := y * 2 ^ spP / ln2Fix
  let k := t / 2 ^ spP + 1
  (k, exp2Fix (k * 2 ^ spP - t))

/-- A value slightly below m * 2^e. -/
def justBelow (m : Nat) (e : Int) : Nat × Int := (m * 2 ^ 128 - 1, e - 128)

/-- 1/a of a finite non-zero value. -/
def spRcp (m : Nat) (e : Int) : Nat × Int × Bool :=
  let k := Nat.log2 m + 128
  (2 ^ k / m, -e - k, 2 ^ k % m != 0)

/-- The square root of m * 2^e, and of its reciprocal. -/
def spSqrt (m : Nat) (e : Int) : Nat × Int × Bool :=
  let (m, e) := if e % 2 = 0 then (m, e) else (2 * m, e - 1)
  let n := m * 2 ^ 256
  let r := sqrtN 160 n
  (r, e / 2 - 128, r * r != n)
def spRsq (m : Nat) (e : Int) : Nat × Int × Bool :=
  let (m, e) := if e % 2 = 0 then (m, e) else (2 * m, e - 1)
  let r := sqrtN 260 (2 ^ 512 / m)
  (r, -(e / 2) - 256, r * r * m != 2 ^ 512)

/-- 2^a of a finite non-zero a. -/
def spExp2 (neg : Bool) (m : Nat) (e : Int) : Nat × Int × Bool :=
  if 10 ≤ (Nat.log2 m : Int) + e then (1, if neg then -1024 else 1024, true)
  else
    let fx := toFix m e
    let ip := fx / 2 ^ spP
    let fr := fx % 2 ^ spP
    let exact := (shiftBy m e).2 == false
    if exact then (1, if neg then -(ip : Int) else ip, false)
    else if neg then (exp2Fix (2 ^ spP - fr), -(ip : Int) - 1 - spP, true)
    else (exp2Fix fr, (ip : Int) - spP, true)

/-- log2 of m * 2^e: sign, and magnitude. -/
def spLog2 (m : Nat) (e : Int) : Bool × Nat × Int × Bool :=
  let k := Nat.log2 m
  let ip : Int := k + e
  let fr := lnFix m (2 ^ k) * 2 ^ spP / ln2Fix
  let v : Int := ip * 2 ^ spP + fr
  (decide (v < 0), v.natAbs, -(spP : Int), m != 2 ^ k)

/-- tanh of the magnitude m * 2^e. -/
def spTanh (m : Nat) (e : Int) : Nat × Int × Bool :=
  let top := (Nat.log2 m : Int) + e
  if top < -70 then (let r := justBelow m e; (r.1, r.2, true))
  else if 6 ≤ top then (let r := justBelow 1 0; (r.1, r.2, true))
  else
    let (k, f) := expNeg (2 * toFix m e)
    let ee := f / 2 ^ k
    ((2 ^ spP - ee) * 2 ^ spP / (2 ^ spP + ee), -(spP : Int), true)

/-- 1/(1 + e^-a). -/
def spSig (neg : Bool) (m : Nat) (e : Int) : Nat × Int × Bool :=
  let top := (Nat.log2 m : Int) + e
  if 7 ≤ top then (if neg then (1, -400, true) else (let r := justBelow 1 0; (r.1, r.2, true)))
  else
    let (k, f) := expNeg (toFix m e)
    let ee := f / 2 ^ k
    if neg then (f * 2 ^ spP / (2 ^ spP + ee), -(k : Int) - spP, true)
    else (2 ^ spP * 2 ^ spP / (2 ^ spP + ee), -(spP : Int), true)

/-- Special functions by opcode 0x58 to 0x5E. -/
def special (opc rm : Nat) (x : Nat) : Nat × Flags :=
  let pinf := b32.inf
  let ninf := b32.inf + b32.sbit
  let one := 0x3F800000
  let neg0 := b32.sbit
  let fin (neg : Bool) (r : Nat × Int × Bool) := b32.round rm false neg r.1 r.2.1 r.2.2
  match b32.val x with
  | .nan s => (b32.nan, if s then flINV else 0)
  | .inf s =>
    match opc with
    | 0x58 => (if s then neg0 else 0, 0)
    | 0x59 => if s then (b32.nan, flINV) else (0, 0)
    | 0x5A => if s then (b32.nan, flINV) else (pinf, 0)
    | 0x5B => (if s then 0 else pinf, 0)
    | 0x5C => if s then (b32.nan, flINV) else (pinf, 0)
    | 0x5D => (if s then one + neg0 else one, 0)
    | _ => (if s then 0 else one, 0)
  | .fin s m e =>
    if m = 0 then
      match opc with
      | 0x58 => (if s then ninf else pinf, flOVF)
      | 0x59 => (if s then ninf else pinf, flOVF)
      | 0x5A => (x, 0)
      | 0x5B => (one, 0)
      | 0x5C => (ninf, flOVF)
      | 0x5D => (x, 0)
      | _ => (0x3F000000, 0)
    else
      match opc with
      | 0x58 => fin s (spRcp m e)
      | 0x59 => if s then (b32.nan, flINV) else fin false (spRsq m e)
      | 0x5A => if s then (b32.nan, flINV) else fin false (spSqrt m e)
      | 0x5B => fin false (spExp2 s m e)
      | 0x5C => if s then (b32.nan, flINV) else (let r := spLog2 m e; fin r.1 r.2)
      | 0x5D => fin s (spTanh m e)
      | _ => fin false (spSig s m e)

end Sys2Proof.Machine
end

