-- ==== Sys2Proof/Machine/StageInt.lean ====
section
/-! DEFINITION. The integer, logic, shift, compare, multiply and packing instructions of a stage, lane by lane (R262-R268),
the tag fields (R271, R272), and the predicate and mask tests (R269). -/

namespace Sys2Proof.Machine

/-! ### Ranges -/

def s32 (x : Word) : Int := x.toInt
def u32 (x : Word) : Int := x.toNat
def lo31 : Int := -(2 ^ 31)
def hi31 : Int := 2 ^ 31 - 1

/-- An exact signed result: clamped under sat, else wrapped (R261). -/
def deliver (sat : Bool) (x : Int) : Word × Flags :=
  if sat then (let r := clampInt lo31 hi31 x; (wi 32 r.1, r.2)) else (wi 32 x, 0)

/-- Half j of a lane. -/
def half (x : Word) (j : Nat) : BitVec 16 := w (bits x (16 * j + 15) (16 * j))

/-- An operation on the two halves of each lane (R262). -/
def halves (f : BitVec 16 → BitVec 16 → BitVec 16 × Flags) (a b : Word) : Word × Flags :=
  let l := f (half a 0) (half b 0)
  let h := f (half a 1) (half b 1)
  (h.1 ++ l.1, h.2 ||| l.2)

/-- An exact signed result of a half. -/
def deliver16 (sat : Bool) (x : Int) : BitVec 16 × Flags :=
  if sat then (let r := clampInt (-32768) 32767 x; (wi 16 r.1, r.2)) else (wi 16 x, 0)

/-- ADD to ABS on words and on halves (R262). -/
def arith (opc : Nat) (sat h : Bool) (a b : Word) : Word × Flags :=
  let f (x y : Int) : Int := match opc with | 2 => x + y | 3 => x - y | 6 => -x | _ => if x < 0 then -x else x
  if h then halves (fun x y => deliver16 sat (f x.toInt y.toInt)) a b else deliver sat (f (s32 a) (s32 b))

/-- ADDUS and SUBUS (R262). -/
def arithUs (sub h : Bool) (a b : Word) : Word × Flags :=
  let f (n x y : Nat) : Nat × Flags := if sub then subUs x y else addUs n x y
  if h then halves (fun x y => let r := f 16 x.toNat y.toNat; (w r.1, r.2)) a b
  else (let r := f 32 a.toNat b.toNat; (w r.1, r.2))

/-! ### Bit fields and counts (R264, R265) -/

/-- The field descriptor of b: position and length, at most 32. -/
def bfPos (b : Word) : Nat := bits b 4 0
def bfLen (b : Word) : Nat := min 32 (bits b 10 5)

/-- BEXT. -/
def bext (sx : Bool) (a b : Word) : Word :=
  let n := bfLen b
  let v := a.toNat / 2 ^ bfPos b % 2 ^ n
  if n = 0 then 0 else if sx then wi 32 (snat n v) else w v

/-- BINS. -/
def bins (a b c : Word) : Word :=
  let p := bfPos b
  let n := min (bfLen b) (32 - p)
  w (c.toNat - nbits c.toNat (p + n) p % 2 ^ n * 2 ^ p + a.toNat % 2 ^ n * 2 ^ p)

/-- Leading and trailing zeros, set bits, reversal. -/
def clz (a : Word) : Nat := if a = 0 then 32 else 31 - Nat.log2 a.toNat
def ctz (a : Word) : Nat := if a = 0 then 32 else ((List.range 32).find? (fun i => bit a i)).getD 32
def popc (a : Word) : Nat := ((List.range 32).filter (fun i => bit a i)).length
def brev (a : Word) : Word := w (((List.range 32).filter (fun i => bit a i)).map (fun i => 2 ^ (31 - i))).sum

/-- Minimum and maximum, signed or unsigned (R266). -/
def minMax (opc : Nat) (x y : BitVec n) : BitVec n :=
  match opc with
  | 0x27 => if y.slt x then y else x
  | 0x28 => if x.slt y then y else x
  | 0x29 => if y.ult x then y else x
  | _ => if x.ult y then y else x

/-! ### Products (R267) -/

/-- Byte i of a word, signed and unsigned; half j signed. -/
def s8 (x : Word) (i : Nat) : Int := snat 8 (bits x (8 * i + 7) (8 * i))
def u8 (x : Word) (i : Nat) : Int := (bits x (8 * i + 7) (8 * i) : Nat)
def s16 (x : Word) (j : Nat) : Int := (half x j).toInt

/-- Exact sums of products. -/
def dot4 (f g : Word → Nat → Int) (a b : Word) : Int := ((List.range 4).map (fun i => f a i * g b i)).sum

/-- A truth value as a lane. -/
def lb (b : Bool) : Word := if b then 1 else 0

/-- An integer instruction in one lane (R262-R268). -/
def intLane (opc mod : Nat) (a b c : Word) : Word × Flags :=
  let sat := mod.testBit 2
  let h := mod.testBit 3
  match opc with
  | 0x01 => (a, 0)
  | 0x02 | 0x03 | 0x06 | 0x07 => arith opc sat h a b
  | 0x04 => arithUs false h a b
  | 0x05 => arithUs true h a b
  | 0x08 => (a &&& b, 0)
  | 0x09 => (a ||| b, 0)
  | 0x0A => (a ^^^ b, 0)
  | 0x0B => (a &&& ~~~b, 0)
  | 0x0C => (~~~a, 0)
  | 0x0D => ((a &&& c) ||| (b &&& ~~~c), 0)
  | 0x10 => (if 32 ≤ b.toNat then 0 else a <<< b.toNat, 0)
  | 0x11 => (if 32 ≤ b.toNat then 0 else a >>> b.toNat, 0)
  | 0x12 => (a.sshiftRight (min 32 b.toNat), 0)
  | 0x13 => (a.rotateLeft (b.toNat % 32), 0)
  | 0x14 => (bext h a b, 0)
  | 0x15 => (bins a b c, 0)
  | 0x16 => (w (clz a), 0)
  | 0x17 => (w (ctz a), 0)
  | 0x18 => (w (popc a), 0)
  | 0x19 => (brev a, 0)
  | 0x20 => (lb (a == b), 0)
  | 0x21 => (lb (a != b), 0)
  | 0x22 => (lb (a.slt b), 0)
  | 0x23 => (lb (!b.slt a), 0)
  | 0x24 => (lb (a.ult b), 0)
  | 0x25 => (lb (!b.ult a), 0)
  | 0x26 => (if c ≠ 0 then a else b, 0)
  | 0x27 | 0x28 | 0x29 | 0x2A => if h then halves (fun x y => (minMax opc x y, 0)) a b else (minMax opc a b, 0)
  | 0x2B => if h then (minMax 0x29 (minMax 0x2A a b) c, 0) else (minMax 0x27 (minMax 0x28 a b) c, 0)
  | 0x30 => deliver sat (s32 a * s32 b)
  | 0x31 => (wi 32 (s32 a * s32 b / 2 ^ 32), 0)
  | 0x32 => (wi 32 (u32 a * u32 b / 2 ^ 32), 0)
  | 0x33 => deliver sat (s32 a * s32 b + s32 c)
  | 0x34 => deliver sat (dot4 s8 s8 a b + s32 c)
  | 0x35 =>
    let x := dot4 u8 u8 a b + u32 c
    if sat then (let r := clampInt 0 (2 ^ 32 - 1) x; (wi 32 r.1, r.2)) else (wi 32 x, 0)
  | 0x36 => deliver sat (dot4 s8 u8 a b + s32 c)
  | 0x37 => deliver sat (s16 a 0 * s16 b 0 + s16 a 1 * s16 b 1 + s32 c)
  | 0x38 => (wi 32 (s8 a 0), 0)
  | 0x39 => (wi 32 (s16 a 0), 0)
  | 0x3A => (a &&& 0xFF, 0)
  | 0x3B => (a &&& 0xFFFF, 0)
  | _ =>
    let f (x : Word) : Word × Flags :=
      if sat then (let r := if h then clampInt 0 65535 (s32 x) else clampInt (-32768) 32767 (s32 x); (wi 32 r.1, r.2)) else (x, 0)
    (half (f b).1 0 ++ half (f a).1 0, (f a).2 ||| (f b).2)

/-! ### Tags (R271, R272) -/

/-- Width and lowest bit of field F under a channel word. -/
def tagW (cw : Word) (f : Nat) : Nat := bits cw (6 * f + 5) (6 * f)
def tagLo (cw : Word) (f : Nat) : Nat := ((List.range 4).filter (fun i => decide (f < i))).map (tagW cw) |>.sum
/-- Field F of a tag. -/
def tagFld (cw x : Word) (f : Nat) : Nat := x.toNat / 2 ^ tagLo cw f % 2 ^ tagW cw f
/-- A tag with field F replaced. -/
def tagPut (cw x : Word) (f v : Nat) : Word := w (x.toNat - tagFld cw x f * 2 ^ tagLo cw f + v * 2 ^ tagLo cw f)
/-- A tag with every field after F zero. -/
def tagClear (cw x : Word) (f : Nat) : Word := w (x.toNat / 2 ^ tagLo cw f * 2 ^ tagLo cw f)

/-- A tag instruction in one lane; none is TAGOVF (R272). -/
def tagLane (opc f : Nat) (cw a b : Word) : Option Word :=
  let fw := tagW cw f
  match opc with
  | 0xD8 => some (w (tagFld cw a f))
  | 0xD9 => if b.toNat < 2 ^ fw then some (tagPut cw a f b.toNat) else none
  | 0xDA =>
    let v := tagFld cw a f + b.toNat
    if fw = 0 then (if b = 0 then some a else none)
    else if v < 2 ^ fw then some (tagClear cw (tagPut cw a f v) f) else none
  | _ =>
    let x := tagFld cw a f
    let y := tagFld cw b f
    some (if x < y then 0xFFFFFFFF else if x = y then 0 else 1)

/-! ### Predicates and masks (R269) -/

/-- The value PSET, PANY or PALL writes, from the active lanes and those of them with a non-zero operand. -/
def predOf (opc : Nat) (act z : BitVec 16) : Bool :=
  match opc with
  | 0xD0 => match (List.range 16).find? (fun l => act.getLsbD l) with | some l => z.getLsbD l | none => false
  | 0xD1 => z != 0
  | _ => z == act

/-- The value KSET to KANDN write. -/
def kmaskOf (opc : Nat) (old m : BitVec 16) : BitVec 16 :=
  match opc with
  | 0xD3 => m
  | 0xD4 => old &&& m
  | 0xD5 => old ||| m
  | _ => old &&& ~~~m

end Sys2Proof.Machine
end

