-- ==== Sys2Proof/Machine/StageFloat.lean ====
section
/-! DEFINITION. The floating-point, conversion and block instructions of a stage, lane by lane (R280-R295). -/

namespace Sys2Proof.Machine

/-- A code of a format as a lane. -/
def lw (r : Nat × Flags) : Word × Flags := (w r.1, r.2)

/-- A packed form: each half computed on its own (R286). -/
def packed (op : Nat → Nat → Nat → Nat × Flags) (a b c : Word) : Word × Flags :=
  let l := op (half a 0).toNat (half b 0).toNat (half c 0).toNat
  let h := op (half a 1).toNat (half b 1).toNat (half c 1).toNat
  ((w h.1 : BitVec 16) ++ (w l.1 : BitVec 16), l.2 ||| h.2)

/-- The value of binary32 operands. -/
def fv (x : Word) : FV := b32.val x.toNat

/-- FABS and FNEG (R282). -/
def fsign (neg : Bool) (a : Word) : Word × Flags :=
  if (fv a).isNan then (w b32.nan, if (fv a).isSig then flINV else 0)
  else (if neg then a ^^^ 0x80000000 else a &&& 0x7FFFFFFF, 0)

/-- FCMPEQ to FCMPUN (R283). -/
def fcompare (opc : Nat) (a b : Word) : Word × Flags :=
  let un := (fv a).isNan || (fv b).isNan
  let sg := (fv a).isSig || (fv b).isSig
  let inv (c : Bool) : Flags := if c then flINV else 0
  match opc with
  | 0x50 => (lb (!un && feq a.toNat b.toNat), inv sg)
  | 0x51 => (lb (!un && fless a.toNat b.toNat), inv un)
  | 0x52 => (lb (!un && (fless a.toNat b.toNat || feq a.toNat b.toNat)), inv un)
  | _ => (lb un, inv sg)

/-! ### Blocks (R87-R92, R291-R294) -/

/-- The doubled magnitude of an E2M1 code (R87), signed, under a spare byte (R89, R91). -/
def e2Doubled (code : Nat) (spare : Byte) : Int :=
  let t := nth [0, 1, 2, 3, 4, 6, 8, 12] (code % 8) 0
  if code = 8 then (if spare = 0x80 then 0 else spare.toInt) else if 8 ≤ code then -(t : Int) else t

/-- A value of a block delivered in binary32: exact, or an infinity with OVF, and with no INX (R90 names OVF alone; DEDUCED, notes/assumptions
20), from 2^128 up, or rounded RNE below the normal range (R90, R92, R99). -/
def blockVal (neg : Bool) (m : Nat) (e : Int) : Nat × Flags :=
  let sg := if neg then b32.sbit else 0
  if m = 0 then (sg, 0)
  else if 128 ≤ (Nat.log2 m : Int) + e then (b32.inf + sg, flOVF)
  else b32.round rmRNE false neg m e false

/-- E2DEC: code i of a under a header word (R291). -/
def e2dec (hdr a b : Word) : Word × Flags :=
  let i := bits b 2 0
  let code := bits a (4 * i + 3) (4 * i)
  let spare : Byte := w (bits hdr 15 8)
  let d := e2Doubled code spare
  if bits hdr 7 0 = 255 then (w b32.nan, 0)
  else lw (blockVal (decide (d < 0) || (code == 8 && spare == 0x80)) d.natAbs ((bits hdr 7 0 : Int) - 128))

/-- E2DECI (R291). -/
def e2deci (hw : Bool) (hdr a b : Word) : Word :=
  if hw then hdr
  else (let i := bits b 2 0; wi 32 (e2Doubled (bits a (4 * i + 3) (4 * i)) (w (bits hdr 15 8))))

/-- I8DEC (R291). -/
def i8dec (e4 : Bool) (hdr a b : Word) : Word × Flags :=
  let i := bits b 1 0
  let byte := bits a (8 * i + 7) (8 * i)
  let e : Int := (bits hdr 7 0 : Int) - 127
  if bits hdr 7 0 = 255 then (w b32.nan, 0)
  else if e4 then
    match e4m3.val byte with
    | .fin s m g => lw (blockVal s m (g + e))
    | _ => (w b32.nan, 0)
  else (let v := snat 8 byte; lw (blockVal (decide (v < 0)) v.natAbs e))

/-- A signed dyadic number num / 2^sh. -/
structure Dyad where
  num : Int
  sh : Nat
  deriving DecidableEq, Repr

/-- The number (-1)^s m 2^e. -/
def dyad (s : Bool) (m : Nat) (e : Int) : Dyad :=
  let n : Int := (m * 2 ^ e.toNat : Nat)
  { num := if s then -n else n, sh := (-e).toNat }

/-- The order of an integer and a dyadic number. -/
def Dyad.lt (q : Dyad) (c : Int) : Bool := decide (q.num < c * 2 ^ q.sh)
def Dyad.gt (q : Dyad) (c : Int) : Bool := decide (c * 2 ^ q.sh < q.num)
def Dyad.dist (q : Dyad) (c : Int) : Nat := (q.num - c * 2 ^ q.sh).natAbs

/-- The E2M1 values doubled that a block can hold, with their codes, ordinary ones first (R292). -/
def e2Cands (spare : Byte) : List (Int × Nat) :=
  let pos := [(0, 0), (1, 1), (2, 2), (3, 3), (4, 4), (6, 5), (8, 6), (12, 7)]
  let ord : List (Int × Nat) := pos ++ (pos.drop 1).map (fun c => (-c.1, c.2 + 8))
  if spare = 0x80 || ord.any (fun c => c.1 == spare.toInt) then ord else ord ++ [(spare.toInt, 8)]

/-- The candidate nearest to q under RNE: among equal distances an ordinary one before the spare, then an even fraction. -/
def e2Near (q : Dyad) (cs : List (Int × Nat)) : Int × Nat :=
  cs.foldl (fun best c =>
    let d := q.dist c.1
    let e := q.dist best.1
    if d < e then c else if d = e && best.2 % 2 == 1 && c.2 % 2 == 0 && c.2 != 8 then c else best) (cs.headD (0, 0))

/-- The greatest candidate not above q, and the least not below it. -/
def e2Below (q : Dyad) (cs : List (Int × Nat)) : Int × Nat :=
  let l := cs.filter (fun c => !q.lt c.1)
  l.foldl (fun best c => if best.1 < c.1 then c else best) (l.headD (0, 0))
def e2Above (q : Dyad) (cs : List (Int × Nat)) : Int × Nat :=
  let l := cs.filter (fun c => !q.gt c.1)
  l.foldl (fun best c => if c.1 < best.1 then c else best) (l.headD (0, 0))

/-- The code of a value in an E2M1 block (R292): q is the doubled scaled value. -/
def e2Code (rm : Nat) (spare : Byte) (q : Dyad) : Nat × Flags :=
  let cs := e2Cands spare
  let hi := cs.foldl (fun b c => if b.1 < c.1 then c else b) (0, 0)
  let lo := cs.foldl (fun b c => if c.1 < b.1 then c else b) (0, 0)
  if q.gt hi.1 then (hi.2, flSAT ||| flINX)
  else if q.lt lo.1 then (lo.2, flSAT ||| flINX)
  else
    let v :=
      match rm with
      | 0 => e2Near q cs
      | 1 => if q.num < 0 then e2Above q cs else e2Below q cs
      | 2 => e2Below q cs
      | _ => e2Above q cs
    let code := if v.1 = 0 && decide (q.num < 0) && spare == 0x80 then 8 else v.2
    (code, if q.dist v.1 = 0 then 0 else flINX)

/-- E2ENC (R292). -/
def e2enc (rm : Nat) (a b c : Word) : Word × Flags :=
  let e := bits b 7 0
  let spare : Byte := w (bits b 15 8)
  let cs := e2Cands spare
  let r : Nat × Flags :=
    match fv a with
    | .nan _ => (0, flINV)
    | .inf s =>
      if e = 255 then (0, flINV)
      else
        let best := cs.foldl (fun (x : Int × Nat) y => if s then (if y.1 < x.1 then y else x) else (if x.1 < y.1 then y else x)) (0, 0)
        (best.2, flSAT ||| flINX)
    | .fin s m g => if e = 255 then (0, flINV) else e2Code rm spare (dyad s m (g + 128 - e))
  ((c >>> 4) ||| ((w r.1 : Word) <<< 28), r.2)

/-- I8ENC (R292). -/
def i8enc (rm : Nat) (e4 satf : Bool) (a b c : Word) : Word × Flags :=
  let e := bits b 7 0
  let r : Nat × Flags :=
    if e4 then
      if e = 255 then (0x7F, flINV)
      else
        match fv a with
        | .fin s m g => if m = 0 then (if s then 0x80 else 0, 0) else e4m3.round rm satf s m (g + 127 - e) false
        | x => e4m3.conv rm satf x
    else if e = 255 then (0, flINV)
    else
      match fv a with
      | .nan _ => (0, flINV)
      | .inf s => (if s then 0x80 else 0x7F, flSAT ||| flINX)
      | .fin s m g =>
        let (v, ix) := roundInt rm s m (g + 127 - e)
        let k := clampInt (-128) 127 v
        ((BitVec.ofInt 8 k.1).toNat, if k.2 ≠ 0 then flSAT ||| flINX else if ix then flINX else 0)
  ((c >>> 8) ||| ((w r.1 : Word) <<< 24), r.2)

/-- BMAXE (R293). -/
def bmaxe (fmt : Nat) (a b : Word) : Word × Flags :=
  let emax : Int := match fmt with | 0 => 2 | 1 => 8 | _ => 6
  let r : Nat × Flags :=
    match fv a with
    | .fin _ m e =>
      if m = 0 then (0x7F, 0)
      else (let x := clampInt 0 254 ((Nat.log2 m : Int) + e - emax + 127); (x.1.toNat, x.2))
    | _ => (0xFF, flINV)
  (w (bits b 22 8 * 256 + r.1), r.2)

/-- BSCALE (R294). -/
def bscale (k : Nat) (a b c : Word) : Word × Flags :=
  let eb := bits b 7 0
  let ec := bits c 7 0
  if eb = 255 || ec = 255 then (w b32.nan, 0)
  else if a = 0 then (0, 0)
  else lw (blockVal (decide (s32 a < 0)) (s32 a).natAbs ((eb : Int) + ec - 254 - k))

/-- F8DOT4 (R295). -/
def f8dot4 (rm : Nat) (e5 : Bool) (a b c : Word) : Word × Flags :=
  let f := if e5 then e5m2 else e4m3
  let v (x : Word) (i : Nat) : FV := f.val (bits x (8 * i + 7) (8 * i))
  lw (b32.fused rm ((List.range 4).map (fun i => (v a i, v b i))) [fv c])

/-- A floating, conversion or block instruction in one lane, under the header latch it reads (R280-R295). -/
def fltLane (opc mod : Nat) (hdr a b c : Word) : Word × Flags :=
  let rm := mod % 4
  let b2 := mod.testBit 2
  let b3 := mod.testBit 3
  match opc with
  | 0x40 => lw (b32.add rm a.toNat b.toNat)
  | 0x41 => lw (b32.sub rm a.toNat b.toNat)
  | 0x42 => lw (b32.mul rm a.toNat b.toNat)
  | 0x43 => lw (b32.fma rm a.toNat b.toNat c.toNat)
  | 0x45 => lw (b32.fnma rm a.toNat b.toNat c.toNat)
  | 0x48 => lw (fminmax false false a.toNat b.toNat)
  | 0x49 => lw (fminmax true false a.toNat b.toNat)
  | 0x4A => lw (fminmax false true a.toNat b.toNat)
  | 0x4B => lw (fminmax true true a.toNat b.toNat)
  | 0x4C => fsign false a
  | 0x4D => fsign true a
  | 0x50 | 0x51 | 0x52 | 0x53 => fcompare opc a b
  | 0x54 => (w (fclass a.toNat), 0)
  | 0x58 | 0x59 | 0x5A | 0x5B | 0x5C | 0x5D | 0x5E => lw (special opc rm a.toNat)
  | 0x60 => packed (fun x y _ => b16.add rm x y) a b c
  | 0x61 => packed (fun x y _ => b16.mul rm x y) a b c
  | 0x62 => packed (fun x y z => b16.fma rm x y z) a b c
  | 0x63 => packed (fun x y _ => bf16.add rm x y) a b c
  | 0x64 => packed (fun x y _ => bf16.mul rm x y) a b c
  | 0x65 => packed (fun x y z => bf16.fma rm x y z) a b c
  | 0x68 => lw (b32.ofInt rm (if b3 then u32 a else s32 a))
  | 0x69 => lw (f2i rm b2 b3 a.toNat)
  | 0x6C => lw (b32.conv 0 false (b16.val (half a (b2n b3)).toNat))
  | 0x6E => lw (b32.conv 0 false (bf16.val (half a (b2n b3)).toNat))
  | 0x70 => (let i := bits b 1 0; lw (b32.conv 0 false ((if b3 then e5m2 else e4m3).val (bits a (8 * i + 7) (8 * i)))))
  | 0x6D =>
    let x := b16.conv rm false (fv a)
    let y := b16.conv rm false (fv b)
    ((w y.1 : BitVec 16) ++ (w x.1 : BitVec 16), x.2 ||| y.2)
  | 0x6F =>
    let x := bf16.conv rm false (fv a)
    let y := bf16.conv rm false (fv b)
    ((w y.1 : BitVec 16) ++ (w x.1 : BitVec 16), x.2 ||| y.2)
  | 0x71 =>
    let f := if b3 then e5m2 else e4m3
    let x := f.conv rm b2 (fv a)
    let y := f.conv rm b2 (fv b)
    (half c 0 ++ (w y.1 : Byte) ++ (w x.1 : Byte), x.2 ||| y.2)
  | 0x80 => e2dec hdr a b
  | 0x81 => (e2deci b3 hdr a b, 0)
  | 0x82 => e2enc rm a b c
  | 0x83 => bscale rm a b c
  | 0x84 => bmaxe rm a b
  | 0x85 => i8dec b3 hdr a b
  | 0x86 => i8enc rm b3 b2 a b c
  | _ => f8dot4 rm b3 a b c

/-- Whether some floating operand that a lane would have read is an infinity or a NaN (R277). -/
def fltNF (opc mod : Nat) (hdr : Option Word) (a b c : Word) : Bool :=
  let b3 := mod.testBit 3
  let h (f : Fmt) (x : Word) : Bool := (f.val (half x 0).toNat).nonFinite || (f.val (half x 1).toNat).nonFinite
  let n (x : Word) : Bool := (fv x).nonFinite
  let byte (f : Fmt) (x : Word) (i : Nat) : Bool := (f.val (bits x (8 * i + 7) (8 * i))).nonFinite
  match opc with
  | 0x43 | 0x45 => n a || n b || n c
  | 0x4C | 0x4D | 0x54 | 0x58 | 0x59 | 0x5A | 0x5B | 0x5C | 0x5D | 0x5E | 0x69 | 0x82 | 0x84 | 0x86 => n a
  | 0x60 | 0x61 => h b16 a || h b16 b
  | 0x62 => h b16 a || h b16 b || h b16 c
  | 0x63 | 0x64 => h bf16 a || h bf16 b
  | 0x65 => h bf16 a || h bf16 b || h bf16 c
  | 0x68 => false
  | 0x6C => (b16.val (half a (b2n b3)).toNat).nonFinite
  | 0x6E => (bf16.val (half a (b2n b3)).toNat).nonFinite
  | 0x70 => byte (if b3 then e5m2 else e4m3) a (bits b 1 0)
  | 0x80 => match hdr with | some x => bits x 7 0 == 255 | none => false
  | 0x81 => match hdr with | some x => bits x 7 0 == 255 | none => false
  | 0x85 => match hdr with | some x => bits x 7 0 == 255 || (b3 && byte e4m3 a (bits b 1 0)) | none => false
  | 0x83 => false
  | 0x87 =>
    let f := if b3 then e5m2 else e4m3
    (List.range 4).any (fun i => byte f a i || byte f b i) || n c
  | _ => n a || n b

end Sys2Proof.Machine
end

