-- ==== Sys2Proof/Machine/Channels.lean ====
section
/-! DEFINITION. Input and output channels of CTs and MTs: heads, credits, live predicates, the intersect pair, discarding, and
the merging of barriers and snuff markers (R238-R245, R307-R311, R409). -/

namespace Sys2Proof.Machine

/-! ### Heads and credits -/

/-- A beat as an element reads it: of a header lane 0 alone, of the kinds 2 to 5 no lanes, VALID or tag (R105, R106). -/
def Beat.seen (b : Beat) : Beat :=
  if b.kind = 0 then b
  else if b.kind = 1 then { b with valid := b.valid &&& 1, lanes := lanesOf (fun l => if l = 0 then lane b.lanes 0 else 0) }
  else { b with tag := 0, valid := 0, lanes := lanesOf (fun _ => 0) }

/-- The FIFO of input c, its oldest beat, its head (a beat of a reserved kind is none: it is dropped on reaching the head, R238), and
its PAIR and KEY fields. -/
def Tile.fifo (t : Tile) (c : Nat) : List Beat := nth t.inF c []
def Tile.oldest (t : Tile) (c : Nat) : Option Beat := (t.fifo c).head?
def Tile.head (t : Tile) (c : Nat) : Option Beat :=
  match t.oldest c with
  | some b => if 6 ≤ b.kind.toNat then none else some b.seen
  | none => none
def Tile.paired (t : Tile) (ct : Bool) : Bool := bit (t.inW ct 0) 29
def Tile.pairFld (t : Tile) (ct : Bool) : Nat := bits (t.inW ct 0) 28 27

/-- Beats owed to output o by firings in flight: their credits are taken (R239). -/
def Flight.owes (f : Flight) (o : Nat) : Nat :=
  if bit f.action (8 + o) then (if f.renorm then min f.beats (2 * f.beats + 6 - f.age) else f.beats + 6 - max 6 f.age) else 0

/-- Credits of output o: that of a beat which has left in this cycle comes back in the next (R239). -/
def Tile.credits (t : Tile) (o : Nat) : Nat :=
  4 - ((nth t.outF o []).length + nth t.gone o 0 + (t.flights.map (fun f => f.owes o)).sum + (t.owed.map (fun x => if x.out == o then x.n else 0)).sum)

/-- A kind of head a rule can dequeue. -/
def plainKind (b : Beat) : Bool := decide (b.kind.toNat ≤ 2)

/-- A head of kind 0 with no valid lane (R309). -/
def emptyWord (b : Beat) : Bool := b.kind == 0 && b.valid == 0

/-- The heads of an intersect pair as R308 sees them: an empty word is no head. -/
def Tile.pairHead (t : Tile) (c : Nat) : Option Beat :=
  match t.head c with
  | some b => if emptyWord b then none else some b
  | none => none

/-- Which of c0 and c1 of a pair are ready, and which is discarded (R308). -/
def Tile.pairState (t : Tile) (ct : Bool) : (Bool × Bool) × Option Nat :=
  let fld := t.pairFld ct
  match t.pairHead 0, t.pairHead 1 with
  | some a, some b =>
    let marks (x : Beat) : Bool := decide (2 ≤ x.kind.toNat) && decide (x.kind.toNat ≤ 4)
    if a.kind = 1 then ((true, false), none)
    else if b.kind = 1 then ((false, true), none)
    else if a.kind = 0 && b.kind = 0 then
      let x := tagFld (t.inW ct 0) a.tag fld
      let y := tagFld (t.inW ct 1) b.tag fld
      if x = y then ((true, true), none) else ((false, false), some (if x < y then 0 else 1))
    else if a.kind = 0 && marks b then ((false, false), some 0)
    else if b.kind = 0 && marks a then ((false, false), some 1)
    else if marks a && marks b && (a.kind == 2 || b.kind == 2) then ((a.kind == 2, b.kind == 2), none)
    else ((false, false), none)
  | some a, none => ((a.kind == 1, false), none)
  | none, some b => ((false, b.kind == 1), none)
  | none, none => ((false, false), none)

/-- Whether input c is ready (R244), its head not taken by the other slot's firing in this cycle (R360). -/
def Tile.ready (t : Tile) (ct : Bool) (c : Nat) : Bool :=
  if nth t.deqs c 0 != 0 then false
  else if t.paired ct && decide (c ≤ 1) then (let r := (t.pairState ct).1; if c = 0 then r.1 else r.2)
  else match t.head c with | some b => plainKind b | none => false

/-- The live predicate p4 + i (R56, R244). COND 3 reads 1 in exactly the cycles in which c0 and c1 are both ready (R308), whichever
channel the word's CH names (DEDUCED; notes/assumptions 19). -/
def Tile.live (t : Tile) (ct : Bool) (i : Nat) : Bool :=
  let x := t.fld ((if ct then 0xBC else 0x6C) + i)
  let ch := bits x 4 3
  if bits x 2 0 = 3 then (let r := (t.pairState ct).1; r.1 && r.2)
  else
    match t.head ch with
    | none => false
    | some b =>
      match bits x 2 0 with
      | 1 => b.kind.toNat == bits x 8 5
      | 2 => tagFld (t.inW ct ch) b.tag (bits x 10 9) == bits x 31 16
      | _ => false

/-- p7 to p0 as a number. -/
def Tile.predWord (t : Tile) (ct : Bool) : Nat :=
  t.preds.toNat + ((List.range 4).map (fun i => b2n (t.live ct i) * 2 ^ (4 + i))).sum

/-! ### Guards (R245) -/

def gREADY (g : Word) : Nat := bits g 31 28
def gPV (g : Word) : Nat := bits g 27 20
def gPM (g : Word) : Nat := bits g 19 12
def gSM (g : Word) : Nat := bits g 11 6
def gSV (g : Word) : Nat := bits g 5 0

/-- The channels a rule needs ready: READY, and those of a pair that it dequeues (R311). -/
def Tile.readySet (t : Tile) (ct : Bool) (i : Nat) : List Nat :=
  (List.range 4).filter fun c =>
    (gREADY (t.guardW i)).testBit c || (t.paired ct && decide (c ≤ 1) && (actDeq (t.actionW i)).testBit c)

/-- The tests of R245 that do not depend on the class of the rule: state, predicates, channels and credits for b beats. -/
def Tile.guardHolds (t : Tile) (ct : Bool) (i b : Nat) : Bool :=
  let g := t.guardW i
  let a := t.actionW i
  let pw := t.predWord ct
  actV a && t.st.toNat &&& gSM g == gSV g &&& gSM g &&
  (List.range 8).all (fun k => !(gPM g).testBit k || (!t.pend.contains k && pw.testBit k == (gPV g).testBit k)) &&
  (t.readySet ct i).all (fun c =>
    t.ready ct c && (b == 1 || (decide (b ≤ (t.fifo c).length) && ((t.fifo c).take b).all (fun x => x.kind == 0)))) &&
  (List.range 4).all (fun o => !(actEnq a).testBit o || decide (b ≤ t.credits o))

/-! ### The end of a cycle on the inputs (R238) -/

/-- The beats removed leave and those that came arrive. -/
def Tile.settle (t : Tile) : Tile :=
  { t with
    inF := (List.range 4).map (fun c => (t.fifo c).drop (nth t.deqs c 0) ++ nth t.arr c [])
    deqs := [0, 0, 0, 0], arr := [[], [], [], []], gone := [0, 0, 0, 0], came := [] }

/-- A beat arrives at input c at the end of the cycle. -/
def Tile.arrive (t : Tile) (c : Nat) (b : Beat) : Tile := { t with arr := t.arr.set c (nth t.arr c [] ++ [b]) }

/-- Whether input c can take a beat at the end of the cycle. -/
def Tile.canArrive (t : Tile) (c : Nat) : Bool :=
  decide ((t.fifo c).length + (nth t.arr c []).length < 4 + min 1 (nth t.deqs c 0))

/-- n beats leave input c at the end of the cycle. -/
def Tile.take (t : Tile) (c n : Nat) : Tile := { t with deqs := t.deqs.set c (nth t.deqs c 0 + n) }

/-- A beat put into output o's FIFO. -/
def Tile.enq (t : Tile) (o : Nat) (b : Beat) : Tile := { t with outF := t.outF.set o (nth t.outF o [] ++ [b]) }

/-! ### Firings take what they dequeue -/

/-- The heads a rule dequeues: present, of kind 0 to 2, not taken by the other slot's firing in this cycle. -/
def Tile.deqHeads (t : Tile) (a : Word) : List (Nat × Beat) :=
  (List.range 4).filterMap fun c =>
    if (actDeq a).testBit c && nth t.deqs c 0 == 0 then
      match t.head c with
      | some b => if plainKind b then some (c, b) else none
      | none => none
    else none

/-- The kind of a firing from the heads it dequeues; none for more than one kind (R250). -/
def firingKind (hs : List (Nat × Beat)) : Option Nat :=
  match hs with
  | [] => some 0
  | (_, b) :: t => if t.all (fun x => x.2.kind == b.kind) then some b.kind.toNat else none

/-- Whether a header word breaks R106 or R107. -/
def headerBad (b : Beat) : Bool :=
  let x := lane b.lanes 0
  !b.valid.getLsbD 0 || bits x 31 24 != 0 ||
  (if bit x 23 then bits x 21 16 != 0 else bits x 21 16 != 16 && bits x 21 16 != 32)

/-- The kinds and tags of the four heads, as a fault record holds them (R405). -/
def Tile.headKinds (t : Tile) : List (BitVec 4) := (List.range 4).map (fun c => match t.head c with | some b => b.kind | none => 0)
def Tile.headTags (t : Tile) : List Word := (List.range 4).map (fun c => match t.head c with | some b => b.tag | none => 0)

/-! ### Where an element may act -/

/-- The running region of a tile. -/
def State.liveRegion (s : State) (t : Nat) : Option (Nat × Region) :=
  match s.ownerOf t with
  | some (rn, r) => if r.active then some (rn, r) else none
  | none => none

/-- Whether an element fires rules: enabled, not trapped, not merged by a drain. -/
def Tile.mayFire (t : Tile) : Bool := t.enabled && t.trap.isNone && !t.merged

/-! ### Discards (R308-R310) -/

/-- A discard of the head of c: counted, and SKIPNF for a non-finite valid lane. -/
def Tile.discard (t : Tile) (c : Nat) : Tile :=
  match t.head c with
  | none => t
  | some b =>
    let nf := (List.range 16).any (fun l => b.valid.getLsbD l && (fv (lane b.lanes l)).nonFinite)
    { t.take c 1 with iskip := t.iskip + 1, status := t.status ||| (if nf then flSKIPNF else 0) }

/-- The heads a pair discards in this cycle: empty words, and the unmatched head of R308; none that a firing dequeues. -/
def Tile.discards (t : Tile) (ct : Bool) : List Nat :=
  let empties := [0, 1].filter (fun c => match t.head c with | some b => emptyWord b | none => false)
  let l := if empties.isEmpty then (match (t.pairState ct).2 with | some c => [c] | none => []) else empties
  l.filter (fun c => nth t.deqs c 0 == 0)

/-- What a pair discards in this cycle: its empty words or its unmatched head (R308-R310). -/
def State.pairDiscard (s : State) (tile : Nat) : State :=
  match s.liveRegion tile with
    | none => s
    | some _ =>
      let t := s.tile tile
      let ct := isCt tile
      if t.enabled && t.trap.isNone && t.paired ct then s.setTile tile ((t.discards ct).foldl (fun t c => t.discard c) t) else s

/-- INTERSECT_DISCARD: a pair discards its empty words or its unmatched head (R308-R310). -/
def execIntersectDiscard (tile : Nat) (s : State) : Host.Outcome State Fault Refusal := .next (s.pairDiscard tile)

/-! ### Reserved kinds (R238) -/

/-- RESERVED_KIND_DROP: a head of kind 6 to 15 is dropped with a KIND record; the element keeps running (R238, R406); an element with ENABLE 0
dequeues nothing (R191). -/
def execReservedKindDrop (tile ch : Nat) (s : State) : Host.Outcome State Fault Refusal :=
  .next (match s.liveRegion tile with
    | none => s
    | some (rn, r) =>
      let t := s.tile tile
      match t.oldest ch with
      | none => s
      | some b =>
        if t.enabled && decide (6 ≤ b.kind.toNat) && nth t.deqs ch 0 == 0 then
          let ks : List (BitVec 4) := (List.range 4).map (fun c => match t.oldest c with | some x => x.kind | none => 0)
          let kw := (nth ks 0 0).toNat + 16 * (nth ks 1 0).toNat + 256 * (nth ks 2 0).toNat + 4096 * (nth ks 3 0).toNat
          (s.postRg r.part rn true false
            { FaultRec.of fKIND 0 with
              place := w ((tileX tile - r.ocol) + 65536 * (tileY tile - r.orow)), detail := w (4096 * kw)
              tags := (List.range 4).map (fun c => match t.oldest c with | some x => x.tag | none => 0) }).setTile tile (t.take ch 1)
        else s)

/-! ### Barriers and snuff markers (R243, R409) -/

/-- Enabled inputs that are not loop inputs, and the loop inputs. -/
def Tile.mainIns (t : Tile) (ct : Bool) : List Nat := (List.range 4).filter (fun c => t.inEn ct c && !t.loopIn.getLsbD c)
def Tile.loopIns (t : Tile) (ct : Bool) : List Nat := (List.range 4).filter (fun c => t.inEn ct c && t.loopIn.getLsbD c)

/-- Enabled outputs without a delay line. -/
def Tile.mainOuts (t : Tile) (ct : Bool) : List Nat := (List.range 4).filter (fun o => t.outEn ct o && t.dlen ct o == 0)

/-- The kind all the merging heads hold, if they do. -/
def Tile.mergeKind (t : Tile) (ct : Bool) : Option (BitVec 4) :=
  match t.mainIns ct with
  | [] => none
  | c :: cs =>
    match t.head c with
    | none => none
    | some b =>
      if (b.kind == 3 || b.kind == 4) && cs.all (fun d => match t.head d with | some x => x.kind == b.kind | none => false)
      then some b.kind else none

/-- Whether the element has merged markers in this cycle: no firing begins in it (R243). -/
def Tile.mergedNow (t : Tile) (ct : Bool) : Bool := (t.mergeKind ct).isSome && (t.mainIns ct).all (fun c => nth t.deqs c 0 != 0)

/-- Whether firings, and for a snuff the operations of an MT, are over (R243, R409). -/
def Tile.mergeReady (t : Tile) (ct : Bool) (kind : BitVec 4) : Bool :=
  t.flights.isEmpty && t.hold == 0 && t.shold == 0 && t.owed.isEmpty && (kind == 3 || ct || !t.busy) && (t.mainOuts ct).all (fun o => decide (1 ≤ t.credits o))

/-- Heads of kind 3 or 4 on loop inputs are dropped. -/
def Tile.dropLoop (t : Tile) (ct : Bool) : Tile :=
  (t.loopIns ct).foldl (fun t c =>
    match t.head c with
    | some b => if (b.kind == 3 || b.kind == 4) && nth t.deqs c 0 == 0 then t.take c 1 else t
    | none => t) t

/-- A marker on every enabled output without a delay line; in a drain a snuff marker ends the element's firing (R409). -/
def Tile.sendMark (t : Tile) (ct : Bool) (kind : BitVec 4) (draining : Bool) : Tile :=
  let t := (t.mainOuts ct).foldl (fun t o => t.enq o (markBeat kind.toNat t.ernd)) t
  { t with merged := t.merged || (draining && kind == 4) }

/-- Heads of one kind 3 or 4 on every enabled non-loop input of an element are removed and one such beat sent on (R243); in a drain, an
element with no such input sends a snuff marker and fires no more (R409). -/
def State.markMerge (s : State) (tile : Nat) : State :=
  match s.liveRegion tile with
  | none => s
  | some (_, r) =>
    let ct := isCt tile
    if !(s.tile tile).enabled then s
    else
      let t := (s.tile tile).dropLoop ct
      let s := s.setTile tile t
      match t.mergeKind ct with
      | some k =>
        if t.mergeReady ct k && (t.mainIns ct).all (fun c => nth t.deqs c 0 == 0) then
          s.setTile tile (((t.mainIns ct).foldl (fun t c => t.take c 1) t).sendMark ct k (r.state == .draining))
        else s
      | none =>
        if r.state == .draining && (t.mainIns ct).isEmpty && !t.merged && t.mergeReady ct 4 then s.setTile tile (t.sendMark ct 4 true)
        else s

/-- BARRIER_SNUFF_MERGE (R243, R409). -/
def execBarrierSnuffMerge (tile : Nat) (s : State) : Host.Outcome State Fault Refusal := .next (s.markMerge tile)

end Sys2Proof.Machine
end

