-- ==== Sys2Proof/Decode.lean ====
section
/-! DEFINITION. Decoding and encoding of the words of the machine: sequencer words (R75-R77), Xlan words (R78, R79) and
configuration-stream words (R49, R50). The three kinds are fetched by different agents. -/

namespace Sys2Proof

/-! ### Sequencer words -/

/-- The fields of a sequencer word (R75). -/
def fOpc (x : Word) : Nat := (x.extractLsb' 26 6).toNat
def fD (x : Word) : Reg := x.extractLsb' 21 5
def fA (x : Word) : Reg := x.extractLsb' 16 5
def fB (x : Word) : Reg := x.extractLsb' 11 5
def fFn (x : Word) : BitVec 9 := x.extractLsb' 0 9

/-- The A and B operands of formats R and I, and of formats B and S (R75). -/
def srcRA (x : Word) : Src := { reg := fA x, t := x.getLsbD 10 }
def srcRB (x : Word) : Src := { reg := fB x, t := x.getLsbD 9 }
def srcIA (x : Word) : Src := { reg := fA x, t := x.getLsbD 15 }
def srcB1 (x : Word) : Src := { reg := fD x, t := x.getLsbD 15 }
def srcB2 (x : Word) : Src := { reg := fA x, t := x.getLsbD 14 }
def srcSB (x : Word) : Src := { reg := fD x, t := x.getLsbD 14 }

/-- Whether the unused fields of an R-format word are zero (R77). -/
def zD (x : Word) : Bool := fD x == 0
def zA (x : Word) : Bool := fA x == 0 && !x.getLsbD 10
def zB (x : Word) : Bool := fB x == 0 && !x.getLsbD 9
def zFn (x : Word) : Bool := fFn x == 0

/-- The ALU functions of OPC 0x00 (R76). -/
def decodeAlu (x : Word) : Instr :=
  match (fFn x).toNat with
  | 0 => .add (fD x) (srcRA x) (srcRB x)
  | 1 => .sub (fD x) (srcRA x) (srcRB x)
  | 2 => .and (fD x) (srcRA x) (srcRB x)
  | 3 => .or (fD x) (srcRA x) (srcRB x)
  | 4 => .xor (fD x) (srcRA x) (srcRB x)
  | 5 => .sll (fD x) (srcRA x) (srcRB x)
  | 6 => .srl (fD x) (srcRA x) (srcRB x)
  | 7 => .sra (fD x) (srcRA x) (srcRB x)
  | 8 => .slt (fD x) (srcRA x) (srcRB x)
  | 9 => .sltu (fD x) (srcRA x) (srcRB x)
  | 10 => .mul (fD x) (srcRA x) (srcRB x)
  | 11 => .mulhu (fD x) (srcRA x) (srcRB x)
  | _ => .illeg x

/-- An instruction, or the ILLEG trap where an unused field is not zero (R77). -/
def orIlleg (x : Word) (ok : Bool) (i : Instr) : Instr := if ok then i else .illeg x

/-- The OPCs 0x01 to 0x17 (R76). -/
def decodeLow (x : Word) : Instr :=
  match fOpc x with
  | 0x01 => .addi (fD x) (srcIA x) (x.extractLsb' 0 15)
  | 0x02 => .andi (fD x) (srcIA x) (x.extractLsb' 0 15)
  | 0x03 => .ori (fD x) (srcIA x) (x.extractLsb' 0 15)
  | 0x04 => .xori (fD x) (srcIA x) (x.extractLsb' 0 15)
  | 0x05 => orIlleg x (x.extractLsb' 6 9 == 0) (.slli (fD x) (srcIA x) (x.extractLsb' 0 6))
  | 0x06 => orIlleg x (x.extractLsb' 6 9 == 0) (.srli (fD x) (srcIA x) (x.extractLsb' 0 6))
  | 0x07 => orIlleg x (x.extractLsb' 6 9 == 0) (.srai (fD x) (srcIA x) (x.extractLsb' 0 6))
  | 0x08 => .slti (fD x) (srcIA x) (x.extractLsb' 0 15)
  | 0x09 => .lui (fD x) (x.extractLsb' 0 21)
  | 0x0A => .beq (srcB1 x) (srcB2 x) (x.extractLsb' 0 14)
  | 0x0B => .bne (srcB1 x) (srcB2 x) (x.extractLsb' 0 14)
  | 0x0C => .blt (srcB1 x) (srcB2 x) (x.extractLsb' 0 14)
  | 0x0D => .bge (srcB1 x) (srcB2 x) (x.extractLsb' 0 14)
  | 0x0E => .bltu (srcB1 x) (srcB2 x) (x.extractLsb' 0 14)
  | 0x0F => .bgeu (srcB1 x) (srcB2 x) (x.extractLsb' 0 14)
  | 0x10 => .jmp (x.extractLsb' 0 26)
  | 0x11 => .jal (x.extractLsb' 0 26)
  | 0x12 => orIlleg x (zB x && zFn x) (.jr (fD x) (srcRA x))
  | 0x14 => .ld (fD x) (srcIA x) (x.extractLsb' 0 15)
  | 0x15 => .st (srcSB x) (srcIA x) (x.extractLsb' 0 14)
  | 0x16 => .lw (fD x) (srcIA x) (x.extractLsb' 0 15)
  | 0x17 => .sw (srcSB x) (srcIA x) (x.extractLsb' 0 14)
  | _ => .illeg x

/-- The OPCs 0x18 to 0x34 (R76). -/
def decodeHigh (x : Word) : Instr :=
  match fOpc x with
  | 0x18 => orIlleg x (zB x && zFn x) (.cpy (fD x) (srcRA x))
  | 0x19 => orIlleg x (zB x && zFn x) (.cpy2 (fD x) (srcRA x))
  | 0x1A => .cpyi (fD x) (srcRA x) (srcRB x) (fFn x)
  | 0x1C => orIlleg x (zFn x) (.cfg (fD x) (srcRA x) (srcRB x))
  | 0x1D => orIlleg x (zD x && zFn x) (.arm (srcRA x) (srcRB x))
  | 0x1E => orIlleg x (zD x && zB x && x.extractLsb' 3 6 == 0) (.fork (srcRA x) (x.extractLsb' 0 3))
  | 0x1F => orIlleg x (zD x && zB x && zFn x) (.rdv (srcRA x))
  | 0x20 => orIlleg x (zD x && zB x && zFn x) (.punct (srcRA x))
  | 0x21 => orIlleg x (zB x && zFn x) (.barr (fD x) (srcRA x))
  | 0x22 => orIlleg x (x.extractLsb' 0 26 == 0) .snuf
  | 0x24 =>
    if fFn x = 0 then .spawnRecord (fD x) (srcRA x) (srcRB x)
    else if fFn x = 1 then .spawnLaunch (fD x) (srcRA x) (srcRB x) else .illeg x
  | 0x25 => orIlleg x (zB x && zFn x) (.join (fD x) (srcRA x))
  | 0x26 => orIlleg x (x.extractLsb' 0 26 == 0) .retire
  | 0x27 => orIlleg x (zD x && zB x && zFn x) (.yield (srcRA x))
  | 0x28 => orIlleg x (zFn x) (.acq (fD x) (srcRA x) (srcRB x))
  | 0x29 => orIlleg x (zB x && zFn x) (.rel (fD x) (srcRA x))
  | 0x2A => orIlleg x (zD x && zFn x) (.fencex (srcRA x) (srcRB x))
  | 0x2C => orIlleg x (zFn x) (.trim (fD x) (srcRA x) (srcRB x))
  | 0x30 =>
    if !zB x then .illeg x
    else if fFn x = 0 then .waittAll (fD x) (srcRA x)
    else if fFn x = 1 then .waittAny (fD x) (srcRA x) else .illeg x
  | 0x31 => orIlleg x (zA x && zB x) (.prof (fD x) (fFn x))
  | 0x32 => orIlleg x (zD x && zB x) (.trap (srcRA x) (fFn x))
  | 0x33 => orIlleg x (zA x && zB x) (.csrr (fD x) (fFn x))
  | 0x34 => orIlleg x (zD x && zB x) (.csrw (srcRA x) (fFn x))
  | _ => .illeg x

/-- The instruction of a sequencer word; every word that is not one of R76 is ILLEG (R77). -/
def decodeSeq (x : Word) : Instr :=
  if fOpc x = 0 then decodeAlu x else if fOpc x < 0x18 then decodeLow x else decodeHigh x

/-! ### Xlan words -/

/-- The rd, rs1 and rs2 fields of an R-type word (R78). -/
def xRd (x : Word) : Reg := x.extractLsb' 7 5
def xRs1 (x : Word) : Reg := x.extractLsb' 15 5
def xRs2 (x : Word) : Reg := x.extractLsb' 20 5

/-- An instruction, or the illegal-instruction exception where an unused register field is not zero (R79). -/
def orXill (x : Word) (ok : Bool) (i : Instr) : Instr := if ok then i else .xlanIllegalInstruction x

/-- The custom-0 words, by 256 * funct3 + funct7 (R78). -/
def decodeCustom0 (x : Word) : Instr :=
  match (x.extractLsb' 12 3).toNat * 256 + (x.extractLsb' 25 7).toNat with
  | 0x000 => .lanDispatch (xRd x) (xRs1 x) (xRs2 x)
  | 0x001 => orXill x (xRs2 x == 0) (.lanJoin (xRd x) (xRs1 x))
  | 0x100 => .hqPush (xRd x) (xRs1 x) (xRs2 x)
  | 0x101 => .hqPop (xRd x) (xRs1 x) (xRs2 x)
  | 0x200 => .rgClaim (xRd x) (xRs1 x) (xRs2 x)
  | 0x201 => .rgCfg (xRd x) (xRs1 x) (xRs2 x)
  | 0x202 => .rgStart (xRd x) (xRs1 x) (xRs2 x)
  | 0x203 => orXill x (xRs2 x == 0) (.rgSnuff (xRd x) (xRs1 x))
  | 0x204 => orXill x (xRs2 x == 0) (.rgFreeze (xRd x) (xRs1 x))
  | 0x205 => .rgSave (xRd x) (xRs1 x) (xRs2 x)
  | 0x206 => .rgLoad (xRd x) (xRs1 x) (xRs2 x)
  | 0x207 => .rgRebase (xRd x) (xRs1 x) (xRs2 x)
  | 0x208 => orXill x (xRs2 x == 0) (.rgKill (xRd x) (xRs1 x))
  | 0x209 => orXill x (xRs2 x == 0) (.rgStat (xRd x) (xRs1 x))
  | 0x20A => orXill x (xRs2 x == 0) (.rgFree (xRd x) (xRs1 x))
  | 0x300 => .soBind (xRd x) (xRs1 x) (xRs2 x)
  | 0x301 => .soAcq (xRd x) (xRs1 x) (xRs2 x)
  | 0x302 => orXill x (xRs2 x == 0) (.soRel (xRd x) (xRs1 x))
  | 0x303 => orXill x (xRd x == 0) (.fenceX (xRs1 x) (xRs2 x))
  | _ => .xlanIllegalInstruction x

/-- The custom-1 words, by 256 * funct3 + funct7 (R78). -/
def decodeCustom1 (x : Word) : Instr :=
  match (x.extractLsb' 12 3).toNat * 256 + (x.extractLsb' 25 7).toNat with
  | 0x000 => orXill x (xRd x == 0) (.xltInv (xRs1 x) (xRs2 x))
  | 0x001 => orXill x (xRs1 x == 0 && xRs2 x == 0) (.xltSync (xRd x))
  | 0x100 => .pgMig (xRd x) (xRs1 x) (xRs2 x)
  | 0x200 => .bistRun (xRd x) (xRs1 x) (xRs2 x)
  | 0x201 => orXill x (xRs2 x == 0) (.bistStat (xRd x) (xRs1 x))
  | _ => .xlanIllegalInstruction x

/-- The Xlan instruction of a word a hart fetches; `none` where the word is not in custom-0 or custom-1 (R78). -/
def decodeXlan (x : Word) : Option Instr :=
  if x.extractLsb' 0 7 = 0b0001011 then some (decodeCustom0 x)
  else if x.extractLsb' 0 7 = 0b0101011 then some (decodeCustom1 x)
  else none

/-! ### Configuration-stream words -/

/-- The step of a stream word; `esc` says that an ESC came before it, and the word is then an element write to index 0xFF
whatever its bits 31:24 are (R50, R51). -/
def decodeStream (esc : Bool) (x : Word) : Instr :=
  let v : BitVec 16 := x.extractLsb' 0 16
  if esc then .cfgElementWrite (x.extractLsb' 24 8) (x.extractLsb' 16 8) v
  else if x.extractLsb' 24 8 = 0xFF then
    match (x.extractLsb' 16 8).toNat with
    | 0 => .cfgNop v
    | 1 => .cfgBegin v
    | 2 => .cfgEnd v
    | 3 => .cfgWin v
    | 4 => .cfgHi v
    | 5 => .cfgSect v
    | 6 => .cfgEsc v
    | 7 => .cfgZwin v
    | _ => .badcmd x
  else .cfgElementWrite (x.extractLsb' 24 8) (x.extractLsb' 16 8) v

/-! ### Words of the opcode table -/

/-- Whether an instruction is one of the two illegal-word traps. -/
def isIllegal : Instr → Bool
  | .illeg _ => true
  | .xlanIllegalInstruction _ => true
  | _ => false

/-- The instruction of a word of the opcode table. The table gives sequencer and Xlan words in one 32-bit space although
different agents fetch them; a word that is a listed Xlan encoding is read as Xlan, every other as a sequencer word
(notes/assumptions 9). -/
def decodeTableWord (nbits v : Nat) : Option Instr :=
  if nbits = 0 ∨ 32 < nbits ∨ 2 ^ 32 ≤ v then none
  else
    let x : Word := BitVec.ofNat 32 v
    match decodeXlan x with
    | some i => if isIllegal i then some (decodeSeq x) else some i
    | none => some (decodeSeq x)

/-! ### Encoding -/

/-- A bit of a T field. -/
def tb (s : Src) : BitVec 1 := BitVec.ofBool s.t

/-- The formats of R75. -/
def encR (opc : BitVec 6) (d : Reg) (a b : Src) (fn : BitVec 9) : Word := opc ++ d ++ a.reg ++ b.reg ++ tb a ++ tb b ++ fn
def encI (opc : BitVec 6) (d : Reg) (a : Src) (imm : BitVec 15) : Word := opc ++ d ++ a.reg ++ tb a ++ imm
def encB (opc : BitVec 6) (a b : Src) (off : BitVec 14) : Word := opc ++ a.reg ++ b.reg ++ tb a ++ tb b ++ off
def encS (opc : BitVec 6) (b a : Src) (imm : BitVec 14) : Word := opc ++ b.reg ++ a.reg ++ tb a ++ tb b ++ imm
def encU (opc : BitVec 6) (d : Reg) (imm : BitVec 21) : Word := opc ++ d ++ imm
def encJ (opc : BitVec 6) (off : BitVec 26) : Word := opc ++ off

/-- The unused source. -/
def noSrc : Src := { reg := 0, t := false }

/-- The R-type layout of R78. -/
def encX (f7 : BitVec 7) (rs2 rs1 : Reg) (f3 : BitVec 3) (rd : Reg) (major : BitVec 7) : Word :=
  f7 ++ rs2 ++ rs1 ++ f3 ++ rd ++ major

/-- A stream command word (R49, R50). -/
def encC (code : Byte) (v : BitVec 16) : Word := (0xFF : Byte) ++ code ++ v

/-- The words of a well-formed instruction, none for a step that has no word. An element write to index 0xFF needs an ESC
before it (R51). -/
def encode : Instr → List Word
  | .add d a b => [encR 0x00 d a b 0]
  | .sub d a b => [encR 0x00 d a b 1]
  | .and d a b => [encR 0x00 d a b 2]
  | .or d a b => [encR 0x00 d a b 3]
  | .xor d a b => [encR 0x00 d a b 4]
  | .sll d a b => [encR 0x00 d a b 5]
  | .srl d a b => [encR 0x00 d a b 6]
  | .sra d a b => [encR 0x00 d a b 7]
  | .slt d a b => [encR 0x00 d a b 8]
  | .sltu d a b => [encR 0x00 d a b 9]
  | .mul d a b => [encR 0x00 d a b 10]
  | .mulhu d a b => [encR 0x00 d a b 11]
  | .addi d a i => [encI 0x01 d a i]
  | .andi d a i => [encI 0x02 d a i]
  | .ori d a i => [encI 0x03 d a i]
  | .xori d a i => [encI 0x04 d a i]
  | .slli d a i => [encI 0x05 d a (i.setWidth 15)]
  | .srli d a i => [encI 0x06 d a (i.setWidth 15)]
  | .srai d a i => [encI 0x07 d a (i.setWidth 15)]
  | .slti d a i => [encI 0x08 d a i]
  | .lui d i => [encU 0x09 d i]
  | .beq a b o => [encB 0x0A a b o]
  | .bne a b o => [encB 0x0B a b o]
  | .blt a b o => [encB 0x0C a b o]
  | .bge a b o => [encB 0x0D a b o]
  | .bltu a b o => [encB 0x0E a b o]
  | .bgeu a b o => [encB 0x0F a b o]
  | .jmp o => [encJ 0x10 o]
  | .jal o => [encJ 0x11 o]
  | .jr d a => [encR 0x12 d a noSrc 0]
  | .ld d a i => [encI 0x14 d a i]
  | .st b a i => [encS 0x15 b a i]
  | .lw d a i => [encI 0x16 d a i]
  | .sw b a i => [encS 0x17 b a i]
  | .cpy d a => [encR 0x18 d a noSrc 0]
  | .cpy2 d a => [encR 0x19 d a noSrc 0]
  | .cpyi d a b n => [encR 0x1A d a b n]
  | .cfg d a b => [encR 0x1C d a b 0]
  | .arm a b => [encR 0x1D 0 a b 0]
  | .fork a m => [encR 0x1E 0 a noSrc (m.setWidth 9)]
  | .rdv a => [encR 0x1F 0 a noSrc 0]
  | .punct a => [encR 0x20 0 a noSrc 0]
  | .barr d a => [encR 0x21 d a noSrc 0]
  | .snuf => [encJ 0x22 0]
  | .spawnRecord d a b => [encR 0x24 d a b 0]
  | .spawnLaunch d a b => [encR 0x24 d a b 1]
  | .join d a => [encR 0x25 d a noSrc 0]
  | .retire => [encJ 0x26 0]
  | .yield a => [encR 0x27 0 a noSrc 0]
  | .acq d a b => [encR 0x28 d a b 0]
  | .rel d a => [encR 0x29 d a noSrc 0]
  | .fencex a b => [encR 0x2A 0 a b 0]
  | .trim d a b => [encR 0x2C d a b 0]
  | .waittAll d a => [encR 0x30 d a noSrc 0]
  | .waittAny d a => [encR 0x30 d a noSrc 1]
  | .prof d n => [encR 0x31 d noSrc noSrc n]
  | .trap a n => [encR 0x32 0 a noSrc n]
  | .csrr d n => [encR 0x33 d noSrc noSrc n]
  | .csrw a n => [encR 0x34 0 a noSrc n]
  | .illeg x => [x]
  | .lanDispatch d r s => [encX 0 s r 0 d 0b0001011]
  | .lanJoin d r => [encX 1 0 r 0 d 0b0001011]
  | .hqPush d r s => [encX 0 s r 1 d 0b0001011]
  | .hqPop d r s => [encX 1 s r 1 d 0b0001011]
  | .rgClaim d r s => [encX 0 s r 2 d 0b0001011]
  | .rgCfg d r s => [encX 1 s r 2 d 0b0001011]
  | .rgStart d r s => [encX 2 s r 2 d 0b0001011]
  | .rgSnuff d r => [encX 3 0 r 2 d 0b0001011]
  | .rgFreeze d r => [encX 4 0 r 2 d 0b0001011]
  | .rgSave d r s => [encX 5 s r 2 d 0b0001011]
  | .rgLoad d r s => [encX 6 s r 2 d 0b0001011]
  | .rgRebase d r s => [encX 7 s r 2 d 0b0001011]
  | .rgKill d r => [encX 8 0 r 2 d 0b0001011]
  | .rgStat d r => [encX 9 0 r 2 d 0b0001011]
  | .rgFree d r => [encX 10 0 r 2 d 0b0001011]
  | .soBind d r s => [encX 0 s r 3 d 0b0001011]
  | .soAcq d r s => [encX 1 s r 3 d 0b0001011]
  | .soRel d r => [encX 2 0 r 3 d 0b0001011]
  | .fenceX r s => [encX 3 s r 3 0 0b0001011]
  | .xltInv r s => [encX 0 s r 0 0 0b0101011]
  | .xltSync d => [encX 1 0 0 0 d 0b0101011]
  | .pgMig d r s => [encX 0 s r 1 d 0b0101011]
  | .bistRun d r s => [encX 0 s r 2 d 0b0101011]
  | .bistStat d r => [encX 1 0 r 2 d 0b0101011]
  | .xlanIllegalInstruction x => [x]
  | .cfgNop v => [encC 0 v]
  | .cfgBegin v => [encC 1 v]
  | .cfgEnd v => [encC 2 v]
  | .cfgWin v => [encC 3 v]
  | .cfgHi v => [encC 4 v]
  | .cfgSect v => [encC 5 v]
  | .cfgEsc v => [encC 6 v]
  | .cfgZwin v => [encC 7 v]
  | .cfgElementWrite idx fld v => if idx = 0xFF then [encC 6 0, idx ++ fld ++ v] else [idx ++ fld ++ v]
  | .badcmd x => [x]
  | _ => []

end Sys2Proof
end

