-- ==== Sys2Proof/Machine/StageCross.lean ====
section
/-! DEFINITION. The cross-lane instructions of P5 (R297-R306), and the order of floating reductions and scans (R98). -/

namespace Sys2Proof.Machine

/-- The lanes of a mask, ascending. -/
def lanesIn (m : BitVec 16) : List Nat := (List.range 16).filter (fun l => m.getLsbD l)

/-- Lane j of an operand as another lane reads it: zero where it is not active (R297). -/
def srcLane (act : BitVec 16) (x : Lanes) (j : Nat) : Word := if act.getLsbD j then lane x j else 0

/-- A mask from a test of lanes. -/
def maskOf (f : Nat → Bool) : BitVec 16 := w ((List.range 16).filter f |>.map (2 ^ ·)).sum

/-- The addition of two lanes of a floating reduction, either of which may be absent (R303). -/
def addOpt (rm : Nat) (x y : Option Nat) : Option Nat × Flags :=
  match x, y with
  | some a, some b => (let r := b32.add rm a b; (some r.1, r.2))
  | some a, none => (some a, 0)
  | none, y => (y, 0)

/-- One level of the pairwise tree. -/
def pairUp (rm : Nat) : List (Option Nat) → List (Option Nat) × Flags
  | x :: y :: t =>
    let r := addOpt rm x y
    let rest := pairUp rm t
    (r.1 :: rest.1, r.2 ||| rest.2)
  | l => (l, 0)

/-- The tree over sixteen lanes (R98). -/
def treeSum (rm : Nat) (l : List (Option Nat)) : Option Nat × Flags :=
  let a := pairUp rm l
  let b := pairUp rm a.1
  let c := pairUp rm b.1
  let d := pairUp rm c.1
  (d.1.headD none, a.2 ||| b.2 ||| c.2 ||| d.2)

/-- One step of the Kogge-Stone pattern at distance d (R98). -/
def koggeStep (rm d : Nat) (l : List (Option Nat)) : List (Option Nat) × Flags :=
  let rs := (List.range 16).map fun i => if d ≤ i then addOpt rm (nth l (i - d) none) (nth l i none) else (nth l i none, 0)
  (rs.map (·.1), orFlags (rs.map (·.2)))

/-- The floating scan. -/
def koggeScan (rm : Nat) (l : List (Option Nat)) : List (Option Nat) × Flags :=
  let a := koggeStep rm 1 l
  let b := koggeStep rm 2 a.1
  let c := koggeStep rm 4 b.1
  let d := koggeStep rm 8 c.1
  (d.1, a.2 ||| b.2 ||| c.2 ||| d.2)

/-- The operands of active lanes, absent elsewhere. -/
def present (act : BitVec 16) (a : Lanes) : List (Option Nat) :=
  (List.range 16).map fun l => if act.getLsbD l then some (lane a l).toNat else none

/-- What a P5 instruction does: the lanes it writes, flags, and the VALID mask COMPACT sets. -/
structure CrossRes where
  out : Lanes
  writes : BitVec 16
  flags : Flags
  vmask : Option (BitVec 16)
  deriving DecidableEq, Repr

/-- Every active lane receives a value. -/
def crossAll (act : BitVec 16) (f : Nat → Word) (fl : Flags) : CrossRes :=
  { out := lanesOf f, writes := act, flags := fl, vmask := none }

/-- The least or greatest active value by FMIN and FMAX or their number forms (R303). -/
def fredMinMax (mx num : Bool) (act : BitVec 16) (a : Lanes) : Word × Flags :=
  match lanesIn act with
  | [] => (0, 0)
  | l :: ls =>
    let x := (lane a l).toNat
    let r := ls.foldl (fun (acc : Nat × Flags) j =>
      let y := (lane a j).toNat
      let k := fminmax mx num acc.1 y
      (k.1, acc.2 ||| k.2)) (x, if (b32.val x).isSig then flINV else 0)
    let r := if ls.isEmpty && (b32.val x).isNan then (b32.nan, r.2) else r
    (w r.1, r.2)

/-- Exact prefix sums of active lanes: inclusive or exclusive. -/
def prefixSum (act : BitVec 16) (excl : Bool) (f : Nat → Int) (l : Nat) : Int :=
  (((lanesIn act).filter (fun j => if excl then decide (j < l) else decide (j ≤ l))).map f).sum

/-- A cross-lane instruction (R300-R306). -/
def crossOp (opc mod : Nat) (act : BitVec 16) (a b c : Lanes) : CrossRes :=
  let b2 := mod.testBit 2
  let b3 := mod.testBit 3
  let rm := mod % 4
  let ls := lanesIn act
  let low := ls.headD 0
  let each (f : Nat → Word) : CrossRes := crossAll act f 0
  let nz (x : Lanes) : List Nat := ls.filter (fun l => lane x l != 0)
  match opc with
  | 0xA0 => each fun l => srcLane act a (bits (lane b l) 3 0)
  | 0xA1 => each fun _ => srcLane act a low
  | 0xA2 => (let n := bits (lane b low) 3 0; each fun l => srcLane act a ((l + 16 - n) % 16))
  | 0xA3 =>
    let n := min (bits (lane b low) 4 0) 16
    each fun l => if l + n ≤ 15 then srcLane act a (l + n) else srcLane act c (l + n - 16)
  | 0xA4 =>
    let rs := (List.range 16).map fun l => deliver b2 (prefixSum act b3 (fun j => s32 (lane a j)) l)
    crossAll act (fun l => (nth rs l (0, 0)).1) (orFlags (ls.map (fun l => (nth rs l (0, 0)).2)))
  | 0xA5 =>
    let r := koggeScan rm (present act a)
    crossAll act (fun l => w ((nth r.1 l none).getD 0)) r.2
  | 0xA6 => (let r := deliver b2 ((ls.map (fun l => s32 (lane a l))).sum); crossAll act (fun _ => r.1) (if ls.isEmpty then 0 else r.2))
  | 0xA7 => (let r := treeSum rm (present act a); crossAll act (fun _ => w (r.1.getD 0)) r.2)
  | 0xA8 | 0xA9 =>
    let op := (if opc = 0xA8 then 0x27 else 0x28) + (if b3 then 2 else 0)
    let v := (ls.map (lane a)).foldl (minMax op) (lane a low)
    each fun _ => v
  | 0xAA | 0xAB => (let r := fredMinMax (opc == 0xAB) b3 act a; crossAll act (fun _ => r.1) r.2)
  | 0xAC => (let v := (ls.map (lane a)).foldl (· ||| ·) 0; each fun _ => v)
  | 0xAD =>
    let sel := nz b
    { out := lanesOf (fun l => match sel[l]? with | some j => lane a j | none => 0), writes := 0xFFFF, flags := 0
      vmask := if b3 then some (w (2 ^ sel.length - 1)) else none }
  | 0xAE =>
    each fun l => if lane b l ≠ 0 then srcLane act a ((nz b).filter (fun j => decide (j < l))).length else lane c l
  | 0xAF => each fun l => w (prefixSum act (!b3) (fun j => (popc (lane a j) : Nat)) l).toNat
  | 0xB0 =>
    each fun l => match ls.find? (fun j => lane b j == lane a l) with | some j => w j | none => 0xFFFFFFFF
  | 0xB1 => each fun _ => w (nz a).length
  | 0xB2 => each fun _ => w ((nz a).headD 16)
  | _ => (let v := (ls.map (lane a)).foldl (· &&& ·) 0xFFFFFFFF; each fun _ => v)

/-- Whether an inactive lane sets SKIPNF (R297). -/
def crossNF (opc : Nat) (a : Word) : Bool := (opc == 0xA5 || opc == 0xA7 || opc == 0xAA || opc == 0xAB) && (fv a).nonFinite

end Sys2Proof.Machine
end

