-- ==== Sys2Proof/Machine/Directional.lean ====
section
/-! DEFINITION. Directional vectors: norms, renormalisation, and the directional instructions (R93-R96, R313-R321). -/

namespace Sys2Proof.Machine

open Sys2Proof.Config

/-- The norm codes of the zero vector and of the invalid code (R94). -/
def lnZero : Half := 0x8000
def lnBad : Half := 0x8001

/-- An entry as an instruction reads it: components, dimension and norm. -/
structure DirEnt where
  c : List Half
  dim : Nat
  n : Half
  deriving DecidableEq, Repr

/-- Component j as an integer. -/
def DirEnt.comp (e : DirEnt) (j : Nat) : Int := (nth e.c j 0).toInt

/-- The zero vector's components. -/
def zeroDir : List Half := List.replicate 128 0

/-- An entry whose DIM exceeds the components an instruction covers is read as the invalid code (R313). -/
def DirEnt.cover (e : DirEnt) (n : Nat) : DirEnt := if n < e.dim then { e with n := lnBad } else e

/-- The integer of a norm code beyond its range: 0x7FFF with OVF, or the zero code with UNF (R94). -/
def lnSat (x : Int) : Half × Flags :=
  if 0x7FFF < x then (0x7FFF, flOVF) else if x < -32766 then (lnZero, flUNF) else (wi 16 x, 0)

/-- A pair as written: the zero and invalid codes clear the components, the invalid code sets INV (R94). -/
def pairOf (c : List Half) (dim : Nat) (n : Half) (fl : Flags) : (List Half × Nat × Half) × Flags :=
  if n = lnZero then ((zeroDir, dim, n), fl)
  else if n = lnBad then ((zeroDir, dim, n), fl ||| flINV)
  else ((c, dim, n), fl)

/-! ### Exact powers of two (R319-R321) -/

/-- A value num / 2^28 times 2^(n/256) rounded RNE to binary32. -/
def scaleExp (num : Int) (den : Nat) (n : Int) : Nat × Flags :=
  if num = 0 then (0, 0)
  else
    let ip := n / 256
    let fr := (n % 256).toNat
    if fr = 0 then b32.round rmRNE false (decide (num < 0)) num.natAbs (ip - den) false
    else b32.round rmRNE false (decide (num < 0)) (num.natAbs * exp2Fix (fr * 2 ^ spP / 256)) (ip - den - spP) true

/-! ### Renormalisation (R316) -/

/-- The square of a finite binary32 value, exact in binary64. -/
def squareOf (x : Word) : Nat × Int :=
  match fv x with
  | .fin _ m e => (m * m, 2 * e)
  | _ => (0, 0)

/-- A sum of two non-negative values rounded RNE to binary64. -/
def addSq (x y : Nat × Int) : Nat × Int :=
  let q := min x.2 y.2
  let m := x.1 * 2 ^ (x.2 - q).toNat + y.1 * 2 ^ (y.2 - q).toNat
  if m = 0 then (0, 0)
  else
    match b64.val (b64.round rmRNE false false m q false).1 with
    | .fin _ m e => (m, e)
    | _ => (0, 0)

/-- One level of the tree of squares. -/
def sqLevel : List (Nat × Int) → List (Nat × Int)
  | x :: y :: t => addSq x y :: sqLevel t
  | l => l

/-- The root of the tree over at most 128 squares, a power of two of them. -/
def sqTree : Nat → List (Nat × Int) → Nat × Int
  | 0, l => l.headD (0, 0)
  | k + 1, l => if l.length ≤ 1 then l.headD (0, 0) else sqTree k (sqLevel l)

/-- The power of two at or above a dimension. -/
def upPow (d : Nat) : Nat := if d ≤ 32 then 32 else if d ≤ 64 then 64 else 128

/-- rne(128 log2 s) of s = m 2^e, and whether it differs. -/
def norm128 (m : Nat) (e : Int) : Int × Bool :=
  let r := spLog2 m e
  let (n, ix) := roundTo rmRNE r.1 (128 * r.2.1) r.2.2.1 0 r.2.2.2
  (if r.1 then -(n : Int) else n, ix)

/-- sat(rne(x 2^14 / sqrt(s))), and whether it differs. -/
def unitComp (x : Word) (m : Nat) (e : Int) : Half × Bool :=
  match fv x with
  | .fin s xm xe =>
    if xm = 0 then (0, false)
    else
      -- (x 2^14)^2 / s, with two more bits for the rounding
      let (n, d) : Nat × Nat :=
        let p : Int := 2 * xe + 32 - e
        if 0 ≤ p then (xm * xm * 2 ^ p.toNat, m) else (xm * xm, m * 2 ^ (-p).toNat)
      let r := sqrtN 24 (n / d)
      let exact := r * r * d == n
      let (v, ix) := roundMag rmRNE s (r / 4) (r % 4) 4 (!exact)
      let k := clampInt (-32768) 32767 (if s then -(v : Int) else v)
      (wi 16 k.1, ix || k.2 != 0)
  | _ => (0, false)

/-- The renormalisation of a raw vector with an offset to its norm (R316): the pair and its flags. -/
def renormalise (xs : List Word) (dim : Nat) (add : Half) : (List Half × Nat × Half) × Flags :=
  if xs.any (fun x => (fv x).nonFinite) then pairOf [] dim lnBad 0
  else
    let sq := (List.range (upPow dim)).map (fun j => if j < dim then squareOf (nth xs j 0) else (0, 0))
    let s := sqTree 8 sq
    if add = lnZero || add = lnBad then pairOf [] dim add 0
    else if s.1 = 0 then pairOf [] dim lnZero 0
    else
      let n := norm128 s.1 s.2
      let code := lnSat (n.1 + add.toInt)
      let cs := (List.range dim).map (fun j => unitComp (nth xs j 0) s.1 s.2)
      let ix := n.2 || code.2 != 0 || cs.any (·.2)
      let c := (List.range 128).map (fun j => if j < dim then (nth cs j (0, false)).1 else 0)
      pairOf c dim code.1 (code.2 ||| (if ix then flINX else 0))

/-! ### Negation -/

/-- The negation of a component; the code of -2 has none, and the spec states no result for it (notes/assumptions 18). -/
def negComp (c : Half) : Half := if c = 0x8000 then (freeWord (2 ^ 32)).setWidth 16 else -c

/-! ### The pair-writing instructions (R319, R320) -/

/-- DMOV and DNEG. -/
def dmov (neg : Bool) (e : DirEnt) : (List Half × Nat × Half) × Flags :=
  pairOf (if neg then e.c.map negComp else e.c) e.dim e.n 0

/-- DLD: components over all passes, the norm from a header word. -/
def dld (cs : List Half) (dim : Nat) (hdr : Word) : (List Half × Nat × Half) × Flags :=
  let n : Half := w (bits hdr 15 0)
  let sum : Int := (cs.map (fun c => c.toInt * c.toInt)).sum
  let bad := n != lnZero && n != lnBad && decide ((dim * 2 ^ 14 : Nat) < (sum - 2 ^ 28).natAbs)
  pairOf ((List.range 128).map (fun j => nth cs j 0)) dim (if bad then lnBad else n) 0

/-- NMOV in P6: a new code, or none where no lane is active. -/
def nmovTo (e : DirEnt) (v : Option Half) : (List Half × Nat × Half) × Flags :=
  match v with
  | none => ((e.c, e.dim, e.n), 0)
  | some v =>
    if v = lnZero || v = lnBad then pairOf e.c e.dim v 0
    else if e.n = lnZero || e.n = lnBad then ((e.c, e.dim, e.n), 0)
    else ((e.c, e.dim, v), 0)

/-- The factor of a DSCL: a delta of the norm with a sign, or a code that replaces it, with flags (R320). -/
def dsclFactor (f : Word) : (Half ⊕ (Int × Bool)) × Flags :=
  match fv f with
  | .nan _ => (.inl lnBad, 0)
  | .inf s => (.inr (0x7FFF, s), flOVF)
  | .fin s m e =>
    if m = 0 then (.inl lnZero, 0)
    else
      let r := spLog2 m e
      let (n, _) := roundTo rmRNE r.1 (256 * r.2.1) r.2.2.1 0 r.2.2.2
      let d : Int := if r.1 then -(n : Int) else n
      let exact := d % 256 == 0 && m == 2 ^ Nat.log2 m && d == 256 * ((Nat.log2 m : Int) + e)
      (.inr (d, s), if exact then 0 else flINX)

/-- DSCL of an entry by a factor: an invalid entry stays invalid with INV, and without INX (R85, R320). -/
def dscl (e : DirEnt) (f : (Half ⊕ (Int × Bool)) × Flags) : (List Half × Nat × Half) × Flags :=
  if e.n = lnBad then pairOf e.c e.dim lnBad (f.2 &&& ~~~flINX)
  else
    match f.1 with
    | .inl c => if c = lnBad then pairOf e.c e.dim lnBad f.2 else pairOf e.c e.dim lnZero f.2
    | .inr (d, s) =>
      if e.n = lnZero then pairOf e.c e.dim lnZero f.2
      else
        let n := lnSat (e.n.toInt + d)
        pairOf (if s then e.c.map negComp else e.c) e.dim n.1 (f.2 ||| n.2)

/-- x of DMIX: rne(alpha u 2^(da/256) + beta v 2^(db/256)) with u and v components, exact before the rounding (R320). -/
def mixComp (al be : Word) (u v da db : Int) : Word :=
  let term (f : Word) (c d : Int) : Int × Int × Bool :=
    match fv f with
    | .fin s m e =>
      let n : Int := (if s then -1 else 1) * c * m
      let fr := (d % 256).toNat
      if fr = 0 then (n * 2 ^ spP, e + d / 256 - 14 - spP, false)
      else (n * exp2Fix (fr * 2 ^ spP / 256), e + d / 256 - 14 - spP, n != 0)
    | _ => (0, 0, false)
  let x := term al u da
  let y := term be v db
  let q := min x.2.1 y.2.1
  let s := x.1 * 2 ^ (x.2.1 - q).toNat + y.1 * 2 ^ (y.2.1 - q).toNat
  if s = 0 then 0 else w (b32.round rmRNE false (decide (s < 0)) s.natAbs q (x.2.2 || y.2.2)).1

/-- DMIX of two entries by the weights of lanes 0 and 1 (R320). -/
def dmix (a b : DirEnt) (al be : Word) (dim : Nat) : (List Half × Nat × Half) × Flags :=
  if a.n = lnBad || b.n = lnBad || (fv al).nonFinite || (fv be).nonFinite then pairOf [] dim lnBad 0
  else
    let za := a.n == lnZero
    let zb := b.n == lnZero
    if za && zb then pairOf [] dim lnZero 0
    else
      let la := a.n.toInt
      let lb := b.n.toInt
      let m := if za then lb else if zb then la else max la lb
      let xs := (List.range dim).map fun j =>
        mixComp al be (if za then 0 else a.comp j) (if zb then 0 else b.comp j) (if za then 0 else la - m) (if zb then 0 else lb - m)
      renormalise xs dim (wi 16 m)

/-! ### Instructions that write a slot (R319, R321) -/

/-- DST: pass k, lane l. -/
def dstLane (e : DirEnt) (k l : Nat) : Word × Flags :=
  if e.n = lnZero then (0, 0)
  else if e.n = lnBad then (0, flINV)
  else (nth e.c (32 * k + 2 * l + 1) 0 ++ nth e.c (32 * k + 2 * l) 0, 0)

/-- DEXP: pass k, lane l. -/
def dexpLane (e : DirEnt) (hi : Bool) (k l : Nat) : Word × Flags :=
  if e.n = lnZero then (0, 0)
  else if e.n = lnBad then (w b32.nan, flINV)
  else lw (scaleExp (e.comp (32 * k + 16 * b2n hi + l)) 14 e.n.toInt)

/-- A component in the DQ8 form (R96). -/
def q8 (c : Int) : Nat × Flags :=
  let (v, ix) := roundMag rmRNE (decide (c < 0)) (c.natAbs / 128) (c.natAbs % 128) 128 false
  let k := clampInt (-128) 127 (if c < 0 then -(v : Int) else v)
  ((BitVec.ofInt 8 k.1).toNat, if k.2 ≠ 0 then flSAT ||| flINX else if ix then flINX else 0)

/-- DQ8: pass k, lane l. -/
def dq8Lane (e : DirEnt) (k l : Nat) : Word × Flags :=
  if e.n = lnZero then (0, 0)
  else if e.n = lnBad then (0, flINV)
  else
    let rs := (List.range 4).map (fun i => q8 (e.comp (64 * k + 4 * l + i)))
    (w (((List.range 4).map (fun i => (nth rs i (0, 0)).1 * 2 ^ (8 * i))).sum), orFlags (rs.map (·.2)))

/-- DZT. -/
def dztLane (n : Half) : Word := if n = lnZero then 1 else if n = lnBad then 2 else 0

/-- The products of components of one pass of DDOT (R321). -/
def dotPass (a : DirEnt) (b : Nat → Int) (k : Nat) : Int :=
  ((List.range 32).map (fun j => a.comp (32 * k + j) * b (32 * k + j))).sum

/-- The result of DDOT and DDOTS from the exact integer sum (R321). -/
def dotResult (scored : Bool) (p : Int) (la lb : Half) : Word × Flags :=
  if la = lnBad || lb = lnBad then (w b32.nan, flINV)
  else if la = lnZero || lb = lnZero then (0, 0)
  else
    let c := (clampInt (-(2 ^ 28)) (2 ^ 28) p).1
    lw (scaleExp c 28 (if scored then la.toInt + lb.toInt else 0))

end Sys2Proof.Machine
end

