-- ==== Sys2Proof/Machine/StageTable.lean ====
section
/-! DEFINITION. The stage word and the stage opcodes: fields (R65), legal stages (R69-R72), operands read, selects accepted and
MOD bits defined (R68, R260-R318), and what a recipe's words say together (R247, R248, R314). -/

namespace Sys2Proof.Machine

/-! ### Fields (R65) -/

def stOpc (x : Word) : Nat := bits x 31 24
def stDst (x : Word) : Nat := bits x 23 22
def stA (x : Word) : Nat := bits x 21 17
def stB (x : Word) : Nat := bits x 16 12
def stC (x : Word) : Nat := bits x 11 7
def stMsk (x : Word) : Nat := bits x 6 4
def stMod (x : Word) : Nat := bits x 3 0

/-- Whether a number is one of a range. -/
def inR (x lo hi : Nat) : Bool := decide (lo ≤ x) && decide (x ≤ hi)

/-! ### Legal stages (R69-R72) -/

/-- The stages an opcode is legal in, none for an unassigned one. -/
def opStages (o : Nat) : List Nat :=
  if o = 0x01 then [1, 2, 3, 4, 5, 6]
  else if inR o 0x02 0x06 || inR o 0x08 0x0C then [1, 3, 5]
  else if o = 0x07 || inR o 0x20 0x25 || o = 0x3C || o = 0x4C || o = 0x4D || inR o 0x50 0x54 then [1, 3]
  else if o = 0x0D || inR o 0x10 0x19 || inR o 0x26 0x2B || inR o 0x48 0x4B then [3]
  else if inR o 0x30 0x37 || o = 0x42 || o = 0x43 || o = 0x45 || o = 0x61 || o = 0x62 || o = 0x64 || o = 0x65 || o = 0x83 || o = 0x87 then [2, 4]
  else if o = 0x40 || o = 0x41 || o = 0x60 || o = 0x63 then [3, 5]
  else if inR o 0x38 0x3B || o = 0x68 || o = 0x6C || o = 0x6E || o = 0x70 || o = 0x80 || o = 0x81 || o = 0x85 then [1]
  else if inR o 0x58 0x5E || o = 0x69 || o = 0x6D || o = 0x6F || o = 0x71 || o = 0x82 || o = 0x84 || o = 0x86 then [6]
  else if inR o 0xA0 0xB3 then [5]
  else if o = 0xC2 || o = 0xC3 then [4]
  else if o = 0xC9 || o = 0xCC || o = 0xD8 || o = 0xDB || o = 0xDD then [1]
  else if o = 0xCB || o = 0xD9 || o = 0xDA then [1, 6]
  else if inR o 0xC0 0xC8 || o = 0xCA || o = 0xCD || inR o 0xD0 0xD6 || o = 0xDC then [6]
  else []

/-! ### Operands read -/

/-- Opcodes that read A alone. -/
def readsAOnly (o : Nat) : Bool :=
  o == 0x01 || o == 0x06 || o == 0x07 || o == 0x0C || inR o 0x16 0x19 || inR o 0x38 0x3B || o == 0x4C || o == 0x4D || o == 0x54 ||
  inR o 0x58 0x5E || o == 0x68 || o == 0x69 || o == 0x6C || o == 0x6E || o == 0xA1 || inR o 0xA4 0xAC || o == 0xAF || inR o 0xB1 0xB3 ||
  o == 0xC1 || inR o 0xC6 0xCC || inR o 0xD0 0xD6 || o == 0xD8 || o == 0xDC

/-- Opcodes that read A, B and C. -/
def readsABC (o : Nat) : Bool :=
  o == 0x0D || o == 0x15 || o == 0x26 || o == 0x2B || inR o 0x33 0x37 || o == 0x43 || o == 0x45 || o == 0x62 || o == 0x65 || o == 0x71 ||
  o == 0x82 || o == 0x83 || o == 0x86 || o == 0x87 || o == 0xA3 || o == 0xAE || o == 0xC5 || o == 0xCD

/-- The operands an opcode reads: bit 0 A, bit 1 B, bit 2 C. -/
def opReads (o mod : Nat) : Nat :=
  if o = 0xDD || (o = 0x81 && mod.testBit 3) then 0
  else if o = 0xC0 then (if mod.testBit 3 then 5 else 3)
  else if readsAOnly o then 1
  else if readsABC o then 7
  else 3

/-! ### Selects accepted (R260, R276, R297, R318) -/

def selGen (s : Nat) : Bool := decide (s ≤ 21)
def selH (s : Nat) : Bool := s == 22 || s == 23
def selN (s : Nat) : Bool := s == 24

/-- Whether an opcode in a stage accepts the selects of the operands it reads. -/
def selsOk (o st a b c : Nat) : Bool :=
  match o with
  | 0xC1 | 0xC6 | 0xC7 | 0xC9 | 0xCA => selH a
  | 0xC2 | 0xC3 => selH a && (selH b || decide (b ≤ 15))
  | 0xC4 => selH a && (selN b || selGen b)
  | 0xC5 => selH a && selH b && selGen c
  | 0xCB => if st = 1 then selN a else selGen a
  | 0xCC => selN a
  | _ => selGen a && selGen b && selGen c

/-! ### MOD bits (R68, R260, R278, R298, R317) -/

/-- The MOD bits an opcode defines. -/
def opMod (o st : Nat) : Nat :=
  if o = 0x02 || o = 0x03 || o = 0x06 || o = 0x07 then 12
  else if o = 0x04 || o = 0x05 || inR o 0x27 0x2B || o = 0x14 then 8
  else if o = 0x30 || inR o 0x33 0x37 then 4
  else if o = 0x3C then 12
  else if inR o 0x40 0x45 || inR o 0x58 0x5E || inR o 0x60 0x65 || o = 0x6D || o = 0x6F || o = 0x82 then 3
  else if o = 0x68 then 11
  else if o = 0x69 || o = 0x71 || o = 0x86 then 15
  else if o = 0x6C || o = 0x6E || o = 0x70 then 8
  else if o = 0x80 || o = 0x83 || o = 0x84 then 3
  else if o = 0x81 || o = 0x85 || o = 0x87 then 11
  else if o = 0xA4 then 12
  else if o = 0xA5 || o = 0xA7 then 3
  else if o = 0xA6 then 4
  else if inR o 0xA8 0xAB || o = 0xAD || o = 0xAF then 8
  else if o = 0xC0 || o = 0xC1 then 11
  else if o = 0xC2 || inR o 0xC5 0xC7 || o = 0xC9 || o = 0xCA then 3
  else if o = 0xC3 || o = 0xC8 then 15
  else if o = 0xC4 then 11
  else if o = 0xCB then (if st = 1 then 8 else 0)
  else if o = 0xCC then 8
  else if inR o 0xD0 0xD6 || o = 0xDD then 3
  else if inR o 0xD8 0xDB then 15
  else 0

/-- The combinations of MOD and operands that are rejected although their bits are defined. -/
def modOk (o b mod : Nat) : Bool :=
  match o with
  | 0x3C => mod != 8
  | 0x83 | 0x84 => mod % 4 != 3
  | 0x86 => mod.testBit 3 || !mod.testBit 2
  | 0xC0 => !mod.testBit 3 || decide (mod % 4 ≤ 1)
  | 0xC3 => !selH b || mod / 4 == 0
  | 0xC4 => selN b || !mod.testBit 3
  | 0xCA => decide (mod % 4 ≤ 1)
  | _ => true

/-- Whether an instruction writes no slot, and whether it writes a pair. -/
def noSlot (o st : Nat) : Bool := inR o 0xD0 0xD6 || o == 0xDC || o == 0xCD || o == 0xC0 || inR o 0xC4 0xC8 || (o == 0xCB && st == 6)
def writesPair (o st : Nat) : Bool := o == 0xC0 || inR o 0xC4 0xC8 || (o == 0xCB && st == 6)

/-- The checks of R68 on a stage word, with those of R261, R317 and R318. -/
def stageOk (st : Nat) (x : Word) : Bool :=
  let o := stOpc x
  let r := opReads o (stMod x)
  x == 0 ||
  ((opStages o).contains st && (r.testBit 0 || stA x == 0) && (r.testBit 1 || stB x == 0) && (r.testBit 2 || stC x == 0) &&
   selsOk o st (stA x) (stB x) (stC x) && decide (stMsk x ≤ 5) && stMod x &&& opMod o st == stMod x &&
   modOk o (stB x) (stMod x) && (!noSlot o st || stDst x == 0) &&
   (!(writesPair o st || o == 0xC2 || o == 0xC3) || stMsk x == 4))

/-! ### A recipe (R247, R248, R253, R314) -/

/-- A directional word that has beats, and the words that allow no more than one. -/
def hasBeats (o : Nat) : Bool := inR o 0xC0 0xCA
def oneBeat (o : Nat) : Bool := o == 0xCB || o == 0xCC || o == 0xCD
def isRenorm (o : Nat) : Bool := o == 0xC0 || o == 0xC4 || o == 0xC5

/-- The beat count of a recipe's words. -/
def beatsOf (ws : List Word) : Nat :=
  match ws.find? (fun x => hasBeats (stOpc x)) with
  | some x => stMod x % 4 + 1
  | none => 1

/-- Whether a recipe's words agree with each other (R72, R314). -/
def recipeOk (ws : List Word) : Bool :=
  let bs := (ws.filter (fun x => hasBeats (stOpc x))).map (fun x => stMod x % 4)
  bs.all (fun b => b == bs.headD 0) && !(ws.any (fun x => oneBeat (stOpc x)) && decide (1 < beatsOf ws)) &&
  !(ws.any (fun x => isRenorm (stOpc x)) && nth ws 3 0 != 0)

/-- Whether a recipe renormalises, whether it writes a pair, whether it holds GLOW. -/
def recRenorm (ws : List Word) : Bool := isRenorm (stOpc (nth ws 5 0))
def recPair (ws : List Word) : Bool := writesPair (stOpc (nth ws 5 0)) 6
def recGlow (ws : List Word) : Bool := stOpc (nth ws 5 0) == 0xCD

/-- The predicate a recipe's P6 writes (R248, R269). -/
def recPred (ws : List Word) : Option Nat :=
  let x := nth ws 5 0
  if inR (stOpc x) 0xD0 0xD2 then some (stMod x % 4) else none

/-- The file entries an operand select reads: bits d0-d3, h0, h1, n0, n1 (R66, R247). -/
def selReads (s mod : Nat) : Nat :=
  if inR s 4 7 then 2 ^ (s - 4)
  else if s = 22 then 16 + 64
  else if s = 23 then 32 + 128
  else if s = 24 then (if mod.testBit 3 then 128 else 64)
  else 0

/-- The pair an action names: bits of the entries (R63, R313). -/
def pairBits (action : Word) : Nat :=
  (match bits action 27 25 with | 1 => 16 | 2 => 32 | _ => 0) + (match bits action 30 28 with | 1 => 64 | 2 => 128 | _ => 0)

/-- reads(r) (R247): map codes 5 to 8, operand selects, and the pair NMOV in P6 writes by its old norm. -/
def readsOf (map action : Word) (ws : List Word) : Nat :=
  let m := (List.range 4).map (fun i => let t := bits map (4 * i + 3) (4 * i); if inR t 5 8 then 2 ^ (t - 5) else 0)
  let s := ws.flatMap fun x =>
    let r := opReads (stOpc x) (stMod x)
    if x = 0 then []
    else [if r.testBit 0 then selReads (stA x) (stMod x) else 0, if r.testBit 1 then selReads (stB x) (stMod x) else 0,
          if r.testBit 2 then selReads (stC x) (stMod x) else 0]
  let i := if stOpc (nth ws 5 0) = 0xCB then pairBits action else 0
  (m ++ s).foldl (· ||| ·) i

end Sys2Proof.Machine
end

