-- ==== Sys2Proof/Machine/Ct.lean ====
section
/-! DEFINITION. Compute tiles: guards and firing (R245-R254), the six stages of a firing cycle by cycle (R251, R259, R314), the
landing of its writes (R247, R248, R315) and its traps (R258, R275, R296). -/

namespace Sys2Proof.Machine

/-! ### Recipes -/

/-- The six stage words of recipe i, and its immediates (R54). -/
def Tile.recipe (t : Tile) (i : Nat) : List Word := (List.range 6).map (fun k => t.fld (0x30 + 6 * i + k))
def Tile.imms (t : Tile) (i : Nat) : List Word := [t.fld (0x90 + 2 * i), t.fld (0x91 + 2 * i)]
def Tile.mapW (t : Tile) (i : Nat) : Word := t.fld (0x20 + i)
/-- The words of the recipe that rule i binds. -/
def Tile.ruleRecipe (t : Tile) (i : Nat) : List Word := t.recipe (actRecipe (t.actionW i))

/-- Passes of a firing, its output passes, and the cycles it holds the fire slot (R252, R314). -/
def Flight.passes (f : Flight) : Nat := if f.renorm then 2 * f.beats else f.beats
def Flight.lastPass (f : Flight) : Nat := f.passes - 1
def Flight.isOut (f : Flight) (k : Nat) : Bool := !f.renorm || decide (f.beats ≤ k)
/-- The captured beat a pass reads. -/
def Flight.beatOf (f : Flight) (k : Nat) : Nat := if f.renorm && decide (f.beats ≤ k) then k - f.beats else k
def Flight.head (f : Flight) (c k : Nat) : Option Beat := nth (nth f.heads c []) (f.beatOf k) none

/-! ### Fire (R246, R249, R250) -/

/-- The entries a firing writes: d, h and n bits; a header firing writes none (R246, R250). -/
def writesOf (kind : Nat) (a : Word) : Nat := if kind = 1 then 0 else actDwr a + pairBits a

/-- The load of a transit slot by a T code, with its valid bits (R64, R241). -/
def Flight.loadSlot (f : Flight) (k code : Nat) : Lanes × BitVec 16 :=
  if inR code 1 4 then
    match f.head (code - 1) k with
    | some b => (b.lanes, b.valid)
    | none => (lanesOf (fun _ => 0), 0)
  else if inR code 5 8 then (nth f.dvals (code - 5) [], 0xFFFF)
  else if code = 9 then (lanesOf (fun l => w l), 0xFFFF)
  else if code = 10 || code = 11 then (let v := nth f.imm (code - 10) 0; (lanesOf (fun _ => v), 0xFFFF))
  else if inR code 12 15 then
    (let v := match f.head (code - 12) k with | some b => b.tag | none => 0; (lanesOf (fun _ => v), 0xFFFF))
  else (lanesOf (fun _ => 0), 0xFFFF)

/-- A firing with the slots of every pass loaded. -/
def Flight.loadAll (f : Flight) : Flight :=
  let ls := (List.range f.passes).map fun k =>
    (List.range 4).map fun i => f.loadSlot k (bits f.map (4 * i + 3) (4 * i))
  { f with slots := ls.map (fun p => p.map (·.1)), valids := ls.map (fun p => p.map (·.2)) }

/-- Beats that a rule captures from a channel: b of a channel in READY, else the present head for every pass (R249, R314). -/
def Tile.capture (t : Tile) (ready : List Nat) (b c : Nat) : List (Option Beat) :=
  if ready.contains c then (List.range b).map (fun k => (t.fifo c)[k]?.map Beat.seen) else List.replicate b (t.head c)

/-- The firing of rule i. -/
def Tile.flight (t : Tile) (i kind : Nat) : Flight :=
  let ws := t.ruleRecipe i
  let b := beatsOf ws
  let ready := t.readySet true i
  Flight.loadAll
    { rule := i, age := 0, beats := b, renorm := recRenorm ws, kind := kind, action := t.actionW i, map := t.mapW i
      stages := ws, imm := t.imms (actRecipe (t.actionW i)), rnd := t.ernd
      heads := (List.range 4).map (t.capture ready b), dvals := t.d, hvals := t.h, dims := t.dim, nvals := t.n
      latches := t.latch, slots := [], valids := [], vmasks := List.replicate (2 * b) none, seen := [], raw := [], lAdd := none, pair := none, dot := 0
      trap := none }

/-- What a fire does at its cycle (R246): heads leave, written entries and predicates are marked. -/
def Tile.fire (t : Tile) (i kind : Nat) : Tile :=
  let a := t.actionW i
  let ws := t.ruleRecipe i
  let b := beatsOf ws
  let ready := t.readySet true i
  let f := t.flight i kind
  let t := (t.deqHeads a).foldl (fun t x => t.take x.1 (if ready.contains x.1 then b else 1)) t
  { t with
    flights := t.flights ++ [f]
    pend := match recPred ws with | some n => n :: t.pend | none => t.pend
    empty := t.empty ||| w (writesOf kind a) }

/-- The rule test of a CT (R245, R252, R323) but for the file entries it reads. -/
def Tile.ctHolds (t : Tile) (i : Nat) : Bool :=
  let ws := t.ruleRecipe i
  t.guardHolds true i (beatsOf ws) &&
  (!recGlow ws || decide (t.glow.length + 16 * (t.flights.filter (fun f => recGlow f.stages && decide (f.age ≤ 5))).length + 16 ≤ 64))

/-- What a CT does in a cycle: nothing, a rule fires with a kind, or a trap of a rule. -/
inductive FireWhat where
  | none
  | fire (rule kind : Nat)
  | trap (rule code : Nat)
  deriving DecidableEq, Repr

/-- The lowest-numbered holding rule, under the empty-read policy (R246, R247, R250). -/
def Tile.ctPickFrom (t : Tile) : List Nat → FireWhat
  | [] => .none
  | i :: rest =>
    if t.ctHolds i then
      let emp := readsOf (t.mapW i) (t.actionW i) (t.ruleRecipe i) &&& t.empty.toNat
      if emp &&& (t.fld 0xBB).toNat ≠ 0 then .trap i fEEMPTY
      else if emp ≠ 0 then t.ctPickFrom rest
      else
        match firingKind (t.deqHeads (t.actionW i)) with
        | some k => .fire i k
        | none => .trap i fKMIX
    else t.ctPickFrom rest

/-- Whether the fire slot is free: no firing of this cycle, and none that holds it (R246, R252). -/
def Tile.slotFree (t : Tile) : Bool := t.flights.all (fun f => decide (f.passes ≤ f.age))

/-- The choice of a CT in this cycle. -/
def Tile.ctPick (t : Tile) (draining : Bool) : FireWhat :=
  if t.mayFire && !t.mergedNow true && t.forked.getLsbD 0 && t.passc != 0 && t.slotFree && !(draining && (t.mainIns true).isEmpty) then t.ctPickFrom (List.range 16)
  else .none

/-- The firing of a CT in this cycle, if a rule holds and none has fired yet (R246). -/
def State.ctFire (s : State) (tile : Nat) : State :=
  match s.liveRegion tile with
  | none => s
  | some (rn, r) =>
    if !isCt tile then s
    else
      let t := s.tile tile
      match t.ctPick (r.state == .draining) with
      | .none => s
      | .fire i k => (s.setTile tile (t.fire i k)).modRegion rn (fun g => { g with firings := g.firings + 1 })
      | .trap i c => s.elemTrap tile c i 0 0 t.headKinds t.headTags

/-- CT_RULE_FIRE (R246). -/
def execCtRuleFire (tile : Nat) (s : State) : Host.Outcome State Fault Refusal := .next (s.ctFire tile)

/-! ### A stage (R259, R65-R67) -/

/-- What a stage does besides writing its slot: flags, and the predicate, lane mask, tag register and glow updates of P6. -/
structure StageOut where
  flags : Flags
  pred : Option (Nat × Bool)
  kmask : Option (Nat × BitVec 16)
  treg : Option Word
  glow : List Glow
  deriving DecidableEq, Repr

/-- Nothing but flags. -/
def StageOut.of (fl : Flags) : StageOut := { flags := fl, pred := none, kmask := none, treg := none, glow := [] }

/-- An operand of a stage of a pass and its valid bits (R66, R241): but for captured beats and the pass's own slots, every pass reads
what the first one does (R314). -/
def Flight.opnd (f : Flight) (k st sel : Nat) : Lanes × BitVec 16 :=
  let all (v : Word) : Lanes × BitVec 16 := (lanesOf (fun _ => v), 0xFFFF)
  if sel ≤ 3 then (nth (nth f.slots k []) sel [], nth (nth f.valids k []) sel 0)
  else if sel ≤ 7 then (nth f.dvals (sel - 4) [], 0xFFFF)
  else if sel ≤ 11 then
    match f.head (sel - 8) k with
    | some b => (b.lanes, b.valid)
    | none => (lanesOf (fun _ => 0), 0)
  else if sel ≤ 15 then (match f.head (sel - 12) k with | some b => all b.tag | none => all 0)
  else if sel = 16 then (lanesOf (fun l => w l), 0xFFFF)
  else if sel = 18 || sel = 19 then all (nth f.imm (sel - 18) 0)
  else if sel = 20 then all (nth f.seen (st - 1) (0, 0)).1
  else if sel = 21 then all (nth f.seen (st - 1) (0, 0)).2
  else all 0

/-- The lane mask of a select (R67). -/
def Tile.laneMask (t : Tile) (sel : Nat) : BitVec 16 :=
  if sel ≤ 3 then nth t.kmask sel 0 else if sel = 5 then (if t.preds.getLsbD 0 then 0xFFFF else 0) else 0xFFFF

/-- The directional entry a select names, at fire. -/
def Flight.ent (f : Flight) (sel : Nat) : DirEnt :=
  let i := if sel = 23 then 1 else 0
  { c := nth f.hvals i zeroDir, dim := nth f.dims i 128, n := nth f.nvals i lnZero }

/-- The norm select 24 names. -/
def Flight.norm (f : Flight) (mod : Nat) : Half := nth f.nvals (b2n (mod.testBit 3)) lnZero

/-- Lanes of a pass's slot written, which become valid; the others stay (R241, R259). -/
def Flight.write (f : Flight) (k dst : Nat) (wr : BitVec 16) (out : Lanes) : Flight :=
  let p := nth f.slots k []
  let v := nth f.valids k []
  let old := nth p dst []
  let new := lanesOf (fun l => if wr.getLsbD l then lane out l else lane old l)
  { f with slots := f.slots.set k (p.set dst new), valids := f.valids.set k (v.set dst (nth v dst 0 ||| wr)) }

/-- The lane function's results written in the active lanes. -/
def Flight.each (f : Flight) (k dst : Nat) (act : BitVec 16) (g : Nat → Word × Flags) : Flight × StageOut :=
  let rs := (List.range 16).map (fun l => if act.getLsbD l then g l else (0, 0))
  (f.write k dst act (rs.map (·.1)), StageOut.of (orFlags (rs.map (·.2))))

/-- The header latch a block decode or a directional stream uses: none is a DECODE trap (R290, R319). -/
def Flight.latch (f : Flight) (n : Nat) (norm : Bool) : Option Word :=
  match nth f.latches n none with
  | some x => if bit x 23 == norm then some x else none
  | none => none

/-- A firing that traps in a stage (R275, R296). -/
def Flight.trapped (f : Flight) (code st l : Nat) : Flight × StageOut := ({ f with trap := some (code, st, l) }, StageOut.of 0)

/-- The raw values that a pass gives DNRM (R320): binary32 from A and B, or the bytes of A. -/
def dnrmPass (q8 : Bool) (act : BitVec 16) (a b : Lanes) : List Word :=
  let at_ (x : Lanes) (l : Nat) : Word := if act.getLsbD l then lane x l else 0
  if q8 then
    (List.range 16).flatMap fun l => (List.range 4).map fun i =>
      let v := s8 (at_ a l) i
      if v = 0 then (0 : Word) else w (b32.round rmRNE false (decide (v < 0)) v.natAbs (-7) false).1
  else (List.range 16).map (at_ a) ++ (List.range 16).map (at_ b)

/-- The value of the lowest active lane. -/
def lowLane (act : BitVec 16) (x : Lanes) : Option Word := (lanesIn act).head?.map (lane x)

/-- A directional stage word on pass k (R318-R321); j counts the passes that feed a renormalising word and those that follow it alike. -/
def Flight.dirStage (f : Flight) (t : Tile) (k st : Nat) (x : Word) : Flight × StageOut :=
  let o := stOpc x
  let m := stMod x
  let b := m % 4 + 1
  let n := 32 * b
  let j := f.beatOf k
  let dst := stDst x
  let msk := t.laneMask (stMsk x)
  let A := f.opnd k st (stA x)
  let B := f.opnd k st (stB x)
  let C := f.opnd k st (stC x)
  let pair (r : (List Half × Nat × Half) × Flags) : Flight × StageOut := ({ f with pair := some r.1 }, StageOut.of r.2)
  match o with
  | 0xC0 =>
    let q := m.testBit 3
    let act := msk &&& A.2 &&& (if q then C.2 else B.2)
    let nf : Bool := !q && (List.range 16).any (fun l => !act.getLsbD l && ((fv (lane A.1 l)).nonFinite || (fv (lane B.1 l)).nonFinite))
    let raw := f.raw ++ dnrmPass q act A.1 B.1
    let add : Option Half := if q then f.lAdd <|> (lowLane act C.1).map (fun v => half v 0) else none
    let fl : Flags := if nf then flSKIPNF else 0
    if k + 1 = f.beats then
      let r := renormalise raw (if q then 64 * b else n) (add.getD 0)
      ({ f with raw := raw, lAdd := add, pair := some r.1 }, StageOut.of (r.2 ||| fl))
    else ({ f with raw := raw, lAdd := add }, StageOut.of fl)
  | 0xC4 =>
    if k ≠ 0 then (f, StageOut.of 0)
    else
      let e := (f.ent (stA x)).cover n
      if selN (stB x) then
        let F := f.norm m
        pair (dscl e (if F = lnZero || F = lnBad then (.inl F, 0) else (.inr (F.toInt, false), 0)))
      else
        let act := msk &&& B.2
        let nf : Flags := if (List.range 16).any (fun l => !act.getLsbD l && (fv (lane B.1 l)).nonFinite) then flSKIPNF else 0
        match lowLane act B.1 with
        | some v => (let r := dscl e (dsclFactor v); pair (r.1, r.2 ||| nf))
        | none => (f, StageOut.of 0)
  | 0xC5 =>
    if k ≠ 0 then (f, StageOut.of 0)
    else pair (dmix ((f.ent (stA x)).cover n) ((f.ent (stB x)).cover n) (lane C.1 0) (lane C.1 1) n)
  | 0xC6 => if j = 0 then pair (dmov true ((f.ent (stA x)).cover n)) else (f, StageOut.of 0)
  | 0xC7 => if j = 0 then pair (dmov false ((f.ent (stA x)).cover n)) else (f, StageOut.of 0)
  | 0xC8 =>
    match f.latch (m / 4) true with
    | none => f.trapped fDECODE st ((lanesIn (msk &&& A.2)).headD 0)
    | some hdr =>
      let at_ (l : Nat) : Word := if A.2.getLsbD l then lane A.1 l else 0
      let raw := f.raw ++ (List.range 16).map at_
      if j + 1 = f.beats then
        let cs := raw.flatMap (fun v => [half v 0, half v 1])
        let r := dld cs n hdr
        ({ f with raw := raw, pair := some r.1 }, StageOut.of r.2)
      else ({ f with raw := raw }, StageOut.of 0)
  | 0xCB =>
    if st = 1 then f.each k dst msk (fun _ => ((f.norm m).signExtend 32, 0))
    else
      let e := f.ent (if bits f.action 27 25 = 2 then 23 else 22)
      pair (nmovTo e ((lowLane (msk &&& A.2) A.1).map (fun v => half v 0)))
  | 0xCC => f.each k dst msk (fun _ => (dztLane (f.norm m), 0))
  | 0xC9 => (let e := (f.ent (stA x)).cover n; f.each k dst msk (dstLane e j))
  | 0xC1 => (let e := (f.ent (stA x)).cover n; f.each k dst msk (dexpLane e (m.testBit 3) j))
  | 0xCA => (let e := (f.ent (stA x)).cover (64 * b); f.each k dst msk (dq8Lane e j))
  | _ =>
    let e := (f.ent (stA x)).cover n
    let stream := !selH (stB x)
    let hdr := f.latch (m / 4) true
    if o = 0xC3 && stream && hdr.isNone then f.trapped fDECODE st 0
    else
      let e2 := (f.ent (stB x)).cover n
      let comp (i : Nat) : Int :=
        if stream then
          let l := i % 32 / 2
          if B.2.getLsbD l then (half (lane B.1 l) (i % 2)).toInt else 0
        else e2.comp i
      let dot := f.dot + dotPass e comp j
      let f := { f with dot := dot }
      if j + 1 = f.beats then
        let lb : Half := if stream then (match hdr with | some h => if o = 0xC3 then w (bits h 15 0) else 0 | none => 0) else e2.n
        let r := dotResult (o == 0xC3) dot e.n lb
        (f.write k dst 0xFFFF (lanesOf (fun _ => r.1)), StageOut.of r.2)
      else (f, StageOut.of 0)

/-- A stage word performed on a pass (R259). -/
def Flight.stage (f : Flight) (t : Tile) (k st : Nat) (x : Word) : Flight × StageOut :=
  let o := stOpc x
  let m := stMod x
  let dst := stDst x
  if inR o 0xC0 0xCC then f.dirStage t k st x
  else
    let rd := opReads o m
    let A := f.opnd k st (stA x)
    let B := f.opnd k st (stB x)
    let C := f.opnd k st (stC x)
    let v := (if rd.testBit 0 then A.2 else 0xFFFF) &&& (if rd.testBit 1 then B.2 else 0xFFFF) &&& (if rd.testBit 2 then C.2 else 0xFFFF)
    let act := t.laneMask (stMsk x) &&& v
    let skip (g : Nat → Bool) : Flags := if (List.range 16).any (fun l => !act.getLsbD l && g l) then flSKIPNF else 0
    if o ≤ 0x3C then f.each k dst act (fun l => intLane o m (lane A.1 l) (lane B.1 l) (lane C.1 l))
    else if o ≤ 0x9F then
      let dec := o == 0x80 || o == 0x81 || o == 0x85
      let hdr := nth f.latches (m % 4) none
      let ok := !dec || (f.latch (m % 4) false).isSome
      if !ok && act != 0 then f.trapped fDECODE st ((lanesIn act).headD 0)
      else
        let r := f.each k dst act (fun l => fltLane o m (hdr.getD 0) (lane A.1 l) (lane B.1 l) (lane C.1 l))
        (r.1, StageOut.of (r.2.flags ||| skip (fun l => fltNF o m (if dec then f.latch (m % 4) false else some 0) (lane A.1 l) (lane B.1 l) (lane C.1 l))))
    else if o ≤ 0xB3 then
      let r := crossOp o m act A.1 B.1 C.1
      let f := f.write k dst r.writes r.out
      let f := match r.vmask with | some z => { f with vmasks := f.vmasks.set k (some z) } | none => f
      (f, StageOut.of (r.flags ||| skip (fun l => crossNF o (lane A.1 l))))
    else if o = 0xCD then
      (f, { StageOut.of (skip (fun l => (fv (lane C.1 l)).nonFinite)) with glow := (lanesIn act).map (fun l => { handle := lane A.1 l, slot := lane B.1 l, weight := lane C.1 l }) })
    else if o ≤ 0xD6 then
      let z := act &&& maskOf (fun l => lane A.1 l != 0)
      if o ≤ 0xD2 then (f, { StageOut.of 0 with pred := some (m % 4, predOf o act z) })
      else (f, { StageOut.of 0 with kmask := some (m % 4, kmaskOf o (nth t.kmask (m % 4) 0) z) })
    else if o = 0xDC then (f, { StageOut.of 0 with treg := lowLane act A.1 })
    else if o = 0xDD then
      (let v : Word := match f.head (m % 4) 0 with | some b => b.rnd.setWidth 32 | none => 0; f.each k dst act (fun _ => (v, 0)))
    else
      let cw := if st = 1 then t.inW true (m % 4) else t.outW true (m % 4)
      let rs := (List.range 16).map (fun l => if act.getLsbD l then tagLane o (m / 4) cw (lane A.1 l) (lane B.1 l) else some 0)
      match rs.findIdx? (·.isNone) with
      | some l => f.trapped fTAGOVF st l
      | none => f.each k dst act (fun l => ((nth rs l none).getD 0, 0))

/-! ### A cycle of the firings (R251, R314, R315) -/

/-- The stages a firing performs in the cycle of its age, from P1 on: P(j) of pass k at age k + j - 1. A feed pass of a renormalising
recipe performs the renormalising word alone (R314); a header firing, which names no pair, performs no pair-writing word (R250). -/
def Flight.due (f : Flight) : List (Nat × Nat) :=
  (List.range f.passes).reverse.filterMap fun k =>
    if k ≤ f.age && f.age ≤ k + 5 then
      let st := f.age - k + 1
      let x := nth f.stages (st - 1) 0
      if x = 0 then none
      else if f.renorm && !f.isOut k && !isRenorm (stOpc x) then none
      else if f.isOut k && isRenorm (stOpc x) then none
      else if f.kind = 1 && writesPair (stOpc x) st then none
      else some (k, st)
    else none

/-- What selects 20 and 21 read in the stage that the first pass performs in this cycle. -/
def Flight.look (f : Flight) (t : Tile) : Flight :=
  if f.age < 6 then { f with seen := f.seen ++ [(w (t.predWord true), w t.st.toNat)] } else f

/-- The stages of a cycle performed; a trapped firing performs no more. -/
def Flight.run (f : Flight) (t : Tile) : Flight × List (Nat × StageOut) :=
  f.due.foldl (fun acc d =>
    if acc.1.trap.isSome then acc
    else
      let r := acc.1.stage t d.1 d.2 (nth f.stages (d.2 - 1) 0)
      (r.1, acc.2 ++ [(d.1, r.2)])) (f, [])

/-- What a stage's side effects do to the element at the end of the cycle: P6 predicate writes of the last pass alone (R314). -/
def Tile.applyOut (t : Tile) (f : Flight) (k : Nat) (o : StageOut) : Tile :=
  let t := { t with status := t.status ||| o.flags, glow := t.glow ++ o.glow }
  let t := match o.pred with
    | some (n, v) => if k = f.lastPass then { t with preds := if v then t.preds ||| ((1 : BitVec 4) <<< n) else t.preds &&& ~~~((1 : BitVec 4) <<< n) } else t
    | none => t
  let t := match o.kmask with | some (n, v) => { t with kmask := t.kmask.set n v } | none => t
  match o.treg with | some v => { t with treg := v } | none => t

/-- The tag TAGSRC gives a pass's beats (R63, R242). -/
def Flight.tag (f : Flight) (treg : Word) (k : Nat) : Word :=
  let s := actTagsrc f.action
  if s = 5 then treg
  else if inR s 1 4 then (match f.head (s - 1) k with | some b => b.tag | none => 0)
  else 0

/-- The VALID mask of a data beat of a pass: the AND of the dequeued data heads', or COMPACT's; zero before the last pass of a
dot product (R241, R304, R314). -/
def Flight.validOf (f : Flight) (k : Nat) : BitVec 16 :=
  let dot := f.stages.any (fun x => stOpc x == 0xC2 || stOpc x == 0xC3)
  if dot && k != f.lastPass then 0
  else
    match nth f.vmasks k none with
    | some v => v
    | none =>
      (List.range 4).foldl (fun v c =>
        if (actDeq f.action).testBit c then
          match f.head c k with
          | some b => if b.kind = 0 then v &&& b.valid else v
          | none => v
        else v) 0xFFFF

/-- The beat of a pass for output o (R242, R250). -/
def Flight.beatFor (f : Flight) (treg : Word) (k o : Nat) : Beat :=
  let slot := nth (nth f.slots k []) (bits f.map (17 + 2 * o) (16 + 2 * o)) []
  match f.kind with
  | 0 => dataBeat f.rnd (f.tag treg k) (f.validOf k).toNat slot
  | 1 => headerBeat f.rnd (f.tag treg k) (lane slot 0)
  | _ => markBeat 2 f.rnd

/-- The beats of the pass that leaves P6 a cycle before now. -/
def Tile.enqueue (t : Tile) (treg : Word) (f : Flight) : Tile :=
  if f.age < 6 then t
  else
    let k := f.age - 6
    if k < f.passes && f.isOut k then
      (List.range 4).foldl (fun t o => if bit f.action (8 + o) then t.enq o (f.beatFor treg k o) else t) t
    else t

/-- The ages at which a firing's norm, and its direction and data-file entries, land (R315). -/
def Flight.normAge (f : Flight) : Nat :=
  if f.renorm || stOpc (nth f.stages 5 0) = 0xC8 then f.beats + 5 else 6
def Flight.endAge (f : Flight) : Nat := f.lastPass + 6

/-- The entries of a firing that have not landed at the end of the cycle of its age. -/
def Flight.unlanded (f : Flight) : Nat :=
  let w := writesOf f.kind f.action
  (if f.endAge ≤ f.age then 0 else w &&& 0x3F) + (if f.normAge ≤ f.age then 0 else w &&& 0xC0)

/-- The landing of a firing's file writes at the end of a cycle. -/
def Tile.land (t : Tile) (f : Flight) : Tile :=
  if f.kind = 1 then t
  else
    let a := f.action
    let i := if bits a 27 25 = 2 then 1 else 0
    let t :=
      if f.age = f.normAge && pairBits a != 0 then
        match f.pair with
        | some p => { t with n := t.n.set i p.2.2 }
        | none => t
      else t
    if f.age = f.endAge then
      let t :=
        if pairBits a != 0 then
          match f.pair with
          | some p => { t with h := t.h.set i p.1, dim := t.dim.set i p.2.1 }
          | none => t
        else t
      let p := nth f.slots f.lastPass []
      { t with d := (List.range 4).map (fun j =>
          if bit a (21 + j) then nth p (bits f.map (25 + 2 * j) (24 + 2 * j)) [] else nth t.d j []) }
    else t

/-- The end of the fire cycle: NEXT, the pass, the round and the header latches (R246, R250, R255, R290). -/
def Tile.endFire (t : Tile) (f : Flight) : Tile :=
  let t := { t with st := w (actNext f.action) }
  let t := if f.kind = 2 then { t with ernd := t.ernd + 1 } else t
  if f.kind = 1 then
    { t with latch := (List.range 4).map (fun c =>
        match f.head c 0 with
        | some b => if (actDeq f.action).testBit c && b.kind == 1 && !headerBad b then some (lane b.lanes 0) else nth t.latch c none
        | none => nth t.latch c none) }
  else t

/-- Whether a firing ends a pass (R255). -/
def Flight.endsPass (f : Flight) : Bool := f.kind != 1 && (actNext f.action).testBit 5

/-- A header breach at fire: a DECODE trap of the firing (R106, R107, R296). -/
def Flight.checkHeader (f : Flight) : Flight :=
  if f.age = 0 && f.kind = 1 && f.trap.isNone &&
     (List.range 4).any (fun c => (actDeq f.action).testBit c && (match f.head c 0 with | some b => b.kind == 1 && headerBad b | none => false))
  then { f with trap := some (fDECODE, 1, 0) } else f

/-- Predicates no longer pending for a firing. -/
def Tile.unpend (t : Tile) (f : Flight) : Tile :=
  match recPred f.stages with
  | some n => { t with pend := t.pend.erase n }
  | none => t

/-- Whether a firing is over at the end of the cycle of its age. -/
def Flight.over (f : Flight) : Bool := if f.trap.isSome then decide (6 ≤ f.age) else decide (f.endAge ≤ f.age)

/-- Whether a firing's predicate stops pending at the end of this cycle; `was` says that it had trapped before (R248, R275). -/
def Flight.predEnds (f : Flight) (was : Bool) : Bool :=
  if f.trap.isSome then f.age == 5 || (decide (5 < f.age) && !was) else f.age == f.lastPass + 5

/-- One cycle of a CT: the stages of every firing in flight against the element as it stood, then what lands, then the end of
the cycle on its inputs. The second part is the traps raised: code, rule, stage, lane, kinds and tags of the firing. -/
def Tile.ctCycle (t0 : Tile) : Tile × List (Flight × (Nat × Nat × Nat)) × Bool :=
  let runs := t0.flights.map (fun f => ((f.checkHeader.look t0).run t0))
  let t := runs.foldl (fun t r => r.2.foldl (fun t o =>
    if r.1.trap.isSome then { t with status := t.status ||| o.2.flags } else t.applyOut r.1 o.1 o.2) t) t0
  let fs := runs.map (·.1)
  let newTraps := (t0.flights.zip fs).filterMap (fun x => if x.1.trap.isNone then x.2.trap.map (fun z => (x.2, z)) else none)
  let t := fs.foldl (fun t f => if f.trap.isSome then t else (t.land f).enqueue t0.treg f) t
  let t := (t0.flights.zip fs).foldl (fun t x => if x.2.predEnds x.1.trap.isSome then t.unpend x.2 else t) t
  let fired := fs.find? (fun f => f.age == 0)
  let t := match fired with | some f => t.endFire f | none => t
  let left := fs.filter (fun f => !f.over)
  let full (i : Nat) : Bool :=
    fs.any (fun f => (writesOf f.kind f.action).testBit i && (f.over || !f.unlanded.testBit i)) && !left.any (fun f => f.unlanded.testBit i)
  let empty := (List.range 8).foldl (fun (e : BitVec 8) i => if full i then e &&& ~~~((1 : BitVec 8) <<< i) else e) t.empty
  let t := { t with empty := empty, flights := left.map (fun (f : Flight) => { f with age := f.age + 1 }) }
  (t.settle, newTraps, match fired with | some f => f.endsPass | none => false)

/-- The kinds and tags of the heads a firing captured (R275). -/
def Flight.kinds (f : Flight) : List (BitVec 4) := (List.range 4).map (fun c => match f.head c 0 with | some b => b.kind | none => 0)
def Flight.tags (f : Flight) : List Word := (List.range 4).map (fun c => match f.head c 0 with | some b => b.tag | none => 0)

/-- One cycle of the CT of a tile. -/
def State.ctCycle (s : State) (tile : Nat) : State :=
  let (t, traps, ends) := (s.tile tile).ctCycle
  let s := s.setTile tile t
  let s := if ends then s.passEnd tile else s
  traps.foldl (fun s x => s.elemTrap tile x.2.1 x.1.rule x.2.2.1 x.2.2.2 x.1.kinds x.1.tags) s

end Sys2Proof.Machine
end

