-- ==== Sys2Proof/Machine/Macro.lean ====
section
/-! DEFINITION. The compute-in-memory macro of an MT (R377-R388): its offsets and checks at fire, the effects of MLOAD, MRUN, MACC
and MSRCH, and the steps that start and finish an operation on a unit. -/

namespace Sys2Proof.Machine

/-! ### Firings and what they owe (R353, R354) -/

/-- The operations that have a result beat on OCH (R357, R384). -/
def hasResult (opc : Nat) : Bool := [0x01, 0x03, 0x06, 0x09, 0x0D, 0x10, 0x14, 0x18, 0x1C, 0x1D].contains opc

/-- A data beat of a firing. -/
def MtOp.data (o : MtOp) (valid : Nat) (l : Lanes) : Beat := dataBeat o.rnd o.tag valid l

/-- A beat with one word in lane 0, and a done beat with the offset of the first access (R354). -/
def MtOp.word (o : MtOp) (x : Word) : Beat := o.data 1 (lanesOf (fun l => if l = 0 then x else 0))
def MtOp.doneBeat (o : MtOp) : Beat := o.word (w o.off)

/-- The outputs of ENQ, and whether one carries the firing's result. -/
def MtOp.outs (o : MtOp) : List Nat := (List.range 4).filter (fun c => o.enq.getLsbD c)
def MtOp.isResult (o : MtOp) (c : Nat) : Bool := hasResult (opOpc o.op) && c == opOch o.op

/-- What a firing owes on its outputs: n credits on the result's, one on every other. -/
def Tile.owe (t : Tile) (o : MtOp) (due n : Nat) (res done : Option (List Beat)) : Tile :=
  { t with owed := t.owed ++ o.outs.map (fun c =>
      if o.isResult c then { out := c, op := o.seqNo, due := due, n := n, after := false, beats := res }
      else { out := c, op := o.seqNo, due := due, n := 1, after := opOpc o.op == 0x0D, beats := done }) }

/-- The result and the done beats of an operation have come. -/
def Tile.pay (t : Tile) (o : MtOp) (res done : List Beat) : Tile :=
  { t with owed := t.owed.map (fun x =>
      if x.op == o.seqNo && x.beats.isNone then { x with beats := some (if o.isResult x.out then res else done) } else x) }

/-- An operation leaves the list of outstanding ones. -/
def Tile.dropOp (t : Tile) (no : Nat) : Tile := { t with ops := t.ops.filter (fun x => x.seqNo != no) }

/-! ### Tiles of the macro (R377) -/

def MacTile.cleared : MacTile := { b := [], scale := [], spare := [], e2b := false, dropped := [] }
def MacTile.val (m : MacTile) (k n : Nat) : Int := (m.b.get (64 * k + n) 0).toInt
def MacTile.exp (m : MacTile) (h n : Nat) : Nat := (m.scale.get (64 * h + n) 0x7F).toNat
def MacTile.kept (m : MacTile) (k n : Nat) : Bool := !m.dropped.contains (64 * k + n)

/-- A table of the bytes that differ from what the cleared state holds. -/
def byteTbl (dflt : Byte) (f : Nat → Byte) (n : Nat) : Tbl Byte :=
  (List.range n).filterMap (fun i => if f i = dflt then none else some (i, f i))

/-! ### Operation words (R381, R382) -/

def opTile (o : Dword) : Nat := bits o 9 8
def opFmt (o : Dword) : Nat := bits o 25 24
/-- The GA flag: bit 3 of MLOAD, bit 2 of MRUN and MACC. -/
def opGaFlag (o : Dword) : Bool := if opOpc o = 0x0C then bit o 27 else (opOpc o == 0x0D || opOpc o == 0x0E) && bit o 26
def opInc (o : Dword) : Bool := (opOpc o == 0x0D || opOpc o == 0x0E) && bit o 27

/-- Bytes that an MLOAD reads: rows, trailer, mask plane (R379). -/
def mloadRows (fmt : Nat) : Nat := if fmt = 0 || fmt = 3 then 4096 else 2048
def mloadTrailer (fmt : Nat) : Nat := if 2 ≤ fmt then 256 else 0
def mloadBytes (o : Dword) : Nat := mloadRows (opFmt o) + mloadTrailer (opFmt o) + (if bit o 26 then 512 else 0)

/-- Bytes of an A row (R380). -/
def rowBytes (fmt : Nat) : Nat := if fmt = 3 then 128 else 64

/-- The accesses of a macro operation: buffer, offset, bytes, alignment (R382). -/
def MtOp.macAccesses (o : MtOp) : List (Nat × Nat × Nat × Nat) :=
  let y := bits o.gB 15 0
  match opOpc o.op with
  | 0x0C => [(bufW, o.off, mloadBytes o.op, 64)]
  | 0x0D => [(bufX, o.off, rowBytes (opFmt o.op), 64)]
  | 0x0E => [(bufX, o.off, rowBytes (opFmt o.op), 64), (bufY, y, 256, 256)]
  | _ => [(bufW, o.off, 8192, 64), (bufW, y, 512, 64)]

/-- Whether every access lies in its buffer. -/
def Tile.accessOk (t : Tile) (x : Nat × Nat × Nat × Nat) : Bool := x.2.1 % x.2.2.2 == 0 && t.bufIn x.1 x.2.1 x.2.2.1

/-- The unit of a macro operation: 0 loader, 1 array, 2 mask search. -/
def macUnit (opc : Nat) : Nat := match opc with | 0x0C => 0 | 0x0F => 2 | _ => 1

/-- Operations on a unit, and whether it is full (R378). -/
def MacUnit.count (u : MacUnit) : Nat := u.waiting.length + b2n u.running.isSome
def Tile.unit (t : Tile) (u : Nat) : MacUnit := nth t.units u { running := none, waiting := [] }
def Tile.unitFull (t : Tile) (u : Nat) : Bool := decide ((if u = 2 then 1 else 2) ≤ (t.unit u).count)
def MacUnit.all (u : MacUnit) : List MtOp := u.running.toList ++ u.waiting

/-- The operations that one fired now has to wait for: every MLOAD of its tile for the array, every MRUN and MACC of its tile for
the loader (R378), and those whose writes it could read (R386): every MSRCH for the loader, every SCT for the array. -/
def Tile.macWaits (t : Tile) (op : Dword) : List Nat :=
  let u := macUnit (opOpc op)
  let other := if u = 0 then 1 else 0
  if u = 2 then []
  else
    ((t.unit other).all.filter (fun x => opTile x.op == opTile op)).map (·.seqNo) ++
    (if u = 0 then (t.unit 2).all else t.ops.filter (fun x => opOpc x.op == 0x11)).map (·.seqNo)

/-- A macro operation of a data firing: BUFRNG, or it waits on its unit (R378, R382). -/
def Tile.macFire (t : Tile) (o : MtOp) : Except Nat Tile :=
  let ga := nth t.g (opGa o.op) 0
  let o := { o with off := opAddr o.op + (if opGaFlag o.op then ga.toNat else 0), gB := nth t.g (opGb o.op) 0, waits := t.macWaits o.op }
  if !o.macAccesses.all t.accessOk then .error 0x15
  else
    let u := macUnit (opOpc o.op)
    let t := if opInc o.op then { t with g := t.g.set (opGa o.op) (ga + w (rowBytes (opFmt o.op))) } else t
    let t := t.owe o 0 4 none none
    .ok { t with units := t.units.set u { t.unit u with waiting := (t.unit u).waiting ++ [o] } }

/-! ### MLOAD (R379, R383) -/

/-- The tile that an MLOAD leaves, from the bytes it reads. -/
def mloadTile (op : Dword) (bs : List Byte) : MacTile :=
  let f := opFmt op
  let r := mloadRows f
  let byte (i : Nat) : Byte := nth bs i 0
  let tr (h n j : Nat) : Byte := byte (r + 2 * (64 * h + n) + j)
  let plane := r + mloadTrailer f
  let kept (i : Nat) : Bool := !bit op 26 || (byte (plane + i / 8)).getLsbD (i % 8)
  let nib (i : Nat) : Nat := nbits (byte (i / 2)).toNat (4 * (i % 2) + 3) (4 * (i % 2))
  let val (i : Nat) : Byte :=
    if !kept i then 0
    else match f with
      | 1 => wi 8 (snat 4 (nib i))
      | 2 => wi 8 (e2Doubled (nib i) (tr (i / 2048) (i % 64) 1))
      | _ => byte i
  { b := byteTbl 0 val 4096
    scale := if 2 ≤ f then byteTbl 0x7F (fun i => tr (i / 64) (i % 64) 0) 128 else []
    spare := if f = 2 then byteTbl 0x80 (fun i => tr (i / 64) (i % 64) 1) 128 else []
    e2b := f == 2, dropped := (List.range 4096).filter (fun i => !kept i) }

/-! ### MRUN and MACC (R380, R384) -/

/-- The A row of a format: values, and the scale of each half. -/
def aRow (fmt : Nat) (bs : List Byte) : List Int × List Nat :=
  let byte (i : Nat) : Byte := nth bs i 0
  let nib (i : Nat) : Nat := nbits (byte (i / 2)).toNat (4 * (i % 2) + 3) (4 * (i % 2))
  match fmt with
  | 1 => ((List.range 64).map (fun k => snat 4 (nib k)), [0x7F, 0x7F])
  | 2 => ((List.range 64).map (fun k => e2Doubled (nib k) (byte (33 + 2 * (k / 32)))), [(byte 32).toNat, (byte 34).toNat])
  | 3 => ((List.range 64).map (fun k => (byte k).toInt), [(byte 64).toNat, (byte 66).toNat])
  | _ => ((List.range 64).map (fun k => (byte k).toInt), [0x7F, 0x7F])

/-- One half of a column added to the accumulator (R99, R102, R384). -/
def macHalf (m : MacTile) (kd : Nat) (a : List Int × List Nat) (n h : Nat) (acc : Word × Flags) : Word × Flags :=
  let ks := (List.range 32).map (fun i => 32 * h + i)
  let ea := nth a.2 h 0
  let eb := m.exp h n
  let nanScale := ea == 255 || eb == 255
  if !ks.any (fun k => m.kept k n) then (acc.1, acc.2 ||| (if nanScale then flSKIPNF else 0))
  else
    let i := (ks.map (fun k => nth a.1 k 0 * m.val k n)).sum
    let blk := bscale kd (wi 32 i) (w ea) (w eb)
    let fl : Flags := if nanScale && ks.any (fun k => !m.kept k n) then flSKIPNF else 0
    let r := b32.add 0 acc.1.toNat blk.1.toNat
    (w r.1, acc.2 ||| blk.2 ||| fl ||| r.2)

/-- The 64 columns of an A row against a tile, from the accumulators given. -/
def macColumns (m : MacTile) (fmt : Nat) (bs : List Byte) (acc : Nat → Word) : List (Word × Flags) :=
  let a := aRow fmt bs
  let kd := b2n (fmt == 2) + b2n m.e2b
  (List.range 64).map (fun n => macHalf m kd a n 1 (macHalf m kd a n 0 (acc n, 0)))

/-! ### MSRCH (R387) -/

/-- Magnitude of an element of a sub-block: none for a non-finite one; a number scaled to be exact. -/
def srchMag (bf : Bool) (x : Nat) : Option Nat :=
  match (if bf then bf16 else b16).val x with
  | .fin _ m e => some (m * 2 ^ (e + 200).toNat)
  | _ => none

/-- Whether element x ranks above y: non-finite first, then the larger magnitude, then the lower index. -/
def srchAbove (v : List (Option Nat)) (x y : Nat) : Bool :=
  match nth v x none, nth v y none with
  | none, none => decide (x < y)
  | none, some _ => true
  | some _, none => false
  | some a, some b => if a = b then decide (x < y) else decide (b < a)

/-- An index put into a list in descending rank. -/
def srchInsert (v : List (Option Nat)) (x : Nat) : List Nat → List Nat
  | [] => [x]
  | y :: t => if srchAbove v x y then x :: y :: t else y :: srchInsert v x t

def rowCount (kept : List Nat) (r : Nat) : Nat := (kept.filter (fun x => x / 4 == r)).length
def colCount (kept : List Nat) (c : Nat) : Nat := (kept.filter (fun x => x % 4 == c)).length

/-- The greedy pass. -/
def srchGreedy (v : List (Option Nat)) : List Nat :=
  ((List.range 16).foldl (fun l x => srchInsert v x l) []).foldl (fun kept x =>
    if rowCount kept (x / 4) < 2 ∧ colCount kept (x % 4) < 2 then kept ++ [x] else kept) []

/-- The completion, at most eight times. -/
def srchComplete : Nat → List Nat → List Nat
  | 0, kept => kept
  | fuel + 1, kept =>
    if 8 ≤ kept.length then kept
    else
      match (List.range 4).find? (fun r => decide (rowCount kept r < 2)), (List.range 4).find? (fun c => decide (colCount kept c < 2)) with
      | some r, some c =>
        if !kept.contains (4 * r + c) then srchComplete fuel (kept ++ [4 * r + c])
        else
          match (List.range 16).find? (fun z => kept.contains z && z / 4 != r && z % 4 != c) with
          | some z => srchComplete fuel (kept.filter (· != z) ++ [4 * r + z % 4, 4 * (z / 4) + c])
          | none => kept
      | _, _ => kept

/-- The gain of exchanging p and q: non-finite count, then the sum of magnitudes. -/
def srchGain (v : List (Option Nat)) (p q : Nat) : Int × Int :=
  let x := 4 * (p / 4) + q % 4
  let y := 4 * (q / 4) + p % 4
  let nf (i : Nat) : Int := if (nth v i none).isNone then 1 else 0
  let mag (i : Nat) : Int := ((nth v i none).getD 0 : Nat)
  (nf x + nf y - nf p - nf q, mag x + mag y - mag p - mag q)

def gainLt (a b : Int × Int) : Bool := decide (a.1 < b.1) || (a.1 == b.1 && decide (a.2 < b.2))

/-- The best exchange of a kept set: the greatest gain, ties to the lowest p, then q. -/
def srchBest (v : List (Option Nat)) (kept : List Nat) : Option ((Nat × Nat) × (Int × Int)) :=
  ((List.range 256).map (fun i => (i / 16, i % 16))).foldl (fun best x =>
    let p := x.1
    let q := x.2
    if p < q && kept.contains p && kept.contains q && p / 4 != q / 4 && p % 4 != q % 4 &&
       !kept.contains (4 * (p / 4) + q % 4) && !kept.contains (4 * (q / 4) + p % 4) then
      let g := srchGain v p q
      match best with
      | none => some (x, g)
      | some b => if gainLt b.2 g then some (x, g) else best
    else best) none

/-- The improvement, at most the given number of exchanges. -/
def srchImprove (v : List (Option Nat)) : Nat → List Nat → List Nat
  | 0, kept => kept
  | fuel + 1, kept =>
    match srchBest v kept with
    | none => kept
    | some ((p, q), g) =>
      if gainLt (0, 0) g then
        srchImprove v fuel (kept.filter (fun x => x != p && x != q) ++ [4 * (p / 4) + q % 4, 4 * (q / 4) + p % 4])
      else kept

/-- The kept indices of a sub-block. -/
def srchBlock (v : List (Option Nat)) : List Nat := srchImprove v 8 (srchComplete 16 (srchGreedy v))

/-- The mask plane of a 64 by 64 tile. -/
def srchPlane (bf : Bool) (bs : List Byte) : List Byte :=
  let blk (i j : Nat) : List Nat := srchBlock ((List.range 16).map (fun x =>
    srchMag bf (fieldAt bs (128 * (4 * i + x / 4) + 2 * (4 * j + x % 4)) 2)))
  let blocks := (List.range 256).map (fun b => blk (b / 16) (b % 16))
  let keep (k n : Nat) : Bool := (nth blocks (16 * (k / 4) + n / 4) []).contains (4 * (k % 4) + n % 4)
  (List.range 512).map (fun y => w ((List.range 8).map (fun i => b2n (keep (y / 8) (8 * (y % 8) + i)) * 2 ^ i)).sum)

/-! ### The steps of a unit (R378, R384, R385, R388) -/

/-- MACRO_UNIT_START: the first waiting operation of an idle unit starts once what it waits for has finished (R378, R385). -/
def Tile.startUnit (t : Tile) (u : Nat) : Tile :=
  let x := t.unit u
  match x.running, x.waiting with
  | none, o :: rest =>
    if o.waits.all (fun k => !t.units.any (fun y => y.all.any (fun z => z.seqNo == k)) && !t.ops.any (fun z => z.seqNo == k)) then
      { t with units := t.units.set u { running := some o, waiting := rest } }
    else t
  | _, _ => t

/-- A finished operation's effect: the tile's new contents, the column beats, the Y writes or the mask plane, and the flags. -/
def Tile.macEffect (t : Tile) (o : MtOp) : Tile × List Beat :=
  let y := bits o.gB 15 0
  let m := nth t.mac (opTile o.op) MacTile.cleared
  let status (cols : List (Word × Flags)) : BitVec 6 := t.status ||| orFlags (cols.map (·.2))
  match opOpc o.op with
  | 0x0C => ({ t with mac := t.mac.set (opTile o.op) (mloadTile o.op (t.bufRead bufW o.off (mloadBytes o.op))) }, [])
  | 0x0D =>
    let cols := macColumns m (opFmt o.op) (t.bufRead bufX o.off (rowBytes (opFmt o.op))) (fun _ => 0)
    ({ t with status := status cols }, (List.range 4).map (fun q => o.data 0xFFFF (lanesOf (fun l => (nth cols (16 * q + l) (0, 0)).1))))
  | 0x0E =>
    let cols := macColumns m (opFmt o.op) (t.bufRead bufX o.off (rowBytes (opFmt o.op))) (fun n => w (leNat (t.bufRead bufY (y + 4 * n) 4)))
    (Tile.bufPut { t with status := status cols } bufY y (cols.map (fun c => leBytes c.1.toNat 4)).flatten, [])
  | _ => (t.bufPut bufW y (srchPlane (bit o.op 24) (t.bufRead bufW o.off 8192)), [])

/-- The running operation of a unit finishes. -/
def Tile.finishUnit (t : Tile) (u : Nat) : Tile :=
  match (t.unit u).running with
  | none => t
  | some o =>
    let r := t.macEffect o
    ({ r.1 with units := r.1.units.set u { r.1.unit u with running := none } }).pay o r.2 [o.doneBeat]

def unitNo (u : Sys2Proof.MacroUnit) : Nat := match u with | .loader => 0 | .array => 1 | .search => 2

/-- MACRO_UNIT_START: a unit of a running region starts its next operation (R385); none starts under a freeze (R411). -/
def execMacroUnitStart (tile : Nat) (u : MacroUnit) (s : State) : Host.Outcome State Fault Refusal :=
  .next (match s.liveRegion tile with
    | none => s
    | some _ => s.modTile tile (fun t => t.startUnit (unitNo u)))

/-- MACRO_OP_DONE: the running operation of a unit finishes, under a freeze too (R384, R388). -/
def execMacroOpDone (tile : Nat) (u : MacroUnit) (s : State) : Host.Outcome State Fault Refusal :=
  .next (match s.ownerOf tile with
    | none => s
    | some (_, r) =>
      if r.active || r.state == .freezing then s.modTile tile (fun t => t.finishUnit (unitNo u)) else s)

end Sys2Proof.Machine
end

