-- ==== Sys2Proof/Machine/Cycle.lean ====
section
/-! DEFINITION. One cycle of the elements of a region (R238, R251, R353), and the completion of what is in flight when nothing new
fires (R239, R388, R411). -/

namespace Sys2Proof.Machine

/-! ### The cycle of an MT -/

/-- Whether an owed beat waits for the result of its firing (R384). -/
def Tile.waitsResult (t : Tile) (x : Owed) : Bool := x.after && t.owed.any (fun y => y.op == x.op && !y.after)

/-- The first beat owed to output c leaves for its FIFO where it is due; `t0` is the tile as the cycle found it. -/
def Tile.payOut (t0 t : Tile) (c : Nat) : Tile :=
  match t.owed.findIdx? (fun x => x.out == c) with
  | none => t
  | some k =>
    match t.owed[k]? with
    | none => t
    | some x =>
      match x.beats with
      | some (b :: rest) =>
        if x.due = 0 && !t0.waitsResult x then
          let t := t.enq c b
          if rest.isEmpty then { t with owed := t.owed.eraseIdx k }
          else { t with owed := t.owed.set k { x with n := x.n - 1, beats := some rest } }
        else t
      | some [] => { t with owed := t.owed.eraseIdx k }
      | none => t

/-- The end of a cycle in an MT: owed beats leave, S, predicates and round change, the slots' holds pass, the inputs settle. -/
def Tile.mtCycle (t : Tile) : Tile :=
  let t := (List.range 4).foldl t.payOut t
  let t := match t.mtEnd with
    | some e => { t with st := e.st, preds := e.preds, ernd := t.ernd + w e.round, mtEnd := none }
    | none => t
  { t with hold := t.hold - 1, shold := t.shold - 1, owed := t.owed.map (fun (x : Owed) => { x with due := x.due - 1 }) }.settle

/-- One cycle of the MT of a tile. -/
def State.mtCycle (s : State) (tile : Nat) : State :=
  let t := s.tile tile
  let ends := match t.mtEnd with | some e => e.pass | none => false
  let s := s.setTile tile t.mtCycle
  if ends then s.passEnd tile else s

/-! ### The cycle of a region -/

/-- The cycle of a region's elements: in a freeze the firings in flight go on to their end (R411). -/
def State.regionCycle (s : State) (r : Region) : State :=
  (s.listed r).foldl (fun s n => if isCt n then s.ctCycle n else s.mtCycle n) s

/-- The running operation of every macro unit of a tile finishes (R388). -/
def Tile.finishUnits (t : Tile) : Tile := (List.range 3).foldl Tile.finishUnit t

/-- What is in flight in a region completes, nothing new firing: enough cycles for the longest firing (R239, R411). -/
def State.flush (s : State) (r : Region) : State :=
  let s := s.modListed r Tile.finishUnits
  (List.range 512).foldl (fun s _ => s.regionCycle r) s

/-- Whether an element has nothing in flight: no firing, no beats owed but those of outstanding operations, no cycle to settle. -/
def Tile.settled (t : Tile) : Bool :=
  t.flights.isEmpty && t.hold == 0 && t.shold == 0 && t.mtEnd.isNone && t.arr.all (·.isEmpty) && t.deqs.all (· == 0) &&
  t.units.all (fun u => u.running.isNone) && t.owed.all (fun x => x.beats.isNone)

end Sys2Proof.Machine
end

