-- ==== Sys2Proof/WellFormed.lean ====
section
/-! DEFINITION. Which instructions name units the module has and data of the lengths the spec gives. A step whose event is
not well formed names nothing of the module and moves nothing. -/

namespace Sys2Proof

open Config

/-- A partition and one of its queues. -/
def wfPQ (p q : Nat) : Bool := decide (p < numParts) && decide (q < numQueues)

/-- A tile of the module (R16). -/
def wfTile (t : Nat) : Bool := decide (t < gridSide * gridSide)

/-- A region's channel of an EMP (R14, R60). -/
def wfPort (rn emp ch : Nat) : Bool := decide (rn < numSeqs) && decide (emp < numEmps) && decide (ch < empChans)

/-- A collective engine's chiplet and partition (R13, R456). -/
def wfColl (p chip : Nat) : Bool := decide (p < numParts) && decide (chip < 16)

/-- An Akend port and a flit of 256 bytes (R23, R451). -/
def wfFlit (port : Nat) (flit : List Byte) : Bool := decide (port < numAkend) && decide (flit.length = 256)

/-- A partition and a service hart. -/
def wfService (p h : Nat) : Bool := decide (p < numParts) && decide (h < numHarts)

/-- Where a beat stands: channels, delay stages, ports and lanes in range (R235, R375). -/
def wfSource : BeatSource → Bool
  | .outFifo ch => decide (ch < 4)
  | .delay ch stage => decide (ch < 4) && decide (stage < 16)
  | .laneReg port lane => decide (port < 5) && decide (lane < 2)

/-- The byte or tile an ECC check names exists. -/
def wfSite : EccSite → Bool
  | .memory pa => decide (pa < numStacks * stackBytes + numLpddr * lpddrBytes)
  | .scratchpad tile off => wfTile tile && decide (off < 65536)

/-- A seam by the tile and the port (N 0, E 1, S 2, W 3) whose lanes cross it, numbered 4 · tile + port (R13, R15). Its lanes are the
two switch lanes, then the four express lanes of the tile's row or column (R376). -/
def wfSeam (seam : Nat) : Bool :=
  let t := seam / 4
  let x := t % gridSide
  let y := t / gridSide
  wfTile t &&
  (match seam % 4 with
   | 0 => decide (0 < y) && decide (y % chipSide = 0)
   | 1 => decide (x + 1 < gridSide) && decide ((x + 1) % chipSide = 0)
   | 2 => decide (y + 1 < gridSide) && decide ((y + 1) % chipSide = 0)
   | _ => decide (0 < x) && decide (x % chipSide = 0))

/-- The part exists (R423). -/
def wfPart : FailedPart → Bool
  | .lanternCore h => decide (h < numHarts)
  | .sequencer sq => decide (sq < numSeqs)
  | .regionArea rn => decide (rn < numSeqs)
  | .pseudoChannel stack pc => decide (stack < numStacks) && decide (pc < 256)
  | .linkLane port lane => decide (port < numAkend) && decide (lane < 8)
  | .seamLane seam lane => wfSeam seam && decide (lane < 6)
  | .journalCopies _ => true

/-- The device CSRs of a hart (R24, R25, R136, R139, R146, R348, R407, R421, R440, R445, R448, R469, R470, R473). -/
def isDeviceCsr (n : Nat) : Bool :=
  [0x5C0, 0x5C1, 0x5C2, 0x5C3, 0x5C4, 0x5C5, 0x5C6, 0x5C7, 0x5C8, 0x5CA, 0x6C0, 0x6C1, 0x6C4, 0x6C5, 0x7C0, 0x7C1, 0xCC0,
   0xCC1].contains n

/-- The register exists: 8 bytes of BAR0 of a VF from its control page on (the page, the MSI-X table and the Pending Bit Array, R115), or a
CSR of a hart. -/
def wfReg : RegSel → Bool
  | .vf vf off => decide (vf < numVfs) && decide (off < 0x9100) && decide (off % 8 = 0)
  | .csr h num => decide (h < numHarts) && isDeviceCsr num.toNat
  | .vfAssign vf => decide (vf < numVfs)
  | .hartAssign h => decide (h < numHarts)
  | .minSvn => true

/-- The elements of a vector access stand in a group of at most eight registers of 32 bytes (R21). -/
def wfElems (log : BitVec 2) (v : Reg) (elems : List (Nat × Dword)) : Bool :=
  elems.all (fun e => decide ((e.1 + 1) * 2 ^ log.toNat ≤ 256) && decide (32 * v.toNat + (e.1 + 1) * 2 ^ log.toNat ≤ 1024)) &&
  (elems.map (·.1)).eraseDups.length == elems.length

/-- The accesses RISC-V has: floating ones of 2, 4 or 8 bytes, LR, SC and AMO of 4 or 8, and vector ones within a register group (R21). -/
def wfLan : LanOp → Bool
  | .fload log _ => decide (1 ≤ log.toNat)
  | .fstore log _ => decide (1 ≤ log.toNat)
  | .lr log _ => decide (2 ≤ log.toNat)
  | .sc log _ _ => decide (2 ≤ log.toNat)
  | .amo _ log _ _ => decide (2 ≤ log.toNat)
  | .vload log vd elems => wfElems log vd elems
  | .vstore log vs elems => wfElems log vs elems
  | _ => true

/-- Whether an instruction is well formed. Every word instruction with fields of the encoding's widths is; an illegal-word
trap carries a word its decoder rejects. -/
def WellFormed : Instr → Bool
  | .hostSubmission vf page w => decide (vf < numVfs) && decide (page < numPages) && decide (w.off + w.bytes.length ≤ 4096)
  | .submissionPageBind vf page _ => decide (vf < numVfs) && decide (page < numPages)
  | .launchExpansion p q => wfPQ p q
  | .completionPost vf q => decide (vf < numVfs) && decide (q < numQueues)
  | .crheadWrite vf _ => decide (vf < numVfs)
  | .ringEnableWrite vf _ => decide (vf < numVfs)
  | .functionLevelReset vf => decide (vf < numVfs)
  | .registerWrite r _ => wfReg r
  | .regionPop rn => decide (rn < numSeqs)
  | .reservePushRetry p q => wfPQ p q
  | .trimPop p q => wfPQ p q
  | .trimExecute p _ => decide (p < numParts)
  | .glowUpdateApply t => wfTile t
  | .soGrant p slot => decide (p < numParts) && decide (slot < 65536)
  | .xlanWaitInterrupt h _ => decide (h < numHarts)
  | .invalidationComplete h => decide (h < numHarts)
  | .ctRuleFire t => wfTile t
  | .mtRuleFire t => wfTile t
  | .streamRuleFire t => wfTile t
  | .classDone t _ => wfTile t
  | .barrierSnuffMerge t => wfTile t
  | .reservedKindDrop t ch => wfTile t && decide (ch < 4)
  | .intersectDiscard t => wfTile t
  | .beatTransfer t src => wfTile t && wfSource src
  | .expressLaneTransfer t lane slot => wfTile t && decide (lane < 8) && decide (slot < 4)
  | .seamBeatRetry seam lane rn => wfSeam seam && decide (lane < 6) && decide (rn < numSeqs)
  | .partitionRequestServe t => wfTile t
  | .gthResultEnqueue t => wfTile t
  | .istrmBlockAccept t => wfTile t
  | .indirectStreamRow stack eng => decide (stack < numStacks) && decide (eng < 8)
  | .acqnGrant t => wfTile t
  | .macroUnitStart t _ => wfTile t
  | .macroOpDone t _ => wfTile t
  | .empRequest rn emp ch => wfPort rn emp ch
  | .empWriteData rn emp ch => wfPort rn emp ch
  | .empReply rn emp ch => wfPort rn emp ch
  | .empMarkerForward rn emp ch => wfPort rn emp ch
  | .faultRecordWrite p => decide (p < numParts)
  | .freezeLimitExpiry rn => decide (rn < numSeqs)
  | .copyBeat rn i => decide (rn < numSeqs) && decide (i < 16)
  | .copyComplete rn i => decide (rn < numSeqs) && decide (i < 16)
  | .seqLoadFill rn _ => decide (rn < numSeqs)
  | .barrComplete rn => decide (rn < numSeqs)
  | .freezeComplete rn => decide (rn < numSeqs)
  | .snuffDrainComplete rn => decide (rn < numSeqs)
  | .saveComplete rn => decide (rn < numSeqs)
  | .loadComplete rn => decide (rn < numSeqs)
  | .rebaseComplete rn => decide (rn < numSeqs)
  | .regionZeroingComplete rn => decide (rn < numSeqs)
  | .debugStop rn => decide (rn < numSeqs)
  | .traceSample rn => decide (rn < numSeqs)
  | .pgMigGranule _ _ => true
  | .bistComplete h _ _ _ => decide (h < numHarts)
  | .partFailure part users _ => wfPart part && users.all (fun rn => decide (rn < numSeqs))
  | .parityError x => wfTile x.tile
  | .memoryEccError site _ users => wfSite site && users.all (fun rn => decide (rn < numSeqs))
  | .patrolScrub site _ => wfSite site
  | .serviceCall p svc h _ => wfService p h && decide (svc < 16)
  | .mapperPlace p h _ => wfService p h
  | .storageRead p h _ _ => wfService p h
  | .storageWrite p h _ _ => wfService p h
  | .storagePersist p h _ _ => wfService p h
  | .serviceWatchdogExpiry p svc => decide (p < numParts) && decide (svc < 16)
  | .loaderLoad rn h _ _ => decide (rn < numSeqs) && decide (h < numHarts)
  | .queueCreate h v => decide (h < numHarts) && decide (v.toNat / 2 ^ 62 = 1)
  | .queueDestroy h v => decide (h < numHarts) && decide (v.toNat / 2 ^ 62 = 2)
  | .partitionDescriptorUpdate h _ => decide (h < numHarts)
  | .vdresume h _ => decide (h < numHarts)
  | .revokeGraph h v => decide (h < numHarts) && decide (v.toNat / 2 ^ 32 % 8 = 0)
  | .revokeSyncObject h v => decide (h < numHarts) && decide (v.toNat / 2 ^ 32 % 8 = 1)
  | .revokeAttnPage h v => decide (h < numHarts) && decide (v.toNat / 2 ^ 32 % 8 = 2)
  | .revokeRegion h v => decide (h < numHarts) && decide (v.toNat / 2 ^ 32 % 8 = 3)
  | .revokeQueue h v => decide (h < numHarts) && decide (v.toNat / 2 ^ 32 % 8 = 4)
  | .faultQueueHeadWrite h _ => decide (h < numHarts)
  | .pageZero h _ => decide (h < numHarts)
  | .debugArm h v => decide (h < numHarts) && v.getLsbD 32
  | .debugCancel h v => decide (h < numHarts) && !v.getLsbD 32
  | .voltageOffsetWrite h _ => decide (h < numHarts)
  | .voltageSettled rail => decide (rail < numRails)
  | .linkMarginRun h v => decide (h < numHarts) && v.getLsbD 0
  | .linkMarginDone phy _ lane _ => decide (phy < 4) && decide (lane < 128)
  | .firmwareImageVerify win image =>
    decide (win < 2) && decide (image.bytes.length ≤ 16 * 2 ^ 20) && image.badCores.all (fun h => decide (h < numHarts))
  | .hypervisorImageLoad win image _ _ => decide (win < 2) && decide (image.length ≤ 16 * 2 ^ 20)
  | .akendDataFlit port flit => wfFlit port flit
  | .akendCreditFlit port flit => wfFlit port flit
  | .akendRetryRequest port flit => wfFlit port flit
  | .akendElectionFlit port flit => wfFlit port flit
  | .akendIdleFlit port flit => wfFlit port flit
  | .akendReservedFlitType port flit => wfFlit port flit
  | .allreduce p chip _ => wfColl p chip
  | .reduce p chip _ => wfColl p chip
  | .broadcast p chip _ => wfColl p chip
  | .allgather p chip _ => wfColl p chip
  | .collectiveDone p chip => wfColl p chip
  | .collectiveTimeout p chip => wfColl p chip
  | .collectiveReservedCode p chip => wfColl p chip
  | .lanternLoadStore h op _ => decide (h < numHarts) && wfLan op
  | .csrRead h _ num => decide (h < numHarts) && isDeviceCsr num.toNat
  | .illeg x => decide (decodeSeq x = .illeg x)
  | .xlanIllegalInstruction x => decide (decodeXlan x = some (.xlanIllegalInstruction x))
  | .badcmd x => decide (decodeStream false x = .badcmd x)
  | _ => true

/-- Whether an instruction is an event: a step with no word, which the agenda may name directly. -/
def isEvent (i : Instr) : Bool :=
  match i with
  | .badpc => false
  | _ => (encode i).isEmpty

end Sys2Proof
end

