-- ==== Sys2Proof/Machine/Fetch.lean ====
section
/-! DEFINITION. Fetching: the word an agent runs next, its bytes and its decoding (R1, R21, R49, R201, R447), and the state an
instruction is fetched in. -/

namespace Sys2Proof.Machine

open Sys2Proof.Config

/-! ### Sequencers (R201) -/

/-- The word at a sequencer's PC; none at or beyond the section's length. -/
def Region.word (r : Region) : Option Word := if r.seq.pc % 4 = 0 then r.code[r.seq.pc / 4]? else none

/-- The instruction a sequencer runs next: BADPC where its PC is at or beyond the section's length (R201). -/
def Region.instr (r : Region) : Instr :=
  match r.word with
  | some x => decodeSeq x
  | none => .badpc

/-- Whether an instruction is one before which a debug stop may land (R447). -/
def isBoundary (i : Instr) : Bool :=
  match i with
  | .cfg .. => true
  | .retire => true
  | _ => false

/-- Whether an armed debug stop lands before the next instruction (R447, R448). -/
def State.debugDue (s : State) (rn : Nat) : Bool :=
  match s.region? rn with
  | some r => r.debug && r.state == .running && !r.seq.stopNext && (isBoundary r.instr || r.seq.first) && s.quiet rn r
  | none => false

/-- The state in which a sequencer's instruction is performed. -/
def State.atSeq (s : State) (sq : Nat) : State := ({ s with curSeq := sq }).modSeq sq (fun q => { q with first := false })

/-! ### Harts (R21, R78) -/

/-- The word at a hart's pc, or its fetch exception: two bytes, and four where the two low bits are both 1. -/
def State.hartWord (s : State) (h : Hart) : Except (Nat × XFault) Word :=
  match vread s.mem h.xlate h.pc.toNat 2 with
  | .error e => .error e
  | .ok bs =>
    if leNat bs % 4 = 3 then (vread s.mem h.xlate h.pc.toNat 4).map (fun bs => w (leNat bs)) else .ok (w (leNat bs))

/-! ### Configuration streams (R49) -/

/-- The bytes of the next stream word of an install, or its fault. -/
def State.streamWord (s : State) (rn : Nat) (i : Install) : Except (Nat × XFault) Word :=
  let va := i.va.toNat + 4 * i.next
  (if i.byCfg then s.rread rn va 4 else vread s.mem i.xl va 4).map (fun bs => w (leNat bs))

/-! ### Placing an instruction where the next step fetches it -/

/-- A running region of two by two tiles at the module's corner for sequencer 0, whose code is the one given. -/
def probeRegion (code : List Word) : Region :=
  { part := 0, slot := 1, gen := 1, ocol := 0, orow := 0, width := 2, height := 2, state := .running, version := 0, incarn := 0
    lasterr := 0, why := 0, frzWhy := 0, attach := none, run := none, period := 0, origq := 0, code := code, seq := Seq.zero
    sects := [], inst := none, async := none, zeroing := false, freeing := false, cycles := 0, phase := 0, phaseStart := 0
    cfgFrom := none, cfgLoad := 0, prof := [0, 0, 0, 0], saved := false, debug := false, warm := false, inPlace := false
    shadows := [], firings := 0, beatsOut := 0, sampleAt := 0, pushIdx := 0 }

/-- Sequencer 0 about to fetch a word: a running region bound to it with the word as its code. -/
def State.placeSeq (s : State) (x : Word) : State :=
  let r := match s.region? 0 with
    | some r => { r with state := .running, code := List.replicate (r.seq.pc / 4) 0 ++ [x] }
    | none => probeRegion [x]
  { s.setRegion 0 r with agenda := [.seq 0] }

/-- Hart 0 about to fetch a word, stored where its pc points. -/
def State.placeHart (s : State) (x : Word) : State :=
  match vwrite s.mem { (s.hart 0).xlate with sup := true } (s.hart 0).pc.toNat (leBytes x.toNat 4) with
  | .ok m => { s with mem := m, agenda := [.hart 0] }
  | .error _ => { s with agenda := [.hart 0] }

end Sys2Proof.Machine
end

