-- ==== Sys2Proof/Machine/SeqCopy.lean ====
section
/-! DEFINITION. Copies of the graph sequencer: CPY, CPY2, CPYI, their beats and their tokens (R208-R212). -/

namespace Sys2Proof.Machine

/-! ### Endpoints (R208) -/

def epIsMt (e : Dword) : Bool := bit e 63
def epBuf (e : Dword) : Nat := bits e 29 28
def epOff (e : Dword) : Nat := bits e 47 32
def epCol (e : Dword) : Nat := bits e 9 0
def epRow (e : Dword) : Nat := bits e 25 16

/-- Status of BUFCLS in a token (R210). -/
def eBUFCLS : Nat := 0x0010

/-- The module tile of an MT endpoint. -/
def Region.epTile (r : Region) (e : Dword) : Nat := tileAt (r.ocol + epCol e) (r.orow + epRow e)

/-- The offsets of the first and last bytes of row i of n bytes from an endpoint with a stride. -/
def epRowStart (e : Dword) (stride : Int) (i : Nat) : Int :=
  (if epIsMt e then (epOff e : Int) else (bits e 56 0 : Int)) + stride * i

/-- The check of an endpoint before any byte moves: 0, or BADARG or BUFCLS (R210). -/
def State.epCheck (s : State) (r : Region) (e : Dword) (len rows : Nat) (stride : Int) : Nat :=
  let ends := [epRowStart e stride 0, epRowStart e stride (rows - 1)]
  if epIsMt e then
    if bits e 62 57 ≠ 0 || bits e 56 48 ≠ 0 || bits e 31 30 ≠ 0 || bits e 27 26 ≠ 0 || bits e 15 10 ≠ 0 || epBuf e = 3 ||
       epOff e % 8 ≠ 0 || r.width ≤ epCol e || r.height ≤ epRow e || (epCol e + epRow e) % 2 = 0 then eBADARG
    else if epBuf e = bufY then eBUFCLS
    else
      let sz : Int := (s.tile (r.epTile e)).bufSize (epBuf e)
      if ends.all (fun o => decide (0 ≤ o) && decide (o + len ≤ sz)) then 0 else eBADARG
  else if bits e 62 57 ≠ 0 || e.toNat % 8 ≠ 0 then eBADARG
  else if ends.all (fun o => decide (0 ≤ o) && decide (o + len ≤ 2 ^ 57)) then 0 else eBADARG

/-- The check of a copy before any byte moves (R209, R210). -/
def State.copyCheck (s : State) (r : Region) (c : Copy) : Nat :=
  let lenOk := c.len % 8 == 0 && decide (8 ≤ c.len) && decide (c.len ≤ (if c.form = 1 then 65536 else 2 ^ 31))
  let rowsOk := decide (1 ≤ c.rows) && decide (c.rows ≤ 65535)
  if !(lenOk && rowsOk && decide (c.sstride % 8 = 0) && decide (c.dstride % 8 = 0)) then eBADARG
  else
    let dec := c.dec && !epIsMt c.src
    let a := s.epCheck r c.src (if dec then 8 else c.len) c.rows c.sstride
    if a ≠ 0 then a else s.epCheck r c.dst c.len c.rows c.dstride

/-! ### Descriptors (R209) -/

/-- The copy a descriptor's bytes give, and whether its FLAGS and zero fields are in order. -/
def copyOfDesc (c : Copy) (b : List Byte) : Copy × Bool :=
  let two := c.form == 1
  ({ c with desc := none, src := w (fieldAt b 0 8), dst := w (fieldAt b 8 8), len := fieldAt b 16 4
            dec := (fieldAt b 20 4).testBit 0, rows := if two then fieldAt b 24 4 else 1
            sstride := if two then snat 64 (fieldAt b 32 8) else 0, dstride := if two then snat 64 (fieldAt b 40 8) else 0 },
   fieldAt b 20 4 / 2 == 0 && zeroAt b 28 32 && (two || zeroAt b 24 28) && (!two || zeroAt b 48 64))

/-- A copy whose checks have been made: its status is set where it moves nothing (R210). -/
def State.copyStart (s : State) (rn : Nat) (c : Copy) (ok : Bool) : Copy :=
  match s.region? rn with
  | none => c
  | some r => { c with status := if ok then s.copyCheck r c else eBADARG }

/-- The descriptor read of a copy, as a SEQ access: it waits behind the sequencer's own earlier accesses to its words (R207); a fault
withholds it with the copy holding its slot (R209). -/
def State.copyRead (s : State) (rn i : Nat) : State :=
  match s.region? rn with
  | none => s
  | some r =>
    match r.seq.copies.find i with
    | none => s
    | some c =>
      match c.desc with
      | none => s
      | some da =>
        if s.isHeld r.part (.copy rn i) || accBlocked r.seq.acc c.ord da.toNat (da.toNat + descBytes c.form) then s
        else
          match s.rread rn da.toNat (descBytes c.form) with
          | .error (_, f) => s.withholdX rn (.copy rn i) 1 rn c.pc f false da.toNat
          | .ok b =>
            let (c', ok) := copyOfDesc c b
            (s.touch rn da.toNat (descBytes c.form)).modSeq rn (fun q => { q with copies := q.copies.put i (s.copyStart rn c' ok) })

/-- The lowest free copy slot of sixteen. -/
def Seq.freeCopy (q : Seq) : Option Nat := (List.range 16).find? (fun i => (q.copies.find i).isNone)

/-- A copy before its descriptor is read. -/
def newCopy (form : Nat) (d : Reg) (q : Seq) : Copy :=
  { form := form, desc := none, src := 0, dst := 0, len := 0, rows := 1, sstride := 0, dstride := 0, dec := false, done := 0
    status := 0, reg := d, pc := q.pc, ord := q.opNo, raw := [], buf := [], off := 0 }

/-- A copy issued into a slot, D empty (R209, R210). -/
def State.copyIssue (s : State) (d : Reg) (i : Nat) (c : Copy) : State :=
  s.modSeq s.curSeq (fun q => { (q.clear d) with copies := q.copies.put i c, pc := q.pc + 4, opNo := q.opNo + 1 })

/-- CPY and CPY2: waits for a slot; OPND for D of s0 or a misaligned descriptor, ACCESS for one beyond 57 bits (R209). -/
def State.cpyDesc (s : State) (form : Nat) (d : Reg) (a : Src) : State :=
  s.issue [a] (some d) (fun r s =>
    let da := r.src a
    match r.seq.freeCopy with
    | none => s
    | some i =>
      if d = 0 then s.trapNow fOPND
      else if bits da 63 57 ≠ 0 then s.trapNow fACCESS
      else if da.toNat % (if form = 1 then 64 else 32) ≠ 0 then s.trapNow fOPND
      else (s.copyIssue d i { newCopy form d r.seq with desc := some da }).copyRead s.curSeq i)

/-- CPY (R209). -/
def execCpy (d : Reg) (a : Src) (s : State) : Host.Outcome State Fault Refusal := .next (s.cpyDesc 0 d a)
/-- CPY2 (R209). -/
def execCpy2 (d : Reg) (a : Src) (s : State) : Host.Outcome State Fault Refusal := .next (s.cpyDesc 1 d a)

/-- CPYI: n units of 64 bytes between two endpoints (R209). -/
def execCpyi (d : Reg) (a b : Src) (n : BitVec 9) (s : State) : Host.Outcome State Fault Refusal :=
  .next (s.issue [a, b] (some d) (fun r s =>
    match r.seq.freeCopy with
    | none => s
    | some i =>
      if d = 0 || n = 0 then s.trapNow fOPND
      else
        let c := { newCopy 2 d r.seq with src := r.src a, dst := r.src b, len := 64 * n.toNat }
        s.copyIssue d i (s.copyStart s.curSeq c true)))

/-! ### Beats (R210, R211) -/

/-- All bytes of a copy. -/
def Copy.total (c : Copy) : Nat := c.len * c.rows

/-- Whether a copy has ended: its status is set, or every byte is done. -/
def Copy.ended (c : Copy) : Bool := c.desc.isNone && (c.status != 0 || decide (c.total ≤ c.done))

/-- The pieces of n bytes of a copy from byte d on, one for each row they lie in: row, place in the row, and bytes. -/
def copyPieces (len : Nat) : Nat → Nat → Nat → List (Nat × Nat × Nat)
  | 0, _, _ => []
  | fuel + 1, d, n =>
    if n = 0 then []
    else
      let k := min n (len - d % len)
      (d / len, d % len, k) :: copyPieces len fuel (d + k) (n - k)

/-- Bytes of the next beat of a copy: 64, or what is left at its end (R210). -/
def Copy.beatLen (c : Copy) : Nat := min 64 (c.total - c.done)

/-- The pieces of the next beat of a copy, which goes on into the next row where a row ends in it (R211, R417). -/
def Copy.pieces (c : Copy) : List (Nat × Nat × Nat) := copyPieces c.len 9 c.done c.beatLen

/-- The check of an MT endpoint at a beat, against the BANKMAP in force (R210). -/
def State.beatCheck (s : State) (r : Region) (e : Dword) (x : Int) (n : Nat) : Nat :=
  if !epIsMt e then 0
  else
    let t := s.tile (r.epTile e)
    if epBuf e = bufY then eBUFCLS
    else if 0 ≤ x ∧ t.bufIn (epBuf e) x.toNat n then 0 else eBADARG

/-- The bytes of decoded units of a row, from where its walk stands, until n bytes are gathered (R345). What a decoding copy stores of a unit
is its data bytes, without header, norm or tag, and of an ATTN slot that holds no token nothing (DESIGN CHOICE; notes/assumptions 44). -/
def State.gather (s : State) (x : Xlate) (sh : Nat → Nat) : Nat → Nat → Nat → List Byte → Except (Nat × XFault) (List Byte × Nat)
  | 0, va, _, acc => .ok (acc, va)
  | fuel + 1, va, n, acc =>
    if n ≤ acc.length then .ok (acc, va)
    else
      match s.decUnit x sh va with
      | .error f => .error (va, f)
      | .ok u => gather s x sh fuel u.next n (if u.live then acc ++ u.data else acc)

/-- The check of the endpoints of a beat: 0, or the code of the first that fails (R210). -/
def State.beatCode (s : State) (r : Region) (c : Copy) : Nat :=
  (c.pieces.flatMap fun (row, pos, n) =>
    [s.beatCheck r c.src (epRowStart c.src c.sstride row + pos) n, s.beatCheck r c.dst (epRowStart c.dst c.dstride row + pos) n]).find?
      (fun e => e != 0) |>.getD 0

/-- The bytes of a piece from its source; a fault gives its address. The second part is what a decoded walk keeps. -/
def State.copyPiece (s : State) (rn : Nat) (r : Region) (c : Copy) (row pos n : Nat) : Except (Nat × XFault) (List Byte × List Byte × Nat) :=
  let start := epRowStart c.src c.sstride row
  if epIsMt c.src then .ok ((s.tile (r.epTile c.src)).bufRead (epBuf c.src) (start.toNat + pos) n, [], 0)
  else if c.dec then
    let va := if pos = 0 then start.toNat else c.off
    let buf := if pos = 0 then [] else c.buf
    (s.gather (s.rgXlate r) r.shadowed 300 va n buf).map (fun g => (g.1.take n, g.1.drop n, g.2))
  else
    match s.rread rn (start.toNat + pos) n with
    | .error (o, f) => .error (start.toNat + pos + o, f)
    | .ok bs => .ok (bs, [], 0)

/-- The bytes of the pieces of a beat from their source. -/
def State.copySrc (s : State) (rn : Nat) (r : Region) : Copy → List (Nat × Nat × Nat) → Except (Nat × XFault) (List Byte × List Byte × Nat)
  | c, [] => .ok ([], c.buf, c.off)
  | c, (row, pos, n) :: t =>
    match s.copyPiece rn r c row pos n with
    | .error f => .error f
    | .ok (bs, buf, off) =>
      match State.copySrc s rn r { c with buf := buf, off := off } t with
      | .error f => .error f
      | .ok (rest, buf, off) => .ok (bs ++ rest, buf, off)

/-- The bytes of a beat written to the places of its pieces; none where a shadow of an in-place period has to wait. -/
def State.copyDst (rn : Nat) (r : Region) (c : Copy) : State → List (Nat × Nat × Nat) → List Byte → Except (Nat × XFault) (Option State)
  | s, [], _ => .ok (some s)
  | s, (row, pos, n) :: t, bs =>
    let x := (epRowStart c.dst c.dstride row + pos).toNat
    if epIsMt c.dst then State.copyDst rn r c (s.modTile (r.epTile c.dst) (fun t => t.bufPut (epBuf c.dst) x (bs.take n))) t (bs.drop n)
    else
      match s.rwrite rn x (bs.take n) with
      | .error (o, f) => .error (x + o, f)
      | .ok none => .ok none
      | .ok (some s) => State.copyDst rn r c s t (bs.drop n)

/-- What a fault does to a copy: a page fault withholds it, a permission or format fault ends it with PGFLT (R210). -/
def State.copyFault (s : State) (rn i : Nat) (c : Copy) (f : XFault) (write : Bool) (va : Nat) : State :=
  if f.kind == .page then s.withholdX rn (.copy rn i) 1 rn c.pc f write va
  else s.modSeq rn (fun q => { q with copies := q.copies.put i { c with status := ePGFLT } })

/-- Whether every copy issued before one has started: it has moved a beat, ended, or had its first beat withheld (R211). -/
def State.mayStart (s : State) (rn : Nat) (r : Region) (c : Copy) : Bool :=
  decide (0 < c.done) ||
  r.seq.copies.all (fun x => decide (c.ord ≤ x.2.ord) ||
    (x.2.desc.isNone && (decide (0 < x.2.done) || x.2.ended || s.isHeld r.part (.copy rn x.1))))

/-- The granules that a beat of a copy has used at its memory endpoints. -/
def State.copyUses (s : State) (rn : Nat) (c : Copy) : State :=
  c.pieces.foldl (fun s x =>
    let one (s : State) (e : Dword) (stride : Int) : State :=
      if epIsMt e then s else s.touch rn (epRowStart e stride x.1 + x.2.1).toNat x.2.2
    one (one s c.src c.sstride) c.dst c.dstride) s

/-- The first address of the next beat's memory pieces that is below the least privilege of what stands there, and whether the beat writes
it (R12). -/
def State.copyDenied (s : State) (rn : Nat) (c : Copy) : Option (Nat × Bool) :=
  c.pieces.findSome? (fun x =>
    let one (e : Dword) (stride : Int) (write : Bool) : Option (Nat × Bool) :=
      if epIsMt e then none else (s.rgDenied rn (epRowStart e stride x.1 + x.2.1).toNat x.2.2 write).map (fun a => (a, write))
    (one c.src c.sstride false).or (one c.dst c.dstride true))

/-- A beat of a copy is performed, all of it or nothing (R210); copies start in issue order (R211). One below the least privilege of what
it names moves nothing and ends the copy with PRIV (R12, R143). -/
def State.copyBeat (s : State) (rn i : Nat) : State :=
  match s.region? rn with
  | none => s
  | some r =>
    match r.seq.copies.find i with
    | none => s
    | some c =>
      if c.desc.isSome then s.copyRead rn i
      else if c.ended || s.isHeld r.part (.copy rn i) || !s.mayStart rn r c then s
      else if s.beatCode r c ≠ 0 then
        s.modSeq rn (fun q => { q with copies := q.copies.put i { c with status := s.beatCode r c } })
      else
        match s.copySrc rn r c c.pieces with
        | .error (va, f) => s.copyFault rn i c f false va
        | .ok (bs, buf, off) =>
          match State.copyDst rn r c s c.pieces bs with
          | .error (va, f) => s.copyFault rn i c f true va
          | .ok none => s
          | .ok (some t) =>
            match s.copyDenied rn c with
            | some (va, write) =>
              (s.rgPriv rn 1 rn c.pc va write).modSeq rn (fun q => { q with copies := q.copies.put i { c with status := ePRIV } })
            | none => (t.copyUses rn c).modSeq rn (fun q => { q with copies := q.copies.put i { c with done := c.done + c.beatLen, buf := buf, off := off } })

/-- COPY_BEAT: the copy in slot i moves one beat (R210). Copies move while the region runs or drains (R410, R411). -/
def execCopyBeat (rn i : Nat) (s : State) : Host.Outcome State Fault Refusal :=
  .next (if s.runs rn then s.copyBeat rn i else s)

/-- Whether a copy's memory endpoint touches the bytes from lo to hi (not included): a row of it, or the place a decoded walk stands at. -/
def Copy.touches (c : Copy) (lo hi : Nat) : Bool :=
  let rows (e : Dword) (stride : Int) (n : Nat) : Bool :=
    !epIsMt e && (List.range c.rows).any (fun i =>
      decide (epRowStart e stride i < hi) && decide ((lo : Int) < epRowStart e stride i + n))
  rows c.src c.sstride c.len || rows c.dst c.dstride c.len || (c.dec && decide (lo ≤ c.off) && decide (c.off < hi))

/-- The copies of a partition's sequencers that touch the bytes of a revoked object stop before their next beat with STATUS REVOKED
(R210, R422). -/
def State.revokeCopies (s : State) (p lo hi : Nat) : State :=
  { s with regions := s.regions.map (fun (x : Nat × Region) =>
      if x.2.part == p then
        (x.1, { x.2 with seq := { x.2.seq with copies := x.2.seq.copies.map (fun (y : Nat × Copy) =>
          if !y.2.ended && y.2.desc.isNone && y.2.touches lo hi then (y.1, { y.2 with status := eREVOKED }) else y) } })
      else x) }

/-- The token word of a copy (R210). -/
def tokenWord (status bytes : Nat) : Dword := w (status * 2 ^ 48 + bytes % 2 ^ 48)

/-- Every copy that has ended has filled its register: an image has no place for a copy with nothing left to do (R234, R417). -/
def Seq.deliver (q : Seq) : Seq :=
  let q' := (q.copies.filter (fun x => x.2.ended)).foldl (fun (a : Seq) x => a.set x.2.reg (tokenWord x.2.status x.2.done)) q
  { q' with copies := q.copies.filter (fun x => !x.2.ended) }

/-- COPY_COMPLETE: a copy that has ended fills its register with its token (R210). -/
def execCopyComplete (rn i : Nat) (s : State) : Host.Outcome State Fault Refusal :=
  .next (match s.region? rn with
    | none => s
    | some r =>
      match r.seq.copies.find i with
      | none => s
      | some c =>
        if c.ended && (r.active || r.state == .freezing) then
          s.modSeq rn (fun q => { (q.set c.reg (tokenWord c.status c.done)) with copies := q.copies.del i })
        else s)

end Sys2Proof.Machine
end

