-- ==== Sys2Proof/Machine/SeqMem.lean ====
section
/-! DEFINITION. Scalar loads and stores of the graph sequencer (R206, R207). -/

namespace Sys2Proof.Machine

open Sys2Proof.Config

/-- A scalar access is performed: a load fills its register, a store is written; a fault withholds it at the EMP of the
sequencer's chiplet (R206). It waits behind an earlier access to its word, the read of a copy's descriptor among them (R207, R209). One below
the least privilege of what it names has no effect there, and the register of a load receives no data of it but a free value (R12). -/
def State.perform (s : State) (rn k : Nat) : State :=
  match s.region? rn with
  | none => s
  | some r =>
    match r.seq.acc.find k with
    | none => s
    | some a =>
      if accBlocked r.seq.acc k a.va.toNat (a.va.toNat + 1) || descBlocked r.seq.copies k a.va.toNat || s.isHeld r.part (.seqAccess rn k) then s
      else if a.store then
        match s.rwrite rn a.va.toNat (leBytes a.data.toNat a.size) with
        | .error (_, f) => s.withholdX rn (.seqAccess rn k) 1 rn a.pc f true a.va.toNat
        | .ok none => s
        | .ok (some t) =>
          if (s.rgDenied rn a.va.toNat a.size true).isSome then
            (s.rgPriv rn 1 rn a.pc a.va.toNat true).modSeq rn (fun q => { q with acc := q.acc.del k })
          else (t.touch rn a.va.toNat a.size).modSeq rn (fun q => { q with acc := q.acc.del k })
      else
        match s.rread rn a.va.toNat a.size with
        | .error (_, f) => s.withholdX rn (.seqAccess rn k) 1 rn a.pc f false a.va.toNat
        | .ok bs =>
          let v : Dword := if a.size = 4 then (w (leNat bs) : Word).signExtend 64 else w (leNat bs)
          if (s.rgDenied rn a.va.toNat a.size false).isSome then
            let u : Dword := freeWord s.freeCtr ++ freeWord (s.freeCtr + 1)
            ({ s with freeCtr := s.freeCtr + 2 }.rgPriv rn 1 rn a.pc a.va.toNat false).modSeq rn (fun q => { (q.set a.reg u) with acc := q.acc.del k })
          else (s.touch rn a.va.toNat a.size).modSeq rn (fun q => { (q.set a.reg v) with acc := q.acc.del k })

/-- Why a scalar access traps at issue, if it does: bits 63:57 non-zero, or misaligned (R202, R206). -/
def accTrap (va : Dword) (size : Nat) : Option Nat :=
  if bits va 63 57 ≠ 0 then some fACCESS else if va.toNat % size ≠ 0 then some fMISAL else none

/-- A load at issue: D is empty until the data arrives (R206). -/
def State.seqLoad (s : State) (size : Nat) (d : Reg) (a : Src) (imm : BitVec 15) : State :=
  s.issue [a] (some d) (fun r s =>
    let va := effAddr (r.src a) imm
    match accTrap va size with
    | some c => s.trapNow c
    | none =>
      s.modSeq s.curSeq (fun q => { (q.clear d) with
        pc := q.pc + 4, opNo := q.opNo + 1
        acc := q.acc.put q.opNo { store := false, reg := d, va := va, size := size, data := 0, pc := q.pc } }))

/-- A store at issue: posted, and performed at once unless it faults or an earlier access to its word is outstanding (R206,
R207). -/
def State.seqStore (s : State) (size : Nat) (b a : Src) (imm : BitVec 14) : State :=
  s.issue [b, a] none (fun r s =>
    let va := effAddr (r.src a) imm
    match accTrap va size with
    | some c => s.trapNow c
    | none =>
      let k := r.seq.opNo
      let s := s.modSeq s.curSeq (fun q => { q with
        pc := q.pc + 4, opNo := q.opNo + 1
        acc := q.acc.put q.opNo { store := true, reg := 0, va := va, size := size, data := r.src b, pc := q.pc } })
      s.perform s.curSeq k)

/-- LD: 8 bytes (R206). -/
def execLd (d : Reg) (a : Src) (imm : BitVec 15) (s : State) : Host.Outcome State Fault Refusal := .next (s.seqLoad 8 d a imm)
/-- LW: 4 bytes, sign-extended (R206). -/
def execLw (d : Reg) (a : Src) (imm : BitVec 15) (s : State) : Host.Outcome State Fault Refusal := .next (s.seqLoad 4 d a imm)
/-- ST: 8 bytes of B (R206). -/
def execSt (b a : Src) (imm : BitVec 14) (s : State) : Host.Outcome State Fault Refusal := .next (s.seqStore 8 b a imm)
/-- SW: B[31:0] (R206). -/
def execSw (b a : Src) (imm : BitVec 14) (s : State) : Host.Outcome State Fault Refusal := .next (s.seqStore 4 b a imm)

/-- SEQ_LOAD_FILL: the outstanding access of number k is performed, a load's data filling its register (R206). A frozen region's
fills are held in its registers (R234); a STOPPED one performs none. -/
def execSeqLoadFill (rn k : Nat) (s : State) : Host.Outcome State Fault Refusal :=
  .next (match s.region? rn with
    | some r => if r.active || r.state == .freezing then s.perform rn k else s
    | none => s)

end Sys2Proof.Machine
end

