-- ==== Sys2Proof/Machine/SeqPhase.lean ====
section
/-! DEFINITION. Phase control of the graph sequencer: CFG, ARM, FORK, RDV, PUNCT, BARR, SNUF, and PROF (R213-R221, R231,
R441-R443). -/

namespace Sys2Proof.Machine

/-! ### CFG (R214) -/

/-- An install before its first word. -/
def newInstall (full byCfg : Bool) (va : Dword) (count : Nat) (xl : Xlate) (result : Dword) (d : Reg) (pc : Nat) : Install :=
  { full := full, byCfg := byCfg, va := va, count := count, next := 0, xl := xl, result := result, reg := d, pc := pc
    begun := false, ended := false, version := 0, win := none, section_ := 0, hi := none, esc := false
    crcHi := none, crcEsc := none, touched := [] }

/-- CFG: a partial install of B words at A into the sequencer's own region, D empty until it ends; OPND for an A that is not
4-aligned or a B outside 1 to 2^28; it waits for the CFG slot (R199, R213, R214). -/
def execCfg (d : Reg) (a b : Src) (s : State) : Host.Outcome State Fault Refusal :=
  .next (s.issueRunning [a, b] (some d) (fun r s =>
    let va := r.src a
    let n := (r.src b).toNat
    if r.inst.isSome then s
    else if va.toNat % 4 ≠ 0 || n = 0 || 2 ^ 28 < n then s.trapNow fOPND
    else
      let s := s.modRegion s.curSeq fun g => { g with
        inst := some (newInstall false true va n (s.rgXlate r) 0 d r.seq.pc) }
      s.modSeq s.curSeq (fun q => { (q.clear d) with cfgReg := some d, pc := q.pc + 4 })))

/-! ### ARM, FORK, RDV (R215-R217) -/

/-- The classes of an element that hold no valid rule: they report done at FORK (R256). -/
def Tile.emptyClasses (t : Tile) (ct : Bool) : BitVec 3 :=
  w (b2n (!t.hasRule ct 0) + 2 * b2n (!t.hasRule ct 1) + 4 * b2n (!t.hasRule ct 2))

/-- Passes added to an element: a class that holds rules, and had reported done because its passes had expired, goes on (R215, R216, R257). -/
def Tile.arm (t : Tile) (ct : Bool) (n : Nat) : Tile :=
  { t with passc := t.passc + n, doneCls := t.doneCls &&& (2 ||| t.emptyClasses ct) }

/-- ARM: B passes to every element of section A (R213, R215). -/
def execArm (a b : Src) (s : State) : Host.Outcome State Fault Refusal :=
  .next (s.issueRunning [a, b] none (fun r s =>
    let sec := (r.src a).toNat
    let n := (r.src b).toNat
    let els := s.section_ r sec
    if 255 < sec || n = 0 || 2 ^ 32 ≤ n || els.isEmpty then s.trapNow fOPND
    else if els.any (fun t => decide (2 ^ 32 ≤ (s.tile t).passc + n)) then s.trapNow fOPND
    else if !(els.all (fun t => (s.tile t).fld 0xF0 == (s.tile (els.headD 0)).fld 0xF0)) then s.trapNow fVERMIS
    else (s.modTiles els (fun n' t => t.arm (isCt n') n)).seqNext))

/-- A class set started in an element: classes already running are left; the others run afresh, a pattern-stream class with its
descriptors at their first elements (R216, R360). -/
def Tile.fork (t : Tile) (ct : Bool) (m : BitVec 3) : Tile :=
  let fresh := m &&& ~~~t.forked
  let t := { t with forked := t.forked ||| m, doneCls := (t.doneCls &&& ~~~fresh) ||| (fresh &&& t.emptyClasses ct) }
  if fresh.getLsbD 1 then { t with pats := List.replicate 4 { i0 := 0, i1 := 0, i2 := 0, i3 := 0, exhausted := false } } else t

/-- The stream rule whose descriptor FORK refuses, and its trap: Y is BUFCLS, an ESIZE of 128 bytes BUFRNG (R335, R361). -/
def Tile.forkTrap (t : Tile) : Option (Nat × Nat) :=
  (List.range 16).findSome? fun i =>
    if actV (t.actionW i) && isStreamOp (opOpc (t.opW i)) then
      let w0 := t.fld (0x40 + 8 * opDesc (t.opW i))
      if bits w0 17 16 = bufY then some (i, fBUFCLS) else if bits w0 19 18 = 3 then some (i, fBUFRNG) else none
    else none

/-- FORK: the classes of the mask start in every element of section A (R216). -/
def execFork (a : Src) (m : BitVec 3) (s : State) : Host.Outcome State Fault Refusal :=
  .next (s.issueRunning [a] none (fun r s =>
    let sec := (r.src a).toNat
    let els := s.section_ r sec
    let m := if m = 0 then 7 else m
    if 255 < sec || els.all (fun t => (s.tile t).passc == 0) then s.trapNow fOPND
    else
      let c := (r.sects.find sec).getD { forked := 0, forkCycle := none, firstEnd := none, lastEnd := 0 }
      let s := s.modRegion s.curSeq fun g => { g with
        sects := g.sects.put sec { c with forked := c.forked ||| m, forkCycle := some g.cycles, firstEnd := none } }
      let starts := els.filter (fun t => m.getLsbD 1 && !(s.tile t).forked.getLsbD 1 && !isCt t)
      let s := s.modTiles els (fun n t => t.fork (isCt n) m)
      let s := starts.foldl (fun s n =>
        match (s.tile n).forkTrap with
        | some (i, code) => s.elemTrap n code i 0 0 [] [0, 0, 0, 0]
        | none => s) s
      (s.sectSpent r sec).seqNext))

/-- Whether a section is done, and its glow updates are applied (R216, R325). -/
def State.sectDone (s : State) (r : Region) (a : Nat) : Bool :=
  (s.section_ r a).all (fun n => (s.tile n).allDone && (s.tile n).glow.isEmpty)

/-- The four counts of a phase at the completion of an RDV of a section (R442). -/
def Region.phaseCounts (r : Region) (a : Nat) : List Nat :=
  let now := r.cycles
  let load := r.cfgLoad + (match r.cfgFrom with | some f => now - max f r.phaseStart | none => 0)
  match r.sects.find a with
  | some c =>
    match c.forkCycle with
    | some f =>
      match c.firstEnd with
      | some e => [load, e - f, c.lastEnd - e, now - c.lastEnd]
      | none => [load, now - f, 0, 0]
    | none => [load, 0, 0, 0]
  | none => [load, 0, 0, 0]

/-- A phase count as logged: saturating at 0xFFFF_FFFF. -/
def satCount (x : Nat) : Nat := min x 0xFFFFFFFF

/-- A posted store of 8 bytes by the device for a sequencer (R443). -/
def State.postStore (s : State) (rn : Nat) (va v : Dword) : State :=
  match s.region? rn with
  | none => s
  | some r =>
    let k := r.seq.opNo
    let s := s.modSeq rn (fun q => { q with
      opNo := q.opNo + 1, acc := q.acc.put k { store := true, reg := 0, va := va, size := 8, data := v, pc := q.pc } })
    s.perform rn k

/-- The classes of an element met by a rendezvous: with the rules or the macros met its pass count is 0 (R216); passes armed and not
forked stay (R235, R257). -/
def Tile.meet (t : Tile) : Tile :=
  { t with forked := 0, doneCls := 0, passc := if t.forked &&& 5 = 0 then t.passc else 0 }

/-- The completion of an RDV: the phase is counted, traced and logged, and the section's classes are met (R217, R442, R443). -/
def State.phaseEnd (s : State) (rn a : Nat) : State :=
  match s.region? rn with
  | none => s
  | some r =>
    let cs := r.phaseCounts a
    let sat := cs.any (fun c => decide (0xFFFFFFFF < c))
    let cs := cs.map satCount
    let n := r.phase + 1
    let s := s.modTiles (s.section_ r a) (fun _ t => t.meet)
    let s := s.modRegion rn fun g => { g with
      phase := n, phaseStart := g.cycles, cfgLoad := 0, cfgFrom := g.cfgFrom.map (fun _ => g.cycles), prof := cs
      sects := (g.sects.del a).map (fun (x : Nat × Sect) => (x.1, { x.2 with forkCycle := none, firstEnd := none })) }
    let s := s.trace rn 2 (nth cs 0 0 + nth cs 1 0 * 2 ^ 32) (nth cs 2 0 + nth cs 3 0 * 2 ^ 32)
    let base := bits r.seq.profbase 56 6
    if base = 0 then s
    else
      let at_ := base * 64 + 32 * ((n - 1) % 2 ^ bits r.seq.profbase 3 0)
      let s := s.postStore rn (w at_) (w (n % 2 ^ 32 + a * 2 ^ 32 + b2n sat * 2 ^ 40))
      let s := s.postStore rn (w (at_ + 8)) (w (nth cs 0 0 + nth cs 1 0 * 2 ^ 32))
      let s := s.postStore rn (w (at_ + 16)) (w (nth cs 2 0 + nth cs 3 0 * 2 ^ 32))
      s.postStore rn (w (at_ + 24)) (w r.cycles)

/-- RDV: waits until section A is done, then completes; a section not forked since its last rendezvous completes at once (R217). -/
def execRdv (a : Src) (s : State) : Host.Outcome State Fault Refusal :=
  .next (s.issue [a] none (fun r s =>
    let sec := (r.src a).toNat
    if 255 < sec then s.trapNow fOPND
    else if (r.sects.find sec).isSome && !s.sectDone r sec then s
    else (s.phaseEnd s.curSeq sec).seqNext))

/-! ### PUNCT, BARR, SNUF (R219-R221) -/

/-- PUNCT (R219). -/
def execPunct (a : Src) (s : State) : Host.Outcome State Fault Refusal :=
  .next (s.issueRunning [a] none (fun r s =>
    ((selected (r.src a) (s.ports_ r 0)).foldl (fun s p => s.inject s.curSeq r p 2) s).seqNext))

/-- BARR: D is empty until the barrier has arrived at every egress port; a second one waits (R199, R220). -/
def execBarr (d : Reg) (a : Src) (s : State) : Host.Outcome State Fault Refusal :=
  .next (s.issueRunning [a] (some d) (fun r s =>
    if r.seq.barr.isSome then s
    else if d = 0 then s.trapNow fOPND
    else
      let ports := selected (r.src a) (s.ports_ r 0)
      let s : State := { s with ports := s.ports.map (fun (x : Nat × Port) =>
        if x.1 / 2048 == s.curSeq then (x.1, { x.2 with barrIn := false, barrOut := false }) else x) }
      let rnd := match ports.head? with | some p => (s.port (p.key s.curSeq)).round | none => 0
      let s := ports.foldl (fun s p => s.inject s.curSeq r p 3) s
      s.modSeq s.curSeq (fun q => { (q.clear d) with barr := some (d, rnd), pc := q.pc + 4 })))

/-- BARR_COMPLETE: with the barrier at every egress port, D fills with 0 (R220). -/
def execBarrComplete (rn : Nat) (s : State) : Host.Outcome State Fault Refusal :=
  .next (match s.region? rn with
    | none => s
    | some r =>
      match r.seq.barr with
      | none => s
      | some (d, _) =>
        if (r.active || r.state == .freezing) && (s.ports_ r 1).all (fun p => (s.port (p.key rn)).barrOut) then
          s.modSeq rn (fun q => { (q.set d 0) with barr := none })
        else s)

/-- SNUF: the drain of the sequencer's own region starts, and the sequencer stops at its next word (R221). -/
def execSnuf (s : State) : Host.Outcome State Fault Refusal :=
  .next (s.issueRunning [] none (fun _ s =>
    (s.modSeq s.curSeq (fun q => { q with pc := q.pc + 4, stopNext := true })).drain s.curSeq))

/-! ### PROF (R231) -/

/-- PROF: the region's cycle count, a count of the last phase, or the number of phases; n of 6 to 511 is ILLEG. -/
def execProf (d : Reg) (n : BitVec 9) (s : State) : Host.Outcome State Fault Refusal :=
  .next (s.issue [] (some d) (fun r s =>
    if n = 0 then s.seqResult d (w r.cycles)
    else if n.toNat ≤ 4 then s.seqResult d (w (nth r.prof (n.toNat - 1) 0))
    else if n = 5 then s.seqResult d (w r.phase)
    else s.trapNow fILLEG))

end Sys2Proof.Machine
end

