-- ==== Sys2Proof/Machine/ImageSave.lean ====
section
/-! DEFINITION. The bytes of a context image (R414-R417), and the commit points that journal one (R424). What a context needs and the
format has no place for, the device keeps beside the image (`Kept`, notes/assumptions 29). -/

namespace Sys2Proof.Machine

open Sys2Proof.Config

/-! ### Pieces -/

/-- n zero bytes. -/
def zeros (n : Nat) : List Byte := List.replicate n 0

/-- Bytes extended with zeros to a length. -/
def padTo (n : Nat) (bs : List Byte) : List Byte := bs ++ zeros (n - bs.length)

/-- Bytes extended with zeros to a multiple of 64. -/
def pad64 (bs : List Byte) : List Byte := padTo ((bs.length + 63) / 64 * 64) bs

/-- The 72 bytes of a beat (R56). -/
def Beat.bytes (b : Beat) : List Byte := b.words18.flatMap (fun x => leBytes x.toNat 4)

/-- A location word (R416). -/
def locWord (place index pos sub : Nat) : Nat := place + index * 16 + pos * 256 + sub * 4096

/-- A beat entry (R416). -/
def beatEntry (x : Nat × Beat) : List Byte := leBytes x.1 4 ++ zeros 4 ++ x.2.bytes

/-! ### Beat lists (R416) -/

/-- The beats of a FIFO with their locations. -/
def fifoBeats (place index : Nat) (l : List Beat) : List (Nat × Beat) := l.zipIdx.map (fun x => (locWord place index x.2 0, x.1))

/-- The beats of a tile's own FIFOs, delay lines, lane registers and express buffers. -/
def Tile.beats (t : Tile) : List (Nat × Beat) :=
  (List.range 4).flatMap (fun c => fifoBeats 0 c (nth t.inF c [])) ++
  (List.range 4).flatMap (fun c => fifoBeats 1 c (nth t.outF c [])) ++
  (List.range 4).flatMap (fun c => (nth t.dly c []).zipIdx.filterMap (fun x => x.1.map (fun b => (locWord 2 c x.2 0, b)))) ++
  t.lanes.map (fun x => (locWord 3 (x.1 / 2) (x.1 % 2) 0, x.2.beat)) ++
  t.xbuf.flatMap (fun x => x.2.zipIdx.map (fun y => (locWord 4 (x.1 / 4) (x.1 % 4) y.2, y.1.beat)))

/-- The markers that wait behind a withheld token of a port, as the beats they enter as: each end-of-round marker advances the round. -/
def Port.markBeats (p : Port) : List Beat :=
  (p.marks.foldl (fun (x : List Beat × BitVec 8) k => (x.1 ++ [markBeat k.toNat x.2], if k = 2 then x.2 + 1 else x.2)) ([], p.round)).1

/-- The beats that stand in the reply buffer of a port, with those that have come over its link and wait behind them (R455). -/
def State.replyBeats (s : State) (p : Port) (incarn : Half) : List Beat :=
  (p.reply.filter (fun x => x.1 == incarn)).map (·.2) ++
    (match p.linkIn with | some l => (s.ak l.aport).slots.get l.chan [] | none => [])

/-- The beats of the EMP buffers of a tile's attachments: replies with the attachment that receives them, requests, and the beats not yet
sent over a link, with the one that sends them. Markers that wait behind a withheld token stand at the head of the channel's request FIFO, from which they go to the
reply side after it (R344, R412, notes/assumptions 29). -/
def State.portBeats (s : State) (rn : Nat) (r : Region) (n : Nat) : List (Nat × Beat) :=
  ((s.tile n).attach n 0).flatMap (fun a =>
    let p := s.port (a.key rn)
    fifoBeats 5 a.a (s.replyBeats p r.incarn) ++
    (if (s.attachOf r a.emp a.ch 1).isNone then fifoBeats 6 a.a p.markBeats else [])) ++
  ((s.tile n).attach n 1).flatMap (fun a =>
    let p := s.port (a.key rn)
    fifoBeats 5 a.a p.egress ++ fifoBeats 6 a.a (p.markBeats ++ p.reqF))

/-! ### Element records (R415) -/

/-- KIND of a tile. -/
def State.recKind (s : State) (n : Nat) : Nat := if s.lostAt n then 3 else if s.fusedAt n then 2 else if isCt n then 0 else 1

/-- The header and the configuration fields of a record of a length. -/
def Tile.recHead (t : Tile) (kind len nbeat : Nat) : List Byte :=
  leBytes kind 1 ++
  leBytes (b2n t.enabled + 2 * b2n t.trap.isSome + 4 * t.forked.toNat) 1 ++
  leBytes (match t.trap with | some c => c.toNat | none => 0) 2 ++ leBytes len 4 ++ leBytes nbeat 4 ++
  leBytes t.st.toNat 1 ++ leBytes t.preds.toNat 1 ++ leBytes t.ernd.toNat 1 ++ leBytes t.empty.toNat 1 ++
  leBytes t.passc 4 ++ leBytes t.status.toNat 4 ++ leBytes t.treg.toNat 4 ++ leBytes t.iskip.toNat 4 ++
  (List.range 4).flatMap (fun i => leBytes (nth t.kmask i 0).toNat 2) ++
  leBytes ((List.range 4).map (fun i => b2n (nth t.latch i none).isSome * 2 ^ i)).sum 1 ++ zeros 3 ++
  (List.range 4).flatMap (fun i => leBytes ((nth t.latch i none).getD 0).toNat 4) ++
  zeros 4 ++
  (List.range 256).flatMap (fun f => leBytes (t.fld f).toNat 4)

/-- The entry of a glow update. -/
def Glow.bytes16 (g : Glow) : List Byte := leBytes g.handle.toNat 4 ++ leBytes g.slot.toNat 4 ++ leBytes g.weight.toNat 4 ++ zeros 4

/-- The tile-state block of a CT. -/
def Tile.ctBlock (t : Tile) : List Byte :=
  (List.range 4).flatMap (fun i => (nth t.d i []).flatMap (fun x => leBytes x.toNat 4)) ++
  (List.range 2).flatMap (fun i => (nth t.h i []).flatMap (fun x => leBytes x.toNat 2)) ++
  (List.range 2).flatMap (fun i => leBytes (nth t.dim i 0) 2) ++ (List.range 2).flatMap (fun i => leBytes (nth t.n i 0).toNat 2) ++
  padTo 56 (leBytes t.glow.length 8) ++ padTo 1024 (t.glow.flatMap Glow.bytes16)

/-- The units an operation has performed: an ACQN that has its answer, 1 and the code above it; any other, the lanes done. -/
def MtOp.done8 (o : MtOp) : Nat :=
  if opOpc o.op = 0x1C then (if o.done then 1 + ((nth o.reply 0 none).getD 0).toNat * 2 ^ 16 else 0) else o.progress

/-- An outstanding operation: its word, its progress, its heads. -/
def MtOp.entry (o : MtOp) : List Byte :=
  let idle : Beat := { kind := 0, rnd := 0, tag := 0, valid := 0, lanes := lanesOf (fun _ => 0) }
  leBytes o.op.toNat 8 ++ leBytes o.done8 8 ++ (o.ich.getD idle).bytes ++ (o.dch.getD idle).bytes

/-- The outstanding operations of an MT, in the order they fired, those waiting on a macro unit among them (R388). -/
def Tile.outstanding (t : Tile) : List MtOp :=
  (t.ops ++ t.units.flatMap (·.waiting)).mergeSort (fun a b => decide (a.seqNo ≤ b.seqNo))

/-- The 1,024 bytes of a macro tile's state. -/
def MacTile.stateBytes (m : MacTile) : List Byte :=
  (List.range 128).flatMap (fun i => [m.scale.get i 0x7F, m.spare.get i 0x80]) ++
  (List.range 512).map (fun i => w ((List.range 8).map (fun j => b2n (!m.dropped.contains (8 * i + j)) * 2 ^ j)).sum) ++
  padTo 256 [w (b2n m.e2b)]

/-- The tile-state block of an MT. -/
def Tile.mtBlock (t : Tile) : List Byte :=
  let tileOf (i : Nat) : MacTile := nth t.mac i { b := [], scale := [], spare := [], e2b := false, dropped := [] }
  (List.range 8).flatMap (fun i => leBytes (nth t.g i 0).toNat 4) ++
  t.pats.flatMap (fun p =>
    leBytes p.i0 2 ++ leBytes p.i1 2 ++ leBytes p.i2 2 ++ leBytes p.i3 2 ++ leBytes (b2n p.exhausted) 4 ++ zeros 4) ++
  padTo 64 (leBytes t.outstanding.length 4) ++ padTo 2592 (t.outstanding.flatMap MtOp.entry) ++
  (List.range 65536).map t.banks.get ++
  (List.range 4).flatMap (fun i => (List.range 4096).map (fun j => (tileOf i).b.get j 0)) ++
  (List.range 4).flatMap (fun i => (tileOf i).stateBytes)

/-- The record of a tile (R415). -/
def State.elemRecord (s : State) (rn : Nat) (r : Region) (n : Nat) : List Byte :=
  let t := s.tile n
  let kind := s.recKind n
  let bs := (t.beats ++ s.portBeats rn r n).mergeSort (fun a b => decide (a.1 ≤ b.1))
  let blk := if kind = 0 then t.ctBlock else if kind = 1 then t.mtBlock else []
  let len := (1088 + blk.length + 80 * bs.length + 63) / 64 * 64
  padTo len (t.recHead kind len bs.length ++ blk ++ bs.flatMap beatEntry)

/-! ### The sequencer block (R417) -/

/-- The sources and the destination of a sequencer instruction, as it waits for them (R199). -/
def seqOperands (i : Instr) : List Src × Option Reg :=
  match i with
  | .add d a b | .sub d a b | .and d a b | .or d a b | .xor d a b | .sll d a b | .srl d a b | .sra d a b | .slt d a b
  | .sltu d a b | .mul d a b | .mulhu d a b | .cfg d a b | .spawnRecord d a b | .spawnLaunch d a b | .acq d a b
  | .trim d a b | .cpyi d a b _ => ([a, b], some d)
  | .addi d a _ | .andi d a _ | .ori d a _ | .xori d a _ | .slti d a _ | .ld d a _ | .lw d a _ => ([a], some d)
  | .slli d a _ | .srli d a _ | .srai d a _ => ([a], some d)
  | .jr d a | .cpy d a | .cpy2 d a | .barr d a | .join d a | .rel d a => ([a], some d)
  | .beq a b _ | .bne a b _ | .blt a b _ | .bge a b _ | .bltu a b _ | .bgeu a b _ | .st a b _ | .sw a b _ => ([a, b], none)
  | .arm a b | .fencex a b => ([a, b], none)
  | .fork a _ | .rdv a | .punct a | .yield a | .trap a _ | .csrw a _ => ([a], none)
  | .waittAll d a | .waittAny d a => ([{ a with t := false }], some d)
  | .lui d _ | .prof d _ | .csrr d _ => ([], some d)
  | _ => ([], none)

/-- Whether an instruction waits for something other than its operands: a slot, posted stores, a section, the words that a drain holds
(R199, R208-R230). -/
def State.instrWaits (s : State) (r : Region) : Bool :=
  r.seq.acqWait.isSome ||
  (match r.instr with
   | .cfg .. => r.inst.isSome || r.why == 1
   | .arm .. | .fork .. | .punct .. | .snuf => r.why == 1
   | .barr .. => r.seq.barr.isSome || r.why == 1
   | .cpy .. | .cpy2 .. | .cpyi .. => (List.range 16).all (fun i => (r.seq.copies.find i).isSome)
   | .spawnRecord .. | .spawnLaunch .. | .join .. | .rel .. | .fencex .. => !r.seq.acc.isEmpty
   | .rdv a => (r.sects.find (r.src a).toNat).isSome && !s.sectDone r (r.src a).toNat
   | .retire | .yield _ => !(r.seq.full == 0xFFFFFFFF && r.seq.acc.isEmpty && r.sects.all (fun x => x.2.forked == 0 || s.sectDone r x.1))
   | .waittAll _ a => r.seq.fullMask (r.src a &&& 0xFFFFFFFE) != r.src a &&& 0xFFFFFFFE
   | .waittAny _ a => r.src a &&& 0xFFFFFFFE != 0 && r.seq.fullMask (r.src a &&& 0xFFFFFFFE) == 0
   | _ => false)

/-- The instruction word that waits at the PC, or 0. -/
def State.waitWord (s : State) (r : Region) : Nat :=
  let (srcs, dst) := seqOperands r.instr
  let waits := !srcs.any (fun x => !r.srcFull x && x.t) &&
    (srcs.any (fun x => !r.srcFull x) || (match dst with | some d => !r.seq.isFull d | none => false) || s.instrWaits r)
  match r.word with
  | some x => if waits then x.toNat else 0
  | none => 0

/-- A copy entry of 96 bytes. -/
def Copy.entry (c : Copy) : List Byte :=
  let desc := match c.desc with
    | some _ => []
    | none =>
      leBytes c.src.toNat 8 ++ leBytes c.dst.toNat 8 ++ leBytes c.len 4 ++ leBytes (b2n c.dec) 4 ++
      (if c.form = 1 then
        leBytes c.rows 4 ++ zeros 4 ++ leBytes (wi 64 c.sstride).toNat 8 ++ leBytes (wi 64 c.dstride).toNat 8 else [])
  padTo 96 (padTo 64 desc ++ leBytes c.done 8 ++ leBytes c.reg.toNat 1 ++ leBytes c.form 1)

/-- A hold entry of 16 bytes. -/
def holdEntry (handle : Nat) (h : SoHold) : List Byte :=
  leBytes handle 4 ++ leBytes (b2n h.excl + h.scope * 16) 4 ++ leBytes h.tag 4 ++ zeros 4

/-- The holds of a region with their handles, in ascending handle order. -/
def State.holdsOf (s : State) (rn : Nat) (r : Region) : List (Nat × SoHold) :=
  let P := s.part r.part
  (P.sos.flatMap (fun x => (x.2.holds.filter (fun h => h.who == .seq rn)).map (fun h => (P.handle tblSo x.1, h))))

/-- The sequencer block. -/
def State.seqBlockBytes (s : State) (rn : Nat) (r : Region) : List Byte :=
  let q := r.seq
  let copies := (q.copies.map (·.2)).mergeSort (fun a b => decide (a.ord ≤ b.ord))
  let holds := s.holdsOf rn r
  let cfg := match r.inst with
    | some i => if i.byCfg then leBytes i.va.toNat 8 ++ leBytes i.count 4 ++ leBytes i.next 4 ++ leBytes i.reg.toNat 4 else []
    | none => []
  pad64 (
    q.regs.flatMap (fun v => leBytes v.toNat 8) ++ leBytes q.full.toNat 4 ++ leBytes q.pc 4 ++ leBytes (s.waitWord r) 4 ++
    leBytes (b2n q.cfgReg.isSome + 2 * b2n q.barr.isSome + 65536 * copies.length) 4 ++
    q.scr.flatMap (fun v => leBytes v.toNat 8) ++ padTo 24 cfg ++
    (match q.barr with | some (d, rnd) => leBytes d.toNat 4 ++ leBytes rnd.toNat 4 | none => zeros 8) ++
    leBytes r.cycles 8 ++ leBytes q.profbase.toNat 8 ++ padTo 1536 (copies.flatMap Copy.entry) ++
    leBytes holds.length 4 ++ zeros 4 ++ holds.flatMap (fun x => holdEntry x.1 x.2))

/-! ### The edge block (R417) -/

/-- The 16 bytes of a withheld or unissued request. -/
def reqBytes (q : Option PortReq) : List Byte :=
  match q with
  | some q => leBytes q.va.toNat 8 ++ leBytes q.count 2 ++ leBytes q.op 1 ++ zeros 1 ++ leBytes q.next 4
  | none => zeros 16

/-- The indirect streams of a region that feed a channel, the one whose row stands open first. -/
def State.streamsAt (s : State) (rn emp ch : Nat) : List IStream :=
  let l := ((s.port (portKey rn emp ch)).streams ++ s.dies.flatMap (fun d => d.2.engines.map (·.2) ++ d.2.queue)).filter (fun i => i.feeds rn emp ch)
  l.filter (·.open_) ++ l.filter (fun i => !i.open_)

/-- The entry of an attachment. -/
def State.edgeEntry (s : State) (rn : Nat) (r : Region) (a : Attach) (egress : Bool) : List Byte :=
  let p := s.port (a.key rn)
  let q := if egress then p.cur <|> p.wr else none
  let i := if egress then none else (s.streamsAt rn a.emp a.ch).head?
  let flags := b2n (q.isSome && p.wait) + 2 * b2n (if egress then p.snuffOut else p.snuff) + 4 * b2n (if egress then p.barrOut else p.barrIn) +
    8 * b2n (q.isSome && !p.wait) + 16 * b2n i.isSome
  let strm := match i with
    | some i => padTo 64 i.block ++ leBytes i.next 4
    | none => zeros 68
  padTo 192 (
    leBytes (tileX a.tile - r.ocol) 2 ++ leBytes (tileY a.tile - r.orow) 2 ++ leBytes a.a 1 ++ leBytes flags 1 ++
    leBytes p.round.toNat 1 ++ zeros 1 ++ leBytes ((s.tile a.tile).fld (0xE4 + a.a)).toNat 4 ++ zeros 4 ++ reqBytes q ++ zeros 32 ++ strm)

/-! ### The image (R414) -/

/-- The header, but for CRC and VALIDW, from the places of the parts. -/
def State.imageHead (s : State) (r : Region) (len seqOff edgeOff : Nat) : List Byte :=
  let _ := s
  let c := r.run.getD { code := 0, frame := 0, join := 0, flags := 0 }
  padTo 240 (
    leBytes 0x49434456 4 ++ leBytes 1 2 ++ leBytes r.why 1 ++ leBytes (b2n (r.why == 5) + 2 * b2n (r.why == 1)) 1 ++
    leBytes r.width 2 ++ leBytes r.height 2 ++ leBytes r.version.toNat 2 ++ leBytes r.incarn.toNat 2 ++ leBytes r.ocol 2 ++
    leBytes r.orow 2 ++ leBytes (r.width * r.height) 4 ++ leBytes len 8 ++ c.plain.bytes ++ leBytes 256 8 ++ leBytes seqOff 8 ++
    leBytes edgeOff 8 ++ leBytes r.origq.toNat 4 ++ leBytes c.iidx 2 ++ leBytes c.istat 2)

/-- The image of a region's context, every copy that has ended having filled its register. -/
def State.imageBytes (s : State) (rn : Nat) (r : Region) : List Byte :=
  let r := { r with seq := r.seq.deliver }
  let elems := r.tiles.flatMap (s.elemRecord rn r)
  let seq := s.seqBlockBytes rn r
  let edge := (s.ports_ r 0).flatMap (fun a => s.edgeEntry rn r a false) ++ (s.ports_ r 1).flatMap (fun a => s.edgeEntry rn r a true)
  let body := elems ++ seq ++ edge
  let head := s.imageHead r (256 + body.length) (256 + elems.length) (256 + elems.length + seq.length)
  head ++ leBytes (crc32c (head ++ body)).toNat 4 ++ zeros 4 ++ leBytes 1 8 ++ body

/-- What the device keeps of a region's context. -/
def State.keptOf (s : State) (rn : Nat) (r : Region) : Kept :=
  { reg := { r with seq := r.seq.deliver }, tiles := (s.listed r).map (fun n => (n, s.tile n))
    ports := (s.ports_ r 0 ++ s.ports_ r 1).foldl (fun t a =>
      let p := s.port (a.key rn)
      Tbl.put t (a.ch + 4 * a.emp) { p with
        streams := s.streamsAt rn a.emp a.ch, reply := (s.replyBeats p r.incarn).map (fun b => (r.incarn, b)) }) [] }

/-- A context kept beside its image. -/
def State.keep (s : State) (rn : Nat) (r : Region) : State := { s with saves := s.saves ++ [(s.imageBytes rn r, s.keptOf rn r)] }

/-- What was kept beside an image; none where this module did not save it. -/
def State.keptWith (s : State) (b : List Byte) : Option Kept := (s.saves.reverse.find? (fun x => x.1 == b)).map (·.2)

/-! ### Commit points (R424) -/

/-- A commit point of an in-place period: what is in flight completes, an image is journalled and the shadows so far become visible. -/
def State.commit (s : State) (rn : Nat) : State :=
  match s.region? rn with
  | none => s
  | some r =>
    if r.inPlace then
      let s := s.flush r
      let r := (s.region? rn).getD r
      let s := { s.keep rn r with journal := s.journal ++ [JEntry.commit r.period (s.imageBytes rn r)] }
      s.showShadows rn
    else s

end Sys2Proof.Machine
end

