-- ==== Sys2Proof/Machine/Mt.lean ====
section
/-! DEFINITION. Memory tiles: the accesses and effects of an operation word (R357-R372), rule firings (R353-R356, R378), stream
firings (R360, R361), the cycle of an MT, and the end of the engine classes (R256, R360, R378). -/

namespace Sys2Proof.Machine

/-! ### Heads and addresses -/

/-- Payload, VALID mask and tag of a captured head: zero where none was present (R249). -/
def hLane (b : Option Beat) (l : Nat) : Word := match b with | some x => lane x.lanes l | none => 0
def hValid (b : Option Beat) : BitVec 16 := match b with | some x => x.valid | none => 0
def hTag (b : Option Beat) : Word := match b with | some x => x.tag | none => 0

/-- Active lanes of a per-lane operation: valid in the ICH head, and in the DCH head where the operation reads it (R356). -/
def MtOp.active (o : MtOp) (dch : Bool) (l : Nat) : Bool := (hValid o.ich).getLsbD l && (!dch || (hValid o.dch).getLsbD l)

/-- The lanes that an operation of SIZE 0 or 1 performs, with their offsets from a base (R358, R362). -/
def MtOp.laneOffs (o : MtOp) (dch : Bool) : List (Nat × Nat) :=
  if opSize o.op = 1 then
    ((List.range 8).filter (fun j => o.active dch (2 * j))).map (fun j => (2 * j, opAddr o.op + 8 * (hLane o.ich (2 * j)).toNat))
  else ((List.range 16).filter (o.active dch)).map (fun l => (l, opAddr o.op + 4 * (hLane o.ich l).toNat))

/-- The offset of the word of LDW and STW, none where the ICH head's lane 0 is not valid (R359). -/
def MtOp.wordOff (o : MtOp) : Option Nat :=
  if bit o.op 24 then some (opAddr o.op + o.gA.toNat)
  else if (hValid o.ich).getLsbD 0 then some (opAddr o.op + 64 * (hLane o.ich 0).toNat)
  else none

/-! ### Accesses and their checks (R334, R335, R357) -/

/-- The buffers an operation's engine is on the list of. -/
def bufsOf (opc : Nat) : List Nat :=
  if opc = 0x08 || opc = 0x09 then [bufY] else if opc = 0x14 then [bufX] else [bufX, bufY]

/-- Whether an operation uses BUF. -/
def usesBuf (opc : Nat) : Bool := [0x01, 0x02, 0x03, 0x04, 0x08, 0x09, 0x14, 0x18, 0x19, 0x20, 0x21].contains opc

/-- The accesses of an operation to its buffer: offset, bytes, alignment, in the order they are performed. -/
def Tile.accesses (t : Tile) (o : MtOp) : List (Nat × Nat × Nat) :=
  let word : List (Nat × Nat × Nat) := match o.wordOff with | some x => [(x, 64, 64)] | none => []
  let lanes (d : Bool) : List (Nat × Nat × Nat) := (o.laneOffs d).map (fun x => (x.2, sizeBytes (opSize o.op), sizeBytes (opSize o.op)))
  match opOpc o.op with
  | 0x01 => lanes false
  | 0x02 => lanes true
  | 0x03 | 0x04 => word
  | 0x08 | 0x09 => lanes true
  | 0x14 => [(opAddr o.op, 64, 64)]
  | 0x18 => [(opAddr o.op + 64 * (hTag o.ich).toNat, 64, 64)]
  | 0x19 => [(opAddr o.op + 64 * (hTag o.dch).toNat, 64, 64)]
  | 0x20 => [(opAddr o.op, 64 * (opFlags o.op + 1), 64)]
  | 0x21 => [(0, t.bufSize (opBuf o.op), 1)]
  | _ => []

/-- The check of an operation at fire: none, or its trap (R335, R356). -/
def Tile.accessTrap (t : Tile) (o : MtOp) : Option Nat :=
  if !usesBuf (opOpc o.op) then none
  else if !(bufsOf (opOpc o.op)).contains (opBuf o.op) then some 0x14
  else if (t.accesses o).all (fun x => t.accessOk (opBuf o.op, x)) then none else some 0x15

/-- The lowest lane that traps with such a check: of an operation by lanes the first that it performs where the buffer is not on its list,
else the first whose access breaks the rules; lane 0 of any other (R356, R405). -/
def Tile.trapLane (t : Tile) (o : MtOp) : Nat :=
  if [0x01, 0x02, 0x08, 0x09].contains (opOpc o.op) then
    let size := sizeBytes (opSize o.op)
    let bad := !(bufsOf (opOpc o.op)).contains (opBuf o.op)
    match (o.laneOffs (opOpc o.op != 0x01)).find? (fun x => bad || !t.accessOk (opBuf o.op, x.2, size, size)) with
    | some x => x.1
    | none => 0
  else 0

/-- The bank cycles of lane accesses: the most distinct aligned 8-byte words touched in one bank, at least 1 (R358). -/
def bankCycles (offs : List Nat) : Nat :=
  let ws := (offs.map (· / 8)).eraseDups
  (ws.map (fun x => (ws.filter (fun y => y / 512 == x / 512)).length)).foldl max 1

/-- Whether an operation touches the Y range of a MACC fired before it whose writes have not landed (R386). -/
def Tile.maccHolds (t : Tile) (o : MtOp) : Bool :=
  usesBuf (opOpc o.op) && opBuf o.op == bufY &&
  (t.unit 1).all.any (fun m => opOpc m.op == 0x0E &&
    (t.accesses o).any (fun x => decide (x.1 < bits m.gB 15 0 + 256) && decide (bits m.gB 15 0 < x.1 + x.2.1)))

/-! ### Reads and writes of words -/

/-- A beat of bytes with a VALID mask. -/
def MtOp.bytesBeat (o : MtOp) (valid : Nat) (bs : List Byte) : Beat := o.data valid (lanesOfBytes bs)

/-- A head's valid lanes written as a 64-byte word (R359). -/
def Tile.putLanes (t : Tile) (buf off : Nat) (b : Option Beat) : Tile :=
  (List.range 16).foldl (fun t l => if (hValid b).getLsbD l then t.bufPut buf (off + 4 * l) (leBytes (hLane b l).toNat 4) else t) t

/-- The elements of lane accesses read into lanes: values and VALID (R358). -/
def Tile.getLanes (t : Tile) (buf sz : Nat) (offs : List (Nat × Nat)) : Lanes × Nat :=
  if sz = 1 then
    (lanesOf (fun l => match offs.find? (fun x => x.1 == l / 2 * 2) with
      | some x => w (fieldAt (t.bufRead buf x.2 8) (4 * (l % 2)) 4)
      | none => 0), (offs.map (fun x => 3 * 2 ^ x.1)).sum)
  else
    (lanesOf (fun l => match offs.find? (fun x => x.1 == l) with
      | some x => w (leNat (t.bufRead buf x.2 4))
      | none => 0), (offs.map (fun x => 2 ^ x.1)).sum)

/-- Lanes of a head stored by lane accesses, in ascending lane order (R358). -/
def Tile.storeLanes (t : Tile) (buf sz : Nat) (offs : List (Nat × Nat)) (b : Option Beat) : Tile :=
  offs.foldl (fun t x =>
    let v := (hLane b x.1).toNat + (if sz = 1 then (hLane b (x.1 + 1)).toNat * 2 ^ 32 else 0)
    t.bufPut buf x.2 (leBytes v (sizeBytes sz))) t

/-! ### Atomics (R362) -/

/-- The new value of an update, and whether it was clamped. -/
def atomNew (sub : Nat) (u : Bool) (g old d : Word) : Word × Flags :=
  match sub with
  | 0 => (old + d, 0)
  | 1 => (let r := clampInt lo31 hi31 (s32 old + s32 d); (wi 32 r.1, r.2))
  | 2 => (if u then (if old.toNat ≤ d.toNat then old else d) else (if s32 old ≤ s32 d then old else d), 0)
  | 3 => (if u then (if d.toNat ≤ old.toNat then old else d) else (if s32 d ≤ s32 old then old else d), 0)
  | 4 => (old &&& d, 0)
  | 5 => (old ||| d, 0)
  | 6 => (d, 0)
  | _ => (if old = g then d else old, 0)

/-- The updates of a firing in ascending lane order: the tile after, and the old values by lane. -/
def Tile.atoms (t : Tile) (o : MtOp) : Tile × List (Nat × Word) :=
  (o.laneOffs true).foldl (fun acc x =>
    let old : Word := w (leNat (acc.1.bufRead bufY x.2 4))
    let r := atomNew (opSub o.op) (bit o.op 24) o.gA old (hLane o.dch x.1)
    ({ (acc.1.bufPut bufY x.2 (leBytes r.1.toNat 4)) with status := acc.1.status ||| r.2 }, acc.2 ++ [(x.1, old)])) (t, [])

/-! ### g registers (R372) -/

/-- GCMP's relation. -/
def gcmp (sub : Nat) (a b : Word) : Bool :=
  if sub.testBit 2 then (if sub.testBit 3 then decide (a.toNat < b.toNat) else decide (s32 a < s32 b)) else a == b

/-- GMOV, GADD and GCMP. -/
def Tile.gOp (t : Tile) (o : MtOp) : Tile :=
  let sx : Word := (w (opAddr o.op) : Half).signExtend 32
  let l0 : Word := if (hValid o.ich).getLsbD 0 then hLane o.ich 0 else 0
  let put (v : Word) : Tile := { t with g := t.g.set (opGb o.op) v }
  match opOpc o.op with
  | 0x22 => put (match opSub o.op with | 0 => w (opAddr o.op) | 1 => o.gA | _ => l0)
  | 0x23 => put (o.gA + (if opSub o.op = 0 then sx else l0))
  | _ =>
    let v := gcmp (opSub o.op) o.gA (if bit o.op 24 then o.gB else sx)
    let n := opSub o.op % 4
    { t with mtEnd := t.mtEnd.map (fun (e : MtEnd) =>
        { e with preds := if v then e.preds ||| ((1 : BitVec 4) <<< n) else e.preds &&& ~~~((1 : BitVec 4) <<< n) }) }

/-! ### An operation inside its tile (R357-R359, R362, R368, R369, R371) -/

/-- The operations that finish in the tile at their fire. -/
def Tile.perform (t : Tile) (o : MtOp) : Tile :=
  let buf := opBuf o.op
  let sz := opSize o.op
  let off := ((t.accesses o).map (·.1)).headD 0
  let o := { o with off := off }
  let dn := some [o.doneBeat]
  match opOpc o.op with
  | 0x01 =>
    let offs := o.laneOffs false
    let c := bankCycles (offs.map (·.2))
    let r := t.getLanes buf sz offs
    { t with hold := c }.owe o (c + 2) 1 (some [o.data r.2 r.1]) dn
  | 0x02 =>
    let offs := o.laneOffs true
    let c := bankCycles (offs.map (·.2))
    { (t.storeLanes buf sz offs o.dch) with hold := c }.owe o (c + 2) 1 none dn
  | 0x03 =>
    let b := match o.wordOff with
      | some x => o.bytesBeat 0xFFFF (t.bufRead buf x 64)
      | none => o.data 0 (lanesOf (fun _ => 0))
    (if bit o.op 25 then { t with g := t.g.set (opGa o.op) (o.gA + 64) } else t).owe o 3 1 (some [b]) dn
  | 0x04 =>
    let t := match o.wordOff with | some x => t.putLanes buf x o.dch | none => t
    (if bit o.op 25 then { t with g := t.g.set (opGa o.op) (o.gA + 64) } else t).owe o 3 1 none dn
  | 0x08 | 0x09 =>
    let k := (o.laneOffs true).length
    let r := t.atoms o
    let b := o.data (r.2.map (fun x => 2 ^ x.1)).sum (lanesOf (fun l => ((r.2.find? (fun x => x.1 == l)).map (·.2)).getD 0))
    { r.1 with hold := k + 1 }.owe o (k + 3) 1 (some [b]) dn
  | 0x15 =>
    let us := ((List.range 16).filter (o.active true)).map (fun l => { handle := o.gA, slot := hLane o.ich l, weight := hLane o.dch l })
    let nf : Bool := (List.range 16).any (fun l => !o.active true l && (fv (hLane o.dch l)).nonFinite)
    { t with glow := t.glow ++ us, status := t.status ||| (if nf then flSKIPNF else 0) }.owe o 3 1 none dn
  | 0x18 => t.owe o 3 1 (some [o.bytesBeat 0xFFFF (t.bufRead buf off 64)]) dn
  | 0x19 => (t.putLanes buf off o.dch).owe o 3 1 none dn
  | 0x20 =>
    let n := 64 * (opFlags o.op + 1)
    let c := if buf = bufY then (n + 127) / 128 else n / 64
    { (t.bufPut buf off ((List.range (n / 4)).flatMap (fun _ => leBytes o.gA.toNat 4))) with hold := c }.owe o (c + 2) 1 none dn
  | 0x21 =>
    let n := t.bufSize buf
    let c := if buf = bufY then n / 128 else n / 64
    let gone (a : Nat) : Bool := (t.bankList buf).contains (a / 4096)
    { t with banks := t.banks.filter (fun x => !gone x.1), hold := c }.owe o (c + 2) 1 none dn
  | 0x22 | 0x23 | 0x24 => (t.gOp o).owe o 3 1 none dn
  | _ => t.owe o 3 1 none dn

/-! ### The partition network (R364, R365) -/

/-- The stages of the section at module column col from row row0: KCODE's width and ABIT of each, in STAGE order. -/
def State.stagesFrom (s : State) (r : Region) (col row0 : Nat) : List (Nat × Nat) :=
  ((List.range 16).map (fun i =>
    let t := tileAt col (row0 + i)
    let x := if col < Sys2Proof.Config.gridSide ∧ row0 + i < Sys2Proof.Config.gridSide ∧ r.covers t then (s.tile t).fld 0xD3 else 0
    if bits x 1 0 != 0 && bits x 11 8 == i then some (2 ^ (bits x 1 0 - 1), bits x 7 2) else none)).takeWhile (·.isSome)
  |>.filterMap id

/-- The members of a section, in ascending region-relative row, then column. -/
def State.members (s : State) (r : Region) (psect : Word) : List Nat :=
  (s.listed r).filter (fun n => !isCt n && bit ((s.tile n).fld 0xE8) 31 && bits ((s.tile n).fld 0xE8) 19 0 == bits psect 19 0)

/-- The member number and the remaining key of a key. -/
def sectSplit (st : List (Nat × Nat)) (key : Nat) : Nat × Nat :=
  let m := st.foldl (fun a x => a * 2 ^ x.1 + key / 2 ^ x.2 % 2 ^ x.1) 0
  let gone (i : Nat) : Bool := st.any (fun x => decide (x.2 ≤ i) && decide (i < x.2 + x.1))
  let keep := (List.range 33).filter (fun i => !gone i)
  (m, ((keep.zipIdx).map (fun x => b2n (key.testBit x.1) * 2 ^ x.2)).sum)

/-- The lanes of a GTH or SCT that make a request: the even ones of 8-byte elements, those active. -/
def MtOp.netLanes (o : MtOp) : List Nat :=
  let act := o.active (opOpc o.op == 0x11)
  if opSize o.op = 1 then ((List.range 8).map (2 * ·)).filter act else (List.range 16).filter act

/-- The requests of a GTH or SCT, with the members they go to, in lane order. -/
def State.netReqs (s : State) (tile : Nat) (r : Region) (o : MtOp) : List (Nat × NetReq) :=
  let size := if opSize o.op = 1 then 8 else 4
  let ps := (s.tile tile).fld 0xE8
  let st := s.stagesFrom r (bits ps 9 0) (bits ps 19 10)
  let ms := s.members r ps
  o.netLanes.map (fun l =>
    let x := sectSplit st ((hLane o.ich l).toNat + o.gA.toNat)
    (nth ms x.1 tile, { src := tile, op := o.seqNo, lane := l, off := opAddr o.op + x.2 * size, size := size
                        data := if opOpc o.op = 0x11 then some (hLane o.dch (l + 1) ++ hLane o.dch l) else none }))

/-- Requests put at their members. -/
def State.sendReqs (s : State) (reqs : List (Nat × NetReq)) : State :=
  reqs.foldl (fun s x => s.modTile x.1 (fun t => { t with net := t.net ++ [x.2] })) s

/-- GTH and SCT: the lanes' requests go to the members, in lane order. -/
def State.netFire (s : State) (tile : Nat) (r : Region) (o : MtOp) : State :=
  let reqs := s.netReqs tile r o
  let first := (reqs.head?.map (fun x => x.2.off)).getD 0
  let o := { o with off := first, progress := 0, reply := (List.range 16).map (fun _ => none), waits := o.netLanes }
  (s.modTile tile (fun t => { t with ops := t.ops ++ [o] }.owe o 0 1 none none)).sendReqs reqs

/-! ### Sync nodes (R370) -/

/-- The ACQN of an operation requested: answered at once, or waiting. -/
def State.acqnAsk (s : State) (tile rn : Nat) (r : Region) (o : MtOp) : State :=
  let a := s.soAcq r.part o.gA.toNat (.seq rn) (bit o.op 24) (bit o.op 25) (bits o.op 30 28) (.mtOp tile o.seqNo)
  let answer (c : Nat) : State := a.2.modTile tile (fun t => { t with ops := t.ops.map (fun x =>
    if x.seqNo == o.seqNo then { x with reply := [some (w c)], done := true } else x) })
  match a.1 with
  | .granted => answer 0
  | .queued => a.2
  | .err c => answer c

/-! ### The operation of a data firing -/

/-- The operation performed: a trap code, or the state after. -/
def State.mtPerform (s : State) (tile rn : Nat) (r : Region) (o : MtOp) : Except Nat State :=
  let t := s.tile tile
  match t.accessTrap o with
  | some c => .error c
  | none =>
    match opOpc o.op with
    | 0x0C | 0x0D | 0x0E | 0x0F => (t.macFire o).map (fun t => s.setTile tile t)
    | 0x10 | 0x11 => .ok (s.netFire tile r o)
    | 0x14 =>
      let o := { o with off := opAddr o.op, dch := some (o.bytesBeat 0xFFFF (t.bufRead bufX (opAddr o.op) 64)) }
      .ok (s.setTile tile ({ t with ops := t.ops ++ [o] }.owe o 0 1 none none))
    | 0x1C => .ok ((s.setTile tile ({ t with ops := t.ops ++ [o] }.owe o 0 1 none none)).acqnAsk tile rn r o)
    | 0x1D =>
      let a := s.soRel r.part o.gA.toNat (.seq rn)
      .ok (a.2.modTile tile (fun t => t.owe o 3 1 (some [o.word (w (bits a.1 15 0))]) (some [o.doneBeat])))
    | _ => .ok (s.setTile tile (t.perform o))

/-! ### Rules of the fire slot (R353, R365, R368, R370, R378) -/

/-- Whether the engines take the operation of a rule: the limits of GTH and SCT, ACQN, GLOW and the macro units, and the credits
of MRUN. -/
def Tile.admits (t : Tile) (i : Nat) : Bool :=
  let op := t.opW i
  let opc := opOpc op
  if opc = 0x10 || opc = 0x11 then decide ((t.ops.filter (fun o => opOpc o.op == 0x10 || opOpc o.op == 0x11)).length < 4)
  else if opc = 0x1C then !t.ops.any (fun o => opOpc o.op == 0x1C)
  else if opc = 0x15 then decide (t.glow.length + 16 ≤ 64)
  else if isMacroOp opc then
    !t.unitFull (macUnit opc) && (opc != 0x0D || !(actEnq (t.actionW i)).testBit (opOch op) || decide (4 ≤ t.credits (opOch op)))
  else true

/-- Whether a rule of the fire slot holds. -/
def Tile.mtHolds (t : Tile) (i : Nat) : Bool :=
  let cls := t.ruleClass false i
  cls != 1 && t.forked.getLsbD cls && t.passc != 0 && t.guardHolds false i 1 && t.admits i

/-- Whether the fire slot is free: none of its cycles is held, and no ISTRM waits for a place (R367). -/
def Tile.mtSlotFree (t : Tile) : Bool := t.hold == 0 && t.ops.all (fun o => opOpc o.op != 0x14 || o.waits.isEmpty)

/-- The operation of a rule as a firing captures it. -/
def Tile.mtOp (t : Tile) (i : Nat) : MtOp :=
  let op := t.opW i
  let a := t.actionW i
  { op := op, progress := 0, ich := t.head (opIch op), dch := t.head (opDch op), enq := w (actEnq a)
    tag := if inR (actTagsrc a) 1 4 then hTag (t.head (actTagsrc a - 1)) else 0
    rnd := t.ernd, reply := [], done := false, off := 0, gA := nth t.g (opGa op) 0, gB := nth t.g (opGb op) 0, waits := []
    seqNo := t.opNo }

/-- The rule that fires in the fire slot: the lowest-numbered one that holds, but one that a MACC holds at fire keeps its slot
(R245, R386). -/
def Tile.mtPick (t : Tile) : Option Nat :=
  match t.macHeld with
  | some i =>
    if t.mtHolds i then some i
    else if (t.unit 1).all.any (fun m => opOpc m.op == 0x0E) then none else (List.range 16).find? t.mtHolds
  | none => (List.range 16).find? t.mtHolds

/-- By how much the round advances already at the end of this cycle. -/
def Tile.roundDue (t : Tile) : Nat := match t.mtEnd with | some e => e.round | none => 0

/-- The heads of a firing removed. -/
def Tile.takeHeads (t : Tile) (hs : List (Nat × Beat)) : Tile := hs.foldl (fun t x => t.take x.1 1) t

/-- The header beat a header firing sends (R353), and the latches it sets (R106). -/
def MtOp.header (o : MtOp) (hs : List (Nat × Beat)) : Beat :=
  headerBeat o.rnd o.tag (match hs.head? with | some (_, b) => lane b.lanes 0 | none => 0)
def Tile.latchHeads (t : Tile) (hs : List (Nat × Beat)) : Tile :=
  { t with latch := hs.foldl (fun l x => l.set x.1 (some (lane x.2.lanes 0))) t.latch }

/-- A beat on every output in ENQ at n + 3 (R353). -/
def Tile.forward (t : Tile) (o : MtOp) (b : Beat) : Tile :=
  { t with owed := t.owed ++ o.outs.map (fun c => { out := c, op := o.seqNo, due := 3, n := 1, after := false, beats := some [b] }) }

/-- Whether the fire slot of an MT can fire in this cycle. -/
def Tile.slotOpen (t : Tile) (tile : Nat) (r : Region) : Bool :=
  !isCt tile && t.mayFire && !t.mergedNow false && t.mtSlotFree && !(r.state == .draining && (t.mainIns false).isEmpty)

/-- The commit point of a RELN about to fire in an in-place period: it finishes before the firing takes effect (R424). -/
def State.relnCommit (s : State) (tile : Nat) : State :=
  match s.liveRegion tile with
  | none => s
  | some (rn, r) =>
    let t := s.tile tile
    match (if r.inPlace && t.slotOpen tile r then t.mtPick else none) with
    | some i => if opOpc (t.opW i) = 0x1D && firingKind (t.deqHeads (t.actionW i)) == some 0 then s.commit rn else s
    | none => s

/-- The firing of the fire slot of an MT in this cycle, if a rule holds and none has fired yet (R353, R356, R378). -/
def State.mtFire (s : State) (tile : Nat) : State :=
  let s := s.relnCommit tile
  match s.liveRegion tile with
    | none => s
    | some (rn, r) =>
      let t := s.tile tile
      if !t.slotOpen tile r then s
      else
        match t.mtPick with
        | none => s
        | some i =>
          let a := t.actionW i
          let o := t.mtOp i
          let hs := t.deqHeads a
          let ks := t.headKinds
          let ts := t.headTags
          match firingKind hs with
          | none => s.elemTrap tile fKMIX i 0 0 ks ts
          | some k =>
            if k = 0 && t.maccHolds o then s.setTile tile { t with macHeld := some i }
            else
              let t := { (t.takeHeads hs) with
                hold := 1, opNo := t.opNo + 1, macHeld := none
                mtEnd := some { st := w (actNext a), preds := t.preds, pass := k != 1 && (actNext a).testBit 5, round := t.roundDue + b2n (k == 2) } }
              let s := (s.setTile tile t).modRegion rn (fun g => { g with firings := g.firings + 1 })
              if k = 1 then
                if hs.any (fun x => headerBad x.2) then s.elemTrap tile fDECODE i 0 0 ks ts
                else s.setTile tile ((t.latchHeads hs).forward o (o.header hs))
              else if k = 2 then s.setTile tile (t.forward o (markBeat 2 o.rnd))
              else
                match s.mtPerform tile rn r o with
                | .error c => s.elemTrap tile c i 0 (t.trapLane o) ks ts
                | .ok s => s

/-- MT_RULE_FIRE (R353, R356, R378). -/
def execMtRuleFire (tile : Nat) (s : State) : Host.Outcome State Fault Refusal := .next (s.mtFire tile)

/-! ### Pattern streams (R59, R360, R361) -/

/-- Word m of descriptor j, its fields, and count and stride of dimension d. -/
def Tile.patW (t : Tile) (j m : Nat) : Word := t.fld (0x40 + 8 * j + m)
def Tile.patBuf (t : Tile) (j : Nat) : Nat := bits (t.patW j 0) 17 16
def Tile.patSize (t : Tile) (j : Nat) : Nat := bits (t.patW j 0) 19 18
def Tile.patCount (t : Tile) (j d : Nat) : Nat := if d ≤ bits (t.patW j 0) 21 20 then bits (t.patW j (1 + d)) 15 0 else 1
def Tile.patStride (t : Tile) (j d : Nat) : Int := if d ≤ bits (t.patW j 0) 21 20 then snat 16 (bits (t.patW j (1 + d)) 31 16) else 0

/-- The offset of a position. -/
def Tile.patOff (t : Tile) (j : Nat) (p : PatPos) : Int :=
  (bits (t.patW j 0) 15 0 : Int) + p.i0 * t.patStride j 0 + p.i1 * t.patStride j 1 + p.i2 * t.patStride j 2 + p.i3 * t.patStride j 3

/-- The position after another. -/
def Tile.patNext (t : Tile) (j : Nat) (p : PatPos) : PatPos :=
  if p.i0 + 1 < t.patCount j 0 then { p with i0 := p.i0 + 1 }
  else if p.i1 + 1 < t.patCount j 1 then { p with i0 := 0, i1 := p.i1 + 1 }
  else if p.i2 + 1 < t.patCount j 2 then { p with i0 := 0, i1 := 0, i2 := p.i2 + 1 }
  else if p.i3 + 1 < t.patCount j 3 then { p with i0 := 0, i1 := 0, i2 := 0, i3 := p.i3 + 1 }
  else { i0 := 0, i1 := 0, i2 := 0, i3 := 0, exhausted := true }

/-- The offsets of the next n elements, and the position after them. -/
def Tile.patWalk (t : Tile) (j : Nat) : Nat → PatPos → List Int × PatPos
  | 0, p => ([], p)
  | n + 1, p => if p.exhausted then ([], p) else (let r := t.patWalk j n (t.patNext j p); (t.patOff j p :: r.1, r.2))

/-- Whether every element of a walk lies in its buffer, aligned (R334, R335). -/
def Tile.patOk (t : Tile) (j : Nat) : Bool :=
  let k := sizeBytes (t.patSize j)
  let ext (d : Nat) : Int := ((t.patCount j d : Int) - 1) * t.patStride j d
  let ds := List.range 4
  let base : Int := (bits (t.patW j 0) 15 0 : Int)
  let lo := base + (ds.map (fun d => min 0 (ext d))).sum
  let hi := base + (ds.map (fun d => max 0 (ext d))).sum
  decide (0 ≤ lo) && decide (hi + k ≤ t.bufSize (t.patBuf j)) && base % k == 0 &&
  ds.all (fun d => t.patCount j d == 1 || t.patStride j d % k == 0)

/-- Elements of a beat. -/
def patPerBeat (sz : Nat) : Nat := match sz with | 0 => 16 | 1 => 8 | _ => 1

/-- Whether a stream rule holds: forked, not exhausted, its guard (R360). -/
def Tile.streamHolds (t : Tile) (i : Nat) : Bool :=
  t.ruleClass false i == 1 && t.forked.getLsbD 1 &&
  !(nth t.pats (opDesc (t.opW i)) { i0 := 0, i1 := 0, i2 := 0, i3 := 0, exhausted := true }).exhausted && t.guardHolds false i 1

/-- One beat of a walk moved: from the DCH head into the buffer, or from the buffer into a beat. -/
def Tile.streamBeat (t : Tile) (o : MtOp) : Tile :=
  let j := opDesc o.op
  let sz := t.patSize j
  let buf := t.patBuf j
  let p := nth t.pats j { i0 := 0, i1 := 0, i2 := 0, i3 := 0, exhausted := true }
  let r := t.patWalk j (patPerBeat sz) p
  let offs := r.1.map Int.toNat
  let lanes := offs.zipIdx.map (fun x => (if sz = 1 then 2 * x.2 else x.2, x.1))
  let o := { o with off := offs.headD 0 }
  let c := bankCycles offs
  let t := { t with pats := t.pats.set j r.2, shold := c }
  if opOpc o.op = 0x05 then
    let t := if sz = 2 then t.putLanes buf o.off o.dch
      else t.storeLanes buf sz (lanes.filter (fun x => (hValid o.dch).getLsbD x.1)) o.dch
    t.owe o (c + 2) 1 none (some [o.doneBeat])
  else
    let b := if sz = 2 then o.bytesBeat 0xFFFF (t.bufRead buf o.off 64)
      else (let g := t.getLanes buf sz lanes; o.data g.2 g.1)
    t.owe o (c + 2) 1 (some [b]) (some [o.doneBeat])

/-- The firing of the stream slot of an MT in this cycle: the lowest-numbered stream rule that holds, leaving S and PASSC (R360,
R361). -/
def State.streamFire (s : State) (tile : Nat) : State :=
  match s.liveRegion tile with
    | none => s
    | some (rn, r) =>
      let t := s.tile tile
      if isCt tile || !t.mayFire || t.mergedNow false || t.shold != 0 || (r.state == .draining && (t.mainIns false).isEmpty) then s
      else
        match (List.range 16).find? t.streamHolds with
        | none => s
        | some i =>
          let o := t.mtOp i
          let hs := t.deqHeads (t.actionW i)
          let ks := t.headKinds
          let ts := t.headTags
          match firingKind hs with
          | none => s.elemTrap tile fKMIX i 0 0 ks ts
          | some k =>
            let round : MtEnd := match t.mtEnd with
              | some e => { e with round := e.round + 1 }
              | none => { st := t.st, preds := t.preds, pass := false, round := 1 }
            let t := { (t.takeHeads hs) with shold := 1, opNo := t.opNo + 1 }
            let s := (s.setTile tile t).modRegion rn (fun g => { g with firings := g.firings + 1 })
            if k = 1 then
              if hs.any (fun x => headerBad x.2) then s.elemTrap tile fDECODE i 0 0 ks ts
              else s.setTile tile ((t.latchHeads hs).forward o (o.header hs))
            else if k = 2 then s.setTile tile ({ t with mtEnd := some round }.forward o (markBeat 2 o.rnd))
            else if t.patBuf (opDesc o.op) = bufY then s.elemTrap tile fBUFCLS i 0 0 ks ts
            else if t.patSize (opDesc o.op) = 3 || !t.patOk (opDesc o.op) then s.elemTrap tile fBUFRNG i 0 0 ks ts
            else s.setTile tile (t.streamBeat o)

/-- STREAM_RULE_FIRE: the lowest-numbered stream rule that holds fires in the stream slot, leaving S and PASSC (R360, R361). -/
def execStreamRuleFire (tile : Nat) (s : State) : Host.Outcome State Fault Refusal := .next (s.streamFire tile)

/-! ### Done (R256, R360, R378) -/

/-- Whether nothing that a class started is still under way. -/
def Tile.classOver (t : Tile) (c : EngineClass) : Bool :=
  match c with
  | .fabric => t.passc == 0 && t.flights.isEmpty && t.hold == 0 && t.mtEnd.isNone && t.ops.isEmpty && t.owed.isEmpty && t.empty == 0
  | .stream =>
    t.shold == 0 && (List.range 16).all (fun i =>
      !(actV (t.actionW i) && t.ruleClass false i == 1) ||
      (nth t.pats (opDesc (t.opW i)) { i0 := 0, i1 := 0, i2 := 0, i3 := 0, exhausted := false }).exhausted)
  | .cim => t.passc == 0 && t.mtEnd.isNone && t.units.all (fun u => u.count == 0)

def classNo (c : EngineClass) : Nat := match c with | .fabric => 0 | .stream => 1 | .cim => 2

/-- CLASS_DONE: a forked class that is over reports done (R256, R360, R378). -/
def execClassDone (tile : Nat) (c : EngineClass) (s : State) : Host.Outcome State Fault Refusal :=
  .next (match s.liveRegion tile with
    | none => s
    | some (_, r) =>
      let t := s.tile tile
      if t.forked.getLsbD (classNo c) && t.classOver c then
        let s := s.modTile tile (fun t => { t with doneCls := t.doneCls ||| ((1 : BitVec 3) <<< classNo c) })
        match t.sect with
        | some a => s.sectSpent r a
        | none => s
      else s)

/-! ### Operations that finish later (R365, R370) -/

/-- PARTITION_REQUEST_SERVE: a member serves the next request on its lane at its X port. A bad offset traps the member: the request is not
performed and stays at the head, so that its source's lane stalls, and it is presented again once the region runs on (R365, R350). -/
def execPartitionRequestServe (tile : Nat) (s : State) : Host.Outcome State Fault Refusal :=
  .next (match s.liveRegion tile with
    | none => s
    | some _ =>
      let t := s.tile tile
      match t.net with
      | [] => s
      | q :: rest =>
        if !t.accessOk (bufX, q.off, q.size, q.size) then s.elemTrap tile fBUFRNG 0 0 q.lane t.headKinds t.headTags
        else
          let s := s.setTile tile { t with net := rest }
          let s := match q.data with
            | some d => s.modTile tile (fun t => t.bufPut bufX q.off (leBytes d.toNat q.size))
            | none => s
          let bs := t.bufRead bufX q.off q.size
          s.modTile q.src (fun x => { x with ops := x.ops.map (fun o =>
            if o.seqNo == q.op then
              let r := if q.data.isSome then o.reply
                else (o.reply.set q.lane (some (w (fieldAt bs 0 4)))).set (q.lane + b2n (q.size == 8)) (some (w (fieldAt bs (q.size - 4) 4)))
              { o with progress := o.progress ||| 2 ^ q.lane, reply := r }
            else o) }))

/-- Whether every lane of a GTH or SCT has been served. -/
def MtOp.served (o : MtOp) : Bool := o.waits.all (fun l => o.progress.testBit l)

/-- The result of a finished GTH. -/
def MtOp.gathered (o : MtOp) : Beat :=
  o.data ((List.range 16).filter (fun l => (nth o.reply l none).isSome) |>.map (2 ^ ·)).sum (lanesOf (fun l => (nth o.reply l none).getD 0))

/-- GTH_RESULT_ENQUEUE: the first GTH or SCT whose replies are all in pays what it owes (R365). -/
def execGthResultEnqueue (tile : Nat) (s : State) : Host.Outcome State Fault Refusal :=
  .next (match s.liveRegion tile with
    | none => s
    | some _ => s.modTile tile (fun t =>
        match t.ops.find? (fun o => (opOpc o.op == 0x10 || opOpc o.op == 0x11) && o.served) with
        | none => t
        | some o => (t.dropOp o.seqNo).pay o [o.gathered] [o.doneBeat]))

/-- ACQN_GRANT: an answered ACQN enqueues its result; a waiting one is granted where its grant condition holds (R166, R370). -/
def execAcqnGrant (tile : Nat) (s : State) : Host.Outcome State Fault Refusal :=
  .next (match s.liveRegion tile with
    | none => s
    | some (_, r) =>
      match (s.tile tile).ops.find? (fun o => opOpc o.op == 0x1C) with
      | none => s
      | some o =>
        let s := if o.done then s else s.grant r.part (hSlot o.gA.toNat)
        s.modTile tile (fun t =>
          match t.ops.find? (fun o => opOpc o.op == 0x1C && o.done) with
          | none => t
          | some o => (t.dropOp o.seqNo).pay o [o.word ((nth o.reply 0 none).getD 0)] [o.doneBeat]))

/-- The waiting ACQNs of a region requested again when it resumes (R370). -/
def State.reAcqns (s : State) (rn : Nat) : State :=
  match s.region? rn with
  | none => s
  | some r => (s.waitingAcqns r).foldl (fun s x => s.acqnAsk x.1 rn r x.2) s

end Sys2Proof.Machine
end

