-- ==== Sys2Proof/Machine/Switch.lean ====
section
/-! DEFINITION. Switches: routes, pass-through and fan-out (R60, R375), delay lines (R240), express lanes (R376), and the trace of
loop edges (R240). How a tile's channels, attachments and express attachments share the two lanes of its local port is not in
the spec: the free functions localOut and localIn stand for it (notes/assumptions 19). -/

namespace Sys2Proof.Machine

open Sys2Proof.Config

/-! ### Route words -/

/-- A tile by its region-relative place: what a region's tiles do does not depend on where it stands (R61, R175). -/
def Region.relTile (r : Region) (n : Nat) : Nat := tileAt (tileX n - r.ocol) (tileY n - r.orow)

/-- The lane of the local port that a tile's source of a code uses, and what a beat of a source reaches over a lane of it. -/
def Region.outLane (r : Region) (tile code : Nat) : Nat := localOut (r.relTile tile) code % 2
def Region.inEnd (r : Region) (tile l src : Nat) : Nat := localIn (r.relTile tile) l (16 * r.relTile (src / 16) + src % 16) % 16

/-- The lane registers by output port and lane: N, E, S, W. -/
def laneKey (p l : Nat) : Nat := 2 * p + l

/-- The routes of a tile that name source port q, lane m: output port and lane, THRU included (R60, R375). -/
def Tile.routesFrom (t : Tile) (q m : Nat) : List (Nat × Nat) :=
  if bit (t.fld 0xD2) 0 then (if q < 4 then [(facing q, m)] else [])
  else
    ((List.range 10).filter (fun i =>
      let x := t.fld (0xC8 + i)
      bit x 4 && bits x 2 0 == q && bits x 3 3 == m)).map (fun i => (i / 2, i % 2))

/-- Express attachment of lane j (R60): enabled, its direction, its EXIT. -/
def Tile.xEn (t : Tile) (j : Nat) : Bool := bit (t.fld (0xD4 + j)) 11
def Tile.xDir (t : Tile) (j : Nat) : Nat := bits (t.fld (0xD4 + j)) 10 10
def Tile.xExit (t : Tile) (j : Nat) : Nat := bits (t.fld (0xD4 + j)) 9 0
/-- Slot s of lane j: valid, and its context. -/
def Tile.xSlot (t : Tile) (j s : Nat) : Bool × Nat :=
  let x := t.fld (0xDC + j)
  (bit x (8 * s + 7), bits x (8 * s + 1) (8 * s))
/-- The buffer of a slot of an express attachment, and a slot of an entering attachment with room for a beat. -/
def Tile.xBuf (t : Tile) (j s : Nat) : List Hop := t.xbuf.get (4 * j + s) []
def Tile.xRoom (t : Tile) (j : Nat) : Option Nat :=
  (List.range 4).find? (fun s => (t.xSlot j s).1 && decide ((t.xBuf j s).length < 2))

/-! ### Where a route delivers -/

/-- Whether the end of a route takes a beat: the register of an output port and lane, or what the local port leads to: an input
channel, the request FIFO of an egress attachment, the buffer of an entering express attachment. -/
def State.accepts (s : State) (rn : Nat) (r : Region) (tile p l src : Nat) : Bool :=
  let t := s.tile tile
  if p < 4 then (t.lanes.find (laneKey p l)).isNone
  else
    let d := r.inEnd tile l src
    if d < 4 then t.inEn (isCt tile) d && t.canArrive d
    else if d < 8 then
      let v := t.fld (0xE4 + (d - 4))
      bit v 15 && bits v 11 11 == 1 && decide ((s.port (portKey rn (bits v 8 0) (bits v 10 9))).reqF.length < 4)
    else t.xEn (d - 8) && t.xDir (d - 8) == 0 && (t.xRoom (d - 8)).isSome

/-- The beat delivered there. -/
def State.deliverTo (s : State) (rn : Nat) (r : Region) (tile p l src : Nat) (b : Beat) : State :=
  let t := s.tile tile
  if p < 4 then s.setTile tile { t with lanes := t.lanes.put (laneKey p l) { src := src, beat := b } }
  else
    let d := r.inEnd tile l src
    if d < 4 then s.setTile tile (t.arrive d b)
    else if d < 8 then
      let v := t.fld (0xE4 + (d - 4))
      (s.modPort (portKey rn (bits v 8 0) (bits v 10 9)) (fun p => { p with reqF := p.reqF ++ [b] })).modRegion rn
        (fun g => { g with beatsOut := g.beatsOut + 1 })
    else
      match t.xRoom (d - 8) with
      | some k => s.setTile tile { t with xbuf := t.xbuf.put (4 * (d - 8) + k) (t.xBuf (d - 8) k ++ [{ src := src, beat := b }]) }
      | none => s

/-- A beat that stands at source port q, lane m of a tile leaves, each route taking a copy, if every route naming it accepts;
none where it does not leave (R375). A switch of a lost window passes no beats (R17). -/
def State.fanOut (s : State) (rn : Nat) (r : Region) (tile q m src : Nat) (b : Beat) : Option State :=
  let rs := (s.tile tile).routesFrom q m
  if !r.covers tile || s.lostAt tile || rs.isEmpty || !rs.all (fun x => s.accepts rn r tile x.1 x.2 src) then none
  else some (rs.foldl (fun s x => s.deliverTo rn r tile x.1 x.2 src b) s)

/-- A beat of a tile's own source leaves onto the routes. -/
def State.launchBeat (s : State) (rn : Nat) (r : Region) (tile code : Nat) (b : Beat) : Option State :=
  s.fanOut rn r tile 4 (r.outLane tile code) (16 * tile + code) b

/-! ### BEAT_TRANSFER (R240, R375) -/

/-- Stage k of the delay line of output o. -/
def Tile.stage? (t : Tile) (o k : Nat) : Option Beat := nth (nth t.dly o []) k none

/-- A delay line with one stage changed. -/
def Tile.setStage (t : Tile) (o k : Nat) (b : Option Beat) : Tile :=
  let n := max (k + 1) (nth t.dly o []).length
  { t with dly := t.dly.set o ((List.range n).map (fun i => if i = k then b else t.stage? o i)) }

/-- A beat comes to stage k of the delay line of output o in this cycle. -/
def Tile.enterStage (t : Tile) (o k : Nat) (b : Beat) : Tile := { t.setStage o k (some b) with came := (o, k) :: t.came }

/-- The beat of an output FIFO moves: into its delay line, or onto the routes. -/
def State.moveOut (s : State) (rn : Nat) (r : Region) (tile ch : Nat) : State :=
  let t := s.tile tile
  match nth t.outF ch [] with
  | [] => s
  | b :: rest =>
    let out (t : Tile) : Tile := { t with outF := t.outF.set ch rest, gone := t.gone.set ch (nth t.gone ch 0 + 1) }
    if t.dlen (isCt tile) ch = 0 then
      match s.launchBeat rn r tile ch b with
      | some s => s.modTile tile out
      | none => s
    else if (t.stage? ch 0).isNone then s.setTile tile ((out t).enterStage ch 0 b)
    else s

/-- The beat of a stage of a delay line moves: to the next stage, or from the last one onto the routes; one stage in a cycle (R240). -/
def State.moveDelay (s : State) (rn : Nat) (r : Region) (tile ch k : Nat) : State :=
  let t := s.tile tile
  match t.stage? ch k with
  | none => s
  | some b =>
    if t.came.contains (ch, k) then s
    else if k + 1 < t.dlen (isCt tile) ch then
      if (t.stage? ch (k + 1)).isNone then s.setTile tile ((t.setStage ch k none).enterStage ch (k + 1) b) else s
    else
      match s.launchBeat rn r tile ch b with
      | some s => s.modTile tile (fun t => t.setStage ch k none)
      | none => s

/-- The beat of a lane register moves through the next switch; one that crosses a seam ends the lane's failures in a row (R15). -/
def State.moveLane (s : State) (rn : Nat) (r : Region) (tile p l : Nat) : State :=
  match (s.tile tile).lanes.find (laneKey p l), neighbour tile p with
  | some h, some n =>
    match s.fanOut rn r n (facing p) l h.src h.beat with
    | some s =>
      let s := s.modTile tile (fun t => { t with lanes := t.lanes.del (laneKey p l) })
      if chipOf tile = chipOf n then s else { s with seamFails := s.seamFails.del (seamLaneNo (4 * tile + p) l) }
    | none => s
  | _, _ => s

/-- BEAT_TRANSFER: one beat passes on where there is room (R240, R375). -/
def execBeatTransfer (tile : Nat) (src : BeatSource) (s : State) : Host.Outcome State Fault Refusal :=
  .next (match s.liveRegion tile with
    | none => s
    | some (rn, r) =>
      match src with
      | .outFifo ch => s.moveOut rn r tile ch
      | .delay ch k => s.moveDelay rn r tile ch k
      | .laneReg p l => s.moveLane rn r tile p l)

/-! ### Express lanes (R376) -/

/-- The tile at which a beat that enters lane j leaves. -/
def exitTile (tile j exit : Nat) : Nat := if j < 4 then tileAt exit (tileY tile) else tileAt (tileX tile) exit

/-- The tiles along lane j from one tile to another in its row or column, and the port through which the lane goes. -/
def expressPath (tile j x : Nat) : List Nat × Nat :=
  let a := if j < 4 then tileX tile else tileY tile
  let b := if j < 4 then tileX x else tileY x
  let at_ (i : Nat) : Nat := if j < 4 then tileAt i (tileY tile) else tileAt (tileX tile) i
  if a ≤ b then ((List.range (b - a + 1)).map (fun i => at_ (a + i)), if j < 4 then 1 else 2)
  else ((List.range (a - b + 1)).map (fun i => at_ (a - i)), if j < 4 then 3 else 0)

/-- The seam lanes that lane j crosses on a path (R15, R376). -/
def expressSeams (path : List Nat × Nat) (j : Nat) : List Nat :=
  (path.1.zip (path.1.drop 1)).filterMap (fun x =>
    if chipOf x.1 = chipOf x.2 then none else some (seamLaneNo (4 * x.1 + path.2) (2 + j % 4)))

/-- The slot of a leaving attachment for a context. -/
def Tile.xLeave (t : Tile) (j ctx : Nat) : Option Nat :=
  if t.xEn j && t.xDir j == 1 then (List.range 4).find? (fun s => (t.xSlot j s).1 && (t.xSlot j s).2 == ctx) else none

/-- EXPRESS_LANE_TRANSFER: the beat of a slot of an entering attachment travels to the leaving attachment of its region and
context, or the beat of a slot of a leaving attachment goes onto the routes (R376). Every window's switches carry the lane, so a beat
passes none that is lost (R17, R184), and one that crosses seams ends the lane's failures in a row on each (R15). -/
def execExpressLaneTransfer (tile lane slot : Nat) (s : State) : Host.Outcome State Fault Refusal :=
  .next (match s.liveRegion tile with
    | none => s
    | some (rn, r) =>
      let t := s.tile tile
      match t.xBuf lane slot with
      | [] => s
      | h :: rest =>
        let left (s : State) : State := s.modTile tile (fun t => { t with xbuf := t.xbuf.put (4 * lane + slot) rest })
        if !t.xEn lane then s
        else if t.xDir lane = 1 then
          match s.fanOut rn r tile 4 (r.outLane tile (8 + lane)) h.src h.beat with
          | some s => left s
          | none => s
        else
          let x := exitTile tile lane (t.xExit lane)
          let path := expressPath tile lane x
          if !r.covers x || path.1.any s.lostAt then s
          else
            match (s.tile x).xLeave lane (t.xSlot lane slot).2 with
            | none => s
            | some k =>
              let u := s.tile x
              if (u.xBuf lane k).length < 2 then
                let s := left (s.setTile x { u with xbuf := u.xbuf.put (4 * lane + k) (u.xBuf lane k ++ [h]) })
                { s with seamFails := (expressSeams path lane).foldl (fun l k => l.del k) s.seamFails }
              else s)

/-! ### Loop edges (R240) -/

/-- Where a beat of an entering attachment of lane j comes out, for each of its contexts that a leaving attachment of the region has:
the source of that attachment at the exit tile. -/
def State.expressOut (s : State) (r : Region) (tile j : Nat) : List (Nat × Nat × Nat) :=
  let x := exitTile tile j ((s.tile tile).xExit j)
  if (s.tile tile).xEn j && (s.tile tile).xDir j == 0 && r.covers x &&
     (List.range 4).any (fun k => ((s.tile tile).xSlot j k).1 && ((s.tile x).xLeave j ((s.tile tile).xSlot j k).2).isSome)
  then [(x, 4, r.outLane x (8 + j))] else []

/-- The input channels that a source reaches from the places `at_` (tile, source port, lane), within `fuel` hops, over express
lanes too. -/
def State.traceFrom (s : State) (r : Region) (src : Nat) : Nat → List (Nat × Nat × Nat) → List (Nat × Nat)
  | 0, _ => []
  | fuel + 1, at_ =>
    let hops := at_.flatMap (fun x => ((s.tile x.1).routesFrom x.2.1 x.2.2).map (fun y => (x.1, y.1, y.2)))
    let ends := hops.filterMap (fun x =>
      if x.2.1 = 4 && r.inEnd x.1 x.2.2 src < 4 then some (x.1, r.inEnd x.1 x.2.2 src) else none)
    let next := hops.filterMap (fun x =>
      if x.2.1 < 4 then (neighbour x.1 x.2.1).bind (fun n => if r.covers n then some (n, facing x.2.1, x.2.2) else none) else none)
    let far := hops.flatMap (fun x =>
      let d := r.inEnd x.1 x.2.2 src
      if x.2.1 = 4 && decide (8 ≤ d) then s.expressOut r x.1 (d - 8) else [])
    if hops.isEmpty then [] else ends ++ s.traceFrom r src fuel (next ++ far)

/-- The inputs that the output of a code of a tile reaches. -/
def State.traceOut (s : State) (r : Region) (tile code : Nat) : List (Nat × Nat) :=
  s.traceFrom r (16 * tile + code) (r.width * r.height * 10 + 2) [(tile, 4, r.outLane tile code)]

/-- The cycles a beat takes to the next tile, and over an express lane from its entry to its exit (R375, R376). -/
def hopCycles (a b : Nat) : Nat := if chipOf a = chipOf b then 1 else 3
def expressCycles (a j b : Nat) : Nat :=
  let path := expressPath a j b
  4 + 2 * (expressSeams path j).length + (path.1.length + 14) / 16

/-- The input channels that a source reaches from the places `at_` (tile, source port, lane, cycles so far), each with its cycles, over express
lanes only where they are permitted. -/
def State.timesFrom (s : State) (r : Region) (src : Nat) (express : Bool) : Nat → List (Nat × Nat × Nat × Nat) → List (Nat × Nat × Nat)
  | 0, _ => []
  | fuel + 1, at_ =>
    let hops := at_.flatMap (fun x => ((s.tile x.1).routesFrom x.2.1 x.2.2.1).map (fun y => (x.1, y.1, y.2, x.2.2.2)))
    let ends := hops.filterMap (fun x =>
      if x.2.1 = 4 && r.inEnd x.1 x.2.2.1 src < 4 then some (x.1, r.inEnd x.1 x.2.2.1 src, x.2.2.2) else none)
    let next := hops.filterMap (fun x =>
      if x.2.1 < 4 then
        (neighbour x.1 x.2.1).bind (fun n => if r.covers n then some (n, facing x.2.1, x.2.2.1, x.2.2.2 + hopCycles x.1 n) else none)
      else none)
    let far := hops.flatMap (fun x =>
      let d := r.inEnd x.1 x.2.2.1 src
      if express && x.2.1 = 4 && decide (8 ≤ d) then
        (s.expressOut r x.1 (d - 8)).map (fun y => (y.1, y.2.1, y.2.2, x.2.2.2 + expressCycles x.1 (d - 8) y.1))
      else [])
    if hops.isEmpty then [] else ends ++ s.timesFrom r src express fuel (next ++ far)

/-- The cycles in which the output of a code of a tile reaches an input channel of another, where it does. -/
def State.edgeCycles (s : State) (r : Region) (tile code dst ch : Nat) (express : Bool) : Option Nat :=
  (s.timesFrom r (16 * tile + code) express (r.width * r.height * 10 + 2) [(tile, 4, r.outLane tile code, 0)]).findSome? (fun x =>
    if x.1 = dst && x.2.1 = ch then some x.2.2 else none)

/-- Loop inputs marked anew: every enabled input whose edge leaves an output that has a delay line (R240). -/
def State.markLoops (s : State) (r : Region) : State :=
  let outs := (s.listed r).flatMap (fun n => ((List.range 4).filter (fun o => (s.tile n).dlen (isCt n) o != 0)).map (fun o => (n, o)))
  let ends := outs.flatMap (fun x => s.traceOut r x.1 x.2)
  let s := s.modListed r (fun t => { t with loopIn := 0 })
  ends.foldl (fun s x => s.modTile x.1 (fun t =>
    if t.inEn (isCt x.1) x.2 then { t with loopIn := t.loopIn ||| ((1 : BitVec 4) <<< x.2) } else t)) s

end Sys2Proof.Machine
end

