-- ==== Sys2Proof/Machine/Emp.lean ====
section
/-! DEFINITION. Edge memory ports: requests, writes, replies and forwarded markers (R343-R346, R499, R420), and the indirect-stream
engines of the base dies (R366, R367). -/

namespace Sys2Proof.Machine

open Sys2Proof.Config

/-! ### Requests (R343) -/

/-- A request beat as a request, none where it breaks R343. -/
def requestOf (b : Beat) : Option PortReq :=
  let x1 := lane b.lanes 1
  let x2 := lane b.lanes 2
  let va := (lane b.lanes 0).toNat + bits x1 24 0 * 2 ^ 32
  let op := bits x2 18 16
  if b.kind = 0 ∧ b.valid.toNat % 8 = 7 ∧ bits x1 31 25 = 0 ∧ bits x2 31 19 = 0 ∧ op ≤ 2 ∧ bits x2 15 0 ≠ 0 ∧ (op = 1 ∨ va % 64 = 0) then
    some { va := w va, count := bits x2 15 0, op := op, next := 0, tag := b.tag, cur := va }
  else none

/-- The WHERE of a port, and a request fault. -/
def portPlace (emp ch : Nat) : Nat := emp + ch * 512
def reqFault : XFault := { kind := .req, stage := 1, ga := 0 }

/-- A fault of a region's port withheld (R346). -/
def State.portFault (s : State) (rn emp ch unit_ : Nat) (f : XFault) (write : Bool) (va : Nat) : State :=
  (s.modPort (portKey rn emp ch) fun p => { p with wait := true }).withholdX rn (.port rn emp ch) 2 (portPlace emp ch) unit_ f write va

/-- Where a region's accesses find a physical address: its shadow, if it has one. -/
def State.shade (s : State) (rn pa : Nat) : Nat := match s.region? rn with | some r => r.shadowed pa | none => pa

/-- Whether a decoded read delivers no unit after the one at `cur`, with n left: LAST of R345. A unit that faults may still be
delivered. -/
def State.noneLater (s : State) (x : Xlate) (rn : Nat) : Nat → Nat → Bool
  | 0, _ => true
  | n + 1, cur =>
    match s.decUnit x (s.shade rn) cur with
    | .error _ => false
    | .ok u => !u.live && s.noneLater x rn n u.next

/-- The beats of a decoded unit (R345). -/
def unitBeats (u : DecUnit) (rnd : BitVec 8) (tag : Word) (last : Bool) : List Beat :=
  let tag := u.tag.getD tag
  headerBeat rnd tag (if last then u.header ||| 0x400000 else u.header) ::
    u.beats.map (fun x => dataBeat rnd tag (2 ^ x.2 - 1) (lanesOfBytes ((u.data.drop x.1).take (4 * x.2))))

/-- One unit of a read: its beats and the request after it, or a fault at the unit (R344, R345). `last` is whether it is the
last of its request. -/
def State.readUnit (s : State) (rn : Nat) (x : Xlate) (rnd : BitVec 8) (q : PortReq) : Except XFault (List Beat × PortReq) :=
  if 2 ^ 57 ≤ q.cur then .error { kind := .perm, stage := 1, ga := 0 }
  else if q.op = 1 then
    match s.decUnit x (s.shade rn) q.cur with
    | .error f => .error f
    | .ok u =>
      let last := s.noneLater x rn (q.count - (q.next + 1)) u.next
      .ok (if u.live then unitBeats u rnd q.tag last else [], { q with next := q.next + 1, cur := u.next })
  else
    match translate s.mem x q.cur .read with
    | .error f => .error f
    | .ok (pa, _) =>
      .ok ([dataBeat rnd q.tag 0xFFFF (lanesOfBytes (s.mem.read (s.shade rn pa) 64))], { q with next := q.next + 1, cur := q.cur + 64 })

/-- The next unit of the request in progress issued, where the reply buffer has room (R344, R411). A unit below the least privilege of what
stands there is not delivered (R12). -/
def State.issueUnit (s : State) (rn emp ch : Nat) (r : Region) (q0 : PortReq) : State :=
  let k := portKey rn emp ch
  let p := s.port k
  if 32 ≤ p.reply.length || s.rowOpen rn emp ch then s
  else
    match s.readUnit rn (s.rgXlate r) p.round q0 with
    | .error f => s.portFault rn emp ch q0.next f false q0.cur
    | .ok (bs, q) =>
      let no := s.rgDenied rn q0.cur (q.cur - q0.cur) false
      let bs := if no.isSome then [] else bs
      let s := match no with | some va => s.rgPriv rn 2 (portPlace emp ch) q0.next va false | none => s
      let p := { p with reply := p.reply ++ bs.map (fun b => (r.incarn, b)), cur := if q.next = q.count then none else some q }
      (s.touch rn q0.cur 1).setPort k (p.flush r.incarn)

/-- A beat that breaks R343 at the head of the FIFO while nothing is under way, or while a raw write expects data. -/
def State.badHead (s : State) (rn emp ch : Nat) (p : Port) : State :=
  match p.wr with
  | some q => s.portFault rn emp ch q.next reqFault true q.cur
  | none =>
    match p.reqF.head? with
    | some b => s.portFault rn emp ch 0 reqFault false ((lane b.lanes 0).toNat + bits (lane b.lanes 1) 24 0 * 2 ^ 32)
    | none => s

/-- EMP_REQUEST: a beat is taken from the FIFO and checked, or the request in progress issues its next unit (R343-R346); in link mode it
crosses to another module (R454). -/
def execEmpRequest (rn emp ch : Nat) (s : State) : Host.Outcome State Fault Refusal :=
  .next (match s.region? rn with
    | none => s
    | some r =>
      let k := portKey rn emp ch
      let p := s.port k
      if !r.active || s.isHeld r.part (.port rn emp ch) then s
      else if p.linked then (if p.linkOut.isSome then s.linkRequest rn emp ch r else s)
      else
        match p.cur with
        | some q => s.issueUnit rn emp ch r q
        | none =>
          match p.reqF with
          | [] => s
          | b :: rest =>
            if 6 ≤ b.kind.toNat then
              (s.postRg r.part rn true false { FaultRec.of fKIND 2 with place := w (portPlace emp ch) }).setPort k { p with reqF := rest }
            else if b.kind = 5 then s.setPort k { p with reqF := rest }
            else if p.wr.isSome then (if b.kind = 0 then s else s.badHead rn emp ch p)
            else if 2 ≤ b.kind.toNat then s
            else
              match requestOf b with
              | none => s.badHead rn emp ch p
              | some q => s.setPort k (if q.op = 2 then { p with reqF := rest, wr := some q } else { p with reqF := rest, cur := some q }))

/-- The valid lanes of a beat written at a 64-byte unit: a fault, none where an in-place period waits for a shadow, or the state
after. -/
def State.writeUnit (s : State) (rn va : Nat) (b : Beat) : Except XFault (Option State) :=
  match s.region? rn with
  | none => .ok (some s)
  | some r =>
    if 2 ^ 57 ≤ va then .error { kind := .perm, stage := 1, ga := 0 }
    else
      match translate s.mem (s.rgXlate r) va .write with
      | .error f => .error f
      | .ok (pa, _) =>
        match s.makeShadows [(va, pa)] rn with
        | none => .ok none
        | some s =>
          let at_ := s.shade rn pa
          .ok (some { s with mem := (List.range 16).foldl (fun m l =>
            if b.valid.getLsbD l then m.writeN (at_ + 4 * l) 4 (lane b.lanes l).toNat else m) s.mem })

/-- EMP_WRITE_DATA: the valid lanes of the next data beat of a raw write go to memory (R343). -/
def execEmpWriteData (rn emp ch : Nat) (s : State) : Host.Outcome State Fault Refusal :=
  .next (match s.region? rn with
    | none => s
    | some r =>
      let k := portKey rn emp ch
      let p := s.port k
      if !r.active || s.isHeld r.part (.port rn emp ch) then s
      else
        match p.wr, p.reqF with
        | some q, b :: rest =>
          if b.kind = 0 && !p.linked then
            match s.writeUnit rn q.cur b with
            | .error f => s.portFault rn emp ch q.next f true q.cur
            | .ok none => s
            | .ok (some t) =>
              let s := match s.rgDenied rn q.cur 64 true with
                | some va => s.rgPriv rn 2 (portPlace emp ch) q.next va true
                | none => t.touch rn q.cur 64
              let q := { q with next := q.next + 1, cur := q.cur + 64 }
              let p : Port := { s.port k with reqF := rest, wr := if q.next = q.count then none else some q }
              s.setPort k (if s.rowOpen rn emp ch then { p with wait := false } else p.flush r.incarn)
          else s
        | _, _ => s)

/-- EMP_REPLY: the first beat of the reply buffer leaves onto the routes of the region's memory-to-fabric attachment; a stale
one is dropped and counted (R344, R420, R499); in link mode the beats come from another module or go to one (R454). -/
def execEmpReply (rn emp ch : Nat) (s : State) : Host.Outcome State Fault Refusal :=
  .next (match s.region? rn with
    | none => s
    | some r =>
      let k := portKey rn emp ch
      let s := match (s.port k).linkIn with | some l => State.drainSlot 4 s l.aport l.chan | none => s
      let s := if r.active then s.linkSend k else s
      match (s.port k).reply with
      | [] => s
      | (inc, b) :: rest =>
        let left (s : State) : State := s.modPort k (fun p => { p with reply := rest })
        if !r.active then s
        else if inc ≠ r.incarn then left (s.errCount r.part 0)
        else
          match s.attachOf r emp ch 0 with
          | none => left s
          | some a =>
            match s.launchBeat rn r a.tile (4 + a.a) b with
            | some s => left s
            | none => s)

/-- EMP_MARKER_FORWARD: a marker at the head of the FIFO goes to the reply side once the replies and writes before it are over;
without a reply attachment it is consumed; a barrier or snuff marker has then arrived at the egress port (R344, R220, R410). -/
def execEmpMarkerForward (rn emp ch : Nat) (s : State) : Host.Outcome State Fault Refusal :=
  .next (match s.region? rn with
    | none => s
    | some r =>
      let k := portKey rn emp ch
      let p := s.port k
      match p.reqF with
      | [] => s
      | b :: rest =>
        if r.active && !p.linked && inR b.kind.toNat 2 4 && p.cur.isNone && p.wr.isNone && p.reply.isEmpty && p.marks.isEmpty &&
           !s.isHeld r.part (.port rn emp ch) && !s.rowOpen rn emp ch then
          let fwd := (s.attachOf r emp ch 0).isSome
          s.setPort k { p with
            reqF := rest, reply := if fwd then [(r.incarn, b)] else []
            barrOut := p.barrOut || b.kind == 3, snuffOut := p.snuffOut || b.kind == 4 }
        else s)

/-! ### Indirect streams (R366, R367) -/

def isIdxVa (b : List Byte) : Nat := fieldAt b 0 8
def isCount (b : List Byte) : Nat := fieldAt b 8 4
def isIsize (b : List Byte) : Nat := fieldAt b 12 1
def isFlags (b : List Byte) : Nat := fieldAt b 13 1
def isEmp (b : List Byte) : Nat := fieldAt b 14 2 % 512
def isCh (b : List Byte) : Nat := fieldAt b 14 2 / 512 % 4
def isRowLen (b : List Byte) : Nat := fieldAt b 32 4

/-- The check of a parameter block (R366). -/
def streamBlockOk (b : List Byte) : Bool :=
  decide (isIsize b ≤ 1) && isIdxVa b % (4 * 2 ^ isIsize b) == 0 && decide (1 ≤ isCount b) && decide (isCount b ≤ 2 ^ 24) &&
  isFlags b / 4 == 0 && fieldAt b 14 2 / 2048 == 0 && zeroAt b 40 64 &&
  (if (isFlags b).testBit 0 then decide (1 ≤ isRowLen b) && decide (isRowLen b ≤ 65535)
   else isRowLen b % 64 == 0 && decide (64 ≤ isRowLen b) && decide (isRowLen b ≤ 65536))

/-- The stack whose engines take a block: that of the index array's memory, else the device's choice (R366, R20). -/
def State.streamStack (s : State) (x : Xlate) (b : List Byte) : Nat × State :=
  match translate s.mem x (isIdxVa b) .read with
  | .ok (pa, _) => if pa < 16 * stackBytes then (stackOf pa, s) else s.pick numStacks
  | .error _ => s.pick numStacks

/-- A block put on a free engine of a stack, or in its queue; none where the queue is full (R367). -/
def State.startStream (s : State) (stack : Nat) (i : IStream) : Option State :=
  let d := s.die stack
  match (List.range 8).find? (fun e => (d.engines.find e).isNone) with
  | some e => some (s.setDie stack { d with engines := d.engines.put e i })
  | none => if d.queue.length < 64 then some (s.setDie stack { d with queue := d.queue ++ [i] }) else none

/-- ISTRM_BLOCK_ACCEPT: the block of an outstanding ISTRM is refused or accepted, and its status beat comes; it waits, holding
the MT's fire slot, while the stack's queue is full (R367). -/
def execIstrmBlockAccept (tile : Nat) (s : State) : Host.Outcome State Fault Refusal :=
  .next (match s.liveRegion tile with
    | none => s
    | some (rn, r) =>
      match (s.tile tile).ops.find? (fun o => opOpc o.op == 0x14) with
      | none => s
      | some o =>
        let blk := match o.dch with | some b => bytesOfLanes b.lanes | none => []
        let answer (s : State) (c : Nat) : State := s.modTile tile (fun t => (t.dropOp o.seqNo).pay o [o.word (w c)] [o.doneBeat])
        if !streamBlockOk blk || (s.attachOf r (isEmp blk) (isCh blk) 0).isNone then answer s eBADARG
        else if !(s.part r.part).current tblQueue r.origq.toNat then answer s eSTALE
        else
          let k := s.streamStack (s.rgXlate r) blk
          match k.2.startStream k.1 { rn := rn, incarn := r.incarn, block := blk, next := 0, row := none, stuck := false } with
          | some s => answer s 0
          | none => s.modTile tile (fun t => { t with ops := t.ops.map (fun x => if x.seqNo == o.seqNo then { x with waits := [1] } else x) }))

/-- The units of a row that the reply buffer has room for, from its next one on: their beats, the row after them, and the fault that
breaks it off. -/
def State.rowBeats (s : State) (rn : Nat) (x : Xlate) (rnd : BitVec 8) : Nat → Nat → PortReq → List Beat × PortReq × Option XFault
  | 0, _, q => ([], q, none)
  | n + 1, used, q =>
    if 32 ≤ used then ([], q, none)
    else
      match s.readUnit rn x rnd q with
      | .error f => ([], q, some f)
      | .ok (bs, q) => (let r := s.rowBeats rn x rnd n (used + bs.length) q; (bs ++ r.1, r.2))

/-- The next block of a stack's queue takes the engine that has become free. -/
def Stack.nextBlock (d : Stack) (e : Nat) : Stack :=
  match d.queue with
  | [] => { d with engines := d.engines.del e }
  | i :: rest => { engines := d.engines.put e i, queue := rest }

/-- The address of a stream's next index. -/
def IStream.idxAt (i : IStream) : Nat := isIdxVa i.block + 4 * 2 ^ isIsize i.block * i.next

/-- The row of an index: its request, or the fault of the index read. -/
def State.streamRow (s : State) (i : IStream) : Except XFault PortReq :=
  let b := i.block
  let dec := (isFlags b).testBit 0
  let isz := 4 * 2 ^ isIsize b
  match s.rread i.rn (isIdxVa b + isz * i.next) isz with
  | .error (_, f) => .error f
  | .ok bs =>
    let va := (w (fieldAt b 16 8 + leNat bs * fieldAt b 24 8) : Dword)
    .ok { va := va, count := if dec then isRowLen b else isRowLen b / 64, op := b2n dec, next := 0, tag := w (fieldAt b 36 4 + i.next), cur := va.toNat }

/-- The fault of a row before any of it is delivered: a raw row begins at a 64-aligned address, as a raw read does (R343, R367). -/
def rowFault (q : PortReq) : Option XFault := if q.op = 0 ∧ q.cur % 64 ≠ 0 then some reqFault else none

/-- Whether an engine may go on with its stream: the region runs, or it freezes and a row stands half delivered, it is not withheld, its
channel is not in link mode, and nothing else of the channel is under way; a port closed by a drain stops it at a row boundary (R346,
R367, R373, R409, R454). -/
def State.streamMay (s : State) (r : Region) (i : IStream) (stack eng : Nat) (p : Port) : Bool :=
  (r.active || (r.state == .freezing && i.row.isSome)) && !p.linked && !s.isHeld r.part (.istrm stack eng) && decide (p.reply.length < 32) &&
  (i.row.isSome || (!p.snuff && p.cur.isNone && !p.wait && (i.stuck || !s.rowOpen i.rn (isEmp i.block) (isCh i.block))))

/-- The end of a row or of the read of an index: the markers that have waited behind it enter, unless another row stands open. -/
def State.rowEnd (s : State) (rn emp ch : Nat) (incarn : Half) : State :=
  let k := portKey rn emp ch
  if (s.port k).wait || s.rowOpen rn emp ch then s else s.modPort k (fun p => p.flush incarn)

/-- The row of a stream that a fault breaks off is withheld; it only stands, where the region freezes. -/
def State.rowStuck (s : State) (stack eng : Nat) (i : IStream) (q : PortReq) (f : XFault) (r : Region) : State :=
  let d := s.die stack
  let s := s.setDie stack { d with engines := d.engines.put eng { i with row := some q, stuck := false } }
  if r.active then s.withholdX i.rn (.istrm stack eng) 3 (stack + 16 * eng) q.next f false q.cur else s

/-- Whether a row that a region's freeze finds half delivered is still to go on: it goes up to its boundary, or to a fault or the end of
the reply buffer's room (R373). -/
def State.rowLeft (s : State) (rn : Nat) (r : Region) (stack eng : Nat) (i : IStream) : Bool :=
  match i.row with
  | none => false
  | some q =>
    let p := s.port (portKey rn (isEmp i.block) (isCh i.block))
    i.rn == rn && s.streamMay { r with state := .freezing } i stack eng p && (rowFault q).isNone &&
      (match s.readUnit rn (s.rgXlate r) p.round q with | .ok _ => true | .error _ => false)

/-- INDIRECT_STREAM_ROW (what is below the least privilege of what stands there is not delivered, R12): an engine reads its next index, or delivers the units of its row that the reply buffer of the region's
attachment has room for; a fault withholds the engine; a stream whose region or attachment is gone ends; it pauses at a row boundary
while the region does not run, and while its port is closed by a drain (R367, R373, R409, R411). -/
def execIndirectStreamRow (stack eng : Nat) (s : State) : Host.Outcome State Fault Refusal :=
  .next (match (s.die stack).engines.find eng with
    | none => s
    | some i =>
      let done : State := s.setDie stack ((s.die stack).nextBlock eng)
      match s.region? i.rn with
      | none => done
      | some r =>
        let b := i.block
        if r.incarn ≠ i.incarn then done
        else
          match s.attachOf r (isEmp b) (isCh b) 0 with
          | none => done
          | some a =>
            let k := a.key i.rn
            let p := s.port k
            let place := stack + 16 * eng
            let put (x : IStream) (s : State) : State :=
              s.setDie stack { s.die stack with engines := (s.die stack).engines.put eng x }
            if !s.streamMay r i stack eng p then s
            else if i.next = isCount b then
              let s := if (isFlags b).testBit 1 then s.inject i.rn r a 2 else s
              s.setDie stack ((s.die stack).nextBlock eng)
            else
              if let (none, some va) := (i.row, s.rgDenied i.rn i.idxAt (4 * 2 ^ isIsize b) false) then
                (put { i with next := i.next + 1, stuck := false } (s.rgPriv i.rn 3 place i.next va false)).rowEnd i.rn a.emp a.ch r.incarn
              else
              match (match i.row with | some q => .ok q | none => s.streamRow i : Except XFault PortReq) with
              | .error f =>
                (put { i with stuck := true } s).withholdX i.rn (.istrm stack eng) 3 place i.next f false
                  (isIdxVa b + 4 * 2 ^ isIsize b * i.next)
              | .ok q =>
                match rowFault q with
                | some f => s.rowStuck stack eng i q f r
                | none =>
                  let d := s.rowBeats i.rn (s.rgXlate r) p.round (q.count - q.next) p.reply.length q
                  let no := s.rgDenied i.rn q.cur (d.2.1.cur - q.cur) false
                  let d := if no.isSome then ([], d.2) else d
                  let s := match no with | some va => s.rgPriv i.rn 3 place q.next va false | none => s
                  let s := (s.touch i.rn q.cur (max 1 (64 * (d.2.1.next - q.next)))).modPort k
                    (fun p => { p with reply := p.reply ++ d.1.map (fun x => (r.incarn, x)) })
                  let q := d.2.1
                  match d.2.2 with
                  | some f => s.rowStuck stack eng i q f r
                  | none =>
                    if q.next < q.count then put { i with row := some q, stuck := false } s
                    else (put { i with next := i.next + 1, row := none, stuck := false } (s.touch i.rn (i.idxAt) 1)).rowEnd i.rn a.emp a.ch r.incarn)

end Sys2Proof.Machine
end

