-- ==== Sys2Proof/Machine/Rg.lean ====
section
/-! DEFINITION. Region control of a Lantern hart (R152-R163): claims, installs, starts, stops, saves, loads, moves, kills. -/

namespace Sys2Proof.Machine

open Sys2Proof.Config

/-! ### Rectangles and what owns them -/

/-- A rectangle of tiles: column, row, width, height. -/
structure Rect where
  x : Nat
  y : Nat
  wd : Nat
  ht : Nat
  deriving DecidableEq, Repr

/-- Whether two rectangles share a tile. -/
def Rect.meets (a b : Rect) : Bool :=
  decide (a.x < b.x + b.wd) && decide (b.x < a.x + a.wd) && decide (a.y < b.y + b.ht) && decide (b.y < a.y + a.ht)

def Region.rect (r : Region) : Rect := { x := r.ocol, y := r.orow, wd := r.width, ht := r.height }

/-- The chiplets a rectangle overlaps, ascending (R13). -/
def Rect.chips (a : Rect) : List Nat :=
  (List.range 16).filter fun c => a.meets { x := c % 4 * chipSide, y := c / 4 * chipSide, wd := chipSide, ht := chipSide }

/-- Whether a rectangle lies within the chiplets CHIPS permits; 0 permits all (R119). -/
def Rect.permitted (a : Rect) (chips : Nat) : Bool := chips == 0 || a.chips.all (fun c => chips.testBit c)

/-- Whether a self-test with an operand of R172 covers a rectangle: its window, its chiplet, or the tiles on either side of its seam
(notes/assumptions 27). -/
def testMeets (op : Nat) (a : Rect) : Bool :=
  let c := nbits op 5 2
  let x := c % 4 * chipSide
  let y := c / 4 * chipSide
  match nbits op 1 0 with
  | 0 => a.meets { x := x + nbits op 12 6 % 10 * 16, y := y + nbits op 12 6 / 10 * 16, wd := 16, ht := 16 }
  | 1 => a.meets { x := x, y := y, wd := chipSide, ht := chipSide }
  | _ =>
    if op.testBit 13 then
      a.meets { x := x, y := y + chipSide - 1, wd := chipSide, ht := 1 } || a.meets { x := x, y := y + chipSide, wd := chipSide, ht := 1 }
    else
      a.meets { x := x + chipSide - 1, y := y, wd := 1, ht := chipSide } || a.meets { x := x + chipSide, y := y, wd := 1, ht := chipSide }

/-- The operands of the self-tests that run. -/
def State.testsRunning (s : State) : List Nat :=
  s.harts.flatMap fun h => (h.2.bists.filter (fun b => b.2.1 == 0)).map (fun b => b.2.2.1)

/-- Whether a tile of a rectangle is owned, being zeroed or under test (R154, R172, R439). -/
def State.rectBusy (s : State) (a : Rect) : Bool :=
  s.regions.any (fun x => x.2.rect.meets a) || s.testsRunning.any (fun op => testMeets op a)

/-! ### rg.claim (R154, R155, R174) -/

/-- Whether a sequencer is good and bound to no region (R22, R425). -/
def State.seqFree (s : State) (sq : Nat) : Bool :=
  (s.region? sq).isNone && !s.seqOut sq

/-- The sequencer a claim of a rectangle binds: the lowest-numbered free one of the chiplets it overlaps. -/
def State.seqFor (s : State) (a : Rect) : Option Nat :=
  a.chips.findSome? fun c => ((List.range seqsPerChip).map (fun i => seqsPerChip * c + i)).find? s.seqFree

/-- Whether a rectangle may stand at an origin: even parity, inside the module, in permitted chiplets. -/
def Rect.mayStand (a : Rect) (chips : Nat) : Bool :=
  (a.x + a.y) % 2 == 0 && decide (a.x + a.wd ≤ gridSide) && decide (a.y + a.ht ≤ gridSide) && a.permitted chips

/-- The origins a claim without FIXED may take, in scan order. -/
def State.origins (s : State) (wd ht chips : Nat) : List Rect :=
  (List.range gridSide).flatMap fun y => (List.range gridSide).filterMap fun x =>
    let a : Rect := { x := x, y := y, wd := wd, ht := ht }
    if a.mayStand chips && !s.rectBusy a then some a else none

/-- A CLAIMED region on a rectangle. -/
def newRegion (p slot gen : Nat) (a : Rect) : Region :=
  { part := p, slot := slot, gen := gen, ocol := a.x, orow := a.y, width := a.wd, height := a.ht, state := .claimed, version := 0
    incarn := 0, lasterr := 0, why := 0, frzWhy := 0, attach := none, run := none, period := 0, origq := 0, code := [], seq := Seq.zero
    sects := [], inst := none, async := none, zeroing := false, freeing := false, cycles := 0, phase := 0, phaseStart := 0
    cfgFrom := none, cfgLoad := 0, prof := [0, 0, 0, 0], saved := false, debug := false, warm := false, inPlace := false
    shadows := [], firings := 0, beatsOut := 0, sampleAt := 0, pushIdx := 0 }

/-- The regions of a partition, and their tiles. -/
def State.claimed (s : State) (p : Nat) : List Region := (s.regions.map (·.2)).filter (fun r => r.part == p && !r.freeing)

/-- Whether one more region of a size would exceed the regions, tiles or sequencers quota (R134). -/
def State.claimOver (s : State) (p n : Nat) : Bool :=
  let P := s.part p
  let rs := s.claimed p
  decide (P.quota 0 < rs.length + 1) || decide (P.quota 2 < rs.length + 1) ||
  decide (P.quota 1 < (rs.map (fun r => r.width * r.height)).sum + n)

/-- A claim granted: the region on its rectangle with its sequencer, its tiles zero. -/
def State.grantClaim (s : State) (rd : Reg) (p : Nat) (a : Rect) (sq : Nat) : State :=
  let (slot, s) := s.freeSlot p tblRegion
  let r := newRegion p slot ((s.part p).gen tblRegion slot) a
  let s := (s.modPart p fun P => { P with rgs := P.rgs.put slot sq }).setRegion sq r
  (s.zeroTiles r).xResult rd (w ((s.part p).handle tblRegion slot + 2 ^ 32 * sq))

/-- rg.claim (R154). -/
def execRgClaim (rd rs1 rs2 : Reg) (s : State) : Host.Outcome State Fault Refusal :=
  .next (s.xPart rd 1 none (fun h p s =>
    let a := h.get rs1
    let b := h.get rs2
    let wd := bits a 9 0
    let ht := bits a 25 16
    let chips := bits a 47 32
    let fixed := bit b 63
    let r : Rect := { x := bits b 9 0, y := bits b 25 16, wd := wd, ht := ht }
    if bits a 63 48 ≠ 0 || bits a 31 26 ≠ 0 || bits a 15 10 ≠ 0 || wd < 2 || 640 < wd || ht < 2 || 640 < ht ||
       bits b 62 26 ≠ 0 || bits b 15 10 ≠ 0 || (fixed && !r.mayStand chips) then s.xErr rd eBADARG
    else if s.claimOver p (wd * ht) then s.xErr rd eQUOTA
    else if fixed then
      if s.rectBusy r then s.xErr rd eBUSY
      else
        match s.seqFor r with
        | none => s.xErr rd eNOSEQ
        | some sq => s.grantClaim rd p r sq
    else
      let os := s.origins wd ht chips
      match os.find? (fun a => (s.seqFor a).isSome) with
      | some a => s.grantClaim rd p a ((s.seqFor a).getD 0)
      | none => if os.isEmpty then s.xErr rd eBUSY else s.xErr rd eNOSEQ))

/-! ### Operands of the other region instructions (R127, R153) -/

/-- Whether a region is in a state in which every rg instruction but rg.stat, rg.kill and a freeze of a drain returns BUSY. -/
def RgState.busy (st : RgState) : Bool :=
  st == .installing || st == .draining || st == .freezing || st == .saving || st == .loading

/-- An instruction on the region a register names, whatever its state: STALE where the handle is stale. -/
def State.xRegion (s : State) (rd rs1 : Reg) (adr : Option Reg) (f : Hart → Nat → Region → State → State) : State :=
  s.xPart rd 1 adr (fun h p s =>
    match s.rgOf p (bits (h.get rs1) 31 0) with
    | some (rn, r) => f h rn r s
    | none => s.xErr rd eSTALE)

/-- An instruction that a list of states admits: BUSY from a busy state, BADSTATE from any other. -/
def State.xGate (s : State) (rd : Reg) (r : Region) (ok : List RgState) (f : State → State) : State :=
  if ok.contains r.state then f s
  else if r.state.busy then s.xErr rd eBUSY
  else s.xErr rd eBADSTATE

/-! ### rg.cfg (R156) -/

/-- The limits of the descriptor of rg.cfg. -/
def cfgDescOk (b : List Byte) : Bool :=
  fieldAt b 0 8 % 4 == 0 && decide (1 ≤ fieldAt b 8 4) && decide (fieldAt b 8 4 ≤ 2 ^ 28) && zeroAt b 12 16 &&
  fieldAt b 16 8 % 16 == 0 && zeroAt b 24 32

/-- rg.cfg: an install begins under the hart's translation, full from CLAIMED and partial from READY (R144, R156, R191). The descriptor is
checked before the state (DESIGN CHOICE; notes/assumptions 44). -/
def execRgCfg (rd rs1 rs2 : Reg) (s : State) : Host.Outcome State Fault Refusal :=
  .next (s.xRegion rd rs1 (some rs2) (fun h rn r s =>
    s.xBlock rd h (h.get rs2) 32 8 (fun b s =>
      if !cfgDescOk b then s.xErr rd eBADARG
      else
        s.xGate rd r [.claimed, .ready] (fun s =>
          (s.modRegion rn fun g => { g with
            state := .installing
            inst := some (newInstall (r.state == .claimed) false (w (fieldAt b 0 8)) (fieldAt b 8 4) h.xlate (w (fieldAt b 16 8)) 0 0) }).xResult rd 0))))

/-! ### rg.start (R157, R177, R408, R418) -/

/-- Whether a shape class is in the table and has a region's shape. -/
def State.classFits (s : State) (r : Region) (n : Nat) : Bool :=
  s.hasClass r.part n && fieldAt (s.scEntry r.part n) 0 2 == r.width && fieldAt (s.scEntry r.part n) 2 2 == r.height

/-- A port whose region resumes: no drain. -/
def Port.resumed (p : Port) : Port := { p with snuff := false, snuffOut := false, marks := p.marks.filter (· != 4) }

/-- A paused stream goes to an engine again, or to its stack's queue. -/
def State.restart (s : State) (i : IStream) : State :=
  match s.region? i.rn with
  | none => s
  | some r =>
    let x := s.streamStack (s.rgXlate r) i.block
    match x.2.startStream x.1 i with
    | some s => s
    | none => x.2.setDie x.1 { x.2.die x.1 with queue := (x.2.die x.1).queue ++ [i] }

/-- The streams paused at a port go on (R373, R418). -/
def State.restream (s : State) (k : Nat) : State :=
  (s.port k).streams.foldl State.restart (s.modPort k (fun p => { p with streams := [] }))

/-- A STOPPED region resumes: traps cleared, the drain it may have been in undone, waiting ACQNs requested again, and its pod channels
read (R408, R418, R454). -/
def State.resume (s : State) (rn : Nat) : State :=
  match s.region? rn with
  | none => s
  | some r =>
    let s := s.modListed r (fun t => { t with trap := none, merged := false })
    let s : State := { s with ports := s.ports.map (fun (x : Nat × Port) => if x.1 / 2048 == rn then (x.1, x.2.resumed) else x) }
    let s := (s.modRegion rn fun g => { g with
      state := .running, why := 0, frzWhy := 0, saved := false
      seq := { g.seq with trapped := none, stopNext := false, acqWait := none } }).reAcqns rn
    (((s.ports.filter (fun x => x.1 / 2048 == rn)).map (·.1)).foldl State.restream s).readChannels rn

/-- Whether a fault record of a region waits to be written: its parties stay stopped and withheld until then (R407,
notes/assumptions 41). -/
def State.recordWaits (s : State) (r : Region) : Bool :=
  (s.part r.part).fqWait.any (fun x => x.region.toNat == s.rgHandle r && x.incarn == r.incarn)

/-- rg.start (R157). The state is checked before the queue and the class (DESIGN CHOICE; notes/assumptions 44). -/
def execRgStart (rd rs1 rs2 : Reg) (s : State) : Host.Outcome State Fault Refusal :=
  .next (s.xRegion rd rs1 none (fun h rn r s =>
    let b := h.get rs2
    let qh := bits b 31 0
    if bits b 63 56 ≠ 0 then s.xErr rd eBADARG
    else
      s.xGate rd r [.ready, .stopped] (fun s =>
        if r.state == .stopped && s.recordWaits r then s.xErr rd eBUSY
        else if b ≠ 0 && !(s.part r.part).current tblQueue qh then s.xErr rd eSTALE
        else if b ≠ 0 && !s.classFits r (bits b 55 32) then s.xErr rd eNOSHAPE
        else
          let att : Option (Word × Nat) := if b = 0 then none else some (w qh, bits b 55 32)
          if r.state == .ready then
            if b = 0 then s.xErr rd eBADARG
            else ((s.modRegion rn fun g => { g with state := .idle, attach := att }).readChannels rn).xResult rd 0
          else if r.why == 4 then s.xErr rd eBADSTATE
          else ((s.modRegion rn fun g => { g with attach := att }).resume rn).xResult rd 0)))

/-! ### rg.snuff, rg.freeze (R158) -/

/-- rg.snuff: an IDLE region is detached, a RUNNING one begins its drain. -/
def execRgSnuff (rd rs1 : Reg) (s : State) : Host.Outcome State Fault Refusal :=
  .next (s.xRegion rd rs1 none (fun _ rn r s =>
    s.xGate rd r [.idle, .running] (fun s =>
      if r.state == .idle then (s.modRegion rn fun g => { g with state := .ready, attach := none }).xResult rd 0
      else (s.drain rn).xResult rd 0)))

/-- rg.freeze. -/
def execRgFreeze (rd rs1 : Reg) (s : State) : Host.Outcome State Fault Refusal :=
  .next (s.xRegion rd rs1 none (fun _ rn r s =>
    s.xGate rd r [.running, .draining] (fun s => (s.freeze rn 2).xResult rd 0)))

/-! ### rg.save, rg.load (R159) -/

/-- rg.save: the writing of the image starts; LASTERR is set at its end. -/
def execRgSave (rd rs1 rs2 : Reg) (s : State) : Host.Outcome State Fault Refusal :=
  .next (s.xRegion rd rs1 (some rs2) (fun h rn r s =>
    let va := h.get rs2
    if va.toNat % 64 ≠ 0 then s.xErr rd eBADARG
    else
      s.xGate rd r [.stopped] (fun s =>
        (s.modRegion rn fun g => { g with state := .saving, async := some (.save va h.xlate) }).xResult rd 0)))

/-- rg.load: the reading of the image starts. -/
def execRgLoad (rd rs1 rs2 : Reg) (s : State) : Host.Outcome State Fault Refusal :=
  .next (s.xRegion rd rs1 (some rs2) (fun h rn r s =>
    let va := h.get rs2
    if va.toNat % 64 ≠ 0 then s.xErr rd eBADARG
    else
      s.xGate rd r [.claimed, .ready] (fun s =>
        (s.modRegion rn fun g => { g with state := .loading, async := some (.load va h.xlate) }).xResult rd 0)))

/-! ### rg.kill, rg.stat, rg.free (R161-R163) -/

/-- rg.kill. -/
def execRgKill (rd rs1 : Reg) (s : State) : Host.Outcome State Fault Refusal :=
  .next (s.xRegion rd rs1 none (fun _ rn r s => (s.kill rn r.killStatus).xResult rd 0))

/-- The code of a state (R152). -/
def RgState.code (st : RgState) : Nat :=
  match st with
  | .claimed => 1
  | .installing => 2
  | .ready => 3
  | .idle => 4
  | .running => 5
  | .draining => 6
  | .freezing => 7
  | .stopped => 8
  | .saving => 9
  | .loading => 10

/-- Whether an EMP port withholds a token of a region (R346). -/
def State.portHeld (s : State) (rn : Nat) (r : Region) : Bool :=
  (s.part r.part).held.any fun h =>
    match h.who with
    | .port n _ _ => n == rn
    | _ => false

/-- The word of rg.stat (R162). -/
def State.rgStat (s : State) (rn : Nat) (r : Region) : Dword :=
  w (r.version.toNat * 2 ^ 40 + r.incarn.toNat * 2 ^ 24 + r.lasterr.toNat * 2 ^ 16 +
     (if r.state == .stopped then r.why else 0) * 2 ^ 8 + b2n (s.portHeld rn r) * 2 ^ 4 + r.state.code)

/-- rg.stat: never BUSY. -/
def execRgStat (rd rs1 : Reg) (s : State) : Host.Outcome State Fault Refusal :=
  .next (s.xRegion rd rs1 none (fun _ rn r s => s.xResult rd (s.rgStat rn r)))

/-- rg.free: the period the region holds is settled, then the region is freed. -/
def execRgFree (rd rs1 : Reg) (s : State) : Host.Outcome State Fault Refusal :=
  .next (s.xRegion rd rs1 none (fun _ rn r s =>
    s.xGate rd r [.claimed, .ready, .idle, .stopped] (fun s => ((s.settle rn r).freeRegion rn).xResult rd 0)))

end Sys2Proof.Machine
end

