-- ==== Sys2Proof/Machine/SeqWork.lean ====
section
/-! DEFINITION. Continuations, sync objects, fences, trims, waits, traps and CSRs of the graph sequencer (R222-R230, R232,
R233, R443), with the commit points of an in-place period (R424) and the results a replayed period receives (R425). -/

namespace Sys2Proof.Machine

open Sys2Proof.Config

/-! ### Commit points and replay (R424, R425) -/

/-- The journalled result of push number idx of a period. -/
def State.journalled (s : State) (period idx : Nat) : Option Dword :=
  s.journal.findSome? fun e =>
    match e with
    | .result p i v => if p = period ∧ i = idx then some v else none
    | _ => none

/-- The result of a push or a join of a period is journalled under its push index, and received (R423, R425). -/
def State.seqPushed (s : State) (d : Reg) (v : Dword) : State :=
  match s.region? s.curSeq with
  | none => s
  | some r =>
    let s := { s with journal := s.journal ++ [JEntry.result r.period r.pushIdx v] }
    (s.modRegion s.curSeq fun g => { g with pushIdx := g.pushIdx + 1 }).seqResult d v

/-- A push or a join of a period: a replayed one receives the journalled result and is not made again; else the sequencer's
earlier accesses are performed first, the period commits, and `f` makes it. -/
def State.seqPush (s : State) (d : Reg) (r : Region) (f : State → State) : State :=
  match s.journalled r.period r.pushIdx with
  | some v => (s.modRegion s.curSeq fun g => { g with pushIdx := g.pushIdx + 1 }).seqResult d v
  | none => if r.seq.acc.isEmpty then f (s.commit s.curSeq) else s

/-- A block that a sequencer's word names: BADARG where it is misaligned, and withheld as a scalar access where it faults
(R202, R222). -/
def State.seqBlock (s : State) (d : Reg) (r : Region) (va : Dword) (n k : Nat) (f : List Byte → State → State) : State :=
  if va.toNat % k ≠ 0 then s.seqPushed d (errWord eBADARG)
  else if bits va 63 57 ≠ 0 then s.trapNow fACCESS
  else if s.isHeld r.part (.seqAccess s.curSeq (2 ^ 20)) then s
  else
    match s.rread s.curSeq va.toNat n with
    | .error (o, x) => s.withholdX s.curSeq (.seqAccess s.curSeq (2 ^ 20)) 1 s.curSeq r.seq.pc x false (va.toNat + o)
    | .ok bs => f bs (s.touch s.curSeq va.toNat n)

/-- A journalled push with its pusher: the number of a period and its push index (R423). -/
def JEntry.pushedBy (e : JEntry) (period idx : Nat) : JEntry :=
  match e with
  | .push p q c _ => .push p q c (some (period, idx))
  | e => e

/-- The pushes journalled after the first n entries are a period's own. -/
def State.ownPushes (s : State) (n period idx : Nat) : State :=
  { s with journal := s.journal.take n ++ (s.journal.drop n).map (fun e => e.pushedBy period idx) }

/-- The outcome of a push or a join whose join block may fault: the fault is withheld with SRC 3 and the word issues again
(R131, R346). -/
def State.seqJoined (s : State) (d : Reg) (r : Region) (va : Nat) (o : Except XFault (Dword × State)) : State :=
  match o with
  | .ok (v, t) => (t.ownPushes s.journal.length r.period r.pushIdx).seqPushed d v
  | .error x => s.withholdEngine r.part s.curSeq (.seqAccess s.curSeq (2 ^ 20)) x true va none

/-- The IIDX of the running record. -/
def Region.iidx (r : Region) : Nat := match r.run with | some c => c.iidx | none => noInst

/-! ### SPAWN, JOIN (R222, R223) -/

/-- SPAWN with f = 0: the record at A pushed to queue handle B as hq.push does (R222). -/
def execSpawnRecord (d : Reg) (a b : Src) (s : State) : Host.Outcome State Fault Refusal :=
  .next (s.issue [a, b] (some d) (fun r s =>
    s.seqPush d r (fun s =>
      s.seqBlock d r (r.src a) 32 32 (fun bs s =>
        let c := contOf bs
        if bits (r.src b) 63 32 ≠ 0 then s.seqPushed d (errWord eBADARG)
        else s.seqJoined d r c.join.toNat (s.pushRec r.part (s.rgXlate r) (bits (r.src b) 31 0) c r.iidx)))))

/-- SPAWN with f = 1: the launch record at A dispatched with the block at B as lan.dispatch does (R222). -/
def execSpawnLaunch (d : Reg) (a b : Src) (s : State) : Host.Outcome State Fault Refusal :=
  .next (s.issue [a, b] (some d) (fun r s =>
    s.seqPush d r (fun s =>
      s.seqBlock d r (r.src b) 16 16 (fun blk s =>
        s.seqBlock d r (r.src a) 256 64 (fun bs s =>
          s.seqJoined d r (fieldAt blk 8 8) (s.dispatch r.part (s.rgXlate r) bs blk r.iidx))))))

/-- JOIN: the join block that the arm block at A names is armed as lan.join does (R223). -/
def execJoin (d : Reg) (a : Src) (s : State) : Host.Outcome State Fault Refusal :=
  .next (s.issue [a] (some d) (fun r s =>
    s.seqPush d r (fun s =>
      s.seqBlock d r (r.src a) 64 64 (fun bs s =>
        s.seqJoined d r (fieldAt bs 0 8) (s.armJoin r.part (s.rgXlate r) bs)))))

/-! ### RETIRE, YIELD (R224, R225, R437) -/

/-- The sections forked and not yet met. -/
def Region.forkedSects (r : Region) : List Nat := (r.sects.filter (fun x => x.2.forked != 0)).map (·.1)

/-- Step 1 of RETIRE and YIELD: every register is full, the posted stores are performed, and every forked section is done. -/
def State.mayRetire (s : State) (r : Region) : Bool :=
  r.seq.full == 0xFFFFFFFF && r.seq.acc.isEmpty && r.forkedSects.all (fun a => s.sectDone r a)

/-- Each forked section is met as by RDV; then, unless a phase log's store is withheld, `f` goes on. -/
def State.meetAll (s : State) (rn : Nat) (r : Region) (f : Region → State → State) : State :=
  let s := r.forkedSects.foldl (fun s a => s.phaseEnd rn a) s
  match s.region? rn with
  | some g => if g.seq.acc.isEmpty then f g s else s
  | none => s

/-- The units of a read that a retiring period leaves unanswered: each is a reply to be dropped (R437). -/
def Port.owed (p : Port) : Nat := match p.cur with | some c => c.count - c.next | none => 0

/-- Replies owed to a retired period are dropped and counted in STALEREP; its streams end, its withheld accesses go (R437). -/
def State.dropReplies (s : State) (rn : Nat) : State :=
  match s.region? rn with
  | none => s
  | some r =>
    let n := ((s.ports.filter (fun x => x.1 / 2048 == rn)).map (fun x => x.2.owed)).sum
    let s := (List.range n).foldl (fun s _ => s.errCount r.part 0) s
    let s : State := { s with ports := s.ports.map (fun (x : Nat × Port) =>
      if x.1 / 2048 == rn then (x.1, ({ x.2 with cur := none, streams := [] } : Port).flush r.incarn) else x) }
    (s.dropStreams rn).dropHeld rn

/-- The region leaves RUNNING at the end of its period: IDLE if attached, else READY (R153). -/
def State.leaveRun (s : State) (rn : Nat) : State :=
  (s.dropReplies rn).modRegion rn fun g => { g with
    state := if g.attach.isSome then .idle else .ready, run := none, seq := { g.seq with trims := [] } }

/-- The status a period that retires carries: DATA_LOST where it used lost data (R426), else its ISTAT (R501). -/
def State.retireStatus (s : State) (g : Region) : Nat :=
  if s.lostPeriods.contains g.period then stDATALOST
  else
    match g.run with
    | some c => c.istat
    | none => 0

/-- RETIRE (R224, R437): the holds are released in ascending handle order, the retirement is traced, the join block
decremented, and the region leaves RUNNING. -/
def execRetire (s : State) : Host.Outcome State Fault Refusal :=
  .next (s.issue [] none (fun r s =>
    if !s.mayRetire r then s
    else
      let rn := s.curSeq
      s.meetAll rn r (fun g s =>
        let s := (s.commit rn).releaseAll g.part (.seq rn)
        let s := s.trace rn 3 (g.phase % 2 ^ 32 + 2 ^ 63 * b2n g.warm) 0
        (s.endPeriod rn (s.retireStatus g)).leaveRun rn)))

/-- The record YIELD pushes: the running one with a new ENTRY, its IIDX and ISTAT kept (R225). -/
def yieldRec (c : Cont) (entry : Nat) : Cont := { c with code := putBits c.code 53 40 entry }

/-- YIELD (R225): steps 1 and 2 of RETIRE, then the push from the reserve; no join block changes. -/
def execYield (a : Src) (s : State) : Host.Outcome State Fault Refusal :=
  .next (s.issue [a] none (fun r s =>
    let e := (r.src a).toNat
    if e % 4 ≠ 0 || 16384 ≤ e then s.trapNow fOPND
    else if !s.mayRetire r then s
    else
      let rn := s.curSeq
      s.meetAll rn r (fun g s =>
        let s := (s.commit rn).releaseAll g.part (.seq rn)
        let s := match g.run with
          | some c =>
            (s.pushOr g.part (hSlot g.origq.toNat - 1) (s.rgXlate g) (yieldRec (c.tagged c.iidx (s.retireStatus g)) e) none).ownPushes
              s.journal.length g.period g.pushIdx
          | none => s
        ({ s with journal := s.journal ++ [JEntry.retire g.period] }).leaveRun rn)))

/-! ### ACQ, REL, FENCEX (R226-R228) -/

/-- ACQ (R226). -/
def execAcq (d : Reg) (a b : Src) (s : State) : Host.Outcome State Fault Refusal :=
  .next (s.issue [a, b] (some d) (fun r s =>
    let h := r.src a
    let m := r.src b
    if r.seq.acqWait.isSome then s
    else if bits h 63 32 ≠ 0 || bits m 63 7 ≠ 0 || bits m 3 2 ≠ 0 then s.trapNow fOPND
    else
      match s.soAcq r.part h.toNat (.seq s.curSeq) (bit m 0) (bit m 1) (bits m 6 4) (.seqReg s.curSeq d) with
      | (.granted, s) => s.seqResult d 0
      | (.queued, s) => s.modSeq s.curSeq (fun q => { q with acqWait := some (d, w h.toNat) })
      | (.err c, s) => s.seqResult d (errWord c)))

/-- REL (R227). -/
def execRel (d : Reg) (a : Src) (s : State) : Host.Outcome State Fault Refusal :=
  .next (s.issue [a] (some d) (fun r s =>
    if !r.seq.acc.isEmpty then s
    else
      let (v, s) := (s.commit s.curSeq).soRel r.part (r.src a).toNat (.seq s.curSeq)
      s.seqResult d v))

/-- FENCEX: the sequencer's earlier writes are performed before it completes (R228). -/
def execFencex (a b : Src) (s : State) : Host.Outcome State Fault Refusal :=
  .next (s.issue [a, b] none (fun r s => if r.seq.acc.isEmpty then (s.commit s.curSeq).seqNext else s))

/-! ### TRIM (R229) -/

/-- The TRIM record of a command block. -/
def trimRec (a : Dword) (prio : Nat) : Cont := { code := a, frame := 0, join := 0, flags := w (prio + 4 * kTRIM) }

/-- The number of the TRIM that a period has journalled under a push index, and the token journalled for a TRIM. -/
def State.trimPushed (s : State) (period idx : Nat) : Option Nat :=
  s.journal.findSome? fun e => match e with | .trimPush p i n => if p = period ∧ i = idx then some n else none | _ => none
def State.trimTokenOf (s : State) (p num : Nat) : Option Dword :=
  s.journal.findSome? fun e => match e with | .trimToken q n v => if q = p ∧ n = num then some v else none | _ => none

/-- The TRIM of a replayed period is not made again: its register receives the journalled token, now or when the command ends (R425). -/
def State.trimAgain (s : State) (d : Reg) (r : Region) (n : Nat) : State :=
  let s := s.modRegion s.curSeq fun g => { g with pushIdx := g.pushIdx + 1 }
  match s.trimTokenOf r.part n with
  | some v => s.seqResult d v
  | none => s.modSeq s.curSeq (fun q => { (q.clear d) with trims := q.trims ++ [(n, d)], pc := q.pc + 4 })

/-- A TRIM not made before: its record pushed from the queue's share, or a token with its error. -/
def State.trimNow (s : State) (d : Reg) (a b : Src) (r : Region) : State :=
    let P := s.part r.part
    let qh := (r.src b).toNat
    let prio := match r.run with | some c => c.prio | none => 0
    let c := trimRec (r.src a) prio
    if !P.current tblQueue qh then s.seqPushed d (tokenWord eSTALE 0)
    else if !s.recOk r.part c then s.seqPushed d (tokenWord eBADREC 0)
    else if !P.room (hSlot qh - 1) prio 1 0 then s.seqPushed d (tokenWord eQFULL 0)
    else
      let n := P.trimNo
      let c := c.tagged r.iidx 0
      let s := s.modPart r.part fun P =>
        match P.queues.find (hSlot qh - 1) with
        | some Q => { P with trimNo := n + 1, queues := P.queues.put (hSlot qh - 1) (Q.add { cont := c, rsv := false, period := none, trim := some n }) }
        | none => P
      let s := { s with journal := s.journal ++ [JEntry.push r.part (hSlot qh - 1) c (some (r.period, r.pushIdx)), JEntry.trimPush r.period r.pushIdx n] }
      let s := s.modRegion s.curSeq fun g => { g with pushIdx := g.pushIdx + 1 }
      s.modSeq s.curSeq (fun q => { (q.clear d) with trims := q.trims ++ [(n, d)], pc := q.pc + 4 })

/-- TRIM (R229); a replayed one is not made again (R425). -/
def execTrim (d : Reg) (a b : Src) (s : State) : Host.Outcome State Fault Refusal :=
  .next (s.issue [a, b] (some d) (fun r s =>
    match s.trimPushed r.period r.pushIdx, s.journalled r.period r.pushIdx with
    | some n, _ => s.trimAgain d r n
    | none, some v => (s.modRegion s.curSeq fun g => { g with pushIdx := g.pushIdx + 1 }).seqResult d v
    | none, none => s.trimNow d a b r))

/-! ### WAITT (R230) -/

/-- WAITT: waits for a test of the named and the full registers, whatever the T bit of its source. -/
def State.waitt (s : State) (f : Dword → Dword → Bool) (d : Reg) (a : Src) : State :=
  s.issue [{ a with t := false }] (some d) (fun r s =>
    let named := r.src a &&& 0xFFFFFFFE
    let got := r.seq.fullMask named
    if f named got then s.seqResult d got else s)

/-- WAITT with f = 0: all of the named registers are full (R230). -/
def execWaittAll (d : Reg) (a : Src) (s : State) : Host.Outcome State Fault Refusal :=
  .next (s.waitt (fun named got => named == got) d a)
/-- WAITT with f = 1: one of them is full, or none is named (R230). -/
def execWaittAny (d : Reg) (a : Src) (s : State) : Host.Outcome State Fault Refusal :=
  .next (s.waitt (fun named got => named == 0 || got != 0) d a)

/-! ### TRAP, CSRR, CSRW (R232, R233, R443) -/

/-- TRAP: USER with code n and argument A (R232). -/
def execTrap (a : Src) (n : BitVec 9) (s : State) : Host.Outcome State Fault Refusal :=
  .next (s.issue [a] none (fun r s => s.seqTrap s.curSeq fUSER (r.src a) (n.setWidth 64)))

/-- The value of a sequencer CSR; none for an unassigned number (R233, R443). -/
def State.seqCsr (s : State) (rn : Nat) (r : Region) (n : Nat) : Option Dword :=
  let c := r.run.getD { code := 0, frame := 0, join := 0, flags := 0 }
  match n with
  | 0 => some (w rn)
  | 1 => some (w (s.rgHandle r))
  | 2 => some (w (r.width + 2 ^ 16 * r.height))
  | 3 => some c.frame
  | 4 => some c.join
  | 5 => some (w (r.origq.toNat + 2 ^ 32 * c.prio + 2 ^ 34 * c.sclass))
  | 6 => some (w r.seq.copies.length)
  | 7 => some (w ((s.ports_ r 0).length + 2 ^ 16 * (s.ports_ r 1).length))
  | 8 => some r.seq.profbase
  | _ => if 0x20 ≤ n ∧ n ≤ 0x27 then some (nth r.seq.scr (n - 0x20) 0) else none

/-- The value PROFBASE holds after a write (R443): its RO bits zero, a LOG2N of 13 to 15 stored as 12. -/
def profbaseOf (v : Dword) : Dword := w (bits v 56 6 * 64 + min 12 (bits v 3 0))

/-- CSRR (R233). -/
def execCsrr (d : Reg) (n : BitVec 9) (s : State) : Host.Outcome State Fault Refusal :=
  .next (s.issue [] (some d) (fun r s =>
    match s.seqCsr s.curSeq r n.toNat with
    | some v => s.seqResult d v
    | none => s.trapNow fILLEG))

/-- CSRW (R233): the writable CSRs are PROFBASE and SCR0 to SCR7. -/
def execCsrw (a : Src) (n : BitVec 9) (s : State) : Host.Outcome State Fault Refusal :=
  .next (s.issue [a] none (fun r s =>
    if n = 8 then s.modSeq s.curSeq (fun q => { q with profbase := profbaseOf (r.src a), pc := q.pc + 4 })
    else if 0x20 ≤ n.toNat ∧ n.toNat ≤ 0x27 then
      s.modSeq s.curSeq (fun q => { q with scr := q.scr.set (n.toNat - 0x20) (r.src a), pc := q.pc + 4 })
    else s.trapNow fILLEG))

end Sys2Proof.Machine
end

