-- ==== Sys2Proof/Machine/ConfigCheck.lean ====
section
/-! DEFINITION. The checks of configuration words: fields at their write (R52-R68, R73, R74, R357, R381) and the whole at END (R59,
R313, R352, R360, R364, R376, R499). -/

namespace Sys2Proof.Machine

open Sys2Proof.Config

/-- STATUS of an install (R156). -/
def cOK : Nat := 0
def cBADCMD : Nat := 1
def cFIELD : Nat := 2
def cOP : Nat := 3
def cCRC : Nat := 4
def cPGFLT : Nat := 5

/-- No rejection, or one with a status. -/
def rejectIf (bad : Bool) (status : Nat) : Option Nat := if bad then some status else none

/-! ### Channel and element words (R55, R56) -/

/-- A channel word: c0, another input, or an output (R55). -/
def channelOk (first input : Bool) (x : Word) : Bool :=
  let ws := (List.range 4).map (tagW x)
  bits x 31 30 == 0 && bits x 25 24 == 0 && ws.all (fun k => decide (k ≤ 32)) && decide (ws.sum ≤ 32) &&
  (List.range 3).all (fun i => nth ws i 0 != 0 || nth ws (i + 1) 0 == 0) &&
  (!bit x 26 || ws.any (· != 0)) && (input || bits x 31 27 == 0) && (first || bits x 29 27 == 0) &&
  (if bit x 29 then nth ws (bits x 28 27) 0 != 0 else bits x 28 27 == 0)

/-- A live word (R56). -/
def liveOk (pair : Bool) (x : Word) : Bool :=
  bits x 15 11 == 0 && decide (bits x 2 0 ≤ 3) && decide (bits x 8 5 ≤ 5) && (bits x 2 0 != 3 || pair)

/-- PPTR with the DLEN word in force, and whether CLASS 1 is allowed (R56, R57). -/
def pptrOk (ct : Bool) (dlen x : Word) : Bool :=
  bits x 31 7 == 0 &&
  (if bit x 2 then ct && bits x 6 3 == 0 else decide (bits x 6 3 < bits dlen (5 * bits x 1 0 + 4) (5 * bits x 1 0)))

/-- DLEN (R56). -/
def dlenOk (x : Word) : Bool := bits x 31 20 == 0 && (List.range 4).all (fun i => decide (bits x (5 * i + 4) (5 * i) ≤ 16))

/-! ### Rule words (R62, R63, R57) -/

def guardOk (x : Word) : Bool := bits x 27 20 &&& bits x 19 12 == bits x 27 20

/-- An action word: reserved codes, and on an MT the fields that must be zero and TAGSRC 5 (R354). -/
def actionOk (ct : Bool) (x : Word) : Bool :=
  if ct then decide (actTagsrc x ≤ 5) && decide (actDsel x ≤ 2) && decide (actNsel x ≤ 2)
  else decide (actTagsrc x ≤ 4) && actDsel x == 0 && actNsel x == 0 && actDwr x == 0 && actRecipe x == 0

/-! ### Operation words (R73, R74, R357, R381) -/

/-- The bits of the fields of an operation word, by letter: s SUB, b BUF, z SIZE, i ICH, o OCH, d DESC, c DCH, a ADDR, g GSEL A,
h GSEL B. -/
def opField (c : Char) : Dword :=
  match c with
  | 's' => 0xF00
  | 'b' => 0x3000
  | 'z' => 0xC000
  | 'i' => 0x30000
  | 'o' => 0xC0000
  | 'd' => 0x300000
  | 'c' => 0xC00000
  | 'a' => 0xFFFF00000000
  | 'g' => 0x7000000000000
  | 'h' => 0x70000000000000
  | _ => 0

/-- Whether a word is zero outside OPC, the named fields and the given FLAGS bits. -/
def opOnly (o : Dword) (fields : String) (flags : Nat) : Bool :=
  let m : Dword := fields.toList.foldl (fun m c => m ||| opField c) (0xFF ||| w (flags * 2 ^ 24))
  o &&& ~~~m == 0

/-- The check of an operation word. -/
def opOk (o : Dword) : Bool :=
  let f := opFlags o
  let g := if f.testBit 0 then "g" else ""
  opBuf o != 3 &&
  match opOpc o with
  | 0x00 => opOnly o "" 0
  | 0x01 => opOnly o "azbio" 0 && decide (opSize o ≤ 1)
  | 0x02 => opOnly o "azbic" 0 && decide (opSize o ≤ 1)
  | 0x03 => opOnly o ((if f.testBit 0 then "azbog" else "azbio")) 3 && opSize o == 2 && f != 2
  | 0x04 => opOnly o ((if f.testBit 0 then "azbcg" else "azbic")) 3 && opSize o == 2 && f != 2
  | 0x05 => opOnly o "dc" 0
  | 0x06 => opOnly o "do" 0
  | 0x08 | 0x09 =>
    opOnly o ((if opOpc o = 9 then "sabico" else "sabic") ++ (if opSub o = 7 then "g" else "")) (if opSub o = 2 ∨ opSub o = 3 then 1 else 0) &&
    decide (opSub o ≤ 7)
  | 0x0C => opOnly o ("sa" ++ (if f.testBit 3 then "g" else "")) 15 && decide (opSub o ≤ 3)
  | 0x0D => opOnly o ("sao" ++ (if f.testBit 2 then "g" else "")) 15 && decide (opSub o ≤ 3) && (!f.testBit 3 || f.testBit 2)
  | 0x0E => opOnly o ("sah" ++ (if f.testBit 2 then "g" else "")) 15 && decide (opSub o ≤ 3) && (!f.testBit 3 || f.testBit 2)
  | 0x0F => opOnly o "ah" 1
  | 0x10 => opOnly o "aziog" 0 && decide (opSize o ≤ 1)
  | 0x11 => opOnly o "azicg" 0 && decide (opSize o ≤ 1)
  | 0x14 => opOnly o "azbo" 0 && opSize o == 2
  | 0x15 => opOnly o "icg" 0
  | 0x18 => opOnly o "azbio" 0 && opSize o == 2
  | 0x19 => opOnly o "azbc" 0 && opSize o == 2
  | 0x1C => opOnly o "og" 0x73
  | 0x1D => opOnly o "og" 0
  | 0x20 => opOnly o "bag" 0xFF
  | 0x21 => opOnly o "b" 0
  | 0x22 => (match opSub o with | 0 => opOnly o "ah" 0 | 1 => opOnly o "sgh" 0 | 2 => opOnly o "sih" 0 | _ => false)
  | 0x23 => (match opSub o with | 0 => opOnly o "agh" 0 | 1 => opOnly o "sigh" 0 | _ => false)
  | 0x24 => opOnly o (if g = "" then "sga" else "sgh") 1
  | _ => false

/-! ### Pattern descriptors and BANKMAP (R58, R59) -/

def descWordOk (m : Nat) (x : Word) : Bool :=
  if m = 0 then bits x 17 16 != 3 && bits x 31 22 == 0 else decide (m ≤ 4) || x == 0

def bankmapOk (x : Word) : Bool :=
  (List.range 8).all (fun m => (bits x (4 * m + 1) (4 * m) == 3) == (bits x (4 * m + 3) (4 * m + 2) == 3))

/-- A descriptor as a whole (R59). -/
def Tile.descOk (t : Tile) (j : Nat) : Bool :=
  let n := bits (t.fld (0x40 + 8 * j)) 21 20
  (List.range 4).all (fun d => let x := t.fld (0x41 + 8 * j + d); if d ≤ n then bits x 15 0 != 0 else x == 0)

/-! ### Switch fields (R60) -/

/-- A switch field's value. R60 states no range for COL and ROW0 of PSECT: 640 to 1,023 is out of the module, and FIELD also with EN 0
(DESIGN CHOICE; notes/assumptions 44). -/
def Tile.switchOk (t : Tile) (f : Nat) (x : Word) : Bool :=
  if f ≤ 0xD1 then decide (bits x 2 0 ≤ 4) && bits x 31 5 == 0 && (x == 0 || !bit (t.fld 0xD2) 0)
  else if f = 0xD2 then bits x 31 1 == 0 && (x == 0 || (List.range 10).all (fun i => t.fld (0xC8 + i) == 0))
  else if f = 0xD3 then decide (bits x 7 2 ≤ 56) && bits x 31 12 == 0
  else if f ≤ 0xDB then decide (bits x 9 0 ≤ 639) && bits x 31 12 == 0
  else if f ≤ 0xE3 then (List.range 4).all (fun s => bits x (8 * s + 6) (8 * s + 2) == 0)
  else if f ≤ 0xE7 then bits x 14 12 == 0 && bits x 31 16 == 0
  else if f = 0xE8 then decide (bits x 9 0 ≤ 639) && decide (bits x 19 10 ≤ 639) && bits x 30 20 == 0
  else false

/-! ### A field of an element (R54, R57) -/

/-- The check of a field of a CT: none, or FIELD or OP. -/
def Tile.ctFieldCheck (t : Tile) (f : Nat) (x : Word) : Option Nat :=
  if f ≤ 0x0F then rejectIf (!guardOk x) cOP
  else if f ≤ 0x1F then rejectIf (!actionOk true x) cOP
  else if f ≤ 0x2F then none
  else if f ≤ 0x8F then
    let i := (f - 0x30) / 6
    let k := (f - 0x30) % 6
    let ws := (List.range 6).map (fun j => if j = k then x else t.fld (0x30 + 6 * i + j))
    rejectIf (!stageOk (k + 1) x || !recipeOk ws) cOP
  else if f ≤ 0xAF then none
  else if f ≤ 0xB7 then rejectIf (!channelOk (f == 0xB0) (decide (f ≤ 0xB3)) x) cFIELD
  else if f = 0xB8 then rejectIf (!pptrOk true (t.fld 0xBA) x) cFIELD
  else if f = 0xB9 then none
  else if f = 0xBA then rejectIf (!dlenOk x) cFIELD
  else if f = 0xBB then rejectIf (bits x 31 8 != 0) cFIELD
  else if f ≤ 0xBF then rejectIf (!liveOk (bit (t.fld 0xB0) 29) x) cFIELD
  else some cFIELD

/-- The check of a field of an MT. -/
def Tile.mtFieldCheck (t : Tile) (f : Nat) (x : Word) : Option Nat :=
  if f ≤ 0x0F then rejectIf (!guardOk x) cOP
  else if f ≤ 0x1F then rejectIf (!actionOk false x) cOP
  else if f ≤ 0x3F then (if f % 2 = 1 then rejectIf (!opOk (x ++ t.fld (f - 1))) cOP else none)
  else if f ≤ 0x5F then rejectIf (!descWordOk ((f - 0x40) % 8) x) cFIELD
  else if f = 0x60 then rejectIf (!bankmapOk x) cFIELD
  else if f ≤ 0x63 then some cFIELD
  else if f ≤ 0x6B then rejectIf (!channelOk (f == 0x64) (decide (f ≤ 0x67)) x) cFIELD
  else if f ≤ 0x6F then rejectIf (!liveOk (bit (t.fld 0x64) 29) x) cFIELD
  else if f ≤ 0x77 then none
  else if f = 0x78 then rejectIf (!pptrOk false (t.fld 0x7A) x) cFIELD
  else if f = 0x79 then none
  else if f = 0x7A then rejectIf (!dlenOk x) cFIELD
  else some cFIELD

/-! ### Preloads (R56) -/

/-- The fields of PPTR and DLEN. -/
def fPptr (ct : Bool) : Nat := if ct then 0xB8 else 0x78
def fPdata (ct : Bool) : Nat := if ct then 0xB9 else 0x79

/-- A PDATA write: none where it is rejected with FIELD, as one with bits 15:12 of the 18th word of a delay-line entry not zero is, to which the
spec gives no meaning (DESIGN CHOICE; notes/assumptions 44). -/
def Tile.preload (t : Tile) (ct : Bool) (x : Word) : Option Tile :=
  let p := t.fld (fPptr ct)
  let i := bits p 1 0
  if bit p 2 then
    if 16 ≤ t.pctr then none
    else
      let t := { t with d := t.d.set i ((nth t.d i []).set t.pctr x), pctr := t.pctr + 1 }
      some (if t.pctr = 16 then { t with empty := t.empty &&& ~~~((1 : BitVec 8) <<< i) } else t)
  else
    let k := bits p 6 3 + t.pctr / 18
    if t.dlen ct i ≤ k then none
    else if t.pctr % 18 = 17 then
      if 5 < bits x 11 8 || bits x 15 12 ≠ 0 then none
      else some { (t.setStage i k (some (beatOf18 (t.pbuf ++ [x])))) with pctr := t.pctr + 1, pbuf := [] }
    else some { t with pctr := t.pctr + 1, pbuf := t.pbuf ++ [x] }

/-! ### Tag layouts (R134) -/

/-- The distinct tag layouts of the enabled channels of a partition's regions. -/
def State.layouts (s : State) (p : Nat) : List Nat :=
  ((s.regions.filter (fun x => x.2.part == p)).flatMap (fun x =>
    (s.listed x.2).flatMap (fun n =>
      ((List.range 8).map (fun c => (s.tile n).fld ((if isCt n then 0xB0 else 0x64) + c))).filterMap (fun v =>
        if bit v 26 then some (bits v 23 0) else none)))).eraseDups

/-- Whether a channel word would bring a layout above the partition's quota. -/
def State.layoutOver (s : State) (p : Nat) (x : Word) : Bool :=
  bit x 26 && !(s.layouts p).contains (bits x 23 0) && decide ((s.part p).quota 5 ≤ (s.layouts p).length)

/-! ### The checks at END -/

/-- A rejection at END: status and tile. -/
abbrev EndFault := Option (Nat × Nat)

/-- A rule of a CT against its recipe (R313). -/
def Tile.ctRuleOk (t : Tile) (i : Nat) : Bool :=
  let a := t.actionW i
  let ws := (List.range 6).map (fun k => t.fld (0x30 + 6 * actRecipe a + k))
  !actV a ||
  ((if recPair ws then actDsel a != 0 && actDsel a == actNsel a else actDsel a == 0 && actNsel a == 0) &&
   !(decide (1 < beatsOf ws) && t.paired true && (decide (actDeq a % 4 ≠ 0) || decide (bits (t.guardW i) 29 28 ≠ 0))))

/-- A stream rule of an MT (R360). -/
def Tile.streamRuleOk (t : Tile) (i : Nat) : Bool :=
  let a := t.actionW i
  let o := t.opW i
  !(actV a && isStreamOp (opOpc o)) ||
  (actNext a == 0 && (opOpc o != 0x05 || ((actDeq a).testBit (opDch o) && (bits (t.guardW i) 31 28).testBit (opDch o))))

/-- The rules and descriptors of a tile at END; `touched` holds 64 · tile + j for a descriptor j the stream wrote, and
64 · tile + 16 + i for a rule whose low half it wrote after its last high half. -/
def Tile.endCheck (t : Tile) (n : Nat) (touched : List Nat) : Option Nat :=
  if isCt n then rejectIf (!(List.range 16).all t.ctRuleOk) cOP
  else if !(List.range 16).all (fun i =>
      t.streamRuleOk i && (!touched.contains (64 * n + 16 + i) || opOk (t.opW i)) &&
      (!(actV (t.actionW i) && (opOpc (t.opW i) == 0x10 || opOpc (t.opW i) == 0x11)) || bit (t.fld 0xE8) 31)) then some cOP
  else rejectIf (!(List.range 4).all (fun j => !touched.contains (64 * n + j) || t.descOk j)) cFIELD

/-- Whether two split fields overlap. -/
def splitsOverlap : List (Nat × Nat) → Bool
  | [] => false
  | (k, a) :: t => t.any (fun y => decide (a < y.2 + y.1) && decide (y.2 < a + k)) || splitsOverlap t

/-- The sections of a region, by column and first row: those its stages make and those its members name. -/
def State.sections (s : State) (r : Region) : List (Nat × Nat × Nat) :=
  (s.listed r).flatMap (fun n =>
    let t := s.tile n
    let x := t.fld 0xD3
    let y := t.fld 0xE8
    (if bits x 1 0 != 0 then [(tileX n, tileY n + 16 - bits x 11 8, n)] else []) ++
    (if !isCt n && bit y 31 then [(bits y 9 0, bits y 19 10 + 16, n)] else []))

/-- A breach of R364: the tile at fault. -/
def State.sectionFault (s : State) (r : Region) : EndFault :=
  ((s.sections r).findSome? (fun x =>
    let row0 := x.2.1 - 16
    let st := s.stagesFrom r x.1 row0
    let ms := s.members r (w (x.1 + row0 * 1024))
    let k : Nat := (st.map (·.1)).sum
    let own := bits ((s.tile x.2.2).fld 0xD3) 11 8
    let stage := bits ((s.tile x.2.2).fld 0xD3) 1 0 != 0 && tileX x.2.2 == x.1
    if decide (x.2.1 < 16) || st.isEmpty || (stage && tileY x.2.2 == row0 + own && decide (st.length ≤ own)) || decide (8 < k) ||
       splitsOverlap st || ms.length != 2 ^ k then some x.2.2 else none)).map (fun n => (cFIELD, n))

/-- An entering express attachment with no leaving one of its region and context, or without a valid slot (R376). -/
def State.expressFault (s : State) (r : Region) : EndFault :=
  ((s.listed r).find? (fun n =>
    let t := s.tile n
    (List.range 8).any (fun j =>
      t.xEn j && t.xDir j == 0 &&
      (let x := exitTile n j (t.xExit j)
       let ctxs := (List.range 4).filterMap (fun k => if (t.xSlot j k).1 then some (t.xSlot j k).2 else none)
       ctxs.isEmpty || !r.covers x || !ctxs.any (fun c => ((s.tile x).xLeave j c).isSome))))).map (fun n => (cFIELD, n))

/-- Two enabled attachments of one EMP, channel and direction: the second one's tile (R499). -/
def dupAttach : List (Nat × Word) → Option Nat
  | [] => none
  | (_, v) :: t =>
    match t.find? (fun y => bits y.2 11 0 == bits v 11 0) with
    | some y => some y.1
    | none => dupAttach t

/-- The enabled EATT words of a region. -/
def State.eatts (s : State) (r : Region) : List (Nat × Word) :=
  (s.listed r).flatMap (fun n => ((List.range 4).map (fun a => (s.tile n).fld (0xE4 + a))).filterMap (fun v => if bit v 15 then some (n, v) else none))

/-- Every check at END. -/
def State.endFault (s : State) (r : Region) (touched : List Nat) : EndFault :=
  ((s.listed r).findSome? (fun n => ((s.tile n).endCheck n touched).map (fun c => (c, n)))) <|>
  ((dupAttach (s.eatts r)).map (fun n => (cFIELD, n))) <|> s.sectionFault r <|> s.expressFault r

end Sys2Proof.Machine
end

