-- ==== Sys2Proof/Machine/Stream.lean ====
section
/-! DEFINITION. Configuration streams: the commands and the element write, one word at a time (R49-R53, R191-R195, R214). -/

namespace Sys2Proof.Machine

open Sys2Proof.Config

/-! ### The end of an install (R156, R193, R195, R214) -/

/-- An install ends with a status, the rejecting element's window and index where there is one, and a word offset. -/
def State.installEnd (s : State) (rn status : Nat) (win : Option (Nat × Nat)) (idx : Option Byte) (off : Nat) : State :=
  match s.region? rn with
  | none => s
  | some r =>
    match r.inst with
    | none => s
    | some i =>
      let s := s.trace rn 6 status off
      let version := if status = cOK then i.version else r.version
      if i.byCfg then
        let spent := match r.cfgFrom with | some f => r.cycles - max f r.phaseStart | none => 0
        let s := s.modRegion rn fun g => { g with inst := none, version := version, cfgFrom := none, cfgLoad := g.cfgLoad + spent }
        s.modSeq rn (fun q => { (q.set i.reg (w (status * 2 ^ 48 + off))) with cfgReg := none })
      else
        (s.modRegion rn fun g => { g with inst := none }).putInstall rn i status win idx off
          (some (rn, if status = cOK then .ready else .claimed, version))

/-- The tile of a window position, if it lies in the region. -/
def Region.winTile (r : Region) (win : Nat × Nat) (idx : Nat) : Option Nat :=
  let x := 16 * win.1 + idx % 16
  let y := 16 * win.2 + idx / 16
  if x < r.width ∧ y < r.height then some (tileAt (r.ocol + x) (r.orow + y)) else none

/-- Window and index of a tile of a region. -/
def Region.winOf (r : Region) (n : Nat) : (Nat × Nat) × Byte :=
  let x := tileX n - r.ocol
  let y := tileY n - r.orow
  ((x / 16, y / 16), w (y % 16 * 16 + x % 16))

/-- Why a word is rejected: status, index, a window other than the one in force, and the tile whose CRC check rejects it. -/
structure Reject where
  status : Nat
  idx : Byte
  win : Option (Nat × Nat)
  crc : Option Nat
  deriving DecidableEq, Repr

/-- A BADCMD. -/
def badCmd : Reject := { status := cBADCMD, idx := 0xFF, win := none, crc := none }

/-- The check of an element run: the latch CRC_LO is zero, and a new sequence of words begins (R53). -/
def Tile.checked (t : Tile) : Tile := { (t.setFld 0xF3 0) with crcLo := 0, crcAcc := 0xFFFFFFFF }

/-- What a rejected word leaves: a CRC check that fails has run. -/
def Reject.leaves (x : Reject) (s : State) : State :=
  match x.crc with
  | some n => s.modTile n (fun t => t.checked)
  | none => s

/-- One word of the install under way in the current region: rejected, or performed, the stream then ending with its last word:
with success where that was END, with BADCMD where the count is consumed without END (R51). -/
def State.streamWordDo (s : State) (f : Region → Install → State → Except Reject State) : State :=
  let rn := s.curReg
  match s.region? rn with
  | none => s
  | some r =>
    match r.inst with
    | none => s
    | some i =>
      match (if i.ended then .error badCmd else f r i s) with
      | .error x => (x.leaves s).installEnd rn x.status (x.win <|> i.win) (some x.idx) i.next
      | .ok s =>
        let s := s.modRegion rn fun g => { g with inst := g.inst.map (fun j => { j with next := j.next + 1 }) }
        match (s.region? rn).bind (·.inst) with
        | none => s
        | some j =>
          if j.next < j.count then s
          else if j.ended then s.installEnd rn cOK none none j.next
          else s.installEnd rn cBADCMD j.win (some 0xFF) j.next

/-- The install of a region changed. -/
def State.modInst (s : State) (rn : Nat) (f : Install → Install) : State :=
  s.modRegion rn fun g => { g with inst := g.inst.map f }

/-- A command other than HI, NOP and ESC: it comes after BEGIN, with no HI pending and no ESC before it (R51). -/
def State.streamCmd (s : State) (ok : Region → Install → Bool) (f : Region → Install → State → Except Reject State) : State :=
  s.streamWordDo fun r i s => if i.begun && i.hi.isNone && ok r i then f r i s else .error badCmd

/-! ### Fetching the next word (R49, R144, R192, R214) -/

/-- The partition in whose held list a withheld stream word stands. -/
def Region.cfgPart (r : Region) (i : Install) : Nat := if i.byCfg then r.part else i.xl.part

/-- A stream word whose read faults: a page fault withholds it, a permission or format fault ends the install with PGFLT. -/
def State.streamFault (s : State) (rn : Nat) (i : Install) (o : Nat) (f : XFault) : State :=
  match f.kind with
  | .page =>
    if i.byCfg then s.withholdX rn (.cfg rn) 1 rn i.pc f false (i.va.toNat + 4 * i.next + o)
    else s.withholdHart rn (.cfg rn) i.xl i.next f false (i.va.toNat + 4 * i.next + o)
  | _ => s.installEnd rn cPGFLT i.win none i.next

/-- What an install engine's move comes to: a word to perform, or the state after. -/
def State.streamFetch (s : State) (rn : Nat) : State ⊕ (Bool × Word) :=
  match s.region? rn with
  | none => .inl s
  | some r =>
    match r.inst with
    | none => .inl s
    | some i =>
      if (i.byCfg && !r.active) || s.isHeld (r.cfgPart i) (.cfg rn) then .inl s
      else
        match s.streamWord rn i with
        | .ok x => .inr (i.esc, x)
        | .error (o, f) => .inl (s.streamFault rn i o f)

/-! ### Commands (R50, R51) -/

/-- CFG_NOP. -/
def execCfgNop (v : BitVec 16) (s : State) : Host.Outcome State Fault Refusal :=
  .next (s.streamWordDo fun _ i s => if i.begun && v == 0 then .ok s else .error badCmd)

/-- CFG_BEGIN: the version; a full install clears every good element and working switch of the region (R191). -/
def execCfgBegin (v : BitVec 16) (s : State) : Host.Outcome State Fault Refusal :=
  .next (s.streamWordDo fun r i s =>
    if i.begun || v == 0 then .error badCmd
    else
      let s := if i.full then s.zeroTiles r else s.modListed r (fun t => { t with crcAcc := 0xFFFFFFFF })
      let s := if i.byCfg then s.modRegion s.curReg fun g => { g with cfgFrom := some g.cycles } else s
      .ok (s.modInst s.curReg fun i => { i with begun := true, version := v }))

/-- CFG_END: the checks of the whole; the loop inputs are marked anew (R51, R193, R240). -/
def execCfgEnd (v : BitVec 16) (s : State) : Host.Outcome State Fault Refusal :=
  .next (s.streamCmd (fun _ _ => v == 0) fun r i s =>
    match s.endFault r i.touched with
    | some (c, n) => (let p := r.winOf n; .error { status := c, idx := p.2, win := some p.1, crc := none })
    | none => .ok ((s.markLoops r).modInst s.curReg fun i => { i with ended := true }))

/-- CFG_WIN: the window, which must not lie wholly outside the region (R50, R51). -/
def execCfgWin (v : BitVec 16) (s : State) : Host.Outcome State Fault Refusal :=
  let c := bits v 5 0
  let y := bits v 13 8
  .next (s.streamCmd (fun r _ => bits v 7 6 == 0 && bits v 15 14 == 0 && decide (16 * c < r.width) && decide (16 * y < r.height))
    fun _ _ s => .ok (s.modInst s.curReg fun i => { i with win := some (c, y) }))

/-- CFG_HI: the upper half of the next element write's value; a second one replaces it (R51). -/
def execCfgHi (v : BitVec 16) (s : State) : Host.Outcome State Fault Refusal :=
  .next (s.streamWordDo fun _ i s =>
    if i.begun then .ok (s.modInst s.curReg fun i => { i with hi := some v, crcHi := some (w (0xFF04 * 2 ^ 16 + v.toNat)) }) else .error badCmd)

/-- CFG_SECT: the section that later element writes join. -/
def execCfgSect (v : BitVec 16) (s : State) : Host.Outcome State Fault Refusal :=
  .next (s.streamCmd (fun _ _ => bits v 15 8 == 0) fun _ _ s => .ok (s.modInst s.curReg fun i => { i with section_ := v.toNat }))

/-- CFG_ESC: the next word is an element write to window position (15, 15). -/
def execCfgEsc (v : BitVec 16) (s : State) : Host.Outcome State Fault Refusal :=
  .next (s.streamWordDo fun _ i s =>
    if i.begun && v == 0 then .ok (s.modInst s.curReg fun i => { i with esc := true, crcEsc := some 0xFF060000 }) else .error badCmd)

/-- BADCMD: a command code of 0x08 to 0xFF aborts the stream (R50). -/
def execBadcmd (_ : Word) (s : State) : Host.Outcome State Fault Refusal := .next (s.streamWordDo fun _ _ _ => .error badCmd)

/-! ### ZERO (R53, R236) -/

/-- A tile after a ZERO: the cleared state; what the CRC check gathers is not part of it. -/
def Tile.zeroed (t : Tile) : Tile := { Tile.cleared with crcAcc := t.crcAcc, crcLo := t.crcLo }

/-- Whether a tile belongs to an armed section: passes or forked classes not yet met (R214). -/
def State.armed (s : State) (r : Region) (n : Nat) : Bool :=
  match (s.tile n).sect with
  | some a => (s.section_ r a).any (fun m => (s.tile m).passc != 0 || (s.tile m).forked != 0)
  | none => false

/-- CFG_ZWIN: every good element of the window inside the region is cleared; rejected by CFG, before it clears any, where the
window holds an element of an armed section (R50, R192, R214). -/
def execCfgZwin (v : BitVec 16) (s : State) : Host.Outcome State Fault Refusal :=
  .next (s.streamCmd (fun _ i => v == 0 && i.win.isSome) fun r i s =>
    let tiles := (List.range 256).filterMap (r.winTile (i.win.getD (0, 0)))
    let listed := tiles.filter (fun n => (s.tiles.find n).isSome)
    if i.byCfg && listed.any (s.armed r) then .error { status := cFIELD, idx := 0xFF, win := none, crc := none }
    else .ok (s.modTiles (listed.filter (fun n => !s.fusedAt n)) (fun _ t => t.zeroed)))

/-! ### CFG_ELEMENT_WRITE (R52-R60) -/

/-- The words an element write brings into its CRC: HI, ESC and itself, in stream order (R53). -/
def crcWords (i : Install) (x : Word) : List Word := i.crcHi.toList ++ i.crcEsc.toList ++ [x]

/-- The effect of an accepted field beyond its value: preloads, g registers, PPTR's counter, delay lines. -/
def Tile.fieldEffect (t : Tile) (ct : Bool) (f : Nat) (x : Word) : Option Tile :=
  if f = fPdata ct then (t.preload ct x).map (fun t => t.setFld f x)
  else
    let t := t.setFld f x
    if f = fPptr ct then some { t with pctr := 0, pbuf := [] }
    else if !ct && inR f 0x70 0x77 then some { t with g := t.g.set (f - 0x70) x }
    else some t

/-- The codes of what is left to check at END after a write. -/
def touchAfter (touched : List Nat) (n f : Nat) : List Nat :=
  if inR f 0x20 0x3F then
    let k := 64 * n + 16 + (f - 0x20) / 2
    if f % 2 = 0 then (if touched.contains k then touched else k :: touched) else touched.filter (· != k)
  else if inR f 0x40 0x5F then (let k := 64 * n + (f - 0x40) / 8; if touched.contains k then touched else k :: touched)
  else touched

/-- A field written at an element that may take it: a status, or the tile after. -/
def State.fieldWrite (s : State) (r : Region) (i : Install) (n f : Nat) (v : BitVec 16) : Except Nat Tile :=
  let t := s.tile n
  let ct := isCt n
  let x : Word := (i.hi.getD 0) ++ v
  if 0xF0 ≤ f then
    if i.hi.isSome then .error cFIELD
    else
      match f with
      | 0xF0 => if v = i.version then .ok (t.setFld f x) else .error cFIELD
      | 0xF1 => if v = 0 then .ok t.zeroed else .error cFIELD
      | 0xF2 => if bits v 15 1 = 0 then .ok (t.setFld f x) else .error cFIELD
      | 0xF3 => .ok { (t.setFld f x) with crcLo := v }
      | 0xF4 =>
        if t.crcAcc ^^^ 0xFFFFFFFF = v ++ t.crcLo then .ok (t.setFld f x).checked
        else .error cCRC
      | _ => .error cFIELD
  else if 0xC8 ≤ f then (if t.switchOk f x then .ok (t.setFld f x) else .error cFIELD)
  else
    match (if ct then t.ctFieldCheck f x else t.mtFieldCheck f x) with
    | some c => .error c
    | none =>
      if f = (if ct then 0xB0 else 0x64) + (f - (if ct then 0xB0 else 0x64)) % 8 && s.layoutOver r.part x then .error cFIELD
      else match t.fieldEffect ct f x with
        | some t => .ok t
        | none => .error cFIELD

/-- CFG_ELEMENT_WRITE: one field of the element at a window position, (15, 15) for the word after an ESC, whatever its bits 31:24, which
its CRC takes as written (R51-R53, R192, R214). -/
def execCfgElementWrite (idx fld : Byte) (v : BitVec 16) (s : State) : Host.Outcome State Fault Refusal :=
  .next (s.streamWordDo fun r i s =>
    if !i.begun || i.win.isNone then .error badCmd
    else
      let f := fld.toNat
      let at_ : Byte := if i.esc then 0xFF else idx
      let rej (c : Nat) (crc : Option Nat) : Except Reject State := .error { status := c, idx := at_, win := none, crc := crc }
      match r.winTile (i.win.getD (0, 0)) at_.toNat with
      | none => rej cFIELD none
      | some n =>
        let fused := s.fusedAt n
        if s.lostAt n || (fused && f != 0xF1 && !inR f 0xC8 0xEF) || (i.byCfg && s.armed r n) then rej cFIELD none
        else
          match s.fieldWrite r i n f v with
          | .error c => rej c (if c = cCRC then some n else none)
          | .ok t =>
            let t := if f = 0xF3 || f = 0xF4 then t
              else { t with crcAcc := crcRun castagnoli t.crcAcc ((crcWords i (idx ++ fld ++ v)).flatMap (fun x => leBytes x.toNat 4)) }
            let t := if f = 0xF1 || fused then t else { t with sect := some i.section_ }
            .ok ((s.setTile n t).modInst s.curReg fun i => { i with
              hi := none, esc := false, crcHi := none, crcEsc := none, touched := touchAfter i.touched n f }))

end Sys2Proof.Machine
end

