-- ==== Sys2Proof/Machine/ImageLoad.lean ====
section
/-! DEFINITION. Restoring a context image (R159, R160, R185-R188, R414-R419, R499). -/

namespace Sys2Proof.Machine

open Sys2Proof.Config

/-! ### The header (R414) -/

/-- Whether a header is valid for an image of its LEN. -/
def imgHeadOk (b : List Byte) : Bool :=
  fieldAt b 0 4 == 0x49434456 && fieldAt b 4 2 == 1 && fieldAt b 7 1 / 4 == 0 && zeroAt b 60 64 && zeroAt b 96 240 && zeroAt b 244 248 &&
  fieldAt b 20 4 == fieldAt b 8 2 * fieldAt b 10 2 && fieldAt b 24 8 % 64 == 0 && fieldAt b 248 8 == 1 &&
  decide (256 ≤ fieldAt b 64 8) && decide (fieldAt b 64 8 + 1088 * fieldAt b 20 4 ≤ fieldAt b 72 8) &&
  decide (fieldAt b 72 8 + 1920 ≤ fieldAt b 80 8) && decide (fieldAt b 80 8 ≤ fieldAt b 24 8) &&
  (fieldAt b 24 8 - fieldAt b 80 8) % 192 == 0

/-- The bytes of an image as a translation reads them: the header, then all of LEN; a fault, and the offset it has. -/
def imgRead (m : Memory) (x : Xlate) (va : Nat) : Except (Nat × XFault) (List Byte) :=
  match vread m x va 256 with
  | .error e => .error e
  | .ok h => if imgHeadOk h then vread m x va (fieldAt h 24 8) else .ok h

/-- The element records of an image; none where their lengths do not fit. -/
def imgRecords : Nat → List Byte → Option (List (List Byte))
  | 0, _ => some []
  | n + 1, b =>
    let len := fieldAt b 4 4
    if len < 1088 || len % 64 ≠ 0 || b.length < len then none
    else (imgRecords n (b.drop len)).map (fun l => b.take len :: l)

/-- The fields that the layouts of an image's parts call zero, in a record, in the sequencer block and in the edge block. -/
def recZeros (b : List Byte) : Bool :=
  let beats := match fieldAt b 0 1 with | 0 => 2944 | 1 => 89856 | _ => 1088
  fieldAt b 1 1 / 32 == 0 && zeroAt b 41 44 && zeroAt b 60 64 &&
  (match fieldAt b 0 1 with
   | 0 => zeroAt b 1872 1920 && (List.range 64).all (fun i => zeroAt b (1932 + 16 * i) (1936 + 16 * i))
   | 1 => (List.range 4).all (fun i => zeroAt b (1132 + 16 * i) (1136 + 16 * i)) && zeroAt b 1188 1248 && zeroAt b 3808 3840 &&
       (List.range 4).all (fun i => fieldAt b (86528 + 1024 * i) 1 / 2 == 0 && zeroAt b (86529 + 1024 * i) (86784 + 1024 * i))
   | _ => true) &&
  (List.range (min (fieldAt b 8 4) ((b.length - beats) / 80))).all (fun i =>
    fieldAt b (beats + 2 + 80 * i) 2 == 0 && zeroAt b (beats + 4 + 80 * i) (beats + 8 + 80 * i)) &&
  zeroAt b (beats + 80 * fieldAt b 8 4) b.length
def seqZeros (b : List Byte) : Bool :=
  let ncopy := nbits (fieldAt b 268 4) 20 16
  (List.range (min 16 ncopy)).all (fun i =>
    let o := 384 + 96 * i
    fieldAt b (o + 20) 4 / 2 == 0 && zeroAt b (o + 28) (o + 32) &&
    (if fieldAt b (o + 73) 1 = 1 then zeroAt b (o + 48) (o + 64) else zeroAt b (o + 24) (o + 64)) && fieldAt b (o + 72) 1 / 32 == 0) &&
  fieldAt b 268 4 / 2 ^ 21 == 0 && nbits (fieldAt b 268 4) 15 2 == 0 &&
  zeroAt b 356 360 && zeroAt b 1924 1928 && (List.range 16).all (fun i => zeroAt b (458 + 96 * i) (480 + 96 * i)) &&
  zeroAt b (384 + 96 * min 16 ncopy) 1920 &&
  (List.range (min (fieldAt b 1920 4) ((b.length - 1928) / 16))).all (fun i =>
    fieldAt b (1932 + 16 * i) 4 % 16 / 2 == 0 && fieldAt b (1932 + 16 * i) 4 / 128 == 0 && zeroAt b (1940 + 16 * i) (1944 + 16 * i)) &&
  zeroAt b (1928 + 16 * fieldAt b 1920 4) b.length
def edgeZeros (b : List Byte) : Bool :=
  (List.range (b.length / 192)).all (fun i =>
    let e := (b.drop (192 * i)).take 192
    fieldAt e 5 1 / 32 == 0 && zeroAt e 7 8 && zeroAt e 12 16 && zeroAt e 27 28 && zeroAt e 32 64 && zeroAt e 132 192 &&
    ((fieldAt e 5 1).testBit 0 || (fieldAt e 5 1).testBit 3 || zeroAt e 16 32) && ((fieldAt e 5 1).testBit 4 || zeroAt e 64 132))

/-- Whether every zero field of the parts of an image is zero (R414). -/
def imgZeros (b : List Byte) : Bool :=
  (match imgRecords (fieldAt b 20 4) ((b.take (fieldAt b 72 8)).drop (fieldAt b 64 8)) with | some l => l.all recZeros | none => false) &&
  seqZeros ((b.take (fieldAt b 80 8)).drop (fieldAt b 72 8)) && edgeZeros (b.drop (fieldAt b 80 8))

/-- Whether the configuration fields of a record hold no code that their writes reject (R8, R52, R54, R57, R60): a word of a stage, a rule or
a channel that no install would have left there. The operation words and descriptors of an MT are checked as a whole only with no CFG
outstanding, which may stand between their halves (notes/assumptions 43). -/
def recCodesOk (cfg : Bool) (b : List Byte) : Bool :=
  let fs : Tbl Word := ((List.range 0xF0).map (fun f => (f, (w (fieldAt b (64 + 4 * f) 4) : Word)))).filter (fun x => x.2 != 0)
  let t : Tile := { Tile.cleared with fields := fs }
  fs.all (fun x =>
    if 0xC8 ≤ x.1 then t.switchOk x.1 x.2
    else
      match fieldAt b 0 1 with
      | 0 => if inR x.1 0xBC 0xBF then liveOk true x.2 else x.1 == 0xB8 || x.1 == 0xB9 || (t.ctFieldCheck x.1 x.2).isNone
      | 1 =>
        if inR x.1 0x6C 0x6F then liveOk true x.2
        else x.1 == 0x78 || x.1 == 0x79 || inR x.1 0x20 0x3F || (t.mtFieldCheck x.1 x.2).isNone
      | _ => true) &&
  (fieldAt b 0 1 != 1 || cfg || (List.range 16).all (fun i => opOk (t.opW i)))

/-- Whether the codes of an image's parts are assigned ones (R8). -/
def imgCodes (b : List Byte) : Bool :=
  match imgRecords (fieldAt b 20 4) ((b.take (fieldAt b 72 8)).drop (fieldAt b 64 8)) with
  | some l => l.all (recCodesOk ((fieldAt b (fieldAt b 72 8 + 268) 4).testBit 0))
  | none => false

/-- Whether an image is whole: header, length, CRC, zero fields and assigned codes (R8, R414). -/
def imgOk (b : List Byte) : Bool :=
  imgHeadOk b && b.length == fieldAt b 24 8 && (crc32c (b.take 240 ++ b.drop 256)).toNat == fieldAt b 240 4 && imgZeros b && imgCodes b

/-! ### Rebasing (R186-R188) -/

/-- A coordinate moved, if it stays on the module. -/
def moved (x : Nat) (d : Int) : Option Nat := if 0 ≤ (x : Int) + d ∧ (x : Int) + d < 640 then some ((x : Int) + d).toNat else none

/-- The EMP of an attachment moved along its edge. -/
def empMoved (e : Nat) (dx dy : Int) : Option Nat :=
  let edge := e / 32
  let base := edge / 4 * 4
  (moved (160 * (edge % 4) + 5 * (e % 32) + 2) (if edge / 4 % 2 = 0 then dx else dy)).map (fun a => 32 * (base + a / 160) + a % 160 / 5)

/-- A field of R61 rewritten; none where the result leaves its range. -/
def rebased (f : Nat) (v : Word) (dx dy : Int) : Option Word :=
  if inR f 0xD4 0xDB then
    if bit v 11 then (moved (bits v 9 0) (if f < 0xD8 then dx else dy)).map (fun x => w (v.toNat - bits v 9 0 + x)) else some v
  else if inR f 0xE4 0xE7 then
    if bit v 15 then (empMoved (bits v 8 0) dx dy).map (fun x => w (v.toNat - bits v 8 0 + x)) else some v
  else if f = 0xE8 then
    if bit v 31 then
      match moved (bits v 9 0) dx, moved (bits v 19 10) dy with
      | some c, some y => some (w (v.toNat - bits v 19 0 + c + y * 1024))
      | _, _ => none
    else some v
  else some v

/-- The configuration fields of a record, rebased; none where one leaves its range. -/
def recFields (b : List Byte) (dx dy : Int) : Option (Tbl Word) :=
  (List.range 256).foldr (fun f acc =>
    match acc, rebased f (w (fieldAt b (64 + 4 * f) 4)) dx dy with
    | some l, some v => some (if v = 0 then l else (f, v) :: l)
    | _, _ => none) (some [])

/-- Whether a record is of the footprint with its element, and with its switch (R185). -/
def recElement (b : List Byte) : Bool := !zeroAt b 64 (64 + 4 * 0xC8)
def recSwitch (b : List Byte) : Bool := !zeroAt b (64 + 4 * 0xC8) (64 + 4 * 0xF0)

/-! ### Tiles (R415, R416) -/

/-- The words of a stretch of a record. -/
def recWords (b : List Byte) (off n : Nat) : List Word := (List.range n).map (fun i => w (fieldAt b (off + 4 * i) 4))
def recHalves (b : List Byte) (off n : Nat) : List Half := (List.range n).map (fun i => w (fieldAt b (off + 2 * i) 2))

/-- A beat of 72 bytes. -/
def beatAt (b : List Byte) (off : Nat) : Beat := beatOf18 (recWords b off 18)

/-- A glow update of 12 bytes. -/
def glowAt (b : List Byte) (off : Nat) : Glow :=
  { handle := w (fieldAt b off 4), slot := w (fieldAt b (off + 4) 4), weight := w (fieldAt b (off + 8) 4) }

/-- The tile of a record, with its header alone. -/
def recTile (b : List Byte) (fields : Tbl Word) : Tile :=
  { Tile.cleared with
    fields := fields, st := w (fieldAt b 12 1), preds := w (fieldAt b 13 1), ernd := w (fieldAt b 14 1)
    empty := w (fieldAt b 15 1), passc := fieldAt b 16 4, status := w (fieldAt b 20 4), treg := w (fieldAt b 24 4)
    iskip := w (fieldAt b 28 4), kmask := recHalves b 32 4
    latch := (List.range 4).map (fun i => if (fieldAt b 40 1).testBit i then some (w (fieldAt b (44 + 4 * i) 4)) else none)
    forked := w (fieldAt b 1 1 / 4), trap := if (fieldAt b 1 1).testBit 1 then some (w (fieldAt b 2 2)) else none }

/-- The state of a CT. -/
def recCt (b : List Byte) (t : Tile) : Tile :=
  { t with
    d := (List.range 4).map (fun i => recWords b (1088 + 64 * i) 16), h := (List.range 2).map (fun i => recHalves b (1344 + 256 * i) 128)
    dim := (List.range 2).map (fun i => fieldAt b (1856 + 2 * i) 2), n := recHalves b 1860 2
    glow := (List.range (min 64 (fieldAt b 1864 8))).map (fun i => glowAt b (1920 + 16 * i)) }

/-- An outstanding operation of an entry, by its number. -/
def recOp (b : List Byte) (g : List Word) (i : Nat) : MtOp :=
  let off := 1248 + 160 * i
  let op : Dword := w (fieldAt b off 8)
  let ich := beatAt b (off + 16)
  let units := fieldAt b (off + 8) 8
  let acqn := opOpc op == 0x1C
  let gA := nth g (opGa op) 0
  let o : MtOp :=
    { op := op, progress := if acqn then 0 else units, ich := some ich, dch := some (beatAt b (off + 88)), enq := (1 : BitVec 4) <<< opOch op
      tag := ich.tag, rnd := w (fieldAt b 14 1), reply := if acqn && units % 2 == 1 then [some (w (units / 2 ^ 16))] else (List.range 16).map (fun _ => none)
      done := acqn && units % 2 == 1, off := opAddr op, gA := gA, gB := nth g (opGb op) 0, waits := [], seqNo := i }
  if isMacroOp (opOpc op) then { o with off := opAddr op + (if opGaFlag op then gA.toNat else 0) }
  else if opOpc op = 0x10 || opOpc op = 0x11 then { o with waits := o.netLanes } else o

/-- An outstanding operation put back: waiting on its unit, or in the list of outstanding ones, with the beats it owes. -/
def Tile.putOp (t : Tile) (o : MtOp) : Tile :=
  if isMacroOp (opOpc o.op) then
    let o := { o with waits := t.macWaits o.op }
    let u := macUnit (opOpc o.op)
    { t with units := t.units.set u { t.unit u with waiting := (t.unit u).waiting ++ [o] } }.owe o 0 4 none none
  else { t with ops := t.ops ++ [o] }.owe o 0 1 none none

/-- A macro tile of the macro array and the macro state. -/
def recMac (b : List Byte) (i : Nat) : MacTile :=
  let st := 85760 + 1024 * i
  { b := byteTbl 0 (fun j => w (fieldAt b (69376 + 4096 * i + j) 1)) 4096
    scale := byteTbl 0x7F (fun j => w (fieldAt b (st + 2 * j) 1)) 128, spare := byteTbl 0x80 (fun j => w (fieldAt b (st + 2 * j + 1) 1)) 128
    e2b := (fieldAt b (st + 768) 1).testBit 0
    dropped := (List.range 4096).filter (fun j => !(fieldAt b (st + 256 + j / 8) 1).testBit (j % 8)) }

/-- The state of an MT. -/
def recMt (b : List Byte) (t : Tile) : Tile :=
  let nop := min 16 (fieldAt b 1184 4)
  let t := { t with
    g := recWords b 1088 8
    pats := (List.range 4).map (fun i =>
      let o := 1120 + 16 * i
      { i0 := fieldAt b o 2, i1 := fieldAt b (o + 2) 2, i2 := fieldAt b (o + 4) 2, i3 := fieldAt b (o + 6) 2
        exhausted := fieldAt b (o + 8) 4 != 0 })
    banks := byteTbl 0 (fun j => w (fieldAt b (3840 + j) 1)) 65536
    mac := (List.range 4).map (recMac b)
    opNo := nop }
  (List.range nop).foldl (fun t i => t.putOp (recOp b (recWords b 1088 8) i)) t

/-- A beat of a record's list put at its place in the tile; those in EMP buffers stay out. -/
def Tile.putBeat (t : Tile) (loc : Nat) (b : Beat) : Tile :=
  let i := nbits loc 7 4
  let pos := nbits loc 11 8
  match nbits loc 3 0 with
  | 0 => { t with inF := t.inF.set i (nth t.inF i [] ++ [b]) }
  | 1 => { t with outF := t.outF.set i (nth t.outF i [] ++ [b]) }
  | 2 => t.setStage i pos (some b)
  | 3 => { t with lanes := t.lanes.put (laneKey i (pos % 2)) { src := 0, beat := b } }
  | 4 => { t with xbuf := t.xbuf.put (4 * i + pos % 4) (t.xBuf i (pos % 4) ++ [{ src := 0, beat := b }]) }
  | _ => t

/-- The beats of a record with their locations. -/
def recBeats (b : List Byte) : List (Nat × Beat) :=
  let at_ := match fieldAt b 0 1 with | 0 => 2944 | 1 => 89856 | _ => 1088
  (List.range (fieldAt b 8 4)).map (fun i => (fieldAt b (at_ + 80 * i) 4, beatAt b (at_ + 80 * i + 8)))

/-- The tile of a record for an element of its kind. -/
def recLoad (b : List Byte) (fields : Tbl Word) : Tile :=
  let t := recTile b fields
  let t := match fieldAt b 0 1 with | 0 => recCt b t | 1 => recMt b t | _ => t
  (recBeats b).foldl (fun t x => t.putBeat x.1 x.2) t

/-! ### Sources of beats on routes -/

/-- The route that feeds an output port and lane of a switch: the source port and lane. -/
def Tile.routeInto (t : Tile) (p l : Nat) : Nat × Nat :=
  if bit (t.fld 0xD2) 0 then (if p < 4 then (facing p, l) else (4, l))
  else (let x := t.fld (0xC8 + 2 * p + l); (bits x 2 0, bits x 3 3))

/-- The codes of the sources of a tile that stand on a lane of its local port (R375, notes/assumptions 19). -/
def Tile.sourcesOn (t : Tile) (r : Region) (n l : Nat) : List Nat :=
  (List.range 16).filter (fun c =>
    r.outLane n c == l &&
    (if c < 4 then t.outEn (isCt n) c
     else if c < 8 then (let v := t.fld (0xE4 + (c - 4)); bit v 15 && bits v 11 11 == 0)
     else t.xEn (c - 8) && t.xDir (c - 8) == 1))

/-- The entering attachment whose lane leads to a leaving one. -/
def State.enterOf (s : State) (r : Region) (n j : Nat) : Option Nat :=
  (s.listed r).find? (fun m => (s.tile m).xEn j && (s.tile m).xDir j == 0 && exitTile m j ((s.tile m).xExit j) == n)

/-- The source of the beats that an output port and lane of a switch carries, found against the routes within `fuel` hops. -/
def State.backSrc (s : State) (r : Region) : Nat → Nat → Nat → Nat → Nat
  | 0, n, _, _ => 16 * n
  | fuel + 1, n, p, l =>
    let x := (s.tile n).routeInto p l
    if x.1 < 4 then
      match neighbour n x.1 with
      | some m => if r.covers m then s.backSrc r fuel m (facing x.1) x.2 else 16 * n
      | none => 16 * n
    else
      let c := ((s.tile n).sourcesOn r n x.2).headD 0
      if c < 8 then 16 * n + c
      else
        match s.enterOf r n (c - 8) with
        | none => 16 * n + c
        | some m =>
          let a := s.backSrc r fuel m 4 0
          if r.inEnd m 0 a = c then a else s.backSrc r fuel m 4 1

/-- The source of the beats in a buffer of an express attachment. -/
def State.xSrc (s : State) (r : Region) (fuel n j : Nat) : Nat :=
  let m := if (s.tile n).xDir j = 1 then (s.enterOf r n j).getD n else n
  let a := s.backSrc r fuel m 4 0
  if r.inEnd m 0 a = 8 + j then a else s.backSrc r fuel m 4 1

/-- The sources of every beat on a region's switches found. -/
def State.findSources (s : State) (r : Region) : State :=
  let fuel := 2 * r.width * r.height + 2
  (s.listed r).foldl (fun u n => u.modTile n (fun t => { t with
    lanes := t.lanes.map (fun (x : Nat × Hop) => (x.1, { x.2 with src := s.backSrc r fuel n (x.1 / 2) (x.1 % 2) }))
    xbuf := t.xbuf.map (fun (x : Nat × List Hop) => (x.1, x.2.map (fun h => { h with src := s.xSrc r fuel n (x.1 / 4) }))) })) s

/-! ### The sequencer block (R417) -/

/-- A copy of an entry. -/
def copyAt (b : List Byte) (off i : Nat) : Copy :=
  (copyOfDesc { newCopy (fieldAt b (off + 73) 1) (w (fieldAt b (off + 72) 1)) Seq.zero with ord := i, done := fieldAt b (off + 64) 8 }
    ((b.drop off).take 64)).1

/-- The sequencer of a block. -/
def recSeq (b : List Byte) : Seq :=
  let flags := fieldAt b 268 4
  let n := min 16 (nbits flags 20 16)
  { Seq.zero with
    regs := (List.range 32).map (fun i => w (fieldAt b (8 * i) 8)), full := w (fieldAt b 256 4), pc := fieldAt b 260 4
    scr := (List.range 8).map (fun i => w (fieldAt b (272 + 8 * i) 8)), profbase := profbaseOf (w (fieldAt b 376 8))
    copies := (List.range n).map (fun i => (i, copyAt b (384 + 96 * i) i)), opNo := n
    cfgReg := if flags.testBit 0 then some (w (fieldAt b 352 4)) else none
    barr := if flags.testBit 1 then some (w (fieldAt b 360 4), w (fieldAt b 364 4)) else none }

/-- What a decoded copy keeps in the middle of a row, gathered anew. -/
def State.regather (s : State) (rn : Nat) : State :=
  match s.region? rn with
  | none => s
  | some r =>
    s.modSeq rn (fun q => { q with copies := q.copies.map (fun (x : Nat × Copy) =>
      let c := x.2
      if c.dec && !epIsMt c.src && c.done % (max 1 c.len) != 0 then
        let at_ := (epRowStart c.src c.sstride (c.done / c.len)).toNat
        match s.gather (s.rgXlate r) r.shadowed 70000 at_ (c.done % c.len) [] with
        | .ok g => (x.1, { c with buf := g.1.drop (c.done % c.len), off := g.2 })
        | .error _ => (x.1, { c with off := at_ })
      else x) })

/-! ### An outstanding CFG (R234) -/

/-- What an install engine keeps of a word it has performed: the latches, the window, the section, what is left to check. -/
def Install.past (i : Install) (x : Word) : Install :=
  let i := { i with esc := false }
  match decodeStream i.esc x with
  | .cfgBegin v => { i with begun := true, version := v }
  | .cfgEnd _ => { i with ended := true }
  | .cfgWin v => { i with win := some (bits v 5 0, bits v 13 8) }
  | .cfgHi v => { i with hi := some v, crcHi := some (w (0xFF04 * 2 ^ 16 + v.toNat)) }
  | .cfgSect v => { i with section_ := v.toNat }
  | .cfgEsc _ => { i with esc := true, crcEsc := some 0xFF060000 }
  | .cfgElementWrite .. => { i with hi := none, crcHi := none, crcEsc := none }
  | _ => i

/-- What an element keeps of a write it has taken: its CRC and its preload counter. -/
def Tile.past (t : Tile) (ct : Bool) (i : Install) (f : Nat) (v : BitVec 16) (x : Word) : Tile :=
  let val : Word := (i.hi.getD 0) ++ v
  let t := if f = fPptr ct then { t with pctr := 0, pbuf := [] }
    else if f = fPdata ct then
      { t with pctr := t.pctr + 1, pbuf := if bit (t.fld (fPptr ct)) 2 || t.pctr % 18 = 17 then [] else t.pbuf ++ [val] }
    else t
  match f with
  | 0xF3 => { t with crcLo := v }
  | 0xF4 => { t with crcLo := 0, crcAcc := 0xFFFFFFFF }
  | _ => { t with crcAcc := crcRun castagnoli t.crcAcc ((crcWords i x).flatMap (fun y => leBytes y.toNat 4)) }

/-- One word of the part of a stream that has been performed. -/
def State.rescanWord (s : State) (r : Region) (i : Install) (x : Word) : Install × State :=
  let j := i.past x
  match decodeStream i.esc x with
  | .cfgBegin _ => (j, s.modListed r (fun t => { t with crcAcc := 0xFFFFFFFF }))
  | .cfgElementWrite idx fld v =>
    match r.winTile (i.win.getD (0, 0)) (if i.esc then 255 else idx.toNat) with
    | none => (j, s)
    | some n =>
      ({ j with touched := touchAfter i.touched n fld.toNat }, s.modTile n (fun t => t.past (isCt n) i fld.toNat v x))
  | _ => (j, s)

/-- The install engine of a restored region brought to its next word by reading the stream again up to it. -/
def State.rescan (s : State) (rn : Nat) (r : Region) : Nat → Nat → Install → Install × State
  | 0, _, i => (i, s)
  | n + 1, k, i =>
    match s.rread rn (i.va.toNat + 4 * k) 4 with
    | .error _ => (i, s)
    | .ok bs =>
      let y := s.rescanWord r i (w (leNat bs))
      State.rescan y.2 rn r n (k + 1) y.1

/-- An outstanding CFG put back. -/
def State.loadCfg (s : State) (rn : Nat) (b : List Byte) : State :=
  match s.region? rn with
  | none => s
  | some r =>
    if (fieldAt b 268 4).testBit 0 then
      let i := newInstall false true (w (fieldAt b 336 8)) (fieldAt b 344 4) (s.rgXlate r) 0 (w (fieldAt b 352 4)) r.seq.pc
      let y := s.rescan rn r (fieldAt b 348 4) 0 i
      y.2.modRegion rn fun g => { g with inst := some { y.1 with next := fieldAt b 348 4 }, cfgFrom := some g.cycles }
    else s

/-! ### The edge block (R417) -/

/-- The request of an entry: its next unit found from its first (R343); that of a decoded read is found as its walk goes. -/
def edgeReq (b : List Byte) : PortReq :=
  { va := w (fieldAt b 16 8), count := fieldAt b 24 2, op := fieldAt b 26 1, next := fieldAt b 28 4, tag := 0
    cur := fieldAt b 16 8 + 64 * fieldAt b 28 4 }

/-- A stream that feeds an attachment of another EMP channel, after a move (R187). -/
def IStream.aimed (i : IStream) (rn : Nat) (incarn : Half) (emp ch : Nat) : IStream :=
  { i with rn := rn, incarn := incarn, block := i.block.take 14 ++ leBytes (emp + 512 * ch) 2 ++ i.block.drop 16 }

/-- The port of an attachment put back from its entry. -/
def Port.load (p : Port) (rn : Nat) (incarn : Half) (a : Attach) (egress : Bool) (b : List Byte) : Port :=
  let f := fieldAt b 5 1
  let q := if f.testBit 0 || f.testBit 3 then some (edgeReq b) else none
  let wr := match q with | some q => q.op == 2 | none => false
  let i : IStream := { rn := rn, incarn := incarn, block := (b.drop 64).take 64, next := fieldAt b 128 4, row := none, stuck := false }
  if egress then
    { p with round := w (fieldAt b 6 1), snuffOut := f.testBit 1, barrOut := f.testBit 2, wait := p.wait || f.testBit 0
             cur := if wr then none else q, wr := if wr then q else none }
  else
    { p with round := w (fieldAt b 6 1), snuff := f.testBit 1, barrIn := f.testBit 2
             streams := if f.testBit 4 then [i.aimed rn incarn a.emp a.ch] else [] }

/-- The entries of an edge block. -/
def edgeEntries (b : List Byte) : List (List Byte) := (List.range (b.length / 192)).map (fun i => (b.drop (192 * i)).take 192)

/-- The attachment an entry names, in a region whose tiles are in place. -/
def State.edgeAttach (s : State) (r : Region) (e : List Byte) : Attach × Bool :=
  let n := tileAt (r.ocol + fieldAt e 0 2) (r.orow + fieldAt e 2 2)
  let v := (s.tile n).fld (0xE4 + fieldAt e 4 1 % 4)
  ({ tile := n, a := fieldAt e 4 1 % 4, emp := bits v 8 0, ch := bits v 10 9 }, bit v 11)

/-- Every port put back, and the beats of the EMP buffers of every record. -/
def State.loadPorts (s : State) (rn : Nat) (r : Region) (recs : List (Nat × List Byte)) (edge : List Byte) : State :=
  let s := (edgeEntries edge).foldl (fun s e =>
    let a := s.edgeAttach r e
    s.modPort (a.1.key rn) (fun p => p.load rn r.incarn a.1 a.2 e)) s
  recs.foldl (fun s x => (recBeats x.2).foldl (fun s y =>
    let v := (s.tile x.1).fld (0xE4 + nbits y.1 7 4 % 4)
    let k := portKey rn (bits v 8 0) (bits v 10 9)
    match nbits y.1 3 0 with
    | 5 => s.modPort k (fun p =>
      if bit v 11 then { p with egress := p.egress ++ [y.2] } else { p with reply := p.reply ++ [(r.incarn, y.2)] })
    | 6 => s.modPort k (fun p => { p with reqF := p.reqF ++ [y.2] })
    | _ => s) s) s

/-! ### Holds (R419) -/

/-- The hold entries of a sequencer block: handle and tag. -/
def holdsAt (b : List Byte) : List (Nat × Nat) :=
  (List.range (fieldAt b 1920 4)).map (fun i => (fieldAt b (1928 + 16 * i) 4, fieldAt b (1928 + 16 * i + 8) 4))

/-- One orphan hold taken over; none where there is no such hold. -/
def State.takeHold (s : State) (p rn handle tag : Nat) : Option State :=
  let P := s.part p
  let mine (h : SoHold) : Bool := h.who == .orphan && h.tag == tag
  if !P.current tblSo handle then none
  else
    match P.sos.find (hSlot handle) with
    | none => none
    | some o =>
      if o.holds.any mine then
        some (s.modSo p (hSlot handle) fun o => { o with holds := o.holds.map (fun h => if mine h then { h with who := .seq rn } else h) })
      else none

/-- Every hold of an image taken over. -/
def State.takeHolds (s : State) (p rn : Nat) (l : List (Nat × Nat)) : Option State :=
  l.foldl (fun o x => o.bind (fun s => s.takeHold p rn x.1 x.2)) (some s)

/-! ### The whole (R418) -/

/-- Sections as the forked classes of their elements give them (R216). -/
def State.sectsOf (s : State) (r : Region) : Tbl Sect :=
  (s.listed r).foldl (fun t n =>
    match (s.tile n).sect with
    | some a =>
      if (s.tile n).forked = 0 then t
      else
        let c := Tbl.get t a { forked := 0, forkCycle := none, firstEnd := none, lastEnd := 0 }
        Tbl.put t a { c with forked := c.forked ||| (s.tile n).forked }
    | none => t) []

/-- Whether a period's graph makes it in-place (R424), and the WARM bit of its launch record (R119). -/
def State.graphInPlace (s : State) (p h : Nat) : Bool :=
  match (s.part p).graphs.find (hSlot h) with | some g => g.inPlace | none => false
def State.warmOf (s : State) (x : Xlate) (frame : Nat) : Bool :=
  frame != 0 && (match vread s.mem x (frame + 5) 1 with | .ok bs => (fieldAt bs 0 1).testBit 0 | .error _ => false)

/-- The code of a record's SEQ section (R122). -/
def State.codeOf (s : State) (p : Nat) (c : Cont) : List Word :=
  match (s.part p).graphs.find (hSlot c.graph) with | some g => nth g.seqs c.seqsect [] | none => []

/-- The tiles of an image placed in a region: none where a rebased field leaves its range. -/
def State.placeTiles (s : State) (recs : List (Nat × List Byte)) (dx dy : Int) : Option State :=
  recs.foldl (fun o x => o.bind (fun s => (recFields x.2 dx dy).map (fun f => s.setTile x.1 (recLoad x.2 f)))) (some s)

/-- The classes of an element that are forked and hold no rule report done at once (R256). -/
def Tile.redone (t : Tile) (ct : Bool) : Tile := { t with doneCls := t.forked &&& t.emptyClasses ct }

/-! ### What was kept beside the image (notes/assumptions 29) -/

/-- A number that names tiles, k for each, after a move by d tiles. -/
def tileShift (x k : Nat) (d : Int) : Nat := ((x : Int) + k * d).toNat

/-- A kept tile at its new place, with the fields the image gives it. -/
def Tile.moved (t : Tile) (fields : Tbl Word) (d : Int) : Tile :=
  { t with
    fields := fields
    lanes := t.lanes.map (fun (x : Nat × Hop) => (x.1, { x.2 with src := tileShift x.2.src 16 d }))
    xbuf := t.xbuf.map (fun (x : Nat × List Hop) => (x.1, x.2.map (fun h => { h with src := tileShift h.src 16 d })))
    net := t.net.map (fun q => { q with src := tileShift q.src 1 d }) }

/-- A kept port at its new attachment: its beats and streams are of the region's incarnation. -/
def Port.moved (p : Port) (rn : Nat) (old new : Half) (a : Attach) : Port :=
  { p with reply := (p.reply.filter (fun x => x.1 == old)).map (fun x => (new, x.2)), linkIn := none, linkOut := none
           streams := p.streams.map (fun i => i.aimed rn new a.emp a.ch) }

/-- The results that a period has journalled, under the number it goes on with (R423, R425). -/
def State.carryResults (s : State) (old new n : Nat) : State :=
  if old = new then s
  else { s with journal := s.journal ++ s.journal.filterMap (fun e =>
      match e with
      | .result p i v => if p = old ∧ i < n then some (JEntry.result new i v) else none
      | _ => none) }

/-- What was kept of a context put over what its image gave. -/
def State.putKept (s : State) (rn : Nat) (r : Region) (k : Kept) (edge : List Byte) : State :=
  let g := k.reg
  let d : Int := (tileAt r.ocol r.orow : Int) - tileAt g.ocol g.orow
  let s := k.tiles.foldl (fun s x => s.modTile (tileShift x.1 1 d) (fun t => x.2.moved t.fields d)) s
  let s := (edgeEntries edge).foldl (fun s e =>
    let a := (s.edgeAttach r e).1
    let v := fieldAt e 8 4
    match k.ports.find (nbits v 10 9 + 4 * nbits v 8 0) with
    | some p => s.setPort (a.key rn) (p.moved rn g.incarn r.incarn a)
    | none => s) s
  let s := s.modRegion rn fun x => { x with
    seq := { g.seq with trapped := none }, sects := g.sects, cycles := g.cycles, phase := g.phase, phaseStart := g.phaseStart
    cfgFrom := g.cfgFrom, cfgLoad := g.cfgLoad, prof := g.prof, firings := g.firings, beatsOut := g.beatsOut, sampleAt := g.sampleAt
    pushIdx := g.pushIdx
    inst := if g.inst.any (·.byCfg) then g.inst.map (fun i => { i with touched := i.touched.map (fun t => tileShift t 64 d) }) else none }
  match s.region? rn with
  | some x => s.carryResults g.period x.period g.pushIdx
  | none => s

/-! ### The whole -/

/-- What an image alone gives a region beyond its tiles: sources of the beats on its routes, ports, requests in its section's network,
sections, copies, an outstanding CFG. -/
def State.fromImage (s : State) (rn : Nat) (r : Region) (recs : List (Nat × List Byte)) (seqB edge : List Byte) : State :=
  let s := s.modTiles (r.tiles.filter (fun n => (s.tiles.find n).isSome)) (fun n t => t.redone (isCt n))
  let s := ((s.markLoops r).findSources r).loadPorts rn r recs edge
  let s := recs.foldl (fun s x => ((s.tile x.1).ops.filter (fun o => opOpc o.op == 0x10 || opOpc o.op == 0x11)).foldl
    (fun s o => s.sendReqs ((s.netReqs x.1 r o).filter (fun y => !o.progress.testBit y.2.lane))) s) s
  let s := s.modRegion rn fun g => { g with sects := s.sectsOf r }
  (s.regather rn).loadCfg rn seqB

/-- Whether a region differs from an image in shape, or is not good where the image's footprint stands (R159, R185). -/
def State.shapeDiffers (s : State) (r : Region) (b : List Byte) (recs : List (Nat × List Byte)) : Bool :=
  fieldAt b 8 2 != r.width || fieldAt b 10 2 != r.height ||
  recs.any (fun x => (recElement x.2 && s.fusedAt x.1) || ((recElement x.2 || recSwitch x.2) && s.lostAt x.1))

/-- Whether a period is journalled as popped and not as retired (R423). -/
def State.periodOpen (s : State) (n : Nat) : Bool :=
  match s.journal.reverse.find? (fun e => match e with | .pop m .. => m == n | .retire m => m == n | _ => false) with
  | some (.pop ..) => true
  | _ => false

/-- The number of the period that a context brought back goes on with: the one it has, where its pop stands open in the journal, else a new
one (R423, R425). -/
def State.contextPeriod (s : State) (k : Option Kept) : Nat :=
  match k with
  | some k => if s.periodOpen k.reg.period then k.reg.period else s.periodNo
  | none => s.periodNo

/-- The context of a whole image put into a region, which it leaves STOPPED, with what was kept beside it and under the number of a period;
or the error with nothing changed. `move` is a rebase, which needs no graph. An armed debug stop stays armed (R448). -/
def State.restore (s : State) (rn : Nat) (b : List Byte) (k : Option Kept) (no : Nat) (move : Bool) : Except Nat State :=
  match s.region? rn with
  | none => .error eBADSTATE
  | some r =>
    match imgRecords (fieldAt b 20 4) ((b.take (fieldAt b 72 8)).drop (fieldAt b 64 8)) with
    | none => .error eBADIMG
    | some recs =>
      let recs := (r.tiles).zip recs
      let c := (contOf ((b.drop 32).take 32)).tagged (fieldAt b 92 2) (fieldAt b 94 2)
      let origq := fieldAt b 88 4
      let P := s.part r.part
      if s.shapeDiffers r b recs then .error eSHAPE
      else if !move && (!P.current tblGraph c.graph || !P.current tblQueue origq) then .error eSTALE
      else
        let seqB := (b.take (fieldAt b 80 8)).drop (fieldAt b 72 8)
        let edge := b.drop (fieldAt b 80 8)
        match ((s.dropPorts rn).zeroTiles r).placeTiles recs ((r.ocol : Int) - fieldAt b 16 2) ((r.orow : Int) - fieldAt b 18 2) with
        | none => .error eBADIMG
        | some s1 =>
          if (dupAttach (s1.eatts r)).isSome then .error eBADIMG
          else
            match s1.takeHolds r.part rn (holdsAt seqB) with
            | none => .error eBADIMG
            | some s1 =>
              let cycles := fieldAt seqB 368 8
              let s1 := s1.modRegion rn fun g => { g with
                state := .stopped, why := fieldAt b 6 1, frzWhy := 0, version := w (fieldAt b 12 2), run := some c, period := no
                origq := w origq, code := s.codeOf r.part c, seq := recSeq seqB, cycles := cycles, phase := 0, phaseStart := cycles
                cfgFrom := none, cfgLoad := 0, prof := [0, 0, 0, 0], saved := false, debug := g.debug || k.any (·.reg.debug), lasterr := 0, inst := none
                inPlace := s.graphInPlace r.part c.graph, shadows := [], pushIdx := 0, attach := none, async := none }
              let s1 := match k with
                | some k => (s1.putKept rn r k edge).markLoops r
                | none => s1.fromImage rn r recs seqB edge
              .ok (s1.modRegion rn fun g => { g with warm := s1.warmOf (s1.rgXlate g) c.frame.toNat })

end Sys2Proof.Machine
end

