-- ==== Sys2Proof/Machine/Context.lean ====
section
/-! DEFINITION. The steps that end what region control starts: freezes, drains, debug stops, saves, loads, moves, zeroing (R159,
R160, R347, R408-R413, R439, R447, R448), and the trace samples (R446). -/

namespace Sys2Proof.Machine

/-! ### Freezes and drains (R347, R410, R411) -/

/-- The cycles of the freeze limit (R137, R347). -/
def Partition.freezeLimit (P : Partition) : Nat :=
  match P.desc with
  | some d => 2 ^ (if d.frzlim = 0 then 18 else d.frzlim)
  | none => 2 ^ 18

/-- FREEZE_LIMIT_EXPIRY: a withheld access of the region has reached the limit (R347). -/
def execFreezeLimitExpiry (rn : Nat) (s : State) : Host.Outcome State Fault Refusal :=
  .next (match s.region? rn with
    | none => s
    | some r =>
      let P := s.part r.part
      if r.active && P.held.any (fun h => h.rn == rn && h.counts && decide (P.freezeLimit ≤ h.age)) then s.freeze rn 3 else s)

/-- The scalar accesses a sequencer has issued that do not fault are performed (R234, R411). -/
def State.performReady (s : State) (rn : Nat) : State :=
  match s.region? rn with
  | none => s
  | some r => r.seq.acc.foldl (fun s x =>
      match translate s.mem (s.rgXlate r) x.2.va.toNat (if x.2.store then .write else .read) with
      | .ok _ => s.perform rn x.1
      | .error _ => s) s

/-- FREEZE_COMPLETE: with every firing in flight complete and every indirect stream at a row boundary, or where it cannot go on, the
region is STOPPED with its WHY (R373, R411, R413). -/
def execFreezeComplete (rn : Nat) (s : State) : Host.Outcome State Fault Refusal :=
  .next (match s.region? rn with
    | none => s
    | some r =>
      if r.state == .freezing && (s.listed r).all (fun n => (s.tile n).settled) && r.seq.copies.all (fun c => !c.2.ended) &&
          s.dies.all (fun d => d.2.engines.all (fun e => !s.rowLeft rn r d.1 e.1 e.2)) then
        (s.performReady rn).stopped rn r.frzWhy
      else s)

/-- Whether a drain is complete (R410). -/
def State.drained (s : State) (rn : Nat) (r : Region) : Bool :=
  (s.listed r).all (fun n => !(s.tile n).enabled || (s.tile n).merged) && (s.listed r).all (fun n => (s.tile n).settled && (s.tile n).glow.isEmpty) &&
  (s.ports_ r 1).all (fun a => (s.port (a.key rn)).snuffOut) && r.seq.copies.isEmpty && r.inst.isNone

/-- SNUFF_DRAIN_COMPLETE: the region is STOPPED with WHY 1 (R410). -/
def execSnuffDrainComplete (rn : Nat) (s : State) : Host.Outcome State Fault Refusal :=
  .next (match s.region? rn with
    | none => s
    | some r => if r.state == .draining && s.drained rn r then s.stopped rn 1 else s)

/-- DEBUG_STOP: an armed region at a reconfiguration boundary is STOPPED with WHY 6 before the instruction, and disarmed (R447,
R448). -/
def execDebugStop (rn : Nat) (s : State) : Host.Outcome State Fault Refusal :=
  .next (if s.debugDue rn then (s.modRegion rn fun g => { g with debug := false }).stopped rn 6 else s)

/-! ### rg.save and rg.load (R159, R414, R418) -/

/-- An asynchronous transfer of an image ends: LASTERR, the state, nothing outstanding. -/
def State.asyncEnd (s : State) (rn : Nat) (st : RgState) (err : Nat) : State :=
  s.modRegion rn fun g => { g with state := st, lasterr := w err, async := none }

/-- SAVE_COMPLETE: the image is written, its valid word with it; a page fault withholds the transfer, any other ends it with
PGFLT (R144, R159). -/
def execSaveComplete (rn : Nat) (s : State) : Host.Outcome State Fault Refusal :=
  .next (match s.region? rn with
    | none => s
    | some r =>
      match r.async with
      | some (.save va x) =>
        if s.isHeld x.part (.image rn) then s
        else
          match vwrite s.mem x va.toNat (s.imageBytes rn r) with
          | .ok m =>
            (({ s.keep rn r with mem := m }.asyncEnd rn .stopped 0).modRegion rn fun g => { g with saved := true }).trace rn 4 r.why 0
          | .error (o, f) =>
            if f.kind == .page then s.withholdHart rn (.image rn) x o f true (va.toNat + o) else s.asyncEnd rn .stopped ePGFLT
      | _ => s)

/-- A load that fails leaves the region CLAIMED, zeroed, with its error (R153, R159, R439; notes/assumptions 43). -/
def State.loadFail (s : State) (rn code : Nat) : State := (s.zeroRegion rn).asyncEnd rn .claimed code

/-- A context that comes back under a period number whose pop the journal does not hold open is journalled as popped (R423, R425). -/
def State.openPeriod (s : State) (no : Nat) (rn : Nat) : State :=
  if s.periodOpen no then s
  else
    match s.region? rn with
    | some g =>
      (match g.run with
       | some c => { s with periodNo := s.periodNo + 1, journal := s.journal ++ [JEntry.pop no g.part (hSlot g.origq.toNat - 1) c.prio rn c] }
       | none => s)
    | none => s

/-- LOAD_COMPLETE: the image is read and restored, the region STOPPED, or the load fails (R159, R185, R418, R419, R446,
notes/assumptions 43). -/
def execLoadComplete (rn : Nat) (s : State) : Host.Outcome State Fault Refusal :=
  .next (match s.region? rn with
    | none => s
    | some r =>
      match r.async with
      | some (.load va x) =>
        if s.isHeld x.part (.image rn) then s
        else
          match imgRead s.mem x va.toNat with
          | .error (o, f) =>
            if f.kind == .page then s.withholdHart rn (.image rn) x o f false (va.toNat + o) else s.loadFail rn ePGFLT
          | .ok b =>
            if !imgOk b then s.loadFail rn eBADIMG
            else
              let no := s.contextPeriod (s.keptWith b)
              match s.restore rn b (s.keptWith b) no false with
              | .ok t => (t.openPeriod no rn).trace rn 4 (fieldAt b 6 1) 0
              | .error c => s.loadFail rn c
      | _ => s)

/-! ### rg.rebase (R160) -/

/-- The source's context moved into the destination, with its period and its holds; the source is zeroed and CLAIMED. -/
def State.rebase (s : State) (src dst : Nat) : Except Nat State :=
  match s.region? src, s.region? dst with
  | some a, some _ =>
    match (s.moveHolds a.part (.seq src) .orphan).restore dst (s.imageBytes src a) (some (s.keptOf src a)) a.period true with
    | .error c => .error c
    | .ok t =>
      let t := t.modRegion dst fun g => { g with
        why := a.why, code := a.code, warm := a.warm, inPlace := a.inPlace, shadows := a.shadows, debug := a.debug
        saved := a.saved }
      let t := t.modRegion src fun g => { g with run := none, shadows := [], inst := none, debug := false, why := 0, saved := false }
      .ok ((t.zeroRegion src).asyncEnd src .claimed 0)
  | _, _ => .error eBADSTATE

/-- rg.rebase: SHAPE and BADARG at issue, else the move starts (R160, R188, R499). -/
def execRgRebase (rd rs1 rs2 : Reg) (s : State) : Host.Outcome State Fault Refusal :=
  .next (s.xRegion rd rs1 none (fun h src a s =>
    match s.rgOf a.part (bits (h.get rs2) 31 0) with
    | none => s.xErr rd eSTALE
    | some (dst, b) =>
      s.xGate rd a [.stopped] (fun s =>
        s.xGate rd b [.claimed] (fun s =>
          match s.rebase src dst with
          | .error c => s.xErr rd (if c = eSHAPE then eSHAPE else eBADARG)
          | .ok _ =>
            let s := s.modRegion src fun g => { g with state := .saving, async := some (.rebaseFrom dst) }
            (s.modRegion dst fun g => { g with state := .loading, async := some (.rebaseTo src) }).xResult rd 0))))

/-- The two sides of the move that a region takes part in. -/
def Region.rebasePair (r : Region) (rn : Nat) : Option (Nat × Nat) :=
  match r.async with
  | some (.rebaseFrom dst) => some (rn, dst)
  | some (.rebaseTo src) => some (src, rn)
  | _ => none

/-- REBASE_COMPLETE: the source is CLAIMED, the destination STOPPED (R160, R446). -/
def execRebaseComplete (rn : Nat) (s : State) : Host.Outcome State Fault Refusal :=
  .next (match (s.region? rn).bind (fun r => r.rebasePair rn) with
    | none => s
    | some (src, dst) =>
      match s.rebase src dst with
      | .ok t => t.trace dst 4 (match t.region? dst with | some g => g.why | none => 0) 0
      | .error c => (s.asyncEnd src .stopped c).asyncEnd dst .claimed c)

/-! ### Zeroing (R439) -/

/-- REGION_ZEROING_COMPLETE: the tiles are zero, and a freed area may be claimed again (R439). -/
def execRegionZeroingComplete (rn : Nat) (s : State) : Host.Outcome State Fault Refusal :=
  let left := s.regions.filter (fun x => !(x.1 % 1024 == rn && x.2.freeing))
  .next { s with regions := left.map (fun (x : Nat × Region) => if x.1 = rn then (x.1, { x.2 with zeroing := false }) else x) }

/-! ### Samples (R445, R446) -/

/-- TRACE_SAMPLE: every 2^SLOG cycles of a RUNNING region, its PC, firings and egress beats since the last one (R446). -/
def execTraceSample (rn : Nat) (s : State) : Host.Outcome State Fault Refusal :=
  .next (match s.region? rn with
    | none => s
    | some r =>
      let n := (s.part r.part).trSlog
      if r.state == .running && decide (10 ≤ n) && decide (n ≤ 30) && decide (r.sampleAt + 2 ^ n ≤ r.cycles) then
        let s := s.trace rn 7 (r.seq.pc + min (2 ^ 32 - 1) r.firings * 2 ^ 32) (min (2 ^ 64 - 1) r.beatsOut)
        s.modRegion rn fun g => { g with sampleAt := r.sampleAt + 2 ^ n, firings := 0, beatsOut := 0 }
      else s)

end Sys2Proof.Machine
end

