-- ==== Sys2Proof/Machine/Collective.lean ====
section
/-! DEFINITION. The collective engines (R456-R458). Every address of a ring, a command or a group is guest-physical, as that of the ring
descriptor is (notes/assumptions 40). -/

namespace Sys2Proof.Machine

open Sys2Proof.Config

/-! ### Commands and groups (R456) -/

def cmGroup (b : List Byte) : Nat := fieldAt b 0 8
def cmSeqno (b : List Byte) : Nat := fieldAt b 8 8
def cmOp (b : List Byte) : Nat := fieldAt b 16 1
def cmType (b : List Byte) : Nat := fieldAt b 17 1
def cmRedop (b : List Byte) : Nat := fieldAt b 18 1
def cmExact (b : List Byte) : Bool := (fieldAt b 19 1).testBit 0
def cmCount (b : List Byte) : Nat := fieldAt b 20 4
def cmSrc (b : List Byte) : Nat := fieldAt b 24 8
def cmDst (b : List Byte) : Nat := fieldAt b 32 8
def cmRank (b : List Byte) : Nat := fieldAt b 40 4
def cmRoot (b : List Byte) : Nat := fieldAt b 44 4
def cmDone (b : List Byte) : Nat := fieldAt b 48 8

/-- The number of elements of a block of a type (R109, R110), and the bytes of a block with its scale and spare, or of an element. -/
def blockOf (dtype : Nat) : Nat := if dtype = 4 || dtype = 5 then 32 else 1
def blockBytes (dtype : Nat) : Nat := match dtype with | 1 => 2 | 2 => 2 | 4 => 18 | 5 => 33 | _ => 4

/-- Whether a command has no reserved code and every field is in range. -/
def cmdOk (b : List Byte) : Bool :=
  decide (cmOp b ≤ 3) && decide (cmType b ≤ 5) && decide (cmRedop b ≤ 2) && decide (fieldAt b 19 1 ≤ 1) && inR (cmCount b) 1 (2 ^ 28) &&
  cmCount b % blockOf (cmType b) == 0 && zeroAt b 56 64 && cmGroup b % 64 == 0 && cmDone b % 8 == 0

/-- Whether a command names a ROOT that has a part in it: the source of a broadcast, or who receives an EXACT reduction (R456, R457). -/
def rootUsed (b : List Byte) : Bool := cmOp b == 2 || (cmOp b == 1 && cmExact b)

/-- Whether a command is a sum by accumulators (R457). -/
def exactSum (b : List Byte) : Bool := decide (cmOp b ≤ 1) && cmExact b && cmRedop b == 0 && cmType b != 3

/-- A group: its size, log2 of the cycles its ranks have to match, and its entries. -/
def grN (g : List Byte) : Nat := fieldAt g 0 4
def grTlog (g : List Byte) : Nat := fieldAt g 4 1
def grEntry (g : List Byte) (i : Nat) : Nat := fieldAt g (64 + 8 * i) 8
def grPod (e : Nat) : Nat := nbits e 7 0
def grPart (e : Nat) : Nat := nbits e 11 8
def grChip (e : Nat) : Nat := nbits e 15 12

/-- Whether a group is as R456 gives, and a command's rank, and its root where it has a part, are of it. -/
def groupOk (g b : List Byte) : Bool :=
  inR (grN g) 2 4096 && inR (grTlog g) 20 40 && zeroAt g 5 64 && (List.range (grN g)).all (fun i => decide (grEntry g i < 65536)) &&
  decide (cmRank b < grN g) && (!rootUsed b || decide (cmRoot b < grN g))

/-- A group read: the header, then its entries where the size is in range. -/
def State.readGroup (s : State) (p a : Nat) : Except (Nat × XFault) (List Byte) :=
  match vread s.mem (s.gpa p) a 64 with
  | .error f => .error f
  | .ok h => if inR (grN h) 2 4096 then vread s.mem (s.gpa p) a (64 + 8 * grN h) else .ok h

/-! ### Rings (R456) -/

/-- The key of a chiplet's engines of a partition. -/
def collKey (p chip : Nat) : Nat := 16 * p + chip

def State.collOf (s : State) (p chip : Nat) : List Coll := s.colls.get (collKey p chip) []
def State.setColl (s : State) (p chip : Nat) (l : List Coll) : State :=
  { s with colls := if l.isEmpty then s.colls.del (collKey p chip) else s.colls.put (collKey p chip) l }

/-- The collectives that a chiplet's engines carry out, of every partition: its engines are shared (R13). -/
def State.enginesBusy (s : State) (chip : Nat) : Nat := ((List.range numParts).map (fun p => (s.collOf p chip).length)).sum

/-- The command at the head of a chiplet's ring, where TAIL is past it and an engine is free. -/
def State.nextCmd (s : State) (p chip : Nat) : Except XFault (Option (List Byte)) :=
  match (s.part p).desc with
  | none => .ok none
  | some d =>
    let x := s.gpa p
    match vread s.mem x (d.coldesc + 32 * chip) 32 with
    | .error (_, f) => .error f
    | .ok r =>
      let k := fieldAt r 16 1
      let head := s.collHead.get (collKey p chip) 0
      if !inR k 4 12 || collsPerChip ≤ s.enginesBusy chip then .ok none
      else
        match vread s.mem x (fieldAt r 8 8) 8 with
        | .error (_, f) => .error f
        | .ok t =>
          if fieldAt t 0 8 % 2 ^ k = head % 2 ^ k then .ok none
          else
            match vread s.mem x (fieldAt r 0 8 + 64 * (head % 2 ^ k)) 64 with
            | .error (_, f) => .error f
            | .ok b => .ok (some b)

/-- A command taken by an engine. -/
def State.takeCmd (s : State) (p chip : Nat) (b : List Byte) (ended : Option (Nat × BitVec 6)) : State :=
  let c : Coll := { cmd := b, age := 0, stuck := false, ended := ended }
  { s with collHead := s.collHead.put (collKey p chip) (s.collHead.get (collKey p chip) 0 + 1) }.setColl p chip (s.collOf p chip ++ [c])

/-- The collectives of a chiplet that have not ended, changed where a test holds. -/
def State.endColl (s : State) (p chip : Nat) (is : Coll → Bool) (code : Nat) (fl : BitVec 6) : State :=
  s.setColl p chip ((s.collOf p chip).map (fun (c : Coll) => if c.ended.isNone && is c then { c with ended := some (code, fl) } else c))

/-- An access of an engine withheld, for a collective's command or for none: the read of a ring. -/
def State.collFault (s : State) (p chip : Nat) (b : Option (List Byte)) (f : XFault) (write : Bool) (va : Nat) : State :=
  (s.setColl p chip ((s.collOf p chip).map (fun (c : Coll) => { c with stuck := b == some c.cmd }))).withholdEngine p 4096 (.coll p chip) f
    write va none

/-! ### Data (R109, R110, R456) -/

/-- Where block i of data at an address stands: its elements, its scale (and spare), by granule. -/
def blockAt (dtype a i : Nat) : (Nat × Nat) × (Nat × Nat) :=
  let n := if dtype = 4 then 16 else 32
  let per := if dtype = 4 then 3584 else 1920
  let b := a % 65536 / n + i
  let page := a / 65536 * 65536 + b / per * 65536
  let k := b % per
  ((page + n * k, n), if dtype = 4 then (page + 57344 + 2 * k, 2) else (page + 61440 + k, 1))

/-- The pieces of n elements of a type at an address. -/
def dataPieces (dtype a n : Nat) : List (Nat × Nat) :=
  if blockOf dtype = 1 then [(a, n * blockBytes dtype)]
  else (List.range (n / 32)).flatMap (fun i => let q := blockAt dtype a i; [q.1, q.2])

def readData (m : Memory) (x : Xlate) : List (Nat × Nat) → Except (Nat × XFault) (List Byte)
  | [] => .ok []
  | (a, k) :: t =>
    match vread m x a k with
    | .error (o, f) => .error (a + o, f)
    | .ok bs => (readData m x t).map (fun r => bs ++ r)

def writeData (m : Memory) (x : Xlate) : List (Nat × Nat) → List Byte → Except (Nat × XFault) Memory
  | [], _ => .ok m
  | (a, k) :: t, bs =>
    match vwrite m x a (bs.take k) with
    | .error (o, f) => .error (a + o, f)
    | .ok m => writeData m x t (bs.drop k)

/-- Element j of data as a code of binary32, or of INT32 (R457). -/
def elemCode (dtype : Nat) (bs : List Byte) (j : Nat) : Nat × Flags :=
  let base := j / 32 * blockBytes dtype
  match dtype with
  | 1 => (fieldAt bs (2 * j) 2 * 65536, 0)
  | 2 => b32.conv rmRNE false (b16.val (fieldAt bs (2 * j) 2))
  | 4 =>
    let hdr : Word := w (fieldAt bs (base + 17) 1 * 256 + fieldAt bs (base + 16) 1)
    let v := e2dec hdr (w (fieldAt bs (base + j % 32 / 8 * 4) 4)) (w (j % 8))
    (v.1.toNat, v.2)
  | 5 =>
    let v := i8dec false (w (fieldAt bs (base + 32) 1)) (w (fieldAt bs (base + j % 32 / 4 * 4) 4)) (w (j % 4))
    (v.1.toNat, v.2)
  | _ => (fieldAt bs (4 * j) 4, 0)

/-! ### Reductions (R457) -/

/-- One reduction of two values. -/
def reduceTwo (dtype redop a b : Nat) : Nat × Flags :=
  if dtype = 3 then
    (match redop with
     | 0 => (a + b) % 2 ^ 32
     | 1 => if snat 32 a ≤ snat 32 b then a else b
     | _ => if snat 32 a ≤ snat 32 b then b else a, 0)
  else if redop = 0 then b32.add rmRNE a b
  else fminmax (redop == 2) false a b

/-- The partial of rank i in the binary tree over group order: its own value, then its left and its right child's. -/
def treePartial (dtype redop : Nat) (vals : List Nat) : Nat → Nat → Nat × Flags
  | 0, i => (nth vals i 0, 0)
  | n + 1, i =>
    let join (a : Nat × Flags) (k : Nat) : Nat × Flags :=
      if k < vals.length then
        let c := treePartial dtype redop vals n k
        let r := reduceTwo dtype redop a.1 c.1
        (r.1, a.2 ||| c.2 ||| r.2)
      else a
    join (join (nth vals i 0, 0) (2 * i + 1)) (2 * i + 2)

/-- A reduction of the ranks' values of one element by the tree. -/
def reduceElem (dtype redop : Nat) (vals : List Nat) : Nat × Flags := treePartial dtype redop vals 13 0

/-- The 40-byte accumulator of an EXACT sum: an integer worth a multiple of 2^-149 and the flags of what was seen. -/
structure Accum where
  sum : BitVec 312
  seen : BitVec 8
  deriving DecidableEq, Repr

def Accum.bytes (a : Accum) : List Byte := leBytes a.sum.toNat 39 ++ leBytes a.seen.toNat 1
def accumAt (bs : List Byte) (j : Nat) : Accum := { sum := w (fieldAt bs (40 * j) 39), seen := w (fieldAt bs (40 * j + 39) 1) }

/-- The accumulator of one value; a decoding that was invalid counts as a signalling NaN. -/
def accumOf (x : Nat × Flags) : Accum :=
  match b32.val x.1 with
  | .nan s => { sum := 0, seen := if s || x.2 &&& flINV != 0 then 0xC else 4 }
  | .inf s => { sum := 0, seen := if s then 2 else 1 }
  | v => { sum := wi 312 (v.scaled (-149)), seen := if x.1 = 0x80000000 then 0x10 else 0 }

/-- Two accumulators added: all addends are -0 only where they are on both sides. -/
def Accum.add (a b : Accum) : Accum :=
  { sum := a.sum + b.sum, seen := ((a.seen ||| b.seen) &&& 0xF) ||| (a.seen &&& b.seen &&& 0x10) }

/-- The final value of an accumulator, and its flags. -/
def Accum.final (a : Accum) : Nat × Flags :=
  if bit a.seen 2 then (b32.nan, if bit a.seen 3 then flINV else 0)
  else if bit a.seen 0 && bit a.seen 1 then (b32.nan, flINV)
  else if bit a.seen 0 then (b32.inf, 0)
  else if bit a.seen 1 then (b32.inf + b32.sbit, 0)
  else
    let x := a.sum.toInt
    if x = 0 then (if bit a.seen 4 then b32.sbit else 0, 0) else b32.round rmRNE false (decide (x < 0)) x.natAbs (-149) false

/-- A sum of accumulators. -/
def accumSum : List Accum → Accum
  | [] => { sum := 0, seen := 0x10 }
  | a :: t => t.foldl Accum.add a

/-- A result as bytes of what is delivered: BF16 and binary16 rounded RNE, else four bytes. -/
def resultBytes (dtype : Nat) (v : Nat) : List Byte × Flags :=
  match dtype with
  | 1 => (let r := bf16.conv rmRNE false (b32.val v); (leBytes r.1 2, r.2))
  | 2 => (let r := b16.conv rmRNE false (b32.val v); (leBytes r.1 2, r.2))
  | _ => (leBytes v 4, 0)

/-- The reduction of the ranks' data: the bytes delivered and the flags. -/
def reduceAll (b : List Byte) (data : List (List Byte)) : List Byte × Flags :=
  (List.range (cmCount b)).foldl (fun (acc : List Byte × Flags) j =>
    let es := if exactSum b then [] else data.map (fun bs => elemCode (cmType b) bs j)
    let r := if exactSum b then (accumSum (data.map (fun bs => accumAt bs j))).final else reduceElem (cmType b) (cmRedop b) (es.map (·.1))
    let out := resultBytes (cmType b) r.1
    (acc.1 ++ out.1, es.foldl (fun f e => f ||| e.2) (acc.2 ||| r.2 ||| out.2))) ([], 0)

/-! ### Matching (R456) -/

/-- The collective that a rank of this module takes part in with a command: one of the same group contents and SEQNO, whatever else it says. -/
def State.localRank (s : State) (g b : List Byte) (e i : Nat) : Option Coll :=
  (s.collOf (grPart e) (grChip e)).find? (fun c =>
    c.ended.isNone && cmSeqno c.cmd == cmSeqno b && cmRank c.cmd == i && (s.readGroup (grPart e) (cmGroup c.cmd)).toOption == some g)

/-- Every rank of this module that has matched a command ends with a status. -/
def State.endRanks (s : State) (g b : List Byte) (code : Nat) : State :=
  (List.range (grN g)).foldl (fun t i =>
    match s.localRank g b (grEntry g i) i with
    | some c => t.endColl (grPart (grEntry g i)) (grChip (grEntry g i)) (fun y => y.cmd == c.cmd) code 0
    | none => t) s

/-- A command ends with a status, and with it every rank that has matched it, where its group is one (R458). -/
def State.endAll (s : State) (p chip : Nat) (b : List Byte) (code : Nat) : State :=
  let t := s.endColl p chip (fun c => c.cmd == b) code 0
  match s.readGroup p (cmGroup b) with
  | .ok g => if inR (grN g) 2 4096 then t.endRanks g b code else t
  | .error _ => t

/-- Whether a chiplet's engines wait for a withheld access; at the freeze limit it ends, with PGFLT for the collective it is of. -/
def State.collHeld (s : State) (p chip : Nat) : Option State :=
  match (s.part p).held.find? (fun h => h.who == .coll p chip) with
  | none => none
  | some h =>
    if h.age < (s.part p).freezeLimit then some s
    else
      let s := s.modPart p fun P => { P with held := P.held.filter (fun y => y.who != .coll p chip) }
      match (s.collOf p chip).find? (fun c => c.stuck && c.ended.isNone) with
      | some c => some (s.endAll p chip c.cmd ePGFLT)
      | none => some s

/-- The data of rank i: of this module from its memory, of another from what came over the links; none while it has not matched. In an
EXACT sum they are accumulators. -/
def State.rankData (s : State) (g b : List Byte) (peers : List PeerData) (i : Nat) : Option (Except (Nat × Nat × List Byte × XFault × Nat) (List Byte)) :=
  let e := grEntry g i
  if grPod e = s.podNum then
    (s.localRank g b e i).map fun c =>
      match readData s.mem (s.gpa (grPart e)) (dataPieces (cmType b) (cmSrc c.cmd) (cmCount b)) with
      | .ok bs =>
        .ok (if exactSum b then (List.range (cmCount b)).flatMap (fun j => (accumOf (elemCode (cmType b) bs j)).bytes) else bs)
      | .error (a, f) => .error (grPart e, grChip e, c.cmd, f, a)
  else (peers.find? (fun x => x.rank == i)).map (fun x => .ok x.bytes)

/-- What one rank of this module receives: pieces of memory and bytes. -/
def delivery (b c : List Byte) (n : Nat) (data : List (List Byte)) (red : List Byte) : Option (List (Nat × Nat) × List Byte) :=
  let outType := if cmType b = 4 || cmType b = 5 then 0 else cmType b
  match cmOp b with
  | 0 => some (dataPieces outType (cmDst c) (cmCount b), red)
  | 1 => if cmRank c = (if cmExact b then cmRoot b else 0) then some (dataPieces outType (cmDst c) (cmCount b), red) else none
  | 2 => some (dataPieces (cmType b) (cmDst c) (cmCount b), nth data (cmRoot b) [])
  | _ => some (dataPieces (cmType b) (cmDst c) (cmCount b * n), data.flatten)

/-- The results delivered to the ranks of this module, each of which ends; a write that faults is withheld and nothing has ended. -/
def State.deliver (s : State) (b g : List Byte) (data : List (List Byte)) (red : List Byte) (fl : BitVec 6) : List Nat → State → State
  | [], t => t
  | i :: is, t =>
    let e := grEntry g i
    match s.localRank g b e i with
    | none => s.deliver b g data red fl is t
    | some c =>
      let next (t : State) : State :=
        s.deliver b g data red fl is (t.endColl (grPart e) (grChip e) (fun y => y.cmd == c.cmd) 0 fl)
      match delivery b c.cmd (grN g) data red with
      | none => next t
      | some (ps, bs) =>
        match writeData t.mem (s.gpa (grPart e)) ps bs with
        | .ok m => next { t with mem := m }
        | .error (a, f) => s.collFault (grPart e) (grChip e) (some c.cmd) f true a

/-- The first access that faulted among the ranks' data. -/
def firstFault {α β : Type} : List (Except α β) → Option α
  | [] => none
  | .error a :: _ => some a
  | .ok _ :: t => firstFault t

/-- Whether a collective with ranks on other modules lacks a link it needs: where no port is up it does; where only some are down the spec
does not say which it needs (notes/assumptions 40). -/
def State.linkLacks (s : State) (g : List Byte) : Bool :=
  (List.range (grN g)).any (fun i => grPod (grEntry g i) != s.podNum) &&
  (!s.akend.any (fun a => a.2.up) || ((List.range numAkend).any (fun q => cabled q && !(s.ak q).up) && choose s.freeCtr % 2 == 1))

/-- The status with which a rank on another module has failed. -/
def peerFailed (g : List Byte) (pod : Nat) (peers : List PeerData) : Option Nat :=
  (peers.find? (fun x => decide (x.rank < grN g) && grPod (grEntry g x.rank) != pod && x.status != 0)).map (·.status % 65536)

/-- The collective of a command carried out once every rank has matched, none before; every rank ends with the status of one that has
failed, or LINKDOWN where a link it needs is down. -/
def State.collDo (s : State) (p chip : Nat) (b : List Byte) (peers : List PeerData) : Option State :=
  match s.readGroup p (cmGroup b) with
  | .error (o, f) => some (s.collFault p chip (some b) f false (cmGroup b + o))
  | .ok g =>
    if !groupOk g b then some (s.endAll p chip b eBADARG)
    else if s.linkLacks g then some (s.endAll p chip b 0x13)
    else if let some code := peerFailed g s.podNum peers then some (s.endAll p chip b code)
    else
        let ranks := List.range (grN g)
        let ds := ranks.map (s.rankData g b peers)
        if ds.any (·.isNone) then none
        else
          some <| match firstFault (ds.filterMap id) with
          | some (q, ch, c, f, a) => s.collFault q ch (some c) f false a
          | none =>
            let data := (ds.filterMap id).filterMap (·.toOption)
            let red := if cmOp b ≤ 1 then reduceAll b data else ([], 0)
            s.deliver b g data red.1 red.2 ranks s

/-- A step of a chiplet's engines on an OP: the oldest collective in progress whose ranks have matched, or else the next command of the ring
where it has that OP and is well formed, and a free engine takes it. -/
def State.collStep (s : State) (p chip op : Nat) (peers : List PeerData) : State :=
  match s.collHeld p chip with
  | some t => t
  | none =>
    match ((s.collOf p chip).filter (fun c => c.ended.isNone && cmOp c.cmd == op)).findSome? (fun c => s.collDo p chip c.cmd peers) with
    | some t => t
    | none =>
      match s.nextCmd p chip with
      | .error f => s.collFault p chip none f false 0
      | .ok none => s
      | .ok (some b) =>
        if cmdOk b && cmOp b == op then (let t := s.takeCmd p chip b none; (t.collDo p chip b peers).getD t) else s

/-- ALLREDUCE. -/
def execAllreduce (p chip : Nat) (peers : List PeerData) (s : State) : Host.Outcome State Fault Refusal := .next (s.collStep p chip 0 peers)

/-- REDUCE. -/
def execReduce (p chip : Nat) (peers : List PeerData) (s : State) : Host.Outcome State Fault Refusal := .next (s.collStep p chip 1 peers)

/-- BROADCAST. -/
def execBroadcast (p chip : Nat) (peers : List PeerData) (s : State) : Host.Outcome State Fault Refusal := .next (s.collStep p chip 2 peers)

/-- ALLGATHER. -/
def execAllgather (p chip : Nat) (peers : List PeerData) (s : State) : Host.Outcome State Fault Refusal := .next (s.collStep p chip 3 peers)

/-- COLLECTIVE_RESERVED_CODE: a command that breaks its form ends BADARG as it is taken (R456). -/
def execCollectiveReservedCode (p chip : Nat) (s : State) : Host.Outcome State Fault Refusal :=
  .next (match s.collHeld p chip with
    | some t => t
    | none =>
      match s.nextCmd p chip with
      | .ok (some b) => if cmdOk b then s else s.takeCmd p chip b (some (eBADARG, 0))
      | _ => s)

/-- Whether every rank of a command is of this module and has matched it. -/
def State.allMatch (s : State) (g b : List Byte) : Bool :=
  (List.range (grN g)).all (fun i => grPod (grEntry g i) == s.podNum && (s.localRank g b (grEntry g i) i).isSome)

/-- Whether a collective has waited 2^TLOG cycles for ranks that have not all matched (R458). -/
def State.collLate (s : State) (p : Nat) (c : Coll) : Bool :=
  match s.readGroup p (cmGroup c.cmd) with
  | .error _ => false
  | .ok g => decide (2 ^ grTlog g ≤ c.age) && !s.allMatch g c.cmd

/-- COLLECTIVE_TIMEOUT: the oldest collective whose ranks have not all matched within 2^TLOG cycles ends with TIMEOUT (R458). -/
def execCollectiveTimeout (p chip : Nat) (s : State) : Host.Outcome State Fault Refusal :=
  .next (match (s.collOf p chip).find? (fun c => c.ended.isNone && s.collLate p c) with
    | none => s
    | some c => s.endAll p chip c.cmd 0x14)

/-- Whether a collective's data lie in a range of addresses. -/
def Coll.touches (c : Coll) (lo hi : Nat) : Bool :=
  (dataPieces (cmType c.cmd) (cmSrc c.cmd) (cmCount c.cmd) ++ dataPieces (cmType c.cmd) (cmDst c.cmd) (cmCount c.cmd)).any
    (fun x => decide (x.1 < hi) && decide (lo < x.1 + x.2))

/-- The collectives of a partition whose data lie in a revoked ATTN page stop, each with every rank that has matched it (R422, R458). -/
def State.revokeColls (s : State) (p lo hi : Nat) : State :=
  (List.range 16).foldl (fun s chip => ((s.collOf p chip).filter (fun c => c.ended.isNone && c.touches lo hi)).foldl (fun s c =>
    s.endAll p chip c.cmd eREVOKED) s) s

/-- The DONE word: bit 63, the flags, the status (R458). -/
def doneWord (code : Nat) (fl : BitVec 6) : Nat := 2 ^ 63 + fl.toNat * 2 ^ 16 + code

/-- COLLECTIVE_DONE: the DONE word of the first collective that has ended is written in class COL (R458). -/
def execCollectiveDone (p chip : Nat) (s : State) : Host.Outcome State Fault Refusal :=
  .next (match s.collHeld p chip with
    | some t => t
    | none =>
      match (s.collOf p chip).find? (fun c => c.ended.isSome) with
      | none => s
      | some c =>
        let e := c.ended.getD (0, 0)
        match vwrite s.mem (s.gpa p) (cmDone c.cmd) (leBytes (doneWord e.1 e.2) 8) with
        | .ok m => { s with mem := m }.setColl p chip ((s.collOf p chip).erase c)
        | .error (o, f) => s.collFault p chip (some c.cmd) f true (cmDone c.cmd + o))

end Sys2Proof.Machine
end

