-- ==== Sys2Proof/Machine/Csr.lean ====
section
/-! DEFINITION. The device CSRs of a Lantern hart: who may access them (R12, R449), what they read as, and the writes with no
large effect (R136, R146, R348, R407, R440, R445, R448, R469, R470, R473). -/

namespace Sys2Proof.Machine

open Sys2Proof.Config

/-! ### Numbers and privilege (R12, R449) -/

def nVDPART : Nat := 0x5C0
def nVDRESUME : Nat := 0x5C1
def nVDFQHEAD : Nat := 0x5C2
def nVDREVOKE : Nat := 0x5C3
def nVDTRACE : Nat := 0x5C4
def nVDPGZERO : Nat := 0x5C5
def nVDDEBUG : Nat := 0x5C6
def nVDDMSEL : Nat := 0x5C7
def nVDDMDAT : Nat := 0x5C8
def nVDQCTL : Nat := 0x5CA
def nLMSEL : Nat := 0x6C0
def nLMDAT : Nat := 0x6C1
def nVDPTAB : Nat := 0x6C4
def nVDPUPD : Nat := 0x6C5
def nVMSEL : Nat := 0x7C0
def nVMDAT : Nat := 0x7C1
def nVDID : Nat := 0xCC0
def nVDCHIP : Nat := 0xCC1

/-- The least level of an access to a CSR; none for a write to a read-only one. -/
def csrLeast (n : Nat) (write : Bool) : Option Nat :=
  if n = nVDID || n = nVDCHIP then (if write then none else some 0)
  else if n = nVDPART || n = nVDPGZERO || n = nVDPTAB || n = nVDPUPD then some 2
  else if n = nLMSEL || n = nLMDAT then some (if write then 3 else 2)
  else if n = nVMSEL || n = nVMDAT then some 3
  else some 1

/-- The exception of an access that a mode may not make: virtual-instruction from VS-mode or VU-mode where HS-mode could make it,
else illegal-instruction (R12). -/
def csrCause (md : Mode) (least : Option Nat) : Nat :=
  match least with
  | none => cILLEGAL
  | some l => if (md == .vs || md == .vu) && decide (l ≤ 2) then cVIRTUAL else cILLEGAL

/-- An access of a hart to a CSR: its exception, or the action with the hart past its word. A hart that waits makes none. -/
def State.csrGate (s : State) (h n : Nat) (write : Bool) (f : Hart → State → State) : State :=
  let x := s.hart h
  if x.wait.isSome || s.hartOut h then s
  else
    match csrLeast n write with
    | none => s.hartTrap h (csrCause x.mode none) 0 0
    | some l => if x.mode.level < l then s.hartTrap h (csrCause x.mode (some l)) 0 0 else (f x s).modHart h Hart.advance

/-- A write of a hart that acts on a partition. Where its descriptor is not in force, of which R136 and R146 do not speak, it does nothing
(DESIGN CHOICE; notes/assumptions 49). -/
def State.csrPart (s : State) (h n : Nat) (f : Hart → Nat → State → State) : State :=
  s.csrGate h n true (fun x s => if (s.part x.actPart).active then f x x.actPart s else s)

/-! ### vdresume (R348) -/

/-- A withheld join-block change made again (R131, R346). -/
def State.rejoin (s : State) (p : Nat) (addr : Dword) : State :=
  match (s.part p).joins.find? (fun j => j.addr == addr) with
  | none => s
  | some j =>
    let s := s.modPart p fun P => { P with joins := P.joins.erase j }
    match j.retire with
    | some (st, ix) => s.retireJoin p j.xl addr.toNat st ix
    | none => s

/-- A withheld result of an rg.cfg written again (R144, R348). -/
def State.reresult (s : State) (p rn : Nat) (addr : Dword) : State :=
  match (s.part p).results.find? (fun c => c.addr == addr) with
  | none => s
  | some c => (s.modPart p fun P => { P with results := P.results.erase c }).putResult rn c

/-- The withheld access of a FID no longer withheld: its party translates it afresh at its next step; a join-block change and the
result of an rg.cfg are made again at once. Nothing is resumed whose record still waits to be written (R346, R407). -/
def State.resumeFid (s : State) (p fid : Nat) : State :=
  match (s.part p).held.find? (fun h => h.fid == fid) with
  | none => s
  | some h =>
    if (s.part p).fqWait.any (fun r => r.fid == fid) then s
    else
    let s := s.modPart p fun P => { P with held := P.held.filter (fun x => x.fid != fid) }
    match h.who with
    | .join addr => s.rejoin p addr
    | .result addr => s.reresult p h.rn addr
    | _ => s

/-- VDRESUME. -/
def execVdresume (h : Nat) (v : Dword) (s : State) : Host.Outcome State Fault Refusal :=
  .next (s.csrPart h nVDRESUME (fun _ p s => s.resumeFid p (bits v 31 0)))

/-! ### vdfqhead, vdtrace, vddebug (R407, R445, R448) -/

/-- FAULT_QUEUE_HEAD_WRITE: the records up to HEAD are consumed, the fault interrupt no longer pending (notes/assumptions 34). -/
def execFaultQueueHeadWrite (h : Nat) (v : Dword) (s : State) : Host.Outcome State Fault Refusal :=
  .next (s.csrPart h nVDFQHEAD (fun _ p s => s.modPart p fun P => { P with fqHead := bits v 15 0, irq := false }))

/-- A write of vdtrace (R445): with another SLOG the samples of the partition's regions start afresh at the multiple of 2^SLOG cycles last past
(R446; notes/assumptions 25). -/
def State.traceCtl (s : State) (p : Nat) (v : Dword) : State :=
  let n := bits v 28 24
  let s' := s.modPart p fun P => { P with trHead := bits v 15 0, trEn := w (bits v 23 16), trSlog := n }
  if (s.part p).trSlog = n then s'
  else { s' with regions := s.regions.map (fun (x : Nat × Region) =>
    if x.2.part = p then (x.1, { x.2 with sampleAt := x.2.cycles - x.2.cycles % 2 ^ n }) else x) }

/-- A write of vddebug: nothing with a stale handle. -/
def State.debugSet (s : State) (p : Nat) (v : Dword) (arm : Bool) : State :=
  match s.rgOf p (bits v 31 0) with
  | some (rn, _) => s.modRegion rn fun g => { g with debug := arm }
  | none => s

/-- DEBUG_ARM. -/
def execDebugArm (h : Nat) (v : Dword) (s : State) : Host.Outcome State Fault Refusal :=
  .next (s.csrPart h nVDDEBUG (fun _ p s => s.debugSet p v true))

/-- DEBUG_CANCEL. -/
def execDebugCancel (h : Nat) (v : Dword) (s : State) : Host.Outcome State Fault Refusal :=
  .next (s.csrPart h nVDDEBUG (fun _ p s => s.debugSet p v false))

/-! ### vdpgzero (R440) -/

/-- A granule zeroed, where the value names a target and its reserved bits are zero. -/
def State.pgZero (s : State) (v : Dword) : State :=
  if bits v 63 52 ≠ 0 || bits v 15 0 ≠ 0 || !paTarget v.toNat then s
  else { s with mem := s.mem.zero v.toNat (v.toNat + 65536) }

/-- PAGE_ZERO. -/
def execPageZero (h : Nat) (v : Dword) (s : State) : Host.Outcome State Fault Refusal :=
  .next (s.csrGate h nVDPGZERO true (fun _ s => s.pgZero v))

/-! ### Voltage margining (R469) -/

/-- A rail. -/
def State.rail (s : State) (k : Nat) : Rail := s.rails.get k Rail.reset

/-- The nominal voltage of a rail in units of 5 mV. -/
def railMv (k : Nat) : Nat := if k < 16 then 70 else 150

/-- A write of OFFSET: ignored outside -10 to +10 and for a rail that is none; SETTLED is 0 until it is reached. -/
def State.railWrite (s : State) (k : Nat) (v : Dword) : State :=
  let o := snat 8 (bits v 7 0)
  if numRails ≤ k || o < -10 || 10 < o then s
  else { s with rails := s.rails.put k { offset := o, settled := false } }

/-- VOLTAGE_OFFSET_WRITE. -/
def execVoltageOffsetWrite (h : Nat) (v : Dword) (s : State) : Host.Outcome State Fault Refusal :=
  .next (s.csrGate h nVMDAT true (fun x s => s.railWrite x.vmsel v))

/-- VOLTAGE_SETTLED. -/
def execVoltageSettled (rail : Nat) (s : State) : Host.Outcome State Fault Refusal :=
  .next (if numRails ≤ rail then s else { s with rails := s.rails.put rail { s.rail rail with settled := true } })

/-- What vmdat reads as: zero for a rail that is none. -/
def State.vmdat (s : State) (k : Nat) : Dword :=
  if numRails ≤ k then 0
  else w (b2n (s.rail k).settled * 2 ^ 16 + railMv k * 2 ^ 8 + ((s.rail k).offset % 256).toNat)

/-! ### Link eye margining (R470) -/

/-- The key of a selection; none where it is out of range. -/
def marginKey (sel : Dword) : Option Nat :=
  let lane := bits sel 15 9
  let inst := bits sel 8 2
  match bits sel 1 0 with
  | 0 => if inst < 32 && lane < 8 then some (sel.toNat % 65536) else none
  | 1 => if inst < 16 && lane < 128 then some (sel.toNat % 65536) else none
  | 2 => if inst < 64 && lane < 32 then some (sel.toNat % 65536) else none
  | _ => none

def State.margin (s : State) (k : Nat) : Margin := s.margins.get k Margin.reset

/-- A write of lmdat: DIR and STEP set; GO starts a run unless one is in progress or DIR and STEP name no place. -/
def State.marginWrite (s : State) (sel v : Dword) : State :=
  match marginKey sel with
  | none => s
  | some k =>
    let m := { s.margin k with dir := bits v 26 24, step := bits v 23 16 }
    { s with margins := s.margins.put k { m with busy := m.busy || (bit v 0 && decide (m.dir < 4) && decide (m.step < 32)) } }

/-- LINK_MARGIN_RUN. -/
def execLinkMarginRun (h : Nat) (v : Dword) (s : State) : Host.Outcome State Fault Refusal :=
  .next (s.csrGate h nLMDAT true (fun x s => s.marginWrite x.lmsel v))

/-- LINK_MARGIN_DONE: the run of a selection ends with its bit errors, saturating. -/
def execLinkMarginDone (phy inst lane errs : Nat) (s : State) : Host.Outcome State Fault Refusal :=
  .next (match marginKey (w (lane * 512 + inst % 128 * 4 + phy)) with
    | none => s
    | some k =>
      if (s.margin k).busy then
        { s with margins := s.margins.put k { s.margin k with busy := false, errs := min errs 0xFFFFFFFF } }
      else s)

/-- What lmdat reads as: zero for a selection out of range. -/
def State.lmdat (s : State) (sel : Dword) : Dword :=
  match marginKey sel with
  | none => 0
  | some k =>
    let m := s.margin k
    w (m.errs * 2 ^ 32 + b2n m.busy * 2 ^ 31 + m.dir * 2 ^ 24 + m.step * 2 ^ 16)

/-! ### Reads -/

/-- The value a device CSR reads as; write-only registers read zero. -/
def State.csrValue (s : State) (x : Hart) (n : Nat) : Dword :=
  let P := s.part x.actPart
  if n = nVDPART then w x.vdpart
  else if n = nVDFQHEAD then w P.fqHead
  else if n = nVDTRACE then w (P.trSlog * 2 ^ 24 + P.trEn.toNat * 2 ^ 16 + P.trHead)
  else if n = nVDDMSEL then w x.ddsel
  else if n = nVDDMDAT then s.vddmdat x.ddsel
  else if n = nVDQCTL then x.vdqctl
  else if n = nLMSEL then x.lmsel
  else if n = nLMDAT then s.lmdat x.lmsel
  else if n = nVDPTAB then w s.vdtab
  else if n = nVDPUPD then w (b2n s.updBad * 2 ^ 63 + s.updOffset % 1024 * 2 ^ 16 + s.updPart)
  else if n = nVMSEL then w x.vmsel
  else if n = nVMDAT then s.vmdat x.vmsel
  else if n = nVDID then s.vdid
  else if n = nVDCHIP then s.fuses.chipId
  else 0

/-- CSR_READ: the value, or the exception of an access below the least privilege, with no data (R12). -/
def execCsrRead (h : Nat) (rd : Reg) (num : BitVec 12) (s : State) : Host.Outcome State Fault Refusal :=
  .next (s.csrGate h num.toNat false (fun x s => s.modHart h fun y => y.set rd (s.csrValue x num.toNat)))

/-! ### Writes of registers with no behaviour of their own -/

/-- A register of a hart written: vdpart, vddmsel, lmsel, vmsel, reserved bits ignored (R8). A write of vddmdat, all of whose bits are RO, is
ignored, and raises no exception at GK and above (R7 against R12: DESIGN CHOICE; notes/assumptions 44). -/
def Hart.csrSet (x : Hart) (n : Nat) (v : Dword) : Hart :=
  if n = nVDPART then { x with vdpart := bits v 3 0 }
  else if n = nVDDMSEL then { x with ddsel := bits v 15 0 }
  else if n = nLMSEL then { x with lmsel := w (bits v 15 0) }
  else if n = nVMSEL then { x with vmsel := bits v 5 0 }
  else x

end Sys2Proof.Machine
end

