-- ==== Sys2Proof/Machine/HostLink.lean ====
section
/-! DEFINITION. The host interface: submissions, the VF control page, completion records (R115-R118, R123-R125, R463), the
expansion of launches (R122), and the records that regions take (R129, R422, R438). -/

namespace Sys2Proof.Machine

open Sys2Proof.Config

/-! ### VFs (R115) -/

/-- The partition a VF acts for: none where it is assigned to none, or to one that is not in force (R136). -/
def State.vfPart (s : State) (v : Nat) : Option Nat :=
  match (s.vf v).part with
  | some p => if (s.part p).active then some p else none
  | none => none

/-- A write refused: a Deferrable Memory Write completes with Unsupported Request, a posted one is dropped and counted (R117). -/
def State.refuseWrite (s : State) (v : Nat) (dmw : Bool) : State :=
  s.modVf v fun x => if dmw then { x with cpl := .ur } else { x with cpl := .none, errs := x.errs + 1 }

/-- A Deferrable Memory Write answered. -/
def State.answer (s : State) (v : Nat) (c : Cpl) : State := s.modVf v fun x => { x with cpl := c }

/-- SUBMISSION_PAGE_BIND: QMASK set, LASTSEQ 0 (R115). -/
def execSubmissionPageBind (vf page : Nat) (qmask : Dword) (s : State) : Host.Outcome State Fault Refusal :=
  .next (if (s.vfPart vf).isSome then s.modVf vf fun x => { x with pages := x.pages.put page { qmask := qmask, lastseq := 0 } } else s)

/-! ### The completion ring (R123, R124) -/

/-- Ring entries not in use: none while the ring is not enabled. -/
def Vf.ringFree (v : Vf) : Nat :=
  if v.en then 2 ^ v.log2n - 1 - (v.crtail + 2 ^ v.log2n - v.crhead % 2 ^ v.log2n) % 2 ^ v.log2n else 0

/-- The completion records of a VF that wait on the device. -/
def State.waitingCpl (s : State) (v : Nat) : Nat :=
  (s.parts.map (fun x => (x.2.launches.filter (fun l => l.status.isSome && (match l.act with | .host n .. => n == v | _ => false))).length)).sum

/-- A write of EN and LOG2N (R123): EN stays 0 with LOG2N outside 6 to 16; enabling resets CRTAIL and PHASE. -/
def Vf.ringWrite (x : Vf) (v : Dword) : Vf :=
  let n := bits v 4 0
  if !bit v 8 then { x with en := false, log2n := n }
  else if n < 6 || 16 < n then { x with en := false, log2n := n }
  else { x with en := true, log2n := n, crtail := 0, phase := true }

/-- A write to a register of the control page takes place where the VF is assigned (R115). -/
def State.vfWrite (s : State) (v : Nat) (f : Vf → Vf) : State := if (s.vfPart v).isSome then s.modVf v f else s.refuseWrite v false

/-- RING_ENABLE_WRITE (R123). -/
def execRingEnableWrite (vf : Nat) (v : Dword) (s : State) : Host.Outcome State Fault Refusal :=
  .next (s.vfWrite vf (fun x => x.ringWrite v))

/-- CRHEAD_WRITE (R124). -/
def execCrheadWrite (vf : Nat) (v : Dword) (s : State) : Host.Outcome State Fault Refusal :=
  .next (s.vfWrite vf (fun x => { x with crhead := bits v 15 0 }))

/-- FUNCTION_LEVEL_RESET: the control page and the MSI-X structures are cleared and the submission pages unbound; accepted work
runs on (R463). -/
def execFunctionLevelReset (vf : Nat) (s : State) : Host.Outcome State Fault Refusal :=
  .next (s.modVf vf fun x => { Vf.reset with part := x.part, msgs := x.msgs })

/-- The bytes of a completion record (R124). -/
def cplBytes (ctag : Word) (status q : Nat) (phase : Bool) (seq : Dword) (page : Nat) : List Byte :=
  leBytes ctag.toNat 4 ++ leBytes status 2 ++ leBytes q 1 ++ leBytes (b2n phase) 1 ++ leBytes seq.toNat 6 ++ leBytes page 1 ++ leBytes 0 1

/-- An MSI-X message: sent, or pending where its table entry is masked (R115). -/
def Vf.message (x : Vf) (n : Nat) : Vf :=
  if (x.msixTable.get (16 * n + 12)).getLsbD 0 then
    { x with msixPba := x.msixPba.put (n / 8) (x.msixPba.get (n / 8) ||| w (2 ^ (n % 8))) }
  else { x with msgs := x.msgs ++ [n] }

/-- Whether a launch came from the host. -/
def Launch.fromHost (l : Launch) : Bool := match l.act with | .host .. => true | _ => false

/-- COMPLETION_POST: the oldest accepted host launch of a queue, completed, is posted to its VF's ring (R124). -/
def execCompletionPost (vf q : Nat) (s : State) : Host.Outcome State Fault Refusal :=
  .next (match s.vfPart vf with
    | none => s
    | some p =>
      match (s.part p).launches.find? (fun l => l.q == q && l.fromHost) with
      | none => s
      | some l =>
        match l.act, l.status with
        | .host v page seq ctag noirq, some st =>
          let x := s.vf v
          if v ≠ vf || x.ringFree = 0 then s
          else
            let rec_ := cplBytes ctag st q x.phase seq page
            let tail := (x.crtail + 1) % 2 ^ x.log2n
            let s := { s with mem := s.mem.write (hostPa (x.crbase.toNat + 16 * x.crtail)) rec_ }
            let s := s.modVf v fun x =>
              let x := { x with crtail := tail, phase := if tail = 0 then !x.phase else x.phase }
              if noirq then x else x.message (x.qvec.get q 0)
            s.modPart p fun P => { P with launches := P.launches.filter (fun m => !(m.q == l.q && m.accNo == l.accNo)) }
        | _, _ => s)

/-! ### Submissions (R116-R118) -/

/-- The full launch record of a short form, and whether it keeps the limits of R116. -/
def shortRecord (b : List Byte) : List Byte × Bool :=
  let f (o n : Nat) : List Byte := (b.drop o).take n
  (f 32 16 ++ f 48 8 ++ List.replicate 24 0 ++ f 56 16 ++ List.replicate 64 0 ++ f 72 56 ++ List.replicate 72 0,
   decide (fieldAt b 35 1 ≤ 2) && decide (fieldAt b 38 1 ≤ 56))

/-- Check 2 of R117, but for the queue and the sequence number: zero fields and PRIO. -/
def subFieldsOk (b : List Byte) : Bool :=
  decide (fieldAt b 9 1 ≤ 3) && fieldAt b 10 2 / 4 == 0 && zeroAt b 16 32 &&
  (fieldAt b 10 1 % 2 == 1 || (fieldAt b 32 8 % 64 == 0 && decide (fieldAt b 32 8 < 2 ^ 57) && zeroAt b 40 128))

/-- Whether the journal, the queue, the quota, the frame area and the ring take one more launch (check 6). -/
def State.subRoom (s : State) (p v q prio : Nat) : Bool :=
  let P := s.part p
  decide (s.journal.length < s.journalCap) && P.room q prio 1 2 && decide (P.frames.length + 2 ≤ P.frameUnits) && decide (s.waitingCpl v < (s.vf v).ringFree)

/-- A submission accepted (R118): journalled, its queue's acceptance number raised, LASTSEQ set. -/
def State.accept (s : State) (p v page q : Nat) (b record : List Byte) (short : Bool) : State :=
  let seq : Dword := w (fieldAt b 0 8)
  let no := match (s.part p).queues.find q with | some Q => Q.accNo + 1 | none => 0
  let l : Launch := { q := q, accNo := no, prio := fieldAt b 9 1, short := short, record := record
                      act := .host v page seq (w (fieldAt b 12 4)) ((fieldAt b 10 1).testBit 1), expanded := false, join := 0
                      units := [], status := none }
  let s := s.modPart p fun P => { P with
    launches := P.launches ++ [l]
    queues := match P.queues.find q with | some Q => P.queues.put q { Q with accNo := no } | none => P.queues }
  let s := { s with journal := s.journal ++ [JEntry.accept p q no (b.take 32) record] }
  (s.modVf v fun x => { x with pages := x.pages.put page { qmask := (x.pages.get page { qmask := 0, lastseq := 0 }).qmask, lastseq := seq } }).answer v .sc

/-- HOST_SUBMISSION: the checks of R117 in their order. The pointer of a short form is translated by the root of the queue that the submission
names, since no register gives that of the process (DESIGN CHOICE; notes/assumptions 49). -/
def execHostSubmission (vf page : Nat) (h : HostWrite) (s : State) : Host.Outcome State Fault Refusal :=
  .next (match s.vfPart vf, (s.vf vf).pages.find page with
    | some p, some sp =>
      let b := h.bytes
      let q := fieldAt b 8 1
      let seq := fieldAt b 0 8
      if !h.dmw || b.length ≠ 128 || h.off % 128 ≠ 0 then s.refuseWrite vf h.dmw
      else if !subFieldsOk b || 64 ≤ q || !sp.qmask.getLsbD q || ((s.part p).queues.find q).isNone || sp.lastseq.toNat + 1 < seq then
        s.answer vf .ur
      else if seq ≤ sp.lastseq.toNat then s.answer vf .sc
      else if fieldAt b 10 1 % 2 = 1 then
        if s.subRoom p vf q (fieldAt b 9 1) then
          (let r := shortRecord b; s.accept p vf page q b r.1 (!r.2))
        else s.answer vf .rrs
      else
        match vread s.mem (s.queueXlate p q) (fieldAt b 32 8) 256 with
        | .error (o, f) =>
          (s.post p true (f.stage == 2) (FaultRec.ofX 4 f false (fieldAt b 32 8 + o))).answer vf (if f.kind == .page then .rrs else .ur)
        | .ok record => if s.subRoom p vf q (fieldAt b 9 1) then s.accept p vf page q b record false else s.answer vf .rrs
    | _, _ => s.refuseWrite vf h.dmw)

/-! ### Expansion (R122, R140) -/

/-- LAUNCH_EXPANSION: the oldest accepted launch of a queue that is not expanded: completed with the status of a failed check, or
expanded; it waits for units and for places in its ring (R122, R140). -/
def execLaunchExpansion (p q : Nat) (s : State) : Host.Outcome State Fault Refusal := .next (s.expandNext p q)

/-- RESERVE_PUSH_RETRY: the reserve pushes that wait on the device go into their levels where room has come (R128). -/
def execReservePushRetry (p q : Nat) (s : State) : Host.Outcome State Fault Refusal :=
  .next (s.modPart p fun P =>
    match P.queues.find q with
    | some Q => { P with queues := P.queues.put q (Q.rsv.foldl Queue.addReserve { Q with rsv := [] }) }
    | none => P)

/-! ### Pops (R129, R422, R438) -/

/-- A tile before the next period of a warm region (R438). -/
def Tile.warm (t : Tile) : Tile :=
  { t with st := 0, preds := 0, treg := 0, ernd := 0, passc := 0, iskip := 0, forked := 0, doneCls := 0, merged := false }

/-- The ports of a region before its next period: round numbers 0. -/
def Port.warm (p : Port) : Port := { p with round := 0, snuff := false, snuffOut := false, barrIn := false, barrOut := false }

/-- The start of a PERIOD record on a region (R122, R438, R441). -/
def State.startPeriod (s : State) (rn : Nat) (r : Region) (c : Cont) (no : Nat) : State :=
  let s := s.modListed r Tile.warm
  let s : State := { s with ports := s.ports.map (fun (x : Nat × Port) => if x.1 / 2048 == rn then (x.1, x.2.warm) else x) }
  let x := s.queueXlate r.part (hSlot (r.attach.getD (0, 0)).1.toNat - 1)
  s.modRegion rn fun g => { g with
    state := .running, run := some c, period := no, origq := (r.attach.getD (0, 0)).1, code := s.codeOf r.part c
    seq := { (((Seq.zero.set 1 c.frame).set 2 c.join)) with pc := c.entry, first := true }
    sects := [], cycles := 0, phase := 0, phaseStart := 0, cfgFrom := none, cfgLoad := 0, prof := [0, 0, 0, 0], firings := 0
    beatsOut := 0, sampleAt := 0, pushIdx := 0, inPlace := s.graphInPlace r.part c.graph, shadows := []
    warm := s.warmOf x c.frame.toNat, why := 0, saved := false }

/-- The image of a RESUME record: of the journal for a replayed period, else of memory at its CODE. -/
def State.resumeImage (s : State) (x : Xlate) (q : QRec) : Except (Nat × XFault) (List Byte) :=
  match q.period.bind s.commitImage with
  | some b => .ok b
  | none => imgRead s.mem x q.cont.code.toNat

/-- The end of a period whose image does not load: FAULT to the join block its RECORD names, if the image is whole
(notes/assumptions 31). -/
def State.resumeFail (s : State) (rn : Nat) (r : Region) (no : Nat) (b : List Byte) (x : Xlate) : State :=
  let s := { s with journal := s.journal ++ [JEntry.retire no] }
  let s := if imgOk b then s.retireJoin r.part x (fieldAt b 48 8) stFAULT (fieldAt b 92 2) else s
  s.modRegion rn fun g => { g with state := .idle, run := none }

/-- A popped record starts on its region: a PERIOD record of a revoked graph completes REVOKED at once (R422), a RESUME record
brings its context back. -/
def State.startRecord (s : State) (rn : Nat) (r : Region) (q : QRec) (img : List Byte) : State :=
  let c := q.cont
  let no := q.period.getD (if c.kind = kRESUME then s.contextPeriod (s.keptWith img) else s.periodNo)
  let qh := (r.attach.getD (0, 0)).1
  let x := s.queueXlate r.part (hSlot qh.toNat - 1)
  let s := { s with periodNo := s.periodNo + 1
                    journal := s.journal ++ [JEntry.pop no r.part (hSlot qh.toNat - 1) c.prio rn c] }
  if c.kind = kRESUME then
    if !imgOk img then s.resumeFail rn r no img x
    else
      match s.restore rn img (s.keptWith img) no false with
      | .error _ => s.resumeFail rn r no img x
      | .ok t =>
        let t := t.modRegion rn fun g => { g with attach := r.attach, origq := qh }
        (t.resume rn).trace rn 1 c.plain.flags.toNat 0
  else if !(s.part r.part).current tblGraph c.graph then
    let s := { s with journal := s.journal ++ [JEntry.retire no] }
    s.retireJoin r.part x c.join.toNat stREVOKED c.iidx
  else ((s.startPeriod rn r c no).readChannels rn).trace rn 1 c.plain.flags.toNat 0

/-- REGION_POP: an IDLE region takes the next record of its shape class (R129). The pop of a RESUME record whose image cannot
be read waits for the fault to be served. -/
def execRegionPop (rn : Nat) (s : State) : Host.Outcome State Fault Refusal :=
  .next (match s.region? rn with
    | none => s
    | some r =>
      match r.attach with
      | none => s
      | some (qh, cls) =>
        let p := r.part
        let q := hSlot qh.toNat - 1
        if r.state != .idle || !(s.part p).current tblQueue qh.toNat || s.isHeld p (.image rn) then s
        else
          match (s.part p).queues.find q with
          | none => s
          | some Q =>
            match Q.pop (fun x => (x.cont.kind == kPERIOD || x.cont.kind == kRESUME) && x.cont.sclass == cls) (fun x => x.cont.kind == kRESUME) with
            | none => s
            | some (x, _, Q') =>
              let s1 := s.modPart p fun P => { P with queues := P.queues.put q Q' }
              if x.cont.kind = kRESUME then
                match s.resumeImage (s.queueXlate p q) x with
                | .error (o, f) =>
                  if f.kind == .page then s.withholdEngine p rn (.image rn) f false (x.cont.code.toNat + o) none
                  else s1.startRecord rn r x []
                | .ok img => s1.startRecord rn r x img
              else s1.startRecord rn r x [])

end Sys2Proof.Machine
end

