-- ==== Sys2Proof/Machine/Objects.lean ====
section
/-! DEFINITION. Graph objects: the check of an object against R29, R30 and R32 to R35 (R31), and the configuration stream the mapper
makes of a placement (R178-R184). -/

namespace Sys2Proof.Machine

open Sys2Proof.Config

/-! ### The parts of an object (R29, R30) -/

/-- A section: its entry's number, type, offset and length. -/
structure ObjSect where
  no : Nat
  type : Nat
  off : Nat
  len : Nat
  deriving DecidableEq, Repr

/-- The sections of an object. -/
def objSects (b : List Byte) : List ObjSect :=
  (List.range (min 404 (fieldAt b 8 2))).map fun i =>
    let e := 64 + 16 * i
    { no := i, type := fieldAt b e 2, off := fieldAt b (e + 4) 4, len := fieldAt b (e + 8) 4 }

/-- The bytes of a section, of the first section of a type, and of every section of a type. -/
def ObjSect.bytes (b : List Byte) (x : ObjSect) : List Byte := (b.drop x.off).take x.len
def objPart (b : List Byte) (type : Nat) : Option (List Byte) := ((objSects b).find? (fun x => x.type == type)).map (ObjSect.bytes b)
def objParts (b : List Byte) (type : Nat) : List (List Byte) := ((objSects b).filter (fun x => x.type == type)).map (ObjSect.bytes b)
def objCanon (b : List Byte) : List Byte := (objPart b 1).getD []

/-- The most sections of a type an object holds; 0 for a reserved type. -/
def sectMost (type : Nat) : Nat :=
  match type with
  | 1 => 1
  | 2 => 64
  | 3 => 16
  | 4 => 256
  | 5 => 1
  | 6 => 64
  | 7 => 1
  | 15 => 1
  | _ => 0

/-- The 32 bytes of SHA3-256 (R33). -/
def sha3Bytes (bs : List Byte) : List Byte := leBytes (sha3 bs).toNat 32

/-- The lowest offset whose check fails. -/
def firstBad (l : List (Nat × Bool)) : Option Nat :=
  l.foldl (fun a x => if x.2 then a else match a with | some o => some (min o x.1) | none => some x.1) none

/-- The bytes from lo up to hi, each zero. -/
def zeroChecks (b : List Byte) (lo hi : Nat) : List (Nat × Bool) :=
  (List.range (hi - lo)).map (fun i => (lo + i, fieldAt b (lo + i) 1 == 0))

/-! ### The header and the section table (R29, R30) -/

/-- Whether the flags say which optional sections there are. -/
def flagsAgree (b : List Byte) : Bool :=
  let f := fieldAt b 6 2
  let has (t : Nat) : Bool := (objSects b).any (fun x => x.type == t)
  f.testBit 0 == has 15 && f.testBit 1 == has 5 && f.testBit 2 == has 3 && f.testBit 3 == has 7

def headerChecks (b : List Byte) : List (Nat × Bool) :=
  let n := fieldAt b 8 2
  [(0, fieldAt b 0 4 == 0x4F474456), (4, fieldAt b 4 2 == 1), (6, decide (fieldAt b 6 2 < 16) && flagsAgree b),
   (8, decide (1 ≤ n) && decide (n ≤ 404) && (objSects b).any (fun x => x.type == 1)),
   (12, fieldAt b 12 4 % 8 == 0 && decide (64 + 16 * n ≤ fieldAt b 12 4)), (16, sha3Bytes (objCanon b) == (b.drop 16).take 32)] ++
  zeroChecks b 10 12 ++ zeroChecks b 48 64

/-- The limits of a section's LENGTH by its type: SEQ code fills at most the 16 KiB of the instruction cache with whole words (R44), DATA
begins with its 16-byte prefix, and LAUNCH holds a template of 256 bytes, what follows being its declarations (R30; notes/assumptions 49). -/
def sectLenOk (type n : Nat) : Bool :=
  match type with
  | 2 => n % 4 == 0 && decide (n ≤ 16384)
  | 4 => decide (16 ≤ n)
  | 6 => decide (256 ≤ n)
  | _ => true

/-- The checks of entry i of the section table. -/
def entryChecks (b : List Byte) (x : ObjSect) : List (Nat × Bool) :=
  let e := 64 + 16 * x.no
  let n := fieldAt b 8 2
  let before := (objSects b).take x.no
  [(e, decide ((before.filter (fun y => y.type == x.type)).length < sectMost x.type)),
   (e + 4, x.off % 8 == 0 && decide (64 + 16 * n ≤ x.off) &&
     before.all (fun y => decide (x.off + x.len ≤ y.off) || decide (y.off + y.len ≤ x.off)) && (x.type != 15 || x.no + 1 == n)),
   (e + 8, decide (x.off + x.len ≤ fieldAt b 12 4) && (x.type != 15 || x.off + x.len == fieldAt b 12 4) &&
     sectLenOk x.type x.len)] ++
  zeroChecks b (e + 2) (e + 4) ++ zeroChecks b (e + 12) (e + 16)

/-- The bytes between sections are zero. -/
def gapChecks (b : List Byte) : List (Nat × Bool) :=
  let xs := objSects b
  let start := 64 + 16 * fieldAt b 8 2
  ((List.range (fieldAt b 12 4 - start)).map (start + ·)).filterMap fun o =>
    if xs.any (fun x => decide (x.off ≤ o) && decide (o < x.off + x.len)) then none else some (o, fieldAt b o 1 == 0)

/-! ### CANON (R32, R33) -/

def cNnode (c : List Byte) : Nat := fieldAt c 0 4
def cNedge (c : List Byte) : Nat := fieldAt c 4 4
def cNtag (c : List Byte) : Nat := fieldAt c 8 2
def cWoff (c : List Byte) : Nat := fieldAt c 12 4
def cTags (c : List Byte) : Nat := 16 + 16 * cNnode c
def cEdges (c : List Byte) : Nat := cTags c + 8 * cNtag c

/-- The number of the first word of a node that breaks its form: the fields rise, no value is zero, and a HI, which is not zero, stands
just before the word it extends. So no field is written twice in CANON, not even a preload port, of which R39 and R56 take sixteen or eighteen
writes; and a control field is a field like another (DESIGN CHOICE; notes/assumptions 49). -/
def badWord : List Nat → Nat → Option Nat → Option Nat → Option Nat
  | [], _, _, none => none
  | [], i, _, some _ => some (i - 1)
  | x :: t, i, last, hi =>
    if nbits x 31 24 = 0xFF then
      if nbits x 23 16 = 4 && hi.isNone && nbits x 15 0 ≠ 0 then badWord t (i + 1) last (some (nbits x 15 0)) else some i
    else
      let f := nbits x 23 16
      if nbits x 31 24 ≠ 0 || inR f 0xC8 0xEF || (hi.getD 0 == 0 && nbits x 15 0 == 0) ||
        (match last with | some l => decide (f ≤ l) | none => false) then some i
      else badWord t (i + 1) (some f) none

/-- The kind of node i, and its words where they stand in the section. -/
def cKind (c : List Byte) (i : Nat) : Nat := fieldAt c (16 + 16 * i) 1
def cWords (c : List Byte) (i : Nat) : List Nat :=
  let e := 16 + 16 * i
  let n := fieldAt c (e + 2) 2
  let o := cWoff c + fieldAt c (e + 4) 4
  if o + 4 * n ≤ c.length then (List.range n).map (fun k => fieldAt c (o + 4 * k) 4) else []

/-- The fields that words write, each with its value. -/
def wordFields : List Nat → Nat → List (Nat × Word)
  | [], _ => []
  | x :: t, hi =>
    if nbits x 31 24 = 0xFF then wordFields t (nbits x 15 0)
    else (nbits x 23 16, w (hi * 65536 + nbits x 15 0)) :: wordFields t 0
def cFields (c : List Byte) (i : Nat) : List (Nat × Word) := wordFields (cWords c i) 0

/-- The checks of node i, at offsets in the section. -/
def nodeChecks (c : List Byte) (i : Nat) : List (Nat × Bool) :=
  let e := 16 + 16 * i
  let n := fieldAt c (e + 2) 2
  let o := cWoff c + fieldAt c (e + 4) 4
  let inside := o % 4 == cWoff c % 4 && decide (o + 4 * n ≤ c.length)
  let words := cWords c i
  [(e, decide (fieldAt c e 1 ≤ 3)), (e + 1, fieldAt c (e + 1) 1 == 0), (e + 4, inside)] ++ zeroChecks c (e + 8) (e + 16) ++
  (match badWord words 0 none none with | some k => [(o + 4 * k, !inside)] | none => [])

/-- The checks of tag layout i. -/
def tagChecks (c : List Byte) (i : Nat) : List (Nat × Bool) :=
  let e := cTags c + 8 * i
  let wd (k : Nat) : Nat := fieldAt c (e + k) 1
  let sum := wd 0 + wd 1 + wd 2 + wd 3
  (e, decide (1 ≤ sum) && decide (sum ≤ 32)) :: [1, 2, 3].map (fun k => (e + k, wd k == 0 || wd (k - 1) != 0)) ++ zeroChecks c (e + 4) (e + 8)

/-- The layouts of the enabled channels of the nodes, in order of first use: node by node, c0-c3 before o0-o3 (R33, R55;
notes/assumptions 46). The channel words of SW and EMP nodes, to which R33 gives no field numbers, stand at the fields of an MT's (DESIGN CHOICE;
notes/assumptions 49). -/
def cLayouts (c : List Byte) : List Nat :=
  ((List.range (cNnode c)).flatMap fun i =>
    let base := if cKind c i = 0 then 0xB0 else 0x64
    (cFields c i).filterMap fun x => if inR x.1 base (base + 7) && bit x.2 26 then some (bits x.2 23 0) else none).eraseDups

/-- The layout of record i, as a channel word holds it. -/
def cTag (c : List Byte) (i : Nat) : Nat :=
  let wd (k : Nat) : Nat := fieldAt c (cTags c + 8 * i + k) 1
  wd 0 + 64 * wd 1 + 4096 * wd 2 + 262144 * wd 3

/-- The records are the layouts that the nodes use, in order of first use. -/
def tagOrderChecks (c : List Byte) : List (Nat × Bool) :=
  let used := cLayouts c
  (8, decide (used.length ≤ cNtag c)) :: (List.range (cNtag c)).map (fun i => (cTags c + 8 * i, used[i]? == some (cTag c i)))

/-- The checks of edge i: it follows the edges before it, and no other edge ends at its input channel. -/
def edgeChecks (c : List Byte) (i : Nat) : List (Nat × Bool) :=
  let at_ (j k : Nat) : Nat := fieldAt c (cEdges c + 12 * j + 4 * k) 4
  let key (x : Nat) : Nat := x % 2 ^ 20 * 4 + nbits x 21 20
  let e := cEdges c + 12 * i
  [(e, decide (at_ i 0 < 2 ^ 22) && decide (at_ i 0 % 2 ^ 20 < cNnode c) && (i == 0 || decide (key (at_ (i - 1) 0) < key (at_ i 0)))),
   (e + 4, decide (at_ i 1 < 2 ^ 22) && decide (at_ i 1 % 2 ^ 20 < cNnode c) &&
     (List.range i).all (fun j => key (at_ j 1) != key (at_ i 1))), (e + 8, decide (at_ i 2 < 2 ^ 17))]

def canonChecks (c : List Byte) : List (Nat × Bool) :=
  let end_ := cEdges c + 12 * cNedge c
  if c.length < 16 || 409600 < cNnode c || c.length < end_ then [(0, false)]
  else
    [(12, cWoff c == end_)] ++ zeroChecks c 10 12 ++ (List.range (cNnode c)).flatMap (nodeChecks c) ++
    (List.range (cNtag c)).flatMap (tagChecks c) ++ tagOrderChecks c ++ (List.range (cNedge c)).flatMap (edgeChecks c)

/-! ### PLACE and SIG (R34, R35) -/

/-- Column and row of node i of a PLACE section. -/
def placePos (x : List Byte) (i : Nat) : Nat × Nat := (nbits (fieldAt x (16 + 4 * i) 4) 9 0, nbits (fieldAt x (16 + 4 * i) 4) 25 16)

/-- The writes of a switch stream: column and row of the tile, field and value; and the number of the first word that breaks the form of a
configuration stream of WIN, HI and switch fields, or names no tile of the shape (R34, R51). -/
def placeStream (wd ht : Nat) : List Nat → Nat → Option (Nat × Nat) → Option Nat → List ((Nat × Nat) × Nat × Word) × Option Nat
  | [], i, _, hi => ([], if hi.isSome then some (i - 1) else none)
  | x :: t, i, win, hi =>
    if nbits x 31 24 = 0xFF then
      if nbits x 23 16 = 4 then placeStream wd ht t (i + 1) win (some (nbits x 15 0))
      else if nbits x 23 16 = 3 && hi.isNone && nbits x 15 14 == 0 && nbits x 7 6 == 0 && decide (16 * nbits x 5 0 < wd) && decide (16 * nbits x 13 8 < ht) then
        placeStream wd ht t (i + 1) (some (nbits x 5 0, nbits x 13 8)) none
      else ([], some i)
    else
      match win with
      | none => ([], some i)
      | some (c, r) =>
        let p := (16 * c + nbits x 27 24, 16 * r + nbits x 31 28)
        if inR (nbits x 23 16) 0xC8 0xEF && decide (p.1 < wd) && decide (p.2 < ht) then
          (let y := placeStream wd ht t (i + 1) win none
           ((p, nbits x 23 16, w (hi.getD 0 * 65536 + nbits x 15 0)) :: y.1, y.2))
        else ([], some i)

def placeWords (x : List Byte) : List Nat :=
  let o := 16 + 4 * fieldAt x 4 4
  (List.range ((x.length - o) / 4)).map (fun k => fieldAt x (o + 4 * k) 4)

def placeChecks (c x : List Byte) : List (Nat × Bool) :=
  let wd := fieldAt x 0 2
  let ht := fieldAt x 2 2
  let n := cNnode c
  let o := 16 + 4 * n
  if x.length < o || fieldAt x 4 4 ≠ n then [(0, inR wd 2 640), (2, inR ht 2 640), (4, false)]
  else
    [(0, inR wd 2 640), (2, inR ht 2 640), (8, (x.drop 8).take 8 == (sha3Bytes c).take 8), (o, (x.length - o) % 4 == 0)] ++
    (List.range n).map (fun i =>
      let p := placePos x i
      let kind := fieldAt c (16 + 16 * i) 1
      (16 + 4 * i, fieldAt x (16 + 4 * i) 4 == p.1 + p.2 * 65536 && decide (p.1 < wd) && decide (p.2 < ht) &&
        (decide (2 ≤ kind) || (p.1 + p.2) % 2 == kind) && (List.range i).all (fun j => placePos x j != p))) ++
    (match (placeStream wd ht (placeWords x) 0 none none).2 with | some k => [(o + 4 * k, false)] | none => [])

/-- A PLACE section contradicts its object where the object has launch templates and none has its shape (R31, R119, R182). A LAUNCH section has
one template, at its start (DESIGN CHOICE; notes/assumptions 49). -/
def placeShapeOk (b x : List Byte) : Bool :=
  let ts := objParts b 6
  ts.isEmpty || ts.any (fun t => fieldAt t 52 2 == fieldAt x 0 2 && fieldAt t 54 2 == fieldAt x 2 2)

def sigChecks (x : List Byte) : List (Nat × Bool) :=
  let n := fieldAt x 104 4
  if x.length < 108 + n then [(104, false)] else zeroChecks x (108 + n) x.length

/-! ### The whole check (R31) -/

/-- Checks of a section, at offsets in the object. -/
def shifted (off : Nat) (l : List (Nat × Bool)) : List (Nat × Bool) := l.map (fun x => (off + x.1, x.2))

/-- The checks inside the sections that R32 to R35 describe. -/
def sectChecks (b : List Byte) : List (Nat × Bool) :=
  (objSects b).flatMap fun x =>
    let bs := x.bytes b
    match x.type with
    | 1 => shifted x.off (canonChecks bs)
    | 5 => shifted x.off ((0, placeShapeOk b bs) :: placeChecks (objCanon b) bs)
    | 15 => shifted x.off (sigChecks bs)
    | _ => []

/-- The byte offset of the first nonconforming field of an object; none for one that conforms. Where the header or the section
table is at fault, what they name is not looked at. -/
def objCheck (b : List Byte) : Option Nat :=
  if b.length < 64 then some 0
  else
    match firstBad (headerChecks b) with
    | some o => some o
    | none =>
      match firstBad ((objSects b).flatMap (entryChecks b)) with
      | some o => some o
      | none => firstBad (gapChecks b ++ sectChecks b)

/-! ### The stream of a placement (R179) -/

/-- The target of a placement (R180). -/
def targetBytes (wd ht x y : Nat) : List Byte := leBytes wd 2 ++ leBytes ht 2 ++ leBytes x 2 ++ leBytes y 2

/-- The placement cache key (R180). -/
def State.placeKey (s : State) (canon : List Byte) (wd ht x y : Nat) : List Byte :=
  sha3Bytes (canon ++ targetBytes wd ht x y ++ leBytes s.dmver.toNat 8)

/-- An element write in a stream, with its HI where the upper half is not zero. -/
def fieldWords (idx f : Nat) (v : Word) : List Word :=
  (if bits v 31 16 = 0 then [] else [encC 4 (w (bits v 31 16))]) ++ encode (.cfgElementWrite (w idx) (w f) (w (bits v 15 0)))

/-- The bytes of stream words. -/
def wordBytes (ws : List Word) : List Byte := ws.flatMap (fun x => leBytes x.toNat 4)

/-- The words of one element: its fields in ascending number, the switch fields last, then VERSION and ENABLE for a good element that
receives any, and its CRC; switch words alone for a fused-off one (R179, R193, R215). Of the words CANON gives the control fields 0xF0 to 0xFF
the stream takes none (DESIGN CHOICE; notes/assumptions 49). -/
def elementWords (idx : Nat) (fused : Bool) (version : BitVec 16) (fs : List (Nat × Word)) : List Word :=
  let pick (lo hi : Nat) : List Word := (List.range (hi + 1 - lo)).flatMap fun i =>
    match fs.find? (fun x => x.1 == lo + i) with
    | some (f, v) => if v = 0 then [] else fieldWords idx f v
    | none => []
  let sw := pick 0xC8 0xEF
  if fused then sw
  else
    let body := pick 0 0xC7
    let named := if body.isEmpty && sw.isEmpty then [] else fieldWords idx 0xF0 (version.setWidth 32) ++ fieldWords idx 0xF2 1
    let all := body ++ sw ++ named
    let crc := crc32c (wordBytes all)
    if all.isEmpty then []
    else all ++ encode (.cfgElementWrite (w idx) 0xF3 (w (bits crc 15 0))) ++ encode (.cfgElementWrite (w idx) 0xF4 (w (bits crc 31 16)))

/-- A placement's stream for a region at an origin: BEGIN, the windows in row-major order, END (R179, R183, R184). -/
def State.placeWordsOf (s : State) (wd ht ox oy : Nat) (version : BitVec 16) (pl : List (Nat × Nat × List (Nat × Word))) : List Word :=
  let cols := (wd + 15) / 16
  let windows := (List.range (cols * ((ht + 15) / 16))).foldl (fun (a : List Word × Nat) k =>
    let c := k % cols
    let r := k / cols
    (List.range 256).foldl (fun (a : List Word × Nat) idx =>
      let x := 16 * c + idx % 16
      let y := 16 * r + idx / 16
      let t := tileAt (ox + x) (oy + y)
      if x < wd && y < ht && !s.lostAt t then
        match pl.find? (fun e => e.1 == y * wd + x) with
        | some (_, sect, fs) =>
          let ws := elementWords idx (s.fusedAt t) version fs
          if ws.isEmpty then a else (a.1 ++ (if sect % 256 = a.2 then [] else [encC 5 (w (sect % 256))]) ++ ws, sect % 256)
        | none => a
      else a) (a.1 ++ [encC 3 (w (c + 256 * r)), encC 7 0], a.2)) ([], 0)
  [encC 1 version] ++ windows.1 ++ [encC 2 0]

/-- A placement found: the column and row of each node in the region, and by region-relative tile number the switch fields of each tile. -/
abbrev Placed := List (Nat × Nat) × List (Nat × List (Nat × Word))

/-- The placement of the PLACE section that a mapper may use for a target: its shape is the target's, and every position and route of it lies
on good elements outside lost windows (R182). For which origin the absolute values of its XATT, EATT and PSECT words are written the spec does
not say: they are taken as they stand, at every origin (DESIGN CHOICE; notes/assumptions 7). -/
def State.usablePlace (s : State) (b : List Byte) (wd ht ox oy : Nat) : Option Placed :=
  match objPart b 5 with
  | none => none
  | some x =>
    let good (p : Nat × Nat) : Bool := !s.fusedAt (tileAt (ox + p.1) (oy + p.2))
    let through (p : Nat × Nat) : Bool := !s.lostAt (tileAt (ox + p.1) (oy + p.2))
    let ws := (placeStream wd ht (placeWords x) 0 none none).1
    if fieldAt x 0 2 = wd && fieldAt x 2 2 = ht && (List.range (fieldAt x 4 4)).all (fun i => good (placePos x i)) &&
      ws.all (fun y => through y.1)
    then
      let tiles := (ws.map (fun y => y.1.2 * wd + y.1.1)).eraseDups
      some ((List.range (fieldAt x 4 4)).map (placePos x),
        tiles.map (fun t => (t, (ws.filter (fun y => y.1.2 * wd + y.1.1 == t)).map (fun y => (y.2.1, y.2.2)))))
    else none

/-! ### What a placement has to keep (R34, R43, R178, R184) -/

/-- Whether the good elements of a rectangle are enough for the nodes of each type (NOFIT of R178). -/
def State.placeFits (s : State) (c : List Byte) (wd ht ox oy : Nat) : Bool :=
  [0, 1].all fun kind =>
    let nodes := ((List.range (cNnode c)).filter (fun i => cKind c i == kind)).length
    let good := ((List.range (wd * ht)).filter (fun k => (k % wd + k / wd) % 2 == kind && !s.fusedAt (tileAt (ox + k % wd) (oy + k / wd)))).length
    decide (nodes ≤ good)

/-- Whether an express attachment of a tile keeps clear of lost windows all along its lane (R184). -/
def State.laneClear (s : State) (t j : Nat) (v : Word) : Bool :=
  let e := bits v 9 0
  let at_ := if j < 4 then tileX t else tileY t
  !bit v 11 || (List.range (max e at_ - min e at_ + 1)).all fun k =>
    !s.lostAt (if j < 4 then tileAt (min e at_ + k) (tileY t) else tileAt (tileX t) (min e at_ + k))

/-- Whether a placement stands as R184 asks: each node on its own good element of its type, the switch words on tiles of the rectangle
outside lost windows, no express lane across one. -/
def State.placedOk (s : State) (c : List Byte) (wd ht ox oy : Nat) (pl : Placed) : Bool :=
  pl.1.length == cNnode c && pl.1.eraseDups.length == pl.1.length &&
  (List.range (cNnode c)).all (fun i =>
    let p := nth pl.1 i (0, 0)
    decide (p.1 < wd) && decide (p.2 < ht) &&
    (decide (2 ≤ cKind c i) || ((p.1 + p.2) % 2 == cKind c i && !s.fusedAt (tileAt (ox + p.1) (oy + p.2))))) &&
  pl.2.all (fun x =>
    let t := tileAt (ox + x.1 % wd) (oy + x.1 / wd)
    decide (x.1 < wd * ht) && !s.lostAt t &&
    x.2.all (fun f => inR f.1 0xC8 0xEF && (!inR f.1 0xD4 0xDB || !bit f.2 11 || s.laneClear t (f.1 - 0xD4) f.2)))

/-- The tiles of a placement: the words of CANON at the positions of its CT and MT nodes, and the switch words (R32, R182). The words of SW and EMP
nodes give layouts alone (notes/assumptions 49). -/
def placedTiles (c : List Byte) (wd : Nat) (pl : Placed) : List (Nat × Nat × List (Nat × Word)) :=
  let at_ (i : Nat) : Nat := (let p := nth pl.1 i (0, 0); p.2 * wd + p.1)
  let nodes := (List.range (cNnode c)).filter (fun i => decide (cKind c i ≤ 1))
  let own := nodes.map (fun i => (at_ i, nodeSection c i,
    cFields c i ++ (match pl.2.find? (fun x => x.1 == at_ i) with | some x => x.2 | none => [])))
  own ++ (pl.2.filter (fun x => nodes.all (fun i => at_ i != x.1))).map (fun x => (x.1, 0, x.2))

/-- The module with the tiles of a placement alone: what its routes are read from. -/
def State.withPlaced (s : State) (wd ox oy : Nat) (tiles : List (Nat × Nat × List (Nat × Word))) : State :=
  { s with tiles := tiles.foldl (fun (l : Tbl Tile) x =>
      l.put (tileAt (ox + x.1 % wd) (oy + x.1 / wd)) { Tile.cleared with fields := x.2.2.foldl (fun (t : Tbl Word) f => t.put f.1 f.2) [] }) [] }

/-- The edges of CANON between elements: source node and output, destination node and input, the cycles it may take (0: no bound), and whether
express lanes are permitted (R33, R43). -/
def cRoutes (c : List Byte) : List ((Nat × Nat) × (Nat × Nat) × Nat × Bool) :=
  ((List.range (cNedge c)).map fun i =>
    let e := cEdges c + 12 * i
    let a := fieldAt c e 4
    let b := fieldAt c (e + 4) 4
    let l := fieldAt c (e + 8) 4
    ((a % 2 ^ 20, nbits a 21 20), (b % 2 ^ 20, nbits b 21 20), l % 65536, l.testBit 16)).filter
      (fun x => decide (cKind c x.1.1 ≤ 1) && decide (cKind c x.2.1.1 ≤ 1))

/-- Why the routes of a placement break what its edges ask: 4 where an edge is not joined, 5 where it takes longer than its MAXLAT, 3 where the
members of a section do not stand in the order of their nodes (R43, R178, R484). -/
def State.routesFault (s : State) (c : List Byte) (wd ht ox oy : Nat) (pl : Placed) : Option Nat :=
  let z := s.withPlaced wd ox oy (placedTiles c wd pl)
  let r := newRegion 0 0 0 { x := ox, y := oy, wd := wd, ht := ht }
  let at_ (i : Nat) : Nat := (let p := nth pl.1 i (0, 0); tileAt (ox + p.1) (oy + p.2))
  let mts := (List.range (cNnode c)).filter (fun i => cKind c i == 1 && bit ((z.tile (at_ i)).fld 0xE8) 31)
  if !mts.all (fun i => (mts.filter (fun j => bits ((z.tile (at_ j)).fld 0xE8) 19 0 == bits ((z.tile (at_ i)).fld 0xE8) 19 0)).map at_ ==
      z.members r ((z.tile (at_ i)).fld 0xE8)) then some 3
  else
    let times := (cRoutes c).map (fun x => (x.2.2.1, z.edgeCycles r (at_ x.1.1) x.1.2 (at_ x.2.1.1) x.2.1.2 x.2.2.2))
    if times.any (fun x => x.2.isNone) then some 4
    else if times.any (fun x => x.1 != 0 && decide (x.1 < x.2.getD 0)) then some 5
    else none

/-- A cached placement moved to an origin, its absolute fields rewritten (R187); none where one leaves the module (R188). -/
def Placement.movedTo (e : Placement) (ox oy : Nat) : Option Placed :=
  let field (f : Nat × Word) : Option (Nat × Word) := (rebased f.1 f.2 ((ox : Int) - e.ox) ((oy : Int) - e.oy)).map (fun v => (f.1, v))
  (e.switches.mapM (fun (x : Nat × List (Nat × Word)) => (x.2.mapM field).map (fun l => (x.1, l)))).map (fun l => (e.pos, l))

/-- The placement that the cache holds of the same CANON, shape and maps at another origin, moved to this one (R181, R187). -/
def State.movedPlace (s : State) (p : Nat) (canon : List Byte) (wd ht ox oy : Nat) : Option Placed :=
  ((s.part p).placed.find? (fun e => e.canon == canon && e.wd == wd && e.ht == ht && e.dmver == s.dmver)).bind (fun e => e.movedTo ox oy)

/-- The result of placing an object: a code, or whether the placement came from the cache, and it (R178-R182, R187). The placement of PLACE is
used where it stands in full, else one that the cache holds for another origin, else the mapper's own search, whose choice the spec leaves
open; what it finds and breaks R184 or its edges with is no placement (notes/assumptions 7). -/
def State.place (s : State) (p : Nat) (b : List Byte) (wd ht ox oy : Nat) (noCache usePlace : Bool) : Except Nat (Bool × Placement) :=
  let canon := objCanon b
  let key := s.placeKey canon wd ht ox oy
  match (if noCache then none else (s.part p).placed.find? (fun e => e.key == key)) with
  | some e => .ok (true, e)
  | none =>
    let v : BitVec 16 := w (fieldAt key 0 2)
    let limited := (List.range (cNedge canon)).any (fun i => fieldAt canon (cEdges canon + 12 * i + 8) 2 != 0)
    let stands (pl : Placed) : Bool := s.placedOk canon wd ht ox oy pl && (s.routesFault canon wd ht ox oy pl).isNone
    let own : Option Placed := if usePlace then (s.usablePlace b wd ht ox oy).filter stands else none
    let moved : Option Placed := if noCache then none else (s.movedPlace p canon wd ht ox oy).filter stands
    let found : Except Nat Placed := match own <|> moved with
      | some pl => .ok pl
      | none => placement canon (targetBytes wd ht ox oy) s.dmver
    if !s.placeFits canon wd ht ox oy then .error 3
    else
      match found with
      | .error n => .error (if limited && n % 2 = 1 then 5 else 4)
      | .ok pl =>
        if !s.placedOk canon wd ht ox oy pl then .error 4
        else
          match s.routesFault canon wd ht ox oy pl with
          | some c => .error c
          | none => .ok (own.isNone && moved.isSome,
              { key := key, canon := canon, wd := wd, ht := ht, ox := ox, oy := oy, dmver := s.dmver, pos := pl.1, switches := pl.2
                words := s.placeWordsOf wd ht ox oy (if v = 0 then 1 else v) (placedTiles canon wd pl) })

/-- The cache of a partition with a placement. -/
def State.cachePlace (s : State) (p : Nat) (e : Placement) : State :=
  s.modPart p fun P => { P with placed := P.placed.filter (fun x => x.key != e.key) ++ [e] }

end Sys2Proof.Machine
end

