-- ==== Sys2Proof/Machine/XlanQueue.lean ====
section
/-! DEFINITION. Launches, queues, sync objects, fences and translation upkeep of a Lantern hart (R142-R151, R164-R170), with
the steps that end their waits. -/

namespace Sys2Proof.Machine

/-! ### Illegal words (R79) -/

/-- An Xlan encoding that is not listed, or a field that is not used and not zero: the illegal-instruction exception (R79). -/
def execXlanIllegalInstruction (x : Word) (s : State) : Host.Outcome State Fault Refusal :=
  .next (if s.me.wait.isSome then s else s.hartTrap s.curHart cILLEGAL (x.setWidth 64) 0)

/-! ### Launches and queues (R148-R151) -/

/-- The result of a push or an arming whose join block may fault: the exception of the access, nothing performed (R144). -/
def State.xJoined (s : State) (rd : Reg) (va : Nat) (o : Except XFault (Dword × State)) : State :=
  match o with
  | .ok (v, s) => s.xResult rd v
  | .error f => s.hartFault s.curHart f true false va

/-- lan.dispatch (R148): the launch of the record at rs1 with the dispatch block at rs2; its retirement carries IIDX 0xFFFF. -/
def execLanDispatch (rd rs1 rs2 : Reg) (s : State) : Host.Outcome State Fault Refusal :=
  .next (s.xPart rd 0 (some rs1) (fun h p s =>
    if (h.get rs1).toNat % 64 ≠ 0 || (h.get rs2).toNat % 16 ≠ 0 then s.xErr rd eBADARG
    else
      s.xBlock rd h (h.get rs2) 16 16 (fun blk s =>
        s.xBlock rd h (h.get rs1) 256 64 (fun b s =>
          s.xJoined rd (fieldAt blk 8 8) (s.dispatch p h.xlate b blk noInst)))))

/-- lan.join (R149). -/
def execLanJoin (rd rs1 : Reg) (s : State) : Host.Outcome State Fault Refusal :=
  .next (s.xPart rd 0 (some rs1) (fun h p s =>
    s.xBlock rd h (h.get rs1) 64 64 (fun blk s => s.xJoined rd (fieldAt blk 0 8) (s.armJoin p h.xlate blk))))

/-- hq.push (R150). Of a register that holds a 32-bit handle the instructions of Xlan read bits 31:0 alone (DESIGN CHOICE; notes/assumptions 49). -/
def execHqPush (rd rs1 rs2 : Reg) (s : State) : Host.Outcome State Fault Refusal :=
  .next (s.xPart rd 0 (some rs2) (fun h p s =>
    s.xBlock rd h (h.get rs2) 32 32 (fun bs s =>
      let c := contOf bs
      s.xJoined rd c.join.toNat (s.pushRec p h.xlate (bits (h.get rs1) 31 0) c noInst))))

/-- hq.pop (R151): a LANTERN record taken under R129 and stored at rs2; EMPTY where none waits. -/
def execHqPop (rd rs1 rs2 : Reg) (s : State) : Host.Outcome State Fault Refusal :=
  .next (s.xPart rd 1 (some rs2) (fun h p s =>
    let P := s.part p
    let qh := bits (h.get rs1) 31 0
    let va := (h.get rs2).toNat
    if va % 32 ≠ 0 then s.xErr rd eBADARG
    else if !P.current tblQueue qh then s.xErr rd eSTALE
    else
      match P.queues.find (hSlot qh - 1) with
      | none => s.xErr rd eSTALE
      | some Q =>
        match Q.pop (fun r => r.cont.kind == kLANTERN) (fun _ => false) with
        | none => s.xErr rd eEMPTY
        | some (r, lvl, Q) =>
          match vwrite s.mem h.xlate va r.cont.plain.bytes with
          | .error (o, f) => s.hartFault s.curHart f true false (va + o)
          | .ok m =>
            let s := { s with mem := m, journal := s.journal ++ [JEntry.lanternPop p (hSlot qh - 1) lvl s.curHart r.cont] }
            (s.modPart p fun P => { P with queues := P.queues.put (hSlot qh - 1) Q }).xResult rd 0))

/-! ### Sync objects (R165-R167) -/

/-- The ranges of a bind block: NRANGE pairs of base and length. -/
def bindRanges (b : List Byte) : List (Nat × Nat) :=
  (List.range (fieldAt b 0 1)).map fun i => (fieldAt b (16 + 16 * i) 8, fieldAt b (24 + 16 * i) 8)

/-- Whether two ranges overlap. -/
def rangesMeet (a b : Nat × Nat) : Bool := decide (a.1 < b.1 + b.2) && decide (b.1 < a.1 + a.2)

/-- Whether no two ranges of a list overlap. -/
def rangesApart : List (Nat × Nat) → Bool
  | [] => true
  | a :: t => !t.any (rangesMeet a) && rangesApart t

/-- The limits of a bind block (R165). -/
def bindOk (b : List Byte) : Bool :=
  decide (1 ≤ fieldAt b 0 1) && decide (fieldAt b 0 1 ≤ 8) && decide (fieldAt b 1 1 ≤ 1) && decide (fieldAt b 2 2 < 512) &&
  fieldAt b 2 2 != 0 && zeroAt b 4 16 && zeroAt b (16 + 16 * fieldAt b 0 1) 144 &&
  (bindRanges b).all (fun x => x.1 % 64 == 0 && x.2 % 64 == 0 && decide (64 ≤ x.2) && decide (x.1 + x.2 ≤ 2 ^ 57)) &&
  rangesApart (bindRanges b)

/-- The object a bind block describes, held by nobody. -/
def bindObject (b : List Byte) : SyncObj :=
  { classes := w (fieldAt b 2 2), exclOnly := (fieldAt b 1 1).testBit 0, ranges := bindRanges b, holds := [], waits := [], nextTag := 0 }

/-- The handle of an operand that is 0 or a handle with bits 63:32 zero (R165). -/
def soOperandOk (v : Dword) : Bool := bits v 63 32 == 0

/-- Creating, rebinding or freeing an object with the bind block read (R165). -/
def State.soBindDo (s : State) (rd : Reg) (p h : Nat) (b : Option (List Byte)) : State :=
  let P := s.part p
  match b, h == 0 with
  | none, true => s.xErr rd eBADARG
  | some b, true =>
    if P.quota 4 ≤ P.sos.length then s.xErr rd eQUOTA
    else
      let (slot, s) := s.freeSlot p tblSo
      let s := s.modPart p fun P => { P with sos := P.sos.put slot (bindObject b) }
      s.xResult rd (w ((s.part p).handle tblSo slot))
  | b, false =>
    if !P.current tblSo h then s.xErr rd eSTALE
    else
      match P.sos.find (hSlot h) with
      | none => s.xErr rd eSTALE
      | some o =>
        if !o.holds.isEmpty || !o.waits.isEmpty then s.xErr rd eBUSY
        else
          match b with
          | some b => (s.modSo p (hSlot h) fun o => { bindObject b with nextTag := o.nextTag }).xResult rd 0
          | none => (s.modPart p fun P => P.bump tblSo (hSlot h)).xResult rd 0

/-- so.bind (R165). -/
def execSoBind (rd rs1 rs2 : Reg) (s : State) : Host.Outcome State Fault Refusal :=
  .next (s.xPart rd 1 (some rs1) (fun h p s =>
    let hv := h.get rs2
    if !soOperandOk hv then s.xErr rd eBADARG
    else if h.get rs1 = 0 then s.soBindDo rd p hv.toNat none
    else
      s.xBlock rd h (h.get rs1) 144 16 (fun b s =>
        if !bindOk b then s.xErr rd eBADARG else s.soBindDo rd p hv.toNat (some b))))

/-- so.acq (R166): granted, refused, or the hart waits with nothing written until the grant. -/
def execSoAcq (rd rs1 rs2 : Reg) (s : State) : Host.Outcome State Fault Refusal :=
  .next (s.xPart rd 0 none (fun h p s =>
    let a := h.get rs1
    let m := h.get rs2
    if bits a 63 48 ≠ 0 || bits m 63 7 ≠ 0 || bits m 3 2 ≠ 0 then s.xErr rd eBADARG
    else
      let sh := bits a 31 0
      match s.soAcq p sh (.owner (bits a 47 32)) (bit m 0) (bit m 1) (bits m 6 4) (.hart s.curHart rd) with
      | (.granted, s) => s.xResult rd 0
      | (.queued, s) => s.modHart s.curHart fun h => { h with wait := some (.acq p (hSlot sh) rd) }
      | (.err c, s) => s.xErr rd c))

/-- so.rel (R167). A register whose bits 63:48 are not zero is BADARG (DESIGN CHOICE; notes/assumptions 49). -/
def execSoRel (rd rs1 : Reg) (s : State) : Host.Outcome State Fault Refusal :=
  .next (s.xPart rd 0 none (fun h p s =>
    let a := h.get rs1
    if bits a 63 48 ≠ 0 then s.xErr rd eBADARG
    else
      let (v, s) := s.soRel p (bits a 31 0) (.owner (bits a 47 32))
      s.xResult rd v))

/-- SO_GRANT: the waiting requests that can be granted are granted (R166). -/
def execSoGrant (p slot : Nat) (s : State) : Host.Outcome State Fault Refusal := .next (s.grant p slot)

/-! ### Fences (R168) -/

/-- fence.x (R168): the writes of this model are visible to every class as soon as they are performed, so the hart goes on. -/
def execFenceX (_rs1 _rs2 : Reg) (s : State) : Host.Outcome State Fault Refusal :=
  .next (if s.me.wait.isSome then s else s.modHart s.curHart Hart.advance)

/-! ### Translation upkeep (R169, R170) -/

/-- Whether the operand of xlt.inv breaks its form and so broadens to ALL of every stage the hart may invalidate (R169). -/
def invBroad (v : Dword) : Bool :=
  bits v 1 0 == 0 || bits v 1 0 == 3 || bits v 4 3 == 3 || bits v 7 6 != 0 || bits v 15 12 != 0 || bits v 63 32 != 0

/-- xlt.inv (R169): PRIV below GK and for stage 2 at GK; else an invalidation of the hart is outstanding. Walks are made afresh
at every access, so there is no entry to remove (notes/assumptions 16). -/
def execXltInv (rs1 rs2 : Reg) (s : State) : Host.Outcome State Fault Refusal :=
  .next (s.xPriv 0 1 (some rs1) (fun h s =>
    let v := h.get rs2
    if h.mode.level = 1 && !invBroad v && bits v 1 0 == 2 then s.xRefuse 0 (some rs1)
    else s.modHart s.curHart fun h => { h with invs := h.invs + 1 }.advance))

/-- INVALIDATION_COMPLETE: the invalidations of a hart are complete; one that waits in xlt.sync goes on (R170). -/
def execInvalidationComplete (h : Nat) (s : State) : Host.Outcome State Fault Refusal :=
  .next (s.modHart h fun x =>
    let x := { x with invs := 0 }
    match x.wait with
    | some (.sync rd) => ({ x with wait := none }.set rd 0).advance
    | _ => x)

/-- xlt.sync (R170). -/
def execXltSync (rd : Reg) (s : State) : Host.Outcome State Fault Refusal :=
  .next (s.xPriv rd 1 none (fun h s =>
    if h.invs = 0 then s.xResult rd 0 else s.modHart s.curHart fun h => { h with wait := some (.sync rd) }))

/-- XLAN_WAIT_INTERRUPT: a hart that waits takes an interrupt with the instruction not performed, the epc pointing at it, and no
waiter entry left (R145). -/
def execXlanWaitInterrupt (h cause : Nat) (s : State) : Host.Outcome State Fault Refusal :=
  .next (match (s.hart h).wait with
    | none => s
    | some (.sync _) => s.modHart h fun x => x.takeTrap cause true 0 0
    | some (.acq p slot _) =>
      let s := s.modSo p slot fun o => { o with waits := o.waits.filter (fun x =>
        match x.reply with
        | .hart n _ => n != h
        | _ => true) }
      s.modHart h fun x => x.takeTrap cause true 0 0)

end Sys2Proof.Machine
end

