-- ==== Sys2Proof/Machine/Services.lean ====
section
/-! DEFINITION. Device-run services: the call journal and the watchdog (R428, R429, R431), the Koand mapper (R178-R182) and the storage
service (R430, R432). -/

namespace Sys2Proof.Machine

open Sys2Proof.Config

/-! ### The service table (R431) -/

/-- The 64 bytes of a service's entry. -/
def State.svcEntry (s : State) (p svc : Nat) : List Byte :=
  match (s.part p).desc with
  | some d => s.gread p (d.svctab + 64 * svc) 64
  | none => List.replicate 64 0

def svcValid (e : List Byte) : Bool := (fieldAt e 0 4).testBit 0
def svcHv (e : List Byte) : Bool := (fieldAt e 0 4).testBit 1
def svcCode (e : List Byte) : Nat := fieldAt e 8 8
def svcQueue (e : List Byte) : Nat := fieldAt e 16 4

/-- The watchdog in cycles of fclk, at 2.1 GHz (R4, R428). -/
def svcWatch (e : List Byte) : Nat := (if fieldAt e 4 4 = 0 then 20 else fieldAt e 4 4) * 2100000

/-- Whether a call number is idempotent; READ and PERSIST of the storage service always are (R429, R432). -/
def svcIdem (e : List Byte) (svc num : Nat) : Bool := (svc == 1 && (num == 0 || num == 2)) || (decide (num < 64) && (fieldAt e 24 8).testBit num)

/-! ### The call journal (R429) -/

/-- The address of a journal entry, and its bytes. -/
def svcJournal (e : List Byte) : Nat := fieldAt e 32 8
def svcNJournal (e : List Byte) : Nat := fieldAt e 40 4
def callAt (e : List Byte) (i : Nat) : Nat := svcJournal e + 32 * i
def State.callEntry (s : State) (p : Nat) (e : List Byte) (i : Nat) : List Byte := s.gread p (callAt e i) 32

/-- A journal entry that may take a call: free, or done (notes/assumptions 37). -/
def State.freeCall (s : State) (p : Nat) (e : List Byte) : Option Nat :=
  (List.range (svcNJournal e)).find? (fun i => let st := fieldAt (s.callEntry p e i) 4 1; st == 0 || st == 3)

/-- The bytes of an entry: call number, STATE, argument block, result, completion address. -/
def callBytes (num state arg result compl : Nat) : List Byte :=
  leBytes num 4 ++ leBytes state 4 ++ leBytes arg 8 ++ leBytes result 8 ++ leBytes compl 8

/-! ### Calls -/

/-- A call by its block: number, argument block, completion address, and whether its zero bytes are zero. A placement request is its own
argument block and has no completion word. -/
structure Call where
  num : Nat
  arg : Nat
  compl : Nat
  ok : Bool
  deriving DecidableEq, Repr

/-- The call of a record; none where its block cannot be read. -/
def State.callOf (s : State) (svc : Nat) (x : Xlate) (c : Cont) : Option Call :=
  if svc = 0 then some { num := 0, arg := c.frame.toNat, compl := 0, ok := true }
  else
    match vread s.mem x c.frame.toNat 64 with
    | .error _ => none
    | .ok b => some { num := fieldAt b 0 4, arg := fieldAt b 8 8, compl := fieldAt b 16 8, ok := zeroAt b 4 8 && zeroAt b 24 64 }

/-- The oldest call record of a service taken from its queue under R129, with its pop journalled. -/
def State.popCall (s : State) (p h : Nat) (e : List Byte) : Option (Cont × State) :=
  let q := hSlot (svcQueue e) - 1
  if !(s.part p).current tblQueue (svcQueue e) then none
  else
    match (s.part p).queues.find q with
    | none => none
    | some Q =>
      match Q.pop (fun r => r.cont.kind == kLANTERN && r.cont.code.toNat == svcCode e) (fun _ => false) with
      | none => none
      | some (r, lvl, Q) =>
        some (r.cont, { s with journal := s.journal ++ [JEntry.lanternPop p q lvl h r.cont] }.modPart p fun P =>
          { P with queues := P.queues.put q Q })

/-- Whether a journal entry is the pop of a call. -/
def isCallPop (p : Nat) (c : Cont) : JEntry → Bool
  | .lanternPop p' _ _ _ c' => p' == p && c' == c
  | _ => false

/-- A result written to a completion address in class LAN and the record retired with OK (R501); none where the address faults. -/
def State.svcAnswer (s : State) (p : Nat) (x : Xlate) (c : Cont) (compl : Nat) (result : Dword) : Option State :=
  match (if compl = 0 then .ok s.mem else vwrite s.mem x compl (leBytes result.toNat 8)) with
  | .error _ => none
  | .ok m => some ({ s with mem := m, journal := s.journal.eraseP (isCallPop p c) }.retireJoin p x c.join.toNat stOK c.iidx)

/-- A started service changed; its watchdog is reset. -/
def State.serve (s : State) (p svc h : Nat) (e : List Byte) (f : List (Nat × Cont) → List (Nat × Cont)) : State :=
  s.modPart p fun P =>
    let calls := match P.svcs.find svc with | some v => v.calls | none => []
    { P with svcs := P.svcs.put svc { hart := h, left := svcWatch e, calls := f calls } }

/-- A call that has its result: the completion word, then the journal entry done (R431). -/
def State.finishCall (s : State) (p svc h : Nat) (e : List Byte) (i : Nat) (c : Cont) (result : Dword) : Option State :=
  let b := s.callEntry p e i
  (s.svcAnswer p (s.handleXlate p (svcQueue e)) c (fieldAt b 24 8) result).map fun s =>
    (s.gwrite p (callAt e i) (callBytes (fieldAt b 0 4) 3 (fieldAt b 8 8) result.toNat (fieldAt b 24 8))).serve p svc h e
      (fun l => l.filter (fun y => y.1 != i))

/-- The calls a service has popped and not finished. -/
def State.openCalls (s : State) (p svc : Nat) : List (Nat × Cont) := match (s.part p).svcs.find svc with | some v => v.calls | none => []

/-- The unfinished call of a service with a number and an argument block that a core may go on with. -/
def State.callFor (s : State) (p svc h : Nat) (e : List Byte) (num arg : Nat) : Option (Nat × Cont) :=
  match (s.part p).svcs.find svc with
  | none => none
  | some v =>
    if v.hart ≠ h || s.hartOut h then none
    else v.calls.find? (fun y => let b := s.callEntry p e y.1; fieldAt b 0 4 == num && fieldAt b 8 8 == arg)

/-- An unfinished call whose effects start: its entry's STATE is 2 (R429). -/
def State.startEffects (s : State) (p : Nat) (e : List Byte) (i : Nat) : State := s.gwrite p (callAt e i + 4) [2]

/-- A popped call journalled as issued; a storage call with a bad number is finished (R429, R431). -/
def State.startCall (s : State) (p svc h : Nat) (e : List Byte) (c : Cont) (k : Call) : Option State :=
  match s.freeCall p e with
  | none => none
  | some i =>
    let s := (s.gwrite p (callAt e i) (callBytes k.num 1 k.arg 0 k.compl)).serve p svc h e (fun l => l ++ [(i, c)])
    if svc = 1 && !(k.ok && decide (k.num ≤ 2)) then s.finishCall p svc h e i c (errWord eBADARG) else some s

/-- SERVICE_CALL: an unfinished call of a guest service starts its effects, or is finished where they have started; else the next call is
popped and journalled (R429). A call of an entry that is not VALID is answered BADARG, and one that finds the journal full waits (R431). -/
def execServiceCall (p svc h : Nat) (result : Dword) (s : State) : Host.Outcome State Fault Refusal :=
  .next (let e := s.svcEntry p svc
    if s.hartOut h || (s.hart h).wait.isSome then s
    else
      match (if svc < 2 then none else (s.openCalls p svc).head?) with
      | some (i, c) =>
        if fieldAt (s.callEntry p e i) 4 1 = 1 then s.startEffects p e i else (s.finishCall p svc h e i c result).getD s
      | none =>
        match s.popCall p h e with
        | none => s
        | some (c, t) =>
          let x := s.handleXlate p (svcQueue e)
          match s.callOf svc x c with
          | none => s
          | some k =>
            (if svcValid e then t.startCall p svc h e c k else t.svcAnswer p x c k.compl (errWord eBADARG)).getD s)

/-! ### The Koand mapper (R178-R182) -/

/-- Whether a placement request is in range (R178). -/
def reqOk (b : List Byte) : Bool :=
  let x := fieldAt b 12 2
  let y := fieldAt b 14 2
  inR (fieldAt b 8 2) 2 640 && inR (fieldAt b 10 2) 2 640 && decide (x + fieldAt b 8 2 ≤ gridSide) &&
  decide (y + fieldAt b 10 2 ≤ gridSide) && (x + y) % 2 == 0 && decide (fieldAt b 16 4 < 4) && zeroAt b 20 24 && zeroAt b 36 64 &&
  fieldAt b 24 8 % 64 == 0

/-- The result header (R178). -/
def placeHeader (code : Nat) (hit : Bool) (nwords dmver : Nat) (key : List Byte) : List Byte :=
  leBytes (2 ^ 15 + code) 2 ++ leBytes (b2n hit) 2 ++ leBytes nwords 4 ++ leBytes dmver 8 ++ List.replicate 16 0 ++ key

/-- The object of a request: its bytes by its LENGTH, at least a header. -/
def readObject (m : Memory) (x : Xlate) (va : Nat) : Except (Nat × XFault) (List Byte) :=
  match vread m x va 64 with
  | .error f => .error f
  | .ok b => if fieldAt b 12 4 ≤ 64 then .ok b else vread m x va (fieldAt b 12 4)

/-- What the mapper writes for a request: the header, the stream that follows it, and a placement for the cache. -/
def State.serveRequest (s : State) (p : Nat) (req obj : List Byte) : List Byte × List Byte × Option Placement :=
  let fail (code : Nat) (key : List Byte) : List Byte × List Byte × Option Placement :=
    (placeHeader code false 0 s.dmver.toNat key, [], none)
  let fl := fieldAt req 16 4
  if !reqOk req then fail 2 (List.replicate 32 0)
  else if (objCheck obj).isSome then fail 1 (List.replicate 32 0)
  else
    match s.place p obj (fieldAt req 8 2) (fieldAt req 10 2) (fieldAt req 12 2) (fieldAt req 14 2) (fl.testBit 0) (fl.testBit 1) with
    | .error c => fail c (s.placeKey (objCanon obj) (fieldAt req 8 2) (fieldAt req 10 2) (fieldAt req 12 2) (fieldAt req 14 2))
    | .ok (hit, e) =>
      let small := fieldAt req 32 4 < 64 + 4 * e.words.length
      (placeHeader (if small then 6 else 0) hit e.words.length s.dmver.toNat e.key, if small then [] else wordBytes e.words, some e)

/-- MAPPER_PLACE: the stream and the result header of a popped request, STATUS in memory with the last of them; a request, an object or
a buffer that faults leaves the call waiting (notes/assumptions 37). -/
def execMapperPlace (p h : Nat) (req : Dword) (s : State) : Host.Outcome State Fault Refusal :=
  .next (let e := s.svcEntry p 0
    match s.callFor p 0 h e 0 req.toNat with
    | none => s
    | some (i, c) =>
      let x := s.handleXlate p (svcQueue e)
      match vread s.mem x req.toNat 64 with
      | .error _ => s
      | .ok b =>
        match (if reqOk b then readObject s.mem x (fieldAt b 0 8) else .ok []) with
        | .error _ => s
        | .ok obj =>
          let r := s.serveRequest p b obj
          match vwrite s.mem x (fieldAt b 24 8) (r.1 ++ r.2.1) with
          | .error _ => s
          | .ok m =>
            let t := match r.2.2 with | some e => { s with mem := m }.cachePlace p e | none => { s with mem := m }
            (t.finishCall p 0 h e i c 0).getD s)

/-! ### The storage service (R430, R432) -/

/-- An argument block read: namespace, blocks, bytes of a block, buffer. -/
structure StoreArg where
  ns : Nat
  durable : Bool
  lba : Nat
  nlb : Nat
  size : Nat
  buf : Nat
  deriving DecidableEq, Repr

/-- The argument block of a call, where it and its namespace entry are as R432 gives. -/
def State.storeArg (s : State) (p num : Nat) (b : List Byte) : Option StoreArg :=
  let ns := fieldAt b 0 4
  let e := match (s.part p).desc with | some d => s.mem.read (d.nstab + 32 * ns) 32 | none => []
  let size := 2 ^ fieldAt e 16 1
  let a : StoreArg := { ns := ns, durable := (fieldAt b 4 4).testBit 0, lba := fieldAt b 8 8, nlb := fieldAt b 16 4, size := size, buf := fieldAt b 24 8 }
  if decide (ns ≤ 15) && decide (fieldAt b 4 4 ≤ b2n (num == 1)) && zeroAt b 20 24 && zeroAt b 32 64 &&
    (if num = 2 then a.nlb == 0 && a.buf == 0 else inR a.nlb 1 65536 && a.buf % size == 0) &&
    (fieldAt e 0 4).testBit 0 && inR (fieldAt e 16 1) 9 16
  then some a else none

/-- A block of a namespace in the cache. -/
def Partition.cached (P : Partition) (ns lba : Nat) : Option CacheBlock := P.cache.find? (fun c => c.ns == ns && c.lba == lba)

/-- A block put into the cache. -/
def Partition.putBlock (P : Partition) (c : CacheBlock) : Partition :=
  { P with cache := P.cache.filter (fun x => !(x.ns == c.ns && x.lba == c.lba)) ++ [c] }

/-- The blocks of a transfer as cache entries. -/
def StoreArg.blocks (a : StoreArg) (bs : List Byte) (durable : Bool) : List CacheBlock :=
  (List.range a.nlb).map fun i => { ns := a.ns, lba := a.lba + i, bytes := (bs.drop (i * a.size)).take a.size, durable := durable }

/-- The bytes of a read: each block from the cache, else from the namespace. -/
def Partition.readBlocks (P : Partition) (a : StoreArg) (nvme : List Byte) : List Byte :=
  (List.range a.nlb).flatMap fun i =>
    match P.cached a.ns (a.lba + i) with
    | some c => c.bytes
    | none => (nvme.drop (i * a.size)).take a.size

/-- Whether the cache holds every block of a transfer. -/
def Partition.allCached (P : Partition) (a : StoreArg) : Bool := (List.range a.nlb).all (fun i => (P.cached a.ns (a.lba + i)).isSome)

/-- What a storage call comes to: it waits, or it ends with a result in a state. -/
def storeFault (s : State) (f : XFault) : Option (Nat × State) := if f.kind == .page then none else some (ePGFLT, s)

/-- The effect of a call; none where it has to wait: for a page of BUF, or for the namespace's answer. -/
def State.readCall (s : State) (p : Nat) (x : Xlate) (a : StoreArg) (nvme : NvmeReply) : Option (Nat × State) :=
  let P := s.part p
  if !P.allCached a && nvme.error then some (eIOERR, s)
  else if !P.allCached a && nvme.bytes.length ≠ a.nlb * a.size then none
  else
    let bs := P.readBlocks a nvme.bytes
    match vwrite s.mem x a.buf bs with
    | .error (_, f) => storeFault s f
    | .ok m =>
      let fresh := (a.blocks bs true).filter (fun c => (P.cached c.ns c.lba).isNone)
      some (0, { s with mem := m }.modPart p fun P => fresh.foldl Partition.putBlock P)

def State.writeCall (s : State) (p : Nat) (x : Xlate) (a : StoreArg) (nvme : NvmeReply) : Option (Nat × State) :=
  match vread s.mem x a.buf (a.nlb * a.size) with
  | .error (_, f) => storeFault s f
  | .ok bs =>
    let done := a.durable && !nvme.error
    some (if a.durable && nvme.error then eIOERR else 0, s.modPart p fun P => (a.blocks bs done).foldl Partition.putBlock P)

def State.persistCall (s : State) (p : Nat) (_ : Xlate) (a : StoreArg) (nvme : NvmeReply) : Option (Nat × State) :=
  if nvme.error then some (eIOERR, s)
  else
    let f (c : CacheBlock) : CacheBlock := if c.ns = a.ns then { c with durable := true } else c
    some (0, s.modPart p fun P => { P with cache := P.cache.map f })

/-- A storage call: BADARG for a bad argument block, else its effect and its result; one that waits for the namespace or for a page of BUF
has its effects started (R429, R432). -/
def State.storeCall (s : State) (p h num : Nat) (arg : Dword) (nvme : NvmeReply)
    (f : State → Nat → Xlate → StoreArg → NvmeReply → Option (Nat × State)) : State :=
  let e := s.svcEntry p 1
  match s.callFor p 1 h e num arg.toNat with
  | none => s
  | some (i, c) =>
    let x := s.handleXlate p (svcQueue e)
    let ends (code : Nat) (t : State) : State := (t.finishCall p 1 h e i c (if code = 0 then 0 else errWord code)).getD s
    match vread s.mem x arg.toNat 64 with
    | .error (_, k) => if k.kind == .page then s else ends ePGFLT s
    | .ok b =>
      match s.storeArg p num b with
      | none => ends eBADARG s
      | some a =>
        match f s p x a nvme with
        | none => s.startEffects p e i
        | some (code, t) => ends code t

/-- STORAGE_READ. -/
def execStorageRead (p h : Nat) (arg : Dword) (nvme : NvmeReply) (s : State) : Host.Outcome State Fault Refusal :=
  .next (s.storeCall p h 0 arg nvme State.readCall)

/-- STORAGE_WRITE. -/
def execStorageWrite (p h : Nat) (arg : Dword) (nvme : NvmeReply) (s : State) : Host.Outcome State Fault Refusal :=
  .next (s.storeCall p h 1 arg nvme State.writeCall)

/-- STORAGE_PERSIST. -/
def execStoragePersist (p h : Nat) (arg : Dword) (nvme : NvmeReply) (s : State) : Host.Outcome State Fault Refusal :=
  .next (s.storeCall p h 2 arg nvme State.persistCall)

/-! ### The watchdog (R428, R429) -/

/-- A core reset and its service started from its loaded image: registers zero, nothing waited for, the pc at CODE; its mode and
translation are those the service was loaded under (notes/assumptions 37). -/
def State.restartCore (s : State) (h code : Nat) : State :=
  let s := { s with parts := s.parts.map (fun (x : Nat × Partition) => (x.1, { x.2 with sos := x.2.sos.map (fun (y : Nat × SyncObj) =>
    (y.1, { y.2 with waits := y.2.waits.filter (fun z => match z.reply with | .hart n _ => n != h | _ => true) })) })) }
  s.modHart h fun x =>
    { Hart.reset with pc := w code, mode := x.mode, part := x.part, satp := x.satp, vsatp := x.vsatp, hgatp := x.hgatp, vdpart := x.vdpart
                      csr := x.csr, bists := x.bists, bistNo := x.bistNo }

/-- A journalled call after a restart: replayed, failed with SVC_ABORTED, or its journalled result returned. -/
def State.restartCall (s : State) (p svc h : Nat) (e : List Byte) (y : Nat × Cont) : State :=
  let b := s.callEntry p e y.1
  let num := fieldAt b 0 4
  match fieldAt b 4 1 with
  | 3 => (s.finishCall p svc h e y.1 y.2 (w (fieldAt b 16 8))).getD s
  | 2 =>
    if svcIdem e svc num then s.gwrite p (callAt e y.1 + 4) [1]
    else (s.finishCall p svc h e y.1 y.2 (errWord eABORTED)).getD s
  | _ => s

/-- SERVICE_WATCHDOG_EXPIRY: where the watchdog has run down, a WDOG record, the core reset and the service restarted. -/
def execServiceWatchdogExpiry (p svc : Nat) (s : State) : Host.Outcome State Fault Refusal :=
  .next (match (s.part p).svcs.find svc with
    | none => s
    | some v =>
      if v.left ≠ 0 then s
      else
        let e := s.svcEntry p svc
        let s := (s.post p (!svcHv e) (svcHv e) (FaultRec.of fWDOG 4)).restartCore v.hart (svcCode e)
        v.calls.foldl (fun s y => s.restartCall p svc v.hart e y) (s.serve p svc v.hart e id))

end Sys2Proof.Machine
end

