-- ==== Sys2Proof/Machine/Trim.lean ====
section
/-! DEFINITION. ATTN page handles (R322), the atomic unit's glow updates (R323-R325), and the trim engine (R326-R332). -/

namespace Sys2Proof.Machine

/-! ### ATTN page handles (R322) -/

/-- The key and value granules of an ATTN page handle, by stage-1 address: entry `slot` of the partition's table, 16 bytes, free
while its key address is 0 (notes/assumptions 32). -/
def State.attnEntry (s : State) (p h : Nat) : Option (Nat × Nat) :=
  match (s.part p).desc with
  | none => none
  | some d =>
    if hSlot h = 0 || d.nattn ≤ hSlot h || hGen h != (s.part p).gen tblAttn (hSlot h) then none
    else
      let e := s.gread p (d.attntab + 16 * hSlot h) 16
      if fieldAt e 0 8 = 0 || fieldAt e 0 8 % 65536 ≠ 0 || fieldAt e 8 8 % 65536 ≠ 0 then none
      else some (fieldAt e 0 8, fieldAt e 8 8)

/-- The granule at a virtual address zeroed; nothing where it does not translate. -/
def State.zeroGranule (s : State) (x : Xlate) (va : Nat) : State :=
  match translate s.mem x va .read with
  | .ok (pa, _) => { s with mem := s.mem.zero (pa / 65536 * 65536) (pa / 65536 * 65536 + 65536) }
  | .error _ => s

/-- An ATTN page handle freed: its granules zeroed, its generation advanced, its entry free (R127, R329, R439). -/
def State.freeAttn (s : State) (p : Nat) (x : Xlate) (h : Nat) : State :=
  match s.attnEntry p h, (s.part p).desc with
  | some (k, v), some d =>
    (((s.zeroGranule x k).zeroGranule x v).gwrite p (d.attntab + 16 * hSlot h) (List.replicate 16 0)).modPart p
      fun P => P.bump tblAttn (hSlot h)
  | _, _ => s

/-! ### Glow updates (R323, R324) -/

/-- The addend of a weight in Q8.24, and whether GLOWBAD counts it. -/
def glowAddend (wt : Word) : Nat × Bool :=
  match b32.val wt.toNat with
  | .nan _ => (0, true)
  | .inf neg => if neg then (0, true) else (0xFFFFFFFF, false)
  | .fin neg m e =>
    if m = 0 then (0, false)
    else if neg then (0, true)
    else (min (roundTo rmRNE false m (e + 24) 0 false).1 0xFFFFFFFF, false)

/-- One more of a count of the ATTN status block: 0 GLOWDROP, 4 GLOWBAD. -/
def State.attnCount (s : State) (p off : Nat) : State :=
  match (s.part p).desc with
  | some d => s.count32 p (d.attnstat + off)
  | none => s

/-- The addition to the counter of a slot of the page at a physical address: clamped, CSAT set where it was (R113, R324). -/
def glowAdd (m : Memory) (page slot q : Nat) : Memory :=
  let a := page + 62880 + 4 * slot
  let sum := m.readN a 4 + q
  let m := m.writeN a 4 (min sum 0xFFFFFFFF)
  if 0xFFFFFFFF < sum then m.put (page + 63842) (m.get (page + 63842) ||| 2) else m

/-- GLOW_UPDATE_APPLY: the first update of an element's glow queue is applied, dropped, or withheld where its page faults, a page that breaks
R113 being a format fault of this path too (DESIGN CHOICE; notes/assumptions 44). -/
def execGlowUpdateApply (tile : Nat) (s : State) : Host.Outcome State Fault Refusal :=
  .next (match s.ownerOf tile, (s.tile tile).glow with
    | some (rn, r), g :: rest =>
      let p := r.part
      let done (s : State) : State := s.modTile tile (fun t => { t with glow := rest })
      if !r.active || s.isHeld p (.glow tile) then s
      else
        match s.attnEntry p g.handle.toNat with
        | none => done (s.attnCount p 0)
        | some (key, _) =>
          match translate s.mem (s.rgXlate r) key .atomic with
          | .error f => s.withholdEngine p rn (.glow tile) f true key none
          | .ok (pa, fmt) =>
            let tail := s.mem.read (pa + 63840) 8
            if fmt ≠ 6 then done (s.attnCount p 0)
            else if !attnTailOk tail then s.withholdEngine p rn (.glow tile) { kind := .format, stage := 1, ga := 0 } true key (stackAt pa)
            else if fieldAt tail 0 2 ≤ g.slot.toNat then done (s.attnCount p 0)
            else
              let (q, bad) := glowAddend g.weight
              let s := if bad then s.attnCount p 4 else s
              done ({ s with mem := glowAdd s.mem pa g.slot.toNat q }.touch rn key 1)
    | _, _ => s)

/-! ### Trim commands (R326) -/

/-- A trim command block. -/
structure TrimCmd where
  so : Nat
  mode : Nat
  decay : Nat
  chain : Nat
  limit : Nat
  recent : Nat
  sink : Nat
  nspare : Nat
  spare : Nat
  result : Nat
  alt : Nat
  deriving DecidableEq, Repr

/-- The command of 64 bytes. -/
def trimCmd (b : List Byte) : TrimCmd :=
  { so := fieldAt b 0 4, mode := fieldAt b 4 2 % 2, decay := fieldAt b 6 1, chain := fieldAt b 8 8, limit := fieldAt b 16 4
    recent := fieldAt b 20 4, sink := fieldAt b 24 4, nspare := fieldAt b 28 4, spare := fieldAt b 32 8, result := fieldAt b 40 8
    alt := fieldAt b 48 8 }

/-- The check of the command block. -/
def trimCmdOk (b : List Byte) : Bool :=
  let c := trimCmd b
  fieldAt b 4 2 / 2 == 0 && decide (c.decay ≤ 31) && zeroAt b 7 8 && c.chain % 64 == 0 && decide (c.nspare ≤ 4096) &&
  c.spare % 4 == 0 && c.result % 16 == 0 && c.alt % 8 == 0 && zeroAt b 56 64

/-- Why a trim does not go on: it ends with a status, or an access of it faults. -/
inductive TrimStop where
  | status (code : Nat)
  | fault (f : XFault) (write : Bool) (va : Nat)
  deriving DecidableEq, Repr

def eNOSPARE : Nat := 0x0011

/-- A read and a write of the trim engine. -/
def tread (m : Memory) (x : Xlate) (va n : Nat) : Except TrimStop (List Byte) :=
  match vread m x va n with
  | .ok b => .ok b
  | .error (o, f) => .error (.fault f false (va + o))
def twrite (m : Memory) (x : Xlate) (va : Nat) (bs : List Byte) : Except TrimStop Memory :=
  match vwrite m x va bs with
  | .ok m => .ok m
  | .error (o, f) => .error (.fault f true (va + o))

/-- The spare handles of a command: STALE where one names no ATTN page of the partition. -/
def State.trimSpares (s : State) (p : Nat) (x : Xlate) (c : TrimCmd) : Except TrimStop (List Nat) :=
  match tread s.mem x c.spare (4 * c.nspare) with
  | .error e => .error e
  | .ok b =>
    let hs := (List.range c.nspare).map (fun i => fieldAt b (4 * i) 4)
    if hs.all (fun h => (s.attnEntry p h).isSome) then .ok hs else .error (.status eSTALE)

/-! ### The chain (R327) -/

/-- A page of the chain as the engine reads it: handle, granules' addresses, and their bytes. -/
structure ChainPage where
  handle : Nat
  key : Nat
  val : Nat
  kb : List Byte
  vb : List Byte
  deriving DecidableEq, Repr

def ChainPage.live (g : ChainPage) : Nat := fieldAt g.kb 63840 2
def ChainPage.isOpen (g : ChainPage) : Bool := fieldAt g.kb 63842 2 % 2 == 1
def ChainPage.csat (g : ChainPage) : Bool := fieldAt g.kb 63842 2 / 2 % 2 == 1
def ChainPage.dim (g : ChainPage) : Nat := fieldAt g.kb 63844 1
def ChainPage.pos (g : ChainPage) (k : Nat) : Nat := fieldAt g.kb (61920 + 4 * k) 4
def ChainPage.ctr (g : ChainPage) (k : Nat) : Nat := fieldAt g.kb (62880 + 4 * k) 4
def ChainPage.norm (g : ChainPage) (k : Nat) : Nat := fieldAt g.kb (61440 + 2 * k) 2

/-- Whether a slot holds no token (R113). -/
def ChainPage.slotEmpty (g : ChainPage) (k : Nat) : Bool :=
  zeroAt g.kb (256 * k) (256 * k + 256) && g.norm k == 0x8000 && g.pos k == 0xFFFFFFFF && g.ctr k == 0

/-- Whether a page satisfies R113, but for the order of its positions. -/
def ChainPage.ok (g : ChainPage) : Bool :=
  attnTailOk (g.kb.drop 63840) && (List.range 240).all (fun k => decide (k < g.live) || g.slotEmpty k)

/-- Strictly rising numbers. -/
def rising : List Nat → Bool
  | [] => true
  | [_] => true
  | a :: b :: t => decide (a < b) && rising (b :: t)

/-- A page of a handle read whole: STALE for a stale handle, BADARG for a page that is no ATTN page. -/
def State.chainPage (s : State) (p : Nat) (x : Xlate) (h : Nat) : Except TrimStop ChainPage :=
  match s.attnEntry p h with
  | none => .error (.status eSTALE)
  | some (k, v) =>
    match translate s.mem x k .read with
    | .error f => .error (.fault f false k)
    | .ok (_, fmt) =>
      if fmt ≠ 6 then .error (.status eBADARG)
      else
        match tread s.mem x k 65536 with
        | .error e => .error e
        | .ok kb => (tread s.mem x v 65536).map (fun vb => { handle := h, key := k, val := v, kb := kb, vb := vb })

/-- The pages of the handles of a table. -/
def State.chainPages (s : State) (p : Nat) (x : Xlate) : List Nat → Except TrimStop (List ChainPage)
  | [] => .ok []
  | h :: t =>
    match s.chainPage p x h with
    | .error e => .error e
    | .ok g => (State.chainPages s p x t).map (fun r => g :: r)

/-- A token of the chain: original position, counter, page and slot. -/
structure Tok where
  pos : Nat
  ctr : Nat
  page : Nat
  slot : Nat
  deriving DecidableEq, Repr

/-- The tokens of a chain in order. -/
def chainToks (gs : List ChainPage) : List Tok :=
  (gs.zip (List.range gs.length)).flatMap fun x =>
    (List.range x.1.live).map (fun k => { pos := x.1.pos k, ctr := x.1.ctr k, page := x.2, slot := k })

/-- Whether descriptor, table and pages make a chain (R113, R327). -/
def chainOk (d : List Byte) (tbl : List Byte) (gs : List ChainPage) : Bool :=
  zeroAt d 20 64 && gs.all ChainPage.ok && rising ((chainToks gs).map (·.pos)) &&
  gs.all (fun g => g.dim == (gs.headD g).dim) &&
  (gs.zip (List.range gs.length)).all (fun x => x.1.isOpen == (x.2 + 1 == gs.length)) &&
  (gs.zip (List.range gs.length)).all (fun x => fieldAt tbl (8 * x.2 + 4) 2 == x.1.live && zeroAt tbl (8 * x.2 + 6) (8 * x.2 + 8)) &&
  fieldAt d 12 4 == (chainToks gs).length

/-! ### What is dropped and what stays (R329) -/

/-- Whether a token is dropped before another: lower counter first, then lower original position. -/
def Tok.before (a b : Tok) : Bool := decide (a.ctr < b.ctr) || (a.ctr == b.ctr && decide (a.pos < b.pos))

/-- A token put into a list in order of dropping. -/
def insertTok (a : Tok) : List Tok → List Tok
  | [] => [a]
  | b :: t => if a.before b then a :: b :: t else b :: insertTok a t

/-- The candidates: every token but the first SINK and the last RECENT. -/
def trimCands (c : TrimCmd) (ts : List Tok) : List Tok := (ts.drop c.sink).take (ts.length - c.sink - c.recent)

/-- The tokens dropped. -/
def trimDropped (c : TrimCmd) (ts : List Tok) : List Tok :=
  let cand := trimCands c ts
  if c.mode = 0 then (cand.foldr insertTok []).take (min (ts.length - c.limit) cand.length)
  else cand.filter (fun t => decide (t.ctr < c.limit))

/-- The survivors of new page i. -/
def pageToks (keep : List Tok) (i : Nat) : List Tok := (keep.drop (240 * i)).take 240

/-- Pages of a number of survivors. -/
def pagesFor (n : Nat) : Nat := (n + 239) / 240

/-- Whether new page i is old page i, in place (notes/assumptions 33). -/
def stays (c : TrimCmd) (gs : List ChainPage) (dropped keep : List Tok) (i : Nat) : Bool :=
  dropped.all (fun t => decide (i < t.page)) && c.decay == 0 &&
  (decide (i + 1 < pagesFor keep.length) || i + 1 == gs.length) &&
  (match gs[i]? with
   | some g => pageToks keep i == (List.range g.live).map (fun k => { pos := g.pos k, ctr := g.ctr k, page := i, slot := k })
   | none => false)

/-- P: the number of leading pages that stay. -/
def stayCount (c : TrimCmd) (gs : List ChainPage) (dropped keep : List Tok) : Nat :=
  ((List.range (pagesFor keep.length)).takeWhile (stays c gs dropped keep)).length

/-! ### The new pages (R113, R114, R329) -/

/-- The page a token stands on. -/
def tokPage (gs : List ChainPage) (t : Tok) : ChainPage := nth gs t.page { handle := 0, key := 0, val := 0, kb := [], vb := [] }

/-- n items of k bytes each, the missing ones filled. -/
def fillTo (n : Nat) (l : List (List Byte)) (e : List Byte) : List Byte := (l ++ List.replicate (n - l.length) e).flatten

/-- The key granule of survivors. -/
def newKeys (c : TrimCmd) (gs : List ChainPage) (ts : List Tok) (dim : Nat) (last : Bool) : List Byte :=
  let row (t : Tok) : List Byte := ((tokPage gs t).kb.drop (256 * t.slot)).take 256
  let csat := c.decay == 0 && ts.any (fun t => (tokPage gs t).csat)
  fillTo 240 (ts.map row) (List.replicate 256 0) ++
  fillTo 240 (ts.map (fun t => leBytes ((tokPage gs t).norm t.slot) 2)) (leBytes 0x8000 2) ++
  fillTo 240 (ts.map (fun t => leBytes t.pos 4)) (leBytes 0xFFFFFFFF 4) ++
  fillTo 240 (ts.map (fun t => leBytes (t.ctr / 2 ^ c.decay) 4)) (leBytes 0 4) ++
  leBytes ts.length 2 ++ leBytes (b2n last + 2 * b2n csat) 2 ++ leBytes dim 4 ++ List.replicate 1688 0

/-- The value granule of survivors. -/
def newVals (gs : List ChainPage) (ts : List Tok) : List Byte :=
  fillTo 256 (ts.map (fun t => ((tokPage gs t).vb.drop (256 * t.slot)).take 256)) (List.replicate 256 0)

/-- What a trim does to memory, its two result words but for the status, and the handles it frees. -/
structure TrimDone where
  mem : Memory
  kept : Nat
  dropped : Nat
  used : Nat
  freed : List Nat
  commit : Option (Nat × Nat)
  deriving DecidableEq, Repr

/-- The new pages written into the spares. -/
def writePages (x : Xlate) (c : TrimCmd) (gs : List ChainPage) (keep : List Tok) (n' : Nat) :
    List (Nat × Nat × Nat) → Memory → Except TrimStop Memory
  | [], m => .ok m
  | (i, k, v) :: t, m =>
    let ts := pageToks keep i
    match twrite m x k (newKeys c gs ts (gs.headD { handle := 0, key := 0, val := 0, kb := [], vb := [] }).dim (i + 1 == n')) with
    | .error e => .error e
    | .ok m =>
      match twrite m x v (newVals gs ts) with
      | .error e => .error e
      | .ok m => writePages x c gs keep n' t m

/-- The command run on its chain, up to the frees (R329, R331): every fault before the commit leaves all as it was. -/
def State.trimRun (s : State) (p : Nat) (x : Xlate) (c : TrimCmd) : Except TrimStop TrimDone := do
  let spares ← s.trimSpares p x c
  let d ← tread s.mem x c.chain 64
  let npage := fieldAt d 8 4
  if 4096 < npage then .error (.status eBADARG)
  else
    let tbl ← tread s.mem x (fieldAt d 0 8) (8 * npage)
    let gs ← s.chainPages p x ((List.range npage).map (fun i => fieldAt tbl (8 * i) 4))
    if !chainOk d tbl gs then .error (.status eBADARG)
    else
      let ts := chainToks gs
      let dropped := trimDropped c ts
      let keep := ts.filter (fun t => !dropped.contains t)
      let n' := pagesFor keep.length
      let stay := stayCount c gs dropped keep
      if dropped.isEmpty && c.decay = 0 then
        .ok { mem := s.mem, kept := ts.length, dropped := 0, used := 0, freed := [], commit := none }
      else if spares.length < n' - stay then .error (.status eNOSPARE)
      else
        let new := (List.range (n' - stay)).map (fun j => (stay + j, ((s.attnEntry p (nth spares j 0)).getD (0, 0))))
        let m ← writePages x c gs keep n' new s.mem
        let hs := (List.range n').map (fun i => if i < stay then (nth gs i { handle := 0, key := 0, val := 0, kb := [], vb := [] }).handle else nth spares (i - stay) 0)
        let m ← twrite m x c.alt ((hs.zip (List.range n')).flatMap (fun (y : Nat × Nat) =>
          leBytes y.1 4 ++ leBytes (pageToks keep y.2).length 2 ++ leBytes 0 2))
        let m ← twrite m x c.chain (leBytes c.alt 8 ++ leBytes n' 4 ++ leBytes keep.length 4 ++
          leBytes ((fieldAt d 16 4 + 1) % 2 ^ 32) 4 ++ List.replicate 44 0)
        .ok { mem := m, kept := keep.length, dropped := dropped.length, used := n' - stay
              freed := (gs.map (·.handle)).filter (fun h => !hs.contains h), commit := some (fieldAt d 0 8, fieldAt d 16 4) }

/-! ### The engine (R329-R331, R501) -/

/-- The token of a TRIM instruction filled in a region of its partition that waits for it. -/
def Region.fillTrim (r : Region) (p num : Nat) (v : Dword) : Region :=
  match r.seq.trims.find? (fun y => y.1 == num) with
  | some (_, rd) =>
    if r.part = p then { r with seq := { (r.seq.set rd v) with trims := r.seq.trims.filter (fun y => y.1 != num) } } else r
  | none => r

/-- The token of a TRIM instruction journalled and filled, in the context that a saved image holds too (R234, R425). -/
def State.fillTrim (s : State) (p num : Nat) (v : Dword) : State :=
  { s with
    regions := s.regions.map (fun (x : Nat × Region) => (x.1, x.2.fillTrim p num v))
    saves := s.saves.map (fun (x : List Byte × Kept) => (x.1, { x.2 with reg := x.2.reg.fillTrim p num v }))
    journal := s.journal ++ [JEntry.trimToken p num v] }

/-- The status a TRIM record carries to its join block (R501). -/
def trimJoinStatus (code : Nat) : Nat :=
  if code = 0 then stOK else if code = eREVOKED then stREVOKED else if code = eSTALE then stSTALE else stFAULT

/-- The two words of the result (R330). -/
def trimWord0 (code kept dropped : Nat) : Dword := w (code * 2 ^ 48 + kept % 2 ^ 20 * 2 ^ 28 + dropped % 2 ^ 20 * 2 ^ 8)
def trimWord1 (used freed : Nat) : Dword := w (used % 2 ^ 13 + freed % 2 ^ 13 * 2 ^ 16)

/-- A trim leaves its engine: its token filled, its record retired. -/
def State.trimLeave (s : State) (p i : Nat) (t : Trim) (st : Nat) (w0 : Dword) : State :=
  let s := s.modPart p fun P => { P with trims := P.trims.del i, held := P.held.filter (fun h => h.who != .trim p i) }
  let s := match t.num with
    | some n => s.fillTrim p n w0
    | none => s
  s.retireJoin p (s.queueXlate p t.q) t.cont.join.toNat st t.cont.iidx

/-- The result of a trim whose object is released is written, where the command names a place for it, and the trim leaves; a write that
faults is withheld (R329, R346). -/
def State.trimResult (s : State) (p i : Nat) (t : Trim) (result st : Nat) (w0 w1 : Dword) : State :=
  if result = 0 || result % 16 ≠ 0 then s.trimLeave p i t st w0
  else
    match vwrite s.mem (s.queueXlate p t.q) result (leBytes w0.toNat 8 ++ leBytes w1.toNat 8) with
    | .ok m => { s with mem := m }.trimLeave p i t st w0
    | .error (o, f) =>
      (s.modPart p fun P => { P with trims := P.trims.put i { t with so := none, granted := false, ended := some (st, w0, w1) } }).withholdEngine
        p 4096 (.trim p i) f true (result + o) t.stack

/-- A trim ends: its object released, its result written, its token filled, its record retired. -/
def State.trimEndAs (s : State) (p i : Nat) (t : Trim) (result st : Nat) (w0 w1 : Dword) : State :=
  let s := s.releaseAll p (.trim i)
  let s := match t.so with
    | some so => s.soWithdraw p (hSlot so.toNat) (.trim i)
    | none => s
  let s := s.modPart p fun P => { P with held := P.held.filter (fun h => h.who != .trim p i) }
  s.trimResult p i t result st w0 w1

/-- A trim ends with a code of R330, which gives the status of its record (R501). -/
def State.trimEnd (s : State) (p i : Nat) (t : Trim) (result : Nat) (code : Nat) (w0 w1 : Dword) : State :=
  s.trimEndAs p i t result (trimJoinStatus code) w0 w1

/-- A trim ends with an error; its result is written once its command block has been read. One that has ended before, and waits for the
page of its result, leaves without writing it. -/
def State.trimFail (s : State) (p i : Nat) (t : Trim) (code : Nat) : State :=
  match t.ended with
  | some (st, w0, _) => s.trimLeave p i t st w0
  | none => s.trimEnd p i t (trimCmd t.cmd).result code (trimWord0 code 0 0) 0

/-- The granule at a virtual address with bytes that the spec leaves open. -/
def State.freeGranule (s : State) (x : Xlate) (va : Nat) : State :=
  match translate s.mem x va .read with
  | .ok (pa, _) =>
    { s with mem := s.mem.write (pa / 65536 * 65536) ((List.range 16384).flatMap (fun i => leBytes (Config.freeWord (s.freeCtr + i)).toNat 4))
             freeCtr := s.freeCtr + 16384 }
  | .error _ => s

/-- The spares of a trim that a fault or a revocation ends before its commit, once its object has been granted: what stands in them is
undefined (R331; notes/assumptions 14). -/
def State.loseSpares (s : State) (p : Nat) (t : Trim) : State :=
  if !t.granted then s
  else
    let x := s.queueXlate p t.q
    match s.trimSpares p x (trimCmd t.cmd) with
    | .error _ => s
    | .ok hs => hs.foldl (fun s h =>
        match s.attnEntry p h with
        | some (k, v) => (s.freeGranule x k).freeGranule x v
        | none => s) s

/-- A trim that cannot go on: it ends, or its access is withheld (R331, R346). -/
def State.trimStop (s : State) (p i : Nat) (t : Trim) (e : TrimStop) : State :=
  match e with
  | .status c => s.trimFail p i t c
  | .fault f wr va => s.withholdEngine p 4096 (.trim p i) f wr va t.stack

/-- A trim whose access is withheld waits; an access that has reached the freeze limit cannot be serviced, and ends it with PGFLT
(R331). -/
def State.trimWaits (s : State) (p i : Nat) (t : Trim) (f : State → State) : State :=
  match (s.part p).held.find? (fun h => h.who == .trim p i) with
  | some h => if (s.part p).freezeLimit ≤ h.age then (s.loseSpares p t).trimFail p i t ePGFLT else s
  | none => f s

/-- The handles a command names: its spares, and the pages of its chain as the table in use gives them. -/
def State.trimSpareHandles (s : State) (x : Xlate) (c : TrimCmd) : List Nat :=
  match vread s.mem x c.spare (4 * c.nspare) with
  | .ok b => (List.range c.nspare).map (fun i => fieldAt b (4 * i) 4)
  | .error _ => []
def State.trimChainHandles (s : State) (x : Xlate) (c : TrimCmd) : List Nat :=
  match vread s.mem x c.chain 64 with
  | .error _ => []
  | .ok d =>
    let n := fieldAt d 8 4
    if 4096 < n then []
    else
      match vread s.mem x (fieldAt d 0 8) (8 * n) with
      | .ok b => (List.range n).map (fun i => fieldAt b (8 * i) 4)
      | .error _ => []

/-- The stack whose trim engine carries out a command: the one that holds the first page of the chain, or the first spare where the chain has
no page; the device's choice where none does (R20; notes/assumptions 15). -/
def State.trimStack (s : State) (p : Nat) (x : Xlate) (c : TrimCmd) : Nat × State :=
  let key := ((s.trimChainHandles x c ++ s.trimSpareHandles x c).findSome? (s.attnEntry p)).map (·.1)
  let at_ : Option Nat := match key with
    | some k => (match translate s.mem x k .read with | .ok (pa, _) => stackAt pa | .error _ => none)
    | none => none
  match at_ with
  | some k => (k, s)
  | none => s.pick Config.numStacks

/-- Whether the trim engine of a stack runs a command (R20). -/
def State.trimEngineBusy (s : State) (stack : Nat) : Bool :=
  s.parts.any (fun x => x.2.trims.any (fun y => y.2.stack == some stack))

/-- A trim with its command block read: once its engine is free, it and the spares are checked, the object requested. -/
def State.trimRequest (s : State) (p i : Nat) (t : Trim) : State :=
  let c := trimCmd t.cmd
  let k := s.trimStack p (s.queueXlate p t.q) c
  if !trimCmdOk t.cmd then s.trimFail p i t eBADARG
  else if s.trimEngineBusy k.1 then s
  else
    match s.trimSpares p (s.queueXlate p t.q) c with
    | .error e => s.trimStop p i t e
    | .ok _ =>
      let s := k.2
      let t := { t with so := some (w c.so), stack := some k.1 }
      match s.soAcq p c.so (.trim i) true false 0 (.trim i) with
      | (.err e, s) => s.trimFail p i t e
      | (.queued, s) => s.modPart p fun P => { P with trims := P.trims.put i t }
      | (.granted, s) => s.modPart p fun P => { P with trims := P.trims.put i { t with granted := true } }

/-- A popped trim begins: its command block is read, unless it has been. -/
def State.trimBegin (s : State) (p i : Nat) (t : Trim) : State :=
  s.trimWaits p i t (fun s =>
    if !t.cmd.isEmpty then s.trimRequest p i t
    else
      match tread s.mem (s.queueXlate p t.q) t.cont.code.toNat 64 with
      | .error e => s.trimStop p i t e
      | .ok b =>
        let t := { t with cmd := b }
        (s.modPart p fun P => { P with trims := P.trims.put i t }).trimRequest p i t)

/-- The physical memory that a trim reads once its object is granted: spares, descriptor, table and chain granules. -/
def State.trimReads (s : State) (p : Nat) (t : Trim) : List (Nat × Nat) :=
  let x := s.queueXlate p t.q
  let c := trimCmd t.cmd
  let at_ (va n : Nat) : List (Nat × Nat) := match locate s.mem x .read va (piecesOf va n) with | .ok ps => ps | .error _ => []
  at_ c.spare (4 * c.nspare) ++ at_ c.chain 64 ++
  (match vread s.mem x c.chain 64 with
   | .error _ => []
   | .ok d =>
     let n := fieldAt d 8 4
     if 4096 < n then []
     else
       at_ (fieldAt d 0 8) (8 * n) ++
       (match vread s.mem x (fieldAt d 0 8) (8 * n) with
        | .error _ => []
        | .ok tbl => (List.range n).flatMap (fun i =>
          match s.attnEntry p (fieldAt tbl (8 * i) 4) with
          | some (k, v) => at_ k 65536 ++ at_ v 65536
          | none => [])))

/-- The physical memory that a trim writes but for its chain: its spares, its new table and its result. -/
def State.trimWrites (s : State) (p : Nat) (t : Trim) (r : TrimDone) : List (Nat × Nat) :=
  let x := s.queueXlate p t.q
  let c := trimCmd t.cmd
  let at_ (va n : Nat) : List (Nat × Nat) := match locate s.mem x .read va (piecesOf va n) with | .ok ps => ps | .error _ => []
  (if r.commit.isSome then
    ((s.trimSpareHandles x c).take r.used).flatMap (fun h => match s.attnEntry p h with
      | some (k, v) => at_ k 65536 ++ at_ v 65536
      | none => []) ++ at_ c.alt (8 * pagesFor r.kept)
   else []) ++ (if c.result = 0 then [] else at_ c.result 16)

/-- The handles that a trim references: its spares once its command block has been read, and the pages of its chain once its object, which
guards the chain, has been granted (R322). -/
def State.trimRefs (s : State) (p : Nat) (t : Trim) : List Nat :=
  let x := s.queueXlate p t.q
  let c := trimCmd t.cmd
  if t.cmd.isEmpty || t.ended.isSome then []
  else s.trimSpareHandles x c ++ (if t.granted then s.trimChainHandles x c else [])

/-- Whether a copy of the partition that has begun and not ended touches a granule of an ATTN page (R127). -/
def State.copiesPin (s : State) (p : Nat) (e : Nat × Nat) : Bool :=
  s.regions.any (fun x => x.2.part == p && x.2.seq.copies.any (fun y => !y.2.ended && y.2.desc.isNone &&
    (y.2.touches e.1 (e.1 + 65536) || y.2.touches e.2 (e.2 + 65536))))

/-- Whether an ATTN page handle is pinned: by a glow update that waits, by a trim other than number i, or by a copy under way over one of its
granules (R127, R322). -/
def State.attnPinned (s : State) (p i h : Nat) : Bool :=
  s.tiles.any (fun x => x.2.glow.any (fun g => g.handle.toNat == h) &&
    (match s.ownerOf x.1 with | some (_, r) => r.part == p | none => false)) ||
  (s.part p).trims.any (fun y => y.1 != i && (s.trimRefs p y.2).contains h) ||
  (match s.attnEntry p h with | some e => s.copiesPin p e | none => false)

/-- The trims that an uncorrectable error of a 32-byte word meets before their commit: each ends with PGFLT, its chain unchanged,
and its record carries DATA_LOST (R331, R426, R501; notes/assumptions 30). -/
def State.failTrims (s : State) (pa : Nat) : State :=
  let base := pa / 32 * 32
  let hit := s.parts.flatMap (fun x => (x.2.trims.filter (fun y => y.2.granted &&
    (s.trimReads x.1 y.2).any (fun q => decide (q.1 < base + 32) && decide (base < q.1 + q.2)))).map (fun y => (x.1, y)))
  hit.foldl (fun s z => (s.loseSpares z.1 z.2.2).trimEndAs z.1 z.2.1 z.2.2 (trimCmd z.2.2.cmd).result stDATALOST (trimWord0 ePGFLT 0 0) 0) s

/-- TRIM_POP: the partition's share of the trim engines takes the next TRIM record of a queue, within the quota of running trims,
or goes on with one whose object has not been requested (R129, R134, R329). -/
def execTrimPop (p q : Nat) (s : State) : Host.Outcome State Fault Refusal :=
  .next (let P := s.part p
    match P.trims.find? (fun x => x.2.q == q && x.2.so.isNone && x.2.fail.isNone && x.2.ended.isNone) with
    | some (i, t) => s.trimBegin p i t
    | none =>
      if P.quota 11 ≤ P.trims.length then s
      else
        match P.queues.find q with
        | none => s
        | some Q =>
          match Q.pop (fun r => r.cont.kind == kTRIM) (fun _ => false) with
          | none => s
          | some (r, _, Q) =>
            let i := P.trimNo
            let t : Trim := { q := q, cont := r.cont, num := r.trim, cmd := [], so := none, granted := false, fail := none, stack := none, ended := none }
            let s := s.modPart p fun P => { P with queues := P.queues.put q Q, trimNo := i + 1, trims := P.trims.put i t }
            s.trimBegin p i t)

/-- TRIM_EXECUTE: with the object granted and no page that it frees pinned, the command runs to its end, its record carrying DATA_LOST
where it read or wrote a lost granule; a revoked object ends it with REVOKED; a trim whose work is done writes its result once the page of
it is there (R322, R329, R346, R422, R426, R501). -/
def execTrimExecute (p i : Nat) (s : State) : Host.Outcome State Fault Refusal :=
  .next (match (s.part p).trims.find i with
    | none => s
    | some t =>
      let x := s.queueXlate p t.q
      match t.ended, t.fail with
      | some (st, w0, w1), _ => s.trimWaits p i t (fun s => s.trimResult p i t (trimCmd t.cmd).result st w0 w1)
      | none, some c => s.trimFail p i t c
      | none, none =>
        if !t.granted then s
        else if !((s.part p).heldBy (.trim i)).contains (hSlot (t.so.getD 0).toNat) then (s.loseSpares p t).trimFail p i t eREVOKED
        else
          s.trimWaits p i t (fun s =>
            let c := trimCmd t.cmd
            match s.trimRun p x c with
            | .error e => s.trimStop p i t e
            | .ok r =>
              if r.freed.any (s.attnPinned p i) then s
              else
                let lost := (s.trimReads p t ++ s.trimWrites p t r).any (fun q => s.granLost (q.1 / 65536))
                let s := match r.commit with
                  | some (tb, gen) => { s with journal := s.journal ++ [JEntry.trim p (w tb) gen] }
                  | none => s
                let s := r.freed.foldl (fun s h => s.freeAttn p x h) { s with mem := r.mem }
                s.trimEndAs p i t c.result (if lost then stDATALOST else stOK) (trimWord0 0 r.kept r.dropped)
                  (trimWord1 r.used r.freed.length)))

end Sys2Proof.Machine
end

