-- ==== Sys2Proof/Machine/Integrity.lean ====
section
/-! DEFINITION. Delivery of fault records (R407), integrity checks and their counts (R15, R433-R436), part failures and replay
(R423-R427), page migration (R171, R351) and self-test (R172, R173, R467, R468). -/

namespace Sys2Proof.Machine

open Sys2Proof.Config

/-! ### FAULT_RECORD_WRITE (R407) -/

/-- The oldest waiting record of a partition written at the tail of its fault ring where an entry is free, and the guest kernel's
fault interrupt raised. -/
def execFaultRecordWrite (p : Nat) (s : State) : Host.Outcome State Fault Refusal :=
  .next (let P := s.part p
    match P.desc, P.fqWait with
    | some d, r :: rest =>
      if 2 ^ d.fqlog - 1 ≤ P.fqUsed then s
      else
        let tail := (P.fqTail + 1) % 2 ^ d.fqlog
        let s := s.gwrite p (d.fqbase + 64 * P.fqTail) (r.bytes P.fqPhase 0)
        s.modPart p fun P => { P with
          fqWait := rest, fqTail := tail, fqPhase := if tail = 0 then !P.fqPhase else P.fqPhase, irq := true }
    | _, _ => s)

/-! ### Whose a location is -/

/-- Whether a tree of a stage-2 table, n levels high, maps a physical address. -/
def s2Holds (m : Memory) (pa : Nat) : Nat → Nat → Bool
  | 0, _ => false
  | n + 1, t =>
    (List.range (if n = 0 then 32 else 512)).any fun i =>
      let e := m.readN (t + 8 * i) 8
      let adr := nbits e 51 8 * 256
      e.testBit 0 &&
      (if !e.testBit 1 && !e.testBit 2 then s2Holds m pa n adr
       else decide (n ≤ 2) && decide (adr ≤ pa) && decide (pa < adr + leafSize (4 - n)))

/-- The partition whose stage 2 maps a physical address (R436). -/
def State.paOwner (s : State) (pa : Nat) : Option Nat :=
  (s.parts.find? (fun x =>
    match x.2.desc with
    | some d => s2Holds s.mem pa 5 d.s2root
    | none => false)).map (·.1)

/-! ### Seams (R15, R433) -/

/-- SEAM_BEAT_RETRY: a retry is counted; the eighth failure in a row of a lane retires it and freezes the region with UELINK. -/
def execSeamBeatRetry (seam lane rn : Nat) (s : State) : Host.Outcome State Fault Refusal :=
  .next (let k := seamLaneNo seam lane
    let n := s.seamFails.get k 0 + 1
    let s := s.modCount 0
    if n < 8 then { s with seamFails := s.seamFails.put k n }
    else
      let s := ({ s with seamFails := s.seamFails.del k, seamRetired := if s.seamRetired.contains k then s.seamRetired else s.seamRetired ++ [k] }).modCount 1
      s.faultFreeze rn 4 (FaultRec.of fUELINK 4))

/-! ### Parity and ECC (R433-R435) -/

/-- An uncorrectable error in a tile: the owner's region frozen with WHY 4, or the error counted. -/
def State.tileError (s : State) (tile : Nat) (r : Region → FaultRec) : State :=
  match s.ownerOf tile with
  | some (rn, g) => s.faultFreeze rn 4 (r g)
  | none => s.modCount 3

/-- PARITY_ERROR: the check of a FIFO of the tile's fails on the bits of a beat that has come to it, or that of a macro, a file or a delay line
on its own storage (R104, R433); the record names the element (R405). Bits that pass the check are no error. -/
def execParityError (site : ParitySite) (s : State) : Host.Outcome State Fault Refusal :=
  let tile := site.tile
  .next (if (match site with | .fifo _ x => parityOk x | .store _ => false) then s else s.tileError tile (fun g =>
    { FaultRec.of fPARITY 0 with place := w ((tileX tile - g.ocol) + 65536 * (tileY tile - g.orow)) }))

/-- A correctable error counted for the partition that owns the place. -/
def State.countCorr (s : State) (site : EccSite) : State :=
  match site with
  | .memory pa => match s.paOwner pa with | some p => s.errCount p 4 | none => s
  | .scratchpad tile _ => match s.ownerOf tile with | some (_, g) => s.errCount g.part 4 | none => s

/-- The record of an uncorrectable memory error. -/
def memErrRec (pa : Nat) : FaultRec := { FaultRec.of fUEMEM 4 with aux := w pa }

/-- The running periods of regions complete with DATA_LOST (R426). -/
def State.loseData (s : State) (rns : List Nat) : State :=
  { s with lostPeriods := s.lostPeriods ++
      rns.filterMap (fun rn => match s.region? rn with | some r => if r.run.isSome then some r.period else none | none => none) }

/-- Whether an address lies in the call journal of a service: each entry has a second copy, in another channel (R423, R429). -/
def State.inCallJournal (s : State) (pa : Nat) : Bool :=
  (List.range numParts).any (fun p => (s.part p).desc.isSome && (List.range 16).any (fun n =>
    let e := s.svcEntry p n
    svcValid e && (match locate s.mem (s.gpa p) .read (svcJournal e) (piecesOf (svcJournal e) (32 * svcNJournal e)) with
      | .ok ps => ps.any (fun q => decide (q.1 ≤ pa) && decide (pa < q.1 + q.2))
      | .error _ => false)))

/-- A 32-byte word that cannot be read becomes zero, and its granule is lost: it stands in a fresh frame under the address it had (R426;
notes/assumptions 26); of a call journal the other copy is used, and nothing is lost (R433). -/
def State.zeroWord (s : State) (pa : Nat) : State :=
  if s.inCallJournal pa then s else
  { s with
    mem := s.mem.zero (pa / 32 * 32) (pa / 32 * 32 + 32)
    lostGran := if s.lostGran.contains (pa / 65536) then s.lostGran else s.lostGran ++ [pa / 65536] }

/-- An uncorrectable error in memory: the trims that meet it end; the regions whose periods used or access the granule are frozen with
WHY 4 and their periods complete with DATA_LOST; with none, the record goes to the owner, or the error is counted (R331, R426, R434). -/
def State.memoryError (s : State) (pa : Nat) (users : List Nat) : State :=
  let s := s.failTrims pa
  let live := ((s.usersOf (· == pa / 65536)).filter (fun rn => !users.contains rn) ++ users).filter (fun rn => (s.region? rn).isSome)
  let s := (s.loseData live).zeroWord pa
  if live.isEmpty then
    match s.paOwner pa with
    | some p => s.post p true false (memErrRec pa)
    | none => s.modCount 3
  else live.foldl (fun s rn => s.faultFreeze rn 4 (memErrRec pa)) s

/-- MEMORY_ECC_ERROR. -/
def execMemoryEccError (site : EccSite) (correctable : Bool) (users : List Nat) (s : State) : Host.Outcome State Fault Refusal :=
  .next (if correctable then s.countCorr site
    else
      match site with
      | .memory pa => s.memoryError pa users
      | .scratchpad tile _ => s.tileError tile (fun _ => FaultRec.of fUEMEM 4))

/-- PATROL_SCRUB: a single-bit error is corrected and counted, a double-bit error raises UEMEM for its owner or is counted alone
(R435). -/
def execPatrolScrub (site : EccSite) (err : ScrubFinding) (s : State) : Host.Outcome State Fault Refusal :=
  .next (match err with
    | .clean => s
    | .singleBit => s.modCount 2
    | .doubleBit =>
      match site with
      | .memory pa => s.memoryError pa []
      | .scratchpad tile _ => s.tileError tile (fun _ => FaultRec.of fUEMEM 4))

/-! ### Part failures and replay (R423-R427) -/

/-- The pop of a journal that is the latest of its period, for periods not retired: period, partition, queue, region and record. -/
def openPops : List JEntry → List (Nat × Nat × Nat × Nat × Cont)
  | [] => []
  | .pop n p q _ rn c :: t =>
    let gone := t.any fun e =>
      match e with
      | .pop m .. => m == n
      | .retire m => m == n
      | _ => false
    if gone then openPops t else (n, p, q, rn, c) :: openPops t
  | _ :: t => openPops t

/-- A period replayed: the region that runs it gets a PARTFAIL record and is killed; with no such region its record, or the RESUME
of its latest commit image, is pushed again (R425). -/
def State.replayPeriod (s : State) (x : Nat × Nat × Nat × Nat × Cont) : State :=
  let (n, p, q, _, c) := x
  match s.regions.find? (fun y => y.2.run.isSome && y.2.period == n) with
  | some (rn, _) => (s.postRg p rn true false (FaultRec.of fPARTFAIL 4)).kill rn none
  | none => s.pushOr p q (s.queueXlate p q) (if (s.commitImage n).isSome then resumeOf c else c) (some n)

/-- Whether a journalled pop used a failed part: it was made by a region that used it, or such a region runs it now. -/
def State.usedBy (s : State) (users : List Nat) (x : Nat × Nat × Nat × Nat × Cont) : Bool :=
  users.contains x.2.2.2.1 || users.any (fun rn => match s.region? rn with | some r => r.run.isSome && r.period == x.1 | none => false)

/-- The LANTERN records a core popped that are not retired, pushed again (R425). -/
def State.repush (s : State) (h : Nat) : State :=
  let mine (e : JEntry) : Bool := match e with | .lanternPop _ _ _ n _ => n == h | _ => false
  let es := s.journal.filter mine
  es.foldl (fun s e =>
    match e with
    | .lanternPop p q _ _ c => s.pushOr p q (s.queueXlate p q) c none
    | _ => s) { s with journal := s.journal.filter (fun e => !mine e) }

/-- The regions whose periods used a part: the one that is the part, or those the failure names and those that used a granule it held. -/
def State.partUsers (s : State) (part : FailedPart) (users : List Nat) : List Nat :=
  match part with
  | .sequencer sq => [sq]
  | .regionArea rn => [rn]
  | .lanternCore _ => []
  | .journalCopies _ => []
  | .pseudoChannel .. => users ++ s.usersOf s.granLost
  | _ => users

/-- Work whose two journal copies are both lost is reported with PARTFAIL: there is no record to push again, so its period ends with
DATA_LOST, as R501 has a part failure end it (R406, R427). -/
def State.reportLost (s : State) (x : Nat × Nat × Nat × Nat × Cont) : State :=
  let (n, p, q, _, c) := x
  match s.regions.find? (fun y => y.2.run.isSome && y.2.period == n) with
  | some (rn, _) => (s.postRg p rn true false (FaultRec.of fPARTFAIL 4)).kill rn (some stDATALOST)
  | none =>
    { s with journal := s.journal ++ [JEntry.retire n] }.post p true false (FaultRec.of fPARTFAIL 4)
      |>.retireJoin p (s.queueXlate p q) c.join.toNat stDATALOST c.iidx

/-- PART_FAILURE: the part is out of service for this boot; words of a failed pseudo-channel that cannot be read become zero, and
the periods that used one of its granules complete with DATA_LOST; the periods that used the part are replayed (R423-R427). -/
def execPartFailure (part : FailedPart) (users lost : List Nat) (s : State) : Host.Outcome State Fault Refusal :=
  .next (let s : State := { s with failed := if s.failed.contains part then s.failed else s.failed ++ [part] }
    let us := s.partUsers part users
    let s := match part with
      | .pseudoChannel stack pc =>
        let gone := lost.filter (fun pa => paDevice pa && !paLpddr pa && stackOf pa == stack && nbits pa 18 11 == pc)
        gone.foldl State.zeroWord ((gone.foldl State.failTrims s).loseData us)
      | _ => s
    match part with
    | .journalCopies ns => ((openPops s.journal).filter (fun x => ns.contains x.1)).foldl State.reportLost s
    | .lanternCore h => (((openPops s.journal).filter (s.usedBy us)).foldl State.replayPeriod s).repush h
    | _ => ((openPops s.journal).filter (s.usedBy us)).foldl State.replayPeriod s)

/-! ### Page migration (R171, R351) -/

/-- The limits of the descriptor of pg.mig. -/
def migOk (b : List Byte) : Bool :=
  fieldAt b 0 8 % 65536 == 0 && inR (fieldAt b 8 4) 1 16384 && decide (fieldAt b 12 1 ≤ 1) && zeroAt b 13 16 &&
  fieldAt b 16 8 % 8 == 0 && zeroAt b 24 32

/-- The entry that maps a granule for a translation: the stage-2 leaf where there is a stage 2, else the stage-1 leaf; with the
physical address of the page it maps, and the stage-1 bytes below the granule in the page. -/
def migLeaf (m : Memory) (x : Xlate) (va : Nat) : Option (Leaf × Nat) :=
  match walk1 m x va with
  | .error _ => none
  | .ok e1 =>
    match walk2 m x.s2 e1.addr with
    | .error _ => none
    | .ok e2 =>
      if x.s2.isSome then some (e2, e2.addr - e1.addr % e2.size) else some (e1, e1.addr - va % e1.size)

/-- Whether a range splits a large page: one of either stage that maps a granule of it and another granule that is not of it. -/
def migSplits (m : Memory) (x : Xlate) (va n : Nat) : Bool :=
  let leaves := (List.range n).filterMap (fun i =>
    match walk1 m x (va + 65536 * i) with
    | .ok e1 => some (va + 65536 * i, e1)
    | .error _ => none)
  let gas := leaves.map (fun y => y.2.addr / 65536)
  leaves.any (fun y =>
    decide (y.1 - y.1 % y.2.size < va) || decide (va + 65536 * n < y.1 - y.1 % y.2.size + y.2.size) ||
    (match walk2 m x.s2 y.2.addr with
     | .error _ => false
     | .ok e2 => (List.range (e2.size / 65536)).any (fun j => !gas.contains ((y.2.addr - y.2.addr % e2.size) / 65536 + j))))

/-- The number of a new migration. -/
def State.migNo (s : State) : Nat :=
  ((List.range (s.migs.length + 1)).find? (fun i => (s.migs.find i).isNone)).getD 0

/-- pg.mig (R171): an M-mode hart's addresses are physical, and there is no page to move (notes/assumptions 36). -/
def execPgMig (rd rs1 rs2 : Reg) (s : State) : Host.Outcome State Fault Refusal :=
  .next (s.xPriv rd 1 (some rs2) (fun h s =>
    if h.get rs1 ≠ 0 then s.xErr rd eBADARG
    else
      s.xBlock rd h (h.get rs2) 32 8 (fun b s =>
        let va := fieldAt b 0 8
        if !migOk b || h.xlate.s1.isNone && h.xlate.s2.isNone || migSplits s.mem h.xlate va (fieldAt b 8 4) then s.xErr rd eBADARG
        else
          let g : Migration := { base := w va, count := fieldAt b 8 4, tier := fieldAt b 12 1, done := w (fieldAt b 16 8)
                                 xl := h.xlate, moved := 0, code := none }
          { s with migs := s.migs.put s.migNo g }.xResult rd 0)))

/-- A migration that has ended: its DONE word written, withheld where that page faults (R144); with any other fault nothing is written
(DESIGN CHOICE; notes/assumptions 44). -/
def State.migEnd (s : State) (i : Nat) (g : Migration) (code : Nat) : State :=
  let g := { g with code := some code }
  match vwrite s.mem g.xl g.done.toNat (leBytes (2 ^ 63 + g.moved * 2 ^ 16 + code) 8) with
  | .ok m => { s with mem := m, migs := s.migs.del i }
  | .error (o, f) =>
    if f.kind == .page then
      { s with migs := s.migs.put i g }.withholdHart 4096 (.mig i) g.xl o f true (g.done.toNat + o)
    else { s with migs := s.migs.del i }

/-- Whether a frame of n bytes may take a page: in the tier, aligned, and mapped by no partition. -/
def State.frameFree (s : State) (tier f n : Nat) : Bool :=
  f % n == 0 && paDevice f && paDevice (f + n - 1) && paLpddr f == (tier == 1) && paLpddr (f + n - 1) == (tier == 1) &&
  (List.range (n / 65536)).all (fun i => (s.paOwner (f + 65536 * i)).isNone)

/-- A page moved: its bytes in the frame, its entry naming the frame, the old frame zero (R439). -/
def movePage (m : Memory) (l : Leaf) (old new n : Nat) : Memory :=
  let m := (m.zero new (new + n)).write new (m.read old n)
  let e := m.readN l.at_ 8
  (m.writeN l.at_ 8 (e - nbits e 51 8 * 256 + new)).zero old (old + n)

/-- A granule that has moved with the page at `old` to the one at `new`, of n bytes. -/
def granMoved (old new n pa : Nat) : Nat := if old ≤ pa ∧ pa < old + n then pa - old + new else pa

/-- A page moved, with the shadows that in-place periods hold of its granules and those that stand in it, and with what is known of its
granules: who has used them, and whether they have lost a word (R171, R424, R426). -/
def State.movePage (s : State) (l : Leaf) (old new n : Nat) : State :=
  { s with
    used := s.used.map (fun x => (x.1, granMoved old new n (65536 * x.2) / 65536))
    lostGran := s.lostGran.map (fun g => granMoved old new n (65536 * g) / 65536)
    mem := Sys2Proof.Machine.movePage s.mem l old new n
    regions := s.regions.map (fun (x : Nat × Region) => (x.1, { x.2 with shadows := x.2.shadows.map (fun (y : Shadow) =>
      { y with pa := granMoved old new n (65536 * y.pa) / 65536, own := granMoved old new n (65536 * y.own) / 65536 }) })) }

/-- PG_MIG_GRANULE: the next granule of a migration, with the whole of its page where that is large, moves to a frame of the target
tier that the device gives, or is counted as moved where it is there, as the later granules of a moved page are; QUOTA without a frame
(R171). -/
def execPgMigGranule (i : Nat) (frame : Option Nat) (s : State) : Host.Outcome State Fault Refusal :=
  .next (match s.migs.find i with
    | none => s
    | some g =>
      if s.isHeld g.xl.part (.mig i) then s
      else
        match g.code with
        | some c => s.migEnd i g c
        | none =>
          if g.count ≤ g.moved then s.migEnd i g 0
          else
            let va := g.base.toNat + 65536 * g.moved
            match translate s.mem g.xl va .read with
            | .error f =>
              if f.kind == .page then s.withholdHart 4096 (.mig i) g.xl (65536 * g.moved) f false va else s.migEnd i g ePGFLT
            | .ok (pa, _) =>
              match migLeaf s.mem g.xl va with
              | none => s.migEnd i g ePGFLT
              | some (l, old) =>
                let next := { g with moved := g.moved + 1 }
                if !paDevice pa then s.migEnd i g ePGFLT
                else if paLpddr pa == (g.tier == 1) then { s with migs := s.migs.put i next }
                else
                  match frame with
                  | none => s.migEnd i g eQUOTA
                  | some f =>
                    if s.frameFree g.tier f l.size then { s.movePage l old f l.size with migs := s.migs.put i next } else s)

/-! ### Self-test (R172, R173, R467) -/

/-- The limits of the operand of bist.run. -/
def bistOk (v : Dword) : Bool :=
  let c := bits v 5 2
  bits v 63 18 == 0 && bits v 15 14 == 0 && bits v 1 0 != 3 && !(bits v 1 0 == 0 && decide (100 ≤ bits v 12 6)) &&
  !(bits v 1 0 == 2 && (if bit v 13 then c / 4 == 3 else c % 4 == 3))

/-- Whether a self-test covers a sequencer: one of the chiplet under test (R22, R172). -/
def testsSeq (op rn : Nat) : Bool := nbits op 1 0 == 1 && decide (rn < numSeqs) && rn / seqsPerChip == nbits op 5 2

/-- bist.run. -/
def execBistRun (rd rs1 rs2 : Reg) (s : State) : Host.Outcome State Fault Refusal :=
  .next (s.xPriv rd 2 (some rs2) (fun h s =>
    let v := h.get rs1
    if !bistOk v || (h.get rs2).toNat % 4096 ≠ 0 then s.xErr rd eBADARG
    else if s.regions.any (fun x => testMeets v.toNat x.2.rect || testsSeq v.toNat x.1) then s.xErr rd eBUSY
    else
      let n := h.bistNo
      (s.modHart s.curHart fun x => { x with
        bists := x.bists.put n (0, v.toNat, 0, h.get rs2, h.xlate), bistNo := (n + 1) % 65536 }).xResult rd (w n)))

/-- bist.stat. -/
def execBistStat (rd rs1 : Reg) (s : State) : Host.Outcome State Fault Refusal :=
  .next (s.xPriv rd 2 none (fun h s =>
    match h.bists.find (h.get rs1).toNat with
    | none => s.xErr rd eBADARG
    | some (st, _, recs, _, _) => s.xResult rd (w (st + recs * 2 ^ 16))))

/-- The tile of a failed item's WHERE. -/
def bistTile (place : Word) : Nat := chipTile (bits place 3 0) (bits place 19 12 * chipSide + bits place 11 4)

/-- A failed item put into a list in ascending WHERE. -/
def insertFail (a : BistFail) : List BistFail → List BistFail
  | [] => [a]
  | b :: t => if a.place.toNat ≤ b.place.toNat then a :: b :: t else b :: insertFail a t

/-- Whether the operand of a test selects an item: element storage by MEMORY, every other item by LOGIC, both by neither bit; a window has
elements and switches, a chiplet its sequencers too, a seam its lanes (R172, R467; notes/assumptions 27). -/
def bistItem (op item : Nat) : Bool :=
  (nbits op 17 16 == 0 || op.testBit (if item = 1 then 17 else 16)) &&
  (match nbits op 1 0 with
   | 0 => decide (item ≤ 2)
   | 1 => decide (item ≤ 3)
   | _ => item == 4)

/-- Whether a failed item stands in what a test covers. -/
def bistInside (op : Nat) (f : BistFail) : Bool :=
  bits f.place 31 26 == 0 && decide (bits f.place 11 4 < chipSide) && decide (bits f.place 19 12 < chipSide) &&
  (if f.item = 3 then bits f.place 3 0 == nbits op 5 2
   else testMeets op { x := tileX (bistTile f.place), y := tileY (bistTile f.place), wd := 1, ht := 1 })

/-- The failed items a test records: those of its items and its footprint; elements fused off and lost windows are not tested, but the switch
of a fused-off element is (R17, R172, R467). -/
def State.bistFails (s : State) (op : Nat) (fails : List BistFail) : List BistFail :=
  (fails.filter (fun f => bistItem op f.item && bistInside op f &&
    (decide (2 < f.item) || !(if f.item = 2 then s.lostAt (bistTile f.place) else s.fusedAt (bistTile f.place))))).foldr insertFail []

/-- A record of a self-test (R467). -/
def bistRec (test item result : Nat) (place : Word) (expect observed : Dword) : List Byte :=
  leBytes test 2 ++ leBytes item 1 ++ leBytes result 1 ++ leBytes place.toNat 4 ++ leBytes expect.toNat 8 ++
  leBytes observed.toNat 8 ++ List.replicate 8 0

/-- The records of a test: at most 127 failed items, then the summary. `tested` is the number of items tested. -/
def bistRecords (test : Nat) (fails : List BistFail) (tested : Word) (cycles : Nat) : List (List Byte) :=
  (fails.take 127).map (fun f => bistRec test f.item 1 f.place f.expect f.observed) ++
  [bistRec test 7 ((if fails.isEmpty then 1 else 2) + 128 * b2n (decide (127 < fails.length))) tested (w fails.length) (w cycles)]

/-- BIST_COMPLETE: the records written, the tiles under test zero; how many items a test counts the spec does not say: a free
value. A page fault withholds the write; with any other fault the test has failed with no record (R144). -/
def execBistComplete (h test : Nat) (fails : List BistFail) (cycles : Nat) (s : State) : Host.Outcome State Fault Refusal :=
  .next (match (s.hart h).bists.find test with
    | none => s
    | some (st, op, _, buf, x) =>
      if st ≠ 0 || s.isHeld x.part (.bist h test) then s
      else
        let fs := s.bistFails op fails
        let rs := bistRecords test fs (freeWord s.freeCtr) cycles
        let done (s : State) (st n : Nat) : State :=
          let tiles := s.tiles.filter (fun t => !testMeets op { x := tileX t.1, y := tileY t.1, wd := 1, ht := 1 })
          { s with freeCtr := s.freeCtr + 1, tiles := tiles }.modHart h fun y => { y with bists := y.bists.put test (st, op, n, buf, x) }
        match vwrite s.mem x buf.toNat rs.flatten with
        | .ok m => done { s with mem := m } (if fs.isEmpty then 1 else 2) rs.length
        | .error (o, f) =>
          if f.kind == .page then s.withholdHart 4096 (.bist h test) x o f true (buf.toNat + o) else done s 2 0)

end Sys2Proof.Machine
end

