-- ==== Sys2Proof/Machine/LanternMem.lean ====
section
/-! DEFINITION. Loads, stores, LR, SC and AMO of a Lantern hart (R21, R500; RISC-V's meaning of each, notes/assumptions 3). -/

namespace Sys2Proof.Machine

/-! ### What the accesses compute -/

/-- A value of n bytes sign-extended or zero-extended to a register. -/
def loadValue (bs : List Byte) (signed : Bool) : Dword := if signed then wi 64 (snat (8 * bs.length) (leNat bs)) else w (leNat bs)

/-- A value of n bytes in a floating register: the bits above it are ones. -/
def boxed (bs : List Byte) : Dword := w (2 ^ 64 - 2 ^ (8 * bs.length) + leNat bs)

/-- What an AMO on n bits leaves in memory, from the old value and the register's. -/
def amoValue (op : AmoOp) (n a b : Nat) : Nat :=
  match op with
  | .swap => b
  | .add => (a + b) % 2 ^ n
  | .xor => a ^^^ b
  | .and => a &&& b
  | .or => a ||| b
  | .min => if snat n a ≤ snat n b then a else b
  | .max => if snat n a ≤ snat n b then b else a
  | .minu => min a b
  | .maxu => max a b

/-! ### The accesses -/

/-- The first address of a hart's access that is below the least privilege of what stands there (R12, R449). -/
def State.lanDenied (s : State) (h : Nat) (va n : Nat) (write : Bool) : Option Nat :=
  s.denied (s.hart h).mode.level (s.hart h).xlate va n write

/-- Such an access: a PRIV record, no effect on what it names, no data in a register; the hart goes on (R12). -/
def State.lanPriv (s : State) (h len : Nat) (va : Nat) (write : Bool) : State :=
  (s.priv (s.hart h).xlate.part (s.hart h).mode.level (privRec 4 va write)).modHart h (Hart.past len)

/-- A read by a hart, with its exception. -/
def State.lanRead (s : State) (h len : Nat) (va n : Nat) (f : List Byte → State) : State :=
  match vread s.mem (s.hart h).xlate va n with
  | .ok bs => (match s.lanDenied h va n false with | some a => s.lanPriv h len a false | none => f bs)
  | .error (o, x) => s.hartFault h x false false (va + o)

/-- The physical pieces of a write that does not fault. -/
def State.written (s : State) (h va n : Nat) : List (Nat × Nat) :=
  match locate s.mem (s.hart h).xlate .write va (piecesOf va n) with
  | .ok ps => ps
  | .error _ => []

/-- The reservations of the other harts that a hart's write to pieces of memory ends. -/
def State.endReservations (s : State) (h : Nat) (ps : List (Nat × Nat)) : State :=
  let f (n : Nat) (x : Hart) : Hart := match x.resv with
    | some (pa, bs) => if n != h && ps.any (fun q => decide (q.1 < pa + bs.length) && decide (pa < q.1 + q.2)) then { x with resv := none } else x
    | none => x
  { s with harts := s.harts.map (fun (y : Nat × Hart) => (y.1, f y.1 y.2)) }

/-- A write by a hart, with its exception. -/
def State.lanWrite (s : State) (h len : Nat) (va : Nat) (bs : List Byte) (f : State → State) : State :=
  match vwrite s.mem (s.hart h).xlate va bs with
  | .ok m =>
    match s.lanDenied h va bs.length true with
    | some a => s.lanPriv h len a true
    | none => f ({ s with mem := m }.endReservations h (s.written h va bs.length))
  | .error (o, x) => s.hartFault h x true false (va + o)

/-- An access that must be aligned: its exception, or the physical address. -/
def State.lanAtomic (s : State) (h len : Nat) (va n : Nat) (a : Access) (f : Nat → State) : State :=
  let write := a != .read
  if va % n ≠ 0 then s.hartTrap h (if write then cSTOREMISAL else cLOADMISAL) (w va) 0
  else
    match translate s.mem (s.hart h).xlate va a with
    | .ok (pa, _) => (match s.lanDenied h va n write with | some a => s.lanPriv h len a write | none => f pa)
    | .error x => s.hartFault h x write false va

/-- The active elements of a vector load, each read, with the byte of the register group it stands at; the first fault, given by its
address, ends the access with nothing written. An element is given by its number in the group and the offset of its bytes from the address,
so that unit-stride, strided, indexed and segment accesses are all of this form. -/
def gatherElems (m : Memory) (x : Xlate) (va : Dword) (size : Nat) : List (Nat × Dword) → Except (Nat × XFault) (List (Nat × List Byte))
  | [] => .ok []
  | (e, o) :: t =>
    match vread m x (va + o).toNat size with
    | .error (k, f) => .error ((va + o).toNat + k, f)
    | .ok bs => (gatherElems m x va size t).map (fun r => (e * size, bs) :: r)

/-- The active elements of a vector store, all located before any is written. -/
def scatterElems (m : Memory) (x : Xlate) (va : Dword) (size : Nat) (v : List Byte) : List (Nat × Dword) → Except (Nat × XFault) Memory
  | [] => .ok m
  | (e, o) :: t =>
    match vwrite m x (va + o).toNat ((v.drop (e * size)).take size) with
    | .error (k, f) => .error ((va + o).toNat + k, f)
    | .ok m => scatterElems m x va size v t

/-- The first address of a vector access that is below the least privilege of what stands there. -/
def State.vecDenied (s : State) (h : Nat) (va : Dword) (size : Nat) (elems : List (Nat × Dword)) (write : Bool) : Option Nat :=
  elems.findSome? (fun e => s.lanDenied h (va + e.2).toNat size write)

/-- Bytes put into a register at an offset. -/
def overlay (v : List Byte) (o : Nat) (bs : List Byte) : List Byte := v.take o ++ bs ++ v.drop (o + bs.length)

/-- The bytes of a register group, and the group with the elements loaded, the others undisturbed. -/
def Hart.vecGroup (x : Hart) (v : Reg) : List Byte := (x.v.drop v.toNat).flatten
def Hart.putVector (x : Hart) (vd : Reg) (es : List (Nat × List Byte)) : Hart :=
  { x with v := es.foldl (fun (v : List (List Byte)) e =>
      let r := vd.toNat + e.1 / 32
      v.set r (overlay (nth v r []) (e.1 % 32) e.2)) x.v }

/-- The access of a hart that makes it with a word of `len` bytes. -/
def State.lanAccessBy (s : State) (h len : Nat) (op : LanOp) (addr : Dword) : State :=
  let x := s.hart h
  let va := addr.toNat
  let done (s : State) (f : Hart → Hart) : State := s.modHart h fun y => (f y).past len
  match op with
  | .load log signed rd => s.lanRead h len va (2 ^ log.toNat) fun bs => done s fun y => y.set rd (loadValue bs signed)
  | .store log rs2 => s.lanWrite h len va (leBytes (x.get rs2).toNat (2 ^ log.toNat)) fun s => done s id
  | .fload log fd => s.lanRead h len va (2 ^ log.toNat) fun bs => done s fun y => { y with f := y.f.set fd.toNat (boxed bs) }
  | .fstore log fs => s.lanWrite h len va (leBytes (nth x.f fs.toNat 0).toNat (2 ^ log.toNat)) fun s => done s id
  | .lr log rd =>
    let n := 2 ^ log.toNat
    s.lanAtomic h len va n .read fun pa =>
      let bs := s.mem.read pa n
      done s fun y => { y.set rd (loadValue bs true) with resv := some (pa, bs) }
  | .sc log rd rs2 =>
    let n := 2 ^ log.toNat
    s.lanAtomic h len va n .write fun pa =>
      let ok := match x.resv with
        | some (a, bs) => a == pa && bs.length == n && s.mem.read pa n == bs
        | none => false
      let s := if ok then ({ s with mem := s.mem.write pa (leBytes (x.get rs2).toNat n) }.endReservations h [(pa, n)]) else s
      done s fun y => { y.set rd (if ok then 0 else 1) with resv := none }
  | .amo aop log rd rs2 =>
    let n := 2 ^ log.toNat
    s.lanAtomic h len va n .atomic fun pa =>
      let old := s.mem.read pa n
      let new := amoValue aop (8 * n) (leNat old) ((x.get rs2).toNat % 2 ^ (8 * n))
      done ({ s with mem := s.mem.write pa (leBytes new n) }.endReservations h [(pa, n)]) fun y => y.set rd (loadValue old true)
  | .vload log vd elems =>
    match gatherElems s.mem x.xlate addr (2 ^ log.toNat) elems with
    | .ok es =>
      match s.vecDenied h addr (2 ^ log.toNat) elems false with
      | some a => s.lanPriv h len a false
      | none => done s fun y => y.putVector vd es
    | .error (a, f) => s.hartFault h f false false a
  | .vstore log vs elems =>
    match scatterElems s.mem x.xlate addr (2 ^ log.toNat) (x.vecGroup vs) elems with
    | .ok m =>
      match s.vecDenied h addr (2 ^ log.toNat) elems true with
      | some a => s.lanPriv h len a true
      | none => done ({ s with mem := m }.endReservations h (elems.flatMap (fun (e : Nat × Dword) => s.written h (addr + e.2).toNat (2 ^ log.toNat)))) id
    | .error (a, f) => s.hartFault h f true false a

/-- The access of a hart with a 4-byte word. -/
def State.lanAccess (s : State) (h : Nat) (op : LanOp) (addr : Dword) : State := s.lanAccessBy h 4 op addr

/-- LANTERN_LOAD_STORE (R500). -/
def execLanternLoadStore (h : Nat) (op : LanOp) (addr : Dword) (s : State) : Host.Outcome State Fault Refusal :=
  .next (if (s.hart h).wait.isSome || s.hartOut h then s else s.lanAccess h op addr)

end Sys2Proof.Machine
end

