-- ==== Sys2Proof/Machine/Loader.lean ====
section
/-! DEFINITION. The Lantern loader (R31, R189, R190, R480, R482): check, signatures, placement and install of one object. -/

namespace Sys2Proof.Machine

open Sys2Proof.Config

/-! ### Signatures (R35, R189, R480) -/

/-- The entry of a partition's trusted-key table for a key identifier; 0 marks an empty entry. -/
def State.trustedKey (s : State) (p : Nat) (id : List Byte) : Option (List Byte) :=
  match (s.part p).desc with
  | none => none
  | some d =>
    let es := (List.range 64).map (fun i => s.mem.read (d.keytab + 192 * i) 192)
    es.find? (fun e => e.take 8 == id && fieldAt e 0 8 != 0)

/-- The failures of the two signatures of an object under a key: bit 0 ECDSA, bit 1 LMS; both are evaluated. -/
def sigFailures (b key : List Byte) : Nat :=
  let x := (objPart b 15).getD []
  let msg := match (objSects b).find? (fun y => y.type == 15) with | some y => b.take y.off | none => []
  b2n (!ecdsaP384 ((key.drop 8).take 97) (sha384 msg) ((x.drop 8).take 96)) +
  2 * b2n (!lms ((key.drop 105).take 56) msg ((x.drop 108).take (fieldAt x 104 4)))

/-- Code and detail of what forbids an object, before any placement (R190). -/
def State.loadRefusal (s : State) (p : Nat) (b : List Byte) : Option (Nat × Nat) :=
  match objCheck b with
  | some o => some (1, o)
  | none =>
    if !(fieldAt b 6 2).testBit 0 then
      (match (s.part p).desc with | some d => if d.reqsig then some (2, 0) else none | none => none)
    else
      match s.trustedKey p (((objPart b 15).getD []).take 8) with
      | none => some (3, 0)
      | some key => if sigFailures b key = 0 then none else some (4, sigFailures b key)

/-! ### The install (R156, R196) -/

/-- The state an instruction that always goes on ends in. -/
def nextOf (s : State) : Host.Outcome State Fault Refusal → State
  | .next t => t
  | _ => s

/-- One word of a stream performed. -/
def State.streamWord1 (s : State) (esc : Bool) (x : Word) : State :=
  nextOf s (match decodeStream esc x with
    | .cfgNop v => execCfgNop v s
    | .cfgBegin v => execCfgBegin v s
    | .cfgEnd v => execCfgEnd v s
    | .cfgWin v => execCfgWin v s
    | .cfgHi v => execCfgHi v s
    | .cfgSect v => execCfgSect v s
    | .cfgEsc v => execCfgEsc v s
    | .cfgZwin v => execCfgZwin v s
    | .cfgElementWrite i f v => execCfgElementWrite i f v s
    | _ => execBadcmd x s)

/-- The install of a region run on: until it ends, or a word's page faults. -/
def State.runInstall : Nat → State → Nat → State
  | 0, s, _ => s
  | n + 1, s, rn =>
    match s.streamFetch rn with
    | .inl t => t
    | .inr (esc, x) => State.runInstall n ({ s with curReg := rn }.streamWord1 esc x) rn

/-- The graph of an object as a partition holds it. -/
def graphOf (b : List Byte) : Graph :=
  { ghash := (b.drop 16).take 32
    seqs := (objParts b 2).map (fun bs => (List.range (bs.length / 4)).map (fun k => w (fieldAt bs (4 * k) 4)))
    inPlace := inPlace (objCanon b) }

/-- The loader's return: code in a0, detail in a1, and with OK the handle of the loaded graph in a2 (notes/assumptions 38). -/
def State.loadReturn (s : State) (h code detail : Nat) : State := s.modHart h fun x => (x.set 10 (w code)).set 11 (w detail)

/-- The end of a load: OK with the object's graph in the partition, or INSTALL with the first 8 bytes of the result of rg.cfg, which stand in
the work buffer or wait to be written there; nothing then stays installed: the loader clears the region as the BEGIN of another rg.cfg
does, and leaves it CLAIMED (R190, R196; notes/assumptions 38). Nothing while the install is not over. -/
def State.loadEnd (s : State) (rn h : Nat) (x : Xlate) (b : List Byte) (buf : Nat) : State :=
  match s.region? rn with
  | none => s
  | some r =>
    if r.inst.isSome then s
    else if r.state == .ready then
      let (slot, s) := s.freeSlot r.part tblGraph
      let s := s.modPart r.part fun P => { P with graphs := P.graphs.put slot (graphOf b) }
      let gh := (s.part r.part).handle tblGraph slot
      (s.loadReturn h 0 (s.rgHandle r)).modHart h fun y => y.set 12 (w gh)
    else
      let s := s.zeroTiles r
      match vread s.mem x (buf + 32) 16 with
      | .ok rs => s.loadReturn h (16 + fieldAt rs 0 2) (fieldAt rs 0 8)
      | .error _ =>
        let rs := match (s.part r.part).results.find? (fun c => c.addr.toNat == buf + 32) with | some c => c.bytes | none => []
        s.loadReturn h (16 + (if rs.isEmpty then cPGFLT else fieldAt rs 0 2)) (fieldAt rs 0 8)

/-- The descriptor of rg.cfg at the start of the work buffer (R156, R482). -/
def cfgDesc (buf n : Nat) : List Byte := leBytes (buf + 64) 8 ++ leBytes n 4 ++ List.replicate 4 0 ++ leBytes (buf + 32) 8 ++ List.replicate 8 0

/-- The install of a placed object started and run: descriptor and stream in the work buffer, then rg.cfg. -/
def State.loadInstall (s : State) (rn h : Nat) (r : Region) (x : Xlate) (b : List Byte) (buf : Nat) (ws : List Word) : State :=
  match vwrite s.mem x buf (cfgDesc buf ws.length ++ List.replicate 32 0 ++ wordBytes ws) with
  | .error (o, f) => s.hartFault h f true false (buf + o)
  | .ok m =>
    let i := newInstall (r.state == .claimed) false (w (buf + 64)) ws.length x (w (buf + 32)) 0 0
    let s := { s with mem := m }.modRegion rn fun g => { g with state := .installing, inst := some i }
    (State.runInstall (ws.length + 1) s rn).loadEnd rn h x b buf

/-- Whether the install of a region is one that the loader started from a work buffer. -/
def Region.loadingFrom (r : Region) (buf : Nat) : Bool :=
  match r.inst with
  | some i => r.state == .installing && !i.byCfg && i.va.toNat == buf + 64
  | none => false

/-- LOADER_LOAD: the object at `obj` checked, verified, placed for the region and installed from the work buffer; an install that waits for
a page goes on at the next step (R190). -/
def execLoaderLoad (rn h : Nat) (obj buf : Dword) (s : State) : Host.Outcome State Fault Refusal :=
  .next (let y := s.hart h
    let x := y.xlate
    match s.region? rn with
    | none => s
    | some r =>
      if y.wait.isSome || s.hartOut h || y.mode.level < 1 || r.part ≠ y.actPart || r.freeing then s
      else
        match readObject s.mem x obj.toNat with
        | .error (o, f) => s.hartFault h f false false (obj.toNat + o)
        | .ok b =>
          if r.loadingFrom buf.toNat then
            (State.runInstall ((match r.inst with | some i => i.count | none => 0) + 1) s rn).loadEnd rn h x b buf.toNat
          else if !(r.state == .claimed || r.state == .ready) || buf.toNat % 64 ≠ 0 then s
          else
            match s.loadRefusal r.part b with
            | some (code, detail) => s.loadReturn h code detail
            | none =>
              match s.place r.part b r.width r.height r.ocol r.orow false ((fieldAt b 6 2).testBit 1) with
              | .error c => s.loadReturn h 5 c
              | .ok (_, e) => (s.cachePlace r.part e).loadInstall rn h r x b buf.toNat e.words)

end Sys2Proof.Machine
end

