-- ==== Sys2Proof/Machine/SeqAlu.lean ====
section
/-! DEFINITION. The scalar arithmetic of the graph sequencer (R203, R204). -/

namespace Sys2Proof.Machine

/-! ### The functions of R203 on 64-bit values -/

def aluAdd (a b : Dword) : Dword := a + b
def aluSub (a b : Dword) : Dword := a - b
def aluAnd (a b : Dword) : Dword := a &&& b
def aluOr (a b : Dword) : Dword := a ||| b
def aluXor (a b : Dword) : Dword := a ^^^ b
def aluSll (a b : Dword) : Dword := a <<< (b.toNat % 64)
def aluSrl (a b : Dword) : Dword := a >>> (b.toNat % 64)
def aluSra (a b : Dword) : Dword := a.sshiftRight (b.toNat % 64)
def aluSlt (a b : Dword) : Dword := if a.slt b then 1 else 0
def aluSltu (a b : Dword) : Dword := if a.ult b then 1 else 0
def aluMul (a b : Dword) : Dword := a * b
def aluMulhu (a b : Dword) : Dword := (a.setWidth 128 * b.setWidth 128).extractLsb' 64 64

/-- An R-format ALU instruction: D = f(A, B) (R203). -/
def State.aluR (s : State) (f : Dword → Dword → Dword) (d : Reg) (a b : Src) : State :=
  s.issue [a, b] (some d) (fun r s => s.seqResult d (f (r.src a) (r.src b)))

/-- An I-format ALU instruction: D = f(A, B) with B the extended immediate (R204). -/
def State.aluI (s : State) (f : Dword → Dword → Dword) (d : Reg) (a : Src) (v : Dword) : State :=
  s.issue [a] (some d) (fun r s => s.seqResult d (f (r.src a) v))

/-! ### The instructions -/

/-- ADD (R203). -/
def execAdd (d : Reg) (a b : Src) (s : State) : Host.Outcome State Fault Refusal := .next (s.aluR aluAdd d a b)
/-- SUB (R203). -/
def execSub (d : Reg) (a b : Src) (s : State) : Host.Outcome State Fault Refusal := .next (s.aluR aluSub d a b)
/-- AND (R203). -/
def execAnd (d : Reg) (a b : Src) (s : State) : Host.Outcome State Fault Refusal := .next (s.aluR aluAnd d a b)
/-- OR (R203). -/
def execOr (d : Reg) (a b : Src) (s : State) : Host.Outcome State Fault Refusal := .next (s.aluR aluOr d a b)
/-- XOR (R203). -/
def execXor (d : Reg) (a b : Src) (s : State) : Host.Outcome State Fault Refusal := .next (s.aluR aluXor d a b)
/-- SLL (R203). -/
def execSll (d : Reg) (a b : Src) (s : State) : Host.Outcome State Fault Refusal := .next (s.aluR aluSll d a b)
/-- SRL (R203). -/
def execSrl (d : Reg) (a b : Src) (s : State) : Host.Outcome State Fault Refusal := .next (s.aluR aluSrl d a b)
/-- SRA (R203). -/
def execSra (d : Reg) (a b : Src) (s : State) : Host.Outcome State Fault Refusal := .next (s.aluR aluSra d a b)
/-- SLT (R203). -/
def execSlt (d : Reg) (a b : Src) (s : State) : Host.Outcome State Fault Refusal := .next (s.aluR aluSlt d a b)
/-- SLTU (R203). -/
def execSltu (d : Reg) (a b : Src) (s : State) : Host.Outcome State Fault Refusal := .next (s.aluR aluSltu d a b)
/-- MUL (R203). -/
def execMul (d : Reg) (a b : Src) (s : State) : Host.Outcome State Fault Refusal := .next (s.aluR aluMul d a b)
/-- MULHU (R203). -/
def execMulhu (d : Reg) (a b : Src) (s : State) : Host.Outcome State Fault Refusal := .next (s.aluR aluMulhu d a b)
/-- ADDI (R204). -/
def execAddi (d : Reg) (a : Src) (imm : BitVec 15) (s : State) : Host.Outcome State Fault Refusal :=
  .next (s.aluI aluAdd d a (imm.signExtend 64))
/-- ANDI (R204). -/
def execAndi (d : Reg) (a : Src) (imm : BitVec 15) (s : State) : Host.Outcome State Fault Refusal :=
  .next (s.aluI aluAnd d a (imm.setWidth 64))
/-- ORI (R204). -/
def execOri (d : Reg) (a : Src) (imm : BitVec 15) (s : State) : Host.Outcome State Fault Refusal :=
  .next (s.aluI aluOr d a (imm.setWidth 64))
/-- XORI (R204). -/
def execXori (d : Reg) (a : Src) (imm : BitVec 15) (s : State) : Host.Outcome State Fault Refusal :=
  .next (s.aluI aluXor d a (imm.setWidth 64))
/-- SLTI (R204). -/
def execSlti (d : Reg) (a : Src) (imm : BitVec 15) (s : State) : Host.Outcome State Fault Refusal :=
  .next (s.aluI aluSlt d a (imm.signExtend 64))
/-- SLLI (R204). -/
def execSlli (d : Reg) (a : Src) (sh : BitVec 6) (s : State) : Host.Outcome State Fault Refusal :=
  .next (s.aluI aluSll d a (sh.setWidth 64))
/-- SRLI (R204). -/
def execSrli (d : Reg) (a : Src) (sh : BitVec 6) (s : State) : Host.Outcome State Fault Refusal :=
  .next (s.aluI aluSrl d a (sh.setWidth 64))
/-- SRAI (R204). -/
def execSrai (d : Reg) (a : Src) (sh : BitVec 6) (s : State) : Host.Outcome State Fault Refusal :=
  .next (s.aluI aluSra d a (sh.setWidth 64))
/-- LUI: D = sext(cat(IMM, 15 zero bits), 64) (R204). -/
def execLui (d : Reg) (imm : BitVec 21) (s : State) : Host.Outcome State Fault Refusal :=
  .next (s.issue [] (some d) (fun _ s => s.seqResult d ((imm ++ (0 : BitVec 15)).signExtend 64)))

end Sys2Proof.Machine
end

