-- ==== Sys2Proof/Machine/SeqCtl.lean ====
section
/-! DEFINITION. Branches and jumps of the graph sequencer (R201, R205), and its illegal words and fetches (R77, R201). -/

namespace Sys2Proof.Machine

/-- A branch of OFF words taken when a comparison holds (R205). -/
def State.branch (s : State) (c : Dword → Dword → Bool) (a b : Src) (off : BitVec 14) : State :=
  s.issue [a, b] none (fun r s =>
    s.modSeq s.curSeq (fun q => { q with pc := if c (r.src a) (r.src b) then jumpPc q.pc off else q.pc + 4 }))

def condBeq (a b : Dword) : Bool := a == b
def condBne (a b : Dword) : Bool := a != b
def condBlt (a b : Dword) : Bool := a.slt b
def condBge (a b : Dword) : Bool := !a.slt b
def condBltu (a b : Dword) : Bool := a.ult b
def condBgeu (a b : Dword) : Bool := !a.ult b

/-- BEQ (R205). -/
def execBeq (a b : Src) (off : BitVec 14) (s : State) : Host.Outcome State Fault Refusal := .next (s.branch condBeq a b off)
/-- BNE (R205). -/
def execBne (a b : Src) (off : BitVec 14) (s : State) : Host.Outcome State Fault Refusal := .next (s.branch condBne a b off)
/-- BLT (R205). -/
def execBlt (a b : Src) (off : BitVec 14) (s : State) : Host.Outcome State Fault Refusal := .next (s.branch condBlt a b off)
/-- BGE (R205). -/
def execBge (a b : Src) (off : BitVec 14) (s : State) : Host.Outcome State Fault Refusal := .next (s.branch condBge a b off)
/-- BLTU (R205). -/
def execBltu (a b : Src) (off : BitVec 14) (s : State) : Host.Outcome State Fault Refusal := .next (s.branch condBltu a b off)
/-- BGEU (R205). -/
def execBgeu (a b : Src) (off : BitVec 14) (s : State) : Host.Outcome State Fault Refusal := .next (s.branch condBgeu a b off)

/-- JMP (R205). -/
def execJmp (off : BitVec 26) (s : State) : Host.Outcome State Fault Refusal :=
  .next (s.issue [] none (fun _ s => s.modSeq s.curSeq (fun q => { q with pc := jumpPc q.pc off })))

/-- JAL: PC + 4 into s31, then the jump (R205). -/
def execJal (off : BitVec 26) (s : State) : Host.Outcome State Fault Refusal :=
  .next (s.issue [] (some 31) (fun _ s => s.modSeq s.curSeq (fun q =>
    { (q.set 31 (w (q.pc + 4))) with pc := jumpPc q.pc off })))

/-- JR: PC + 4 into D, PC = A; a target that is not a multiple of 4 or is beyond the section traps BADPC and the jump is not
performed (R201, R205). -/
def execJr (d : Reg) (a : Src) (s : State) : Host.Outcome State Fault Refusal :=
  .next (s.issue [a] (some d) (fun r s =>
    let t := (r.src a).toNat
    if t % 4 ≠ 0 || 4 * r.code.length ≤ t then s.trapNow fBADPC
    else s.modSeq s.curSeq (fun q => { (q.set d (w (q.pc + 4))) with pc := t })))

/-- ILLEG: an unassigned or ill-formed word traps at issue (R77). -/
def execIlleg (_x : Word) (s : State) : Host.Outcome State Fault Refusal :=
  .next (s.issue [] none (fun _ s => s.trapNow fILLEG))

/-- BADPC: a fetch at or beyond the section's length (R201). -/
def execBadpc (s : State) : Host.Outcome State Fault Refusal :=
  .next (s.issue [] none (fun _ s => s.trapNow fBADPC))

end Sys2Proof.Machine
end

