-- ==== Sys2Proof/Machine/Tenancy.lean ====
section
/-! DEFINITION. Partition descriptors (R133-R137), queue creation and destruction (R138, R139), and revocation (R421, R422). -/

namespace Sys2Proof.Machine

open Sys2Proof.Config

/-! ### Partition descriptors (R136, R137) -/

/-- The descriptor of 1,024 bytes. -/
def descOf (b : List Byte) : Desc :=
  let f (o k : Nat) : Nat := fieldAt b o k
  { reqsig := (f 0 4).testBit 1, fqlog := f 4 1, frzlim := f 5 1, trlog := f 6 1, s2root := f 8 8, sctab := f 16 8, attntab := f 24 8
    attnstat := f 32 8, fqbase := f 40 8, trbase := f 48 8, errblk := f 56 8, svctab := f 64 8, qtab := f 72 8, framebase := f 80 8
    framelen := f 88 8, frameva := f 96 8, shadowbase := f 104 8, shadowlen := f 112 8, pchtab := f 120 8, coldesc := f 128 8
    keytab := f 136 8, nstab := f 144 8, nattn := f 152 4, quotas := (List.range 12).map (fun i => f (256 + 4 * i) 4) }

/-- The module's supply of each quota's resource; none where the spec states no supply (R133, R137). -/
def State.supply (s : State) (i : Nat) : Option Nat :=
  let seqs := numSeqs - s.fuses.seqs.length
  match i with
  | 0 => some seqs
  | 1 => some (gridSide * gridSide)
  | 2 => some seqs
  | 7 => some 32
  | 8 => some 64
  | 9 => some 32
  | 10 => some 32
  | 11 => some 16
  | _ => none

/-- Whether a quota keeps the sum over all partitions within the supply. -/
def State.quotaFits (s : State) (p i q : Nat) : Bool :=
  match s.supply i with
  | none => true
  | some n => decide (((s.parts.filter (fun x => x.1 != p)).map (fun x => x.2.quota i)).sum + q ≤ n)

/-- Whether a guest-physical and a physical address field is in range (R137, R338). -/
def gpaOk (a k : Nat) : Bool := a % k == 0 && decide (a < 2 ^ 57)
def paOk (a k : Nat) : Bool := a % k == 0 && paTarget a

/-- The fields of a descriptor by offset, each with whether it is as R137 gives. -/
def State.descChecks (s : State) (p : Nat) (b : List Byte) : List (Nat × Bool) :=
  let f (o k : Nat) : Nat := fieldAt b o k
  [(0, f 0 4 / 4 == 0 && (f 0 4).testBit 0), (4, inR (f 4 1) 4 16), (5, f 5 1 == 0 || inR (f 5 1) 12 30), (6, inR (f 6 1) 6 16),
   (7, f 7 1 == 0), (8, paOk (f 8 8) 4096)] ++
  ([16, 24, 32, 40, 48, 56, 64, 72].map (fun o => (o, gpaOk (f o 8) 64))) ++
  [(80, gpaOk (f 80 8) 65536), (88, f 88 8 % 65536 == 0), (96, gpaOk (f 96 8) 65536), (104, gpaOk (f 104 8) 65536),
   (112, f 112 8 % 65536 == 0), (120, gpaOk (f 120 8) 64), (128, gpaOk (f 128 8) 64), (136, paOk (f 136 8) 64),
   (144, paOk (f 144 8) 64), (152, decide (f 152 4 ≤ f 280 4))] ++
  [(156, zeroAt b 156 256)] ++
  ((List.range 12).map (fun i => (256 + 4 * i, s.quotaFits p i (f (256 + 4 * i) 4)))) ++
  [(304, zeroAt b 304 1024)]

/-- A descriptor put in force: a fault or trace ring that moves or changes size starts anew (notes/assumptions 35). -/
def Partition.enforce (P : Partition) (d : Desc) : Partition :=
  let P := match P.desc with
    | some o =>
      let P := if o.fqbase = d.fqbase && o.fqlog = d.fqlog then P else { P with fqTail := 0, fqPhase := true, fqHead := 0 }
      if o.trbase = d.trbase && o.trlog = d.trlog then P else { P with trTail := 0, trPhase := true, trHead := 0 }
    | none => P
  { P with desc := some d }

/-- The descriptor of a partition read, checked, and put in force or refused. -/
def State.updateDesc (s : State) (v : Dword) : State :=
  let p := bits v 3 0
  let b := s.mem.read (s.vdtab + 1024 * p) 1024
  match (s.descChecks p b).find? (fun x => !x.2) with
  | some (o, _) => { s with updBad := true, updOffset := o, updPart := p }
  | none => { s with updBad := false, updOffset := 0, updPart := p }.modPart p (fun P => P.enforce (descOf b))

/-- PARTITION_DESCRIPTOR_UPDATE. -/
def execPartitionDescriptorUpdate (h : Nat) (v : Dword) (s : State) : Host.Outcome State Fault Refusal :=
  .next (s.csrGate h nVDPUPD true (fun _ s => s.updateDesc v))

/-! ### Queues (R138, R139) -/

/-- Ring base and size of a level of a queue-table entry. -/
def qeRing (e : List Byte) (l : Nat) : Nat := fieldAt e (32 + 16 * l) 8
def qeLog (e : List Byte) (l : Nat) : Nat := fieldAt e (40 + 16 * l) 1
def qeBytes (e : List Byte) (l : Nat) : Nat := 32 * 2 ^ qeLog e l

/-- Whether stage 2 places a ring wholly in LPDDR-6. -/
def State.ringInLpddr (s : State) (p base n : Nat) : Bool :=
  match locate s.mem (s.gpa p) .write base (piecesOf base n) with
  | .ok ps => ps.all (fun x => paLpddr x.1)
  | .error _ => false

/-- The check of a queue-table entry (R139). -/
def State.queueEntryOk (s : State) (p : Nat) (e : List Byte) : Bool :=
  fieldAt e 0 4 == 1 && zeroAt e 6 8 && gpaOk (fieldAt e 8 8) 4096 && zeroAt e 20 32 && zeroAt e 96 128 &&
  (List.range 4).all (fun l => inR (qeLog e l) 6 20 && gpaOk (qeRing e l) (qeBytes e l) && zeroAt e (41 + 16 * l) (48 + 16 * l) &&
    s.ringInLpddr p (qeRing e l) (qeBytes e l)) &&
  (List.range 4).all (fun i => (List.range i).all (fun j =>
    decide (qeRing e i + qeBytes e i ≤ qeRing e j) || decide (qeRing e j + qeBytes e j ≤ qeRing e i)))

/-- The acceptance number a queue starts after: 0, or the highest that a launch of an earlier queue of its number still carries, so that no two
launches of one queue number share one (R118 gives no first number; DESIGN CHOICE; notes/assumptions 44). -/
def Partition.lastAcc (P : Partition) (q : Nat) : Nat := (P.launches.filter (fun l => l.q == q)).foldl (fun n l => max n l.accNo) 0

/-- The creation of queue q: the result word and the state. BUSY goes before BADARG (DESIGN CHOICE; notes/assumptions 44). -/
def State.createQueue (s : State) (p q : Nat) : Dword × State :=
  let P := s.part p
  let e := match P.desc with | some d => s.gread p (d.qtab + 128 * q) 128 | none => []
  if (P.queues.find q).isSome then (errWord eBUSY, s)
  else if !s.queueEntryOk p e then (errWord eBADARG, s)
  else if P.quota 3 < (P.queues.map (fun x => x.2.share)).sum + fieldAt e 16 4 then (errWord eQUOTA, s)
  else
    let Q : Queue := { asid := fieldAt e 4 2, s1root := fieldAt e 8 8, share := fieldAt e 16 4, log2n := (List.range 4).map (qeLog e)
                       ring := (List.range 4).map (qeRing e), recs := [[], [], [], []], age := 0, accNo := P.lastAcc q, rsv := [] }
    (w (P.handle tblQueue (q + 1)), s.modPart p fun P => { P with queues := P.queues.put q Q })

/-- Whether a queue is in use: a record waits, a region is attached, or a period it started is not retired (R139). -/
def State.queueBusy (s : State) (p q : Nat) : Bool :=
  let h := (s.part p).handle tblQueue (q + 1)
  (match (s.part p).queues.find q with
   | some Q => Q.recs.any (fun l => !l.isEmpty) || !Q.rsv.isEmpty
   | none => false) ||
  s.regions.any (fun x => x.2.part == p && !x.2.freeing &&
    ((match x.2.attach with | some (a, _) => a.toNat == h | none => false) || (x.2.run.isSome && x.2.origq.toNat == h)))

/-- The destruction of queue q. A queue that does not exist has no result the spec states: a free error code. -/
def State.destroyQueue (s : State) (p q : Nat) : Dword × State :=
  if ((s.part p).queues.find q).isNone then
    (errWord ((freeWord s.freeCtr).toNat % 65536), { s with freeCtr := s.freeCtr + 1 })
  else if s.queueBusy p q then (errWord eBUSY, s)
  else (0, s.modPart p fun P => P.bump tblQueue (q + 1))

/-- A write of vdqctl that acts on a queue: the result is what the hart reads back. Of a partition that is not in force, of which R139 does not
speak, it is BADARG (DESIGN CHOICE; notes/assumptions 49). -/
def State.queueCtl (s : State) (h : Nat) (v : Dword) (f : State → Nat → Nat → Dword × State) : State :=
  s.csrGate h nVDQCTL true (fun x s =>
    if (s.part x.actPart).active then
      let r := f s x.actPart (bits v 5 0)
      r.2.modHart h fun y => { y with vdqctl := r.1 }
    else s.modHart h fun y => { y with vdqctl := errWord eBADARG })

/-- QUEUE_CREATE. -/
def execQueueCreate (h : Nat) (v : Dword) (s : State) : Host.Outcome State Fault Refusal :=
  .next (s.queueCtl h v State.createQueue)

/-- QUEUE_DESTROY. -/
def execQueueDestroy (h : Nat) (v : Dword) (s : State) : Host.Outcome State Fault Refusal :=
  .next (s.queueCtl h v State.destroyQueue)

/-! ### Revocation (R421, R422) -/

/-- A graph revoked: its handle is stale; regions that run it run on. -/
def State.revokeGraph (s : State) (p h : Nat) : State :=
  if (s.part p).current tblGraph h then s.modPart p fun P => P.bump tblGraph (hSlot h) else s

/-- A sync object revoked: every hold ends, every waiter receives REVOKED. -/
def State.revokeSo (s : State) (p h : Nat) : State := if (s.part p).current tblSo h then s.soEnd p (hSlot h) else s

/-- The translation of a partition's stage-1 addresses for a hart that revokes an ATTN page (notes/assumptions 32). -/
def State.attnXlate (s : State) (p : Nat) (x : Hart) : Xlate := { s.gpa p with s1 := atpRoot x.vsatp, asid := bits x.vsatp 59 44 }

/-- An ATTN page revoked: the copies and the collectives that touch its granules stop, its handle is stale, its granules are zeroed. -/
def State.revokeAttn (s : State) (p : Nat) (x : Xlate) (h : Nat) : State :=
  match s.attnEntry p h with
  | none => s
  | some (k, v) =>
    ((((s.revokeCopies p k (k + 65536)).revokeCopies p v (v + 65536)).revokeColls p k (k + 65536)).revokeColls p v (v + 65536)).freeAttn p x h

/-- A region revoked: a REVOKED record, then it is killed and freed. -/
def State.revokeRegion (s : State) (p h : Nat) : State :=
  match s.rgOf p h with
  | none => s
  | some (rn, _) => ((s.postRg p rn true false (FaultRec.of fREVOKED 4)).kill rn (some stREVOKED)).freeRegion rn

/-- The launches of a queue that are accepted and not expanded complete REVOKED. -/
def Partition.failLaunches (P : Partition) (q : Nat) : Partition :=
  { P with launches := P.launches.map (fun l => if l.q = q && !l.expanded then { l with expanded := true, status := some stREVOKED } else l) }

/-- A queue revoked: its records are discarded, each retired with REVOKED; periods it started run on under its root. -/
def State.revokeQueue (s : State) (p h : Nat) : State :=
  let q := hSlot h - 1
  match (s.part p).queues.find q with
  | none => s
  | some Q =>
    if !(s.part p).current tblQueue h then s
    else
      let x := s.queueXlate p q
      let rs := Q.recs.flatten ++ Q.rsv
      let s := ((s.part p).trims.filter (fun y => y.2.q == q)).foldl (fun s y => (s.loseSpares p y.2).trimFail p y.1 y.2 eREVOKED) s
      let s := s.modPart p fun P => { ((P.failLaunches q).bump tblQueue (q + 1)) with oldq := P.oldq ++ [(h, Q.asid, Q.s1root)] }
      let s := rs.foldl (fun s r => match r.trim with | some n => s.fillTrim p n (trimWord0 eREVOKED 0 0) | none => s) s
      rs.foldl (fun s r => s.retireJoin p x r.cont.join.toNat stREVOKED r.cont.iidx) s

/-- REVOKE_GRAPH. -/
def execRevokeGraph (h : Nat) (v : Dword) (s : State) : Host.Outcome State Fault Refusal :=
  .next (s.csrPart h nVDREVOKE (fun _ p s => s.revokeGraph p (bits v 31 0)))

/-- REVOKE_SYNC_OBJECT. -/
def execRevokeSyncObject (h : Nat) (v : Dword) (s : State) : Host.Outcome State Fault Refusal :=
  .next (s.csrPart h nVDREVOKE (fun _ p s => s.revokeSo p (bits v 31 0)))

/-- REVOKE_ATTN_PAGE. -/
def execRevokeAttnPage (h : Nat) (v : Dword) (s : State) : Host.Outcome State Fault Refusal :=
  .next (s.csrPart h nVDREVOKE (fun x p s => s.revokeAttn p (s.attnXlate p x) (bits v 31 0)))

/-- REVOKE_REGION. -/
def execRevokeRegion (h : Nat) (v : Dword) (s : State) : Host.Outcome State Fault Refusal :=
  .next (s.csrPart h nVDREVOKE (fun _ p s => s.revokeRegion p (bits v 31 0)))

/-- REVOKE_QUEUE. -/
def execRevokeQueue (h : Nat) (v : Dword) (s : State) : Host.Outcome State Fault Refusal :=
  .next (s.csrPart h nVDREVOKE (fun _ p s => s.revokeQueue p (bits v 31 0)))

/-! ### Every write of a device CSR -/

/-- A write of vdrevoke by its TABLE; 5 to 7 have no effect. -/
def State.revoke (s : State) (x : Hart) (p : Nat) (v : Dword) : State :=
  let h := bits v 31 0
  match bits v 34 32 with
  | 0 => s.revokeGraph p h
  | 1 => s.revokeSo p h
  | 2 => s.revokeAttn p (s.attnXlate p x) h
  | 3 => s.revokeRegion p h
  | 4 => s.revokeQueue p h
  | _ => s

/-- The write of a device CSR with the effect its own rule gives it. -/
def State.csrWrite (s : State) (h n : Nat) (v : Dword) : State :=
  if n = nVDRESUME then s.csrPart h n (fun _ p s => s.resumeFid p (bits v 31 0))
  else if n = nVDFQHEAD then s.csrPart h n (fun _ p s => s.modPart p fun P => { P with fqHead := bits v 15 0, irq := false })
  else if n = nVDREVOKE then s.csrPart h n (fun x p s => s.revoke x p v)
  else if n = nVDTRACE then s.csrPart h n (fun _ p s => s.traceCtl p v)
  else if n = nVDPGZERO then s.csrGate h n true (fun _ s => s.pgZero v)
  else if n = nVDDEBUG then s.csrPart h n (fun _ p s => s.debugSet p v (bit v 32))
  else if n = nVDQCTL then
    (match bits v 63 62 with
     | 1 => s.queueCtl h v State.createQueue
     | 2 => s.queueCtl h v State.destroyQueue
     | _ => s.csrGate h n true (fun _ s => s))
  else if n = nLMDAT then s.csrGate h n true (fun x s => s.marginWrite x.lmsel v)
  else if n = nVMDAT then s.csrGate h n true (fun x s => s.railWrite x.vmsel v)
  else if n = nVDPTAB then s.csrGate h n true (fun _ s => { s with vdtab := bits v 51 14 * 16384 })
  else if n = nVDPUPD then s.csrGate h n true (fun _ s => s.updateDesc v)
  else s.csrGate h n true (fun _ s => s.modHart h fun x => x.csrSet n v)

/-- An 8-byte write to the MSI-X table at an offset: a vector whose mask bit it clears sends the message that is pending (R115; the form
is that of the PCIe specification, notes/assumptions 45). -/
def Vf.tableWrite (x : Vf) (off : Nat) (v : Dword) : Vf :=
  let n := off / 16
  let x := { x with msixTable := x.msixTable.writeN off 8 v.toNat }
  let pending := (x.msixPba.get (n / 8)).getLsbD (n % 8)
  if pending && !(x.msixTable.get (16 * n + 12)).getLsbD 0 then
    { x with msixPba := x.msixPba.put (n / 8) (x.msixPba.get (n / 8) &&& ~~~(w (2 ^ (n % 8)))), msgs := x.msgs ++ [n] }
  else x

/-- An 8-byte write to BAR0 of a VF, by its offset from the control page: a register of the page or the MSI-X table; every other byte
ignores it (R115, R123). -/
def Vf.regWrite (x : Vf) (off : Nat) (v : Dword) : Vf :=
  if off = 0 then { x with crbase := w (v.toNat / 64 * 64) }
  else if off = 8 then x.ringWrite v
  else if off = 16 then { x with crhead := bits v 15 0 }
  else if 32 ≤ off ∧ off < 32 + 8 * 64 then { x with qvec := x.qvec.put ((off - 32) / 8) (bits v 10 0) }
  else if 0x1000 ≤ off ∧ off < 0x9000 then x.tableWrite (off - 0x1000) v
  else x

/-- What a host read of 8 bytes of BAR0 returns, by their offset from the control page (R115, R123). A read has no effect on the VF. -/
def Vf.regRead (x : Vf) (off : Nat) : Dword :=
  if off = 0 then x.crbase
  else if off = 8 then w (x.log2n + 256 * b2n x.en)
  else if off = 16 then w x.crhead
  else if off = 24 then w (x.crtail + 65536 * b2n x.phase)
  else if 32 ≤ off ∧ off < 32 + 8 * 64 then w (x.qvec.get ((off - 32) / 8) 0)
  else if 0x1000 ≤ off ∧ off < 0x9000 then w (x.msixTable.readN (off - 0x1000) 8)
  else if 0x9000 ≤ off ∧ off < 0x9100 then w (x.msixPba.readN (off - 0x9000) 8)
  else 0

/-- What a host read of BAR0 returns: zero on a submission page, none (Unsupported Request) from a VF that is assigned to no partition
(R115). -/
def State.hostRead (s : State) (vf off : Nat) : Option Dword :=
  if (s.vfPart vf).isNone then none
  else if off < 0x100000 then some 0
  else some ((s.vf vf).regRead (off - 0x100000))

/-- The PCIe port, and its physical function, that a VF belongs to (R462). -/
def vfPort (vf : Nat) : Nat := vf / vfsPerPf

/-- A VF assigned to a partition, or to none by a value of 16 and above, once the PFs accept configuration; a partition that holds eight
takes no other (R115, R464). -/
def State.assignVf (s : State) (vf : Nat) (v : Dword) : State :=
  let p := v.toNat
  let held := (List.range numVfs).filter (fun x => x != vf && (s.vf x).part == some p)
  if s.bootstat ≠ 0x80 then s
  else if numParts ≤ p then s.modVf vf fun x => { x with part := none }
  else if vfsPerPart ≤ held.length then s
  else s.modVf vf fun x => { x with part := some p }

/-- REGISTER_WRITE: the RW fields of a register take their values (R7, R8); the minimum security version only rises (R466). -/
def execRegisterWrite (r : RegSel) (v : Dword) (s : State) : Host.Outcome State Fault Refusal :=
  .next (match r with
    | .vf vf off => s.vfWrite vf (fun x => x.regWrite off v)
    | .csr h n => s.csrWrite h n.toNat v
    | .vfAssign vf => s.assignVf vf v
    | .hartAssign h => s.modHart h fun y => { y with part := bits v 3 0 }
    | .minSvn => { s with fuses := { s.fuses with minSvn := max s.fuses.minSvn (bits v 31 0) } })

end Sys2Proof.Machine
end

