-- ==== Sys2Proof/Machine/Dispatch.lean ====
section
/-! DEFINITION. One arm for each constructor of Instr: the call of its meaning. -/

namespace Sys2Proof.Machine

def exec (i : Instr) (s : State) : Host.Outcome State Fault Refusal :=
  match i with
  | .hostSubmission vf page w0 => Sys2Proof.Machine.execHostSubmission vf page w0 s
  | .submissionPageBind vf page qmask => Sys2Proof.Machine.execSubmissionPageBind vf page qmask s
  | .launchExpansion p q => Sys2Proof.Machine.execLaunchExpansion p q s
  | .completionPost vf q => Sys2Proof.Machine.execCompletionPost vf q s
  | .crheadWrite vf v => Sys2Proof.Machine.execCrheadWrite vf v s
  | .ringEnableWrite vf v => Sys2Proof.Machine.execRingEnableWrite vf v s
  | .functionLevelReset vf => Sys2Proof.Machine.execFunctionLevelReset vf s
  | .registerWrite r v => Sys2Proof.Machine.execRegisterWrite r v s
  | .regionPop rn => Sys2Proof.Machine.execRegionPop rn s
  | .reservePushRetry p q => Sys2Proof.Machine.execReservePushRetry p q s
  | .trimPop p q => Sys2Proof.Machine.execTrimPop p q s
  | .trimExecute p i0 => Sys2Proof.Machine.execTrimExecute p i0 s
  | .glowUpdateApply tile => Sys2Proof.Machine.execGlowUpdateApply tile s
  | .soGrant p slot => Sys2Proof.Machine.execSoGrant p slot s
  | .xlanWaitInterrupt h cause => Sys2Proof.Machine.execXlanWaitInterrupt h cause s
  | .invalidationComplete h => Sys2Proof.Machine.execInvalidationComplete h s
  | .cfgBegin v => Sys2Proof.Machine.execCfgBegin v s
  | .cfgEnd v => Sys2Proof.Machine.execCfgEnd v s
  | .cfgNop v => Sys2Proof.Machine.execCfgNop v s
  | .cfgWin v => Sys2Proof.Machine.execCfgWin v s
  | .cfgHi v => Sys2Proof.Machine.execCfgHi v s
  | .cfgSect v => Sys2Proof.Machine.execCfgSect v s
  | .cfgEsc v => Sys2Proof.Machine.execCfgEsc v s
  | .cfgZwin v => Sys2Proof.Machine.execCfgZwin v s
  | .cfgElementWrite idx fld v => Sys2Proof.Machine.execCfgElementWrite idx fld v s
  | .ctRuleFire tile => Sys2Proof.Machine.execCtRuleFire tile s
  | .mtRuleFire tile => Sys2Proof.Machine.execMtRuleFire tile s
  | .streamRuleFire tile => Sys2Proof.Machine.execStreamRuleFire tile s
  | .classDone tile c => Sys2Proof.Machine.execClassDone tile c s
  | .barrierSnuffMerge tile => Sys2Proof.Machine.execBarrierSnuffMerge tile s
  | .reservedKindDrop tile ch => Sys2Proof.Machine.execReservedKindDrop tile ch s
  | .intersectDiscard tile => Sys2Proof.Machine.execIntersectDiscard tile s
  | .beatTransfer tile src => Sys2Proof.Machine.execBeatTransfer tile src s
  | .expressLaneTransfer tile lane slot => Sys2Proof.Machine.execExpressLaneTransfer tile lane slot s
  | .seamBeatRetry seam lane rn => Sys2Proof.Machine.execSeamBeatRetry seam lane rn s
  | .partitionRequestServe tile => Sys2Proof.Machine.execPartitionRequestServe tile s
  | .gthResultEnqueue tile => Sys2Proof.Machine.execGthResultEnqueue tile s
  | .istrmBlockAccept tile => Sys2Proof.Machine.execIstrmBlockAccept tile s
  | .indirectStreamRow stack eng => Sys2Proof.Machine.execIndirectStreamRow stack eng s
  | .acqnGrant tile => Sys2Proof.Machine.execAcqnGrant tile s
  | .macroUnitStart tile u => Sys2Proof.Machine.execMacroUnitStart tile u s
  | .macroOpDone tile u => Sys2Proof.Machine.execMacroOpDone tile u s
  | .empRequest rn emp ch => Sys2Proof.Machine.execEmpRequest rn emp ch s
  | .empWriteData rn emp ch => Sys2Proof.Machine.execEmpWriteData rn emp ch s
  | .empReply rn emp ch => Sys2Proof.Machine.execEmpReply rn emp ch s
  | .empMarkerForward rn emp ch => Sys2Proof.Machine.execEmpMarkerForward rn emp ch s
  | .faultRecordWrite p => Sys2Proof.Machine.execFaultRecordWrite p s
  | .freezeLimitExpiry rn => Sys2Proof.Machine.execFreezeLimitExpiry rn s
  | .copyBeat rn i0 => Sys2Proof.Machine.execCopyBeat rn i0 s
  | .copyComplete rn i0 => Sys2Proof.Machine.execCopyComplete rn i0 s
  | .seqLoadFill rn i0 => Sys2Proof.Machine.execSeqLoadFill rn i0 s
  | .barrComplete rn => Sys2Proof.Machine.execBarrComplete rn s
  | .freezeComplete rn => Sys2Proof.Machine.execFreezeComplete rn s
  | .snuffDrainComplete rn => Sys2Proof.Machine.execSnuffDrainComplete rn s
  | .saveComplete rn => Sys2Proof.Machine.execSaveComplete rn s
  | .loadComplete rn => Sys2Proof.Machine.execLoadComplete rn s
  | .rebaseComplete rn => Sys2Proof.Machine.execRebaseComplete rn s
  | .regionZeroingComplete rn => Sys2Proof.Machine.execRegionZeroingComplete rn s
  | .debugStop rn => Sys2Proof.Machine.execDebugStop rn s
  | .traceSample rn => Sys2Proof.Machine.execTraceSample rn s
  | .pgMigGranule i0 frame => Sys2Proof.Machine.execPgMigGranule i0 frame s
  | .bistComplete h test fails cycles => Sys2Proof.Machine.execBistComplete h test fails cycles s
  | .partFailure part users lost => Sys2Proof.Machine.execPartFailure part users lost s
  | .parityError site => Sys2Proof.Machine.execParityError site s
  | .memoryEccError site correctable users => Sys2Proof.Machine.execMemoryEccError site correctable users s
  | .patrolScrub site err => Sys2Proof.Machine.execPatrolScrub site err s
  | .serviceCall p svc h result => Sys2Proof.Machine.execServiceCall p svc h result s
  | .mapperPlace p h req => Sys2Proof.Machine.execMapperPlace p h req s
  | .storageRead p h arg nvme => Sys2Proof.Machine.execStorageRead p h arg nvme s
  | .storageWrite p h arg nvme => Sys2Proof.Machine.execStorageWrite p h arg nvme s
  | .storagePersist p h arg nvme => Sys2Proof.Machine.execStoragePersist p h arg nvme s
  | .serviceWatchdogExpiry p svc => Sys2Proof.Machine.execServiceWatchdogExpiry p svc s
  | .loaderLoad rn h obj buf => Sys2Proof.Machine.execLoaderLoad rn h obj buf s
  | .queueCreate h v => Sys2Proof.Machine.execQueueCreate h v s
  | .queueDestroy h v => Sys2Proof.Machine.execQueueDestroy h v s
  | .partitionDescriptorUpdate h v => Sys2Proof.Machine.execPartitionDescriptorUpdate h v s
  | .vdresume h v => Sys2Proof.Machine.execVdresume h v s
  | .revokeGraph h v => Sys2Proof.Machine.execRevokeGraph h v s
  | .revokeSyncObject h v => Sys2Proof.Machine.execRevokeSyncObject h v s
  | .revokeAttnPage h v => Sys2Proof.Machine.execRevokeAttnPage h v s
  | .revokeRegion h v => Sys2Proof.Machine.execRevokeRegion h v s
  | .revokeQueue h v => Sys2Proof.Machine.execRevokeQueue h v s
  | .faultQueueHeadWrite h v => Sys2Proof.Machine.execFaultQueueHeadWrite h v s
  | .pageZero h v => Sys2Proof.Machine.execPageZero h v s
  | .debugArm h v => Sys2Proof.Machine.execDebugArm h v s
  | .debugCancel h v => Sys2Proof.Machine.execDebugCancel h v s
  | .voltageOffsetWrite h v => Sys2Proof.Machine.execVoltageOffsetWrite h v s
  | .voltageSettled rail => Sys2Proof.Machine.execVoltageSettled rail s
  | .linkMarginRun h v => Sys2Proof.Machine.execLinkMarginRun h v s
  | .linkMarginDone phy inst lane errs => Sys2Proof.Machine.execLinkMarginDone phy inst lane errs s
  | .coldReset => Sys2Proof.Machine.execColdReset s
  | .rstcold => Sys2Proof.Machine.execRstcold s
  | .rstwarm => Sys2Proof.Machine.execRstwarm s
  | .rst => Sys2Proof.Machine.execRst s
  | .firmwareImageVerify win image => Sys2Proof.Machine.execFirmwareImageVerify win image s
  | .hypervisorImageLoad win image epoch id => Sys2Proof.Machine.execHypervisorImageLoad win image epoch id s
  | .akendDataFlit port flit => Sys2Proof.Machine.execAkendDataFlit port flit s
  | .akendCreditFlit port flit => Sys2Proof.Machine.execAkendCreditFlit port flit s
  | .akendRetryRequest port flit => Sys2Proof.Machine.execAkendRetryRequest port flit s
  | .akendElectionFlit port flit => Sys2Proof.Machine.execAkendElectionFlit port flit s
  | .akendIdleFlit port flit => Sys2Proof.Machine.execAkendIdleFlit port flit s
  | .followerLoadTimeout => Sys2Proof.Machine.execFollowerLoadTimeout s
  | .leaderHeal epoch id => Sys2Proof.Machine.execLeaderHeal epoch id s
  | .allreduce p chip peers => Sys2Proof.Machine.execAllreduce p chip peers s
  | .reduce p chip peers => Sys2Proof.Machine.execReduce p chip peers s
  | .broadcast p chip peers => Sys2Proof.Machine.execBroadcast p chip peers s
  | .allgather p chip peers => Sys2Proof.Machine.execAllgather p chip peers s
  | .collectiveDone p chip => Sys2Proof.Machine.execCollectiveDone p chip s
  | .collectiveTimeout p chip => Sys2Proof.Machine.execCollectiveTimeout p chip s
  | .add d a b => Sys2Proof.Machine.execAdd d a b s
  | .sub d a b => Sys2Proof.Machine.execSub d a b s
  | .and d a b => Sys2Proof.Machine.execAnd d a b s
  | .or d a b => Sys2Proof.Machine.execOr d a b s
  | .xor d a b => Sys2Proof.Machine.execXor d a b s
  | .sll d a b => Sys2Proof.Machine.execSll d a b s
  | .srl d a b => Sys2Proof.Machine.execSrl d a b s
  | .sra d a b => Sys2Proof.Machine.execSra d a b s
  | .slt d a b => Sys2Proof.Machine.execSlt d a b s
  | .sltu d a b => Sys2Proof.Machine.execSltu d a b s
  | .mul d a b => Sys2Proof.Machine.execMul d a b s
  | .mulhu d a b => Sys2Proof.Machine.execMulhu d a b s
  | .addi d a imm => Sys2Proof.Machine.execAddi d a imm s
  | .andi d a imm => Sys2Proof.Machine.execAndi d a imm s
  | .ori d a imm => Sys2Proof.Machine.execOri d a imm s
  | .xori d a imm => Sys2Proof.Machine.execXori d a imm s
  | .slli d a sh => Sys2Proof.Machine.execSlli d a sh s
  | .srli d a sh => Sys2Proof.Machine.execSrli d a sh s
  | .srai d a sh => Sys2Proof.Machine.execSrai d a sh s
  | .slti d a imm => Sys2Proof.Machine.execSlti d a imm s
  | .lui d imm => Sys2Proof.Machine.execLui d imm s
  | .beq a b off => Sys2Proof.Machine.execBeq a b off s
  | .bne a b off => Sys2Proof.Machine.execBne a b off s
  | .blt a b off => Sys2Proof.Machine.execBlt a b off s
  | .bge a b off => Sys2Proof.Machine.execBge a b off s
  | .bltu a b off => Sys2Proof.Machine.execBltu a b off s
  | .bgeu a b off => Sys2Proof.Machine.execBgeu a b off s
  | .jmp off => Sys2Proof.Machine.execJmp off s
  | .jal off => Sys2Proof.Machine.execJal off s
  | .jr d a => Sys2Proof.Machine.execJr d a s
  | .ld d a imm => Sys2Proof.Machine.execLd d a imm s
  | .st b a imm => Sys2Proof.Machine.execSt b a imm s
  | .lw d a imm => Sys2Proof.Machine.execLw d a imm s
  | .sw b a imm => Sys2Proof.Machine.execSw b a imm s
  | .cpy d a => Sys2Proof.Machine.execCpy d a s
  | .cpy2 d a => Sys2Proof.Machine.execCpy2 d a s
  | .cpyi d a b n => Sys2Proof.Machine.execCpyi d a b n s
  | .cfg d a b => Sys2Proof.Machine.execCfg d a b s
  | .arm a b => Sys2Proof.Machine.execArm a b s
  | .fork a m => Sys2Proof.Machine.execFork a m s
  | .rdv a => Sys2Proof.Machine.execRdv a s
  | .punct a => Sys2Proof.Machine.execPunct a s
  | .barr d a => Sys2Proof.Machine.execBarr d a s
  | .snuf => Sys2Proof.Machine.execSnuf s
  | .spawnRecord d a b => Sys2Proof.Machine.execSpawnRecord d a b s
  | .spawnLaunch d a b => Sys2Proof.Machine.execSpawnLaunch d a b s
  | .join d a => Sys2Proof.Machine.execJoin d a s
  | .retire => Sys2Proof.Machine.execRetire s
  | .yield a => Sys2Proof.Machine.execYield a s
  | .acq d a b => Sys2Proof.Machine.execAcq d a b s
  | .rel d a => Sys2Proof.Machine.execRel d a s
  | .fencex a b => Sys2Proof.Machine.execFencex a b s
  | .trim d a b => Sys2Proof.Machine.execTrim d a b s
  | .waittAll d a => Sys2Proof.Machine.execWaittAll d a s
  | .waittAny d a => Sys2Proof.Machine.execWaittAny d a s
  | .prof d n => Sys2Proof.Machine.execProf d n s
  | .trap a n => Sys2Proof.Machine.execTrap a n s
  | .csrr d n => Sys2Proof.Machine.execCsrr d n s
  | .csrw a n => Sys2Proof.Machine.execCsrw a n s
  | .lanDispatch rd rs1 rs2 => Sys2Proof.Machine.execLanDispatch rd rs1 rs2 s
  | .lanJoin rd rs1 => Sys2Proof.Machine.execLanJoin rd rs1 s
  | .hqPush rd rs1 rs2 => Sys2Proof.Machine.execHqPush rd rs1 rs2 s
  | .hqPop rd rs1 rs2 => Sys2Proof.Machine.execHqPop rd rs1 rs2 s
  | .rgClaim rd rs1 rs2 => Sys2Proof.Machine.execRgClaim rd rs1 rs2 s
  | .rgCfg rd rs1 rs2 => Sys2Proof.Machine.execRgCfg rd rs1 rs2 s
  | .rgStart rd rs1 rs2 => Sys2Proof.Machine.execRgStart rd rs1 rs2 s
  | .rgSnuff rd rs1 => Sys2Proof.Machine.execRgSnuff rd rs1 s
  | .rgFreeze rd rs1 => Sys2Proof.Machine.execRgFreeze rd rs1 s
  | .rgSave rd rs1 rs2 => Sys2Proof.Machine.execRgSave rd rs1 rs2 s
  | .rgLoad rd rs1 rs2 => Sys2Proof.Machine.execRgLoad rd rs1 rs2 s
  | .rgRebase rd rs1 rs2 => Sys2Proof.Machine.execRgRebase rd rs1 rs2 s
  | .rgKill rd rs1 => Sys2Proof.Machine.execRgKill rd rs1 s
  | .rgStat rd rs1 => Sys2Proof.Machine.execRgStat rd rs1 s
  | .rgFree rd rs1 => Sys2Proof.Machine.execRgFree rd rs1 s
  | .soBind rd rs1 rs2 => Sys2Proof.Machine.execSoBind rd rs1 rs2 s
  | .soAcq rd rs1 rs2 => Sys2Proof.Machine.execSoAcq rd rs1 rs2 s
  | .soRel rd rs1 => Sys2Proof.Machine.execSoRel rd rs1 s
  | .fenceX rs1 rs2 => Sys2Proof.Machine.execFenceX rs1 rs2 s
  | .xltInv rs1 rs2 => Sys2Proof.Machine.execXltInv rs1 rs2 s
  | .xltSync rd => Sys2Proof.Machine.execXltSync rd s
  | .pgMig rd rs1 rs2 => Sys2Proof.Machine.execPgMig rd rs1 rs2 s
  | .bistRun rd rs1 rs2 => Sys2Proof.Machine.execBistRun rd rs1 rs2 s
  | .bistStat rd rs1 => Sys2Proof.Machine.execBistStat rd rs1 s
  | .illeg w0 => Sys2Proof.Machine.execIlleg w0 s
  | .badpc => Sys2Proof.Machine.execBadpc s
  | .badcmd w0 => Sys2Proof.Machine.execBadcmd w0 s
  | .xlanIllegalInstruction w0 => Sys2Proof.Machine.execXlanIllegalInstruction w0 s
  | .lanternLoadStore h op addr => Sys2Proof.Machine.execLanternLoadStore h op addr s
  | .csrRead h rd num => Sys2Proof.Machine.execCsrRead h rd num s
  | .collectiveReservedCode p chip => Sys2Proof.Machine.execCollectiveReservedCode p chip s
  | .akendReservedFlitType port flit => Sys2Proof.Machine.execAkendReservedFlitType port flit s
  | .powerLoss => Sys2Proof.Machine.execPowerLoss s

end Sys2Proof.Machine
end

