-- ==== Sys2Proof/Machine/HartCompressed.lean ====
section
/-! DEFINITION. RISC-V's compressed set C as words of the sets it stands for (R21). The spec names RV64GCV and gives neither words nor effects
of it: all that stands here is PRESUMED from the RISC-V standard (notes/assumptions 3). -/

namespace Sys2Proof.Machine

/-! ### Words by their fields -/

def encR (op f3 f7 rd r1 r2 : Nat) : Nat := op + rd * 2 ^ 7 + f3 * 2 ^ 12 + r1 * 2 ^ 15 + r2 * 2 ^ 20 + f7 * 2 ^ 25
def encI (op f3 rd r1 imm : Nat) : Nat := op + rd * 2 ^ 7 + f3 * 2 ^ 12 + r1 * 2 ^ 15 + imm % 4096 * 2 ^ 20
def encS (op f3 r1 r2 imm : Nat) : Nat :=
  op + nbits imm 4 0 * 2 ^ 7 + f3 * 2 ^ 12 + r1 * 2 ^ 15 + r2 * 2 ^ 20 + nbits imm 11 5 * 2 ^ 25
def encB (f3 r1 imm : Nat) : Nat :=
  0x63 + nbits imm 11 11 * 2 ^ 7 + nbits imm 4 1 * 2 ^ 8 + f3 * 2 ^ 12 + r1 * 2 ^ 15 + nbits imm 10 5 * 2 ^ 25 + nbits imm 12 12 * 2 ^ 31
def encJ (rd imm : Nat) : Nat :=
  0x6F + rd * 2 ^ 7 + nbits imm 19 12 * 2 ^ 12 + nbits imm 11 11 * 2 ^ 20 + nbits imm 10 1 * 2 ^ 21 + nbits imm 20 20 * 2 ^ 31

/-- A number of n bits sign-extended to m bits. -/
def sext (n m x : Nat) : Nat := (snat n x % 2 ^ m).toNat

/-! ### Immediates -/

/-- Bits 12 and 6:2, of most words of quadrants 1 and 2; those of doubleword and word accesses, and of accesses by the stack pointer. -/
def cImm6 (c : Nat) : Nat := nbits c 12 12 * 32 + nbits c 6 2
def cOffD (c : Nat) : Nat := nbits c 12 10 * 8 + nbits c 6 5 * 64
def cOffW (c : Nat) : Nat := nbits c 12 10 * 8 + nbits c 6 6 * 4 + nbits c 5 5 * 64
def cLdsp (c : Nat) : Nat := nbits c 12 12 * 32 + nbits c 6 5 * 8 + nbits c 4 2 * 64
def cLwsp (c : Nat) : Nat := nbits c 12 12 * 32 + nbits c 6 4 * 4 + nbits c 3 2 * 64
def cSdsp (c : Nat) : Nat := nbits c 12 10 * 8 + nbits c 9 7 * 64
def cSwsp (c : Nat) : Nat := nbits c 12 9 * 4 + nbits c 8 7 * 64
def cJump (c : Nat) : Nat :=
  nbits c 12 12 * 2048 + nbits c 11 11 * 16 + nbits c 10 9 * 256 + nbits c 8 8 * 1024 + nbits c 7 7 * 64 + nbits c 6 6 * 128 +
  nbits c 5 3 * 2 + nbits c 2 2 * 32
def cBranch (c : Nat) : Nat :=
  nbits c 12 12 * 256 + nbits c 11 10 * 8 + nbits c 6 5 * 64 + nbits c 4 3 * 2 + nbits c 2 2 * 32
def cSp16 (c : Nat) : Nat := nbits c 12 12 * 512 + nbits c 6 6 * 16 + nbits c 5 5 * 64 + nbits c 4 3 * 128 + nbits c 2 2 * 32
def cSpn (c : Nat) : Nat := nbits c 12 11 * 16 + nbits c 10 7 * 64 + nbits c 6 6 * 4 + nbits c 5 5 * 8

/-! ### The quadrants -/

/-- Loads and stores by a register, and the address of a place on the stack. -/
def rvcWord0 (c : Nat) : Option Nat :=
  let r1 := 8 + nbits c 9 7
  let r2 := 8 + nbits c 4 2
  match nbits c 15 13 with
  | 0 => if cSpn c = 0 then none else some (encI 0x13 0 r2 2 (cSpn c))
  | 1 => some (encI 0x07 3 r2 r1 (cOffD c))
  | 2 => some (encI 0x03 2 r2 r1 (cOffW c))
  | 3 => some (encI 0x03 3 r2 r1 (cOffD c))
  | 5 => some (encS 0x27 3 r1 r2 (cOffD c))
  | 6 => some (encS 0x23 2 r1 r2 (cOffW c))
  | 7 => some (encS 0x23 3 r1 r2 (cOffD c))
  | _ => none

/-- Arithmetic on a register and an immediate or two of the eight, jumps and branches. -/
def rvcWord1 (c : Nat) : Option Nat :=
  let rd := nbits c 11 7
  let r1 := 8 + nbits c 9 7
  let r2 := 8 + nbits c 4 2
  let imm := sext 6 12 (cImm6 c)
  match nbits c 15 13 with
  | 0 => some (encI 0x13 0 rd rd imm)
  | 1 => if rd = 0 then none else some (encI 0x1B 0 rd rd imm)
  | 2 => some (encI 0x13 0 rd 0 imm)
  | 3 =>
    if rd = 2 then (if cSp16 c = 0 then none else some (encI 0x13 0 2 2 (sext 10 12 (cSp16 c))))
    else if cImm6 c = 0 then none
    else some (0x37 + rd * 2 ^ 7 + sext 6 20 (cImm6 c) * 2 ^ 12)
  | 4 =>
    match nbits c 11 10 with
    | 0 => some (encI 0x13 5 r1 r1 (cImm6 c))
    | 1 => some (encI 0x13 5 r1 r1 (1024 + cImm6 c))
    | 2 => some (encI 0x13 7 r1 r1 imm)
    | _ =>
      match nbits c 12 12, nbits c 6 5 with
      | 0, 0 => some (encR 0x33 0 32 r1 r1 r2)
      | 0, 1 => some (encR 0x33 4 0 r1 r1 r2)
      | 0, 2 => some (encR 0x33 6 0 r1 r1 r2)
      | 0, _ => some (encR 0x33 7 0 r1 r1 r2)
      | _, 0 => some (encR 0x3B 0 32 r1 r1 r2)
      | _, 1 => some (encR 0x3B 0 0 r1 r1 r2)
      | _, _ => none
  | 5 => some (encJ 0 (sext 12 21 (cJump c)))
  | 6 => some (encB 0 r1 (sext 9 13 (cBranch c)))
  | _ => some (encB 1 r1 (sext 9 13 (cBranch c)))

/-- Shifts, loads and stores by the stack pointer, moves, and jumps to a register. -/
def rvcWord2 (c : Nat) : Option Nat :=
  let rd := nbits c 11 7
  let r2 := nbits c 6 2
  match nbits c 15 13 with
  | 0 => some (encI 0x13 1 rd rd (cImm6 c))
  | 1 => some (encI 0x07 3 rd 2 (cLdsp c))
  | 2 => if rd = 0 then none else some (encI 0x03 2 rd 2 (cLwsp c))
  | 3 => if rd = 0 then none else some (encI 0x03 3 rd 2 (cLdsp c))
  | 4 =>
    if nbits c 12 12 = 0 then
      (if r2 ≠ 0 then some (encR 0x33 0 0 rd 0 r2) else if rd = 0 then none else some (encI 0x67 0 0 rd 0))
    else if r2 ≠ 0 then some (encR 0x33 0 0 rd rd r2)
    else if rd = 0 then some 0x00100073
    else some (encI 0x67 0 1 rd 0)
  | 5 => some (encS 0x27 3 2 r2 (cSdsp c))
  | 6 => some (encS 0x23 2 2 r2 (cSwsp c))
  | _ => some (encS 0x23 3 2 r2 (cSdsp c))

/-- The word a compressed one stands for; none for a reserved one. -/
def rvcWord (c : Nat) : Option Nat :=
  match c % 4 with
  | 0 => rvcWord0 c
  | 1 => rvcWord1 c
  | 2 => rvcWord2 c
  | _ => none

/-- The bytes of the word whose low half-word is given. -/
def rvLen (x : Nat) : Nat := if x % 4 = 3 then 4 else 2

end Sys2Proof.Machine
end

