-- ==== Sys2Proof/Machine/HartFloat.lean ====
section
/-! DEFINITION. RISC-V's scalar floating-point sets F and D, which a Lantern hart runs beside Xlan (R21). The spec names RV64GCV and gives
neither words nor effects of it: all that stands here is PRESUMED from the RISC-V standard (notes/assumptions 3). -/

namespace Sys2Proof.Machine

/-! ### fcsr -/

def cFCSR : Nat := 3
/-- The accrued exceptions NV, DZ, OF, UF and NX, and the dynamic rounding mode. -/
def fNV : Nat := 16
def fDZ : Nat := 8
def Hart.frm (y : Hart) : Nat := bits (y.rcsr cFCSR) 7 5
def Hart.accrue (y : Hart) (fl : Nat) : Hart := if fl % 32 = 0 then y else y.setRcsr cFCSR (y.rcsr cFCSR ||| w (fl % 32))

/-- The flags of an operation of the formats in the places of fflags. -/
def rvFlags (f : Flags) : Nat :=
  (if f &&& flINV != 0 then 16 else 0) + (if f &&& flOVF != 0 then 4 else 0) + (if f &&& flUNF != 0 then 2 else 0) + (if f &&& flINX != 0 then 1 else 0)
def rvFl (r : Nat × Flags) : Nat × Nat := (r.1, rvFlags r.2)

/-! ### Operations on the codes of a format -/

/-- The order of two values that are not NaN, and their equality. -/
def Fmt.lt (f : Fmt) (a b : Nat) : Bool := !((f.val a).isZero && (f.val b).isZero) && decide (f.key a < f.key b)
def Fmt.eq (f : Fmt) (a b : Nat) : Bool := a == b || ((f.val a).isZero && (f.val b).isZero)
def Fmt.anyNan (f : Fmt) (a b : Nat) : Bool := (f.val a).isNan || (f.val b).isNan
def Fmt.anySig (f : Fmt) (a b : Nat) : Bool := (f.val a).isSig || (f.val b).isSig

/-- Comparisons: equal is quiet, less and less-or-equal signal on any NaN. -/
def Fmt.cmpEq (f : Fmt) (a b : Nat) : Nat × Nat := (b2n (!f.anyNan a b && f.eq a b), if f.anySig a b then fNV else 0)
def Fmt.cmpLt (f : Fmt) (a b : Nat) : Nat × Nat := (b2n (!f.anyNan a b && f.lt a b), if f.anyNan a b then fNV else 0)
def Fmt.cmpLe (f : Fmt) (a b : Nat) : Nat × Nat := (b2n (!f.anyNan a b && (f.lt a b || f.eq a b)), if f.anyNan a b then fNV else 0)

/-- Minimum and maximum, which prefer a number to a NaN. -/
def Fmt.minmax (f : Fmt) (mx : Bool) (a b : Nat) : Nat × Nat :=
  let fl := if f.anySig a b then fNV else 0
  if (f.val a).isNan && (f.val b).isNan then (f.nan, fl)
  else if (f.val a).isNan then (b, fl)
  else if (f.val b).isNan then (a, fl)
  else ((if decide (f.key a < f.key b) == mx then b else a), fl)

/-- A code with the sign of another, its inverse, or the exclusive or of the signs. -/
def Fmt.sgnj (f : Fmt) (k a b : Nat) : Nat :=
  let sa := a / f.sbit % 2
  let sb := b / f.sbit % 2
  a % f.sbit + f.sbit * (match k with | 0 => sb | 1 => 1 - sb | _ => (sa + sb) % 2)

/-- The class mask. -/
def Fmt.classify (f : Fmt) (x : Nat) : Nat :=
  match f.val x with
  | .inf true => 1
  | .inf false => 128
  | .nan true => 256
  | .nan false => 512
  | .fin s m _ =>
    if m = 0 then (if s then 8 else 16) else if m < 2 ^ f.fbits then (if s then 4 else 32) else (if s then 2 else 64)

/-- The quotient, rounded once. -/
def Fmt.div (f : Fmt) (rm a b : Nat) : Nat × Nat :=
  let sg (n : Bool) : Nat := if n then f.sbit else 0
  match f.val a, f.val b with
  | .nan s, y => (f.nan, if s || y.isSig then fNV else 0)
  | _, .nan s => (f.nan, if s then fNV else 0)
  | .inf _, .inf _ => (f.nan, fNV)
  | .inf s, y => (sg (s != y.neg?) + f.inf, 0)
  | x, .inf t => (sg (x.neg? != t), 0)
  | .fin s m e, .fin t n g =>
    if n = 0 then (if m = 0 then (f.nan, fNV) else (sg (s != t) + f.inf, fDZ))
    else if m = 0 then (sg (s != t), 0)
    else rvFl (f.round rm false (s != t) (m * 2 ^ 192 / n) (e - g - 192) (m * 2 ^ 192 % n != 0))

/-- The square root, rounded once. -/
def Fmt.sqrt (f : Fmt) (rm a : Nat) : Nat × Nat :=
  match f.val a with
  | .nan s => (f.nan, if s then fNV else 0)
  | .inf s => if s then (f.nan, fNV) else (f.inf, 0)
  | .fin s m e =>
    if m = 0 then (a, 0)
    else if s then (f.nan, fNV)
    else (let r := spSqrt m e; rvFl (f.round rm false false r.1 r.2.1 r.2.2))

/-- The fused product and sum, the product and the addend negated as the word says. -/
def Fmt.madd (f : Fmt) (rm : Nat) (negProd negAdd : Bool) (a b c : Nat) : Nat × Nat :=
  let p := if negProd then (f.val a).negate else f.val a
  let q := if negAdd then (f.val c).negate else f.val c
  let r := f.fused rm [(p, f.val b)] [q]
  let bad := !(f.val a).isNan && !(f.val b).isNan && ((f.val a).mul (f.val b)).isNone
  (r.1, rvFlags r.2 ||| (if bad then fNV else 0))

/-- A value to an integer of n bits, clamped to its range: a NaN gives the greatest. -/
def Fmt.toInt (f : Fmt) (rm n : Nat) (signed : Bool) (x : Nat) : Nat × Nat :=
  let lo : Int := if signed then -(2 ^ (n - 1)) else 0
  let hi : Int := if signed then 2 ^ (n - 1) - 1 else 2 ^ n - 1
  let out (v : Int) : Nat := (BitVec.ofInt n v).toNat
  match f.val x with
  | .nan _ => (out hi, fNV)
  | .inf s => (out (if s then lo else hi), fNV)
  | .fin s m e =>
    let (v, ix) := roundInt rm s m e
    if v < lo then (out lo, fNV) else if hi < v then (out hi, fNV) else (out v, if ix then 1 else 0)

/-- An integer of n bits to a format. -/
def Fmt.fromInt (f : Fmt) (rm n : Nat) (signed : Bool) (x : Nat) : Nat × Nat :=
  rvFl (f.ofInt rm (if signed then snat n x else ((x % 2 ^ n : Nat) : Int)))

/-! ### Registers -/

/-- The code of a format in a register: one that is not boxed with ones reads as the canonical NaN. -/
def Hart.fget (y : Hart) (f : Fmt) (r : Reg) : Nat :=
  let v := (nth y.f r.toNat 0).toNat
  if f.ebits = 11 then v else if v / 2 ^ 32 = 2 ^ 32 - 1 then v % 2 ^ 32 else b32.nan
def Hart.fput (y : Hart) (f : Fmt) (r : Reg) (x : Nat) : Hart :=
  { y with f := y.f.set r.toNat (if f.ebits = 11 then w x else w (2 ^ 64 - 2 ^ 32 + x % 2 ^ 32)) }

/-- The rounding mode a word names; none for a reserved one. -/
def Hart.rmOf (y : Hart) (x : Word) : Option Nat :=
  let r := if bits x 14 12 = 7 then y.frm else bits x 14 12
  if r < 5 then some r else none

/-- A result in a floating register, or in an integer register sign-extended from n bits, with the flags accrued. -/
def Hart.fres (y : Hart) (f : Fmt) (r : Reg) (v : Nat × Nat) : Hart := (y.fput f r v.1).accrue v.2
def Hart.ires (y : Hart) (n : Nat) (r : Reg) (v : Nat × Nat) : Hart := (y.set r (wi 64 (snat n v.1))).accrue v.2

/-! ### The words -/

/-- A word of OP-FP; none for a reserved one. -/
def Hart.fop (y : Hart) (x : Word) : Option Hart :=
  let f := if bit x 25 then b64 else b32
  let rd : Reg := w (bits x 11 7)
  let r1 : Reg := w (bits x 19 15)
  let r2 : Reg := w (bits x 24 20)
  let f3 := bits x 14 12
  let a := y.fget f r1
  let b := y.fget f r2
  let n := if bit x 21 then 64 else 32
  let signed := !bit x 20
  let rounded (g : Nat → Hart) : Option Hart := (y.rmOf x).map g
  if bit x 26 then none
  else match bits x 31 27 with
    | 0x00 => rounded fun rm => y.fres f rd (rvFl (f.add rm a b))
    | 0x01 => rounded fun rm => y.fres f rd (rvFl (f.sub rm a b))
    | 0x02 => rounded fun rm => y.fres f rd (rvFl (f.mul rm a b))
    | 0x03 => rounded fun rm => y.fres f rd (f.div rm a b)
    | 0x0B => if r2 = 0 then rounded fun rm => y.fres f rd (f.sqrt rm a) else none
    | 0x04 => if f3 ≤ 2 then some (y.fput f rd (f.sgnj f3 a b)) else none
    | 0x05 => if f3 ≤ 1 then some (y.fres f rd (f.minmax (f3 == 1) a b)) else none
    | 0x08 =>
      if r2 = 1 && !bit x 25 then rounded fun rm => y.fres b32 rd (rvFl (b32.conv rm false (b64.val (y.fget b64 r1))))
      else if r2 = 0 && bit x 25 then rounded fun rm => y.fres b64 rd (rvFl (b64.conv rm false (b32.val (y.fget b32 r1))))
      else none
    | 0x14 =>
      match f3 with
      | 0 => some (y.ires 64 rd (f.cmpLe a b))
      | 1 => some (y.ires 64 rd (f.cmpLt a b))
      | 2 => some (y.ires 64 rd (f.cmpEq a b))
      | _ => none
    | 0x18 => if r2.toNat < 4 then rounded fun rm => y.ires n rd (f.toInt rm n signed a) else none
    | 0x1A => if r2.toNat < 4 then rounded fun rm => y.fres f rd (f.fromInt rm n signed (y.get r1).toNat) else none
    | 0x1C =>
      if r2 ≠ 0 then none
      else if f3 = 0 then some (y.ires (if bit x 25 then 64 else 32) rd ((nth y.f r1.toNat 0).toNat, 0))
      else if f3 = 1 then some (y.ires 64 rd (f.classify a, 0))
      else none
    | 0x1E => if r2 = 0 && f3 == 0 then some (y.fput f rd (y.get r1).toNat) else none
    | _ => none

/-- A fused word: MADD, MSUB, NMSUB and NMADD by bits 3:2; none for a reserved one. -/
def Hart.fmaOp (y : Hart) (x : Word) : Option Hart :=
  let f := if bit x 25 then b64 else b32
  if bit x 26 then none
  else (y.rmOf x).map fun rm =>
    y.fres f (w (bits x 11 7))
      (f.madd rm (bit x 3) (bit x 2) (y.fget f (w (bits x 19 15))) (y.fget f (w (bits x 24 20))) (y.fget f (w (bits x 31 27))))

end Sys2Proof.Machine
end

