-- ==== Sys2Proof/Machine/HartVector.lean ====
section
/-! DEFINITION. RISC-V's vector set V with VLEN = 256, which a Lantern hart runs beside Xlan (R21). The spec names RV64GCV and gives neither
words nor effects of it: all that stands here is PRESUMED from the RISC-V standard (notes/assumptions 3). Agnostic elements are left
undisturbed. -/

namespace Sys2Proof.Machine

/-! ### vtype, vl and the fixed-point controls -/

def cVSTART : Nat := 8
def cVCSR : Nat := 0xF
def cVL : Nat := 0xC20
def cVTYPE : Nat := 0xC21

def vILL : Dword := 0x8000000000000000
def Hart.vtype (y : Hart) : Dword := Tbl.get y.csr cVTYPE vILL
def Hart.vl (y : Hart) : Nat := (y.rcsr cVL).toNat
def Hart.vxrm (y : Hart) : Nat := bits (y.rcsr cVCSR) 2 1

/-- The bytes of an element and LMUL in eighths of a vtype; none for an illegal one. -/
def vSetting (t : Dword) : Option (Nat × Nat) :=
  let m := bits t 2 0
  let l8 := if m < 4 then 8 * 2 ^ m else 2 ^ (m - 5)
  let sb := 2 ^ bits t 5 3
  if bits t 63 8 ≠ 0 || m == 4 || decide (3 < bits t 5 3) || decide (l8 < sb && l8 < 8) then none else some (sb, l8)

/-- The elements of a group (VLMAX). -/
def vMax (sb l8 : Nat) : Nat := 4 * l8 / sb

/-- A new vl and vtype: AVL elements where one is given, else as many as before. -/
def Hart.vset (y : Hart) (rd : Reg) (avl : Option Nat) (t : Dword) : Hart :=
  match vSetting t with
  | none => (((y.setRcsr cVTYPE vILL).setRcsr cVL 0).setRcsr cVSTART 0).set rd 0
  | some (sb, l8) =>
    let n := min (avl.getD y.vl) (vMax sb l8)
    (((y.setRcsr cVTYPE t).setRcsr cVL (w n)).setRcsr cVSTART 0).set rd (w n)

/-- vsetvli, vsetivli and vsetvl; none for a reserved word. -/
def Hart.vconfig (y : Hart) (x : Word) : Option Hart :=
  let rd : Reg := w (bits x 11 7)
  let r1 : Reg := w (bits x 19 15)
  let avl : Option Nat := if r1 ≠ 0 then some (y.get r1).toNat else if rd ≠ 0 then some (2 ^ 64) else none
  if !bit x 31 then some (y.vset rd avl (w (bits x 30 20)))
  else if bit x 30 then some (y.vset rd (some r1.toNat) (w (bits x 29 20)))
  else if bits x 29 25 = 0 then some (y.vset rd avl (y.get (w (bits x 24 20))))
  else none

/-! ### Elements and masks -/

/-- Element i of sb bytes of the group at a register, and the group with it replaced. -/
def Hart.ve (y : Hart) (r sb i : Nat) : Nat := fieldAt (nth y.v (r + i * sb / 32) []) (i * sb % 32) sb
def Hart.vput (y : Hart) (r sb i v : Nat) : Hart :=
  let k := r + i * sb / 32
  { y with v := y.v.set k (overlay (nth y.v k []) (i * sb % 32) (leBytes v sb)) }

/-- Bit i of a mask register, and the register with it replaced. -/
def Hart.vbit (y : Hart) (r i : Nat) : Bool := (fieldAt (nth y.v r []) (i / 8) 1).testBit (i % 8)
def Hart.vputBit (y : Hart) (r i : Nat) (b : Bool) : Hart :=
  let o := fieldAt (nth y.v r []) (i / 8) 1
  y.vput r 1 (i / 8) (o - nbits o (i % 8) (i % 8) * 2 ^ (i % 8) + b2n b * 2 ^ (i % 8))

/-- The elements from vstart up to n, and those of them that the word's mask lets take part. -/
def Hart.vBody (y : Hart) (n : Nat) : List Nat := (List.range n).filter (fun i => decide ((y.rcsr cVSTART).toNat ≤ i))
def Hart.vAct (y : Hart) (x : Word) (i : Nat) : Bool := bit x 25 || y.vbit 0 i
def Hart.vActs (y : Hart) (x : Word) : List Nat := (y.vBody y.vl).filter (y.vAct x)

/-- The exceptions of results accrued: those of fflags in bits 4:0, vxsat in bit 5. -/
def Hart.vAccrue (y : Hart) (fl : Nat) : Hart :=
  let y := y.accrue fl
  if fl / 32 = 0 then y else y.setRcsr cVCSR (y.rcsr cVCSR ||| 1)

/-- Results put at the elements of a list, each computed from the registers before any of them; the same for bits of a mask register. -/
def Hart.vWrite (y : Hart) (vd sb : Nat) (is : List Nat) (f : Nat → Nat × Nat) : Hart :=
  is.foldl (fun z i => (z.vput vd sb i (f i).1).vAccrue (f i).2) y
def Hart.mWrite (y : Hart) (vd : Nat) (is : List Nat) (f : Nat → Bool × Nat) : Hart :=
  is.foldl (fun z i => (z.vputBit vd i (f i).1).vAccrue (f i).2) y

/-- Whether a register begins a group of a multiplier in eighths. -/
def vGroup (r l8 : Nat) : Bool := decide (1 ≤ l8) && decide (l8 ≤ 64) && r % max 1 (l8 / 8) == 0

/-! ### Integer operations on elements of n bits: the result and the exceptions -/

/-- A shift to the right rounded as vxrm says. -/
def vRound (rm : Nat) (v : Int) (d : Nat) : Int :=
  let q := v / 2 ^ d
  let lost := v % 2 ^ d
  if d = 0 then v
  else match rm with
    | 0 => q + (if 2 ^ (d - 1) ≤ lost then 1 else 0)
    | 1 => q + (if 2 ^ (d - 1) < lost || (lost == 2 ^ (d - 1) && q % 2 == 1) then 1 else 0)
    | 2 => q
    | _ => if lost != 0 && q % 2 == 0 then q + 1 else q

/-- An integer to n bits, and clamped to them with vxsat. -/
def vInt (n : Nat) (v : Int) : Nat × Nat := ((v % 2 ^ n).toNat, 0)
def vSat (n : Nat) (signed : Bool) (v : Int) : Nat × Nat :=
  let lo : Int := if signed then -(2 ^ (n - 1)) else 0
  let hi : Int := if signed then 2 ^ (n - 1) - 1 else 2 ^ n - 1
  if v < lo then ((lo % 2 ^ n).toNat, 32) else if hi < v then (hi.toNat, 32) else ((v % 2 ^ n).toNat, 0)

/-- The operations of OPIVV, OPIVX and OPIVI from an element of vs2 and the other operand. -/
def vAlu (f6 n rm a b : Nat) : Option (Nat × Nat) :=
  let p := snat n a
  let q := snat n b
  let s := b % n
  match f6 with
  | 0x00 => some (vInt n (a + b))
  | 0x02 => some (vInt n ((a : Int) - b))
  | 0x03 => some (vInt n ((b : Int) - a))
  | 0x04 => some (min a b, 0)
  | 0x05 => some (if p ≤ q then a else b, 0)
  | 0x06 => some (max a b, 0)
  | 0x07 => some (if p ≤ q then b else a, 0)
  | 0x09 => some (a &&& b, 0)
  | 0x0A => some (a ||| b, 0)
  | 0x0B => some (a ^^^ b, 0)
  | 0x20 => some (vSat n false (a + b))
  | 0x21 => some (vSat n true (p + q))
  | 0x22 => some (vSat n false ((a : Int) - b))
  | 0x23 => some (vSat n true (p - q))
  | 0x25 => some (vInt n (a * 2 ^ s))
  | 0x27 => some (vSat n true (vRound rm (p * q) (n - 1)))
  | 0x28 => some (vInt n (a / 2 ^ s))
  | 0x29 => some (vInt n (p / 2 ^ s))
  | 0x2A => some (vInt n (vRound rm a s))
  | 0x2B => some (vInt n (vRound rm p s))
  | _ => none

/-- The narrowing shifts and clips of an element of 2n bits. -/
def vNarrow (f6 n rm a b : Nat) : Option (Nat × Nat) :=
  let p := snat (2 * n) a
  let s := b % (2 * n)
  match f6 with
  | 0x2C => some (vInt n (a / 2 ^ s))
  | 0x2D => some (vInt n (p / 2 ^ s))
  | 0x2E => some (vSat n false (vRound rm a s))
  | 0x2F => some (vSat n true (vRound rm p s))
  | _ => none

/-- The comparisons. -/
def vCmp (f6 n a b : Nat) : Option Bool :=
  let p := snat n a
  let q := snat n b
  match f6 with
  | 0x18 => some (a == b)
  | 0x19 => some (a != b)
  | 0x1A => some (decide (a < b))
  | 0x1B => some (decide (p < q))
  | 0x1C => some (decide (a ≤ b))
  | 0x1D => some (decide (p ≤ q))
  | 0x1E => some (decide (b < a))
  | 0x1F => some (decide (q < p))
  | _ => none

/-- The operations of OPMVV and OPMVX on elements of one width, `d` the element of vd before. -/
def vMul (f6 n rm a b d : Nat) : Option (Nat × Nat) :=
  let p := snat n a
  let q := snat n b
  match f6 with
  | 0x08 => some (vInt n (vRound rm (a + b) 1))
  | 0x09 => some (vInt n (vRound rm (p + q) 1))
  | 0x0A => some (vInt n (vRound rm ((a : Int) - b) 1))
  | 0x0B => some (vInt n (vRound rm (p - q) 1))
  | 0x20 => some (if b = 0 then 2 ^ n - 1 else a / b, 0)
  | 0x21 => some (if b = 0 then (2 ^ n - 1, 0) else vInt n (p.tdiv q))
  | 0x22 => some (if b = 0 then a else a % b, 0)
  | 0x23 => some (if b = 0 then (a, 0) else vInt n (p.tmod q))
  | 0x24 => some (vInt n (a * b / 2 ^ n))
  | 0x25 => some (vInt n (a * b))
  | 0x26 => some (vInt n (p * b / 2 ^ n))
  | 0x27 => some (vInt n (p * q / 2 ^ n))
  | 0x29 => some (vInt n (b * d + a))
  | 0x2B => some (vInt n ((a : Int) - b * d))
  | 0x2D => some (vInt n (a * b + d))
  | 0x2F => some (vInt n ((d : Int) - a * b))
  | _ => none

/-- The widening operations: elements of n bits, of vs2 of 2n where the word says so, to 2n bits. -/
def vWiden (f6 n a b d : Nat) : Option (Nat × Nat) :=
  let p := snat n a
  let q := snat n b
  let pw := snat (2 * n) a
  match f6 with
  | 0x30 => some (vInt (2 * n) (a + b))
  | 0x31 => some (vInt (2 * n) (p + q))
  | 0x32 => some (vInt (2 * n) ((a : Int) - b))
  | 0x33 => some (vInt (2 * n) (p - q))
  | 0x34 => some (vInt (2 * n) (a + b))
  | 0x35 => some (vInt (2 * n) (pw + q))
  | 0x36 => some (vInt (2 * n) ((a : Int) - b))
  | 0x37 => some (vInt (2 * n) (pw - q))
  | 0x38 => some (vInt (2 * n) (a * b))
  | 0x3A => some (vInt (2 * n) (p * b))
  | 0x3B => some (vInt (2 * n) (p * q))
  | 0x3C => some (vInt (2 * n) (a * b + d))
  | 0x3D => some (vInt (2 * n) (p * q + d))
  | 0x3E => some (vInt (2 * n) (p * b + d))
  | 0x3F => some (vInt (2 * n) (a * q + d))
  | _ => none

/-! ### Floating operations -/

/-- The format of an element of sb bytes; none where the set has none. -/
def vFmt (sb : Nat) : Option Fmt := if sb = 4 then some b32 else if sb = 8 then some b64 else none

/-- The fraction of a value not zero whose subnormal codes are made normal: the exponent field it then has, and the fraction. -/
def Fmt.normed (f : Fmt) (x : Nat) : Int × Nat :=
  let ex := x % f.sbit / 2 ^ f.fbits
  let fr := x % 2 ^ f.fbits
  if ex ≠ 0 then (ex, fr)
  else (let k := f.fbits - Nat.log2 fr; (1 - (k : Int), fr * 2 ^ k % 2 ^ f.fbits))

/-- The estimate of a reciprocal to seven bits. -/
def Fmt.rec7 (f : Fmt) (rm x : Nat) : Nat × Nat :=
  let sg := x / f.sbit % 2 * f.sbit
  match f.val x with
  | .nan s => (f.nan, if s then fNV else 0)
  | .inf _ => (sg, 0)
  | .fin s m _ =>
    if m = 0 then (sg + f.inf, fDZ)
    else
      let (ex, fr) := f.normed x
      if ex < -1 then (sg + (if rm = rmRTZ || (rm = rmRUP && s) || (rm = rmRDN && !s) then f.maxFin else f.inf), 5)
      else
        let k := fr / 2 ^ (f.fbits - 7)
        let t := ((2 * 65536 + (257 + 2 * k)) / (2 * (257 + 2 * k)) - 128) * 2 ^ (f.fbits - 7)
        let oe : Int := 2 * f.bias - 1 - ex
        if 0 < oe then (sg + oe.toNat * 2 ^ f.fbits + t, 0)
        else if oe = 0 then (sg + (t + 2 ^ f.fbits) / 2, 0)
        else (sg + (t + 2 ^ f.fbits) / 4, 0)

/-- The estimate of a reciprocal square root to seven bits. -/
def Fmt.rsqrt7 (f : Fmt) (x : Nat) : Nat × Nat :=
  match f.val x with
  | .nan s => (f.nan, if s then fNV else 0)
  | .inf s => if s then (f.nan, fNV) else (0, 0)
  | .fin s m _ =>
    if m = 0 then (x / f.sbit % 2 * f.sbit + f.inf, fDZ)
    else if s then (f.nan, fNV)
    else
      let (ex, fr) := f.normed x
      let a := (129 + 2 * (fr / 2 ^ (f.fbits - 6))) * (if ex % 2 = 0 then 2 else 1)
      let t := ((sqrtN 16 (2 ^ 25 / a) + 1) / 2 - 128) * 2 ^ (f.fbits - 7)
      (((3 * (f.bias : Int) - 1 - ex) / 2).toNat * 2 ^ f.fbits + t, 0)

/-- The operations of OPFVV and OPFVF on elements of one width. -/
def vFlop (f6 : Nat) (f : Fmt) (rm a b d : Nat) : Option (Nat × Nat) :=
  match f6 with
  | 0x00 => some (rvFl (f.add rm a b))
  | 0x02 => some (rvFl (f.sub rm a b))
  | 0x04 => some (f.minmax false a b)
  | 0x06 => some (f.minmax true a b)
  | 0x08 => some (f.sgnj 0 a b, 0)
  | 0x09 => some (f.sgnj 1 a b, 0)
  | 0x0A => some (f.sgnj 2 a b, 0)
  | 0x20 => some (f.div rm a b)
  | 0x21 => some (f.div rm b a)
  | 0x24 => some (rvFl (f.mul rm a b))
  | 0x27 => some (rvFl (f.sub rm b a))
  | 0x28 => some (f.madd rm false false b d a)
  | 0x29 => some (f.madd rm true true b d a)
  | 0x2A => some (f.madd rm false true b d a)
  | 0x2B => some (f.madd rm true false b d a)
  | 0x2C => some (f.madd rm false false b a d)
  | 0x2D => some (f.madd rm true true b a d)
  | 0x2E => some (f.madd rm false true b a d)
  | 0x2F => some (f.madd rm true false b a d)
  | _ => none

/-- The floating comparisons. -/
def vFcmp (f6 : Nat) (f : Fmt) (a b : Nat) : Option (Nat × Nat) :=
  match f6 with
  | 0x18 => some (f.cmpEq a b)
  | 0x19 => some (f.cmpLe a b)
  | 0x1B => some (f.cmpLt a b)
  | 0x1C => some (let r := f.cmpEq a b; (1 - r.1, r.2))
  | 0x1D => some (f.cmpLt b a)
  | 0x1F => some (f.cmpLe b a)
  | _ => none

/-- A binary32 code as binary64, exactly; a signalling NaN counts as invalid. -/
def toB64 (x : Nat) : Nat × Nat := rvFl (b64.conv rmRNE false (b32.val x))

/-- The widening floating operations: binary32 operands, of vs2 binary64 where the word says so, to binary64. -/
def vFwide (f6 rm a b d : Nat) : Option (Nat × Nat) :=
  let both (r : Nat × Nat) (fl : Nat) : Option (Nat × Nat) := some (r.1, r.2 ||| fl)
  let p := toB64 a
  let q := toB64 b
  match f6 with
  | 0x30 => both (rvFl (b64.add rm p.1 q.1)) (p.2 ||| q.2)
  | 0x32 => both (rvFl (b64.sub rm p.1 q.1)) (p.2 ||| q.2)
  | 0x34 => both (rvFl (b64.add rm a q.1)) q.2
  | 0x36 => both (rvFl (b64.sub rm a q.1)) q.2
  | 0x38 => both (rvFl (b64.mul rm p.1 q.1)) (p.2 ||| q.2)
  | 0x3C => both (b64.madd rm false false q.1 p.1 d) (p.2 ||| q.2)
  | 0x3D => both (b64.madd rm true true q.1 p.1 d) (p.2 ||| q.2)
  | 0x3E => both (b64.madd rm false true q.1 p.1 d) (p.2 ||| q.2)
  | 0x3F => both (b64.madd rm true false q.1 p.1 d) (p.2 ||| q.2)
  | _ => none

/-- A value rounded to odd into a format, as vfncvt.rod rounds. -/
def Fmt.roundOdd (f : Fmt) (v : FV) : Nat × Nat :=
  let r := f.conv rmRTZ false v
  ((if r.2 &&& flINX != 0 && r.1 % 2 == 0 then r.1 + 1 else r.1), rvFlags r.2)

/-- The conversions of VFUNARY0 by vs1: the bytes of source and of result, and the operation; none for a reserved one. Bit 4 narrows and
bit 3 widens. -/
def vCvt (k sb rm : Nat) : Option (Nat × Nat × (Nat → Nat × Nat)) :=
  let src := if k / 8 = 2 then 2 * sb else sb
  let dst := if k / 8 = 1 then 2 * sb else sb
  let one (x : Nat × Nat) : Nat × Nat := x
  let toI (rm : Nat) (signed : Bool) : Option (Nat × Nat × (Nat → Nat × Nat)) :=
    (vFmt src).map fun f => (src, dst, fun x => f.toInt rm (8 * dst) signed x)
  let ofI (signed : Bool) : Option (Nat × Nat × (Nat → Nat × Nat)) :=
    (vFmt dst).map fun f => (src, dst, fun x => f.fromInt rm (8 * src) signed x)
  if 8 < src || 8 < dst then none
  else match k / 8, k % 8 with
    | _, 0 => toI rm false
    | _, 1 => toI rm true
    | _, 2 => ofI false
    | _, 3 => ofI true
    | 1, 4 => if sb = 4 then some (src, dst, toB64) else none
    | 2, 4 => if sb = 4 then some (src, dst, fun x => one (rvFl (b32.conv rm false (b64.val x)))) else none
    | 2, 5 => if sb = 4 then some (src, dst, fun x => b32.roundOdd (b64.val x)) else none
    | _, 6 => toI rmRTZ false
    | _, 7 => toI rmRTZ true
    | _, _ => none

/-! ### Operands of a word -/

def vVd (x : Word) : Nat := bits x 11 7
def vVs1 (x : Word) : Nat := bits x 19 15
def vVs2 (x : Word) : Nat := bits x 24 20
def vF6 (x : Word) : Nat := bits x 31 26

/-- The second operand of an element: of vs1, the immediate, or a scalar, cut to sb bytes. -/
def Hart.vOpd (y : Hart) (x : Word) (sb i : Nat) : Nat :=
  match bits x 14 12 with
  | 3 => sext 5 (8 * sb) (vVs1 x)
  | 4 | 6 => (y.get (w (vVs1 x))).toNat % 2 ^ (8 * sb)
  | 5 => (match vFmt sb with | some f => y.fget f (w (vVs1 x)) | none => 0)
  | _ => y.ve (vVs1 x) sb i

/-- Whether the groups of a word are legal: destination, vs2, and vs1 where it is a vector, by their multipliers in eighths; and that a
masked word does not write v0, but for results that are masks or single elements. -/
def vRegs (x : Word) (d8 a8 b8 : Nat) (narrow : Bool) : Bool :=
  vGroup (vVd x) d8 && vGroup (vVs2 x) a8 && (decide (3 ≤ bits x 14 12) || vGroup (vVs1 x) b8) && (bit x 25 || narrow || vVd x != 0)

/-- A word that gives each active element a result. -/
def Hart.vEach (y : Hart) (x : Word) (dsb : Nat) (ok : Bool) (f : Nat → Option (Nat × Nat)) : Option Hart :=
  if ok && (y.vActs x).all (fun i => (f i).isSome) then some (y.vWrite (vVd x) dsb (y.vActs x) (fun i => (f i).getD (0, 0))) else none

/-! ### Words of integer elements -/

/-- The slides: upwards elements below the offset stay, downwards those from beyond the group are zero. -/
def Hart.vSlide (y : Hart) (x : Word) (up : Bool) (sb l8 off : Nat) : Hart :=
  if up then y.vWrite (vVd x) sb ((y.vActs x).filter (fun i => decide (off ≤ i))) (fun i => (y.ve (vVs2 x) sb (i - off), 0))
  else y.vWrite (vVd x) sb (y.vActs x) (fun i => (if i + off < vMax sb l8 then y.ve (vVs2 x) sb (i + off) else 0, 0))

/-- The slides by one, with a scalar in the place left. -/
def Hart.vSlide1 (y : Hart) (x : Word) (up : Bool) (sb v : Nat) : Hart :=
  y.vWrite (vVd x) sb (y.vActs x) (fun i =>
    (if up then (if i = 0 then v else y.ve (vVs2 x) sb (i - 1)) else (if i + 1 = y.vl then v else y.ve (vVs2 x) sb (i + 1)), 0))

/-- A reduction: element 0 of vs1 and then each active element of vs2, into element 0 of vd; nothing with vl = 0. -/
def Hart.vReduce (y : Hart) (x : Word) (asb dsb : Nat) (f : Nat → Nat → Nat × Nat) : Hart :=
  if y.vl = 0 then y
  else
    let r := (y.vActs x).foldl (fun (a : Nat × Nat) i => let z := f a.1 (y.ve (vVs2 x) asb i); (z.1, a.2 ||| z.2)) (y.ve (vVs1 x) dsb 0, 0)
    (y.vput (vVd x) dsb 0 r.1).vAccrue r.2

/-- The offset of a slide or the index of a gather: of x, or the immediate without a sign. -/
def Hart.vOffset (y : Hart) (x : Word) : Nat := if bits x 14 12 = 3 then vVs1 x else (y.get (w (vVs1 x))).toNat

/-- Words of OPIVV, OPIVX and OPIVI. -/
def Hart.vOpi (y : Hart) (x : Word) (sb l8 : Nat) : Option Hart :=
  let n := 8 * sb
  let f6 := vF6 x
  let vv := bits x 14 12 == 0
  let imm := bits x 14 12 == 3
  let a (i : Nat) : Nat := y.ve (vVs2 x) sb i
  let b (i : Nat) : Nat := y.vOpd x sb i
  let same := vRegs x l8 l8 l8 false
  let mask := vRegs x 8 l8 l8 true
  let cin (i : Nat) : Nat := b2n (!bit x 25 && y.vbit 0 i)
  let body := y.vBody y.vl
  match f6 with
  | 0x0C =>
    if !same then none
    else
      let k (i : Nat) : Nat := if vv then b i else y.vOffset x
      some (y.vWrite (vVd x) sb (y.vActs x) (fun i => (if k i < vMax sb l8 then a (k i) else 0, 0)))
  | 0x0E =>
    if vv then
      (if vRegs x l8 l8 (2 * l8 / sb) false then
        let k (i : Nat) : Nat := y.ve (vVs1 x) 2 i
        some (y.vWrite (vVd x) sb (y.vActs x) (fun i => (if k i < vMax sb l8 then a (k i) else 0, 0)))
       else none)
    else if same then some (y.vSlide x true sb l8 (y.vOffset x)) else none
  | 0x0F => if same && !vv then some (y.vSlide x false sb l8 (y.vOffset x)) else none
  | 0x10 => if same && !bit x 25 then some (y.vWrite (vVd x) sb body (fun i => vInt n (a i + b i + cin i))) else none
  | 0x11 => if mask then some (y.mWrite (vVd x) body (fun i => (decide (2 ^ n ≤ a i + b i + cin i), 0))) else none
  | 0x12 => if same && !bit x 25 && !imm then some (y.vWrite (vVd x) sb body (fun i => vInt n ((a i : Int) - b i - cin i))) else none
  | 0x13 => if mask && !imm then some (y.mWrite (vVd x) body (fun i => (decide (a i < b i + cin i), 0))) else none
  | 0x17 =>
    if !same || (bit x 25 && vVs2 x != 0) then none
    else some (y.vWrite (vVd x) sb body (fun i => (if bit x 25 || y.vbit 0 i then b i else a i, 0)))
  | 0x18 | 0x19 | 0x1A | 0x1B | 0x1C | 0x1D | 0x1E | 0x1F =>
    if !mask || (vv && decide (0x1E ≤ f6)) || (imm && (f6 == 0x1A || f6 == 0x1B)) then none
    else some (y.mWrite (vVd x) (y.vActs x) (fun i => ((vCmp f6 n (a i) (b i)).getD false, 0)))
  | 0x27 =>
    if imm then
      (let k := vVs1 x + 1
       if bit x 25 && [1, 2, 4, 8].contains k && vVd x % k == 0 && vVs2 x % k == 0 then
         some { y with v := (List.range k).foldl (fun v j => v.set (vVd x + j) (nth y.v (vVs2 x + j) [])) y.v }
       else none)
    else y.vEach x sb same (fun i => vAlu f6 n y.vxrm (a i) (b i))
  | 0x2C | 0x2D | 0x2E | 0x2F =>
    y.vEach x sb (vRegs x l8 (2 * l8) l8 false && decide (sb ≤ 4)) (fun i => vNarrow f6 n y.vxrm (y.ve (vVs2 x) (2 * sb) i) (if imm then vVs1 x else b i))
  | 0x30 | 0x31 =>
    if vv && decide (sb ≤ 4) && vRegs x 8 l8 8 true then
      some (y.vReduce x sb (2 * sb) (fun d e => vInt (2 * n) (if f6 = 0x30 then (d : Int) + e else (d : Int) + snat n e)))
    else none
  | _ =>
    let ok := same && !((f6 == 0x02 || f6 == 0x22 || f6 == 0x23 || inR f6 4 7) && imm) && !(f6 == 0x03 && vv)
    y.vEach x sb ok (fun i => vAlu f6 n y.vxrm (a i) (if imm && decide (0x25 ≤ f6) then vVs1 x else b i))

/-- The logical operations on masks. -/
def vLogic (f6 : Nat) (a b : Bool) : Bool :=
  match f6 with
  | 0x18 => a && !b
  | 0x19 => a && b
  | 0x1A => a || b
  | 0x1B => a != b
  | 0x1C => a || !b
  | 0x1D => !(a && b)
  | 0x1E => !(a || b)
  | _ => a == b

/-- The reductions of OPMVV. -/
def vRed (f6 n d e : Nat) : Nat × Nat :=
  match f6 with
  | 0 => vInt n (d + e)
  | 1 => (d &&& e, 0)
  | 2 => (d ||| e, 0)
  | 3 => (d ^^^ e, 0)
  | 4 => (min d e, 0)
  | 5 => (if snat n d ≤ snat n e then d else e, 0)
  | 6 => (max d e, 0)
  | _ => (if snat n d ≤ snat n e then e else d, 0)

/-- The words of VMUNARY0: set-before, set-only and set-including-first, iota and the indexes. -/
def Hart.vMunary (y : Hart) (x : Word) (sb l8 : Nat) : Option Hart :=
  let acts := y.vActs x
  let set (i : Nat) : Bool := y.vbit (vVs2 x) i
  let before (i : Nat) : Bool := !(acts.filter (fun j => decide (j < i))).any set
  let regs := vGroup (vVd x) l8 && (bit x 25 || vVd x != 0)
  match vVs1 x with
  | 1 => some (y.mWrite (vVd x) acts (fun i => (before i && !set i, 0)))
  | 2 => some (y.mWrite (vVd x) acts (fun i => (before i && set i, 0)))
  | 3 => some (y.mWrite (vVd x) acts (fun i => (before i, 0)))
  | 16 => if regs then some (y.vWrite (vVd x) sb acts (fun i => (((acts.filter (fun j => decide (j < i))).filter set).length % 2 ^ (8 * sb), 0))) else none
  | 17 => if regs then some (y.vWrite (vVd x) sb acts (fun i => (i % 2 ^ (8 * sb), 0))) else none
  | _ => none

/-- Words of OPMVV and OPMVX. -/
def Hart.vOpm (y : Hart) (x : Word) (sb l8 : Nat) : Option Hart :=
  let n := 8 * sb
  let f6 := vF6 x
  let vv := bits x 14 12 == 2
  let a (i : Nat) : Nat := y.ve (vVs2 x) sb i
  let b (i : Nat) : Nat := y.vOpd x sb i
  let same := vRegs x l8 l8 l8 false
  let rd : Reg := w (vVd x)
  let acts := y.vActs x
  match f6 with
  | 0x0E => if same && !vv then some (y.vSlide1 x true sb (b 0)) else none
  | 0x0F => if same && !vv then some (y.vSlide1 x false sb (b 0)) else none
  | 0x10 =>
    if vv then
      match vVs1 x with
      | 0 => if bit x 25 then some (y.set rd (wi 64 (snat n (a 0)))) else none
      | 16 => some (y.set rd (w ((acts.filter (y.vbit (vVs2 x))).length)))
      | 17 => some (y.set rd (match acts.find? (y.vbit (vVs2 x)) with | some i => w i | none => -1))
      | _ => none
    else if vVs2 x = 0 && bit x 25 then some (if y.vBody (min y.vl 1) = [] then y else y.vput (vVd x) sb 0 (b 0)) else none
  | 0x12 =>
    let k := match vVs1 x with | 2 | 3 => 8 | 4 | 5 => 4 | 6 | 7 => 2 | _ => 0
    if !vv || k = 0 || sb < k then none
    else y.vEach x sb (vRegs x l8 (l8 / k) 8 false || decide (vVs1 x < 8) && vGroup (vVd x) l8 && vGroup (vVs2 x) (l8 / k) && (bit x 25 || vVd x != 0))
      (fun i => let e := y.ve (vVs2 x) (sb / k) i; some (if vVs1 x % 2 = 1 then sext (n / k) n e else e, 0))
  | 0x14 => if vv then y.vMunary x sb l8 else none
  | 0x17 =>
    if vv && bit x 25 && vGroup (vVd x) l8 && vGroup (vVs2 x) l8 then
      some (y.vWrite (vVd x) sb (List.range ((List.range y.vl).filter (y.vbit (vVs1 x))).length)
        (fun i => (a (nth ((List.range y.vl).filter (y.vbit (vVs1 x))) i 0), 0)))
    else none
  | 0x18 | 0x19 | 0x1A | 0x1B | 0x1C | 0x1D | 0x1E | 0x1F =>
    if vv && bit x 25 then some (y.mWrite (vVd x) (y.vBody y.vl) (fun i => (vLogic f6 (y.vbit (vVs2 x) i) (y.vbit (vVs1 x) i), 0))) else none
  | _ =>
    if f6 < 8 then (if vv && vGroup (vVs2 x) l8 then some (y.vReduce x sb sb (vRed f6 n)) else none)
    else if f6 < 0x30 then y.vEach x sb same (fun i => vMul f6 n y.vxrm (a i) (b i) (y.ve (vVd x) sb i))
    else
      let wide := inR f6 0x34 0x37
      let ok := decide (sb ≤ 4) && vRegs x (2 * l8) (if wide then 2 * l8 else l8) l8 false && !(f6 == 0x3E && vv)
      y.vEach x (2 * sb) ok (fun i => vWiden f6 n (if wide then y.ve (vVs2 x) (2 * sb) i else a i) (b i) (y.ve (vVd x) (2 * sb) i))

/-! ### Words of floating elements -/

/-- Words of OPFVV and OPFVF on elements of a format. -/
def Hart.vOpf (y : Hart) (x : Word) (sb l8 rm : Nat) (f : Fmt) : Option Hart :=
  let f6 := vF6 x
  let vv := bits x 14 12 == 1
  let a (i : Nat) : Nat := y.ve (vVs2 x) sb i
  let b (i : Nat) : Nat := y.vOpd x sb i
  let same := vRegs x l8 l8 l8 false
  let one := vGroup (vVd x) l8 && vGroup (vVs2 x) l8 && (bit x 25 || vVd x != 0)
  let red (g : Nat → Nat → Nat × Nat) : Option Hart := if vv && vGroup (vVs2 x) l8 then some (y.vReduce x sb sb g) else none
  match f6 with
  | 0x01 | 0x03 => red (fun d e => rvFl (f.add rm d e))
  | 0x05 => red (fun d e => f.minmax false d e)
  | 0x07 => red (fun d e => f.minmax true d e)
  | 0x0E => if same && !vv then some (y.vSlide1 x true sb (b 0)) else none
  | 0x0F => if same && !vv then some (y.vSlide1 x false sb (b 0)) else none
  | 0x10 =>
    if !bit x 25 then none
    else if vv then (if vVs1 x = 0 then some (y.fput f (w (vVd x)) (a 0)) else none)
    else if vVs2 x = 0 then some (if y.vBody (min y.vl 1) = [] then y else y.vput (vVd x) sb 0 (b 0)) else none
  | 0x12 =>
    match (if vv then vCvt (vVs1 x) sb rm else none) with
    | none => none
    | some (src, dst, g) =>
      y.vEach x dst (vGroup (vVd x) (l8 * dst / sb) && vGroup (vVs2 x) (l8 * src / sb) && (bit x 25 || vVd x != 0))
        (fun i => some (g (y.ve (vVs2 x) src i)))
  | 0x13 =>
    y.vEach x sb (vv && one) (fun i =>
      match vVs1 x with
      | 0 => some (f.sqrt rm (a i))
      | 4 => some (f.rsqrt7 (a i))
      | 5 => some (f.rec7 rm (a i))
      | 16 => some (f.classify (a i), 0)
      | _ => none)
  | 0x17 =>
    if vv || !same || (bit x 25 && vVs2 x != 0) then none
    else some (y.vWrite (vVd x) sb (y.vBody y.vl) (fun i => (if bit x 25 || y.vbit 0 i then b i else a i, 0)))
  | 0x18 | 0x19 | 0x1B | 0x1C | 0x1D | 0x1F =>
    if !vRegs x 8 l8 l8 true || (vv && decide (0x1D ≤ f6)) then none
    else some (y.mWrite (vVd x) (y.vActs x) (fun i => let r := (vFcmp f6 f (a i) (b i)).getD (0, 0); (r.1 == 1, r.2)))
  | 0x31 | 0x33 =>
    if vv && sb == 4 && vGroup (vVs2 x) l8 then
      some (y.vReduce x 4 8 (fun d e => let q := toB64 e; let r := rvFl (b64.add rm d q.1); (r.1, r.2 ||| q.2)))
    else none
  | _ =>
    if f6 < 0x30 then y.vEach x sb (same && !(vv && (f6 == 0x21 || f6 == 0x27))) (fun i => vFlop f6 f rm (a i) (b i) (y.ve (vVd x) sb i))
    else
      let wide := f6 == 0x34 || f6 == 0x36
      y.vEach x 8 (sb == 4 && vRegs x (2 * l8) (if wide then 2 * l8 else l8) l8 false)
        (fun i => vFwide f6 rm (if wide then y.ve (vVs2 x) 8 i else a i) (b i) (y.ve (vVd x) 8 i))

/-- A word of OP-V; none for a reserved one. A conversion of VFUNARY0 may have a side of no format: integers of one or two bytes have no
floating partner. -/
def Hart.vop (y : Hart) (x : Word) : Option Hart :=
  if bits x 14 12 = 7 then y.vconfig x
  else
    match vSetting y.vtype with
    | none => none
    | some (sb, l8) =>
      let r := match bits x 14 12 with
        | 0 | 3 | 4 => y.vOpi x sb l8
        | 2 | 6 => y.vOpm x sb l8
        | _ => (match vFmt sb with | some f => if y.frm < 5 then y.vOpf x sb l8 y.frm f else none
                                   | none => if sb = 2 && vF6 x == 0x12 && y.frm < 5 then y.vOpf x sb l8 y.frm b32 else none)
      r.map (fun z => z.setRcsr cVSTART 0)

/-! ### Loads and stores -/

/-- The elements of a vector access, from vstart up to n and active: number in the register group and offset from the address. Field k of a
segment stands `step` elements after the one before. -/
def Hart.vElems (y : Hart) (x : Word) (n nf step : Nat) (off : Nat → Nat → Dword) : List (Nat × Dword) :=
  ((y.vBody n).filter (y.vAct x)).flatMap (fun i => (List.range nf).map (fun k => (k * step + i, off i k)))

/-- What a vector load or store accesses: log2 of its element's bytes, its elements, and whether it stops at the first fault beyond element
0; none for a reserved word. -/
def Hart.vAccess (y : Hart) (x : Word) : Option (Nat × List (Nat × Dword) × Bool) :=
  let log := match bits x 14 12 with | 0 => 0 | 5 => 1 | 6 => 2 | _ => 3
  let eb := 2 ^ log
  let nf := bits x 31 29 + 1
  let store := bit x 5
  let regs (l8 : Nat) : Bool := vGroup (vVd x) l8 && decide (nf * max 1 (l8 / 8) ≤ 8) && decide (vVd x + nf * max 1 (l8 / 8) ≤ 32) &&
    (store || bit x 25 || vVd x != 0)
  let step (l8 : Nat) : Nat := max 1 (l8 / 8) * 32
  if bit x 28 then none
  else match bits x 27 26, vSetting y.vtype with
    | 0, st =>
      match vVs2 x, st with
      | 8, _ =>
        if bit x 25 && [1, 2, 4, 8].contains nf && vVd x % nf == 0 then
          some (log, (List.range (nf * 32 / eb)).filterMap (fun i => if (y.rcsr cVSTART).toNat ≤ i then some (i, (w (i * eb) : Dword)) else none), false)
        else none
      | 11, some _ =>
        if bit x 25 && nf = 1 && log == 0 then some (0, (y.vBody ((y.vl + 7) / 8)).map (fun i => (i, (w i : Dword))), false) else none
      | k, some (sb, l8) =>
        let e8 := l8 * eb / sb
        if (k = 0 || (k == 16 && !store)) && regs e8 && decide (1 ≤ l8 * eb / sb) then
          some (log, y.vElems x y.vl nf (step e8 / eb) (fun i j => w ((i * nf + j) * eb)), k == 16)
        else none
      | _, none => none
    | 2, some (sb, l8) =>
      let e8 := l8 * eb / sb
      if regs e8 then some (log, y.vElems x y.vl nf (step e8 / eb) (fun i j => w i * y.get (w (vVs2 x)) + w (j * eb)), false) else none
    | _, some (sb, l8) =>
      let i8 := l8 * eb / sb
      if regs l8 && vGroup (vVs2 x) i8 then
        some (Nat.log2 sb, y.vElems x y.vl nf (step l8 / sb) (fun i j => w (y.ve (vVs2 x) eb i) + w (j * sb)), false)
      else none
    | _, none => none

/-- A vector load that stops at the first fault: the elements before the one that faults, with vl cut to them; element 0 faults as any
load does. -/
def firstGood (m : Memory) (x : Xlate) (va : Dword) (size nf : Nat) (es : List (Nat × Dword)) : Nat → Nat
  | 0 => 0
  | n + 1 =>
    match gatherElems m x va size (es.take ((n + 1) * nf)) with
    | .ok _ => n + 1
    | .error _ => firstGood m x va size nf es n

/-- A vector load or store of a hart; an illegal-instruction exception for a reserved word. -/
def State.vecMem (s : State) (h : Nat) (x : Word) : Option State :=
  let y := s.hart h
  let va := y.get (w (bits x 19 15))
  let nf := bits x 31 29 + 1
  (y.vAccess x).map fun a =>
    let log : BitVec 2 := w a.1
    let done (t : State) : State := t.modHart h (fun z => z.setRcsr cVSTART 0)
    let s0 := s.modHart h (fun z => z.setRcsr cVSTART 0)
    if bit x 5 then
      match scatterElems s.mem y.xlate va (2 ^ a.1) (y.vecGroup (w (vVd x))) a.2.1 with
      | .ok _ => done (s0.lanAccess h (.vstore log (w (vVd x)) a.2.1) va)
      | .error _ => s.lanAccess h (.vstore log (w (vVd x)) a.2.1) va
    else
      match gatherElems s.mem y.xlate va (2 ^ a.1) a.2.1 with
      | .ok _ => s0.lanAccess h (.vload log (w (vVd x)) a.2.1) va
      | .error _ =>
        let good := firstGood s.mem y.xlate va (2 ^ a.1) nf a.2.1 (a.2.1.length / nf)
        if a.2.2 && decide (0 < good) then
          let es := a.2.1.take (good * nf)
          let cut := match (a.2.1.drop (good * nf)).head? with | some e => e.1 | none => y.vl
          (s0.lanAccess h (.vload log (w (vVd x)) es) va).modHart h (fun z => z.setRcsr cVL (w cut))
        else s.lanAccess h (.vload log (w (vVd x)) a.2.1) va

end Sys2Proof.Machine
end

