-- ==== Sys2Proof/Machine/HartBase.lean ====
section
/-! DEFINITION. The words of RV64GCV, which a Lantern hart runs beside Xlan (R21): the integer sets I, M and A, the CSR instructions and the
returns from exceptions, with the compressed, floating and vector sets of their own files. The spec names RV64GCV and gives neither words
nor effects of it: all that stands here is PRESUMED from the RISC-V standard (notes/assumptions 3). -/

namespace Sys2Proof.Machine

/-! ### Immediates -/

def rvImmI (x : Word) : Dword := wi 64 (snat 12 (bits x 31 20))
def rvImmS (x : Word) : Dword := wi 64 (snat 12 (bits x 31 25 * 32 + bits x 11 7))
def rvImmB (x : Word) : Dword := wi 64 (snat 13 (bits x 31 31 * 4096 + bits x 7 7 * 2048 + bits x 30 25 * 32 + bits x 11 8 * 2))
def rvImmU (x : Word) : Dword := wi 64 (snat 32 (bits x 31 12 * 4096))
def rvImmJ (x : Word) : Dword :=
  wi 64 (snat 21 (bits x 31 31 * 1048576 + bits x 19 12 * 4096 + bits x 20 20 * 2048 + bits x 30 21 * 2))

/-! ### Integer results, on the low n bits of the operands, sign-extended from n bits -/

/-- The operation of a funct3; `alt` is subtraction or the arithmetic shift. -/
def rvInt (n f3 : Nat) (alt : Bool) (a b : Dword) : Dword :=
  let x := a.toNat % 2 ^ n
  let y := b.toNat % 2 ^ n
  wi 64 (snat n (match f3 with
    | 0 => if alt then x + 2 ^ n - y else x + y
    | 1 => x * 2 ^ (y % n)
    | 2 => b2n (decide (snat n x < snat n y))
    | 3 => b2n (decide (x < y))
    | 4 => x ^^^ y
    | 5 => if alt then (snat n x / 2 ^ (y % n) % 2 ^ n).toNat else x / 2 ^ (y % n)
    | 6 => x ||| y
    | _ => x &&& y))

/-- The multiplications and divisions of a funct3. -/
def rvMul (n f3 : Nat) (a b : Dword) : Dword :=
  let x := a.toNat % 2 ^ n
  let y := b.toNat % 2 ^ n
  let r : Int := match f3 with
    | 0 => x * y
    | 1 => snat n x * snat n y / 2 ^ n
    | 2 => snat n x * y / 2 ^ n
    | 3 => x * y / 2 ^ n
    | 4 => if y = 0 then -1 else (snat n x).tdiv (snat n y)
    | 5 => if y = 0 then -1 else x / y
    | 6 => if y = 0 then x else (snat n x).tmod (snat n y)
    | _ => if y = 0 then x else x % y
  wi 64 (snat n (r % 2 ^ n).toNat)

/-- The result of a word of OP-IMM, OP-IMM-32, OP or OP-32 on its first operand and its second or immediate; none for a reserved one. -/
def rvAlu (x : Word) (a b : Dword) : Option Dword :=
  let f3 := bits x 14 12
  let f7 := bits x 31 25
  let n := if bit x 3 then 32 else 64
  let shift := f3 == 1 || f3 == 5
  if bit x 5 then
    if f7 = 1 then (if n == 32 && (f3 == 1 || f3 == 2 || f3 == 3) then none else some (rvMul n f3 a b))
    else if n == 32 && !(f3 == 0 || shift) then none
    else if f7 = 0 then some (rvInt n f3 false a b)
    else if f7 = 32 && (f3 == 0 || f3 == 5) then some (rvInt n f3 true a b)
    else none
  else if shift then
    let top := if n = 32 then f7 else f7 / 2 * 2
    if top = 0 then some (rvInt n f3 false a (rvImmI x))
    else if top = 32 && f3 == 5 then some (rvInt n f3 true a (rvImmI x))
    else none
  else if n == 32 && f3 != 0 then none
  else some (rvInt n f3 false a (rvImmI x))

/-- Whether a branch is taken; none for a reserved funct3. -/
def rvTaken (f3 : Nat) (a b : Dword) : Option Bool :=
  match f3 with
  | 0 => some (a == b)
  | 1 => some (a != b)
  | 4 => some (decide (a.toInt < b.toInt))
  | 5 => some (!decide (a.toInt < b.toInt))
  | 6 => some (decide (a.toNat < b.toNat))
  | 7 => some (!decide (a.toNat < b.toNat))
  | _ => none

/-- The access of a word of AMO; none for a reserved one. -/
def rvAmo (x : Word) (rd r2 : Reg) : Option LanOp :=
  let log : BitVec 2 := w (bits x 13 12)
  if bits x 14 12 ≠ 2 && bits x 14 12 ≠ 3 then none
  else match bits x 31 27 with
    | 0b00010 => if r2 = 0 then some (.lr log rd) else none
    | 0b00011 => some (.sc log rd r2)
    | 0b00001 => some (.amo .swap log rd r2)
    | 0b00000 => some (.amo .add log rd r2)
    | 0b00100 => some (.amo .xor log rd r2)
    | 0b01100 => some (.amo .and log rd r2)
    | 0b01000 => some (.amo .or log rd r2)
    | 0b10000 => some (.amo .min log rd r2)
    | 0b10100 => some (.amo .max log rd r2)
    | 0b11000 => some (.amo .minu log rd r2)
    | 0b11100 => some (.amo .maxu log rd r2)
    | _ => none

/-! ### How a word ends -/

/-- The hart goes on past a word of n bytes with a result, goes on elsewhere, or takes an exception. -/
def State.rvDone (s : State) (h n : Nat) (rd : Reg) (v : Dword) : State := s.modHart h fun y => (y.set rd v).past n
def State.rvJump (s : State) (h n : Nat) (rd : Reg) (pc : Dword) : State := s.modHart h fun y => { y.set rd (y.pc + w n) with pc := pc }
def State.rvIllegal (s : State) (h : Nat) (x : Word) : State := s.hartTrap h cILLEGAL (w x.toNat) 0

/-- A privileged word that a mode may not run: virtual-instruction in VS-mode and VU-mode where HS-mode could run it. -/
def State.rvRefuse (s : State) (h : Nat) (x : Word) (byHs : Bool) : State :=
  let md := (s.hart h).mode
  s.hartTrap h (if byHs && (md == .vs || md == .vu) then cVIRTUAL else cILLEGAL) (w x.toNat) 0

/-! ### CSRs -/

def cBREAK : Nat := 3
def cECALL : Nat := 8
def rSATP : Nat := 0x180
def rVSATP : Nat := 0x280
def rHGATP : Nat := 0x680
def rMHARTID : Nat := 0xF14

/-- The bits of mstatus that sstatus shows: SIE, SPIE, UBE, SPP, VS, FS, XS, SUM, MXR, UXL and SD. -/
def sstatusMask : Dword := 0x80000003000DE762

def rMIE : Nat := 0x304
def rMIP : Nat := 0x344
def rMISA : Nat := 0x301
def rVLENB : Nat := 0xC22

/-- RV64GCV with the modes S and U and the hypervisor's. -/
def misaValue : Dword := 0x80000000003411AD

/-- The counters, whose counts the spec does not give. -/
def isRvCounter (n : Nat) : Bool := (decide (0xC00 ≤ n) && decide (n < 0xC20)) || (decide (0xB00 ≤ n) && decide (n < 0xB20) && n != 0xB01)

/-- The CSRs of RISC-V that only hold a value: the trap registers of its modes, the event selects and the memory protection among them. -/
def isRvPlain (n : Nat) : Bool :=
  [cVSTART, 0x105, 0x106, 0x10A, 0x140, 0x141, 0x142, 0x143, 0x200, 0x205, 0x240, 0x241, 0x242, 0x243, 0x300, 0x302, 0x303, rMIE, 0x305,
   0x306, 0x30A, 0x320, 0x340, 0x341, 0x342, 0x343, rMIP, 0x34A, 0x34B, 0x600, 0x602, 0x603, 0x605, 0x606, 0x607, 0x60A, 0x643, 0x64A].contains n ||
  (decide (0x323 ≤ n) && decide (n < 0x340)) || (decide (0x3A0 ≤ n) && decide (n < 0x3B0) && n % 2 == 0) || (decide (0x3B0 ≤ n) && decide (n < 0x3F0))

/-- The CSRs that show bits of another: its number, the least bit shown, the bits shown, and those of them that are written. -/
def Hart.csrView (y : Hart) (n : Nat) : Option (Nat × Nat × Dword × Dword) :=
  let low : Dword := w 0x222
  let del := y.rcsr mIDELEG &&& low
  let vs : Dword := (y.rcsr hIDELEG &&& (w 0x444)).ushiftRight 1
  match n with
  | 0x001 => some (cFCSR, 0, w 0x1F, w 0x1F)
  | 0x002 => some (cFCSR, 5, w 0x7, w 0x7)
  | 0x003 => some (cFCSR, 0, w 0xFF, w 0xFF)
  | 0x009 => some (cVCSR, 0, w 0x1, w 0x1)
  | 0x00A => some (cVCSR, 1, w 0x3, w 0x3)
  | 0x00F => some (cVCSR, 0, w 0x7, w 0x7)
  | 0x100 => some (mSTATUS, 0, sstatusMask, sstatusMask)
  | 0x104 => some (rMIE, 0, del, del)
  | 0x144 => some (rMIP, 0, del, del &&& w 0x2)
  | 0x204 => some (rMIE, 1, vs, vs)
  | 0x244 => some (rMIP, 1, vs, vs &&& w 0x2)
  | 0x604 => some (rMIE, 0, w 0x1444, w 0x1444)
  | 0x644 => some (rMIP, 0, w 0x1444, w 0x4)
  | 0x645 => some (rMIP, 0, w 0x444, w 0x444)
  | _ => none

/-- The read-only CSRs of a constant or of one field. -/
def Hart.csrFixed (y : Hart) (h n : Nat) : Option Dword :=
  match n with
  | 0xC20 => some (w y.vl)
  | 0xC21 => some y.vtype
  | 0xC22 => some (w 32)
  | 0x301 => some misaValue
  | 0xF11 | 0xF12 | 0xF13 | 0xF15 | 0xE12 => some 0
  | 0xF14 => some (w h)
  | _ => none

/-- The register an S-mode number names: in VS-mode the VS one, where there is one. -/
def Hart.csrNum (y : Hart) (n : Nat) : Nat := if y.mode == .vs && decide (n / 256 = 1) && n != 0x106 && n != 0x10A then n + 256 else n

/-- The value a CSR of RISC-V reads as, a counter's given as `count`; none for a number that names no CSR. -/
def Hart.csrGet (y : Hart) (h n : Nat) (count : Dword) : Option Dword :=
  match y.csrView n with
  | some (b, l, m, _) => some ((y.rcsr b).ushiftRight l &&& m)
  | none =>
    match y.csrFixed h n with
    | some v => some v
    | none =>
      if n = rSATP then some y.satp
      else if n = rVSATP then some y.vsatp
      else if n = rHGATP then some y.hgatp
      else if isRvCounter n then some count
      else if isRvPlain n then some (y.rcsr n)
      else none

/-- A CSR of RISC-V written; a root of translation takes no MODE but Bare and that of R339, and vstart holds an element's number. -/
def Hart.csrPut (y : Hart) (n : Nat) (v : Dword) : Hart :=
  let legal := bits v 63 60 = 0 ∨ bits v 63 60 = 14
  match y.csrView n with
  | some (b, l, _, m) => y.setRcsr b ((y.rcsr b &&& ~~~(m <<< l)) ||| ((v &&& m) <<< l))
  | none =>
    if n = rSATP then (if legal then { y with satp := v } else y)
    else if n = rVSATP then (if legal then { y with vsatp := v } else y)
    else if n = rHGATP then (if legal then { y with hgatp := v } else y)
    else if n = cVSTART then y.setRcsr n (v &&& w 0xFF)
    else if isRvPlain n then y.setRcsr n v
    else y

/-- The value a CSR instruction writes: none where it writes nothing. -/
def rvCsrNew (f3 : Nat) (r1 : Reg) (src old : Dword) : Option Dword :=
  match f3 % 4 with
  | 1 => some src
  | 2 => if r1 = 0 then none else some (old ||| src)
  | _ => if r1 = 0 then none else some (old &&& ~~~src)

/-- A CSR instruction on a device CSR: the value read before the write takes effect; an access below its least level writes nothing. -/
def State.rvDeviceCsr (s : State) (h n : Nat) (rd : Reg) (new : Dword → Option Dword) : State :=
  let y := s.hart h
  let old := s.csrValue y n
  match new old with
  | none => s.csrGate h n false (fun _ s => s.modHart h fun z => z.set rd old)
  | some v =>
    match csrLeast n true with
    | none => s.csrWrite h n v
    | some l => if y.mode.level < l then s.csrWrite h n v else (s.csrWrite h n v).modHart h fun z => z.set rd old

/-- A CSR instruction on a CSR of RISC-V: bits 9:8 of its number are the least level, and bits 11:10 both 1 make it read-only. TVM and
VTVM keep satp from HS-mode and VS-mode. The value of a counter is a free one. -/
def State.rvOwnCsr (s : State) (h n : Nat) (x : Word) (rd : Reg) (new : Dword → Option Dword) : State :=
  let y := s.hart h
  let least := n / 256 % 4
  match y.csrGet h (y.csrNum n) (Config.freeWord s.freeCtr ++ Config.freeWord (s.freeCtr + 1)) with
  | none => s.rvIllegal h x
  | some old =>
    let s := if isRvCounter n then { s with freeCtr := s.freeCtr + 2 } else s
    if y.mode.level < least then s.rvRefuse h x (decide (least ≤ 2))
    else if n = rSATP && y.mode == .vs && bit (y.rcsr hSTATUS) 20 then s.rvRefuse h x true
    else if (n = rSATP || n = rHGATP) && y.mode == .hs && bit (y.rcsr mSTATUS) 20 then s.rvIllegal h x
    else match new old with
      | none => s.rvDone h 4 rd old
      | some v => if n / 1024 = 3 then s.rvIllegal h x else s.modHart h fun z => ((z.csrPut (y.csrNum n) v).set rd old).advance

/-! ### Returns from exceptions and waits -/

/-- mret: the mode that mstatus saved, its interrupt enable unstacked, the pc at mepc. -/
def Hart.mret (y : Hart) : Hart :=
  let st := y.rcsr mSTATUS
  let mode : Mode := match bits st 12 11 with
    | 3 => .m
    | 0 => if bit st 39 then .vu else .u
    | _ => if bit st 39 then .vs else .hs
  let st := putBits (putBits (putBits (putBits st 3 3 (b2n (bit st 7))) 7 7 1) 12 11 0) 39 39 0
  { y.setRcsr mSTATUS (if mode == .m then st else putBits st 17 17 0) with mode := mode, pc := putBits (y.rcsr mEPC) 0 0 0 }

/-- sret: in VS-mode from the VS registers; else from mstatus and hstatus. -/
def Hart.sret (y : Hart) : Hart :=
  if y.mode == .vs then
    let st := y.rcsr vSTATUS
    let mode : Mode := if bit st 8 then .vs else .vu
    let st := putBits (putBits (putBits st 1 1 (b2n (bit st 5))) 5 5 1) 8 8 0
    { y.setRcsr vSTATUS st with mode := mode, pc := putBits (y.rcsr vEPC) 0 0 0 }
  else
    let st := y.rcsr mSTATUS
    let hs := y.rcsr hSTATUS
    let mode : Mode := match bit st 8, bit hs 7 with
      | true, true => .vs
      | true, false => .hs
      | false, true => .vu
      | false, false => .u
    let st := putBits (putBits (putBits (putBits st 1 1 (b2n (bit st 5))) 5 5 1) 8 8 0) 17 17 0
    { (y.setRcsr mSTATUS st).setRcsr hSTATUS (putBits hs 7 7 0) with mode := mode, pc := putBits (y.rcsr xEPC) 0 0 0 }

/-- The cause of an environment call of a mode. -/
def ecallCause (md : Mode) : Nat :=
  match md with
  | .u | .vu => cECALL
  | .hs => cECALL + 1
  | .vs => cECALL + 2
  | .m => cECALL + 3

/-- A word of SYSTEM with funct3 0. The fences of translation remove nothing, since every access walks afresh, and a wait ends at once. -/
def State.rvPriv (s : State) (h : Nat) (x : Word) : State :=
  let y := s.hart h
  let st := y.rcsr mSTATUS
  let hs := y.rcsr hSTATUS
  let go : State := s.modHart h Hart.advance
  if x = 0x00000073 then s.hartTrap h (ecallCause y.mode) 0 0
  else if x = 0x00100073 then s.hartTrap h cBREAK y.pc 0
  else if x = 0x30200073 then (if y.mode == .m then s.modHart h Hart.mret else s.rvRefuse h x false)
  else if x = 0x10200073 then
    (if y.mode == .u || y.mode == .vu then s.rvRefuse h x true
     else if y.mode == .hs && bit st 22 then s.rvIllegal h x
     else if y.mode == .vs && bit hs 22 then s.rvRefuse h x true
     else s.modHart h Hart.sret)
  else if x = 0x10500073 then
    (if bit st 21 && y.mode != .m then s.rvIllegal h x
     else if bit hs 21 && (y.mode == .vs || y.mode == .vu) then s.rvRefuse h x true
     else go)
  else if bits x 11 7 ≠ 0 then s.rvIllegal h x
  else if bits x 31 25 = 0b0001001 then
    (if y.mode == .u || y.mode == .vu then s.rvRefuse h x true
     else if y.mode == .hs && bit st 20 then s.rvIllegal h x
     else if y.mode == .vs && bit hs 20 then s.rvRefuse h x true
     else go)
  else if bits x 31 25 = 0b0010001 then (if y.mode == .m || y.mode == .hs then go else s.rvRefuse h x true)
  else if bits x 31 25 = 0b0110001 then
    (if y.mode == .m || (y.mode == .hs && !bit st 20) then go else s.rvRefuse h x true)
  else s.rvIllegal h x

/-- The translation of the hypervisor's loads and stores: that of VS-mode or VU-mode, as hstatus.SPVP says. -/
def Hart.guestXlate (y : Hart) : Xlate := { y with mode := if bit (y.rcsr hSTATUS) 8 then .vs else .vu }.xlate

/-- The access of a hypervisor load or store, as its guest makes it, with the exceptions of a guest. -/
def State.rvGuestLoad (s : State) (h n : Nat) (signed : Bool) (rd : Reg) (va : Dword) : State :=
  let y := s.hart h
  match vread s.mem y.guestXlate va.toNat n with
  | .ok bs =>
    match s.denied y.mode.level y.guestXlate va.toNat n false with
    | some a => s.lanPriv h 4 a false
    | none => s.rvDone h 4 rd (loadValue bs signed)
  | .error (o, f) => s.hartTrap h (hartFaultCause f y.guestXlate.s2.isSome false false) (va + w o) (w (f.ga / 4))
def State.rvGuestStore (s : State) (h n : Nat) (v : Dword) (va : Dword) : State :=
  let y := s.hart h
  match vwrite s.mem y.guestXlate va.toNat (leBytes v.toNat n) with
  | .ok m =>
    match s.denied y.mode.level y.guestXlate va.toNat n true with
    | some a => s.lanPriv h 4 a true
    | none =>
      let ps := match locate s.mem y.guestXlate .write va.toNat (piecesOf va.toNat n) with | .ok ps => ps | .error _ => []
      ({ s with mem := m }.endReservations h ps).modHart h Hart.advance
  | .error (o, f) => s.hartTrap h (hartFaultCause f y.guestXlate.s2.isSome true false) (va + w o) (w (f.ga / 4))

/-- A hypervisor load or store: HLV, HLVX and HSV of 1, 2, 4 or 8 bytes; U-mode runs one where hstatus.HU is set. -/
def State.rvGuest (s : State) (h : Nat) (x : Word) (rd r2 : Reg) (a b : Dword) : State :=
  let y := s.hart h
  let f7 := bits x 31 25
  let log := f7 / 2 % 4
  let k := r2.toNat
  if f7 / 8 ≠ 6 then s.rvIllegal h x
  else if y.mode == .vs || y.mode == .vu then s.hartTrap h cVIRTUAL (w x.toNat) 0
  else if y.mode == .u && !bit (y.rcsr hSTATUS) 9 then s.rvIllegal h x
  else if f7 % 2 = 1 then (if rd = 0 then s.rvGuestStore h (2 ^ log) b a else s.rvIllegal h x)
  else if k = 0 || (k == 1 && log != 3) || (k == 3 && (log == 1 || log == 2)) then s.rvGuestLoad h (2 ^ log) (k == 0) rd a
  else s.rvIllegal h x

/-- A word of SYSTEM. -/
def State.rvSystem (s : State) (h : Nat) (x : Word) (rd r1 r2 : Reg) (a b : Dword) : State :=
  let f3 := bits x 14 12
  let n := bits x 31 20
  let src := if f3 < 4 then a else w r1.toNat
  if f3 = 0 then s.rvPriv h x
  else if f3 = 4 then s.rvGuest h x rd r2 a b
  else if Sys2Proof.isDeviceCsr n then s.rvDeviceCsr h n rd (rvCsrNew f3 r1 src)
  else s.rvOwnCsr h n x rd (rvCsrNew f3 r1 src)

/-! ### The words -/

/-- A hart runs a word x of RISC-V, which it fetched as the n bytes f. A reserved word is an illegal-instruction exception. -/
def State.rvRun (s : State) (h n : Nat) (f x : Word) : State :=
  let y := s.hart h
  let f3 := bits x 14 12
  let rd : Reg := w (bits x 11 7)
  let r1 : Reg := w (bits x 19 15)
  let r2 : Reg := w (bits x 24 20)
  let a := y.get r1
  let b := y.get r2
  let ill := s.rvIllegal h f
  let whole (o : Option State) : State := o.getD ill
  let unit (o : Option Hart) : State := whole (o.map fun z => s.setHart h z.advance)
  match bits x 6 0 with
  | 0x37 => s.rvDone h n rd (rvImmU x)
  | 0x17 => s.rvDone h n rd (y.pc + rvImmU x)
  | 0x6F => s.rvJump h n rd (y.pc + rvImmJ x)
  | 0x67 => if f3 = 0 then s.rvJump h n rd (putBits (a + rvImmI x) 0 0 0) else ill
  | 0x63 =>
    match rvTaken f3 a b with
    | some t => s.modHart h fun z => if t then { z with pc := z.pc + rvImmB x } else z.past n
    | none => ill
  | 0x03 => if f3 = 7 then ill else s.lanAccessBy h n (.load (w (f3 % 4)) (decide (f3 < 4)) rd) (a + rvImmI x)
  | 0x23 => if 4 ≤ f3 then ill else s.lanAccessBy h n (.store (w f3) r2) (a + rvImmS x)
  | 0x07 =>
    if f3 = 2 ∨ f3 = 3 then s.lanAccessBy h n (.fload (w f3) rd) (a + rvImmI x)
    else if f3 = 1 ∨ f3 = 4 then ill else whole (s.vecMem h x)
  | 0x27 =>
    if f3 = 2 ∨ f3 = 3 then s.lanAccessBy h n (.fstore (w f3) r2) (a + rvImmS x)
    else if f3 = 1 ∨ f3 = 4 then ill else whole (s.vecMem h x)
  | 0x2F =>
    match rvAmo x rd r2 with
    | some op => s.lanAccess h op a
    | none => ill
  | 0x13 | 0x1B | 0x33 | 0x3B =>
    match rvAlu x a b with
    | some v => s.rvDone h n rd v
    | none => ill
  | 0x0F => if f3 ≤ 1 then s.modHart h Hart.advance else ill
  | 0x73 => s.rvSystem h x rd r1 r2 a b
  | 0x53 => unit (y.fop x)
  | 0x43 | 0x47 | 0x4B | 0x4F => unit (y.fmaOp x)
  | 0x57 => unit (y.vop x)
  | _ => ill

/-- A hart runs a word that is not Xlan's: one of two bytes as the word of four that it stands for. -/
def State.rvStep (s : State) (h : Nat) (x : Word) : State :=
  if rvLen x.toNat = 4 then s.rvRun h 4 x x
  else match rvcWord x.toNat with
    | some y => s.rvRun h 2 x (w y)
    | none => s.rvIllegal h x

end Sys2Proof.Machine
end

