-- ==== Sys2Proof/Machine/Tick.lean ====
section
/-! DEFINITION. One fclk cycle: what passes without an event of its own (R4, R95, R238, R251, R353, R441). -/

namespace Sys2Proof.Machine

/-- What an element does in every cycle in which it can, where no event of the cycle has done it: barriers and snuff markers merge or are
dropped, a pair discards, and the rule that holds fires (R243, R257, R308). -/
def State.elementFires (s : State) (n : Nat) : State :=
  let s := (s.markMerge n).pairDiscard n
  if isCt n then s.ctFire n else (s.mtFire n).streamFire n

/-- The firings of a cycle. -/
def State.fires (s : State) : State :=
  (s.regions.filter (fun x => x.2.active)).foldl (fun s x => (s.listed x.2).foldl State.elementFires s) s

/-- The cycle of every element of a region that runs or freezes. -/
def State.elementCycle (s : State) : State :=
  (s.regions.filter (fun x => x.2.active || x.2.state == .freezing)).foldl (fun s x => s.regionCycle x.2) s

/-- The cycle count of a region runs while it is RUNNING or DRAINING (R441). -/
def State.countRegions (s : State) : State :=
  { s with regions := s.regions.map (fun (x : Nat × Region) => if x.2.active then (x.1, { x.2 with cycles := x.2.cycles + 1 }) else x) }

/-- Withheld accesses age (R347), started services run down their watchdogs (R428), and collectives age (R458). -/
def State.countWaits (s : State) : State :=
  { s with
    parts := s.parts.map (fun (x : Nat × Partition) => (x.1, { x.2 with
      held := x.2.held.map (fun (h : Held) => { h with age := h.age + 1 })
      svcs := x.2.svcs.map (fun (y : Nat × Service) => (y.1, { y.2 with left := y.2.left - 1 })) }))
    colls := s.colls.map (fun (x : Nat × List Coll) => (x.1, x.2.map (fun (c : Coll) => { c with age := c.age + 1 }))) }

/-- A cycle. -/
def State.tick (s : State) : State := (({ s with cycle := s.cycle + 1 }).fires.elementCycle).countRegions.countWaits

end Sys2Proof.Machine
end

