-- ==== Sys2Proof/Machine/Step.lean ====
section
/-! DEFINITION. One step of the module: the agent that moves next, taken from the agenda, fetches and runs one instruction, or
a cycle passes (notes/assumptions 4). -/

namespace Sys2Proof.Machine

/-- Whether the outcome of a sequencer's instruction is a trap of it. -/
def trapsNow (sq : Nat) (o : Host.Outcome State Fault Refusal) : Bool :=
  match o with
  | .next t => (match t.region? sq with | some r => r.seq.trapped.isSome | none => false)
  | _ => false

/-- A sequencer's move: the instruction at its PC, or the debug stop that lands before it, unless the instruction traps (R448). -/
def stepSeq (sq : Nat) (s : State) : Host.Outcome State Fault Refusal :=
  match s.region? sq with
  | none => .next s
  | some r =>
    if !r.active || r.seq.stopNext || s.seqOut sq then .next s
    else if s.debugDue sq && !trapsNow sq (exec r.instr (s.atSeq sq)) then exec (.debugStop sq) s
    else exec r.instr (s.atSeq sq)

/-- A hart's move: a waiting hart does nothing; a fetch that faults is its exception; a word of RV64GCV runs (R21), fence and fence.i
ordering only what is in order already (R391). -/
def stepHart (h : Nat) (s : State) : Host.Outcome State Fault Refusal :=
  if (s.hart h).wait.isSome || s.hartOut h then .next s
  else
    match s.hartWord (s.hart h) with
    | .error (o, f) => .next (s.hartFault h f false true ((s.hart h).pc.toNat + o))
    | .ok x =>
      match decodeXlan x with
      | some i => exec i { s with curHart := h }
      | none => .next (s.rvStep h x)

/-- An install engine's move: the next word of the stream, performed. -/
def stepStream (rn : Nat) (s : State) : Host.Outcome State Fault Refusal :=
  match s.streamFetch rn with
  | .inl t => .next t
  | .inr (esc, x) => exec (decodeStream esc x) { s with curReg := rn }

/-- An event's move; one that names no unit of the module, or is no event, moves nothing. -/
def stepEvent (i : Instr) (s : State) : Host.Outcome State Fault Refusal :=
  if isEvent i && WellFormed i then exec i s else .next s

/-- A move of an agent. -/
def stepMove (m : Move) (s : State) : Host.Outcome State Fault Refusal :=
  match m with
  | .tick => .next s.tick
  | .seq sq => stepSeq sq s
  | .hart h => stepHart h s
  | .stream rn => stepStream rn s
  | .ev i => stepEvent i s

/-- The step: without a supply nothing runs but a power-on reset. -/
def step (s : State) : Host.Outcome State Fault Refusal :=
  match s.agenda with
  | [] => if s.power then .next s.tick else .fault .powerOff
  | m :: rest => if s.power || m == .ev .coldReset then stepMove m { s with agenda := rest } else .fault .powerOff

/-- A state whose very next step fetches and runs an instruction: on hart 0 for an Xlan word, else on sequencer 0. -/
def State.withFetchWord (s : State) (nbits wd : Nat) : State :=
  let x : Word := BitVec.ofNat 32 wd
  match decodeTableWord nbits wd, decodeXlan x with
  | some i, some j => if i = j then s.placeHart x else s.placeSeq x
  | _, _ => s.placeSeq x

end Sys2Proof.Machine
end

