-- ==== Sys2Proof/Safety.lean ====
section
/-! DEFINITION. What a safe step and a safe run are, the invariants claims use, and the conditions and results they name. -/

namespace Sys2Proof.Machine

/-- A step that ends in a next state. -/
def Steps (s t : State) : Prop := step s = .next t

/-- A state that some number of steps reaches. -/
inductive Reaches : State → State → Prop
  | refl (s : State) : Reaches s s
  | tail {s t u : State} : Reaches s t → Steps t u → Reaches s u

/-- The memory of a state is in its canonical form. -/
def State.memOk (s : State) : Prop := s.mem.wf = true

/-- The sequencer of a region issues an instruction with these sources and this destination: the region runs or drains, no
SNUF has stopped the sequencer, every source and the destination are full (R199). -/
def Region.mayIssue (r : Region) (srcs : List Src) (dst : Option Reg) : Prop :=
  r.active = true ∧ r.seq.stopNext = false ∧ (∀ x ∈ srcs, r.seq.isFull x.reg = true) ∧
  (∀ d, dst = some d → r.seq.isFull d = true)

/-- The state with nothing changed but the sequencer that issues, which becomes q. -/
def State.withSeq (s : State) (r : Region) (q : Seq) : State := s.setRegion s.curSeq { r with seq := q }

/-- The hart that runs an Xlan instruction may perform it: it does not wait, its level is high enough, and where it acts for a
partition that vdpart names, that is in force (R12, R79, R146). -/
def State.mayRun (s : State) (least : Nat) : Prop :=
  s.me.wait = none ∧ least ≤ s.me.mode.level ∧ (2 ≤ s.me.mode.level → (s.part s.me.actPart).active = true)

/-- The state with nothing changed but the hart that runs, whose rd holds v and whose pc is past its word (R142). -/
def State.withResult (s : State) (rd : Reg) (v : Dword) : State :=
  s.setHart s.curHart { (s.me.set rd v) with pc := s.me.pc + 4 }

/-- No byte of memory but those from a to a + n changes. -/
def sameMemoryBut (s t : State) (a n : Nat) : Prop := ∀ b, (b < a ∨ a + n ≤ b) → t.mem.get b = s.mem.get b

end Sys2Proof.Machine
end

