-- ==== Sys2Proof/Certificates/Slice0/Obligations.lean ====
section
/-! DEFINITION. The statements for the provers: what the rules of the spec say the words, the machine and each instruction do. -/

open Sys2Proof Sys2Proof.Machine

/-! ### Words (R49, R50, R75-R79) -/

/-- Decoding the words of a well-formed instruction gives it back, with every operand at every value (R75-R79, R49-R51): by the
decoder of the agent that fetches it. An instruction with no words is a step or the trap of a fetch. -/
def Obligations.EncodedWordsDecode : Prop :=
  ∀ i : Instr, WellFormed i = true →
    match encode i with
    | [] => isEvent i = true ∨ i = .badpc
    | [x] => decodeSeq x = i ∨ decodeXlan x = some i ∨ decodeStream false x = i
    | [e, x] => decodeStream false e = .cfgEsc 0 ∧ decodeStream true x = i
    | _ => False

/-- No two words decode to one instruction, and no bit of a word is dropped (R75-R79, R49, R50): the word of what a decoder
gives is the word read. -/
def Obligations.DecodedWordsEncode : Prop :=
  (∀ x : Word, encode (decodeSeq x) = [x]) ∧
  (∀ (x : Word) (i : Instr), decodeXlan x = some i → encode i = [x]) ∧
  (∀ x : Word, encode (decodeStream false x) = [x]) ∧
  (∀ x : Word, decodeXlan x = none ↔ x.extractLsb' 0 7 ≠ 0b0001011 ∧ x.extractLsb' 0 7 ≠ 0b0101011)

/-- Words written out bit by bit from the encoding tables (R75, R76, R78, R50), and of the words outside the tables these are rejected by name
(R77, R79, R50): an unassigned OPC, an ALU FN of 12 to 511, a non-zero FN of the opcodes listed here, a FN of 2 or more of opcodes 0x24 and 0x30, a
funct3 of Xlan with no instruction, a command code above 7. -/
def Obligations.ListedWordsDecode : Prop :=
  -- ADD s3, s1, s2 with T of the first source: 000000 00011 00001 00010 1 0 000000000
  decodeSeq 0b00000000011000010001010000000000 = .add 3 ⟨1, true⟩ ⟨2, false⟩ ∧
  -- ADDI s3, s1, -1: 000001 00011 00001 0 111111111111111
  decodeSeq 0b00000100011000010111111111111111 = .addi 3 ⟨1, false⟩ 0x7FFF ∧
  -- BLTU s4, s5, +2 words: 001110 00100 00101 0 0 00000000000010
  decodeSeq 0b00111000100001010000000000000010 = .bltu ⟨4, false⟩ ⟨5, false⟩ 2 ∧
  -- ST s7, s6, 8: 010101 00111 00110 0 0 00000000001000
  decodeSeq 0b01010100111001100000000000001000 = .st ⟨7, false⟩ ⟨6, false⟩ 8 ∧
  -- LUI s1, 1: 001001 00001 000000000000000000001
  decodeSeq 0b00100100001000000000000000000001 = .lui 1 1 ∧
  -- RETIRE: 100110 and zeros
  decodeSeq 0b10011000000000000000000000000000 = .retire ∧
  -- rg.claim x5, x6, x7: 0000000 00111 00110 010 00101 0001011
  decodeXlan 0b00000000011100110010001010001011 = some (.rgClaim 5 6 7) ∧
  -- bist.stat x5, x6: 0000001 00000 00110 010 00101 0101011
  decodeXlan 0b00000010000000110010001010101011 = some (.bistStat 5 6) ∧
  -- BEGIN 0x1234: 11111111 00000001 and the operand
  decodeStream false 0b11111111000000010001001000110100 = .cfgBegin 0x1234 ∧
  -- element write to index 0x21, field 0xF2, value 1
  decodeStream false 0b00100001111100100000000000000001 = .cfgElementWrite 0x21 0xF2 1 ∧
  (∀ x : Word, fOpc x ∈ [0x13, 0x1B, 0x23, 0x2B, 0x2D, 0x2E, 0x2F, 0x35, 0x36, 0x37, 0x38, 0x39, 0x3A, 0x3B, 0x3C, 0x3D, 0x3E, 0x3F] →
    decodeSeq x = .illeg x) ∧
  (∀ x : Word, fOpc x = 0 → 12 ≤ (fFn x).toNat → decodeSeq x = .illeg x) ∧
  (∀ x : Word, fOpc x ∈ [0x12, 0x18, 0x19, 0x1C, 0x1D, 0x1F, 0x20, 0x21, 0x25, 0x27, 0x28, 0x29, 0x2A, 0x2C] → fFn x ≠ 0 →
    decodeSeq x = .illeg x) ∧
  (∀ x : Word, fOpc x ∈ [0x24, 0x30] → 2 ≤ (fFn x).toNat → decodeSeq x = .illeg x) ∧
  (∀ x : Word, x.extractLsb' 0 7 = 0b0001011 → 4 ≤ (x.extractLsb' 12 3).toNat → decodeXlan x = some (.xlanIllegalInstruction x)) ∧
  (∀ x : Word, x.extractLsb' 0 7 = 0b0101011 → 3 ≤ (x.extractLsb' 12 3).toNat → decodeXlan x = some (.xlanIllegalInstruction x)) ∧
  (∀ x : Word, x.extractLsb' 24 8 = 0xFF → 8 ≤ (x.extractLsb' 16 8).toNat → decodeStream false x = .badcmd x)

/-! ### The step -/

/-- A step of an agent runs the instruction its next word decodes to (R201, R21, R49): of a sequencer whose region runs or drains,
of a hart that does not wait, of an install engine; and an event named by the agenda runs where it is well formed. An agenda entry that is no
event of this module moves nothing (the model's choice, notes/assumptions 4); fence and fence.i let their hart go on (R391). A word of RISC-V's
sets, which R21 names and the spec does not give, is fetched as two bytes, and as four where its low two bits are 1, and has RISC-V's effect
(PRESUMED, notes/assumptions 3): addi, add, sub, beq, a load of a doubleword, ecall, c.nop and one word of c.addi are stated. -/
def Obligations.StepRunsDecoded : Prop :=
  (∀ (s : State) (rest : List Move) (sq : Nat) (r : Region) (x : Word),
    s.power = true → s.agenda = .seq sq :: rest → s.region? sq = some r → r.active = true → r.seq.stopNext = false →
    s.seqOut sq = false → State.debugDue { s with agenda := rest } sq = false → r.seq.pc % 4 = 0 → r.code[r.seq.pc / 4]? = some x →
    step s = exec (decodeSeq x)
      (State.setRegion { s with agenda := rest, curSeq := sq } sq { r with seq := { r.seq with first := false } })) ∧
  (∀ (s : State) (rest : List Move) (sq : Nat) (r : Region),
    s.power = true → s.agenda = .seq sq :: rest → s.region? sq = some r → r.active = true → r.seq.stopNext = false →
    s.seqOut sq = false → State.debugDue { s with agenda := rest } sq = false → 4 * r.code.length ≤ r.seq.pc →
    step s = exec .badpc
      (State.setRegion { s with agenda := rest, curSeq := sq } sq { r with seq := { r.seq with first := false } })) ∧
  (∀ (s : State) (rest : List Move) (h : Nat) (bs : List Byte) (i : Instr),
    s.power = true → s.agenda = .hart h :: rest → (s.hart h).wait = none → s.hartOut h = false →
    (vread s.mem (s.hart h).xlate (s.hart h).pc.toNat 2).toOption.any (fun b => leNat b % 4 == 3) = true →
    vread s.mem (s.hart h).xlate (s.hart h).pc.toNat 4 = .ok bs → decodeXlan (BitVec.ofNat 32 (leNat bs)) = some i →
    step s = exec i { s with agenda := rest, curHart := h }) ∧
  (∀ (s : State) (rest : List Move) (rn : Nat) (r : Region) (i : Install) (bs : List Byte),
    s.power = true → s.agenda = .stream rn :: rest → s.region? rn = some r → r.inst = some i → i.byCfg = false →
    s.isHeld i.xl.part (.cfg rn) = false → vread s.mem i.xl (i.va.toNat + 4 * i.next) 4 = .ok bs →
    step s = exec (decodeStream i.esc (BitVec.ofNat 32 (leNat bs))) { s with agenda := rest, curReg := rn }) ∧
  (∀ (s : State) (rest : List Move) (i : Instr),
    s.power = true → s.agenda = .ev i :: rest → isEvent i = true → WellFormed i = true →
    step s = exec i { s with agenda := rest }) ∧
  (∀ (s : State) (rest : List Move) (i : Instr),
    s.power = true → s.agenda = .ev i :: rest → isEvent i = false ∨ WellFormed i = false → step s = .next { s with agenda := rest }) ∧
  (∀ (s : State) (rest : List Move) (h : Nat) (bs : List Byte),
    s.power = true → s.agenda = .hart h :: rest → (s.hart h).wait = none → s.hartOut h = false →
    (vread s.mem (s.hart h).xlate (s.hart h).pc.toNat 2).toOption.any (fun b => leNat b % 4 == 3) = true →
    vread s.mem (s.hart h).xlate (s.hart h).pc.toNat 4 = .ok bs → decodeXlan (BitVec.ofNat 32 (leNat bs)) = none →
    step s = .next (State.rvStep { s with agenda := rest } h (BitVec.ofNat 32 (leNat bs)))) ∧
  (∀ (s : State) (rest : List Move) (h : Nat) (bs : List Byte),
    s.power = true → s.agenda = .hart h :: rest → (s.hart h).wait = none → s.hartOut h = false →
    vread s.mem (s.hart h).xlate (s.hart h).pc.toNat 2 = .ok bs → leNat bs % 4 ≠ 3 →
    step s = .next (State.rvStep { s with agenda := rest } h (BitVec.ofNat 32 (leNat bs)))) ∧
  (∀ (s : State) (h : Nat) (x : Word),
    let y := s.hart h
    let op := bits x 6 0
    let f3 := bits x 14 12
    let rd : Reg := BitVec.ofNat 5 (bits x 11 7)
    let a := y.get (BitVec.ofNat 5 (bits x 19 15))
    let b := y.get (BitVec.ofNat 5 (bits x 24 20))
    let imm : Dword := (BitVec.ofNat 12 (bits x 31 20)).signExtend 64
    let next (y : Hart) : State := s.setHart h { y with pc := (s.hart h).pc + 4 }
    let next2 (y : Hart) : State := s.setHart h { y with pc := (s.hart h).pc + 2 }
    (op = 0b0001111 → f3 ≤ 1 → s.rvStep h x = next y) ∧
    (op = 0b0010011 → f3 = 0 → s.rvStep h x = next (y.set rd (a + imm))) ∧
    (op = 0b0110011 → f3 = 0 → bits x 31 25 = 0 → s.rvStep h x = next (y.set rd (a + b))) ∧
    (op = 0b0110011 → f3 = 0 → bits x 31 25 = 32 → s.rvStep h x = next (y.set rd (a - b))) ∧
    (op = 0b1100011 → f3 = 0 → ∃ off : Dword, off.toInt = (bits x 11 8 * 2 + bits x 30 25 * 32 + bits x 7 7 * 2048 : Int) - bits x 31 31 * 4096 ∧
      s.rvStep h x = s.setHart h { y with pc := if a = b then y.pc + off else y.pc + 4 }) ∧
    (op = 0b0000011 → f3 = 3 → y.wait = none → s.hartOut h = false →
      exec (.lanternLoadStore h (.load 3 true rd) (a + imm)) s = .next (s.rvStep h x)) ∧
    (x = 0x00000073 → s.rvStep h x = s.setHart h (y.takeTrap (match y.mode with | .u => 8 | .vu => 8 | .hs => 9 | .vs => 10 | .m => 11)
      false 0 0)) ∧
    (x = 0x00000001 → s.rvStep h x = next2 y) ∧
    (x = 0x0000147D → s.rvStep h x = next2 (y.set 8 (y.get 8 - 1))))

/-- What the resets leave (R463, R464): a cold reset zeroes device memory, leaves the host's, shows in the boot status whether the fuses load, and puts every register at its reset value, keeping the fuses; a
warm one keeps device memory and the staging windows too; the loss of the supply loses what is not fused, and then nothing runs
but a power-on reset (R430). The numbers of the carrier board, the count of cycles, the free values' counter and the agenda are the model's to keep
(notes/assumptions 4). -/
def Obligations.ResetsAndPowerLoss : Prop :=
  (∀ s : State,
    let cold : State := { State.reset with
      mem := s.mem.filter (fun c => paHost c.1), bootstat := if s.fuses.loads then 0 else 1
      agenda := s.agenda, cycle := s.cycle, freeCtr := s.freeCtr, fuses := s.fuses, nmod := s.nmod, podX := s.podX, podY := s.podY }
    let warm : State := { cold with mem := s.mem, staging := s.staging, lastWin := s.lastWin }
    exec .coldReset s = .next cold ∧
    exec .rstcold s = .next cold ∧
    exec .rstwarm s = .next warm ∧
    exec .rst s = .next warm ∧
    exec .powerLoss s = .next { cold with power := false }) ∧
  (∀ (s : State) (m : Move) (rest : List Move), s.power = false → s.agenda = m :: rest → m ≠ .ev .coldReset →
    step s = .fault .powerOff) ∧
  (∀ (s : State) (rest : List Move), s.agenda = .ev .coldReset :: rest → ∃ t, step s = .next t ∧ t.power = true ∧ (∀ c ∈ t.mem, paHost c.1 = true) ∧
    t.regions = [] ∧ t.fuses = s.fuses ∧ t.agenda = rest)

/-! ### The sequencer: arithmetic, branches, traps (R198-R205, R230-R233) -/

/-- The R-format ALU instructions write f(A, B) into D, which is full, and the PC moves past the word; nothing else changes
(R203). The I-format ones compute as their counterparts with the extended immediate, and LUI writes the immediate with 15 zero bits below it,
sign-extended (R204). A write to s0 is discarded (R198; Seq.set). -/
def Obligations.AluResults : Prop :=
  (∀ (s : State) (r : Region) (d : Reg) (a b : Src), s.region? s.curSeq = some r → r.mayIssue [a, b] (some d) →
    let A := r.seq.get a.reg
    let B := r.seq.get b.reg
    let done (v : Dword) : Host.Outcome State Fault Refusal := .next (s.withSeq r { (r.seq.set d v) with pc := r.seq.pc + 4 })
    exec (.add d a b) s = done (A + B) ∧ exec (.sub d a b) s = done (A - B) ∧ exec (.and d a b) s = done (A &&& B) ∧
    exec (.or d a b) s = done (A ||| B) ∧ exec (.xor d a b) s = done (A ^^^ B) ∧
    exec (.sll d a b) s = done (BitVec.ofNat 64 (A.toNat * 2 ^ (B.toNat % 64))) ∧
    exec (.srl d a b) s = done (BitVec.ofNat 64 (A.toNat / 2 ^ (B.toNat % 64))) ∧
    exec (.sra d a b) s = done (BitVec.ofInt 64 (A.toInt / 2 ^ (B.toNat % 64))) ∧
    exec (.slt d a b) s = done (if A.toInt < B.toInt then 1 else 0) ∧
    exec (.sltu d a b) s = done (if A.toNat < B.toNat then 1 else 0) ∧
    exec (.mul d a b) s = done (BitVec.ofNat 64 (A.toNat * B.toNat)) ∧
    exec (.mulhu d a b) s = done (BitVec.ofNat 64 (A.toNat * B.toNat / 2 ^ 64))) ∧
  (∀ (s : State) (r : Region) (d : Reg) (a : Src), s.region? s.curSeq = some r →
    let A := r.seq.get a.reg
    let done (v : Dword) : Host.Outcome State Fault Refusal := .next (s.withSeq r { (r.seq.set d v) with pc := r.seq.pc + 4 })
    (r.mayIssue [a] (some d) →
      (∀ imm : BitVec 15,
        exec (.addi d a imm) s = done (A + BitVec.ofInt 64 imm.toInt) ∧
        exec (.andi d a imm) s = done (A &&& BitVec.ofNat 64 imm.toNat) ∧
        exec (.ori d a imm) s = done (A ||| BitVec.ofNat 64 imm.toNat) ∧
        exec (.xori d a imm) s = done (A ^^^ BitVec.ofNat 64 imm.toNat) ∧
        exec (.slti d a imm) s = done (if A.toInt < imm.toInt then 1 else 0)) ∧
      (∀ sh : BitVec 6,
        exec (.slli d a sh) s = done (BitVec.ofNat 64 (A.toNat * 2 ^ sh.toNat)) ∧
        exec (.srli d a sh) s = done (BitVec.ofNat 64 (A.toNat / 2 ^ sh.toNat)) ∧
        exec (.srai d a sh) s = done (BitVec.ofInt 64 (A.toInt / 2 ^ sh.toNat)))) ∧
    (r.mayIssue [] (some d) → ∀ imm : BitVec 21, exec (.lui d imm) s = done (BitVec.ofInt 64 (imm.toInt * 2 ^ 15))))

/-- s0 reads zero, is always full and discards writes; every other register written reads as written and is full; the registers
not written read as before (R198). -/
def Obligations.SequencerRegisterFile : Prop :=
  ∀ (q : Seq) (i j : Reg) (v : Dword),
    q.get 0 = 0 ∧ q.isFull 0 = true ∧ q.set 0 v = q ∧ q.clear 0 = q ∧
    (i ≠ 0 → q.regs.length = 32 → (q.set i v).get i = v ∧ (q.set i v).isFull i = true) ∧
    (i ≠ 0 → (q.clear i).isFull i = false ∧ (q.clear i).regs = q.regs) ∧
    (j ≠ i → (q.set i v).get j = q.get j ∧ (q.set i v).isFull j = q.isFull j ∧ (q.clear i).isFull j = q.isFull j)

/-- The branches and jumps (R205): where the comparison holds the PC moves by OFF words, else past the word; JAL leaves PC + 4 in
s31, JR in D; nothing else changes. The PC is kept as a byte offset of 32 bits (notes/assumptions 8). -/
def Obligations.BranchesAndJumps : Prop :=
  ∀ (s : State) (r : Region), s.region? s.curSeq = some r →
    (∀ (a b : Src) (off : BitVec 14), r.mayIssue [a, b] none →
      let A := r.seq.get a.reg
      let B := r.seq.get b.reg
      let go (c : Bool) : Host.Outcome State Fault Refusal :=
        .next (s.withSeq r { r.seq with pc := if c then (((r.seq.pc : Int) + 4 * off.toInt) % 2 ^ 32).toNat else r.seq.pc + 4 })
      exec (.beq a b off) s = go (decide (A = B)) ∧ exec (.bne a b off) s = go (decide (A ≠ B)) ∧
      exec (.blt a b off) s = go (decide (A.toInt < B.toInt)) ∧ exec (.bge a b off) s = go (decide (B.toInt ≤ A.toInt)) ∧
      exec (.bltu a b off) s = go (decide (A.toNat < B.toNat)) ∧ exec (.bgeu a b off) s = go (decide (B.toNat ≤ A.toNat))) ∧
    (∀ off : BitVec 26, r.mayIssue [] none →
      exec (.jmp off) s = .next (s.withSeq r { r.seq with pc := (((r.seq.pc : Int) + 4 * off.toInt) % 2 ^ 32).toNat })) ∧
    (∀ off : BitVec 26, r.mayIssue [] (some 31) →
      exec (.jal off) s = .next (s.withSeq r
        { (r.seq.set 31 (BitVec.ofNat 64 (r.seq.pc + 4))) with pc := (((r.seq.pc : Int) + 4 * off.toInt) % 2 ^ 32).toNat })) ∧
    (∀ (d : Reg) (a : Src), r.mayIssue [a] (some d) → (r.seq.get a.reg).toNat % 4 = 0 →
      (r.seq.get a.reg).toNat < 4 * r.code.length →
      exec (.jr d a) s = .next (s.withSeq r
        { (r.seq.set d (BitVec.ofNat 64 (r.seq.pc + 4))) with pc := (r.seq.get a.reg).toNat }))

/-- Issue waits, with the state as it is, while an empty source's T bit is 0 or the destination is empty, and traps FEEMPTY where an
empty source's T bit is 1 (R75, R199): for the instructions of two sources and a destination. -/
def Obligations.IssueWaitsOrTraps : Prop :=
  ∀ (s : State) (r : Region) (d : Reg) (a b : Src) (i : Instr), s.region? s.curSeq = some r → r.active = true →
    r.seq.stopNext = false →
    i ∈ [.add d a b, .sub d a b, .and d a b, .or d a b, .xor d a b, .sll d a b, .srl d a b, .sra d a b, .slt d a b, .sltu d a b,
         .mul d a b, .mulhu d a b, .cpyi d a b 1, .acq d a b, .trim d a b, .spawnRecord d a b, .spawnLaunch d a b] →
    (((r.seq.isFull a.reg = false ∧ a.t = true) ∨ (r.seq.isFull b.reg = false ∧ b.t = true)) →
      exec i s = .next (s.seqTrap s.curSeq fFEEMPTY 0 0)) ∧
    ((r.seq.isFull a.reg = false ∧ a.t = false ∧ (r.seq.isFull b.reg = true ∨ b.t = false)) → exec i s = .next s) ∧
    ((r.seq.isFull b.reg = false ∧ b.t = false ∧ (r.seq.isFull a.reg = true ∨ a.t = false)) → exec i s = .next s) ∧
    (r.seq.isFull a.reg = true → r.seq.isFull b.reg = true → r.seq.isFull d = false → exec i s = .next s)

/-- The sequencer traps ILLEG, BADPC and USER (R77, R201, R202, R232): the instruction is not performed, the PC and every register
stay, the region is FREEZING for WHY 5, and a record with the code, SRC 1, FROZE, WHERE the sequencer and DETAIL the PC waits for the guest
kernel's queue, under the next FID (R405-R407); USER carries its code and argument. -/
def Obligations.SequencerTraps : Prop :=
  ∀ (s : State) (r : Region), s.region? s.curSeq = some r → r.mayIssue [] none →
    let Trapped (t : State) (code : Nat) (addr aux : Dword) : Prop :=
      (∃ g, t.region? s.curSeq = some g ∧ g.state = .freezing ∧ g.frzWhy = 5 ∧ g.seq = { r.seq with trapped := some (BitVec.ofNat 16 code) }) ∧
      (∃ f, (t.part r.part).fqWait = (s.part r.part).fqWait ++ [f] ∧ f.fid = (s.part r.part).nextFid ∧
        f.code = BitVec.ofNat 16 code ∧ f.src = 1 ∧ f.flags = 4 ∧ f.place = BitVec.ofNat 32 s.curSeq ∧
        f.detail = BitVec.ofNat 32 r.seq.pc ∧ f.addr = addr ∧ f.aux = aux)
    (∀ x : Word, ∃ t, exec (.illeg x) s = .next t ∧ Trapped t 0x01 0 0) ∧
    (∃ t, exec .badpc s = .next t ∧ Trapped t 0x03 0 0) ∧
    (∀ (a : Src) (n : BitVec 9), r.seq.isFull a.reg = true →
      ∃ t, exec (.trap a n) s = .next t ∧ Trapped t 0x08 (r.seq.get a.reg) (BitVec.ofNat 64 n.toNat))

/-- WAITT, PROF, CSRR and CSRW (R230, R231, R233): the values they give D, the registers they write, and nothing else but the PC.
WAITT waits, with the state as it is, where its test does not hold; a number that is not assigned, or a write to a CSR that is only read,
traps ILLEG. -/
def Obligations.WaitsProfilesAndCsrs : Prop :=
  ∀ (s : State) (r : Region) (d : Reg) (a : Src), s.region? s.curSeq = some r →
    let done (v : Dword) : Host.Outcome State Fault Refusal := .next (s.withSeq r { (r.seq.set d v) with pc := r.seq.pc + 4 })
    let illegal : Host.Outcome State Fault Refusal := .next (s.seqTrap s.curSeq 0x01 0 0)
    (r.mayIssue [a] (some d) →
      let named : Dword := r.seq.get a.reg &&& 0xFFFFFFFE
      let got : Dword := (r.seq.full.setWidth 64 ||| 1) &&& named &&& 0xFFFFFFFE
      exec (.waittAll d a) s = (if named = got then done got else .next s) ∧
      exec (.waittAny d a) s = (if named = 0 ∨ got ≠ 0 then done got else .next s)) ∧
    (r.mayIssue [] (some d) →
      (exec (.prof d 0) s = done (BitVec.ofNat 64 r.cycles) ∧
       (∀ n : BitVec 9, 1 ≤ n.toNat → n.toNat ≤ 4 → exec (.prof d n) s = done (BitVec.ofNat 64 ((r.prof[n.toNat - 1]?).getD 0))) ∧
       exec (.prof d 5) s = done (BitVec.ofNat 64 r.phase) ∧
       (∀ n : BitVec 9, 6 ≤ n.toNat → exec (.prof d n) s = illegal)) ∧
      exec (.csrr d 0) s = done (BitVec.ofNat 64 s.curSeq) ∧
      exec (.csrr d 1) s = done (BitVec.ofNat 64 ((s.part r.part).handle tblRegion r.slot)) ∧
      exec (.csrr d 2) s = done (BitVec.ofNat 64 (r.width + 2 ^ 16 * r.height)) ∧
      exec (.csrr d 3) s = done ((r.run.map (·.frame)).getD 0) ∧
      exec (.csrr d 4) s = done ((r.run.map (·.join)).getD 0) ∧
      exec (.csrr d 5) s = done (BitVec.ofNat 64 (r.origq.toNat + 2 ^ 32 * (r.run.map (·.prio)).getD 0 + 2 ^ 34 * (r.run.map (·.sclass)).getD 0)) ∧
      exec (.csrr d 7) s = done (BitVec.ofNat 64 ((s.ports_ r 0).length + 2 ^ 16 * (s.ports_ r 1).length)) ∧
      (∀ n : BitVec 9, 8 < n.toNat → n.toNat < 0x20 ∨ 0x27 < n.toNat → exec (.csrr d n) s = illegal) ∧
      exec (.csrr d 6) s = done (BitVec.ofNat 64 r.seq.copies.length) ∧
      exec (.csrr d 8) s = done r.seq.profbase ∧
      (∀ n : BitVec 9, 0x20 ≤ n.toNat → n.toNat ≤ 0x27 → exec (.csrr d n) s = done ((r.seq.scr[n.toNat - 0x20]?).getD 0))) ∧
    (r.mayIssue [a] none →
      (∀ n : BitVec 9, n ≠ 8 → n.toNat < 0x20 ∨ 0x27 < n.toNat → exec (.csrw a n) s = illegal) ∧
      (∀ n : BitVec 9, 0x20 ≤ n.toNat → n.toNat ≤ 0x27 →
        exec (.csrw a n) s = .next (s.withSeq r { r.seq with scr := r.seq.scr.set (n.toNat - 0x20) (r.seq.get a.reg), pc := r.seq.pc + 4 })) ∧
      ∃ v : Dword, bits v 63 57 = 0 ∧ bits v 5 4 = 0 ∧ bits v 56 6 = bits (r.seq.get a.reg) 56 6 ∧
        bits v 3 0 = min 12 (bits (r.seq.get a.reg) 3 0) ∧
        exec (.csrw a 8) s = .next (s.withSeq r { r.seq with profbase := v, pc := r.seq.pc + 4 }))

/-! ### The sequencer: memory, copies, phases, continuations (R206-R229) -/

/-- LD and LW (R206): at issue D is emptied and the access noted; SEQ_LOAD_FILL performs it, D filling with the 8 bytes, or with the 4
bytes sign-extended, at the address the period's translation gives, whose granules the period is noted to have used (R426); nothing else changes. It waits behind
earlier accesses to its word, the read of a copy's descriptor among them (R207). An address with bits 63:57 set traps
ACCESS, a misaligned one MISAL (R202); one that is both traps ACCESS (the model's choice, notes/assumptions 25). A fill below the least privilege
of what it names is not meant here (R12). -/
def Obligations.SequencerLoads : Prop :=
  (∀ (s : State) (r : Region) (d : Reg) (a : Src) (imm : BitVec 15), s.region? s.curSeq = some r → r.mayIssue [a] (some d) →
    let va : Dword := r.seq.get a.reg + BitVec.ofInt 64 imm.toInt
    ∀ (size : Nat) (i : Instr), (size, i) ∈ [(8, Instr.ld d a imm), (4, Instr.lw d a imm)] →
      (bits va 63 57 ≠ 0 → exec i s = .next (s.seqTrap s.curSeq 0x05 0 0)) ∧
      (bits va 63 57 = 0 → va.toNat % size ≠ 0 → exec i s = .next (s.seqTrap s.curSeq 0x04 0 0)) ∧
      (bits va 63 57 = 0 → va.toNat % size = 0 →
        exec i s = .next (s.withSeq r { (r.seq.clear d) with
          pc := r.seq.pc + 4, opNo := r.seq.opNo + 1
          acc := r.seq.acc.put r.seq.opNo { store := false, reg := d, va := va, size := size, data := 0, pc := r.seq.pc } }))) ∧
  (∀ (s : State) (rn k : Nat) (r : Region) (a : SeqAcc) (bs : List Byte), s.region? rn = some r → r.active = true →
    r.seq.acc.find k = some a → a.store = false → accBlocked r.seq.acc k a.va.toNat (a.va.toNat + 1) = false →
    descBlocked r.seq.copies k a.va.toNat = false → s.isHeld r.part (.seqAccess rn k) = false →
    s.rread rn a.va.toNat a.size = .ok bs → s.rgDenied rn a.va.toNat a.size false = none →
    exec (.seqLoadFill rn k) s = .next ((s.touch rn a.va.toNat a.size).setRegion rn { r with seq := { (r.seq.set a.reg
      (if a.size = 4 then BitVec.ofInt 64 (BitVec.ofNat 32 (leNat bs)).toInt else BitVec.ofNat 64 (leNat bs))) with
      acc := r.seq.acc.del k } })) ∧
  (∀ (s : State) (rn k : Nat) (r : Region) (a : SeqAcc), s.region? rn = some r → r.active = true → r.seq.acc.find k = some a →
    accBlocked r.seq.acc k a.va.toNat (a.va.toNat + 1) = true ∨ descBlocked r.seq.copies k a.va.toNat = true →
    exec (.seqLoadFill rn k) s = .next s)

/-- ST and SW are posted at issue and performed at once where no earlier access to their word is outstanding (R206, R207): the 8 or 4 low bytes
of B stand at the physical address of A + IMM, no other byte changes, the period is noted to have used the granule (R426), and the PC is past the
word. The store waits behind an earlier access to its word, the read of a copy's descriptor among them (R207); ACCESS and MISAL trap as for loads (R202), ACCESS
first (the model's choice, notes/assumptions 25), and that it is performed at once is the model's choice (notes/assumptions 8). A store that
is withheld by a fault, one below the least privilege of what it names (R12) and that of an in-place period, which writes through its shadows, are
not meant here. -/
def Obligations.SequencerStores : Prop :=
  ∀ (s : State) (r : Region) (b a : Src) (imm : BitVec 14), s.memOk → s.region? s.curSeq = some r → r.mayIssue [b, a] none →
    let va : Dword := r.seq.get a.reg + BitVec.ofInt 64 imm.toInt
    ∀ (size : Nat) (i : Instr), (size, i) ∈ [(8, Instr.st b a imm), (4, Instr.sw b a imm)] →
      let posted : Tbl SeqAcc := r.seq.acc.put r.seq.opNo
        { store := true, reg := 0, va := va, size := size, data := r.seq.get b.reg, pc := r.seq.pc }
      (bits va 63 57 ≠ 0 → exec i s = .next (s.seqTrap s.curSeq 0x05 0 0)) ∧
      (bits va 63 57 = 0 → va.toNat % size ≠ 0 → exec i s = .next (s.seqTrap s.curSeq 0x04 0 0)) ∧
      (bits va 63 57 = 0 → va.toNat % size = 0 →
        (accBlocked posted r.seq.opNo va.toNat (va.toNat + 1) || descBlocked r.seq.copies r.seq.opNo va.toNat) = true →
        exec i s = .next (s.withSeq r { r.seq with pc := r.seq.pc + 4, opNo := r.seq.opNo + 1, acc := posted })) ∧
      (∀ pa fmt : Nat, bits va 63 57 = 0 → va.toNat % size = 0 → accBlocked posted r.seq.opNo va.toNat (va.toNat + 1) = false →
        descBlocked r.seq.copies r.seq.opNo va.toNat = false → s.isHeld r.part (.seqAccess s.curSeq r.seq.opNo) = false → r.inPlace = false → r.shadows = [] →
        translate s.mem (s.rgXlate r) va.toNat .write = .ok (pa, fmt) → s.rgDenied s.curSeq va.toNat size true = none →
        ∃ t : State, exec i s = .next t ∧ sameMemoryBut s t pa size ∧
          t.mem.read pa size = leBytes (r.seq.get b.reg).toNat size ∧
          t = State.touch { (s.withSeq r { r.seq with
            pc := r.seq.pc + 4, opNo := r.seq.opNo + 1, acc := posted.del r.seq.opNo }) with mem := t.mem } s.curSeq va.toNat size)

/-- CPY, CPY2 and CPYI at issue (R209, R210): with a slot free, the copy stands in the lowest one, D is emptied and the PC is past the word;
with none free the word waits. CPYI copies 64 · n bytes, CPY and CPY2 what their descriptors say, read at
once where no earlier access to their words is outstanding (R207); D of s0 traps OPND. D of s0 is looked at before the address, and bits 63:57 of
the address before its alignment (the model's choice, notes/assumptions 25). Of the status that a copy starts with only that of CPYI is stated. -/
def Obligations.CopiesIssue : Prop :=
  ∀ (s : State) (r : Region) (d : Reg) (a b : Src) (n : BitVec 9), s.region? s.curSeq = some r → r.mayIssue [a, b] (some d) →
    (r.seq.freeCopy = none → exec (.cpy d a) s = .next s ∧ exec (.cpy2 d a) s = .next s ∧ exec (.cpyi d a b n) s = .next s) ∧
    (∀ k : Nat, r.seq.freeCopy = some k →
      (∀ j, j < k → (r.seq.copies.find j).isSome = true) ∧ k < 16 ∧ r.seq.copies.find k = none ∧
      (d = 0 ∨ n = 0 → exec (.cpyi d a b n) s = .next (s.seqTrap s.curSeq 0x06 0 0)) ∧
      (d ≠ 0 → n ≠ 0 → ∃ c : Copy, c.src = r.seq.get a.reg ∧ c.dst = r.seq.get b.reg ∧ c.len = 64 * n.toNat ∧ c.rows = 1 ∧
        c.dec = false ∧ c.done = 0 ∧ c.reg = d ∧ c.desc = none ∧ c.status = s.copyCheck r { c with status := 0 } ∧
        exec (.cpyi d a b n) s = .next (s.withSeq r { (r.seq.clear d) with
          copies := r.seq.copies.put k c, pc := r.seq.pc + 4, opNo := r.seq.opNo + 1 })) ∧
      (∀ (form size : Nat) (i : Instr) (bs : List Byte), (form, size, i) ∈ [(0, 32, Instr.cpy d a), (1, 64, Instr.cpy2 d a)] →
        (d = 0 → exec i s = .next (s.seqTrap s.curSeq 0x06 0 0)) ∧
        (d ≠ 0 → bits (r.seq.get a.reg) 63 57 ≠ 0 → exec i s = .next (s.seqTrap s.curSeq 0x05 0 0)) ∧
        (d ≠ 0 → bits (r.seq.get a.reg) 63 57 = 0 → (r.seq.get a.reg).toNat % size ≠ 0 →
          exec i s = .next (s.seqTrap s.curSeq 0x06 0 0)) ∧
        (d ≠ 0 → bits (r.seq.get a.reg) 63 57 = 0 → (r.seq.get a.reg).toNat % size = 0 → s.isHeld r.part (.copy s.curSeq k) = false →
          accBlocked r.seq.acc r.seq.opNo (r.seq.get a.reg).toNat ((r.seq.get a.reg).toNat + size) = false →
          s.rread s.curSeq (r.seq.get a.reg).toNat size = .ok bs →
          ∃ c : Copy, c.src.toNat = fieldAt bs 0 8 ∧ c.dst.toNat = fieldAt bs 8 8 ∧ c.len = fieldAt bs 16 4 ∧
            c.dec = (fieldAt bs 20 4).testBit 0 ∧ c.rows = (if form = 1 then fieldAt bs 24 4 else 1) ∧
            c.sstride = (if form = 1 then (BitVec.ofNat 64 (fieldAt bs 32 8)).toInt else 0) ∧
            c.dstride = (if form = 1 then (BitVec.ofNat 64 (fieldAt bs 40 8)).toInt else 0) ∧
            c.reg = d ∧ c.done = 0 ∧ c.desc = none ∧
            exec i s = .next ((s.touch s.curSeq (r.seq.get a.reg).toNat size).withSeq r { (r.seq.clear d) with
              copies := r.seq.copies.put k c, pc := r.seq.pc + 4, opNo := r.seq.opNo + 1 }))))

/-- A beat of a copy takes the next min(64, what is left) bytes in order, row after row (R210, R211), from the source's places, in
a W or X buffer of an MT or in memory, and puts them at the destination's, once every copy issued before has started (R211); the granules
it uses are noted (R426): `c.pieces` are the parts of the rows that it takes. That a beat goes on into the next row is the model's reading
(notes/assumptions 25). A beat inside one row is written out, in memory where the period is not in place and, of a source, where the copy does not
decode. A beat below the least privilege of what it names ends the copy with PRIV and moves nothing (R12, R143; notes/assumptions 48). A copy that
has ended fills its register with its token, status above the count of bytes, and gives its slot back (R210). -/
def Obligations.CopiesMoveAndComplete : Prop :=
  (∀ (s : State) (rn k : Nat) (r : Region) (c : Copy) (bs buf : List Byte) (off : Nat), s.region? rn = some r → r.active = true →
    r.seq.copies.find k = some c → c.desc = none → c.status = 0 → c.done < c.len * c.rows → s.isHeld r.part (.copy rn k) = false →
    s.mayStart rn r c = true →
    let row := c.done / c.len
    let pos := c.done % c.len
    let n := min 64 (c.len * c.rows - c.done)
    let from_ : Int := (if epIsMt c.src then (epOff c.src : Int) else (bits c.src 56 0 : Int)) + c.sstride * row
    let to_ : Int := (if epIsMt c.dst then (epOff c.dst : Int) else (bits c.dst 56 0 : Int)) + c.dstride * row + pos
    let after : Copy := { c with done := c.done + n, buf := buf, off := off }
    let moved : Region := { r with seq := { r.seq with copies := r.seq.copies.put k after } }
    (8 ≤ c.len → c.len % 8 = 0 → c.done % 8 = 0 →
      c.pieces.flatMap (fun x => (List.range x.2.2).map (fun j => x.1 * c.len + (x.2.1 + j))) = (List.range n).map (fun j => c.done + j) ∧
      ∀ x ∈ c.pieces, x.2.1 + x.2.2 ≤ c.len) ∧
    (∀ t : State, s.beatCode r c = 0 → s.copySrc rn r c c.pieces = .ok (bs, buf, off) →
      State.copyDst rn r c s c.pieces bs = .ok (some t) →
      (s.copyDenied rn c = none →
        exec (.copyBeat rn k) s = .next ((t.copyUses rn c).modSeq rn (fun q => { q with copies := q.copies.put k after }))) ∧
      (∀ va wr, s.copyDenied rn c = some (va, wr) →
        exec (.copyBeat rn k) s = .next ((s.rgPriv rn 1 rn c.pc va wr).modSeq rn (fun q => { q with
          copies := q.copies.put k { c with status := 0x16 } })))) ∧
    (pos + n ≤ c.len → bs.length = n →
      c.pieces = [(row, pos, n)] ∧
      (epIsMt c.src = true →
        s.copySrc rn r c c.pieces = .ok ((s.tile (r.epTile c.src)).bufRead (epBuf c.src) (from_.toNat + pos) n, [], 0)) ∧
      (epIsMt c.src = false → c.dec = false → s.rread rn (from_.toNat + pos) n = .ok bs →
        s.copySrc rn r c c.pieces = .ok (bs, [], 0)) ∧
      (s.beatCheck r c.src (from_ + pos) n = 0 → s.beatCheck r c.dst to_ n = 0 → s.copySrc rn r c c.pieces = .ok (bs, buf, off) →
        s.copyDenied rn c = none →
        (epIsMt c.dst = true → exec (.copyBeat rn k) s = .next (((s.setTile (r.epTile c.dst)
          ((s.tile (r.epTile c.dst)).bufPut (epBuf c.dst) to_.toNat bs)).copyUses rn c).setRegion rn moved)) ∧
        (∀ ps, epIsMt c.dst = false → r.inPlace = false → r.shadows = [] →
          locate s.mem (s.rgXlate r) .write to_.toNat (piecesOf to_.toNat bs.length) = .ok ps →
          exec (.copyBeat rn k) s = .next ((State.copyUses { s with mem := putPieces s.mem ps bs } rn c).setRegion rn moved))))) ∧
  (∀ (s : State) (rn k : Nat) (r : Region) (c : Copy), s.region? rn = some r → r.active = true →
    r.seq.copies.find k = some c → c.desc = none → (c.status ≠ 0 ∨ c.len * c.rows ≤ c.done) → c.status < 2 ^ 16 → c.done < 2 ^ 48 →
    exec (.copyComplete rn k) s = .next (s.setRegion rn { r with seq := { (r.seq.set c.reg
      (BitVec.ofNat 64 (c.status * 2 ^ 48 + c.done))) with copies := r.seq.copies.del k } }))

/-- CFG, ARM, FORK, RDV and CLASS_DONE (R214-R217, R256, R257): each completes, with the install that CFG begins, the passes that ARM adds, to
classes done and not met as well, the classes that FORK starts, the section that RDV meets and the done report; the operands that the rules refuse
trap OPND, unlike versions VERMIS, and CFG and RDV wait while the slot is taken and the section is not done. A section whose forked classes are all
done has pass counts of 0 (R216), and so has what RDV meets of rules and macros (the model's reading, notes/assumptions 25). Of FORK the other
fields of the region, and of RDV memory and what the trace and the phase log change, are not stated. -/
def Obligations.PhaseControl : Prop :=
  (∀ (s : State) (r : Region) (d : Reg) (a b : Src), s.region? s.curSeq = some r → r.mayIssue [a, b] (some d) → r.state = .running →
    let A := (r.seq.get a.reg).toNat
    let B := (r.seq.get b.reg).toNat
    (r.inst = none → A % 4 = 0 → 1 ≤ B → B ≤ 2 ^ 28 → ∃ i : Install,
      exec (.cfg d a b) s = .next (s.setRegion s.curSeq
        { r with inst := some i, seq := { (r.seq.clear d) with cfgReg := some d, pc := r.seq.pc + 4 } }) ∧
      i.va = r.seq.get a.reg ∧ i.count = B ∧ i.next = 0 ∧ i.full = false ∧ i.byCfg = true ∧ i.reg = d ∧ i.xl = s.rgXlate r) ∧
    (r.inst.isSome = true → exec (.cfg d a b) s = .next s) ∧
    (r.inst = none → (A % 4 ≠ 0 ∨ B = 0 ∨ 2 ^ 28 < B) → exec (.cfg d a b) s = .next (s.seqTrap s.curSeq 0x06 0 0))) ∧
  (∀ (s : State) (r : Region) (a b : Src), s.region? s.curSeq = some r → r.mayIssue [a, b] none → r.state = .running →
    let A := (r.seq.get a.reg).toNat
    let B := (r.seq.get b.reg).toNat
    let alike : Prop := ∀ e ∈ s.section_ r A, (s.tile e).fld 0xF0 = (s.tile ((s.section_ r A).headD 0)).fld 0xF0
    (A ≤ 255 → 1 ≤ B → s.section_ r A ≠ [] → (∀ e ∈ s.section_ r A, (s.tile e).passc + B < 2 ^ 32) → alike →
      ∃ t : State, exec (.arm a b) s = .next t ∧ t = { s with regions := t.regions, tiles := t.tiles } ∧
        t.regions = (s.withSeq r { r.seq with pc := r.seq.pc + 4 }).regions ∧
        ((s.section_ r A).Nodup → ∀ e, t.tile e = if e ∈ s.section_ r A then
          { s.tile e with passc := (s.tile e).passc + B, doneCls := (s.tile e).doneCls &&& (2 ||| (s.tile e).emptyClasses (isCt e)) } else s.tile e)) ∧
    ((255 < A ∨ B = 0 ∨ 2 ^ 32 ≤ B ∨ s.section_ r A = [] ∨ (∃ e ∈ s.section_ r A, 2 ^ 32 ≤ (s.tile e).passc + B)) →
      exec (.arm a b) s = .next (s.seqTrap s.curSeq 0x06 0 0)) ∧
    (A ≤ 255 → 1 ≤ B → s.section_ r A ≠ [] → (∀ e ∈ s.section_ r A, (s.tile e).passc + B < 2 ^ 32) → ¬ alike →
      exec (.arm a b) s = .next (s.seqTrap s.curSeq 0x07 0 0))) ∧
  (∀ (s : State) (r : Region) (a : Src) (m : BitVec 3), s.region? s.curSeq = some r → r.mayIssue [a] none → r.state = .running →
    let A := (r.seq.get a.reg).toNat
    let M : BitVec 3 := if m = 0 then 7 else m
    let starts (e : Nat) : Prop := e ∈ s.section_ r A ∧ M.getLsbD 1 = true ∧ (s.tile e).forked.getLsbD 1 = false ∧ isCt e = false
    (A ≤ 255 → (∃ e ∈ s.section_ r A, (s.tile e).passc ≠ 0) → (∀ e, starts e → ((s.tile e).fork (isCt e) M).forkTrap = none) →
      ∃ t : State, exec (.fork a m) s = .next t ∧ t = { s with regions := t.regions, tiles := t.tiles } ∧
        (∀ e, e ∉ s.section_ r A → t.tile e = s.tile e) ∧
        ((s.section_ r A).Nodup → ∀ e ∈ s.section_ r A, (t.tile e).forked = (s.tile e).forked ||| M ∧
          (∀ k : Nat, k < 3 → M.getLsbD k = true → (s.tile e).forked.getLsbD k = false → (t.tile e).doneCls.getLsbD k = ((s.tile e).emptyClasses (isCt e)).getLsbD k) ∧
          (∀ k : Nat, k < 3 → M.getLsbD k = false ∨ (s.tile e).forked.getLsbD k = true → (t.tile e).doneCls.getLsbD k = (s.tile e).doneCls.getLsbD k) ∧
          (M.getLsbD 1 = false ∨ (s.tile e).forked.getLsbD 1 = true → (t.tile e).pats = (s.tile e).pats) ∧
          (M.getLsbD 1 = true → (s.tile e).forked.getLsbD 1 = false →
            (t.tile e).pats = List.replicate 4 { i0 := 0, i1 := 0, i2 := 0, i3 := 0, exhausted := false }) ∧
          t.tile e = { s.tile e with
            forked := (t.tile e).forked, doneCls := (t.tile e).doneCls, pats := (t.tile e).pats
            passc := if (∀ x ∈ s.section_ r A, (t.tile x).forked &&& ~~~(t.tile x).doneCls = 0) then 0 else (s.tile e).passc }) ∧
        ∃ g, t.region? s.curSeq = some g ∧ g.seq = { r.seq with pc := r.seq.pc + 4 } ∧ (g.sects.find A).isSome = true) ∧
    (∀ e i code, A ≤ 255 → (∃ e ∈ s.section_ r A, (s.tile e).passc ≠ 0) → (s.section_ r A).Nodup →
      starts e → (∀ x, starts x → x ≠ e → ((s.tile x).fork (isCt x) M).forkTrap = none) →
      ((s.tile e).fork (isCt e) M).forkTrap = some (i, code) → s.ownerOf e = some (s.curSeq, r) →
      ∃ t : State, exec (.fork a m) s = .next t ∧ (t.tile e).trap = some (BitVec.ofNat 16 code) ∧
        ∃ g, t.region? s.curSeq = some g ∧ g.state = .freezing ∧ g.seq.pc = r.seq.pc + 4) ∧
    ((255 < A ∨ ∀ e ∈ s.section_ r A, (s.tile e).passc = 0) → exec (.fork a m) s = .next (s.seqTrap s.curSeq 0x06 0 0))) ∧
  (∀ (s : State) (r : Region) (a : Src), s.region? s.curSeq = some r → r.mayIssue [a] none →
    let A := (r.seq.get a.reg).toNat
    (A ≤ 255 → ((r.sects.find A) = none ∨ s.sectDone r A = true) →
      ∃ (t : State) (g : Region), exec (.rdv a) s = .next t ∧ t.region? s.curSeq = some g ∧
        g.seq.pc = r.seq.pc + 4 ∧ g.seq.regs = r.seq.regs ∧ (bits r.seq.profbase 56 6 = 0 → g.seq = { r.seq with pc := r.seq.pc + 4 }) ∧
        g.phase = r.phase + 1 ∧ g.sects.find A = none ∧ g.phaseStart = r.cycles ∧ g.cfgLoad = 0 ∧
        ((s.section_ r A).Nodup → ∀ e, t.tile e = if e ∈ s.section_ r A then { s.tile e with
          forked := 0, doneCls := 0, passc := if (s.tile e).forked &&& 5 = 0 then (s.tile e).passc else 0 } else s.tile e)) ∧
    (A ≤ 255 → (r.sects.find A).isSome = true → s.sectDone r A = false → exec (.rdv a) s = .next s) ∧
    (255 < A → exec (.rdv a) s = .next (s.seqTrap s.curSeq 0x06 0 0))) ∧
  (∀ (s : State) (tile rn : Nat) (r : Region) (c : EngineClass), s.liveRegion tile = some (rn, r) →
    (s.tile tile).forked.getLsbD (classNo c) = true → (s.tile tile).classOver c = true →
    let u := s.setTile tile { s.tile tile with doneCls := (s.tile tile).doneCls ||| (BitVec.ofNat 3 (2 ^ classNo c)) }
    ((s.tile tile).sect = none → exec (.classDone tile c) s = .next u) ∧
    (∀ a, (s.tile tile).sect = some a →
      ((∃ e ∈ u.section_ r a, (u.tile e).allDone = false) → exec (.classDone tile c) s = .next u) ∧
      (tile ∈ u.section_ r a → (∀ e ∈ u.section_ r a, (u.tile e).allDone = true) →
        ∃ t : State, exec (.classDone tile c) s = .next t ∧ t = { s with tiles := t.tiles } ∧
          ((u.section_ r a).Nodup → ∀ e, t.tile e = if e ∈ u.section_ r a then { u.tile e with passc := 0 } else u.tile e))))

/-- PUNCT, BARR, BARR_COMPLETE and SNUF (R218-R221, R409): the marker enters the beats of each ingress port the mask selects, with the
port's round, and PUNCT alone advances that round; it waits behind a withheld token, a row begun and the markers that wait; BARR empties D until the barrier stands at every egress port; SNUF starts the drain
and stops the sequencer after its word. Other ports, every register but D and the rest of the state stay. -/
def Obligations.MarkersAndDrain : Prop :=
  (∀ (s : State) (r : Region) (d : Reg) (a : Src), s.region? s.curSeq = some r → r.mayIssue [a] (some d) → r.state = .running →
    let chosen := selected (r.seq.get a.reg) (s.ports_ r 0)
    let every := (s.ports_ r 0).filter (fun x => (s.attachOf r x.emp x.ch 1).isNone)
    let clear_ (x : Attach) : Prop :=
      s.rowOpen s.curSeq x.emp x.ch = false ∧ (s.port (x.key s.curSeq)).wait = false ∧ (s.port (x.key s.curSeq)).marks = []
    let marked (t : State) (l : List Attach) (kind : Nat) : Prop :=
      let before (k : Nat) : Port := if kind = 3 ∧ k / 2048 = s.curSeq then { s.port k with barrIn := false, barrOut := false } else s.port k
      t = { s with regions := t.regions, ports := t.ports } ∧
      (∀ k, (∀ x ∈ l, x.key s.curSeq ≠ k) → t.port k = before k) ∧
      ((l.map (fun x => x.key s.curSeq)).Nodup →
        (∀ x ∈ l, clear_ x → ∃ p, p = before (x.key s.curSeq) ∧
          t.port (x.key s.curSeq) = { p with
            reply := p.reply ++ [(r.incarn, markBeat kind p.round)], round := if kind = 2 then p.round + 1 else p.round
            barrIn := p.barrIn || kind == 3, snuff := p.snuff || kind == 4 }) ∧
        (∀ x ∈ l, ¬ clear_ x → ∃ p, p = before (x.key s.curSeq) ∧ t.port (x.key s.curSeq) = { p with marks := p.marks ++ [BitVec.ofNat 4 kind] }))
    (∃ t : State, exec (.punct a) s = .next t ∧ marked t chosen 2 ∧
      t.regions = (s.withSeq r { r.seq with pc := r.seq.pc + 4 }).regions) ∧
    (d = 0 → r.seq.barr = none → exec (.barr d a) s = .next (s.seqTrap s.curSeq 0x06 0 0)) ∧
    (r.seq.barr.isSome = true → exec (.barr d a) s = .next s) ∧
    (d ≠ 0 → r.seq.barr = none → ∃ (t : State) (rnd : BitVec 8),
      exec (.barr d a) s = .next t ∧ marked t chosen 3 ∧
      t.regions = (s.withSeq r { (r.seq.clear d) with pc := r.seq.pc + 4, barr := some (d, rnd) }).regions) ∧
    (∃ t : State, exec .snuf s = .next t ∧ marked t every 4 ∧
      t.region? s.curSeq = some { r with state := .draining, seq := { r.seq with pc := r.seq.pc + 4, stopNext := true } })) ∧
  (∀ (s : State) (rn : Nat) (r : Region) (q : Reg) (rnd : BitVec 8), s.region? rn = some r → r.active = true → r.seq.barr = some (q, rnd) →
    ((∀ x ∈ s.ports_ r 1, (s.port (x.key rn)).barrOut = true) →
      exec (.barrComplete rn) s = .next (s.setRegion rn { r with seq := { (r.seq.set q 0) with barr := none } })) ∧
    ((∃ x ∈ s.ports_ r 1, (s.port (x.key rn)).barrOut = false) → exec (.barrComplete rn) s = .next s))

/-! ### Records, launches and join blocks, by both kinds of agent (R126-R132, R148-R151, R222, R223) -/

/-- hq.push and SPAWN of a record (R126, R128, R150, R222): STALE, BADREC and QFULL as the rules say; else the record stands last in its
level, its IIDX 0xFFFF or the running record's, a block it names counts one more, and the result is 0. A replayed push of a period
receives its journalled result and pushes nothing (R425); what a SPAWN pushes is journalled with its period and push index (R423). -/
def Obligations.RecordsPushed : Prop :=
  (∀ (s : State) (p qh iidx : Nat) (x : Xlate) (c : Cont) (Q : Queue),
    ((s.part p).current tblQueue qh = false → s.pushRec p x qh c iidx = .ok (errWord 1, s)) ∧
    ((s.part p).current tblQueue qh = true → s.recOk p c = false → s.pushRec p x qh c iidx = .ok (errWord 3, s)) ∧
    ((s.part p).current tblQueue qh = true → s.recOk p c = true → (s.part p).room (hSlot qh - 1) c.prio 1 0 = false →
      s.pushRec p x qh c iidx = .ok (errWord 2, s)) ∧
    ((s.part p).current tblQueue qh = true → s.recOk p c = true → (s.part p).room (hSlot qh - 1) c.prio 1 0 = true →
      (s.part p).queues.find (hSlot qh - 1) = some Q →
      let entry : QRec := { cont := c.tagged iidx 0, rsv := false, period := none, trim := none }
      let Q' : Queue := { Q with recs := Q.recs.set c.prio ((Q.recs[c.prio]?).getD [] ++ [entry]) }
      let pushed : State := s.setPart p { s.part p with queues := (s.part p).queues.put (hSlot qh - 1) Q' }
      (c.join = 0 → s.pushRec p x qh c iidx =
        .ok (0, { pushed with journal := s.journal ++ [.push p (hSlot qh - 1) (c.tagged iidx 0) none] })) ∧
      (∀ pa fmt n : Nat, c.join ≠ 0 → translate s.mem x c.join.toNat .atomic = .ok (pa, fmt) → s.mem.readN pa 4 = n → n < 2 ^ 32 - 1 →
        s.pushRec p x qh c iidx = .ok (0, { pushed with mem := s.mem.writeN pa 4 (n + 1), journal := s.journal ++
          [.join x.part c.join (n + 1), .push p (hSlot qh - 1) (c.tagged iidx 0) none] })))) ∧
  (∀ (s t : State) (rd rs1 rs2 : Reg) (bs : List Byte) (v : Dword), s.mayRun 0 → (s.me.get rs2).toNat % 32 = 0 →
    vread s.mem s.me.xlate (s.me.get rs2).toNat 32 = .ok bs →
    s.pushRec s.me.actPart s.me.xlate (bits (s.me.get rs1) 31 0) (contOf bs) 0xFFFF = .ok (v, t) →
    exec (.hqPush rd rs1 rs2) s = .next (t.withResult rd v)) ∧
  (∀ (s t : State) (r : Region) (d : Reg) (a b : Src) (bs : List Byte) (v : Dword), s.region? s.curSeq = some r →
    r.mayIssue [a, b] (some d) →
    (∀ u, s.journalled r.period r.pushIdx = some u → exec (.spawnRecord d a b) s = .next (s.setRegion s.curSeq
      { r with pushIdx := r.pushIdx + 1, seq := { (r.seq.set d u) with pc := r.seq.pc + 4 } })) ∧
    (s.journalled r.period r.pushIdx = none → r.seq.acc = [] → r.inPlace = false → (r.seq.get a.reg).toNat % 32 = 0 →
      bits (r.seq.get a.reg) 63 57 = 0 → s.isHeld r.part (.seqAccess s.curSeq (2 ^ 20)) = false →
      s.rread s.curSeq (r.seq.get a.reg).toNat 32 = .ok bs → bits (r.seq.get b.reg) 63 32 = 0 →
      (s.touch s.curSeq (r.seq.get a.reg).toNat 32).pushRec r.part (s.rgXlate r) (bits (r.seq.get b.reg) 31 0) (contOf bs) r.iidx =
        .ok (v, t) →
      exec (.spawnRecord d a b) s = .next { (t.setRegion s.curSeq
        { r with pushIdx := r.pushIdx + 1, seq := { (r.seq.set d v) with pc := r.seq.pc + 4 } }) with
        journal := (t.ownPushes s.journal.length r.period r.pushIdx).journal ++ [.result r.period r.pushIdx v] }))

/-- lan.dispatch and SPAWN of a launch (R121, R122, R148, R222): the refusals by name; launches
accepted before on the queue are expanded first, and one that cannot be leaves the queue full; else the launch takes its units of the frame
area, its acceptance number is the result, and its expansion writes the join block, armed with one count per instance, a frame per instance,
with the record and the index vector, and pushes one root record per instance, in order. A parent's block counts one more. -/
def Obligations.LaunchesDispatched : Prop :=
  (∀ (s : State) (p iidx : Nat) (x : Xlate) (b blk : List Byte),
    (State.dispatchOk blk = false → s.dispatch p x b blk iidx = .ok (errWord 8, s)) ∧
    (State.dispatchOk blk = true → (s.part p).current tblQueue (fieldAt blk 0 4) = false → s.dispatch p x b blk iidx = .ok (errWord 1, s)) ∧
    (∀ e, State.dispatchOk blk = true → (s.part p).current tblQueue (fieldAt blk 0 4) = true → s.launchCheck p b true = .error e →
      ∃ c ∈ [1, 3, 5, 0xF], s.dispatch p x b blk iidx = .ok (errWord c, s) ∧
        (e = 6 → c = 3) ∧ (e = 5 → c = 1) ∧ (e = 7 → c = 0xF) ∧ (e = 8 → c = 5)) ∧
    (∀ (cls : Nat), State.dispatchOk blk = true → (s.part p).current tblQueue (fieldAt blk 0 4) = true → s.launchCheck p b true = .ok cls →
      let q := hSlot (fieldAt blk 0 4) - 1
      let n := lrInstances b
      let y := s.expandEarlier p q
      (s.unexpanded p q = none → y = s) ∧
      (y.unexpanded p q ≠ none ∨ (y.part p).room q (fieldAt b 4 1) n (n + 1) = false → s.dispatch p x b blk iidx = .ok (errWord 2, s)) ∧
      let parent := fieldAt blk 8 8
      let full : Prop := y.unexpanded p q = none ∧ (y.part p).room q (fieldAt b 4 1) n (n + 1) = true
      (∀ pa fmt, full → parent ≠ 0 → translate y.mem x parent .atomic = .ok (pa, fmt) → y.mem.readN pa 4 = 0xFFFFFFFF →
        s.dispatch p x b blk iidx = .ok (errWord 2, s)) ∧
      (∀ (Q : Queue) (z : State), full → (y.part p).queues.find q = some Q →
        (parent = 0 → z = y) →
        (parent ≠ 0 → ∃ pa fmt, translate y.mem x parent .atomic = .ok (pa, fmt) ∧ y.mem.readN pa 4 ≠ 0xFFFFFFFF ∧
          z = { y with mem := y.mem.writeN pa 4 (y.mem.readN pa 4 + 1)
                       journal := y.journal ++ [.join x.part (BitVec.ofNat 64 parent) (y.mem.readN pa 4 + 1)] }) →
        (y.part p).frames.length + (n + 1) ≤ (y.part p).frameUnits →
        ∃ (t : State) (us : List Nat),
          s.dispatch p x b blk iidx = .ok (BitVec.ofNat 64 (Q.accNo + 1), t) ∧
          us.length = n + 1 ∧ (∀ u ∈ us, u ∉ (y.part p).frames) ∧
          (t.part p).frames = (y.part p).frames ++ us ∧
          (let jb := (s.part p).frameVa (us.headD 0)
           let unit (k : Nat) : Nat := (us[k + 1]?).getD 0
           let root (k : Nat) : QRec :=
            { cont := Cont.tagged { code := BitVec.ofNat 64 (fieldAt b 48 4 + fieldAt b 7 1 * 2 ^ 32 + fieldAt b 8 4 * 2 ^ 40)
                                    frame := BitVec.ofNat 64 ((s.part p).frameVa (unit k)), join := BitVec.ofNat 64 jb
                                    flags := BitVec.ofNat 64 (cls * 256 + fieldAt b 4 1) } k 0
              rsv := false, period := none, trim := none }
           let frame (k : Nat) : List Byte :=
             b ++ ((List.range 8).map (fun i => leBytes (((indexVec (levelCounts b) k)[i]?).getD 0) 4)).flatten ++ List.replicate 224 0
           let block : State := z.gwrite p ((s.part p).frameGa (us.headD 0)) (leBytes n 4 ++ leBytes q 1 ++ leBytes 1 1 ++ List.replicate 506 0)
           (t.part p).launches = (y.part p).launches ++ [{ q := q, accNo := Q.accNo + 1, prio := fieldAt b 4 1
                                                           short := false, record := b
                                                           act := if parent = 0 then .nothing else .parent (BitVec.ofNat 64 parent) iidx
                                                           expanded := true, join := BitVec.ofNat 64 jb
                                                           units := us, status := none }] ∧
           let level : List QRec := (Q.recs[fieldAt b 4 1]?).getD [] ++ (List.range n).map root
           (t.part p).queues.find q = some { Q with accNo := Q.accNo + 1, recs := Q.recs.set (fieldAt b 4 1) level } ∧
           t.mem = ((List.range n).foldl (fun (u : State) k => u.gwrite p ((s.part p).frameGa (unit k)) (frame k)) block).mem) ∧
          t = { z with parts := t.parts, mem := t.mem, journal := t.journal, freeCtr := t.freeCtr }))) ∧
  (∀ (s t : State) (rd rs1 rs2 : Reg) (b blk : List Byte) (v : Dword), s.mayRun 0 → (s.me.get rs1).toNat % 64 = 0 →
    (s.me.get rs2).toNat % 16 = 0 → vread s.mem s.me.xlate (s.me.get rs2).toNat 16 = .ok blk →
    vread s.mem s.me.xlate (s.me.get rs1).toNat 256 = .ok b → s.dispatch s.me.actPart s.me.xlate b blk 0xFFFF = .ok (v, t) →
    exec (.lanDispatch rd rs1 rs2) s = .next (t.withResult rd v)) ∧
  (∀ (s t : State) (r : Region) (d : Reg) (a b : Src) (rec_ blk : List Byte) (v : Dword), s.region? s.curSeq = some r →
    r.mayIssue [a, b] (some d) → s.journalled r.period r.pushIdx = none → r.seq.acc = [] → r.inPlace = false →
    (r.seq.get a.reg).toNat % 64 = 0 → (r.seq.get b.reg).toNat % 16 = 0 → bits (r.seq.get a.reg) 63 57 = 0 → bits (r.seq.get b.reg) 63 57 = 0 →
    s.isHeld r.part (.seqAccess s.curSeq (2 ^ 20)) = false → s.rread s.curSeq (r.seq.get b.reg).toNat 16 = .ok blk →
    s.rread s.curSeq (r.seq.get a.reg).toNat 256 = .ok rec_ → ((s.touch s.curSeq (r.seq.get b.reg).toNat 16).touch s.curSeq (r.seq.get a.reg).toNat 256).dispatch
      r.part (s.rgXlate r) rec_ blk r.iidx = .ok (v, t) →
    exec (.spawnLaunch d a b) s = .next { (t.setRegion s.curSeq
      { r with pushIdx := r.pushIdx + 1, seq := { (r.seq.set d v) with pc := r.seq.pc + 4 } }) with
      journal := (t.ownPushes s.journal.length r.period r.pushIdx).journal ++ [.result r.period r.pushIdx v] })

/-- lan.join and JOIN (R132, R149, R223): an idle block is armed with the queue and the record, or, where its COUNT is 0, it fires and the
record is pushed from the reserve; a block that is not idle is refused with BADJOIN. Only its bytes change in memory. -/
def Obligations.JoinBlocksArmed : Prop :=
  (∀ (s : State) (p pa fmt : Nat) (x : Xlate) (blk old : List Byte), fieldAt blk 0 8 % 64 = 0 → fieldAt blk 0 8 ≠ 0 → zeroAt blk 12 32 = true →
    (s.part p).current tblQueue (fieldAt blk 8 4) = true → s.recOk p (contOf (blk.drop 32)) = true →
    translate s.mem x (fieldAt blk 0 8) .atomic = .ok (pa, fmt) → s.mem.read pa 64 = old → s.memOk →
    (fieldAt old 5 1 ≠ 0 → s.armJoin p x blk = .ok (errWord 4, s)) ∧
    (fieldAt old 5 1 = 0 → ∃ t : State, s.armJoin p x blk = .ok (0, t) ∧ sameMemoryBut s t pa 64 ∧
      t.mem.read pa 64 = old.take 4 ++ [BitVec.ofNat 8 (hSlot (fieldAt blk 8 4) - 1), if fieldAt old 0 4 = 0 then 2 else 1] ++
        (old.drop 6).take 26 ++ (contOf (blk.drop 32)).bytes ∧
      t = { s with mem := t.mem, journal := t.journal, parts := t.parts } ∧
      (fieldAt old 0 4 ≠ 0 → t.parts = s.parts) ∧
      (fieldAt old 0 4 = 0 → t.parts = (s.pushReserve p (hSlot (fieldAt blk 8 4) - 1)
        ((contOf (blk.drop 32)).tagged (fieldAt old 8 2) (fieldAt old 6 2)) none).parts))) ∧
  (∀ (s t : State) (rd rs1 : Reg) (blk : List Byte) (v : Dword), s.mayRun 0 → (s.me.get rs1).toNat % 64 = 0 →
    vread s.mem s.me.xlate (s.me.get rs1).toNat 64 = .ok blk → s.armJoin s.me.actPart s.me.xlate blk = .ok (v, t) →
    exec (.lanJoin rd rs1) s = .next (t.withResult rd v)) ∧
  (∀ (s t : State) (r : Region) (d : Reg) (a : Src) (blk : List Byte) (v : Dword), s.region? s.curSeq = some r →
    r.mayIssue [a] (some d) → s.journalled r.period r.pushIdx = none → r.seq.acc = [] → r.inPlace = false →
    (r.seq.get a.reg).toNat % 64 = 0 → bits (r.seq.get a.reg) 63 57 = 0 →
    s.isHeld r.part (.seqAccess s.curSeq (2 ^ 20)) = false → s.rread s.curSeq (r.seq.get a.reg).toNat 64 = .ok blk →
    (s.touch s.curSeq (r.seq.get a.reg).toNat 64).armJoin r.part (s.rgXlate r) blk = .ok (v, t) →
    exec (.join d a) s = .next { (t.setRegion s.curSeq
      { r with pushIdx := r.pushIdx + 1, seq := { (r.seq.set d v) with pc := r.seq.pc + 4 } }) with
      journal := (t.ownPushes s.journal.length r.period r.pushIdx).journal ++ [.result r.period r.pushIdx v] })

/-- RETIRE and YIELD (R131, R132, R153, R224, R225, R501) of a period whose registers are full, whose accesses are performed and whose
sections are met. RETIRE waits, with the state as it is, where a register is empty or an access is not performed. The waits of YIELD, the wait for
a section that is forked and not met, and a block whose COUNT is 1 are not stated. The region leaves RUNNING with its configuration kept, no hold of its sequencer remains;
RETIRE decrements the block its record names, YIELD pushes the record with a new ENTRY from the reserve and changes no block. -/
def Obligations.RetireAndYield : Prop :=
  ∀ (s : State) (r : Region) (c : Cont) (a : Src), s.memOk → s.region? s.curSeq = some r → r.mayIssue [a] none → r.run = some c →
    ((r.seq.full ≠ 0xFFFFFFFF ∨ r.seq.acc ≠ []) → exec .retire s = .next s) ∧
    ((r.seq.get a.reg).toNat % 4 ≠ 0 ∨ 16384 ≤ (r.seq.get a.reg).toNat → exec (.yield a) s = .next (s.seqTrap s.curSeq 0x06 0 0)) ∧
    (r.seq.full = 0xFFFFFFFF → r.seq.acc = [] → r.forkedSects = [] → r.inPlace = false →
      (∀ x ∈ s.ports, x.1 / 2048 = s.curSeq → x.2.owed = 0) →
      let status : Nat := if s.lostPeriods.contains r.period then 1 else c.istat
      let Left (t : State) : Prop :=
        t.region? s.curSeq = some { r with state := if r.attach.isSome then .idle else .ready, run := none, seq := { r.seq with trims := [] } } ∧
        (∀ slot o, (t.part r.part).sos.find slot = some o → o.holds? (.seq s.curSeq) = false) ∧
        (∀ n, n ≠ s.curSeq → t.region? n = s.region? n) ∧
        t = { s with regions := t.regions, parts := t.parts, ports := t.ports, dies := t.dies, mem := t.mem, journal := t.journal, freeCtr := t.freeCtr }
      (∃ t : State, exec .retire s = .next t ∧ Left t ∧ JEntry.retire r.period ∈ t.journal ∧
        ((s.part r.part).trEn = 0 → c.join = 0 → t.mem = s.mem) ∧
        (∀ pa fmt n : Nat, (s.part r.part).trEn = 0 → c.join ≠ 0 → translate s.mem (s.rgXlate r) c.join.toNat .atomic = .ok (pa, fmt) →
          s.mem.readN pa 4 = n → 2 ≤ n → t.mem.readN pa 4 = n - 1 ∧ sameMemoryBut s t pa 64)) ∧
      (∀ Q : Queue, (r.seq.get a.reg).toNat % 4 = 0 → (r.seq.get a.reg).toNat < 16384 →
        (s.part r.part).queues.find (hSlot r.origq.toNat - 1) = some Q →
        ∃ t : State, exec (.yield a) s = .next t ∧ Left t ∧ t.mem = s.mem ∧
          (t.part r.part).queues.find (hSlot r.origq.toNat - 1) = some (Q.addReserve
            { cont := yieldRec (c.tagged c.iidx status) (r.seq.get a.reg).toNat, rsv := true, period := none, trim := none })))

/-- Sync objects by every kind of agent (R165-R167, R226, R227): a request is refused with BADSTATE where its owner holds or waits, granted
where the rule grants it, else queued, or refused with BUSY for a try; a release ends the hold; so.bind makes, changes and frees
objects; SO_GRANT grants the waiters at the head. -/
def Obligations.SyncObjects : Prop :=
  (∀ (s : State) (p h scope : Nat) (o : SyncObj) (who : SoParty) (excl try_ : Bool) (reply : SoReply),
    (s.part p).current tblSo h = true → (s.part p).sos.find (hSlot h) = some o →
    let e := excl || o.exclOnly
    let kept (o' : SyncObj) : State := s.setPart p { s.part p with sos := (s.part p).sos.put (hSlot h) o' }
    let free_ : Prop := if e then o.holds = [] ∧ o.waits = [] else (∀ x ∈ o.holds, x.excl = false) ∧ (∀ x ∈ o.waits, x.excl = false)
    (((∃ x ∈ o.holds, x.who = who) ∨ (∃ x ∈ o.waits, x.who = who)) →
      s.soAcq p h who excl try_ scope reply = (.err 0xA, kept o)) ∧
    ((∀ x ∈ o.holds, x.who ≠ who) → (∀ x ∈ o.waits, x.who ≠ who) → o.holds.length < 65535 →
      let scope' := if scope = 0 then 7 else scope
      (free_ → s.soAcq p h who excl try_ scope reply = (.granted, kept { o with
        holds := o.holds ++ [{ who := who, excl := e, scope := scope', tag := o.nextTag }], nextTag := (o.nextTag + 1) % 2 ^ 32 })) ∧
      (¬ free_ → try_ = true → s.soAcq p h who excl try_ scope reply = (.err 7, kept o)) ∧
      (¬ free_ → try_ = false → o.waits.length < 256 → s.soAcq p h who excl try_ scope reply = (.queued, kept { o with
        waits := o.waits ++ [{ who := who, excl := e, scope := scope', reply := reply }] })))) ∧
  (∀ (s : State) (p h : Nat) (o : SyncObj) (who : SoParty), (s.part p).current tblSo h = true → (s.part p).sos.find (hSlot h) = some o →
    ((∃ x ∈ o.holds, x.who = who) → s.soRel p h who = (0, s.setPart p { s.part p with
      sos := (s.part p).sos.put (hSlot h) { o with holds := o.holds.filter (fun x => x.who != who) } })) ∧
    ((∀ x ∈ o.holds, x.who ≠ who) → s.soRel p h who = (errWord 0xA, s))) ∧
  (∀ (s : State) (rd rs1 rs2 : Reg), s.mayRun 0 →
    let a := s.me.get rs1
    let m := s.me.get rs2
    (bits a 63 48 ≠ 0 ∨ bits m 63 7 ≠ 0 ∨ bits m 3 2 ≠ 0 → exec (.soAcq rd rs1 rs2) s = .next (s.withResult rd (errWord 8))) ∧
    (∀ (t : State) (ans : SoAnswer), bits a 63 48 = 0 → bits m 63 7 = 0 → bits m 3 2 = 0 →
      s.soAcq s.me.actPart (bits a 31 0) (.owner (bits a 47 32)) (bit m 0) (bit m 1) (bits m 6 4) (.hart s.curHart rd) = (ans, t) →
      exec (.soAcq rd rs1 rs2) s = .next (match ans with
        | .granted => t.withResult rd 0
        | .queued => t.setHart s.curHart { s.me with wait := some (.acq s.me.actPart (hSlot (bits a 31 0)) rd) }
        | .err c => t.withResult rd (errWord c))) ∧
    (∀ (t : State) (v : Dword), bits a 63 48 = 0 → s.soRel s.me.actPart (bits a 31 0) (.owner (bits a 47 32)) = (v, t) →
      exec (.soRel rd rs1) s = .next (t.withResult rd v))) ∧
  (∀ (s : State) (r : Region) (d : Reg) (a b : Src), s.region? s.curSeq = some r → r.mayIssue [a, b] (some d) → r.inPlace = false →
    let A := r.seq.get a.reg
    let B := r.seq.get b.reg
    (r.seq.acqWait.isSome = true → exec (.acq d a b) s = .next s) ∧
    (∀ (t : State) (ans : SoAnswer), r.seq.acqWait = none → bits A 63 32 = 0 → bits B 63 7 = 0 → bits B 3 2 = 0 →
      s.soAcq r.part A.toNat (.seq s.curSeq) (bit B 0) (bit B 1) (bits B 6 4) (.seqReg s.curSeq d) = (ans, t) →
      exec (.acq d a b) s = .next (match ans with
        | .granted => t.withSeq r { (r.seq.set d 0) with pc := r.seq.pc + 4 }
        | .queued => t.withSeq r { r.seq with acqWait := some (d, BitVec.ofNat 32 A.toNat) }
        | .err c => t.withSeq r { (r.seq.set d (errWord c)) with pc := r.seq.pc + 4 })) ∧
    (r.seq.acc ≠ [] → exec (.rel d a) s = .next s) ∧
    (∀ (t : State) (v : Dword), r.seq.acc = [] → s.soRel r.part A.toNat (.seq s.curSeq) = (v, t) →
      exec (.rel d a) s = .next (t.withSeq r { (r.seq.set d v) with pc := r.seq.pc + 4 }))) ∧
  (∀ (s : State) (p slot : Nat) (o : SyncObj) (x : SoWait) (rest : List SoWait), (s.part p).sos.find slot = some o → o.waits = x :: rest →
    x.excl = true → o.holds = [] →
    let t := s.setPart p { s.part p with sos := (s.part p).sos.put slot { o with
      holds := [{ who := x.who, excl := true, scope := x.scope, tag := o.nextTag }], nextTag := (o.nextTag + 1) % 2 ^ 32, waits := rest } }
    (∀ h rd, x.reply = .hart h rd → exec (.soGrant p slot) s = .next (t.setHart h
      { (({ s.hart h with wait := none } : Hart).set rd 0) with pc := (s.hart h).pc + 4 })) ∧
    (∀ rn rd r, x.reply = .seqReg rn rd → s.region? rn = some r → exec (.soGrant p slot) s = .next (t.setRegion rn
      { r with seq := { (r.seq.set rd 0) with acqWait := none, pc := r.seq.pc + 4 } }))) ∧
  (∀ (s : State) (rd rs1 rs2 : Reg) (b : List Byte), s.mayRun 1 → (s.me.get rs1).toNat % 16 = 0 → s.me.get rs1 ≠ 0 →
    bits (s.me.get rs2) 63 32 = 0 → vread s.mem s.me.xlate (s.me.get rs1).toNat 144 = .ok b → bindOk b = true →
    let p := s.me.actPart
    let h := (s.me.get rs2).toNat
    (s.me.get rs2 = 0 → (s.part p).sos.length < (s.part p).quota 4 → ∃ (t : State) (slot : Nat),
      exec (.soBind rd rs1 rs2) s = .next (t.withResult rd (BitVec.ofNat 64 ((s.part p).handle tblSo slot))) ∧
      t = { (s.setPart p { s.part p with sos := (s.part p).sos.put slot (bindObject b) }) with freeCtr := s.freeCtr + 1 }) ∧
    (∀ o, s.me.get rs2 ≠ 0 → (s.part p).current tblSo h = true → (s.part p).sos.find (hSlot h) = some o → o.holds = [] → o.waits = [] →
      exec (.soBind rd rs1 rs2) s = .next ((s.setPart p { s.part p with
        sos := (s.part p).sos.put (hSlot h) { bindObject b with nextTag := o.nextTag } }).withResult rd 0) ∧
      exec (.soBind rd 0 rs2) s = .next ((s.setPart p ((s.part p).bump tblSo (hSlot h))).withResult rd 0)) ∧
    (∀ o, s.me.get rs2 ≠ 0 → (s.part p).current tblSo h = true → (s.part p).sos.find (hSlot h) = some o → (o.holds ≠ [] ∨ o.waits ≠ []) →
      exec (.soBind rd rs1 rs2) s = .next (s.withResult rd (errWord 7))))

/-! ### Harts: exceptions, fences, queues, regions, registers (R142-R171, R405-R407, R470) -/

/-- Taking an exception or an interrupt (RISC-V's privileged architecture, notes/assumptions 3; R79, R144, R145): by M-mode unless medeleg or
mideleg delegates it, by VS-mode where hedeleg or hideleg delegates it further, and never by a mode below. The mode that takes it saves the pc,
the cause and the value, and in mtval2 or htval the second one, stacks its interrupt enable and the mode before (MPP and MPV, SPP and SPV,
SPVP, or vsstatus.SPP), and goes on at its handler; no x register changes. VS-mode sees its interrupts under the causes of an HS that is not virtualised.
mret in M-mode and sret in VS-mode go back to the pc and the mode that the entry saved, the interrupt enable unstacked. -/
def Obligations.HartExceptionEntry : Prop :=
  (∀ (s : State) (h : Nat),
    let y := s.hart h
    (y.mode = .m → ∃ t : Hart, s.rvStep h 0x30200073 = s.setHart h t ∧ t.pc = (y.rcsr mEPC &&& ~~~(1 : Dword)) ∧
      t.mode = (if bits (y.rcsr mSTATUS) 12 11 = 3 then .m
        else if bits (y.rcsr mSTATUS) 12 11 = 0 then (if bit (y.rcsr mSTATUS) 39 then .vu else .u)
        else if bit (y.rcsr mSTATUS) 39 then .vs else .hs) ∧
      bit (t.rcsr mSTATUS) 3 = bit (y.rcsr mSTATUS) 7 ∧ bit (t.rcsr mSTATUS) 7 = true ∧ bits (t.rcsr mSTATUS) 12 11 = 0 ∧
      bit (t.rcsr mSTATUS) 39 = false ∧ t.x = y.x) ∧
    (y.mode = .vs → bit (y.rcsr hSTATUS) 22 = false →
      ∃ t : Hart, s.rvStep h 0x10200073 = s.setHart h t ∧ t.pc = (y.rcsr vEPC &&& ~~~(1 : Dword)) ∧
        t.mode = (if bit (y.rcsr vSTATUS) 8 then .vs else .vu) ∧ bit (t.rcsr vSTATUS) 1 = bit (y.rcsr vSTATUS) 5 ∧
        bit (t.rcsr vSTATUS) 5 = true ∧ bit (t.rcsr vSTATUS) 8 = false ∧ t.x = y.x)) ∧
  ∀ (h : Hart) (cause : Nat) (irq : Bool) (tval tval2 : Dword), cause < 64 →
    let t := h.takeTrap cause irq tval tval2
    let cw : Dword := BitVec.ofNat 64 (cause + if irq then 2 ^ 63 else 0)
    let base (v : Dword) : Dword := v &&& ~~~(3 : Dword)
    let handler (v : Dword) : Dword := if irq = true ∧ v.toNat % 4 = 1 then base v + BitVec.ofNat 64 (4 * cause) else base v
    let virt : Bool := h.mode == .vs || h.mode == .vu
    h.trapMode cause irq =
      (if h.mode = .m ∨ bit (h.rcsr (if irq then 0x303 else 0x302)) cause = false then .m
       else if virt = true ∧ bit (h.rcsr (if irq then 0x603 else 0x602)) cause = true then .vs
       else .hs) ∧
    t.x = h.x ∧ t.f = h.f ∧ t.v = h.v ∧ t.satp = h.satp ∧ t.vsatp = h.vsatp ∧ t.hgatp = h.hgatp ∧ t.vdpart = h.vdpart ∧
    t.part = h.part ∧ t.wait = none ∧ t.resv = h.resv ∧ t.invs = h.invs ∧
    (h.trapMode cause irq = .m → t.mode = .m ∧ t.rcsr mEPC = h.pc ∧ t.rcsr mCAUSE = cw ∧ t.rcsr mTVAL = tval ∧
      t.pc = handler (h.rcsr mTVEC) ∧ bit (t.rcsr mSTATUS) 3 = false ∧ bit (t.rcsr mSTATUS) 7 = bit (h.rcsr mSTATUS) 3 ∧
      bits (t.rcsr mSTATUS) 12 11 = (match h.mode with | .u => 0 | .vu => 0 | .vs => 1 | .hs => 1 | .m => 3) ∧
      bit (t.rcsr mSTATUS) 39 = virt ∧ t.rcsr mTVAL2 = tval2) ∧
    (h.trapMode cause irq = .hs → t.mode = .hs ∧ t.rcsr xEPC = h.pc ∧ t.rcsr xCAUSE = cw ∧ t.rcsr xTVAL = tval ∧
      t.pc = handler (h.rcsr xTVEC) ∧ bit (t.rcsr mSTATUS) 1 = false ∧ bit (t.rcsr mSTATUS) 5 = bit (h.rcsr mSTATUS) 1 ∧
      bit (t.rcsr mSTATUS) 8 = (h.mode == .vs || h.mode == .hs) ∧ bit (t.rcsr hSTATUS) 7 = virt ∧
      (virt = true → bit (t.rcsr hSTATUS) 8 = (h.mode == .vs)) ∧ t.rcsr hTVAL = tval2) ∧
    (h.trapMode cause irq = .vs → t.mode = .vs ∧ t.rcsr vEPC = h.pc ∧ t.rcsr vTVAL = tval ∧
      t.rcsr vCAUSE = BitVec.ofNat 64 (if irq then cause - 1 + 2 ^ 63 else cause) ∧
      t.pc = (if irq = true ∧ (h.rcsr vTVEC).toNat % 4 = 1 then base (h.rcsr vTVEC) + BitVec.ofNat 64 (4 * (cause - 1))
        else base (h.rcsr vTVEC)) ∧ bit (t.rcsr vSTATUS) 1 = false ∧ bit (t.rcsr vSTATUS) 5 = bit (h.rcsr vSTATUS) 1 ∧
      bit (t.rcsr vSTATUS) 8 = (h.mode == .vs))

/-- An unlisted Xlan word is an illegal instruction (R79); an instruction below its least level performs nothing, gives PRIV in rd and
raises a PRIV record at the next level (R12), whose ADDR is the address the instruction names, where it names one (R405): from U-mode to the guest
kernel's queue, from VS-mode to the hypervisor's too; only that queue, the next FID and, where the ring is full, the count FQWAIT change. At HV and
MK an instruction for a partition not in force is refused (R146). A sequencer's load or store below the least privilege of what it names has no
effect there, raises the record, and gives a load no data of it (R12, R449; which tables are kept so: notes/assumptions 48). -/
def Obligations.XlanIllegalAndPrivilege : Prop :=
  (∀ (s : State) (x : Word), s.me.wait = none →
    exec (.xlanIllegalInstruction x) s = .next (s.setHart s.curHart (s.me.takeTrap 2 false (x.setWidth 64) 0))) ∧
  (∀ (s : State) (rd rd' rs1 rs2 : Reg) (i : Instr), s.me.wait = none →
    let P := s.part s.me.part
    let refused (hv : Bool) : Prop := ∃ (t : State) (f : FaultRec), exec i s = .next (t.withResult rd' (errWord 0x16)) ∧
      f.code = 0x35 ∧ f.src = 4 ∧
      (∀ a, (i, a) ∈ [(Instr.hqPop rd rs1 rs2, rs2), (.rgCfg rd rs1 rs2, rs2), (.rgSave rd rs1 rs2, rs2), (.rgLoad rd rs1 rs2, rs2),
        (.soBind rd rs1 rs2, rs1), (.xltInv rs1 rs2, rs1), (.pgMig rd rs1 rs2, rs2), (.bistRun rd rs1 rs2, rs2)] → f.addr = s.me.get a) ∧
      t.parts = s.parts.put s.me.part { P with nextFid := nextFid P.nextFid, fqWait := P.fqWait ++ [f] } ∧
      t.hvq = (if hv then s.hvq ++ [f] else s.hvq) ∧ t.mem = (if P.fqFull then (s.errCount s.me.part 8).mem else s.mem) ∧
      t = { s with parts := t.parts, mem := t.mem, hvq := t.hvq, freeCtr := s.freeCtr + 2 }
    (s.me.mode.level = 0 →
      (i, rd') ∈ [(Instr.hqPop rd rs1 rs2, rd), (.rgClaim rd rs1 rs2, rd), (.rgCfg rd rs1 rs2, rd), (.rgStart rd rs1 rs2, rd), (.rgSnuff rd rs1, rd),
        (.rgFreeze rd rs1, rd), (.rgSave rd rs1 rs2, rd), (.rgLoad rd rs1 rs2, rd), (.rgRebase rd rs1 rs2, rd), (.rgKill rd rs1, rd),
        (.rgStat rd rs1, rd), (.rgFree rd rs1, rd), (.soBind rd rs1 rs2, rd), (.xltInv rs1 rs2, 0), (.xltSync rd, rd), (.pgMig rd rs1 rs2, rd),
        (.bistRun rd rs1 rs2, rd), (.bistStat rd rs1, rd)] → refused false) ∧
    (s.me.mode.level = 1 →
      (i, rd') ∈ [(Instr.bistRun rd rs1 rs2, rd), (.bistStat rd rs1, rd)] ∨
        ((i, rd') = (Instr.xltInv rs1 rs2, (0 : Reg)) ∧ invBroad (s.me.get rs2) = false ∧ bits (s.me.get rs2) 1 0 = 2) → refused true)) ∧
  (∀ (s : State) (rd rs1 rs2 : Reg) (i : Instr), s.me.wait = none → 2 ≤ s.me.mode.level → (s.part s.me.actPart).active = false →
    i ∈ [.lanDispatch rd rs1 rs2, .lanJoin rd rs1, .hqPush rd rs1 rs2, .hqPop rd rs1 rs2, .rgClaim rd rs1 rs2, .rgCfg rd rs1 rs2,
         .rgStart rd rs1 rs2, .rgSnuff rd rs1, .rgFreeze rd rs1, .rgSave rd rs1 rs2, .rgLoad rd rs1 rs2, .rgRebase rd rs1 rs2, .rgKill rd rs1,
         .rgStat rd rs1, .rgFree rd rs1, .soBind rd rs1 rs2, .soAcq rd rs1 rs2, .soRel rd rs1] →
    exec i s = .next (s.withResult rd (errWord 8))) ∧
  (∀ (s : State) (rn k : Nat) (r : Region) (a : SeqAcc), s.region? rn = some r → r.active = true → r.seq.acc.find k = some a →
    accBlocked r.seq.acc k a.va.toNat (a.va.toNat + 1) = false → descBlocked r.seq.copies k a.va.toNat = false →
    s.isHeld r.part (.seqAccess rn k) = false → (s.rgDenied rn a.va.toNat a.size a.store).isSome = true →
    (if a.store then ∃ u, s.rwrite rn a.va.toNat (leBytes a.data.toNat a.size) = .ok (some u) else ∃ bs, s.rread rn a.va.toNat a.size = .ok bs) →
    (s.part r.part).trEn = 0 → (s.part r.part).fqFull = false →
    ∃ (t : State) (f : FaultRec) (v : Dword), exec (.seqLoadFill rn k) s = .next t ∧ t.mem = s.mem ∧
      f.code = 0x35 ∧ f.src = 1 ∧ f.addr = a.va ∧ f.flags.getLsbD 0 = a.store ∧
      (t.part r.part).fqWait = (s.part r.part).fqWait ++ [f] ∧
      t.region? rn = some { r with seq := { (if a.store then r.seq else r.seq.set a.reg v) with acc := r.seq.acc.del k } })

/-- fence.x, FENCEX, xlt.inv, xlt.sync, the completion of invalidations, and an interrupt that takes a hart out of a wait (R145, R168-R170,
R228): what each changes, and when it waits. Walks are made afresh at each access, so an invalidation has no entry to remove
(notes/assumptions 16). -/
def Obligations.FencesAndInvalidations : Prop :=
  (∀ (s : State) (r : Region) (a b : Src), s.region? s.curSeq = some r → r.mayIssue [a, b] none →
    (r.seq.acc ≠ [] → exec (.fencex a b) s = .next s) ∧
    (r.seq.acc = [] → r.inPlace = false → exec (.fencex a b) s = .next (s.withSeq r { r.seq with pc := r.seq.pc + 4 }))) ∧
  (∀ (s : State) (rs1 rs2 rd : Reg), s.me.wait = none →
    let past (h : Hart) : State := s.setHart s.curHart { h with pc := s.me.pc + 4 }
    exec (.fenceX rs1 rs2) s = .next (past s.me) ∧
    (1 ≤ s.me.mode.level → (s.me.mode.level ≠ 1 ∨ invBroad (s.me.get rs2) = true ∨ bits (s.me.get rs2) 1 0 ≠ 2) →
      exec (.xltInv rs1 rs2) s = .next (past { s.me with invs := s.me.invs + 1 })) ∧
    (1 ≤ s.me.mode.level → s.me.invs = 0 → exec (.xltSync rd) s = .next (s.withResult rd 0)) ∧
    (1 ≤ s.me.mode.level → s.me.invs ≠ 0 →
      exec (.xltSync rd) s = .next (s.setHart s.curHart { s.me with wait := some (.sync rd) }))) ∧
  (∀ (s : State) (h : Nat),
    (∀ rd, (s.hart h).wait = some (.sync rd) → exec (.invalidationComplete h) s = .next (s.setHart h
      { (({ s.hart h with invs := 0, wait := none } : Hart).set rd 0) with pc := (s.hart h).pc + 4 })) ∧
    ((s.hart h).wait = none → exec (.invalidationComplete h) s = .next (s.setHart h { s.hart h with invs := 0 })) ∧
    (∀ rd cause, (s.hart h).wait = some (.sync rd) →
      exec (.xlanWaitInterrupt h cause) s = .next (s.setHart h ((s.hart h).takeTrap cause true 0 0))) ∧
    (∀ p slot rd cause o, (s.hart h).wait = some (.acq p slot rd) → (s.part p).sos.find slot = some o →
      ∃ t : State, exec (.xlanWaitInterrupt h cause) s = .next (t.setHart h ((s.hart h).takeTrap cause true 0 0)) ∧
        t = s.setPart p { s.part p with sos := (s.part p).sos.put slot { o with waits := o.waits.filter (fun x =>
          match x.reply with | .hart n _ => n != h | _ => true) } }))

/-- hq.pop (R129, R151): the oldest LANTERN record of the highest level that holds one, or of the next lower one once the queue has passed it
over 64 times, is taken and stored at rs2 with FLAGS bits 63:32 zero; EMPTY where none waits. -/
def Obligations.RecordsPopped : Prop :=
  (∀ (s : State) (rd rs1 rs2 : Reg) (Q : Queue), s.mayRun 1 →
    let p := s.me.actPart
    let qh := bits (s.me.get rs1) 31 0
    let va := (s.me.get rs2).toNat
    let mine (x : QRec) : Bool := x.cont.kind == 3
    (va % 32 ≠ 0 → exec (.hqPop rd rs1 rs2) s = .next (s.withResult rd (errWord 8))) ∧
    (va % 32 = 0 → (s.part p).current tblQueue qh = false → exec (.hqPop rd rs1 rs2) s = .next (s.withResult rd (errWord 1))) ∧
    (va % 32 = 0 → (s.part p).current tblQueue qh = true → (s.part p).queues.find (hSlot qh - 1) = some Q →
      (Q.pop mine (fun _ => false) = none → exec (.hqPop rd rs1 rs2) s = .next (s.withResult rd (errWord 9))) ∧
      (∀ (e : QRec) (lvl : Nat) (Q' : Queue) (m : Memory), Q.pop mine (fun _ => false) = some (e, lvl, Q') →
        vwrite s.mem s.me.xlate va e.cont.plain.bytes = .ok m →
        exec (.hqPop rd rs1 rs2) s = .next ({ (s.setPart p { s.part p with queues := (s.part p).queues.put (hSlot qh - 1) Q' }) with
          mem := m, journal := s.journal ++ [JEntry.lanternPop p (hSlot qh - 1) lvl s.curHart e.cont] }.withResult rd 0)))) ∧
  (∀ (Q : Queue) (ok : QRec → Bool),
    ((∀ l, l < 4 → (Q.level l).all (fun e => !ok e) = true) → Q.pop ok (fun _ => false) = none) ∧
    (∀ top i e, top < 4 → (∀ l, l < top → (Q.level l).all (fun x => !ok x) = true) → (Q.level top)[i]? = some e → ok e = true →
      (∀ j x, j < i → (Q.level top)[j]? = some x → ok x = false) →
      (∀ l, top < l → l < 4 → (Q.level l).all (fun x => !ok x) = true) →
      Q.pop ok (fun _ => false) = some (e, top, { Q with age := 0, recs := Q.recs.set top ((Q.level top).eraseIdx i) })) ∧
    (∀ top low i e, top < low → low < 4 → (∀ l, l < low → l ≠ top → (Q.level l).all (fun x => !ok x) = true) →
      (Q.level top).any ok = true → (Q.level low).any ok = true →
      let lvl := if 64 ≤ Q.age then low else top
      (Q.level lvl)[i]? = some e → ok e = true → (∀ j x, j < i → (Q.level lvl)[j]? = some x → ok x = false) →
      Q.pop ok (fun _ => false) = some (e, lvl, { Q with
        age := (if 64 ≤ Q.age then 0 else Q.age + 1), recs := Q.recs.set lvl ((Q.level lvl).eraseIdx i) })))

/-- rg.claim (R154, R155): BADARG, QUOTA, BUSY and NOSEQ as the rule says; else a CLAIMED region with zero tiles stands on the rectangle, at the
given origin or the first in scan order that serves, bound to the lowest-numbered free sequencer of the chiplets it overlaps, and the
result is its handle with the sequencer's number above it. -/
def Obligations.RegionClaims : Prop :=
  (∀ (s : State) (rd rs1 rs2 : Reg), s.mayRun 1 →
    let p := s.me.actPart
    let a := s.me.get rs1
    let b := s.me.get rs2
    let wd := bits a 9 0
    let ht := bits a 25 16
    let at_ : Rect := { x := bits b 9 0, y := bits b 25 16, wd := wd, ht := ht }
    let formed : Prop := bits a 63 48 = 0 ∧ bits a 31 26 = 0 ∧ bits a 15 10 = 0 ∧ 2 ≤ wd ∧ wd ≤ 640 ∧ 2 ≤ ht ∧ ht ≤ 640 ∧
      bits b 62 26 = 0 ∧ bits b 15 10 = 0 ∧ (bit b 63 = true → at_.mayStand (bits a 47 32) = true)
    let claims (o : Rect) (sq : Nat) : Prop := ∃ (t : State) (slot : Nat) (g : Region),
      exec (.rgClaim rd rs1 rs2) s = .next (t.withResult rd (BitVec.ofNat 64 ((s.part p).handle tblRegion slot + 2 ^ 32 * sq))) ∧
      t.region? sq = some g ∧ g.state = .claimed ∧ g.part = p ∧ g.slot = slot ∧ g.incarn = 0 ∧ g.ocol = o.x ∧ g.orow = o.y ∧
      g.width = wd ∧ g.height = ht ∧ g.seq = Seq.zero ∧ (∀ n, g.covers n = true → t.tile n = Tile.cleared) ∧
      (∀ n, g.covers n = false → t.tile n = s.tile n) ∧ (∀ n, n ≠ sq → t.region? n = s.region? n) ∧
      t = { s with regions := t.regions, tiles := t.tiles, parts := t.parts, freeCtr := t.freeCtr }
    (¬ formed → exec (.rgClaim rd rs1 rs2) s = .next (s.withResult rd (errWord 8))) ∧
    (formed → s.claimOver p (wd * ht) = true → exec (.rgClaim rd rs1 rs2) s = .next (s.withResult rd (errWord 5))) ∧
    (formed → s.claimOver p (wd * ht) = false → bit b 63 = true →
      (s.rectBusy at_ = true → exec (.rgClaim rd rs1 rs2) s = .next (s.withResult rd (errWord 7))) ∧
      (s.rectBusy at_ = false → s.seqFor at_ = none → exec (.rgClaim rd rs1 rs2) s = .next (s.withResult rd (errWord 6))) ∧
      (∀ sq, s.rectBusy at_ = false → s.seqFor at_ = some sq → claims at_ sq)) ∧
    (formed → s.claimOver p (wd * ht) = false → bit b 63 = false →
      (s.origins wd ht (bits a 47 32) = [] → exec (.rgClaim rd rs1 rs2) s = .next (s.withResult rd (errWord 7))) ∧
      (∀ (l l' : List Rect) (o : Rect) (sq : Nat), s.origins wd ht (bits a 47 32) = l ++ o :: l' → (∀ x ∈ l, s.seqFor x = none) →
        s.seqFor o = some sq → claims o sq))) ∧
  (∀ (s : State) (a : Rect) (sq : Nat), s.seqFor a = some sq → s.seqFree sq = true ∧ sq / Config.seqsPerChip ∈ a.chips ∧
    ∀ k, k < sq → k / Config.seqsPerChip ∈ a.chips → s.seqFree k = false)

/-- The instructions on a region (R127, R152, R153, R156-R159, R162): STALE for a stale handle; BUSY from a busy state and BADSTATE from any other
that the instruction does not admit; else what each starts or changes, and nothing else. rg.start of a STOPPED region is BUSY while a fault record
of the region waits to be written (the model's choice, notes/assumptions 41), and BADSTATE at WHY 4 (R408). rg.cfg looks at its descriptor before
the state (the model's choice, notes/assumptions 44). rg.stat reads the state word in any state. -/
def Obligations.RegionControl : Prop :=
  ∀ (s : State) (rd rs1 rs2 : Reg), s.mayRun 1 →
    let h := bits (s.me.get rs1) 31 0
    let b := s.me.get rs2
    (s.rgOf s.me.actPart h = none → ∀ i ∈ [Instr.rgCfg rd rs1 rs2, .rgStart rd rs1 rs2, .rgSnuff rd rs1, .rgFreeze rd rs1, .rgSave rd rs1 rs2,
        .rgLoad rd rs1 rs2, .rgRebase rd rs1 rs2, .rgKill rd rs1, .rgStat rd rs1, .rgFree rd rs1],
      exec i s = .next (s.withResult rd (errWord 1))) ∧
    (∀ (rn : Nat) (r : Region), s.rgOf s.me.actPart h = some (rn, r) →
      (∀ i ok, (i, ok) ∈ [(Instr.rgSnuff rd rs1, [RgState.idle, .running]), (.rgFreeze rd rs1, [.running, .draining]),
          (.rgFree rd rs1, [.claimed, .ready, .idle, .stopped])] → r.state ∉ ok →
        exec i s = .next (s.withResult rd (errWord
          (if r.state ∈ [.installing, .draining, .freezing, .saving, .loading] then 7 else 0xA)))) ∧
      (exec (.rgStat rd rs1) s = .next (s.withResult rd (BitVec.ofNat 64 (r.version.toNat * 2 ^ 40 + r.incarn.toNat * 2 ^ 24 +
        r.lasterr.toNat * 2 ^ 16 + (if r.state = .stopped then r.why else 0) * 2 ^ 8 + (if s.portHeld rn r then 2 ^ 4 else 0) +
        r.state.code)))) ∧
      (r.state = .idle → exec (.rgSnuff rd rs1) s = .next ((s.setRegion rn { r with state := .ready, attach := none }).withResult rd 0)) ∧
      (r.state = .running → ∃ t : State, exec (.rgSnuff rd rs1) s = .next (t.withResult rd 0) ∧ t.region? rn = some { r with state := .draining } ∧
        t = { s with regions := t.regions, ports := t.ports }) ∧
      (r.active = true → ∃ t : State, exec (.rgFreeze rd rs1) s = .next (t.withResult rd 0) ∧
        t.region? rn = some { r with state := .freezing, frzWhy := 2 } ∧ (∀ n, n ≠ rn → t.region? n = s.region? n) ∧
        t = { s with regions := t.regions, ports := t.ports, parts := t.parts }) ∧
      (b.toNat % 64 ≠ 0 → exec (.rgSave rd rs1 rs2) s = .next (s.withResult rd (errWord 8)) ∧
        exec (.rgLoad rd rs1 rs2) s = .next (s.withResult rd (errWord 8))) ∧
      (b.toNat % 64 = 0 → r.state = .stopped → exec (.rgSave rd rs1 rs2) s =
        .next ((s.setRegion rn { r with state := .saving, async := some (.save b s.me.xlate) }).withResult rd 0)) ∧
      (b.toNat % 64 = 0 → r.state ∈ [.claimed, .ready] → exec (.rgLoad rd rs1 rs2) s =
        .next ((s.setRegion rn { r with state := .loading, async := some (.load b s.me.xlate) }).withResult rd 0)) ∧
      (∀ d : List Byte, b.toNat % 8 = 0 → vread s.mem s.me.xlate b.toNat 32 = .ok d →
        (cfgDescOk d = false → exec (.rgCfg rd rs1 rs2) s = .next (s.withResult rd (errWord 8))) ∧
        (cfgDescOk d = true → r.state ∈ [.claimed, .ready] → ∃ i : Install, i.va.toNat = fieldAt d 0 8 ∧ i.count = fieldAt d 8 4 ∧
          i.result.toNat = fieldAt d 16 8 ∧ i.full = decide (r.state = .claimed) ∧ i.byCfg = false ∧ i.next = 0 ∧ i.xl = s.me.xlate ∧
          exec (.rgCfg rd rs1 rs2) s = .next ((s.setRegion rn { r with state := .installing, inst := some i }).withResult rd 0))) ∧
      (r.state = .stopped → bits b 63 56 = 0 → s.recordWaits r = true → exec (.rgStart rd rs1 rs2) s = .next (s.withResult rd (errWord 7))) ∧
      (r.state = .ready → bits b 63 56 = 0 → b ≠ 0 → (s.part r.part).current tblQueue (bits b 31 0) = true → s.classFits r (bits b 55 32) = true →
        ∃ t : State, exec (.rgStart rd rs1 rs2) s = .next (t.withResult rd 0) ∧
          t.region? rn = some { r with state := .idle, attach := some (BitVec.ofNat 32 (bits b 31 0), bits b 55 32) } ∧
          t = { s with regions := t.regions, ports := t.ports, akend := t.akend }) ∧
      (r.state = .ready → b = 0 → exec (.rgStart rd rs1 rs2) s = .next (s.withResult rd (errWord 8))) ∧
      (r.state = .stopped → s.recordWaits r = false → b = 0 → r.why = 4 → exec (.rgStart rd rs1 rs2) s = .next (s.withResult rd (errWord 0xA))) ∧
      (r.state = .stopped → s.recordWaits r = false → b = 0 → r.why ≠ 4 → s.waitingAcqns r = [] → ∃ t : State, exec (.rgStart rd rs1 rs2) s = .next (t.withResult rd 0) ∧
        t.region? rn = some { r with attach := none, state := .running, why := 0, frzWhy := 0, saved := false
                                     seq := { r.seq with trapped := none, stopNext := false, acqWait := none } } ∧
        (∀ n, r.covers n = true → t.tile n = { s.tile n with trap := none, merged := false }) ∧ t.mem = s.mem ∧
        (∀ n, n ≠ rn → t.region? n = s.region? n)))

/-- rg.kill and rg.free (R161, R163, R127, R153, R408): a killed region is CLAIMED with its incarnation raised, its tiles and sequencer zero, no
period and no holds, and, where the period completes, the killing journalled; a freed region's handle is stale, its sequencer free of it, no
hold is the sequencer's, its tiles are zero, and its area stands owned until the zeroing completes. Of a region with no period, no install and no
transfer every byte of memory and every other region stay.
What a free does to an in-place period's shadows is the model's reading (notes/assumptions 28). -/
def Obligations.RegionKillAndFree : Prop :=
  ∀ (s : State) (rd rs1 : Reg) (rn : Nat) (r : Region), s.mayRun 1 → s.rgOf s.me.actPart (bits (s.me.get rs1) 31 0) = some (rn, r) →
    (∃ (t : State) (g : Region), exec (.rgKill rd rs1) s = .next (t.withResult rd 0) ∧ t.region? rn = some g ∧
      g.state = .claimed ∧ g.incarn = r.incarn + 1 ∧ g.run = none ∧ g.inst = none ∧ g.async = none ∧ g.seq = Seq.zero ∧ g.attach = none ∧
      g.version = 0 ∧ g.part = r.part ∧ g.slot = r.slot ∧ g.ocol = r.ocol ∧ g.orow = r.orow ∧ g.width = r.width ∧ g.height = r.height ∧
      (∀ n, r.covers n = true → t.tile n = Tile.cleared) ∧ (∀ n, r.covers n = false → t.tile n = s.tile n) ∧
      (∀ slot o, (t.part r.part).sos.find slot = some o → o.holds? (.seq rn) = false) ∧
      (r.run = none → r.inst = none → r.async = none → (∀ n, n ≠ rn → t.region? n = s.region? n) ∧
        (r.shadows = [] → (∀ x ∈ s.ports, x.1 / 2048 = rn → x.2.reply = []) → t.mem = s.mem)) ∧
      (r.run.isSome = true → r.killStatus.isSome = true → JEntry.retire r.period ∈ t.journal)) ∧
    (r.state ∈ [.claimed, .ready, .idle, .stopped] → ∃ (t : State) (k : Nat) (g : Region),
      exec (.rgFree rd rs1) s = .next (t.withResult rd 0) ∧
      (t.part r.part).gen tblRegion r.slot = (if (s.part r.part).gen tblRegion r.slot = 4095 then 1 else (s.part r.part).gen tblRegion r.slot + 1) ∧
      t.region? rn = none ∧ k ≠ rn ∧ t.region? k = some g ∧ g.freeing = true ∧
      (∀ slot o, (t.part r.part).sos.find slot = some o → o.holds? (.seq rn) = false) ∧
      (r.run = none → (∀ n, n ≠ rn → n ≠ k → t.region? n = s.region? n) ∧ (r.shadows = [] → t.mem = s.mem)) ∧ g.ocol = r.ocol ∧ g.orow = r.orow ∧ g.width = r.width ∧ g.height = r.height ∧
      (∀ n, r.covers n = true → t.tile n = Tile.cleared) ∧ (∀ n, r.covers n = false → t.tile n = s.tile n))

/-- The steps that end what region control starts (R159, R160, R347, R410-R414, R439, R446-R448): a freeze, a drain and a debug stop leave the
region STOPPED with their WHY, a save leaves its image in memory and the region STOPPED with LASTERR 0, a load restores the image or fails
with its code and leaves the region CLAIMED and zeroed, a move empties the source, a zeroing ends, a sample is taken. A freeze waits for the rows
begun that can go on (R373). What an image holds and what is kept beside it, and the period a loaded context goes on with, are the model's readings
(notes/assumptions 29, 43). -/
def Obligations.RegionStepsEnd : Prop :=
  (∀ (s : State) (rn : Nat) (r : Region), s.region? rn = some r →
    let Stopped (t : State) (g : Region) (why : Nat) : Prop :=
      t.region? rn = some { g with state := .stopped, why := why, frzWhy := 0, saved := false, seq := { g.seq with stopNext := false } } ∧
      (∀ n, n ≠ rn → t.region? n = s.region? n) ∧ t = { s with regions := t.regions, parts := t.parts, mem := t.mem }
    (r.state = .freezing → (∀ n ∈ s.listed r, (s.tile n).settled = true) → (∀ c ∈ r.seq.copies, c.2.ended = false) → r.seq.acc = [] →
      (∀ d ∈ s.dies, ∀ e ∈ d.2.engines, s.rowLeft rn r d.1 e.1 e.2 = false) →
      ∃ t : State, exec (.freezeComplete rn) s = .next t ∧ Stopped t r r.frzWhy) ∧
    (r.state ≠ .freezing → exec (.freezeComplete rn) s = .next s) ∧
    ((∃ d ∈ s.dies, ∃ e ∈ d.2.engines, s.rowLeft rn r d.1 e.1 e.2 = true) → exec (.freezeComplete rn) s = .next s) ∧
    (r.state = .draining → s.drained rn r = true → ∃ t : State, exec (.snuffDrainComplete rn) s = .next t ∧ Stopped t r 1) ∧
    (s.debugDue rn = true → ∃ t : State, exec (.debugStop rn) s = .next t ∧ Stopped t { r with debug := false } 6) ∧
    (s.debugDue rn = false → exec (.debugStop rn) s = .next s) ∧
    (∀ (h : Held) (d : Desc), r.active = true → h ∈ (s.part r.part).held → h.rn = rn → h.counts = true → (s.part r.part).desc = some d →
      2 ^ (if d.frzlim = 0 then 18 else d.frzlim) ≤ h.age →
      ∃ t : State, exec (.freezeLimitExpiry rn) s = .next t ∧ t.region? rn = some { r with state := .freezing, frzWhy := 3 } ∧
        t = { s with regions := t.regions, ports := t.ports, parts := t.parts }) ∧
    (∀ (va : Dword) (x : Xlate) (m : Memory), r.async = some (.save va x) → s.isHeld x.part (.image rn) = false →
      vwrite s.mem x va.toNat (s.imageBytes rn r) = .ok m →
      exec (.saveComplete rn) s = .next (State.trace { ((s.keep rn r).setRegion rn
        { r with state := .stopped, lasterr := 0, async := none, saved := true }) with mem := m } rn 4 r.why 0)) ∧
    (∀ (va : Dword) (x : Xlate) (b : List Byte), r.async = some (.load va x) → s.isHeld x.part (.image rn) = false →
      imgRead s.mem x va.toNat = .ok b →
      let no := s.contextPeriod (s.keptWith b)
      let Failed (code : Nat) : Prop := ∃ (t : State) (g : Region), exec (.loadComplete rn) s = .next t ∧ t.region? rn = some g ∧ g.state = .claimed ∧
        g.lasterr = BitVec.ofNat 8 code ∧ g.async = none ∧ g.seq = Seq.zero ∧ (∀ n, r.covers n = true → t.tile n = Tile.cleared) ∧ t.mem = s.mem
      (imgOk b = false → Failed 0xB) ∧
      (∀ t, imgOk b = true → s.restore rn b (s.keptWith b) no false = .ok t →
        exec (.loadComplete rn) s = .next ((t.openPeriod no rn).trace rn 4 (fieldAt b 6 1) 0)) ∧
      (∀ c, imgOk b = true → s.restore rn b (s.keptWith b) no false = .error c → Failed c)) ∧
    (∃ t : State, exec (.regionZeroingComplete rn) s = .next t ∧ (r.freeing = false → t.region? rn = some { r with zeroing := false }) ∧
      (∀ x ∈ t.regions, x.2.freeing = true → x.1 % 1024 ≠ rn) ∧ t = { s with regions := t.regions }) ∧
    (r.state = .running → 10 ≤ (s.part r.part).trSlog → (s.part r.part).trSlog ≤ 30 → r.sampleAt + 2 ^ (s.part r.part).trSlog ≤ r.cycles →
      ∃ t : State, exec (.traceSample rn) s = .next t ∧
        t.region? rn = some { r with sampleAt := r.sampleAt + 2 ^ (s.part r.part).trSlog, firings := 0, beatsOut := 0 } ∧
        t = { s with regions := t.regions, parts := t.parts, mem := t.mem })) ∧
  (∀ (s t : State) (rd rs1 rs2 : Reg) (src dst : Nat) (a b : Region), s.mayRun 1 →
    s.rgOf s.me.actPart (bits (s.me.get rs1) 31 0) = some (src, a) → s.rgOf a.part (bits (s.me.get rs2) 31 0) = some (dst, b) →
    a.state = .stopped → b.state = .claimed → s.rebase src dst = .ok t →
    exec (.rgRebase rd rs1 rs2) s = .next (((s.setRegion src { a with state := .saving, async := some (.rebaseFrom dst) }).setRegion dst
      { b with state := .loading, async := some (.rebaseTo src) }).withResult rd 0)) ∧
  (∀ (s t : State) (src dst : Nat) (a b : Region), s.region? src = some a → s.region? dst = some b → src ≠ dst →
    a.async = some (.rebaseFrom dst) → s.rebase src dst = .ok t →
    exec (.rebaseComplete src) s = .next (t.trace dst 4 a.why 0) ∧ ∃ g g' : Region, t.region? src = some g ∧ g.state = .claimed ∧ g.run = none ∧ g.seq = Seq.zero ∧
      t.region? dst = some g' ∧ g'.state = .stopped ∧ g'.why = a.why ∧ g'.period = a.period ∧ g'.code = a.code ∧
      g'.seq = { a.seq.deliver with trapped := none } ∧ g'.ocol = b.ocol ∧ g'.orow = b.orow ∧ g'.incarn = b.incarn)

/-! ### Device CSRs and tenancy (R12, R123, R136, R139, R348, R407, R421, R422, R440, R448, R449, R469, R470) -/

/-- An access to a device CSR below its least level (R12, R449): the virtual-instruction exception from VS-mode or VU-mode where HS-mode
could make it, else the illegal-instruction exception; no register but the trap's changes. At its level a read gives the value and
nothing else changes. The entry of the exception and its value 0 are RISC-V's (PRESUMED, notes/assumptions 3); that each hart has an lmsel of
its own is the model's reading (notes/assumptions 12), and that a write for a partition not in force does nothing the model's choice
(notes/assumptions 49). -/
def Obligations.CsrPrivilege : Prop :=
  ∀ (s : State) (h : Nat) (v : Dword), (s.hart h).wait = none → s.hartOut h = false →
    let x := s.hart h
    (∀ i l, (i, l) ∈ [(Instr.vdresume h v, 1), (.faultQueueHeadWrite h v, 1), (.revokeGraph h v, 1), (.revokeSyncObject h v, 1),
        (.revokeAttnPage h v, 1), (.revokeRegion h v, 1), (.revokeQueue h v, 1), (.debugArm h v, 1), (.debugCancel h v, 1),
        (.queueCreate h v, 1), (.queueDestroy h v, 1), (.pageZero h v, 2), (.partitionDescriptorUpdate h v, 2), (.linkMarginRun h v, 3),
        (.voltageOffsetWrite h v, 3)] → x.mode.level < l →
      exec i s = .next (s.setHart h (x.takeTrap (if (x.mode = .vs ∨ x.mode = .vu) ∧ l ≤ 2 then 22 else 2) false 0 0))) ∧
    (∀ i ∈ [Instr.vdresume h v, .faultQueueHeadWrite h v, .revokeGraph h v, .revokeSyncObject h v, .revokeAttnPage h v, .revokeRegion h v,
        .revokeQueue h v, .debugArm h v, .debugCancel h v], 1 ≤ x.mode.level → (s.part x.actPart).active = false →
      exec i s = .next (s.setHart h { x with pc := x.pc + 4 })) ∧
    (∀ (rd : Reg) (n : BitVec 12) (l : Nat), (n, l) ∈ [(0x5C0, 2), (0x5C2, 1), (0x5C4, 1), (0x5C7, 1), (0x5C8, 1), (0x5CA, 1), (0x6C0, 2), (0x6C1, 2),
        (0x6C4, 2), (0x6C5, 2), (0x7C0, 3), (0x7C1, 3), (0xCC0, 0), (0xCC1, 0)] →
      (x.mode.level < l → exec (.csrRead h rd n) s =
        .next (s.setHart h (x.takeTrap (if (x.mode = .vs ∨ x.mode = .vu) ∧ l ≤ 2 then 22 else 2) false 0 0))) ∧
      (l ≤ x.mode.level → exec (.csrRead h rd n) s = .next (s.setHart h { (x.set rd (s.csrValue x n.toNat)) with pc := x.pc + 4 }))) ∧
    s.csrValue x 0x5C0 = BitVec.ofNat 64 x.vdpart ∧ s.csrValue x 0x5CA = x.vdqctl ∧ s.csrValue x 0x6C0 = x.lmsel ∧
    s.csrValue x 0x5C2 = BitVec.ofNat 64 (s.part x.actPart).fqHead ∧ s.csrValue x 0xCC1 = s.fuses.chipId ∧
    s.csrValue x 0x5C1 = 0 ∧ s.csrValue x 0x5C3 = 0

/-- Writes of device registers by a hart at their level (R7, R8, R123, R136, R146, R348, R407, R440, R445, R448, R469, R470): what each changes,
and nothing else but the hart's pc. That vdresume resumes nothing whose record still waits to be written, that a write of vdfqhead ends the pending
fault interrupt, that another SLOG starts the samples afresh, and that each hart has an lmsel and a vmsel of its own, are the model's
(notes/assumptions 41, 34, 25, 12). -/
def Obligations.CsrWrites : Prop :=
  (∀ (s : State) (h : Nat) (v : Dword), (s.hart h).wait = none → s.hartOut h = false →
    let x := s.hart h
    let p := x.actPart
    let past (t : State) : Host.Outcome State Fault Refusal := .next (t.setHart h { x with pc := x.pc + 4 })
    (1 ≤ x.mode.level → (s.part p).active = true →
      exec (.faultQueueHeadWrite h v) s = past (s.setPart p { s.part p with fqHead := bits v 15 0, irq := false }) ∧
      (let t : State := s.setPart p { s.part p with trHead := bits v 15 0, trEn := BitVec.ofNat 8 (bits v 23 16), trSlog := bits v 28 24 }
       (bits v 28 24 = (s.part p).trSlog → exec (.registerWrite (.csr h 0x5C4) v) s = past t) ∧
       (bits v 28 24 ≠ (s.part p).trSlog → ∃ u : State, exec (.registerWrite (.csr h 0x5C4) v) s = past u ∧ u = { t with regions := u.regions } ∧
        ∀ n, u.region? n = (s.region? n).map (fun r =>
          if r.part = p then { r with sampleAt := r.cycles / 2 ^ bits v 28 24 * 2 ^ bits v 28 24 } else r))) ∧
      (∀ f : Held, (s.part p).held.find? (fun f => f.fid == bits v 31 0) = some f → (∃ y ∈ (s.part p).fqWait, y.fid = bits v 31 0) →
        exec (.vdresume h v) s = past s) ∧
      (∀ f : Held, (s.part p).held.find? (fun f => f.fid == bits v 31 0) = some f → (∀ y ∈ (s.part p).fqWait, y.fid ≠ bits v 31 0) →
        (∀ a, f.who ≠ .join a ∧ f.who ≠ .result a) →
        exec (.vdresume h v) s = past (s.setPart p { s.part p with held := (s.part p).held.filter (fun f => f.fid != bits v 31 0) })) ∧
      ((s.part p).held.find? (fun f => f.fid == bits v 31 0) = none → exec (.vdresume h v) s = past s) ∧
      (∀ rn r, s.rgOf p (bits v 31 0) = some (rn, r) →
        exec (.debugArm h v) s = past (s.setRegion rn { r with debug := true }) ∧
        exec (.debugCancel h v) s = past (s.setRegion rn { r with debug := false })) ∧
      (s.rgOf p (bits v 31 0) = none → exec (.debugArm h v) s = past s ∧ exec (.debugCancel h v) s = past s)) ∧
    (2 ≤ x.mode.level →
      exec (.registerWrite (.csr h 0x5C0) v) s = .next (s.setHart h { x with vdpart := bits v 3 0, pc := x.pc + 4 }) ∧
      exec (.registerWrite (.csr h 0x6C4) v) s = past { s with vdtab := bits v 51 14 * 16384 } ∧
      (bits v 63 52 ≠ 0 ∨ bits v 15 0 ≠ 0 ∨ paTarget v.toNat = false → exec (.pageZero h v) s = past s) ∧
      (s.memOk → bits v 63 52 = 0 → bits v 15 0 = 0 → paTarget v.toNat = true → ∃ t : State, exec (.pageZero h v) s = past t ∧
        (∀ a, v.toNat ≤ a → a < v.toNat + 65536 → t.mem.get a = 0) ∧ sameMemoryBut s t v.toNat 65536 ∧ t = { s with mem := t.mem })) ∧
    (3 ≤ x.mode.level →
      exec (.registerWrite (.csr h 0x7C0) v) s = .next (s.setHart h { x with vmsel := bits v 5 0, pc := x.pc + 4 }) ∧
      exec (.registerWrite (.csr h 0x6C0) v) s = .next (s.setHart h { x with lmsel := BitVec.ofNat 64 (bits v 15 0), pc := x.pc + 4 }))) ∧
  (∀ (s : State) (vf : Nat) (v : Dword), (s.vfPart vf).isSome = true → exec (.registerWrite (.vf vf 0) v) s =
    .next (s.setVf vf { s.vf vf with crbase := BitVec.ofNat 64 (v.toNat / 64 * 64) }))

/-- Voltage and link margining (R469, R470): the write takes effect where its value is in range, SETTLED reads 0 until the rail has settled, a
run is busy until it is done and then gives its bit errors, saturating. That a write for an absent rail or link is ignored and that a DIR or STEP
out of range starts no run are the model's choices (notes/assumptions 27), and that each hart has its own lmsel its reading (notes/assumptions 12). -/
def Obligations.MarginingRegisters : Prop :=
  (∀ (s : State) (h : Nat) (v : Dword), (s.hart h).wait = none → s.hartOut h = false → 3 ≤ (s.hart h).mode.level →
    let x := s.hart h
    let past (t : State) : Host.Outcome State Fault Refusal := .next (t.setHart h { x with pc := x.pc + 4 })
    let o : Int := (BitVec.ofNat 8 (bits v 7 0)).toInt
    (x.vmsel < Config.numRails → -10 ≤ o → o ≤ 10 →
      exec (.voltageOffsetWrite h v) s = past { s with rails := s.rails.put x.vmsel { offset := o, settled := false } }) ∧
    ((Config.numRails ≤ x.vmsel ∨ o < -10 ∨ 10 < o) → exec (.voltageOffsetWrite h v) s = past s) ∧
    (∀ k, marginKey x.lmsel = some k → (s.margin k).busy = false →
      let m : Margin := { errs := (s.margin k).errs, dir := bits v 26 24, step := bits v 23 16
                          busy := bit v 0 && decide (bits v 26 24 < 4) && decide (bits v 23 16 < 32) }
      exec (.linkMarginRun h v) s = past { s with margins := s.margins.put k m }) ∧
    (marginKey x.lmsel = none → exec (.linkMarginRun h v) s = past s)) ∧
  (∀ (s : State) (rail : Nat), rail < Config.numRails →
    exec (.voltageSettled rail) s = .next { s with rails := s.rails.put rail { s.rail rail with settled := true } }) ∧
  (∀ (s : State) (phy inst lane errs k : Nat), phy < 4 → inst < 128 → lane < 128 →
    marginKey (BitVec.ofNat 64 (lane * 512 + inst * 4 + phy)) = some k → (s.margin k).busy = true →
    let m : Margin := { s.margin k with busy := false, errs := min errs 0xFFFFFFFF }
    exec (.linkMarginDone phy inst lane errs) s = .next { s with margins := s.margins.put k m })

/-- vdqctl and vdpupd (R136-R139): a queue is created from its entry where that is sound and the share fits, its handle the result; one in use
is not destroyed; a descriptor is put in force where every field is as the rule gives, and otherwise the offset of the first that is not
is reported and nothing else changes.
What an update in force does to the rings, that BUSY is answered before the entry is looked at, and the acceptance number that a queue starts
after, are the model's choices (notes/assumptions 35, 44). -/
def Obligations.QueuesAndDescriptors : Prop :=
  ∀ (s : State) (h : Nat) (v : Dword), (s.hart h).wait = none → s.hartOut h = false →
    let x := s.hart h
    let p := x.actPart
    let q := bits v 5 0
    let gives (t : State) (u : Dword) : Host.Outcome State Fault Refusal := .next (t.setHart h { x with vdqctl := u, pc := x.pc + 4 })
    (1 ≤ x.mode.level → (s.part p).active = true →
      (∀ Q, (s.part p).queues.find q = some Q → exec (.queueCreate h v) s = gives s (errWord 7)) ∧
      (∀ d, (s.part p).desc = some d → (s.part p).queues.find q = none →
        let e := s.gread p (d.qtab + 128 * q) 128
        (s.queueEntryOk p e = false → exec (.queueCreate h v) s = gives s (errWord 8)) ∧
        (s.queueEntryOk p e = true → (s.part p).quota 3 < ((s.part p).queues.map (fun y => y.2.share)).sum + fieldAt e 16 4 →
          exec (.queueCreate h v) s = gives s (errWord 5)) ∧
        (s.queueEntryOk p e = true → ((s.part p).queues.map (fun y => y.2.share)).sum + fieldAt e 16 4 ≤ (s.part p).quota 3 →
          ∃ Q : Queue, Q.asid = fieldAt e 4 2 ∧ Q.s1root = fieldAt e 8 8 ∧ Q.share = fieldAt e 16 4 ∧ Q.recs = [[], [], [], []] ∧
            Q.rsv = [] ∧ ((∀ l ∈ (s.part p).launches, l.q ≠ q) → Q.accNo = 0) ∧
            (∀ l ∈ (s.part p).launches, l.q = q → l.accNo ≤ Q.accNo) ∧ Q.log2n = [fieldAt e 40 1, fieldAt e 56 1, fieldAt e 72 1, fieldAt e 88 1] ∧
            Q.ring = [fieldAt e 32 8, fieldAt e 48 8, fieldAt e 64 8, fieldAt e 80 8] ∧
            exec (.queueCreate h v) s = gives (s.setPart p { s.part p with queues := (s.part p).queues.put q Q })
              (BitVec.ofNat 64 ((s.part p).handle tblQueue (q + 1))))) ∧
      (∀ Q, (s.part p).queues.find q = some Q → s.queueBusy p q = true → exec (.queueDestroy h v) s = gives s (errWord 7)) ∧
      (∀ Q, (s.part p).queues.find q = some Q → s.queueBusy p q = false →
        exec (.queueDestroy h v) s = gives (s.setPart p ((s.part p).bump tblQueue (q + 1))) 0)) ∧
    (2 ≤ x.mode.level →
      let n := bits v 3 0
      let b := s.mem.read (s.vdtab + 1024 * n) 1024
      let past (t : State) : Host.Outcome State Fault Refusal := .next (t.setHart h { x with pc := x.pc + 4 })
      (∀ o bad, (s.descChecks n b).find? (fun y => !y.2) = some (o, bad) →
        exec (.partitionDescriptorUpdate h v) s = past { s with updBad := true, updOffset := o, updPart := n }) ∧
      ((s.descChecks n b).find? (fun y => !y.2) = none → (s.part n).desc = none →
        exec (.partitionDescriptorUpdate h v) s = past
          { (s.setPart n { s.part n with desc := some (descOf b) }) with updBad := false, updOffset := 0, updPart := n }))

/-- vdrevoke (R127, R421, R422): a handle that is not current has no effect. A revoked graph, ATTN page, region or queue handle becomes stale; a
revoked object ends its holds and its waiters receive REVOKED; the copies that touch a revoked ATTN page stop with REVOKED (R210); a revoked region is killed and freed with a REVOKED record; a revoked
queue's records are discarded, each retired with REVOKED at the block it names, in order of level and age, and its launches not yet expanded complete
REVOKED, while its root stands for periods that run on. A retirement counts a block down by one and leaves a first failing status in it. The form of
the ATTN table, the trims that a revocation ends and what a descriptor in force keeps are the model's (notes/assumptions 32, 30, 35). -/
def Obligations.Revocations : Prop :=
  ∀ (s : State) (h : Nat) (v : Dword), (s.hart h).wait = none → s.hartOut h = false → 1 ≤ (s.hart h).mode.level →
    (s.part (s.hart h).actPart).active = true →
    let x := s.hart h
    let p := x.actPart
    let hd := bits v 31 0
    let slot := hSlot hd
    let next (g : Nat) : Nat := if g = 4095 then 1 else g + 1
    let past (t : State) : Host.Outcome State Fault Refusal := .next (t.setHart h { t.hart h with pc := (t.hart h).pc + 4 })
    ((s.part p).current tblGraph hd = false → exec (.revokeGraph h v) s = past s) ∧
    ((s.part p).current tblGraph hd = true → exec (.revokeGraph h v) s = past (s.setPart p
      { s.part p with gens := (s.part p).gens.put slot (next ((s.part p).gen tblGraph slot)), graphs := (s.part p).graphs.del slot })) ∧
    ((s.part p).current tblSo hd = false → exec (.revokeSyncObject h v) s = past s) ∧
    (∀ o, (s.part p).current tblSo hd = true → (s.part p).sos.find slot = some o → ∃ t : State, exec (.revokeSyncObject h v) s = past t ∧
      (t.part p).sos = (s.part p).sos.del slot ∧ (t.part p).gen tblSo slot = next ((s.part p).gen tblSo slot) ∧
      (∀ y ∈ o.holds, (hd, y.who) ∈ (t.part p).ended) ∧
      (∀ y k rd, y ∈ o.waits → y.reply = .hart k rd → (∀ z ∈ o.waits, z ≠ y → ∀ rd', z.reply ≠ .hart k rd') → o.waits.Nodup →
        t.hart k = { (({ s.hart k with wait := none } : Hart).set rd (errWord 0xD)) with pc := (s.hart k).pc + 4 })) ∧
    (s.attnEntry p hd = none → exec (.revokeAttnPage h v) s = past s) ∧
    (∀ ka va pk fk pv fv, s.attnEntry p hd = some (ka, va) → translate s.mem (s.attnXlate p x) ka .read = .ok (pk, fk) →
      translate s.mem (s.attnXlate p x) va .read = .ok (pv, fv) → ∃ t : State, exec (.revokeAttnPage h v) s = past t ∧
      (t.part p).gen tblAttn slot = next ((s.part p).gen tblAttn slot) ∧
      (∀ rn r k c, s.region? rn = some r → r.part = p → r.seq.copies.find k = some c → c.ended = false → c.desc = none →
        (c.touches ka (ka + 65536) = true ∨ c.touches va (va + 65536) = true) →
        ∃ g, t.region? rn = some g ∧ g.seq.copies.find k = some { c with status := 0xD }) ∧
      t = { s with mem := t.mem, parts := t.parts, regions := t.regions, colls := t.colls }) ∧
    (s.rgOf p hd = none → exec (.revokeRegion h v) s = past s) ∧
    (∀ rn r, s.rgOf p hd = some (rn, r) → ∃ t : State, exec (.revokeRegion h v) s = past t ∧
      (t.part r.part).gen tblRegion r.slot = next ((s.part r.part).gen tblRegion r.slot) ∧
      (∃ f ∈ (t.part p).fqWait, f.code = 0x33 ∧ f.src = 4 ∧ f.fid = (s.part p).nextFid) ∧
      (∀ n, r.covers n = true → t.tile n = Tile.cleared)) ∧
    ((s.part p).current tblQueue hd = false → exec (.revokeQueue h v) s = past s) ∧
    (∀ Q, (s.part p).current tblQueue hd = true → (s.part p).queues.find (slot - 1) = some Q →
      (∀ y ∈ (s.part p).trims, y.2.q ≠ slot - 1) → (∀ e ∈ Q.recs.flatten ++ Q.rsv, e.trim = none) → ∃ t : State,
      exec (.revokeQueue h v) s = past ((Q.recs.flatten ++ Q.rsv).foldl
        (fun z e => z.retireJoin p (s.queueXlate p (slot - 1)) e.cont.join.toNat 4 e.cont.iidx) t) ∧
      (t.part p).queues = (s.part p).queues.del (slot - 1) ∧ (t.part p).gen tblQueue slot = next ((s.part p).gen tblQueue slot) ∧
      (hd, Q.asid, Q.s1root) ∈ (t.part p).oldq ∧
      (∀ l ∈ (s.part p).launches, l.q = slot - 1 → l.expanded = false → { l with expanded := true, status := some 4 } ∈ (t.part p).launches) ∧
      t = { s with parts := t.parts }) ∧
    (∀ (z : State) (xl : Xlate) (ix : Nat), z.retireJoin p xl 0 4 ix = z) ∧
    (∀ (z : State) (xl : Xlate) (a ix pa fmt n : Nat), z.memOk → a ≠ 0 → translate z.mem xl a .atomic = .ok (pa, fmt) →
      z.mem.readN pa 4 = n → 2 ≤ n → ix < 65536 → ∃ t : State, z.retireJoin p xl a 4 ix = t ∧ t = { z with mem := t.mem, journal := t.journal } ∧
      t.mem.readN pa 4 = n - 1 ∧ sameMemoryBut z t pa 64 ∧
      (z.mem.readN (pa + 6) 2 = 0 → t.mem.readN (pa + 6) 2 = 4 ∧ t.mem.readN (pa + 8) 2 = ix))

/-- Accesses of a Lantern hart under its own translation (R21, R144, R500; RISC-V's meaning of each, notes/assumptions 3): a load fills its
register, a store leaves its bytes, LR and SC make and use a reservation, an AMO leaves its function of the two values and returns the
old one, a vector access moves its active elements, each at its own offset; a fault is taken as an exception with nothing performed. An access below
the least privilege of what it names moves nothing, raises a PRIV record and does not trap the hart (R12, R449; notes/assumptions 48). -/
def Obligations.LanternAccesses : Prop :=
  ∀ (s : State) (h : Nat) (addr : Dword), (s.hart h).wait = none → s.hartOut h = false →
    let x := s.hart h
    let va := addr.toNat
    let tval2 (f : XFault) : Dword := if x.xlate.s2.isSome then BitVec.ofNat 64 (f.ga / 4) else 0
    let run (op : LanOp) : Host.Outcome State Fault Refusal := exec (.lanternLoadStore h op addr) s
    let past (x' : Hart) : Host.Outcome State Fault Refusal := .next (s.setHart h { x' with pc := x.pc + 4 })
    let value (bs : List Byte) (signed : Bool) : Dword :=
      BitVec.ofInt 64 (if signed = true ∧ 2 ^ (8 * bs.length) ≤ 2 * leNat bs then (leNat bs : Int) - 2 ^ (8 * bs.length) else leNat bs)
    let Stored (r : Host.Outcome State Fault Refusal) (x' : Hart) (m : Memory) : Prop := ∃ t : State, r = .next t ∧ t.mem = m ∧
      t.hart h = { x' with pc := x.pc + 4 } ∧ t = { s with harts := t.harts, mem := t.mem } ∧
      ∀ k, k ≠ h → (t.hart k = s.hart k ∨ t.hart k = { s.hart k with resv := none })
    let Refused (r : Host.Outcome State Fault Refusal) (a : Nat) : Prop := ∃ (t : State) (f : FaultRec), r = .next t ∧
      f.code = 0x35 ∧ f.src = 4 ∧ f.addr = BitVec.ofNat 64 a ∧ t.hart h = { x with pc := x.pc + 4 } ∧
      (t.part x.part).fqWait = (s.part x.part).fqWait ++ [f] ∧ ((s.part x.part).fqFull = false → t.mem = s.mem)
    let mayRead (n : Nat) : Prop := s.lanDenied h va n false = none
    let mayWrite (n : Nat) : Prop := s.lanDenied h va n true = none
    (∀ (log : BitVec 2) (rd rs : Reg) (bs : List Byte) (m : Memory), 
      let n := 2 ^ log.toNat
      (∀ a signed, vread s.mem x.xlate va n = .ok bs → s.lanDenied h va n false = some a →
        Refused (run (.load log signed rd)) a ∧ Refused (run (.fload log rd)) a) ∧
      (∀ a, vwrite s.mem x.xlate va (leBytes (x.get rs).toNat n) = .ok m → s.lanDenied h va n true = some a → Refused (run (.store log rs)) a) ∧
      (∀ signed, mayRead n → vread s.mem x.xlate va (2 ^ log.toNat) = .ok bs → bs ≠ [] → run (.load log signed rd) = past (x.set rd (value bs signed))) ∧
      (mayRead n → vread s.mem x.xlate va (2 ^ log.toNat) = .ok bs → run (.fload log rd) = past { x with f := x.f.set rd.toNat (boxed bs) }) ∧
      (mayWrite n → vwrite s.mem x.xlate va (leBytes (x.get rs).toNat (2 ^ log.toNat)) = .ok m → Stored (run (.store log rs)) x m) ∧
      (mayWrite n → vwrite s.mem x.xlate va (leBytes ((x.f[rs.toNat]?).getD 0).toNat (2 ^ log.toNat)) = .ok m → Stored (run (.fstore log rs)) x m) ∧
      (∀ o f signed, vread s.mem x.xlate va (2 ^ log.toNat) = .error (o, f) →
        run (.load log signed rd) = .next (s.setHart h (x.takeTrap (hartFaultCause f x.xlate.s2.isSome false false) false (BitVec.ofNat 64 (va + o)) (tval2 f)))) ∧
      (∀ o f, vwrite s.mem x.xlate va (leBytes (x.get rs).toNat (2 ^ log.toNat)) = .error (o, f) →
        run (.store log rs) = .next (s.setHart h (x.takeTrap (hartFaultCause f x.xlate.s2.isSome true false) false (BitVec.ofNat 64 (va + o)) (tval2 f))))) ∧
    (∀ (log : BitVec 2) (rd rs : Reg) (aop : AmoOp) (pa fmt : Nat),
      let n := 2 ^ log.toNat
      let old := s.mem.read pa n
      (va % n ≠ 0 → run (.lr log rd) = .next (s.setHart h (x.takeTrap 4 false addr 0)) ∧
        run (.sc log rd rs) = .next (s.setHart h (x.takeTrap 6 false addr 0)) ∧
        run (.amo aop log rd rs) = .next (s.setHart h (x.takeTrap 6 false addr 0))) ∧
      (va % n = 0 → mayRead n → translate s.mem x.xlate va .read = .ok (pa, fmt) →
        run (.lr log rd) = past { (x.set rd (value old true)) with resv := some (pa, old) }) ∧
      (va % n = 0 → mayWrite n → translate s.mem x.xlate va .write = .ok (pa, fmt) →
        (x.resv = some (pa, old) → Stored (run (.sc log rd rs)) { (x.set rd 0) with resv := none } (s.mem.write pa (leBytes (x.get rs).toNat n))) ∧
        (x.resv ≠ some (pa, old) → run (.sc log rd rs) = past { (x.set rd 1) with resv := none })) ∧
      (va % n = 0 → mayWrite n → translate s.mem x.xlate va .atomic = .ok (pa, fmt) →
        let a := leNat old
        let b := (x.get rs).toNat % 2 ^ (8 * n)
        let sgn (y : Nat) : Int := if 2 ^ (8 * n) ≤ 2 * y then (y : Int) - 2 ^ (8 * n) else y
        let new : Nat := match aop with
          | .swap => b | .add => (a + b) % 2 ^ (8 * n) | .xor => a ^^^ b | .and => a &&& b | .or => a ||| b
          | .min => if sgn a ≤ sgn b then a else b | .max => if sgn a ≤ sgn b then b else a
          | .minu => min a b | .maxu => max a b
        Stored (run (.amo aop log rd rs)) (x.set rd (value old true)) (s.mem.write pa (leBytes new n)))) ∧
    (∀ (log : BitVec 2) (vd : Reg) (elems : List (Nat × Dword)),
      (∀ es, s.vecDenied h addr (2 ^ log.toNat) elems false = none → gatherElems s.mem x.xlate addr (2 ^ log.toNat) elems = .ok es → run (.vload log vd elems) = past (x.putVector vd es)) ∧
      (∀ m, s.vecDenied h addr (2 ^ log.toNat) elems true = none →
        scatterElems s.mem x.xlate addr (2 ^ log.toNat) ((x.v.drop vd.toNat).flatten) elems = .ok m →
        Stored (run (.vstore log vd elems)) x m) ∧
      (∀ a f, gatherElems s.mem x.xlate addr (2 ^ log.toNat) elems = .error (a, f) →
        run (.vload log vd elems) = .next (s.setHart h
          (x.takeTrap (hartFaultCause f x.xlate.s2.isSome false false) false (BitVec.ofNat 64 a) (tval2 f)))) ∧
      (∀ a f, scatterElems s.mem x.xlate addr (2 ^ log.toNat) ((x.v.drop vd.toNat).flatten) elems = .error (a, f) →
        run (.vstore log vd elems) = .next (s.setHart h
          (x.takeTrap (hartFaultCause f x.xlate.s2.isSome true false) false (BitVec.ofNat 64 a) (tval2 f)))))

/-- pg.mig, its granules, bist.run, bist.stat and the end of a self-test (R171-R173, R467): what starts each, what its steps move, and what
its end leaves. A migration that has moved all writes its DONE word; a self-test's tiles are zero at its end.
A granule that moves takes along the shadows of in-place periods and what is known of its use. What a self-test names as tested is free, which
items an operand selects and that pg.mig in M-mode answers BADARG are the model's choices (notes/assumptions 14, 27, 36). -/
def Obligations.MigrationAndSelfTest : Prop :=
  (∀ (s : State) (rd rs2 : Reg) (b : List Byte), s.me.wait = none → 1 ≤ s.me.mode.level → (s.me.get rs2).toNat % 8 = 0 →
    vread s.mem s.me.xlate (s.me.get rs2).toNat 32 = .ok b →
    (migOk b = false → exec (.pgMig rd 0 rs2) s = .next (s.withResult rd (errWord 8))) ∧
    (migOk b = true → (s.me.xlate.s1.isSome = true ∨ s.me.xlate.s2.isSome = true) →
      migSplits s.mem s.me.xlate (fieldAt b 0 8) (fieldAt b 8 4) = false →
      let g : Migration := { base := BitVec.ofNat 64 (fieldAt b 0 8), count := fieldAt b 8 4, tier := fieldAt b 12 1
                             done := BitVec.ofNat 64 (fieldAt b 16 8), xl := s.me.xlate, moved := 0, code := none }
      exec (.pgMig rd 0 rs2) s = .next ({ s with migs := s.migs.put s.migNo g }.withResult rd 0))) ∧
  (∀ (s : State) (i : Nat) (g : Migration), s.migs.find i = some g → s.isHeld g.xl.part (.mig i) = false → g.code = none →
    (∀ m frame, g.count ≤ g.moved → vwrite s.mem g.xl g.done.toNat (leBytes (2 ^ 63 + g.moved * 2 ^ 16) 8) = .ok m →
      exec (.pgMigGranule i frame) s = .next { s with mem := m, migs := s.migs.del i }) ∧
    (∀ pa fmt l old frame, g.moved < g.count → translate s.mem g.xl (g.base.toNat + 65536 * g.moved) .read = .ok (pa, fmt) →
      migLeaf s.mem g.xl (g.base.toNat + 65536 * g.moved) = some (l, old) → paDevice pa = true →
      let next : Migration := { g with moved := g.moved + 1 }
      (paLpddr pa = decide (g.tier = 1) → exec (.pgMigGranule i frame) s = .next { s with migs := s.migs.put i next }) ∧
      (∀ f, paLpddr pa ≠ decide (g.tier = 1) → frame = some f → s.frameFree g.tier f l.size = true →
        let moved (g : Nat) : Nat := if old ≤ 65536 * g ∧ 65536 * g < old + l.size then (65536 * g - old + f) / 65536 else g
        ∃ t : State, exec (.pgMigGranule i frame) s = .next t ∧ t.mem = movePage s.mem l old f l.size ∧ t.migs = s.migs.put i next ∧
          t.used = s.used.map (fun y => (y.1, moved y.2)) ∧ t.lostGran = s.lostGran.map moved ∧
          (∀ n, t.region? n = (s.region? n).map (fun r => { r with
            shadows := r.shadows.map (fun y => { y with pa := moved y.pa, own := moved y.own }) })) ∧
          t = { s with mem := t.mem, migs := t.migs, used := t.used, lostGran := t.lostGran, regions := t.regions }))) ∧
  (∀ (s : State) (rd rs1 rs2 : Reg), s.me.wait = none → 2 ≤ s.me.mode.level →
    let v := s.me.get rs1
    ((bistOk v = false ∨ (s.me.get rs2).toNat % 4096 ≠ 0) → exec (.bistRun rd rs1 rs2) s = .next (s.withResult rd (errWord 8))) ∧
    (bistOk v = true → (s.me.get rs2).toNat % 4096 = 0 → (∃ y ∈ s.regions, testMeets v.toNat y.2.rect = true ∨ testsSeq v.toNat y.1 = true) →
      exec (.bistRun rd rs1 rs2) s = .next (s.withResult rd (errWord 7))) ∧
    (bistOk v = true → (s.me.get rs2).toNat % 4096 = 0 → (∀ y ∈ s.regions, testMeets v.toNat y.2.rect = false ∧ testsSeq v.toNat y.1 = false) →
      exec (.bistRun rd rs1 rs2) s = .next (s.setHart s.curHart { (s.me.set rd (BitVec.ofNat 64 s.me.bistNo)) with
        pc := s.me.pc + 4, bistNo := (s.me.bistNo + 1) % 65536
        bists := s.me.bists.put s.me.bistNo (0, v.toNat, 0, s.me.get rs2, s.me.xlate) })) ∧
    (∀ st op recs buf xl, s.me.bists.find v.toNat = some (st, op, recs, buf, xl) →
      exec (.bistStat rd rs1) s = .next (s.withResult rd (BitVec.ofNat 64 (st + recs * 2 ^ 16)))) ∧
    (s.me.bists.find v.toNat = none → exec (.bistStat rd rs1) s = .next (s.withResult rd (errWord 8)))) ∧
  (∀ (s : State) (h test op recs cycles : Nat) (buf : Dword) (xl : Xlate) (fails : List BistFail) (m : Memory),
    (s.hart h).bists.find test = some (0, op, recs, buf, xl) → s.isHeld xl.part (.bist h test) = false →
    let out := bistRecords test (s.bistFails op fails) (Config.freeWord s.freeCtr) cycles
    vwrite s.mem xl buf.toNat out.flatten = .ok m →
    ∃ t : State, exec (.bistComplete h test fails cycles) s = .next t ∧ t.mem = m ∧ t.regions = s.regions ∧
      (t.hart h).bists.find test = some (if s.bistFails op fails = [] then 1 else 2, op, min 127 (s.bistFails op fails).length + 1, buf, xl) ∧
      (∀ f ∈ s.bistFails op fails, f ∈ fails ∧ bistItem op f.item = true ∧ bistInside op f = true) ∧
      (∀ n, testMeets op { x := tileX n, y := tileY n, wd := 1, ht := 1 } = true → t.tile n = Tile.cleared) ∧
      (∀ n, testMeets op { x := tileX n, y := tileY n, wd := 1, ht := 1 } = false → t.tile n = s.tile n))

/-! ### The host and the records regions take (R115-R118, R122-R124, R128, R129, R463) -/

/-- A write to a submission page (R117, R118): refused, answered as a repeat, asked to retry, or accepted, in the order of the checks; an
accepted launch is journalled, stands last in its partition's accepted launches with the next acceptance number of its queue, and
LASTSEQ is its sequence number. Nothing else changes. A record that does not translate leaves a fault record and is asked for again, or refused
where a permission is missing. A short form that breaks its rules is accepted and completes later (notes/assumptions 25); the root that translates
the pointer is the queue's (notes/assumptions 49). -/
def Obligations.HostSubmissions : Prop :=
  ∀ (s : State) (vf page : Nat) (h : HostWrite),
    let x := s.vf vf
    let answer (c : Cpl) : Host.Outcome State Fault Refusal := .next (s.setVf vf { x with cpl := c })
    let refused : Host.Outcome State Fault Refusal := if h.dmw then answer .ur else .next (s.setVf vf { x with cpl := .none, errs := x.errs + 1 })
    let b := h.bytes
    let q := fieldAt b 8 1
    let seq := fieldAt b 0 8
    (s.vfPart vf = none ∨ x.pages.find page = none → exec (.hostSubmission vf page h) s = refused) ∧
    (∀ p sp, s.vfPart vf = some p → x.pages.find page = some sp →
      let bad : Prop := subFieldsOk b = false ∨ 64 ≤ q ∨ sp.qmask.getLsbD q = false ∨ (s.part p).queues.find q = none ∨ sp.lastseq.toNat + 1 < seq
      let Accepted (record : List Byte) (short : Bool) : Prop := ∀ Q, (s.part p).queues.find q = some Q → ∃ t : State,
        exec (.hostSubmission vf page h) s = .next t ∧
        (t.part p).launches = (s.part p).launches ++ [{ q := q, accNo := Q.accNo + 1, prio := fieldAt b 9 1, short := short, record := record
                                                        act := .host vf page (BitVec.ofNat 64 seq) (BitVec.ofNat 32 (fieldAt b 12 4)) ((fieldAt b 10 1).testBit 1)
                                                        expanded := false, join := 0, units := [], status := none }] ∧
        (t.part p).queues = (s.part p).queues.put q { Q with accNo := Q.accNo + 1 } ∧
        t.journal = s.journal ++ [.accept p q (Q.accNo + 1) (b.take 32) record] ∧
        t.vf vf = { x with pages := x.pages.put page { qmask := sp.qmask, lastseq := BitVec.ofNat 64 seq }, cpl := .sc } ∧
        t = { s with parts := t.parts, vfs := t.vfs, journal := t.journal }
      (h.dmw = false ∨ b.length ≠ 128 ∨ h.off % 128 ≠ 0 → exec (.hostSubmission vf page h) s = refused) ∧
      (h.dmw = true → b.length = 128 → h.off % 128 = 0 →
        (bad → exec (.hostSubmission vf page h) s = answer .ur) ∧
        (¬ bad → seq ≤ sp.lastseq.toNat → exec (.hostSubmission vf page h) s = answer .sc) ∧
        (¬ bad → sp.lastseq.toNat < seq → fieldAt b 10 1 % 2 = 1 →
          (s.subRoom p vf q (fieldAt b 9 1) = false → exec (.hostSubmission vf page h) s = answer .rrs) ∧
          (s.subRoom p vf q (fieldAt b 9 1) = true → Accepted (shortRecord b).1 (!(shortRecord b).2))) ∧
        (∀ record, ¬ bad → sp.lastseq.toNat < seq → fieldAt b 10 1 % 2 = 0 →
          vread s.mem (s.queueXlate p q) (fieldAt b 32 8) 256 = .ok record →
          (s.subRoom p vf q (fieldAt b 9 1) = false → exec (.hostSubmission vf page h) s = answer .rrs) ∧
          (s.subRoom p vf q (fieldAt b 9 1) = true → Accepted record false)) ∧
        (∀ o f, ¬ bad → sp.lastseq.toNat < seq → fieldAt b 10 1 % 2 = 0 →
          vread s.mem (s.queueXlate p q) (fieldAt b 32 8) 256 = .error (o, f) →
          exec (.hostSubmission vf page h) s = .next ((s.post p true (f.stage == 2) (FaultRec.ofX 4 f false (fieldAt b 32 8 + o))).answer vf
            (if f.kind = .page then .rrs else .ur)))))

/-- The VF's pages and rings (R115, R123, R124, R463): a page bound anew has LASTSEQ 0; enabling the ring with LOG2N from 6 to 16 starts it
afresh, any other value leaves EN 0; CRHEAD is written; from BOOTSTAT 0x80 on a VF is assigned to a partition that holds fewer than eight others, and
to none, and a hart to one; the fused minimum SVN only rises (R23, R146, R464, R466; the three registers: PRESUMED, notes/assumptions 27); a write of the MSI-X table is stored (its form: PRESUMED, notes/assumptions 45);
a read gives the registers' values, zeros on the submission pages, and nothing from a VF that is assigned to no partition; a function-level reset clears the control page and unbinds the pages, keeping the
accepted work. That a refused posted write counts in its VF is the model's reading (notes/assumptions 26). -/
def Obligations.HostRegisters : Prop :=
  ∀ (s : State) (vf page : Nat) (v : Dword),
    let x := s.vf vf
    ((s.vfPart vf).isSome = true →
      exec (.submissionPageBind vf page v) s = .next (s.setVf vf { x with pages := x.pages.put page { qmask := v, lastseq := 0 } }) ∧
      exec (.crheadWrite vf v) s = .next (s.setVf vf { x with crhead := bits v 15 0 }) ∧
      (bit v 8 = true → 6 ≤ bits v 4 0 → bits v 4 0 ≤ 16 → exec (.ringEnableWrite vf v) s =
        .next (s.setVf vf { x with en := true, log2n := bits v 4 0, crtail := 0, phase := true })) ∧
      (bit v 8 = false ∨ bits v 4 0 < 6 ∨ 16 < bits v 4 0 → exec (.ringEnableWrite vf v) s =
        .next (s.setVf vf { x with en := false, log2n := bits v 4 0 }))) ∧
    (s.vfPart vf = none → exec (.submissionPageBind vf page v) s = .next s ∧
      exec (.crheadWrite vf v) s = .next (s.setVf vf { x with cpl := .none, errs := x.errs + 1 }) ∧
      exec (.ringEnableWrite vf v) s = .next (s.setVf vf { x with cpl := .none, errs := x.errs + 1 })) ∧
    (∀ off : Nat, (s.vfPart vf).isSome = true → 0x1000 ≤ off → off < 0x9000 →
      (x.msixPba.get ((off - 0x1000) / 16 / 8)).getLsbD ((off - 0x1000) / 16 % 8) = false →
      exec (.registerWrite (.vf vf off) v) s = .next (s.setVf vf { x with msixTable := x.msixTable.writeN (off - 0x1000) 8 v.toNat })) ∧
    ((s.vfPart vf).isSome = true →
      s.hostRead vf 0x100000 = some x.crbase ∧
      s.hostRead vf 0x100008 = some (BitVec.ofNat 64 (x.log2n + if x.en then 2 ^ 8 else 0)) ∧
      s.hostRead vf 0x100010 = some (BitVec.ofNat 64 x.crhead) ∧
      s.hostRead vf 0x100018 = some (BitVec.ofNat 64 (x.crtail + if x.phase then 2 ^ 16 else 0)) ∧
      (∀ off, off < 0x100000 → s.hostRead vf off = some 0)) ∧
    (s.vfPart vf = none → ∀ off, s.hostRead vf off = none) ∧
    (∀ p : Nat, p < 16 →
      let others := (List.range 128).filter (fun k => k != vf && (s.vf k).part == some p)
      (s.bootstat = 0x80 → others.length < 8 → exec (.registerWrite (.vfAssign vf) (BitVec.ofNat 64 p)) s = .next (s.setVf vf { x with part := some p })) ∧
      (s.bootstat ≠ 0x80 ∨ 8 ≤ others.length → exec (.registerWrite (.vfAssign vf) (BitVec.ofNat 64 p)) s = .next s)) ∧
    (s.bootstat = 0x80 → ∀ p : Dword, 16 ≤ p.toNat → exec (.registerWrite (.vfAssign vf) p) s = .next (s.setVf vf { x with part := none })) ∧
    (∀ h, exec (.registerWrite (.hartAssign h) v) s = .next (s.setHart h { s.hart h with part := bits v 3 0 })) ∧
    exec (.registerWrite .minSvn v) s = .next { s with fuses := { s.fuses with minSvn := max s.fuses.minSvn (v.toNat % 2 ^ 32) } } ∧
    (∃ t : State, exec (.functionLevelReset vf) s = .next t ∧ t = { s with vfs := t.vfs } ∧ (t.vf vf).pages = [] ∧ (t.vf vf).en = false ∧
      (t.vf vf).crbase = 0 ∧ (t.vf vf).crhead = 0 ∧ (t.vf vf).crtail = 0 ∧ (t.vf vf).phase = true ∧ (t.vf vf).qvec = [] ∧
      (t.vf vf).msixTable = [] ∧ (t.vf vf).msixPba = [] ∧ (t.vf vf).part = x.part ∧ ∀ n, n ≠ vf → t.vf n = s.vf n)

/-- The expansion of an accepted launch and the post of its completion (R118, R122, R124): the oldest not expanded completes with the status
of the first check it fails, or takes its units and is expanded, or waits; a completed one that is its queue's oldest is written to the
completion ring, whose tail and phase advance, and leaves the partition's launches. What a broken short form's completion says is the model's reading
(notes/assumptions 25). -/
def Obligations.LaunchesExpandAndComplete : Prop :=
  (∀ (s : State) (p q : Nat) (l : Launch), (s.part p).launches.find? (fun m => m.q == q && !m.expanded) = some l →
    let changed (f : Launch → Launch) : List Launch := (s.part p).launches.map (fun m => if m.q = q ∧ m.accNo = l.accNo then f m else m)
    (∀ st, (l.short = true ∧ st = 6) ∨ (l.short = false ∧ s.launchCheck p l.record false = .error st) →
      exec (.launchExpansion p q) s = .next (s.setPart p { s.part p with
        launches := changed (fun m => { m with expanded := true, status := some st }) })) ∧
    (∀ cls, l.short = false → s.launchCheck p l.record false = .ok cls →
      let n := lrInstances l.record
      ((s.part p).room q l.prio n (n + 1) = false → exec (.launchExpansion p q) s = .next s) ∧
      ((s.part p).room q l.prio n (n + 1) = true → (s.part p).frames.length + (n + 1) ≤ (s.part p).frameUnits →
        ∃ (t : State) (us : List Nat), exec (.launchExpansion p q) s = .next t ∧ us.length = n + 1 ∧ (∀ u ∈ us, u ∉ (s.part p).frames) ∧
          (t.part p).frames = (s.part p).frames ++ us ∧
          (t.part p).launches = changed (fun m => { m with expanded := true, join := BitVec.ofNat 64 ((s.part p).frameVa (us.headD 0)), units := us }) ∧
          t = { s with parts := t.parts, mem := t.mem, journal := t.journal, freeCtr := t.freeCtr }))) ∧
  (∀ (s : State) (vf q p : Nat) (l : Launch) (page : Nat) (seq : Dword) (ctag : Word) (noirq : Bool) (st : Nat),
    s.vfPart vf = some p → (s.part p).launches.find? (fun m => m.q == q && m.fromHost) = some l →
    l.act = .host vf page seq ctag noirq → l.status = some st → (s.vf vf).ringFree ≠ 0 →
    let x := s.vf vf
    let tail := (x.crtail + 1) % 2 ^ x.log2n
    ∃ t : State, exec (.completionPost vf q) s = .next t ∧
      t.mem = s.mem.write (hostPa (x.crbase.toNat + 16 * x.crtail)) (leBytes ctag.toNat 4 ++ leBytes st 2 ++ leBytes q 1 ++
        leBytes (if x.phase then 1 else 0) 1 ++ leBytes seq.toNat 6 ++ leBytes page 1 ++ [0]) ∧
      (t.vf vf).crtail = tail ∧ (t.vf vf).phase = (if tail = 0 then !x.phase else x.phase) ∧
      (noirq = true → (t.vf vf).msgs = x.msgs ∧ (t.vf vf).msixPba = x.msixPba) ∧
      (t.part p).launches = (s.part p).launches.filter (fun m => !(m.q == l.q && m.accNo == l.accNo)) ∧
      t = { s with parts := t.parts, vfs := t.vfs, mem := t.mem })

/-- A pop of an IDLE region (R122, R128, R129, R422, R438, R441, R446): a PERIOD record of its shape class starts with the PC at ENTRY, s1 the frame, s2 the join block,
every other register 0 and full, and the elements keeping all but what a period starts afresh; with no record the region stays. A reserve push that waits goes
into its level where room has come. -/
def Obligations.RegionPops : Prop :=
  (∀ (s : State) (rn : Nat) (r : Region) (qh : Word) (cls : Nat) (Q : Queue), s.region? rn = some r → r.attach = some (qh, cls) → r.state = .idle →
    (s.part r.part).current tblQueue qh.toNat = true → s.isHeld r.part (.image rn) = false →
    (s.part r.part).queues.find (hSlot qh.toNat - 1) = some Q →
    let mine (e : QRec) : Bool := (e.cont.kind == 0 || e.cont.kind == 1) && e.cont.sclass == cls
    let first (e : QRec) : Bool := e.cont.kind == 1
    (Q.pop mine first = none → exec (.regionPop rn) s = .next s) ∧
    (∀ (e : QRec) (lvl : Nat) (Q' : Queue), Q.pop mine first = some (e, lvl, Q') → e.cont.kind = 0 →
      (s.part r.part).current tblGraph e.cont.graph = true →
      ∃ (t : State) (g : Region), exec (.regionPop rn) s = .next t ∧ t.region? rn = some g ∧ g.state = .running ∧ g.run = some e.cont ∧
        g.origq = qh ∧ g.seq = { ((Seq.zero.set 1 e.cont.frame).set 2 e.cont.join) with pc := e.cont.entry, first := true } ∧
        g.code = s.codeOf r.part e.cont ∧ g.cycles = 0 ∧ g.phase = 0 ∧ g.pushIdx = 0 ∧ g.sects = [] ∧ g.version = r.version ∧
        (∀ n, r.covers n = true → t.tile n = { s.tile n with st := 0, preds := 0, treg := 0, ernd := 0, passc := 0, iskip := 0, forked := 0
                                                             doneCls := 0, merged := false }) ∧
        (∀ n, r.covers n = false → t.tile n = s.tile n) ∧ (t.part r.part).queues = (s.part r.part).queues.put (hSlot qh.toNat - 1) Q' ∧
        (∀ n, n ≠ rn → t.region? n = s.region? n))) ∧
  (∀ (s : State) (p q : Nat) (Q : Queue), (s.part p).queues.find q = some Q →
    exec (.reservePushRetry p q) s = .next (s.setPart p { s.part p with
      queues := (s.part p).queues.put q (Q.rsv.foldl Queue.addReserve { Q with rsv := [] }) }) ∧
    ∀ (Q' : Queue) (e : QRec), Q'.rsv = [] → Q'.addReserve e = (if Q'.rsvUsed e.cont.prio < 64
      then { Q' with recs := Q'.recs.set e.cont.prio ((Q'.recs[e.cont.prio]?).getD [] ++ [e]) } else { Q' with rsv := [e] }))

/-! ### Configuration streams (R49-R53, R156, R192, R193, R214) -/

/-- The stream words of an install that has begun (R50-R53): each changes what it names and the place in the stream, and nothing else; an
element write reaches its field, its section and its CRC; the word after ESC goes to window position (15, 15). A CRC check clears CRC_LO,
whether it passes or not. A word the rules refuse ends the install with its status, the window, the index and the offset of the word: the 16-byte
result is written and then the region is CLAIMED, or the result waits for its page and the region stays as it is until it is written; or, for CFG,
its register is filled and nothing is written. END as the last word of a stream that passes the checks of the whole (R51, R156, R193, R214): the
result, with status 0 and the count of words, is written and then the region is READY with the stream's version, or, for CFG, the version is
the region's and the token, status 0 with the count of words, fills its register. The offset in the result of an END
and the index of an element write with no window are the model's (notes/assumptions 24, 42); the element that an END names, and the window where
none is in force, are free values (notes/assumptions 14). -/
def Obligations.StreamWords : Prop :=
  (∀ (s : State) (r : Region) (i : Install), s.region? s.curReg = some r → r.inst = some i → i.ended = false → i.next + 1 < i.count →
    let went (t : State) (i' : Install) : Host.Outcome State Fault Refusal :=
      .next (t.setRegion s.curReg { r with inst := some { i' with next := i.next + 1 } })
    let Ended (o : Host.Outcome State Fault Refusal) (status : Nat) (idx : Byte) (tiles : Tbl Tile) : Prop := ∃ (t : State) (g : Region), o = .next t ∧
      t.region? s.curReg = some g ∧ g.inst = none ∧ g.version = r.version ∧ t.tiles = tiles ∧
      let u := s.trace s.curReg 6 status i.next
      let free := Config.freeWord s.freeCtr
      let result := leBytes status 2 ++ leBytes (match i.win with | some (c, y) => c + 256 * y | none => bits free 5 0 + 256 * bits free 13 8) 2 ++
        [idx] ++ leBytes 0 3 ++ leBytes i.next 4 ++ leBytes i.version.toNat 4
      (i.byCfg = false → g.seq = r.seq ∧
        (∀ m, vwrite u.mem i.xl i.result.toNat result = .ok m → t.mem = m ∧ g.state = .claimed) ∧
        (∀ o f, vwrite u.mem i.xl i.result.toNat result = .error (o, f) → f.kind = .page → g.state = r.state ∧
          (t.part i.xl.part).results = (u.part i.xl.part).results ++
            [{ addr := i.result, xl := i.xl, bytes := result, next := some (s.curReg, .claimed, r.version) }])) ∧
      (i.byCfg = true → t.mem = u.mem ∧ t.parts = u.parts ∧ g.state = r.state ∧
        g.seq = { (r.seq.set i.reg (BitVec.ofNat 64 (status * 2 ^ 48 + i.next))) with cfgReg := none })
    let Rejected (o : Host.Outcome State Fault Refusal) (status : Nat) (idx : Byte) : Prop := Ended o status idx s.tiles
    (∀ v : BitVec 16, i.begun = false → v ≠ 0 → i.byCfg = true → i.full = false → ∃ t : State,
      exec (.cfgBegin v) s = .next (t.setRegion s.curReg
        { r with cfgFrom := some r.cycles, inst := some { i with begun := true, version := v, next := i.next + 1 } }) ∧
      t = { s with tiles := t.tiles } ∧ ∀ n, ∃ c, t.tile n = { s.tile n with crcAcc := c }) ∧
    (∀ v : BitVec 16, i.begun = false → v ≠ 0 → i.byCfg = false → ∃ t : State,
      exec (.cfgBegin v) s = went t { i with begun := true, version := v } ∧ t = { s with tiles := t.tiles } ∧
      (i.full = true → ∀ n, r.covers n = true → t.tile n = Tile.cleared) ∧
      (i.full = false → ∀ n, ∃ c, t.tile n = { s.tile n with crcAcc := c })) ∧
    (∀ v : BitVec 16, i.begun = true ∨ v = 0 → Rejected (exec (.cfgBegin v) s) 1 0xFF) ∧
    (∀ x : Word, Rejected (exec (.badcmd x) s) 1 0xFF) ∧
    (i.begun = true → ∀ v : BitVec 16,
      exec (.cfgNop 0) s = went s i ∧
      (v ≠ 0 → Rejected (exec (.cfgNop v) s) 1 0xFF) ∧
      exec (.cfgHi v) s = went s { i with hi := some v, crcHi := some (BitVec.ofNat 32 (0xFF040000 + v.toNat)) } ∧
      exec (.cfgEsc 0) s = went s { i with esc := true, crcEsc := some 0xFF060000 } ∧
      (i.hi = none → bits v 7 6 = 0 → bits v 15 14 = 0 → 16 * bits v 5 0 < r.width → 16 * bits v 13 8 < r.height →
        exec (.cfgWin v) s = went s { i with win := some (bits v 5 0, bits v 13 8) }) ∧
      (i.hi = none → bits v 15 8 = 0 → exec (.cfgSect v) s = went s { i with section_ := v.toNat }) ∧
      (i.hi = none → i.win.isSome = true →
        (i.byCfg = false ∨ ∀ k n, k < 256 → r.winTile (i.win.getD (0, 0)) k = some n → s.armed r n = false) → ∃ t : State, exec (.cfgZwin 0) s = went t i ∧ t = { s with tiles := t.tiles } ∧
        (∀ k n, k < 256 → r.winTile (i.win.getD (0, 0)) k = some n → s.fusedAt n = false →
          t.tile n = { Tile.cleared with crcAcc := (t.tile n).crcAcc, crcLo := (t.tile n).crcLo }) ∧
        (∀ n, (∀ k, k < 256 → r.winTile (i.win.getD (0, 0)) k ≠ some n) → t.tile n = s.tile n))) ∧
    (∀ (idx fld : Byte) (v : BitVec 16) (win : Nat × Nat) (n : Nat), i.begun = true → i.win = some win →
      r.winTile win (if i.esc then 0xFF else idx).toNat = some n → s.lostAt n = false →
      (s.fusedAt n = false ∨ fld = 0xF1 ∨ (0xC8 ≤ fld.toNat ∧ fld.toNat ≤ 0xEF)) → (i.byCfg = false ∨ s.armed r n = false) →
      (∀ tl, s.fieldWrite r i n fld.toNat v = .ok tl → ∃ t : State,
        exec (.cfgElementWrite idx fld v) s = went t { i with hi := none, esc := false, crcHi := none, crcEsc := none, touched := touchAfter i.touched n fld.toNat } ∧
        t = { s with tiles := t.tiles } ∧ (∀ k, k ≠ n → t.tile k = s.tile k) ∧
        t.tile n = { tl with crcAcc := (t.tile n).crcAcc, sect := if fld = 0xF1 ∨ s.fusedAt n = true then tl.sect else some i.section_ } ∧
        (fld.toNat < 0xC8 → (t.tile n).crcAcc = crcRun castagnoli tl.crcAcc
          ((i.crcHi.toList ++ i.crcEsc.toList ++ [idx ++ fld ++ v]).flatMap (fun y => leBytes y.toNat 4)))) ∧
      (∀ c, c ≠ 0 → c ≠ 4 → s.fieldWrite r i n fld.toNat v = .error c → Rejected (exec (.cfgElementWrite idx fld v) s) c (if i.esc then 0xFF else idx)) ∧
      (s.fieldWrite r i n fld.toNat v = .error 4 →
        Ended (exec (.cfgElementWrite idx fld v) s) 4 (if i.esc then 0xFF else idx) (s.setTile n { ((s.tile n).setFld 0xF3 0) with crcLo := 0, crcAcc := 0xFFFFFFFF }).tiles)) ∧
    (∀ (idx fld : Byte) (v : BitVec 16), i.begun = false ∨ i.win = none → Rejected (exec (.cfgElementWrite idx fld v) s) 1 0xFF)) ∧
  (∀ (s : State) (r : Region) (i : Install), s.region? s.curReg = some r → r.inst = some i → i.ended = false → i.begun = true → i.hi = none →
    i.next + 1 = i.count → s.endFault r i.touched = none →
    let u := (s.markLoops r).trace s.curReg 6 0 i.count
    let free := Config.freeWord s.freeCtr
    let result := leBytes 0 2 ++ leBytes (bits free 5 0 + 256 * bits free 13 8) 2 ++ [BitVec.ofNat 8 (bits free 23 16)] ++ leBytes 0 3 ++
      leBytes i.count 4 ++ leBytes i.version.toNat 4
    ∃ (t : State) (g : Region), exec (.cfgEnd 0) s = .next t ∧ t.region? s.curReg = some g ∧ g.inst = none ∧
      (∀ n, ∃ l, t.tile n = { s.tile n with loopIn := l }) ∧
      (i.byCfg = false → g.seq = r.seq ∧
        (∀ m, vwrite u.mem i.xl i.result.toNat result = .ok m → t.mem = m ∧ g.state = .ready ∧ g.version = i.version) ∧
        (∀ o f, vwrite u.mem i.xl i.result.toNat result = .error (o, f) → f.kind = .page → g.state = r.state ∧ g.version = r.version ∧
          (t.part i.xl.part).results = (u.part i.xl.part).results ++
            [{ addr := i.result, xl := i.xl, bytes := result, next := some (s.curReg, .ready, i.version) }])) ∧
      (i.byCfg = true → g.version = i.version ∧ g.state = r.state ∧ g.seq = { (r.seq.set i.reg (BitVec.ofNat 64 i.count)) with cfgReg := none }))

/-! ### Compute tiles and memory tiles (R238-R254, R308-R311, R323, R353-R361, R378) -/

/-- A cycle of a CT's fire slot (R245-R250, R252, R323): the lowest-numbered rule whose guard holds, that reads no file entry still being
written (or whose policy makes such a read a trap), fires. Its heads leave, its firing starts with the element as it stood, the entries it
writes turn empty and its predicate turns pending; heads of two kinds trap KMIX. With no such rule nothing changes. -/
def Obligations.CtRuleFires : Prop :=
  ∀ (s : State) (tile rn : Nat) (r : Region), s.liveRegion tile = some (rn, r) → s.region? rn = some r → isCt tile = true →
    let t := s.tile tile
    let a (i : Nat) : Word := t.fld (0x10 + i)
    let g (i : Nat) : Word := t.fld i
    let recipe (i : Nat) : List Word := (List.range 6).map (fun k => t.fld (0x30 + 6 * (bits (a i) 3 0) + k))
    let beats (i : Nat) : Nat := beatsOf (recipe i)
    let May : Prop := t.enabled = true ∧ t.trap = none ∧ t.merged = false ∧ t.mergedNow true = false ∧ t.forked.getLsbD 0 = true ∧ t.passc ≠ 0 ∧
      (∀ f ∈ t.flights, f.passes ≤ f.age) ∧ (r.state = .draining → t.mainIns true ≠ [])
    let Needs (i c : Nat) : Prop := bit (g i) (28 + c) = true ∨ (c ≤ 1 ∧ bit (t.fld 0xB0) 29 = true ∧ bit (a i) (4 + c) = true)
    let Holds (i : Nat) : Prop := bit (a i) 31 = true ∧ t.st.toNat &&& bits (g i) 11 6 = bits (g i) 5 0 &&& bits (g i) 11 6 ∧
      (∀ k < 8, bit (g i) (12 + k) = true → k ∉ t.pend ∧ (t.predWord true).testBit k = bit (g i) (20 + k)) ∧
      (∀ c < 4, Needs i c → t.ready true c = true ∧
        (beats i ≠ 1 → beats i ≤ (t.fifo c).length ∧ ∀ x ∈ (t.fifo c).take (beats i), x.kind = 0)) ∧
      (∀ o < 4, bit (a i) (8 + o) = true → beats i ≤ t.credits o) ∧
      (recGlow (recipe i) = true →
        t.glow.length + 16 * (t.flights.filter (fun f => recGlow f.stages && decide (f.age ≤ 5))).length + 16 ≤ 64)
    let pending (i : Nat) : Nat := readsOf (t.fld (0x20 + i)) (a i) (recipe i) &&& t.empty.toNat
    let policy : Nat := (t.fld 0xBB).toNat
    let Passed (j : Nat) : Prop := ¬ Holds j ∨ (pending j ≠ 0 ∧ pending j &&& policy = 0)
    let step := exec (.ctRuleFire tile) s
    (¬ May → step = .next s) ∧
    (May → (∀ j < 16, Passed j) → step = .next s) ∧
    (May → ∀ i < 16, Holds i → (∀ j < i, Passed j) →
      (pending i &&& policy ≠ 0 → step = .next (s.elemTrap tile fEEMPTY i 0 0 t.headKinds t.headTags)) ∧
      (pending i = 0 → ∀ c d b e, (c, b) ∈ t.deqHeads (a i) → (d, e) ∈ t.deqHeads (a i) → b.kind ≠ e.kind →
        step = .next (s.elemTrap tile fKMIX i 0 0 t.headKinds t.headTags)) ∧
      (pending i = 0 → ∀ kind, (∀ x ∈ t.deqHeads (a i), x.2.kind.toNat = kind) → (t.deqHeads (a i) = [] → kind = 0) →
        ∃ z : State, step = .next z ∧ z = { s with tiles := z.tiles, regions := z.regions } ∧
          z.region? rn = some { r with firings := r.firings + 1 } ∧ (∀ n, n ≠ rn → z.region? n = s.region? n) ∧
          (∀ n, n ≠ tile → z.tile n = s.tile n) ∧
          (let u := z.tile tile
           u = { t with flights := t.flights ++ [t.flight i kind], deqs := u.deqs, pend := u.pend, empty := u.empty } ∧
           (∀ c < 4, t.deqs.length = 4 → nth u.deqs c 0 =
             nth t.deqs c 0 + (if (t.deqHeads (a i)).any (fun x => x.1 == c) then (if (t.readySet true i).contains c then beats i else 1) else 0)) ∧
           u.pend = (match recPred (recipe i) with | some n => n :: t.pend | none => t.pend) ∧
           (∀ e < 8, u.empty.getLsbD e = (t.empty.getLsbD e || decide (kind ≠ 1) && (actDwr (a i) + pairBits (a i)).testBit e)))))

/-- What a firing takes at its fire cycle (R249, R252, R253): the recipe, immediates, map and action words of its rule; the element's data and
directional files; the heads, b beats of a channel in READY and else the head that stands there for every pass; and the round. Of a header
only lane 0 is read (R106). Then what a stage word of it does on a pass (R259-R275, R278-R283, R297-R306, R319-R321): the lanes it writes and the others
kept, the flags of the active lanes, the predicate, lane mask, tag register and the TAGOVF trap; sums, products and their one rounding (R84, R101).
Last, how a data firing of one beat that stands alone in its element moves and renormalises nothing (R251, R269, R315): one stage in each of six cycles, its effects at the end of
that cycle, and in the seventh its beats on the outputs in ENQ and its data-file entries, which turn full. Choices of the
model that this rests on: notes/assumptions 19 to 22. -/
def Obligations.CtFiringCaptures : Prop :=
  (∀ (t : Tile) (i kind : Nat),
    let f := t.flight i kind
    let a := t.fld (0x10 + i)
    f.rule = i ∧ f.age = 0 ∧ f.kind = kind ∧ f.action = a ∧ f.map = t.fld (0x20 + i) ∧ f.rnd = t.ernd ∧ f.trap = none ∧
    (∀ k < 6, nth f.stages k 0 = t.fld (0x30 + 6 * bits a 3 0 + k)) ∧ (∀ k < 2, nth f.imm k 0 = t.fld (0x90 + 2 * bits a 3 0 + k)) ∧
    f.dvals = t.d ∧ f.hvals = t.h ∧ f.dims = t.dim ∧ f.nvals = t.n ∧ f.latches = t.latch ∧ f.beats = beatsOf f.stages ∧
    (∀ c < 4, ∀ k < f.beats, nth (nth f.heads c []) k none = if (t.readySet true i).contains c then (t.fifo c)[k]?.map Beat.seen else t.head c) ∧
    (∀ b : Beat, b.kind = 1 → b.seen.tag = b.tag ∧ b.seen.rnd = b.rnd ∧ b.seen.valid = b.valid &&& 1 ∧ lane b.seen.lanes 0 = lane b.lanes 0 ∧
      ∀ l, 1 ≤ l → l < 16 → lane b.seen.lanes l = 0) ∧
    f.slots.length = f.passes ∧ f.valids.length = f.passes ∧
    (∀ k < f.passes, (nth f.slots k []).length = 4 ∧ (nth f.valids k []).length = 4) ∧
    (∀ k < f.passes, ∀ j < 4,
      let code := bits f.map (4 * j + 3) (4 * j)
      let slot := nth (nth f.slots k []) j []
      (1 ≤ code → code ≤ 4 → ∀ b, f.head (code - 1) k = some b → slot = b.lanes ∧ nth (nth f.valids k []) j 0 = b.valid) ∧
      (5 ≤ code → code ≤ 8 → slot = nth t.d (code - 5) []) ∧
      (∀ l < 16, (code = 9 → lane slot l = w l) ∧ (code = 10 ∨ code = 11 → lane slot l = nth f.imm (code - 10) 0) ∧
        (12 ≤ code → ∀ b, f.head (code - 12) k = some b → lane slot l = b.tag) ∧ (code = 0 → lane slot l = 0)))) ∧
  (∀ (f : Flight) (t : Tile) (k st : Nat) (x : Word), k < f.slots.length → f.valids.length = f.slots.length → (nth f.slots k []).length = 4 →
    (nth f.valids k []).length = 4 →
    let o := bits x 31 24
    let dst := bits x 23 22
    let m := bits x 3 0
    let A := f.opnd k st (bits x 21 17)
    let B := f.opnd k st (bits x 16 12)
    let C := f.opnd k st (bits x 11 7)
    let a (l : Nat) : Word := lane A.1 l
    let b (l : Nat) : Word := lane B.1 l
    let c (l : Nat) : Word := lane C.1 l
    let msk := bits x 6 4
    let act (l : Nat) : Bool := decide (l < 16) && (if msk ≤ 3 then (nth t.kmask msk 0).getLsbD l else if msk = 5 then t.preds.getLsbD 0 else true) &&
      (!(opReads o m).testBit 0 || A.2.getLsbD l) && (!(opReads o m).testBit 1 || B.2.getLsbD l) && (!(opReads o m).testBit 2 || C.2.getLsbD l)
    let Low (l : Nat) : Prop := act l = true ∧ ∀ j < l, act j = false
    let ls : List Nat := (List.range 16).filter act
    let src (v : Nat → Word) (j : Nat) : Word := if act j then v j else 0
    let z := f.stage t k st x
    let Wrote (on : Nat → Bool) (v : Nat → Word) : Prop :=
      z.1.slots.length = f.slots.length ∧ z.1.valids.length = f.valids.length ∧
      (∀ j, j ≠ k → nth z.1.slots j [] = nth f.slots j [] ∧ nth z.1.valids j [] = nth f.valids j []) ∧
      (∀ i, i ≠ dst → nth (nth z.1.slots k []) i [] = nth (nth f.slots k []) i [] ∧ nth (nth z.1.valids k []) i 0 = nth (nth f.valids k []) i 0) ∧
      ∀ l < 16, lane (nth (nth z.1.slots k []) dst []) l = (if on l then v l else lane (nth (nth f.slots k []) dst []) l) ∧
        (nth (nth z.1.valids k []) dst 0).getLsbD l = (on l || (nth (nth f.valids k []) dst 0).getLsbD l)
    let Lanes (v : Nat → Word) : Prop := Wrote act v ∧ z.1 = { f with slots := z.1.slots, valids := z.1.valids }
    let Quiet : Prop := z.2 = StageOut.of 0
    let lo : Int := -(2 ^ 31)
    let hi : Int := 2 ^ 31 - 1
    let by8 (s : Bool) (y : Word) (i : Nat) : Int := if s then snat 8 (bits y (8 * i + 7) (8 * i)) else (bits y (8 * i + 7) (8 * i) : Nat)
    let dot (s u : Bool) (p q : Word) : Int := by8 s p 0 * by8 u q 0 + by8 s p 1 * by8 u q 1 + by8 s p 2 * by8 u q 2 + by8 s p 3 * by8 u q 3
    let sh (y : Word) (i : Nat) : BitVec 16 := w (bits y (16 * i + 15) (16 * i))
    let plain : List (Nat × (Word → Word → Word → Word)) := [
      (0x01, fun p _ _ => p), (0x08, fun p q _ => p &&& q), (0x09, fun p q _ => p ||| q), (0x0A, fun p q _ => p ^^^ q),
      (0x0B, fun p q _ => p &&& ~~~q), (0x0C, fun p _ _ => ~~~p), (0x0D, fun p q r => (p &&& r) ||| (q &&& ~~~r)),
      (0x10, fun p q _ => if 32 ≤ q.toNat then 0 else p <<< q.toNat), (0x11, fun p q _ => if 32 ≤ q.toNat then 0 else p >>> q.toNat),
      (0x12, fun p q _ => p.sshiftRight (min 32 q.toNat)), (0x13, fun p q _ => p.rotateLeft (q.toNat % 32)),
      (0x18, fun p _ _ => w ((List.range 32).filter (fun i => bit p i)).length),
      (0x20, fun p q _ => if p = q then 1 else 0), (0x21, fun p q _ => if p = q then 0 else 1), (0x22, fun p q _ => if p.toInt < q.toInt then 1 else 0),
      (0x23, fun p q _ => if p.toInt ≤ q.toInt then 1 else 0), (0x24, fun p q _ => if p.toNat < q.toNat then 1 else 0),
      (0x25, fun p q _ => if p.toNat ≤ q.toNat then 1 else 0), (0x26, fun p q r => if r = 0 then q else p),
      (0x27, fun p q _ => if q.toInt < p.toInt then q else p), (0x28, fun p q _ => if p.toInt < q.toInt then q else p),
      (0x29, fun p q _ => if q.toNat < p.toNat then q else p), (0x2A, fun p q _ => if p.toNat < q.toNat then q else p),
      (0x31, fun p q _ => BitVec.ofInt 32 (p.toInt * q.toInt / 2 ^ 32)), (0x32, fun p q _ => w (p.toNat * q.toNat / 2 ^ 32)),
      (0x38, fun p _ _ => BitVec.ofInt 32 (by8 true p 0)), (0x39, fun p _ _ => (sh p 0).signExtend 32), (0x3A, fun p _ _ => p &&& 0xFF),
      (0x3B, fun p _ _ => p &&& 0xFFFF), (0x3C, fun p q _ => sh q 0 ++ sh p 0)]
    let exact : List (Nat × (Word → Word → Word → Int)) := [
      (0x02, fun p q _ => p.toInt + q.toInt), (0x03, fun p q _ => p.toInt - q.toInt), (0x06, fun p _ _ => -p.toInt), (0x07, fun p _ _ => p.toInt.natAbs),
      (0x30, fun p q _ => p.toInt * q.toInt), (0x33, fun p q r => p.toInt * q.toInt + r.toInt), (0x34, fun p q r => dot true true p q + r.toInt),
      (0x36, fun p q r => dot true false p q + r.toInt), (0x37, fun p q r => (sh p 0).toInt * (sh q 0).toInt + (sh p 1).toInt * (sh q 1).toInt + r.toInt)]
    let inHalves : List (Nat × (BitVec 16 → BitVec 16 → BitVec 16)) := [
      (0x02, fun p q => p + q), (0x03, fun p q => p - q), (0x06, fun p _ => -p), (0x07, fun p _ => if p.toInt < 0 then -p else p),
      (0x27, fun p q => if q.toInt < p.toInt then q else p), (0x28, fun p q => if p.toInt < q.toInt then q else p),
      (0x29, fun p q => if q.toNat < p.toNat then q else p), (0x2A, fun p q => if p.toNat < q.toNat then q else p)]
    let Sat (e : Nat → Int) (l0 h0 : Int) : Prop := Lanes (fun l => BitVec.ofInt 32 (max l0 (min h0 (e l)))) ∧
      ((∃ l, act l = true ∧ (e l < l0 ∨ h0 < e l)) → z.2 = StageOut.of flSAT) ∧ ((∀ l, act l = true → l0 ≤ e l ∧ e l ≤ h0) → Quiet)
    let Flt (g : Nat → Nat × Flags) (nf : Nat → Bool) : Prop := Lanes (fun l => w (g l).1) ∧ z.2 = StageOut.of z.2.flags ∧
      ∀ i < 6, z.2.flags.getLsbD i =
        ((List.range 16).any (fun l => act l && (g l).2.getLsbD i) || (i == 5 && (List.range 16).any (fun l => !act l && nf l)))
    let wild (v : Nat → Word) (l : Nat) : Bool := (fv (v l)).nonFinite
    let cw : Word := if st = 1 then t.fld (0xB0 + m % 4) else t.fld (0xB4 + m % 4)
    let wide (F : Nat) : Nat := bits cw (6 * F + 5) (6 * F)
    let F := m / 4
    let at_ : Nat := (if F < 1 then wide 1 else 0) + (if F < 2 then wide 2 else 0) + (if F < 3 then wide 3 else 0)
    let fld (v : Word) : Nat := v.toNat / 2 ^ at_ % 2 ^ wide F
    let sel := ls.filter (fun l => b l != 0)
    (∀ p ∈ plain, o = p.1 → m = 0 → Lanes (fun l => p.2 (a l) (b l) (c l)) ∧ Quiet) ∧
    (∀ p ∈ exact, o = p.1 → (m = 0 → Lanes (fun l => BitVec.ofInt 32 (p.2 (a l) (b l) (c l))) ∧ Quiet) ∧ (m = 4 → Sat (fun l => p.2 (a l) (b l) (c l)) lo hi)) ∧
    (∀ p ∈ inHalves, o = p.1 → m = 8 → Lanes (fun l => p.2 (sh (a l) 1) (sh (b l) 1) ++ p.2 (sh (a l) 0) (sh (b l) 0)) ∧ Quiet) ∧
    (o = 0x04 → m = 0 → Sat (fun l => (a l).toNat + (b l).toNat) 0 (2 ^ 32 - 1)) ∧
    (o = 0x05 → m = 0 → Sat (fun l => ((a l).toNat : Int) - (b l).toNat) 0 (2 ^ 32 - 1)) ∧
    (o = 0x35 → m = 4 → Sat (fun l => dot false false (a l) (b l) + (c l).toNat) 0 (2 ^ 32 - 1)) ∧
    (o = 0x15 → m = 0 → ∃ v, Lanes v ∧ Quiet ∧ ∀ l < 16, ∀ i < 32, (v l).getLsbD i =
      (let p := bits (b l) 4 0; if p ≤ i ∧ i < p + min 32 (bits (b l) 10 5) then (a l).getLsbD (i - p) else (c l).getLsbD i)) ∧
    (o = 0x19 → m = 0 → ∃ v, Lanes v ∧ Quiet ∧ ∀ l < 16, ∀ i < 32, (v l).getLsbD i = (a l).getLsbD (31 - i)) ∧
    (m < 4 →
      (o = 0x40 → Flt (fun l => b32.add m (a l).toNat (b l).toNat) (fun l => wild a l || wild b l)) ∧
      (o = 0x41 → Flt (fun l => b32.sub m (a l).toNat (b l).toNat) (fun l => wild a l || wild b l)) ∧
      (o = 0x42 → Flt (fun l => b32.mul m (a l).toNat (b l).toNat) (fun l => wild a l || wild b l)) ∧
      (o = 0x43 → Flt (fun l => b32.fma m (a l).toNat (b l).toNat (c l).toNat) (fun l => wild a l || wild b l || wild c l)) ∧
      (o = 0x45 → Flt (fun l => b32.fnma m (a l).toNat (b l).toNat (c l).toNat) (fun l => wild a l || wild b l || wild c l)) ∧
      (o = 0x68 → Flt (fun l => b32.ofInt m (a l).toInt) (fun _ => false))) ∧
    (m = 0 → (∀ l, act l = true → (fv (a l)).isNan = false) →
      (o = 0x4C → Lanes (fun l => a l &&& 0x7FFFFFFF)) ∧ (o = 0x4D → Lanes (fun l => a l ^^^ 0x80000000)) ∧
      ((∀ l, act l = true → (fv (b l)).isNan = false) →
        (o = 0x50 → Lanes (fun l => if a l = b l ∨ ((fv (a l)).isZero && (fv (b l)).isZero) = true then 1 else 0)) ∧
        (o = 0x51 → Lanes (fun l => if ((fv (a l)).isZero && (fv (b l)).isZero) = false ∧ b32.key (a l).toNat < b32.key (b l).toNat then 1 else 0)))) ∧
    (m = 0 →
      (o = 0xA0 → Lanes (fun l => src a (bits (b l) 3 0)) ∧ Quiet) ∧
      (∀ low, Low low → (o = 0xA1 → Lanes (fun _ => a low) ∧ Quiet) ∧ (o = 0xA2 → Lanes (fun l => src a ((l + 16 - bits (b low) 3 0) % 16)) ∧ Quiet) ∧
        (o = 0xA3 → Lanes (fun l => let n := min (bits (b low) 4 0) 16; if l + n ≤ 15 then src a (l + n) else src c (l + n - 16)) ∧ Quiet)) ∧
      (o = 0xA4 → Lanes (fun l => BitVec.ofInt 32 (((ls.filter (fun j => decide (j ≤ l))).map (fun j => (a j).toInt)).sum)) ∧ Quiet) ∧
      (o = 0xA6 → Lanes (fun _ => BitVec.ofInt 32 ((ls.map (fun j => (a j).toInt)).sum)) ∧ Quiet) ∧
      (∀ r : Bool, o = (if r then 0xA9 else 0xA8) → ∃ v : Word, Lanes (fun _ => v) ∧ Quiet ∧
        ∀ l ∈ ls, (∃ j ∈ ls, v = a j) ∧ (if r then (a l).toInt ≤ v.toInt else v.toInt ≤ (a l).toInt)) ∧
      (∀ r : Bool, o = (if r then 0xB3 else 0xAC) → ∃ v : Word, Lanes (fun _ => v) ∧ Quiet ∧
        ∀ i < 32, v.getLsbD i = if r then ls.all (fun l => (a l).getLsbD i) else ls.any (fun l => (a l).getLsbD i)) ∧
      (o = 0xAD → Wrote (fun _ => true) (fun l => match sel[l]? with | some j => a j | none => 0) ∧ Quiet ∧ z.1.vmasks = f.vmasks) ∧
      (o = 0xAE → Lanes (fun l => if b l ≠ 0 then src a (sel.filter (fun j => decide (j < l))).length else c l) ∧ Quiet) ∧
      (o = 0xB0 → Lanes (fun l => match ls.find? (fun j => b j == a l) with | some j => w j | none => 0xFFFFFFFF) ∧ Quiet) ∧
      (o = 0xB1 → Lanes (fun _ => w (ls.filter (fun l => a l != 0)).length) ∧ Quiet) ∧
      (o = 0xB2 → Lanes (fun _ => w ((ls.filter (fun l => a l != 0)).headD 16)) ∧ Quiet)) ∧
    (o = 0xAD → m = 8 → z.1.vmasks = f.vmasks.set k (some (w (2 ^ sel.length - 1)))) ∧
    (m < 4 →
      (0xD0 ≤ o → o ≤ 0xD2 → ∃ v : Bool, z = (f, { StageOut.of 0 with pred := some (m, v) }) ∧ (o = 0xD0 → (v = true ↔ ∃ l, Low l ∧ a l ≠ 0)) ∧
        (o = 0xD1 → (v = true ↔ ∃ l, act l = true ∧ a l ≠ 0)) ∧ (o = 0xD2 → (v = true ↔ ∀ l, act l = true → a l ≠ 0))) ∧
      (0xD3 ≤ o → o ≤ 0xD6 → ∃ v : BitVec 16, z = (f, { StageOut.of 0 with kmask := some (m, v) }) ∧ ∀ l < 16,
        let old := (nth t.kmask m 0).getLsbD l
        let on := act l && a l != 0
        v.getLsbD l = if o = 0xD3 then on else if o = 0xD4 then old && on else if o = 0xD5 then old || on else old && !on) ∧
      (o = 0xDD → Lanes (fun _ => match f.head m 0 with | some h => h.rnd.setWidth 32 | none => 0) ∧ Quiet)) ∧
    (o = 0xDC → m = 0 → (∀ l, Low l → z = (f, { StageOut.of 0 with treg := some (a l) })) ∧ (ls = [] → z = (f, StageOut.of 0))) ∧
    (o = 0xCD → m = 0 → z.1 = f ∧ z.2.glow = ls.map (fun l => { handle := a l, slot := b l, weight := c l })) ∧
    (o = 0xD8 → Lanes (fun l => w (fld (a l))) ∧ Quiet) ∧
    (o = 0xDB → Lanes (fun l => if fld (a l) < fld (b l) then 0xFFFFFFFF else if fld (a l) = fld (b l) then 0 else 1) ∧ Quiet) ∧
    (let new (l : Nat) : Nat := if o = 0xD9 then (b l).toNat else fld (a l) + (b l).toNat
     let fits (l : Nat) : Prop := new l < 2 ^ wide F
     o = 0xD9 ∨ o = 0xDA → at_ + wide F ≤ 32 →
       ((∀ l, act l = true → fits l) → Quiet ∧ ∃ v, Lanes v ∧ ∀ l, act l = true → fld (v l) = new l ∧ (v l).toNat / 2 ^ (at_ + wide F) = (a l).toNat / 2 ^ (at_ + wide F) ∧
         (wide F ≠ 0 → (v l).toNat % 2 ^ at_ = if o = 0xD9 then (a l).toNat % 2 ^ at_ else 0)) ∧
       (∀ l, act l = true → ¬ fits l → (∀ j < l, act j = true → fits j) → z = ({ f with trap := some (fTAGOVF, st, l) }, StageOut.of 0))) ∧
    (let e (s : Nat) : DirEnt := f.ent s
     let la (s : Nat) : Half := if 32 < (e s).dim then 0x8001 else (e s).n
     let sa := bits x 21 17
     let sb := bits x 16 12
     m = 0 →
       (o = 0xC9 → sa = 22 ∨ sa = 23 → f.renorm = false →
         (la sa = 0x8000 → Lanes (fun _ => 0) ∧ Quiet) ∧
         (la sa ≠ 0x8000 → la sa ≠ 0x8001 → Lanes (fun l => nth (e sa).c (32 * k + 2 * l + 1) 0 ++ nth (e sa).c (32 * k + 2 * l) 0) ∧ Quiet)) ∧
       (o = 0xC7 → f.renorm = false → k = 0 → z.1 = { f with pair := some (if la sa = 0x8000 ∨ la sa = 0x8001 then zeroDir else (e sa).c, (e sa).dim, la sa) } ∧
         z.2 = StageOut.of (if la sa = 0x8001 then flINV else 0)) ∧
       (o = 0xC2 → sb = 22 ∨ sb = 23 → f.renorm = false → f.beats = 1 → k = 0 →
         let P : Int := f.dot + ((List.range 32).map (fun j => (nth (e sa).c j 0).toInt * (nth (e sb).c j 0).toInt)).sum
         let q := max (-(2 ^ 28)) (min (2 ^ 28) P)
         let Out (v : Word) (fl : Flags) : Prop := z.2 = StageOut.of fl ∧ Wrote (fun _ => true) (fun _ => v)
         (la sa = 0x8001 ∨ la sb = 0x8001 → Out 0x7FC00000 flINV) ∧
         (la sa ≠ 0x8001 → la sb ≠ 0x8001 → la sa = 0x8000 ∨ la sb = 0x8000 ∨ P = 0 → Out 0 0) ∧
         (la sa ≠ 0x8001 → la sb ≠ 0x8001 → la sa ≠ 0x8000 → la sb ≠ 0x8000 → P ≠ 0 →
           let r := b32.round 0 false (decide (q < 0)) q.natAbs (-28) false
           Out (w r.1) r.2)))) ∧
  (∀ (rm p q r : Nat), rm < 4 →
    (b32.val p).isNan = true ∨ (b32.val q).isNan = true → (b32.add rm p q).1 = 0x7FC00000 ∧ (b32.mul rm p q).1 = 0x7FC00000 ∧ (b32.fma rm p q r).1 = 0x7FC00000) ∧
  (∀ (rm p q r : Nat) (sp sq sr : Bool) (mp mq mr : Nat) (ep eq er : Int), rm < 4 → b32.val p = .fin sp mp ep → b32.val q = .fin sq mq eq → b32.val r = .fin sr mr er →
    let by_ (s : Bool) (n : Nat) : Int := if s then -(n : Int) else n
    let S : Int := by_ sp (mp * 2 ^ (ep - min ep eq).toNat) + by_ sq (mq * 2 ^ (eq - min ep eq).toNat)
    let D : Int := by_ sp (mp * 2 ^ (ep - min ep eq).toNat) - by_ sq (mq * 2 ^ (eq - min ep eq).toNat)
    let g := min (ep + eq) er
    let M : Int := by_ (sp != sq) (mp * mq * 2 ^ (ep + eq - g).toNat) + by_ sr (mr * 2 ^ (er - g).toNat)
    (S ≠ 0 → b32.add rm p q = b32.round rm false (decide (S < 0)) S.natAbs (min ep eq) false) ∧
    (D ≠ 0 → b32.sub rm p q = b32.round rm false (decide (D < 0)) D.natAbs (min ep eq) false) ∧
    (mp * mq ≠ 0 → b32.mul rm p q = b32.round rm false (sp != sq) (mp * mq) (ep + eq) false) ∧
    (M ≠ 0 → b32.fma rm p q r = b32.round rm false (decide (M < 0)) M.natAbs g false) ∧
    (mp ≠ 0 → mq ≠ 0 → S = 0 → b32.add rm p q = (if rm = 2 then 0x80000000 else 0, 0))) ∧
  (∀ (rm m : Nat) (neg : Bool) (e : Int), rm < 4 → m ≠ 0 → -126 ≤ (Nat.log2 m : Int) + e → (Nat.log2 m : Int) + e ≤ 126 →
    let top := (Nat.log2 m : Int) + e
    let q := top - 23
    let d := 2 ^ (q - e).toNat
    let n := m * 2 ^ (e - q).toNat / d
    let rem := m * 2 ^ (e - q).toNat % d
    let up : Bool := rem != 0 && (match rm with
      | 0 => decide (d < 2 * rem) || (2 * rem == d && n % 2 == 1)
      | 1 => false
      | 2 => neg
      | _ => !neg)
    b32.round rm false neg m e false = ((if neg then 2 ^ 31 else 0) + (top + 126).toNat * 2 ^ 23 + n + (if up then 1 else 0), if rem = 0 then 0 else flINX)) ∧
  (∀ (t : Tile) (f : Flight), t.flights = [f] → f.trap = none → f.beats = 1 → f.renorm = false → f.kind = 0 → (∀ y ∈ f.stages, isRenorm (stOpc y) = false) → t.outF.length = 4 →
    let c := t.ctCycle
    let u := c.1
    let x := nth f.stages f.age 0
    let r := if x = 0 then (f.look t, StageOut.of 0) else (f.look t).stage t 0 (f.age + 1) x
    let settled : Prop := u.deqs = [0, 0, 0, 0] ∧ u.arr = [[], [], [], []] ∧ u.gone = [0, 0, 0, 0] ∧
      ∀ i < 4, nth u.inF i [] = (nth t.inF i []).drop (nth t.deqs i 0) ++ nth t.arr i []
    settled ∧
    (f.look t).slots = f.slots ∧ (f.age < 6 → (f.look t).seen = f.seen ++ [(w (t.predWord true), w t.st.toNat)]) ∧
    (f.age ≤ 5 → u.flights = [{ r.1 with age := f.age + 1 }] ∧ u.status = t.status ||| r.2.flags ∧ u.d = t.d ∧ u.h = t.h ∧ u.outF = t.outF ∧
      u.st = (if f.age = 0 then w (bits f.action 17 12) else t.st) ∧ c.2.2 = (decide (f.age = 0) && bit f.action 17) ∧
      (r.1.trap = none → c.2.1 = [] ∧ u.empty = t.empty ∧ u.glow = t.glow ++ r.2.glow ∧ (u.treg = match r.2.treg with | some v => v | none => t.treg) ∧
        (u.kmask = match r.2.kmask with | some (n, v) => t.kmask.set n v | none => t.kmask) ∧
        ∀ i < 4, u.preds.getLsbD i = match r.2.pred with | some (n, v) => if i = n then v else t.preds.getLsbD i | none => t.preds.getLsbD i) ∧
      (∀ y, r.1.trap = some y → c.2.1 = [(r.1, y)] ∧ u.preds = t.preds ∧ u.kmask = t.kmask ∧ u.treg = t.treg ∧ u.glow = t.glow)) ∧
    (f.age = 6 → c.2.1 = [] ∧ c.2.2 = false ∧ u.flights = [] ∧ u.status = t.status ∧ u.preds = t.preds ∧ u.st = t.st ∧
      (∀ i < 4, nth u.outF i [] = nth t.outF i [] ++
        (if bit f.action (8 + i) then [dataBeat f.rnd (f.tag t.treg 0) (f.validOf 0).toNat (nth (nth f.slots 0 []) (bits f.map (17 + 2 * i) (16 + 2 * i)) [])] else [])) ∧
      (∀ j < 4, nth u.d j [] = if bit f.action (21 + j) then nth (nth f.slots 0 []) (bits f.map (25 + 2 * j) (24 + 2 * j)) [] else nth t.d j []) ∧
      (∀ e < 8, u.empty.getLsbD e = (t.empty.getLsbD e && !(bits f.action 24 21 + pairBits f.action).testBit e)) ∧
      (pairBits f.action = 0 → u.h = t.h ∧ u.n = t.n ∧ u.dim = t.dim)))

/-- A cycle of an MT's fire slot and of its stream slot (R353, R356, R360, R378): the lowest-numbered rule that holds fires, but one that a
MACC holds at its fire keeps the slot (R386; a RELN of an in-place period commits before and is not meant here); heads of two
kinds trap KMIX, a bad header DECODE; a header or punctuation beat goes to every output in ENQ three cycles on, a header setting the
latches; a data firing performs its operation, or traps as the operation says. A stream firing leaves S and the passes. -/
def Obligations.MtRulesFire : Prop :=
  ∀ (s : State) (tile rn : Nat) (r : Region), s.liveRegion tile = some (rn, r) → s.region? rn = some r → isCt tile = false →
    let t := s.tile tile
    let Idle : Prop := t.enabled = true ∧ t.trap = none ∧ t.merged = false ∧ t.mergedNow false = false ∧
      (r.state = .draining → t.mainIns false ≠ [])
    let a (i : Nat) : Word := t.fld (0x10 + i)
    let trapped (i c : Nat) (z : State) : State := z.elemTrap tile c i 0 0 t.headKinds t.headTags
    let counted (x : Tile) : State := (s.setTile tile x).setRegion rn { r with firings := r.firings + 1 }
    let sent (x : Tile) (i : Nat) (b : Beat) : Tile :=
      { x with owed := x.owed ++ ((List.range 4).filter (fun o => bit (a i) (8 + o))).map (fun o =>
          { out := o, op := t.opNo, due := 3, n := 1, after := false, beats := some [b] }) }
    let took (i : Nat) : Tile := (t.deqHeads (a i)).foldl (fun x h => x.take h.1 1) t
    let latched (x : Tile) (i : Nat) : Tile := { x with latch := (t.deqHeads (a i)).foldl (fun l h => l.set h.1 (some (lane h.2.lanes 0))) x.latch }
    let headTag (i : Nat) : Word := if 1 ≤ bits (a i) 20 18 ∧ bits (a i) 20 18 ≤ 4 then hTag (t.head (bits (a i) 20 18 - 1)) else 0
    let headerOf (i : Nat) : Beat := headerBeat t.ernd (headTag i)
      (match (t.deqHeads (a i)).head? with | some (_, b) => lane b.lanes 0 | none => 0)
    let Kind (i k : Nat) : Prop := (∀ x ∈ t.deqHeads (a i), x.2.kind.toNat = k) ∧ (t.deqHeads (a i) = [] → k = 0)
    let Mixed (i : Nat) : Prop := ∃ x ∈ t.deqHeads (a i), ∃ y ∈ t.deqHeads (a i), x.2.kind ≠ y.2.kind
    (let may : Prop := Idle ∧ t.hold = 0 ∧ ∀ o ∈ t.ops, opOpc o.op = 0x14 → o.waits = []
     let step := exec (.mtRuleFire tile) s
     (t.macHeld = none → ((∀ j < 16, t.mtHolds j = false) → t.mtPick = none) ∧
       ∀ i < 16, t.mtHolds i = true → (∀ j < i, t.mtHolds j = false) → t.mtPick = some i) ∧
     (∀ i, t.macHeld = some i → t.mtHolds i = true → t.mtPick = some i) ∧
     (¬ may → step = .next s) ∧ (may → t.mtPick = none → step = .next s) ∧
     (may → ∀ i, t.mtPick = some i → (r.inPlace = false ∨ opOpc (t.opW i) ≠ 0x1D) →
       let x (k : Nat) : Tile := { took i with
         hold := 1, opNo := t.opNo + 1, macHeld := none
         mtEnd := some { st := w (bits (a i) 17 12), preds := t.preds, pass := k != 1 && bit (a i) 17
                         round := (match t.mtEnd with | some e => e.round | none => 0) + if k = 2 then 1 else 0 } }
       (Mixed i → step = .next (trapped i fKMIX s)) ∧
       (Kind i 1 → ((t.deqHeads (a i)).any (fun h => headerBad h.2) = true → step = .next (trapped i fDECODE (counted (x 1)))) ∧
         ((t.deqHeads (a i)).any (fun h => headerBad h.2) = false → ∃ z : State, step = .next z ∧ z.tile tile = sent (latched (x 1) i) i (headerOf i) ∧
           z.regions = (counted (x 1)).regions ∧ z = { s with tiles := z.tiles, regions := z.regions } ∧ ∀ n, n ≠ tile → z.tile n = s.tile n)) ∧
       (Kind i 2 → ∃ z : State, step = .next z ∧ z.tile tile = sent (x 2) i (markBeat 2 t.ernd) ∧
         z.regions = (counted (x 2)).regions ∧ z = { s with tiles := z.tiles, regions := z.regions } ∧ ∀ n, n ≠ tile → z.tile n = s.tile n) ∧
       (Kind i 0 → (t.maccHolds (t.mtOp i) = true → step = .next (s.setTile tile { t with macHeld := some i })) ∧
         (t.maccHolds (t.mtOp i) = false →
           (∀ c, (counted (x 0)).mtPerform tile rn r (t.mtOp i) = .error c →
             step = .next ((counted (x 0)).elemTrap tile c i 0 ((x 0).trapLane (t.mtOp i)) t.headKinds t.headTags)) ∧
           (∀ z, (counted (x 0)).mtPerform tile rn r (t.mtOp i) = .ok z → step = .next z))))) ∧
    (let may : Prop := Idle ∧ t.shold = 0
     let step := exec (.streamRuleFire tile) s
     let Walks (i : Nat) : Prop := t.streamHolds i = true
     (¬ may → step = .next s) ∧ (may → (∀ j < 16, t.streamHolds j = false) → step = .next s) ∧
     (may → ∀ i < 16, Walks i → (∀ j < i, ¬ Walks j) →
       let x : Tile := { took i with shold := 1, opNo := t.opNo + 1 }
       (Mixed i → step = .next (trapped i fKMIX s)) ∧
       (Kind i 1 → (t.deqHeads (a i)).any (fun h => headerBad h.2) = true → step = .next (trapped i fDECODE (counted x))) ∧
       (Kind i 1 → (t.deqHeads (a i)).any (fun h => headerBad h.2) = false → ∃ z : State, step = .next z ∧
         z.tile tile = sent (latched x i) i (headerOf i) ∧ z.regions = (counted x).regions ∧ ∀ n, n ≠ tile → z.tile n = s.tile n) ∧
       (Kind i 2 → ∃ z : State, step = .next z ∧ (z.tile tile).owed = (sent x i (markBeat 2 t.ernd)).owed ∧ (z.tile tile).deqs = x.deqs ∧
         (z.tile tile).st = t.st ∧ (z.tile tile).passc = t.passc ∧ 
         ((z.tile tile).mtEnd.map (·.round)) = some ((match t.mtEnd with | some e => e.round | none => 0) + 1) ∧ z.regions = (counted x).regions) ∧
       (Kind i 0 → t.patBuf (opDesc (t.opW i)) = bufY → step = .next (trapped i fBUFCLS (counted x))) ∧
       (Kind i 0 → t.patBuf (opDesc (t.opW i)) ≠ bufY → (t.patSize (opDesc (t.opW i)) = 3 ∨ t.patOk (opDesc (t.opW i)) = false) →
         step = .next (trapped i fBUFRNG (counted x))) ∧
       (Kind i 0 → t.patBuf (opDesc (t.opW i)) ≠ bufY → t.patSize (opDesc (t.opW i)) ≠ 3 → t.patOk (opDesc (t.opW i)) = true → ∃ z : State, step = .next z ∧ z.tile tile = x.streamBeat (t.mtOp i) ∧
         (z.tile tile).st = t.st ∧ (z.tile tile).passc = t.passc ∧ z.regions = (counted x).regions ∧ ∀ n, n ≠ tile → z.tile n = s.tile n)))

/-- What an element does outside its rules, and what a cycle does. Heads: BARRIER_SNUFF_MERGE (R243, R409), RESERVED_KIND_DROP (R238, R406) and
INTERSECT_DISCARD (R308-R310). A merge takes one marker from every enabled input that is no loop input and sends one on every output
without a delay line; a discard counts and keeps no beat. The step's `.tick` move (R4, R238, R239, R251, R353, R441): where nothing runs, only the cycle
count and the ages of what waits advance (R347, R428, R458); in a region of one element the merge, the discard and the firing come first, then the element's
cycle, and the region's cycle count. In an MT's cycle (R238, R353): beats taken leave the inputs and those that came arrive, NEXT, predicates and rounds of the
firing take effect, and a beat owed leaves for its output's FIFO when it is due; a CT whose firing ends a pass loses one from PASSC (R255). Credits of an
output (R239). Choices of the model that this rests on: notes/assumptions 20 to 22. -/
def Obligations.InputsOutsideRules : Prop :=
  (∀ (s : State) (tile rn : Nat) (r : Region), s.liveRegion tile = some (rn, r) →
    let t := s.tile tile
    let ct := isCt tile
    let d := t.dropLoop ct
    let ins := d.mainIns ct
    let outs := d.mainOuts ct
    let Ready (k : BitVec 4) : Prop := d.flights = [] ∧ d.hold = 0 ∧ d.shold = 0 ∧ d.owed = [] ∧ (k = 3 ∨ ct = true ∨ d.busy = false) ∧
      ∀ o ∈ outs, 1 ≤ d.credits o
    let Sent (k : BitVec 4) (u : Tile) : Prop :=
      (∀ o < 4, d.outF.length = 4 → nth u.outF o [] = nth d.outF o [] ++ (if o ∈ outs then [markBeat k.toNat d.ernd] else [])) ∧
      u.merged = (d.merged || (decide (r.state = .draining) && k == 4))
    (∀ k : BitVec 4, k = 3 ∨ k = 4 → d.enabled = true → ins ≠ [] → (∀ c ∈ ins, ∃ b, d.head c = some b ∧ b.kind = k) →
      (∀ c ∈ ins, nth d.deqs c 0 = 0) → Ready k →
      ∃ z : State, exec (.barrierSnuffMerge tile) s = .next z ∧ z = { s with tiles := z.tiles } ∧ (∀ n, n ≠ tile → z.tile n = s.tile n) ∧
        Sent k (z.tile tile) ∧ z.tile tile = { d with outF := (z.tile tile).outF, deqs := (z.tile tile).deqs, merged := (z.tile tile).merged } ∧
        (∀ c < 4, d.deqs.length = 4 → nth (z.tile tile).deqs c 0 = nth d.deqs c 0 + (if c ∈ ins then 1 else 0))) ∧
    (d.enabled = true → ins = [] → r.state = .draining → d.merged = false → Ready 4 →
      ∃ z : State, exec (.barrierSnuffMerge tile) s = .next z ∧ Sent 4 (z.tile tile) ∧ (z.tile tile).merged = true) ∧
    (t.enabled = false → exec (.barrierSnuffMerge tile) s = .next s ∧ ∀ ch, exec (.reservedKindDrop tile ch) s = .next s) ∧
    (∀ c ∈ t.loopIns ct, t.deqs.length = 4 → nth t.deqs c 0 = 0 → (∃ b, t.head c = some b ∧ (b.kind = 3 ∨ b.kind = 4)) → nth d.deqs c 0 = 1) ∧
    (∀ ch b, ch < 4 → t.enabled = true → t.oldest ch = some b → 6 ≤ b.kind.toNat → nth t.deqs ch 0 = 0 →
      ∃ q : State, exec (.reservedKindDrop tile ch) s = .next (q.setTile tile (t.take ch 1)) ∧
        q = s.postRg r.part rn true false { FaultRec.of fKIND 0 with
          place := w ((tileX tile - r.ocol) + 65536 * (tileY tile - r.orow))
          detail := w (4096 * ((List.range 4).map (fun c => match t.oldest c with | some x => x.kind.toNat * 16 ^ c | none => 0)).sum)
          tags := (List.range 4).map (fun c => match t.oldest c with | some x => x.tag | none => 0) }) ∧
    (∀ ch b, t.oldest ch = some b → b.kind.toNat < 6 → exec (.reservedKindDrop tile ch) s = .next s) ∧
    (t.enabled = true → t.trap = none → bit (t.inW ct 0) 29 = true → t.deqs.length = 4 → nth t.deqs 0 0 = 0 → nth t.deqs 1 0 = 0 →
      ∃ u : Tile, exec (.intersectDiscard tile) s = .next (s.setTile tile u) ∧ u = { t with deqs := u.deqs, iskip := u.iskip, status := u.status } ∧
        (let E (c : Nat) : Prop := ∃ b, t.head c = some b ∧ b.kind = 0 ∧ b.valid = 0
         let tag (c : Nat) : Option Nat := (t.head c).map (fun b => tagFld (t.inW ct c) b.tag (t.pairFld ct))
         let Data (c : Nat) : Prop := ∃ b, t.head c = some b ∧ b.kind = 0 ∧ b.valid ≠ 0
         (∀ c < 2, E c → nth u.deqs c 0 = 1) ∧
         (∀ c < 2, (E 0 ∨ E 1) → ¬ E c → nth u.deqs c 0 = 0) ∧
         (Data 0 → Data 1 → ∀ x y, tag 0 = some x → tag 1 = some y →
           (x = y → u = t) ∧ (x < y → u.deqs = t.deqs.set 0 1 ∧ u.iskip = t.iskip + 1) ∧ (y < x → u.deqs = t.deqs.set 1 1 ∧ u.iskip = t.iskip + 1))))) ∧
  (∀ (s : State) (rest : List Move), s.power = true → s.agenda = [] ∧ rest = [] ∨ s.agenda = .tick :: rest →
    let z : State := { s with agenda := rest, cycle := s.cycle + 1 }
    let older (x : State) : State := { x with
      regions := x.regions.map (fun y => if y.2.state = .running ∨ y.2.state = .draining then (y.1, { y.2 with cycles := y.2.cycles + 1 }) else y)
      parts := x.parts.map (fun y => (y.1, { y.2 with
        held := y.2.held.map (fun h => { h with age := h.age + 1 }), svcs := y.2.svcs.map (fun v => (v.1, { v.2 with left := v.2.left - 1 })) }))
      colls := x.colls.map (fun y => (y.1, y.2.map (fun c => { c with age := c.age + 1 }))) }
    ((∀ y ∈ s.regions, y.2.active = false ∧ y.2.state ≠ .freezing) → step s = .next (older z)) ∧
    (∀ (tile rn : Nat) (r r' : Region) (a b c : State), s.regions = [(rn, r)] → r.active = true → s.listed r = [tile] →
      exec (.barrierSnuffMerge tile) z = .next a → exec (.intersectDiscard tile) a = .next b →
      (isCt tile = true → exec (.ctRuleFire tile) b = .next c) →
      (isCt tile = false → ∃ m, exec (.mtRuleFire tile) b = .next m ∧ exec (.streamRuleFire tile) m = .next c) →
      c.regions = [(rn, r')] → r'.active = true ∨ r'.state = .freezing → c.listed r' = [tile] →
      step s = .next (older (if isCt tile then c.ctCycle tile else c.mtCycle tile)))) ∧
  (∀ (s : State) (tile : Nat),
    let t := s.tile tile
    let c := t.ctCycle
    (c.2.1 = [] → s.ctCycle tile = (if c.2.2 then (s.setTile tile c.1).passEnd tile else s.setTile tile c.1)) ∧
    s.mtCycle tile = (if (match t.mtEnd with | some e => e.pass | none => false) then (s.setTile tile t.mtCycle).passEnd tile else s.setTile tile t.mtCycle) ∧
    (∀ rn r a, s.ownerOf tile = some (rn, r) → t.sect = some a → (s.passEnd tile).tile tile = { t with passc := t.passc - 1 } ∧
      (∀ n, n ≠ tile → (s.passEnd tile).tile n = s.tile n) ∧ (s.passEnd tile).mem = s.mem)) ∧
  (∀ (t : Tile),
    let u := t.mtCycle
    u.deqs = [0, 0, 0, 0] ∧ u.arr = [[], [], [], []] ∧ u.gone = [0, 0, 0, 0] ∧
    (∀ c < 4, nth u.inF c [] = (nth t.inF c []).drop (nth t.deqs c 0) ++ nth t.arr c []) ∧
    u.hold = t.hold - 1 ∧ u.shold = t.shold - 1 ∧ u.mtEnd = none ∧ u.banks = t.banks ∧ u.g = t.g ∧ u.passc = t.passc ∧
    (t.mtEnd = none → u.st = t.st ∧ u.preds = t.preds ∧ u.ernd = t.ernd) ∧
    (∀ e, t.mtEnd = some e → u.st = e.st ∧ u.preds = e.preds ∧ u.ernd = t.ernd + w e.round) ∧
    (t.owed = [] → u.owed = [] ∧ u.outF = t.outF) ∧
    (∀ x, t.owed = [x] → x.out < 4 → t.outF.length = 4 →
      (x.beats = none ∨ (x.due ≠ 0 ∧ x.beats ≠ some []) → u.owed = [{ x with due := x.due - 1 }] ∧ u.outF = t.outF) ∧
      (∀ b bs, x.beats = some (b :: bs) → x.due = 0 → u.owed = (if bs = [] then [] else [{ x with n := x.n - 1, beats := some bs }]) ∧
        ∀ o < 4, nth u.outF o [] = nth t.outF o [] ++ (if o = x.out then [b] else [])))) ∧
  (∀ (t : Tile) (o : Nat), o < 4 →
    let taken : Nat := (nth t.outF o []).length + nth t.gone o 0 + (t.owed.map (fun x => if x.out = o then x.n else 0)).sum
    (t.flights = [] → t.credits o = 4 - taken) ∧
    (∀ f, t.flights = [f] → f.renorm = false → t.credits o = 4 - (taken + if bit f.action (8 + o) then f.beats + 6 - max 6 f.age else 0)))

/-! ### Switches, the operations of MTs that finish later, and edge memory ports (R15, R240, R343-R346, R365-R388, R420, R499) -/

/-- Beats pass on where there is room (R240, R375, R376, R15): the beat of an output FIFO enters its delay line or goes onto the routes; one in a
delay line moves a stage in a cycle; a credit that a beat leaves free comes back in the next cycle; one in a lane register passes the next switch. A fanned-out beat leaves only when every route that names it takes
it. A beat in an express slot travels to the leaving attachment of its context, through no lost window. A seam's retry loses no beat; the eighth failure in a row
retires the lane and freezes the region.
How a tile's sources share its local port is free, but it is the same wherever the region stands (notes/assumptions 19). -/
def Obligations.BeatsPass : Prop :=
  (∀ (r r' : Region) (n n' code l src src' : Nat),
    let rel (g : Region) (k : Nat) : Nat := tileAt (tileX k - g.ocol) (tileY k - g.orow)
    rel r n = rel r' n' → rel r (src / 16) = rel r' (src' / 16) → src % 16 = src' % 16 →
      r.outLane n code = r'.outLane n' code ∧ r.inEnd n l src = r'.inEnd n' l src') ∧
  (∀ (s : State) (rn : Nat) (r : Region) (tile q m src : Nat) (b : Beat),
    let routes := (s.tile tile).routesFrom q m
    ((s.fanOut rn r tile q m src b).isSome = true ↔ r.covers tile = true ∧ s.lostAt tile = false ∧ routes ≠ [] ∧
      ∀ x ∈ routes, s.accepts rn r tile x.1 x.2 src = true) ∧
    (∀ z, s.fanOut rn r tile q m src b = some z → (∀ n, n ≠ tile → z.tile n = s.tile n) ∧
      (∀ x ∈ routes, x.1 < 4 → (z.tile tile).lanes.find (2 * x.1 + x.2) = some { src := src, beat := b }) ∧
      (∀ x ∈ routes, 4 ≤ x.1 → r.inEnd tile x.2 src < 4 → (s.tile tile).arr.length = 4 →
        b ∈ nth (z.tile tile).arr (r.inEnd tile x.2 src) []))) ∧
  (∀ (s : State) (tile rn : Nat) (r : Region), s.liveRegion tile = some (rn, r) →
    let t := s.tile tile
    let step (x : BeatSource) := exec (.beatTransfer tile x) s
    let out (u : Tile) (ch : Nat) (rest : List Beat) : Tile := { u with outF := u.outF.set ch rest, gone := u.gone.set ch (nth u.gone ch 0 + 1) }
    let route (ch : Nat) (b : Beat) : Option State := s.fanOut rn r tile 4 (r.outLane tile ch) (16 * tile + ch) b
    (∀ ch, nth t.outF ch [] = [] → step (.outFifo ch) = .next s) ∧
    (∀ ch b rest, nth t.outF ch [] = b :: rest →
      (t.dlen (isCt tile) ch = 0 →
        (route ch b = none → step (.outFifo ch) = .next s) ∧
        (∀ z, route ch b = some z → step (.outFifo ch) = .next (z.modTile tile (fun u => out u ch rest)))) ∧
      (t.dlen (isCt tile) ch ≠ 0 →
        (t.stage? ch 0 ≠ none → step (.outFifo ch) = .next s) ∧
        (t.stage? ch 0 = none → ch < t.dly.length → ∃ z : State, step (.outFifo ch) = .next z ∧ (z.tile tile).outF = (out t ch rest).outF ∧ (z.tile tile).gone = (out t ch rest).gone ∧
          (z.tile tile).stage? ch 0 = some b ∧ (∀ k, k ≠ 0 → (z.tile tile).stage? ch k = t.stage? ch k)))) ∧
    (∀ ch k, (ch, k) ∈ t.came → step (.delay ch k) = .next s) ∧
    (∀ ch k b, t.stage? ch k = some b → ch < t.dly.length → (ch, k) ∉ t.came →
      (k + 1 < t.dlen (isCt tile) ch → t.stage? ch (k + 1) ≠ none → step (.delay ch k) = .next s) ∧
      (k + 1 < t.dlen (isCt tile) ch → t.stage? ch (k + 1) = none → ∃ z : State, step (.delay ch k) = .next z ∧
        (z.tile tile).stage? ch k = none ∧ (z.tile tile).stage? ch (k + 1) = some b ∧
        ∀ j, j ≠ k → j ≠ k + 1 → (z.tile tile).stage? ch j = t.stage? ch j) ∧
      (t.dlen (isCt tile) ch ≤ k + 1 → (route ch b = none → step (.delay ch k) = .next s) ∧
        (∀ z, route ch b = some z → step (.delay ch k) = .next (z.modTile tile (fun u => u.setStage ch k none))))) ∧
    (∀ p l h n, t.lanes.find (2 * p + l) = some h → neighbour tile p = some n →
      (s.fanOut rn r n (facing p) l h.src h.beat = none → step (.laneReg p l) = .next s) ∧
      (∀ z, s.fanOut rn r n (facing p) l h.src h.beat = some z → ∃ y : State, step (.laneReg p l) = .next y ∧
        y.tile tile = { z.tile tile with lanes := (z.tile tile).lanes.del (2 * p + l) } ∧ (∀ j, j ≠ tile → y.tile j = z.tile j) ∧
        y.seamFails = (if chipOf tile = chipOf n then z.seamFails else z.seamFails.del (seamLaneNo (4 * tile + p) l)))) ∧
    (∀ j slot h rest, t.xbuf.get (4 * j + slot) [] = h :: rest →
      let xw := t.fld (0xD4 + j)
      let exit := if j < 4 then tileAt (bits xw 9 0) (tileY tile) else tileAt (tileX tile) (bits xw 9 0)
      let ctx := bits (t.fld (0xDC + j)) (8 * slot + 1) (8 * slot)
      let path := expressPath tile j exit
      let left (z : State) : State := z.modTile tile (fun u => { u with xbuf := u.xbuf.put (4 * j + slot) rest })
      let step := exec (.expressLaneTransfer tile j slot) s
      (bit xw 11 = false → step = .next s) ∧
      (bit xw 11 = true → bits xw 10 10 = 1 → ∀ z, s.fanOut rn r tile 4 (r.outLane tile (8 + j)) h.src h.beat = some z →
        step = .next (left z)) ∧
      (bit xw 11 = true → bits xw 10 10 = 0 →
        r.covers exit = false ∨ (∃ n ∈ path.1, s.lostAt n = true) ∨ (s.tile exit).xLeave j ctx = none → step = .next s) ∧
      (bit xw 11 = true → bits xw 10 10 = 0 → r.covers exit = true → (∀ n ∈ path.1, s.lostAt n = false) →
        ∀ k, (s.tile exit).xLeave j ctx = some k →
        (2 ≤ ((s.tile exit).xBuf j k).length → step = .next s) ∧
        (((s.tile exit).xBuf j k).length < 2 →
          step = .next { (left (s.modTile exit (fun u => { u with xbuf := u.xbuf.put (4 * j + k) (u.xBuf j k ++ [h]) }))) with
            seamFails := (expressSeams path j).foldl (fun l k => l.del k) s.seamFails })))) ∧
  (∀ (s : State) (seam lane rn : Nat),
    let k := seamLaneNo seam lane
    let n := s.seamFails.get k 0 + 1
    (n < 8 → ∃ z : State, exec (.seamBeatRetry seam lane rn) s = .next z ∧ z.seamFails.get k 0 = n ∧ z.modErr = (s.modCount 0).modErr ∧
      z = { s with seamFails := z.seamFails, modErr := z.modErr }) ∧
    (8 ≤ n → ∃ z : State, exec (.seamBeatRetry seam lane rn) s = .next (z.faultFreeze rn 4 (FaultRec.of fUELINK 4)) ∧ z.seamFails = s.seamFails.del k ∧
      k ∈ z.seamRetired ∧ z.modErr = ((s.modCount 0).modCount 1).modErr ∧
      z = { s with seamFails := z.seamFails, seamRetired := z.seamRetired, modErr := z.modErr }))

/-- Operations of an MT that finish after their fire (R365, R367, R370, R378, R384, R385): a partition member serves its next request; a GTH, SCT
or ACQN pays its beats once answered; an ISTRM block is refused or accepted; a macro unit starts its first waiting operation once what that
waits for is over, and the running one finishes with its effect and its beats. The order in which a unit's effect takes place and the stack a stream
runs on are the model's choice (notes/assumptions 15 and 22). -/
def Obligations.LaterOperationsEnd : Prop :=
  ∀ (s : State) (tile rn : Nat) (r : Region), s.liveRegion tile = some (rn, r) →
    let t := s.tile tile
    let paid (o : MtOp) (res done : Beat) (u : Tile) : Prop := u.ops = t.ops.filter (fun x => x.seqNo != o.seqNo) ∧
      u.owed = t.owed.map (fun x => if x.op == o.seqNo && x.beats.isNone then { x with beats := some [if o.isResult x.out then res else done] } else x) ∧
      u = { t with ops := u.ops, owed := u.owed }
    (t.net = [] → exec (.partitionRequestServe tile) s = .next s) ∧
    (∀ q rest, t.net = q :: rest →
      (t.accessOk (bufX, q.off, q.size, q.size) = false → exec (.partitionRequestServe tile) s =
        .next (s.elemTrap tile fBUFRNG 0 0 q.lane t.headKinds t.headTags) ∧ ((s.elemTrap tile fBUFRNG 0 0 q.lane t.headKinds t.headTags).tile tile).net = t.net) ∧
      (t.accessOk (bufX, q.off, q.size, q.size) = true → ∃ z : State, exec (.partitionRequestServe tile) s = .next z ∧ (z.tile tile).net = rest ∧
        (∀ d, q.data = some d → (z.tile tile).banks = (t.bufPut bufX q.off (leBytes d.toNat q.size)).banks) ∧
        (q.data = none → (z.tile tile).banks = t.banks) ∧
        (∀ o ∈ (s.tile q.src).ops, o.seqNo = q.op → ∃ p ∈ (z.tile q.src).ops, p.seqNo = q.op ∧ p.progress = o.progress ||| 2 ^ q.lane ∧
          (q.data = none → q.size = 4 → q.lane < o.reply.length → nth p.reply q.lane none = some (w (fieldAt (t.bufRead bufX q.off 4) 0 4))) ∧
          (q.data = none → q.size = 8 → q.lane + 1 < o.reply.length → nth p.reply q.lane none = some (w (fieldAt (t.bufRead bufX q.off 8) 0 4)) ∧
            nth p.reply (q.lane + 1) none = some (w (fieldAt (t.bufRead bufX q.off 8) 4 4)))))) ∧
    (let first := t.ops.find? (fun o => (opOpc o.op == 0x10 || opOpc o.op == 0x11) && o.waits.all (fun l => o.progress.testBit l))
     (first = none → ∃ z : State, exec (.gthResultEnqueue tile) s = .next z ∧ z.tile tile = t ∧ ∀ n, n ≠ tile → z.tile n = s.tile n) ∧
     (∀ o, first = some o → ∃ z : State, exec (.gthResultEnqueue tile) s = .next z ∧ paid o o.gathered o.doneBeat (z.tile tile) ∧
       z = { s with tiles := z.tiles } ∧ ∀ n, n ≠ tile → z.tile n = s.tile n)) ∧
    (∀ o, t.ops.find? (fun o => opOpc o.op == 0x1C) = some o → o.done = true →
      ∃ z : State, exec (.acqnGrant tile) s = .next z ∧ paid o (o.word ((nth o.reply 0 none).getD 0)) o.doneBeat (z.tile tile) ∧
        z = { s with tiles := z.tiles } ∧ ∀ n, n ≠ tile → z.tile n = s.tile n) ∧
    (t.ops.find? (fun o => opOpc o.op == 0x1C) = none → exec (.acqnGrant tile) s = .next s) ∧
    (∀ o, t.ops.find? (fun o => opOpc o.op == 0x1C) = some o → o.done = false → ∀ z, z = s.grant r.part (hSlot o.gA.toNat) →
      (∀ x ∈ (z.tile tile).ops, opOpc x.op = 0x1C → x.done = false) →
      ∃ y : State, exec (.acqnGrant tile) s = .next y ∧ y.tile tile = z.tile tile ∧ y = { z with tiles := y.tiles }) ∧
    (t.ops.find? (fun o => opOpc o.op == 0x14) = none → exec (.istrmBlockAccept tile) s = .next s) ∧
    (∀ o b, t.ops.find? (fun o => opOpc o.op == 0x14) = some o → o.dch = some b →
      let blk := bytesOfLanes b.lanes
      let answered (c : Nat) (y : State) : Prop := ∃ z : State, exec (.istrmBlockAccept tile) s = .next z ∧
        paid o (o.word (w c)) o.doneBeat (z.tile tile) ∧ z = { y with tiles := z.tiles } ∧ ∀ n, n ≠ tile → z.tile n = s.tile n
      let good : Prop := streamBlockOk blk = true ∧ s.attachOf r (fieldAt blk 14 2 % 512) (fieldAt blk 14 2 / 512 % 4) 0 ≠ none
      (¬ good → answered eBADARG s) ∧
      (good → (s.part r.part).current tblQueue r.origq.toNat = false → answered eSTALE s) ∧
      (good → (s.part r.part).current tblQueue r.origq.toNat = true →
        let k := s.streamStack (s.rgXlate r) blk
        let i : IStream := { rn := rn, incarn := r.incarn, block := blk, next := 0, row := none, stuck := false }
        (∀ e < 8, (k.2.die k.1).engines.find e = none → (∀ f < e, (k.2.die k.1).engines.find f ≠ none) →
          answered 0 (k.2.setDie k.1 { k.2.die k.1 with engines := (k.2.die k.1).engines.put e i })) ∧
        ((∀ e < 8, (k.2.die k.1).engines.find e ≠ none) →
          ((k.2.die k.1).queue.length < 64 → answered 0 (k.2.setDie k.1 { k.2.die k.1 with queue := (k.2.die k.1).queue ++ [i] })) ∧
          (64 ≤ (k.2.die k.1).queue.length → ∃ z : State, exec (.istrmBlockAccept tile) s = .next z ∧ (z.tile tile).mtSlotFree = false ∧
            z = { s with tiles := z.tiles } ∧ ∀ n, n ≠ tile → z.tile n = s.tile n)))) ∧
    (∀ u : MacroUnit,
      let n := unitNo u
      let x := t.unit n
      let Over (k : Nat) : Prop := (∀ y ∈ t.units, ∀ z ∈ y.running.toList ++ y.waiting, z.seqNo ≠ k) ∧ ∀ y ∈ t.ops, y.seqNo ≠ k
      (∀ o rest, x.running = none → x.waiting = o :: rest → (∀ k ∈ o.waits, Over k) → n < t.units.length →
        ∃ z : State, exec (.macroUnitStart tile u) s = .next z ∧ (z.tile tile).unit n = { running := some o, waiting := rest } ∧
          z.tile tile = { t with units := (z.tile tile).units } ∧ (∀ j, j ≠ n → (z.tile tile).unit j = t.unit j)) ∧
      (∀ o rest, x.running = none → x.waiting = o :: rest → (∃ k ∈ o.waits, ¬ Over k) →
        ∃ z : State, exec (.macroUnitStart tile u) s = .next z ∧ z.tile tile = t) ∧
      (x.running ≠ none ∨ x.waiting = [] → ∃ z : State, exec (.macroUnitStart tile u) s = .next z ∧ z.tile tile = t) ∧
      (x.running = none → ∃ z : State, exec (.macroOpDone tile u) s = .next z ∧ z.tile tile = t) ∧
      (∀ o, x.running = some o → n < t.units.length →
        ∃ z : State, exec (.macroOpDone tile u) s = .next z ∧ (∀ j, j ≠ tile → z.tile j = s.tile j) ∧
          (z.tile tile).unit n = { running := none, waiting := x.waiting } ∧
          (z.tile tile).owed = t.owed.map (fun y => if y.op == o.seqNo && y.beats.isNone then
            { y with beats := some (if o.isResult y.out then (t.macEffect o).2 else [o.doneBeat]) } else y) ∧
          (z.tile tile).mac = (t.macEffect o).1.mac ∧ (z.tile tile).banks = (t.macEffect o).1.banks ∧
          (z.tile tile).status = (t.macEffect o).1.status))

/-- What the operation words and the macro operations of an MT leave. Operation words (R335, R354, R356-R359, R362, R368-R372): the BUFCLS and BUFRNG
checks before anything is performed; LD, ST, LDW, STW, RMTI, RMTO, ATOM, ATOMR, FILL, CLR, GMOV, GADD, GCMP, GLOW and PASS, what they write to the
banks, the g registers and the predicates, and what they owe: the result on OCH, on every other output of ENQ a done beat with the offset of the first
access. Macro operations (R87-R92, R99, R102, R379, R380, R384, R387): MLOAD the tile it names with values, scales, spares and mask; MRUN four beats
of the 64 columns; MACC the columns added to the binary32 words at Y; MSRCH a mask plane at W. A column adds, for each half of K that has a kept
value, the exact dot product times the scales of both sides (2^128 and more an infinity, a NaN scale a NaN), rounded once in the addition. -/
def Obligations.MacroEffects : Prop :=
  let doubled (code : Nat) (sp : Byte) : Int := if code = 8 then (if sp = 0x80 then 0 else sp.toInt)
    else (if code < 8 then 1 else -1) * ((nth [0, 1, 2, 3, 4, 6, 8, 12] (code % 8) 0 : Nat) : Int)
  (∀ (t : Tile) (o : MtOp),
    let e := t.macEffect o
    let tl := bits o.op 9 8
    let fmt := bits o.op 25 24
    let m := nth t.mac tl MacTile.cleared
    let row := t.bufRead bufX o.off (rowBytes fmt)
    let y := bits o.gB 15 0
    let flagged (cols : List (Word × Flags)) : Prop := ∀ i < 6, e.1.status.getLsbD i = (t.status.getLsbD i || cols.any (fun c => c.2.getLsbD i))
    (bits o.op 7 0 = 0x0C → e.2 = [] ∧ e.1 = { t with mac := e.1.mac } ∧ (∀ j, j ≠ tl → nth e.1.mac j MacTile.cleared = nth t.mac j MacTile.cleared) ∧
      (t.mac.length = 4 → ∀ k < 64, ∀ n < 64,
        let z := nth e.1.mac tl MacTile.cleared
        let rows := if fmt = 0 ∨ fmt = 3 then 4096 else 2048
        let trail := if 2 ≤ fmt then 256 else 0
        let bs := t.bufRead bufW o.off (rows + trail + (if bit o.op 26 then 512 else 0))
        let i := 64 * k + n
        let kept : Bool := !bit o.op 26 || (nth bs (rows + trail + i / 8) 0).getLsbD (i % 8)
        let nib := bits (nth bs (i / 2) 0) (4 * (i % 2) + 3) (4 * (i % 2))
        z.kept k n = kept ∧ z.e2b = (fmt == 2) ∧
        z.val k n = (if kept then (match fmt with
          | 1 => snat 4 nib
          | 2 => doubled nib (nth bs (rows + 2 * (64 * (k / 32) + n) + 1) 0)
          | _ => (nth bs i 0).toInt) else 0) ∧
        ∀ h < 2, z.exp h n = (if 2 ≤ fmt then (nth bs (rows + 2 * (64 * h + n)) 0).toNat else 0x7F) ∧
          z.spare.get (64 * h + n) 0x80 = (if fmt = 2 then nth bs (rows + 2 * (64 * h + n) + 1) 0 else 0x80))) ∧
    (bits o.op 7 0 = 0x0D → e.1 = { t with status := e.1.status } ∧ e.2.length = 4 ∧ flagged (macColumns m fmt row (fun _ => 0)) ∧
      ∀ n < 64, ∃ b, e.2[n / 16]? = some b ∧ b.kind = 0 ∧ b.rnd = o.rnd ∧ b.tag = o.tag ∧ b.valid = 0xFFFF ∧
        lane b.lanes (n % 16) = (nth (macColumns m fmt row (fun _ => 0)) n (0, 0)).1) ∧
    (bits o.op 7 0 = 0x0E → e.2 = [] ∧ flagged (macColumns m fmt row (fun n => w (leNat (t.bufRead bufY (y + 4 * n) 4)))) ∧
      e.1.banks = (t.bufPut bufY y ((macColumns m fmt row (fun n => w (leNat (t.bufRead bufY (y + 4 * n) 4)))).map (fun c => leBytes c.1.toNat 4)).flatten).banks) ∧
    (bits o.op 7 0 = 0x0F → e = (t.bufPut bufW y (srchPlane (bit o.op 24) (t.bufRead bufW o.off 8192)), [])) ∧
    (∀ (bs : List Byte) (acc : Nat → Word) (n : Nat), n < 64 →
      nth (macColumns m fmt bs acc) n (0, 0) = macHalf m (b2n (fmt == 2) + b2n m.e2b) (aRow fmt bs) n 1
        (macHalf m (b2n (fmt == 2) + b2n m.e2b) (aRow fmt bs) n 0 (acc n, 0)))) ∧
  (∀ (fmt : Nat) (bs : List Byte) (k h : Nat), k < 64 → h < 2 →
    let nib := bits (nth bs (k / 2) 0) (4 * (k % 2) + 3) (4 * (k % 2))
    nth (aRow fmt bs).1 k 0 = (match fmt with | 1 => snat 4 nib | 2 => doubled nib (nth bs (33 + 2 * (k / 32)) 0) | _ => (nth bs k 0).toInt) ∧
    nth (aRow fmt bs).2 h 0 = (match fmt with | 2 => (nth bs (32 + 2 * h) 0).toNat | 3 => (nth bs (64 + 2 * h) 0).toNat | _ => 0x7F)) ∧
  (∀ (m : MacTile) (kd n h : Nat) (a : List Int × List Nat) (acc : Word) (fl : Flags),
    let z := macHalf m kd a n h (acc, fl)
    let ea := nth a.2 h 0
    let eb := m.exp h n
    let Live : Prop := ∃ i < 32, m.kept (32 * h + i) n = true
    let I : Int := ((List.range 32).map (fun i => nth a.1 (32 * h + i) 0 * m.val (32 * h + i) n)).sum
    let E : Int := (ea : Int) + eb - 254 - kd
    ea ≤ 255 → -(2 ^ 31) < I → I < 2 ^ 31 →
      (¬ Live → z = (acc, fl ||| (if ea = 255 ∨ eb = 255 then flSKIPNF else 0))) ∧
      (Live → ea = 255 ∨ eb = 255 → z.1 = 0x7FC00000) ∧
      (Live → ea ≠ 255 → eb ≠ 255 →
        let blk : Nat × Flags := if I = 0 then (0, 0)
          else if 128 ≤ (Nat.log2 I.natAbs : Int) + E then ((if I < 0 then 0xFF800000 else 0x7F800000), flOVF)
          else b32.round 0 false (decide (I < 0)) I.natAbs E false
        let r := b32.add 0 acc.toNat (w blk.1 : Word).toNat
        z = (w r.1, fl ||| blk.2 ||| r.2))) ∧
  (∀ (s : State) (tile rn : Nat) (r : Region) (o : MtOp),
    let t := s.tile tile
    let p := s.mtPerform tile rn r o
    let opc := bits o.op 7 0
    let sub := bits o.op 11 8
    let buf := bits o.op 13 12
    let size := bits o.op 15 14
    let addr := bits o.op 47 32
    let ga := bits o.op 50 48
    let gb := bits o.op 54 52
    let a (l : Nat) : Word := match o.ich with | some b => lane b.lanes l | none => 0
    let d (l : Nat) : Word := match o.dch with | some b => lane b.lanes l | none => 0
    let va (l : Nat) : Bool := match o.ich with | some b => b.valid.getLsbD l | none => false
    let vd (l : Nat) : Bool := match o.dch with | some b => b.valid.getLsbD l | none => false
    let both (l : Nat) : Bool := va l && vd l
    let offs (on : Nat → Bool) : List (Nat × Nat) :=
      if size = 1 then ((List.range 8).filter (fun j => on (2 * j))).map (fun j => (2 * j, addr + 8 * (a (2 * j)).toNat))
      else ((List.range 16).filter on).map (fun l => (l, addr + 4 * (a l).toNat))
    let k := if size = 1 then 8 else 4
    let word : List Nat := if bit o.op 24 then [addr + o.gA.toNat] else if va 0 then [addr + 64 * (a 0).toNat] else []
    let tagOf (h : Option Beat) : Nat := match h with | some b => b.tag.toNat | none => 0
    let touched : List (Nat × Nat × Nat) := match opc with
      | 0x01 => (offs va).map (fun x => (x.2, k, k))
      | 0x02 | 0x08 | 0x09 => (offs both).map (fun x => (x.2, k, k))
      | 0x03 | 0x04 => word.map (fun x => (x, 64, 64))
      | 0x14 => [(addr, 64, 64)]
      | 0x18 => [(addr + 64 * tagOf o.ich, 64, 64)]
      | 0x19 => [(addr + 64 * tagOf o.dch, 64, 64)]
      | 0x20 => [(addr, 64 * (bits o.op 31 24 + 1), 64)]
      | _ => [(0, t.bufSize buf, 1)]
    let uses : Prop := opc ∈ [0x01, 0x02, 0x03, 0x04, 0x08, 0x09, 0x14, 0x18, 0x19, 0x20, 0x21]
    let listed : Prop := if opc = 0x08 ∨ opc = 0x09 then buf = 2 else if opc = 0x14 then buf = 1 else buf = 1 ∨ buf = 2
    let Fit (x : Nat × Nat × Nat) : Prop := x.1 % x.2.2 = 0 ∧ 0 < x.2.1 ∧ x.1 + x.2.1 ≤ t.bufSize buf
    let first : Nat := (touched.map (·.1)).headD 0
    let doneB (off : Nat) : Beat := dataBeat o.rnd o.tag 1 (lanesOf (fun l => if l = 0 then w off else 0))
    let owes (due : Nat) (off : Nat) (res : Option Beat) : List Owed := ((List.range 4).filter (fun c => o.enq.getLsbD c)).map (fun c =>
      { out := c, op := o.seqNo, due := due, n := 1, after := false
        beats := some [match res with | some b => if c = bits o.op 19 18 then b else doneB off | none => doneB off] })
    let put (x : Tile) (off : Nat) (v : Word) : Tile := x.bufPut buf off (leBytes v.toNat 4)
    let get (x : Tile) (off : Nat) : Word := w (leNat (x.bufRead buf off 4))
    let words (x : Tile) (off : Nat) : Tile := (List.range 16).foldl (fun x l => if vd l then put x (off + 4 * l) (d l) else x) x
    let Did (u : Tile) : Prop := p = .ok (s.setTile tile u)
    let Allowed : Prop := listed ∧ ∀ x ∈ touched, Fit x
    let ls : List Nat := (List.range 16).filter both
    let lc := bankCycles ((offs va).map (·.2))
    let sc := bankCycles ((offs both).map (·.2))
    (uses → ¬ listed → p = .error 0x14) ∧
    (uses → listed → (∃ x ∈ touched, ¬ Fit x) → size ≤ 1 ∨ 3 ≤ opc ∧ opc ≠ 8 ∧ opc ≠ 9 → p = .error 0x15) ∧
    (opc = 0x00 → Did { t with owed := t.owed ++ owes 3 0 none }) ∧
    (opc = 0x01 → size = 0 → Allowed → Did { t with hold := lc, owed := t.owed ++ owes (lc + 2) first (some (dataBeat o.rnd o.tag
      (((List.range 16).filter va).map (fun l => 2 ^ l)).sum (lanesOf (fun l => if va l then get t (addr + 4 * (a l).toNat) else 0)))) }) ∧
    (opc = 0x01 → size = 1 → Allowed → Did { t with hold := lc, owed := t.owed ++ owes (lc + 2) first (some (dataBeat o.rnd o.tag
      (((List.range 8).filter (fun j => va (2 * j))).map (fun j => 3 * 2 ^ (2 * j))).sum
      (lanesOf (fun l => let j := l / 2; if va (2 * j) then w (fieldAt (t.bufRead buf (addr + 8 * (a (2 * j)).toNat) 8) (4 * (l % 2)) 4) else 0)))) }) ∧
    (opc = 0x02 → size = 0 → Allowed →
      let x := ls.foldl (fun x l => put x (addr + 4 * (a l).toNat) (d l)) t
      Did { x with hold := sc, owed := t.owed ++ owes (sc + 2) first none }) ∧
    (opc = 0x02 → size = 1 → Allowed →
      let x := ((List.range 8).filter (fun j => both (2 * j))).foldl (fun x j =>
        x.bufPut buf (addr + 8 * (a (2 * j)).toNat) (leBytes ((d (2 * j)).toNat + (d (2 * j + 1)).toNat * 2 ^ 32) 8)) t
      Did { x with hold := sc, owed := t.owed ++ owes (sc + 2) first none }) ∧
    (let g : List Word := if bit o.op 25 then t.g.set ga (o.gA + 64) else t.g
     (opc = 0x03 → Allowed → Did { t with g := g, owed := t.owed ++ owes 3 first (some (match word with
        | x :: _ => dataBeat o.rnd o.tag 0xFFFF (lanesOfBytes (t.bufRead buf x 64))
        | [] => dataBeat o.rnd o.tag 0 (lanesOf (fun _ => 0)))) }) ∧
     (opc = 0x04 → Allowed → let x := match word with | x :: _ => words t x | [] => t
       Did { x with g := g, owed := t.owed ++ owes 3 first none })) ∧
    (opc = 0x18 → Allowed → Did { t with owed := t.owed ++ owes 3 first (some (dataBeat o.rnd o.tag 0xFFFF (lanesOfBytes (t.bufRead buf first 64)))) }) ∧
    (opc = 0x19 → Allowed → let x := words t first
      Did { x with owed := t.owed ++ owes 3 first none }) ∧
    (opc = 0x08 ∨ opc = 0x09 → size = 0 → Allowed →
      let clip (v : Int) : Int := max (-(2 ^ 31)) (min (2 ^ 31 - 1) v)
      let new (old v : Word) : Word := match sub with
        | 0 => old + v
        | 1 => BitVec.ofInt 32 (clip (old.toInt + v.toInt))
        | 2 => if (if bit o.op 24 then old.toNat ≤ v.toNat else old.toInt ≤ v.toInt) then old else v
        | 3 => if (if bit o.op 24 then v.toNat ≤ old.toNat else v.toInt ≤ old.toInt) then old else v
        | 4 => old &&& v
        | 5 => old ||| v
        | 6 => v
        | _ => if old = o.gA then v else old
      let clips (old v : Word) : Bool := sub == 1 && clip (old.toInt + v.toInt) != old.toInt + v.toInt
      let done := ls.foldl (fun (acc : Tile × List (Nat × Word)) l =>
        let old := get acc.1 (addr + 4 * (a l).toNat)
        let y := put acc.1 (addr + 4 * (a l).toNat) (new old (d l))
        ({ y with status := acc.1.status ||| (if clips old (d l) then flSAT else 0) }, acc.2 ++ [(l, old)])) (t, [])
      let olds : Beat := dataBeat o.rnd o.tag ((done.2.map (fun x => 2 ^ x.1)).sum) (lanesOf (fun l => ((done.2.find? (fun x => x.1 == l)).map (·.2)).getD 0))
      Did { done.1 with hold := ls.length + 1, owed := t.owed ++ owes (ls.length + 3) first (if opc = 0x09 then some olds else none) }) ∧
    (opc = 0x20 → Allowed →
      let n := 64 * (bits o.op 31 24 + 1)
      let c := if buf = 2 then (n + 127) / 128 else n / 64
      let x := t.bufPut buf addr ((List.range (n / 4)).flatMap (fun _ => leBytes o.gA.toNat 4))
      Did { x with hold := c, owed := t.owed ++ owes (c + 2) addr none }) ∧
    (opc = 0x21 → Allowed → ∃ u : Tile,
      let c := if buf = 2 then t.bufSize buf / 128 else t.bufSize buf / 64
      Did u ∧ u = { t with banks := u.banks, hold := c, owed := t.owed ++ owes (c + 2) 0 none } ∧
      (t.banks.wf = true → ∀ x, u.banks.get x = if x / 4096 ∈ t.bankList buf then 0 else t.banks.get x)) ∧
    (let sx : Word := (w addr : Half).signExtend 32
     let l0 : Word := if va 0 then a 0 else 0
     let gSet (v : Word) : Prop := Did { t with g := t.g.set gb v, owed := t.owed ++ owes 3 0 none }
     (opc = 0x22 → gSet (match sub with | 0 => w addr | 1 => o.gA | _ => l0)) ∧
     (opc = 0x23 → gSet (o.gA + (if sub = 0 then sx else l0))) ∧
     (opc = 0x24 → ∀ e, t.mtEnd = some e → ∃ pr : BitVec 4, Did { t with mtEnd := some { e with preds := pr }, owed := t.owed ++ owes 3 0 none } ∧
       ∀ i < 4, pr.getLsbD i = if i = sub % 4 then
         (let v := if bit o.op 24 then o.gB else sx
          if bit o.op 10 then (if bit o.op 11 then decide (o.gA.toNat < v.toNat) else decide (o.gA.toInt < v.toInt)) else o.gA == v)
         else e.preds.getLsbD i)) ∧
    (opc = 0x15 →
      let us : List Glow := ls.map (fun l => { handle := o.gA, slot := a l, weight := d l })
      let nf : Flags := if (List.range 16).any (fun l => !both l && (fv (d l)).nonFinite) then flSKIPNF else 0
      Did { t with glow := t.glow ++ us, status := t.status ||| nf, owed := t.owed ++ owes 3 0 none }) ∧
    (opc = 0x1D →
      let q := s.soRel r.part o.gA.toNat (.seq rn)
      let b := dataBeat o.rnd o.tag 1 (lanesOf (fun l => if l = 0 then w (bits q.1 15 0) else 0))
      p = .ok (q.2.modTile tile (fun x => { x with owed := x.owed ++ owes 3 o.off (some b) }))))

/-- Edge memory ports and indirect streams (R343-R346, R366, R367, R420, R499): a request beat is checked and taken, or its fault withholds it; a
raw read unit delivers its 64 bytes as one beat; write data goes to the valid lanes; a marker is forwarded after the replies and writes before
it; a reply leaves onto the routes of the region's attachment, and a stale one is dropped and counted; a stream's row comes from the
element its index names. A unit below the least privilege of what stands there raises PRIV and is not delivered or written (R12; what a unit that
is not delivered leaves: notes/assumptions 48). That a beat which breaks R343 stays at the head, and that a reply with no attachment is dropped, are the
model's readings (notes/assumptions 23). -/
def Obligations.EdgePorts : Prop :=
  (∀ (s : State) (rn emp ch : Nat) (r : Region), s.region? rn = some r → r.active = true →
    let k := rn * 2048 + emp * 4 + ch
    let p := s.port k
    let request := exec (.empRequest rn emp ch) s
    let fault (unit_ : Nat) (f : XFault) (write : Bool) (va : Nat) (y : State) : State :=
      (y.modPort k (fun x => { x with wait := true })).withholdX rn (.port rn emp ch) 2 (emp + ch * 512) unit_ f write va
    (s.isHeld r.part (.port rn emp ch) = true → request = .next s ∧ exec (.empWriteData rn emp ch) s = .next s ∧ exec (.empMarkerForward rn emp ch) s = .next s) ∧
    (s.isHeld r.part (.port rn emp ch) = false → p.linkIn ≠ none → p.linkOut = none → request = .next s) ∧
    (s.isHeld r.part (.port rn emp ch) = false → p.linkIn = none → p.linkOut = none →
      (p.cur = none → p.reqF = [] → request = .next s) ∧
      (∀ b rest, p.cur = none → p.reqF = b :: rest →
        let x1 := lane b.lanes 1
        let x2 := lane b.lanes 2
        let va := (lane b.lanes 0).toNat + bits x1 24 0 * 2 ^ 32
        let Good : Prop := b.valid.getLsbD 0 = true ∧ b.valid.getLsbD 1 = true ∧ b.valid.getLsbD 2 = true ∧ bits x1 31 25 = 0 ∧ bits x2 31 19 = 0 ∧
          bits x2 18 16 ≤ 2 ∧ bits x2 15 0 ≠ 0 ∧ (bits x2 18 16 = 1 ∨ va % 64 = 0)
        let q : PortReq := { va := w va, count := bits x2 15 0, op := bits x2 18 16, next := 0, tag := b.tag, cur := va }
        (6 ≤ b.kind.toNat → request = .next ((s.postRg r.part rn true false { FaultRec.of fKIND 2 with place := w (emp + ch * 512) }).setPort k { p with reqF := rest })) ∧
        (b.kind = 5 → request = .next (s.setPort k { p with reqF := rest })) ∧
        (b.kind.toNat < 5 → 2 ≤ b.kind.toNat → p.wr = none → request = .next s) ∧
        (∀ x, b.kind ≠ 0 → b.kind.toNat < 5 → p.wr = some x → request = .next (fault x.next { kind := .req, stage := 1, ga := 0 } true x.cur s)) ∧
        (b.kind = 1 ∨ (b.kind = 0 ∧ ¬ Good) → p.wr = none → request = .next (fault 0 { kind := .req, stage := 1, ga := 0 } false va s)) ∧
        (b.kind = 0 → Good → p.wr = none →
          request = .next (s.setPort k (if bits x2 18 16 = 2 then { p with reqF := rest, wr := some q } else { p with reqF := rest, cur := some q })))) ∧
      (∀ q, p.cur = some q → q.op = 0 → p.reply.length < 32 → s.rowOpen rn emp ch = false → q.cur < 2 ^ 57 →
        (∀ f, translate s.mem (s.rgXlate r) q.cur .read = .error f → request = .next (fault q.next f false q.cur s)) ∧
        (∀ pa at_, translate s.mem (s.rgXlate r) q.cur .read = .ok (pa, at_) → q.next + 1 < q.count →
          (s.rgDenied rn q.cur 64 false = none → request = .next ((s.touch rn q.cur 1).setPort k (Port.flush { p with
            reply := p.reply ++ [(r.incarn, dataBeat p.round q.tag 0xFFFF (lanesOfBytes (s.mem.read (r.shadowed pa) 64)))]
            cur := some { q with next := q.next + 1, cur := q.cur + 64 } } r.incarn))) ∧
          (∀ no, s.rgDenied rn q.cur 64 false = some no → request = .next (((s.rgPriv rn 2 (emp + ch * 512) q.next no false).touch rn q.cur 1).setPort k
            (Port.flush { p with cur := some { q with next := q.next + 1, cur := q.cur + 64 } } r.incarn)))) ∧
      (∀ q, p.cur = some q → 32 ≤ p.reply.length ∨ s.rowOpen rn emp ch = true → request = .next s)) ∧
    (∀ q b rest, s.isHeld r.part (.port rn emp ch) = false → p.linkIn = none → p.linkOut = none → p.wr = some q → p.reqF = b :: rest →
      (b.kind ≠ 0 → exec (.empWriteData rn emp ch) s = .next s) ∧
      (b.kind = 0 → q.cur < 2 ^ 57 →
        (∀ f, translate s.mem (s.rgXlate r) q.cur .write = .error f → exec (.empWriteData rn emp ch) s = .next (fault q.next f true q.cur s)) ∧
        (∀ pa at_ y, translate s.mem (s.rgXlate r) q.cur .write = .ok (pa, at_) → s.makeShadows [(q.cur, pa)] rn = some y →
          (∀ no, s.rgDenied rn q.cur 64 true = some no → ∃ z : State, exec (.empWriteData rn emp ch) s = .next z ∧ (z.port k).reqF = rest ∧
            z = { s.rgPriv rn 2 (emp + ch * 512) q.next no true with ports := z.ports }) ∧
          (s.rgDenied rn q.cur 64 true = none →
          ∃ z : State, exec (.empWriteData rn emp ch) s = .next z ∧ z = { y with mem := z.mem, ports := z.ports, used := z.used, lostPeriods := z.lostPeriods } ∧
            z.mem = (List.range 16).foldl (fun m l => if b.valid.getLsbD l then m.writeN (y.shade rn pa + 4 * l) 4 (lane b.lanes l).toNat else m) y.mem ∧
            (z.port k).reqF = rest ∧ (q.next + 1 = q.count → (z.port k).wr = none) ∧
            (q.next + 1 ≠ q.count → (z.port k).wr = some { q with next := q.next + 1, cur := q.cur + 64 }))))) ∧
    (∀ b rest, s.isHeld r.part (.port rn emp ch) = false → p.linkIn = none → p.linkOut = none → p.reqF = b :: rest →
      (2 ≤ b.kind.toNat → b.kind.toNat ≤ 4 → p.cur = none → p.wr = none → p.reply = [] → p.marks = [] → s.rowOpen rn emp ch = false →
        exec (.empMarkerForward rn emp ch) s = .next (s.setPort k { p with
          reqF := rest, reply := if (s.attachOf r emp ch 0).isSome then [(r.incarn, b)] else []
          barrOut := p.barrOut || b.kind == 3, snuffOut := p.snuffOut || b.kind == 4 })) ∧
      (b.kind.toNat < 2 ∨ 4 < b.kind.toNat ∨ p.cur ≠ none ∨ p.wr ≠ none ∨ p.reply ≠ [] ∨ p.marks ≠ [] ∨ s.rowOpen rn emp ch = true →
        exec (.empMarkerForward rn emp ch) s = .next s)) ∧
    (∀ inc b rest, p.linkIn = none → p.linkOut = none → p.reply = (inc, b) :: rest →
      let left (y : State) : State := y.modPort k (fun x => { x with reply := rest })
      (inc ≠ r.incarn → exec (.empReply rn emp ch) s = .next (left (s.errCount r.part 0))) ∧
      (inc = r.incarn → s.attachOf r emp ch 0 = none → exec (.empReply rn emp ch) s = .next (left s)) ∧
      (∀ a, inc = r.incarn → s.attachOf r emp ch 0 = some a →
        (s.launchBeat rn r a.tile (4 + a.a) b = none → exec (.empReply rn emp ch) s = .next s) ∧
        (∀ y, s.launchBeat rn r a.tile (4 + a.a) b = some y → exec (.empReply rn emp ch) s = .next (left y))))) ∧
  (∀ (s : State) (stack eng : Nat), (s.die stack).engines.find eng = none → exec (.indirectStreamRow stack eng) s = .next s) ∧
  (∀ (s : State) (stack eng : Nat) (i : IStream), (s.die stack).engines.find eng = some i →
    let b := i.block
    let step := exec (.indirectStreamRow stack eng) s
    let ended (y : State) : State := y.setDie stack (match (y.die stack).queue with
      | [] => { y.die stack with engines := (y.die stack).engines.del eng }
      | j :: rest => { engines := (y.die stack).engines.put eng j, queue := rest })
    (s.region? i.rn = none → step = .next (ended s)) ∧
    (∀ r, s.region? i.rn = some r →
      (r.incarn ≠ i.incarn → step = .next (ended s)) ∧
      (r.incarn = i.incarn →
        (s.attachOf r (fieldAt b 14 2 % 512) (fieldAt b 14 2 / 512 % 4) 0 = none → step = .next (ended s)) ∧
        (∀ a, s.attachOf r (fieldAt b 14 2 % 512) (fieldAt b 14 2 / 512 % 4) 0 = some a →
          let k := a.key i.rn
          let p := s.port k
          let idx := fieldAt b 0 8 + 4 * 2 ^ fieldAt b 12 1 * i.next
          ((r.active = false ∧ (r.state ≠ .freezing ∨ i.row = none)) ∨ p.linkIn ≠ none ∨ p.linkOut ≠ none ∨ s.isHeld r.part (.istrm stack eng) = true ∨
            32 ≤ p.reply.length → step = .next s) ∧
          (i.row = none → p.snuff = true ∨ p.cur ≠ none ∨ p.wait = true → step = .next s) ∧
          (i.row = none → i.stuck = false → s.rowOpen i.rn (fieldAt b 14 2 % 512) (fieldAt b 14 2 / 512 % 4) = true → step = .next s) ∧
          (r.active = true → p.linkIn = none → p.linkOut = none → s.isHeld r.part (.istrm stack eng) = false → p.snuff = false → p.cur = none → p.wait = false → p.reply.length < 32 → i.row = none →
          s.rowOpen i.rn (fieldAt b 14 2 % 512) (fieldAt b 14 2 / 512 % 4) = false →
          (i.next = fieldAt b 8 4 → step = .next (ended (if (fieldAt b 13 1).testBit 1 then s.inject i.rn r a 2 else s))) ∧
          (∀ no, i.next ≠ fieldAt b 8 4 → p.marks = [] → s.rgDenied i.rn idx (4 * 2 ^ fieldAt b 12 1) false = some no → ∃ z : State, step = .next z ∧
            z = { s.rgPriv i.rn 3 (stack + 16 * eng) i.next no false with ports := z.ports, dies := z.dies } ∧ (z.port k).reply = p.reply ∧
            (z.die stack).engines.find eng = some { i with next := i.next + 1, stuck := false }) ∧
          (∀ bs pa at_, i.next ≠ fieldAt b 8 4 → (fieldAt b 13 1).testBit 0 = false → fieldAt b 32 4 = 64 →
            s.rgDenied i.rn idx (4 * 2 ^ fieldAt b 12 1) false = none →
            s.rread i.rn idx (4 * 2 ^ fieldAt b 12 1) = .ok bs →
            (let va := (fieldAt b 16 8 + leNat bs * fieldAt b 24 8) % 2 ^ 64
             va < 2 ^ 57 → va % 64 = 0 → p.marks = [] → translate s.mem (s.rgXlate r) va .read = .ok (pa, at_) → s.rgDenied i.rn va 64 false = none →
             ∃ z : State, step = .next z ∧ z = { s with ports := z.ports, dies := z.dies, used := z.used, lostPeriods := z.lostPeriods } ∧ z.region? i.rn = some r ∧
               (z.port k).reply = p.reply ++ [(r.incarn, dataBeat p.round (w (fieldAt b 36 4 + i.next)) 0xFFFF (lanesOfBytes (s.mem.read (r.shadowed pa) 64)))] ∧
               (z.die stack).engines.find eng = some { i with next := i.next + 1, stuck := false }))))))))

/-! ### The trim engine, faults and part failures (R15, R322-R331, R405-R407, R422-R427, R433-R436) -/

/-- Glow updates (R324): the first of an element's queue is dropped and counted for a stale handle, a granule that is no ATTN page or a slot at
LIVE or above; a page fault, or a page that breaks R113, withholds it; else its weight in Q8.24 is added to the counter, clamped, with CSAT where it was.
The layout of an ATTN table's entries and the fault of a page that breaks R113 are the model's choices (notes/assumptions 32, 44). -/
def Obligations.GlowUpdatesApply : Prop :=
  (∀ (s : State) (tile : Nat), (s.tile tile).glow = [] → exec (.glowUpdateApply tile) s = .next s) ∧
  (∀ (s : State) (tile rn : Nat) (r : Region) (g : Glow) (rest : List Glow), s.ownerOf tile = some (rn, r) → (s.tile tile).glow = g :: rest →
    let step := exec (.glowUpdateApply tile) s
    let done (y : State) : State := y.modTile tile (fun t => { t with glow := rest })
    (r.active = false ∨ s.isHeld r.part (.glow tile) = true → step = .next s) ∧
    (r.active = true → s.isHeld r.part (.glow tile) = false →
      (s.attnEntry r.part g.handle.toNat = none → step = .next (done (s.attnCount r.part 0))) ∧
      (∀ key val, s.attnEntry r.part g.handle.toNat = some (key, val) →
        (∀ f, translate s.mem (s.rgXlate r) key .atomic = .error f → step = .next (s.withholdEngine r.part rn (.glow tile) f true key none)) ∧
        (∀ pa fmt, translate s.mem (s.rgXlate r) key .atomic = .ok (pa, fmt) →
          let tail := s.mem.read (pa + 63840) 8
          (fmt ≠ 6 → step = .next (done (s.attnCount r.part 0))) ∧
          (fmt = 6 → attnTailOk tail = false →
            step = .next (s.withholdEngine r.part rn (.glow tile) { kind := .format, stage := 1, ga := 0 } true key (stackAt pa))) ∧
          (fmt = 6 → attnTailOk tail = true → fieldAt tail 0 2 ≤ g.slot.toNat → step = .next (done (s.attnCount r.part 0))) ∧
          (fmt = 6 → attnTailOk tail = true → g.slot.toNat < fieldAt tail 0 2 →
            let counted (y : State) : State := if (glowAddend g.weight).2 then y.attnCount r.part 4 else y
            ∃ z : State, step = .next z ∧ z = { s with mem := z.mem, tiles := z.tiles, used := z.used, lostPeriods := z.lostPeriods } ∧ (z.tile tile).glow = rest ∧
              (let at_ := pa + 62880 + 4 * g.slot.toNat
               let m := (counted s).mem
               let sum := m.readN at_ 4 + (glowAddend g.weight).1
               let m' := m.writeN at_ 4 (min sum 0xFFFFFFFF)
               z.mem = if 0xFFFFFFFF < sum then m'.put (pa + 63842) (m'.get (pa + 63842) ||| 2) else m')))))) ∧
  (glowAddend 0x7F800000 = (0xFFFFFFFF, false) ∧ glowAddend 0x3F800000 = (0x01000000, false) ∧ glowAddend 0x80000000 = (0, false) ∧
    glowAddend 0xBF800000 = (0, true) ∧ glowAddend 0x7FC00000 = (0, true))

/-- TRIM_POP and TRIM_EXECUTE (R129, R134, R326, R329-R331): a record is taken within the quota of trims, its command block read and checked and
its object requested once the trim engine of its stack is free; a granted command runs: the candidates dropped are those of least counter, ties to the lower position, or those under
the threshold; with a status it ends with nothing changed; a fault withholds it; a revocation or
the freeze limit ends it with the contents of its spares open; once nothing else pins a page that it frees, the commit is journalled and the
old pages are freed, its record carrying DATA_LOST where it read or wrote a lost granule; one whose result waits for its page writes it then. The sequencer's
TRIM pushes the record, and its register stays empty, or fills it with QFULL, BADREC or STALE (R229).
Which page of an in-place trim stays, what a trim that ends before its commit leaves in its spares, which stack's engine runs it and how an
uncorrectable error ends it are the model's readings (notes/assumptions 33, 14, 15, 30). -/
def Obligations.TrimRuns : Prop :=
  (∀ (s : State) (p q : Nat),
    let P := s.part p
    P.trims.find? (fun x => x.2.q == q && x.2.so.isNone && x.2.fail.isNone && x.2.ended.isNone) = none →
      (P.quota 11 ≤ P.trims.length → exec (.trimPop p q) s = .next s) ∧
      (P.trims.length < P.quota 11 → P.queues.find q = none → exec (.trimPop p q) s = .next s) ∧
      (∀ Q, P.trims.length < P.quota 11 → P.queues.find q = some Q →
        let popped := Q.pop (fun r => r.cont.kind == kTRIM) (fun _ => false)
        (popped = none → exec (.trimPop p q) s = .next s) ∧
        (∀ r n Q', popped = some (r, n, Q') →
          let i := P.trimNo
          let t : Trim := { q := q, cont := r.cont, num := r.trim, cmd := [], so := none, granted := false, fail := none, stack := none, ended := none }
          let y := s.modPart p (fun P => { P with queues := P.queues.put q Q', trimNo := i + 1, trims := P.trims.put i t })
          P.held.find? (fun h => h.who == .trim p i) = none →
          (∀ o f, vread s.mem (y.queueXlate p q) r.cont.code.toNat 64 = .error (o, f) →
            exec (.trimPop p q) s = .next (y.withholdEngine p 4096 (.trim p i) f false (r.cont.code.toNat + o) none)) ∧
          (∀ b, vread s.mem (y.queueXlate p q) r.cont.code.toNat 64 = .ok b →
            let c := trimCmd b
            let t := { t with cmd := b }
            let y := y.modPart p (fun P => { P with trims := P.trims.put i t })
            (trimCmdOk b = false → exec (.trimPop p q) s = .next (y.trimEnd p i t c.result eBADARG (trimWord0 eBADARG 0 0) 0)) ∧
            let k := y.trimStack p (y.queueXlate p q) c
            (trimCmdOk b = true → y.trimEngineBusy k.1 = true → exec (.trimPop p q) s = .next y) ∧
            (∀ hs, trimCmdOk b = true → y.trimEngineBusy k.1 = false → y.trimSpares p (y.queueXlate p q) c = .ok hs →
              let a := k.2.soAcq p c.so (.trim i) true false 0 (.trim i)
              let t := { t with so := some (w c.so), stack := some k.1 }
              (∀ e, a.1 = .err e → exec (.trimPop p q) s = .next (a.2.trimEnd p i t c.result e (trimWord0 e 0 0) 0)) ∧
              (a.1 = .queued → exec (.trimPop p q) s = .next (a.2.modPart p (fun P => { P with trims := P.trims.put i t }))) ∧
              (a.1 = .granted → exec (.trimPop p q) s = .next (a.2.modPart p (fun P => { P with trims := P.trims.put i { t with granted := true } })))))))) ∧
  (∀ (s : State) (p i : Nat), (s.part p).trims.find i = none → exec (.trimExecute p i) s = .next s) ∧
  (∀ (s : State) (p i : Nat) (t : Trim), (s.part p).trims.find i = some t →
    let c := trimCmd t.cmd
    let ends (y : State) (code : Nat) : Host.Outcome State Fault Refusal := .next (y.trimEnd p i t c.result code (trimWord0 code 0 0) 0)
    let held : Prop := hSlot (t.so.getD 0).toNat ∈ (s.part p).heldBy (.trim i)
    (∀ st w0 w1, t.ended = some (st, w0, w1) → (s.part p).held.find? (fun h => h.who == .trim p i) = none → c.result ≠ 0 → c.result % 16 = 0 →
      (∀ m, vwrite s.mem (s.queueXlate p t.q) c.result (leBytes w0.toNat 8 ++ leBytes w1.toNat 8) = .ok m →
        exec (.trimExecute p i) s = .next ({ s with mem := m }.trimLeave p i t st w0)) ∧
      (∀ o f, vwrite s.mem (s.queueXlate p t.q) c.result (leBytes w0.toNat 8 ++ leBytes w1.toNat 8) = .error (o, f) → ∃ y : State,
        exec (.trimExecute p i) s = .next (y.withholdEngine p 4096 (.trim p i) f true (c.result + o) t.stack) ∧ y = { s with parts := y.parts })) ∧
    (t.ended = none →
    (∀ e, t.fail = some e → exec (.trimExecute p i) s = ends s e) ∧
    (t.fail = none → t.granted = false → exec (.trimExecute p i) s = .next s) ∧
    (t.fail = none → t.granted = true → ¬ held → exec (.trimExecute p i) s = ends (s.loseSpares p t) eREVOKED) ∧
    (∀ h, t.fail = none → t.granted = true → held → (s.part p).held.find? (fun h => h.who == .trim p i) = some h →
      ((s.part p).freezeLimit ≤ h.age → exec (.trimExecute p i) s = ends (s.loseSpares p t) ePGFLT) ∧ (h.age < (s.part p).freezeLimit → exec (.trimExecute p i) s = .next s)) ∧
    (t.fail = none → t.granted = true → held → (s.part p).held.find? (fun h => h.who == .trim p i) = none →
      (∀ e, s.trimRun p (s.queueXlate p t.q) c = .error (.status e) → exec (.trimExecute p i) s = ends s e) ∧
      (∀ f wr va, s.trimRun p (s.queueXlate p t.q) c = .error (.fault f wr va) →
        exec (.trimExecute p i) s = .next (s.withholdEngine p 4096 (.trim p i) f wr va t.stack)) ∧
      (∀ r, s.trimRun p (s.queueXlate p t.q) c = .ok r → (∃ h ∈ r.freed, s.attnPinned p i h = true) → exec (.trimExecute p i) s = .next s) ∧
      (∀ r, s.trimRun p (s.queueXlate p t.q) c = .ok r → (∀ h ∈ r.freed, s.attnPinned p i h = false) →
        ∃ y : State, y = { s with mem := r.mem, journal := y.journal } ∧
          y.journal = s.journal ++ (match r.commit with | some (table, gen) => [.trim p (w table) gen] | none => []) ∧
          exec (.trimExecute p i) s = .next (State.trimEndAs (r.freed.foldl (fun z h => z.freeAttn p (s.queueXlate p t.q) h) y) p i t c.result
            (if (s.trimReads p t ++ s.trimWrites p t r).any (fun x => s.granLost (x.1 / 65536)) then stDATALOST else stOK)
            (trimWord0 0 r.kept r.dropped) (trimWord1 r.used r.freed.length)))))) ∧
  (∀ (c : TrimCmd) (ts : List Tok),
    let cand := (ts.drop c.sink).take (ts.length - c.sink - c.recent)
    let gone := trimDropped c ts
    (∀ x ∈ gone, x ∈ cand) ∧
    (c.mode = 0 → gone.length = min (ts.length - c.limit) cand.length ∧
      ∀ x ∈ gone, ∀ y ∈ cand, y ∉ gone → x.ctr < y.ctr ∨ (x.ctr = y.ctr ∧ x.pos ≤ y.pos)) ∧
    (c.mode ≠ 0 → ∀ x, x ∈ gone ↔ x ∈ cand ∧ x.ctr < c.limit)) ∧
  (∀ (s : State) (d : Reg) (a b : Src) (r : Region), s.region? s.curSeq = some r → r.mayIssue [a, b] (some d) →
    s.trimPushed r.period r.pushIdx = none → s.journalled r.period r.pushIdx = none →
    let qh := (r.seq.get b.reg).toNat
    let P := s.part r.part
    let prio := match r.run with | some c => c.prio | none => 0
    let c : Cont := { code := r.seq.get a.reg, frame := 0, join := 0, flags := BitVec.ofNat 64 (prio + 4 * 2) }
    let moved (q : Seq) : Region := { r with pushIdx := r.pushIdx + 1, seq := { q with pc := r.seq.pc + 4 } }
    let token (st : Nat) : Prop := exec (.trim d a b) s = .next { s.setRegion s.curSeq (moved (r.seq.set d (BitVec.ofNat 64 (st * 2 ^ 48)))) with
      journal := s.journal ++ [.result r.period r.pushIdx (BitVec.ofNat 64 (st * 2 ^ 48))] }
    (P.current tblQueue qh = false → token 1) ∧
    (P.current tblQueue qh = true → s.recOk r.part c = false → token 3) ∧
    (P.current tblQueue qh = true → s.recOk r.part c = true → P.room (hSlot qh - 1) prio 1 0 = false → token 2) ∧
    (∀ Q, P.current tblQueue qh = true → s.recOk r.part c = true → P.room (hSlot qh - 1) prio 1 0 = true → P.queues.find (hSlot qh - 1) = some Q →
      let c := c.tagged r.iidx 0
      let Q' := Q.add { cont := c, rsv := false, period := none, trim := some P.trimNo }
      let y := s.setPart r.part { P with trimNo := P.trimNo + 1, queues := P.queues.put (hSlot qh - 1) Q' }
      exec (.trim d a b) s = .next { y.setRegion s.curSeq (moved { r.seq.clear d with trims := r.seq.trims ++ [(P.trimNo, d)] }) with
        journal := s.journal ++ [.push r.part (hSlot qh - 1) c (some (r.period, r.pushIdx)), .trimPush r.period r.pushIdx P.trimNo] }))

/-- Fault records and errors (R407, R405, R433-R436, R426): the oldest waiting record takes a free entry of the partition's fault ring and raises
its interrupt; a parity error or an uncorrectable one freezes the region that owns the tile with WHY 4, or is counted; a word of memory that
cannot be read becomes zero, but for one of a service's call journal, which is mirrored (R429), the trims that meet it end, and the periods that used it lose data; a correctable one is only counted. -/
def Obligations.FaultRecordsAndErrors : Prop :=
  (∀ (s : State) (p : Nat),
    let P := s.part p
    (P.desc = none ∨ P.fqWait = [] → exec (.faultRecordWrite p) s = .next s) ∧
    (∀ d r rest, P.desc = some d → P.fqWait = r :: rest →
      let size := 2 ^ d.fqlog
      let used := (P.fqTail + size - P.fqHead % size) % size
      (size - 1 ≤ used → exec (.faultRecordWrite p) s = .next s) ∧
      (used < size - 1 → ∃ z : State, exec (.faultRecordWrite p) s = .next z ∧ z = { s with mem := z.mem, parts := z.parts } ∧
        z.mem = (s.gwrite p (d.fqbase + 64 * P.fqTail) (r.bytes P.fqPhase 0)).mem ∧
        z.part p = { P with fqWait := rest, fqTail := (P.fqTail + 1) % size, irq := true
                            fqPhase := if (P.fqTail + 1) % size = 0 then !P.fqPhase else P.fqPhase } ∧
        (∀ n, n ≠ p → z.part n = s.part n)))) ∧
  (∀ (s : State) (tile : Nat),
    let ones (x : BitVec 580) (g : Nat) : Nat := ((List.range 580).filter (fun i => x.getLsbD i &&
      (decide (i < 512 ∧ i / 64 = g) || decide (512 ≤ i ∧ i < 572 ∧ i % 8 = g) || i == 572 + g))).length
    (∀ x : BitVec 580, (∀ g < 8, ones x g % 2 = 0) → exec (.parityError (.fifo tile x)) s = .next s) ∧
    (∀ site, site = .store tile ∨ (∃ x : BitVec 580, (∃ g < 8, ones x g % 2 = 1) ∧ site = .fifo tile x) →
      (s.ownerOf tile = none → exec (.parityError site) s = .next (s.modCount 3)) ∧
      (∀ rn g, s.ownerOf tile = some (rn, g) → exec (.parityError site) s = .next (s.faultFreeze rn 4
        { FaultRec.of fPARITY 0 with place := w ((tileX tile - g.ocol) + 65536 * (tileY tile - g.orow)) })))) ∧
  (∀ (s : State) (users : List Nat) (tile off pa : Nat),
    let zeroed (y : State) : State := if y.inCallJournal pa then y else { y with
      mem := y.mem.zero (pa / 32 * 32) (pa / 32 * 32 + 32), lostGran := if y.lostGran.contains (pa / 65536) then y.lostGran else y.lostGran ++ [pa / 65536] }
    let z := s.failTrims pa
    let uemem : FaultRec := { FaultRec.of fUEMEM 4 with aux := w pa }
    let all := (z.usersOf (fun g => g == pa / 65536)).filter (fun rn => !users.contains rn) ++ users
    let periods := all.filterMap (fun rn => match z.region? rn with | some r => if r.run.isSome then some r.period else none | none => none)
    let hit := exec (.memoryEccError (.memory pa) false users) s
    (∀ p, s.paOwner pa = some p → exec (.memoryEccError (.memory pa) true users) s = .next (s.errCount p 4)) ∧
    (s.paOwner pa = none → exec (.memoryEccError (.memory pa) true users) s = .next s) ∧
    (∀ rn g, s.ownerOf tile = some (rn, g) → exec (.memoryEccError (.scratchpad tile off) true users) s = .next (s.errCount g.part 4) ∧
      exec (.memoryEccError (.scratchpad tile off) false users) s = .next (s.faultFreeze rn 4 (FaultRec.of fUEMEM 4)) ∧
      exec (.patrolScrub (.scratchpad tile off) .doubleBit) s = .next (s.faultFreeze rn 4 (FaultRec.of fUEMEM 4))) ∧
    (s.ownerOf tile = none → exec (.memoryEccError (.scratchpad tile off) true users) s = .next s ∧
      exec (.memoryEccError (.scratchpad tile off) false users) s = .next (s.modCount 3)) ∧
    ((∀ x ∈ s.parts, ∀ y ∈ x.2.trims, y.2.granted = false) → z = s) ∧
    ((∀ rn ∈ all, z.region? rn ≠ none) → all ≠ [] →
      hit = .next (all.foldl (fun y rn => y.faultFreeze rn 4 uemem) (zeroed { z with lostPeriods := z.lostPeriods ++ periods }))) ∧
    ((∀ rn ∈ all, z.region? rn = none) →
      (∀ p, (zeroed z).paOwner pa = some p → hit = .next ((zeroed z).post p true false uemem)) ∧
      ((zeroed z).paOwner pa = none → hit = .next ((zeroed z).modCount 3))) ∧
    exec (.patrolScrub (.memory pa) .clean) s = .next s ∧
    exec (.patrolScrub (.memory pa) .singleBit) s = .next (s.modCount 2) ∧
    exec (.patrolScrub (.memory pa) .doubleBit) s = exec (.memoryEccError (.memory pa) false []) s)

/-- A part failure (R406, R423-R427): the part is out of service for this boot; words of a failed pseudo-channel that cannot be read become zero and the
periods that used it or a granule it held lose data; each period not retired that used the part, journalled last on a region, is replayed: killed with a PARTFAIL record where it
runs, else pushed again; a failed core's LANTERN records are pushed again; work whose two journal copies are lost gets a PARTFAIL record and retires with
DATA_LOST. What a failed part is known to have lost, and the status of that work, are the model's readings (notes/assumptions 26). -/
def Obligations.PartFailures : Prop :=
  ∀ (s : State) (users lost : List Nat),
    let out (f : FailedPart) (y : State) : State := { y with failed := if s.failed.contains f then s.failed else s.failed ++ [f] }
    let replayed (us : List Nat) (y : State) : State := ((openPops y.journal).filter (y.usedBy us)).foldl State.replayPeriod y
    (∀ sq, exec (.partFailure (.sequencer sq) users lost) s = .next (replayed [sq] (out (.sequencer sq) s))) ∧
    (∀ rn, exec (.partFailure (.regionArea rn) users lost) s = .next (replayed [rn] (out (.regionArea rn) s))) ∧
    (∀ port lane, exec (.partFailure (.linkLane port lane) users lost) s = .next (replayed users (out (.linkLane port lane) s)) ∧
      exec (.partFailure (.seamLane port lane) users lost) s = .next (replayed users (out (.seamLane port lane) s))) ∧
    (∀ h, ∃ y : State, exec (.partFailure (.lanternCore h) users lost) s = .next (y.repush h) ∧ y = replayed [] (out (.lanternCore h) s)) ∧
    (∀ stack pc,
      let gone := lost.filter (fun pa => paDevice pa && !paLpddr pa && stackOf pa == stack && nbits pa 18 11 == pc)
      let o := out (.pseudoChannel stack pc) s
      let us := users ++ o.usersOf o.granLost
      let z := gone.foldl State.failTrims o
      ((∀ x ∈ s.parts, ∀ y ∈ x.2.trims, y.2.granted = false) → z = o) ∧
      let zeroed (y : State) (pa : Nat) : State := if y.inCallJournal pa then y else { y with
        mem := y.mem.zero (pa / 32 * 32) (pa / 32 * 32 + 32), lostGran := if y.lostGran.contains (pa / 65536) then y.lostGran else y.lostGran ++ [pa / 65536] }
      ∃ y : State, exec (.partFailure (.pseudoChannel stack pc) users lost) s = .next (replayed us y) ∧
      y = gone.foldl zeroed { z with lostPeriods := y.lostPeriods } ∧
      (∀ n, n ∈ y.lostPeriods ↔ n ∈ z.lostPeriods ∨ ∃ rn ∈ us, ∃ r, z.region? rn = some r ∧ r.run.isSome = true ∧ r.period = n)) ∧
    (∀ ns, let hit := (openPops s.journal).filter (fun x => ns.contains x.1)
      exec (.partFailure (.journalCopies ns) users lost) s = .next (hit.foldl State.reportLost (out (.journalCopies ns) s)) ∧
      ∀ n p q rn c (y : State),
        ((∀ x ∈ y.regions, x.2.run.isSome = true → x.2.period ≠ n) →
          y.reportLost (n, p, q, rn, c) = (State.post { y with journal := y.journal ++ [.retire n] } p true false (FaultRec.of fPARTFAIL 4)).retireJoin p
            (y.queueXlate p q) c.join.toNat 1 c.iidx) ∧
        (∀ m g, y.regions.find? (fun x => x.2.run.isSome && x.2.period == n) = some (m, g) →
          y.reportLost (n, p, q, rn, c) = (y.postRg p m true false (FaultRec.of fPARTFAIL 4)).kill m (some 1))) ∧
    (∀ n p q rn c (y : State),
      (∀ x ∈ y.regions, x.2.run.isSome = true → x.2.period ≠ n) →
      y.replayPeriod (n, p, q, rn, c) = y.pushOr p q (y.queueXlate p q) (if (y.commitImage n).isSome then resumeOf c else c) (some n)) ∧
    (∀ n p q rn c (y : State) m g, y.regions.find? (fun x => x.2.run.isSome && x.2.period == n) = some (m, g) →
      y.replayPeriod (n, p, q, rn, c) = (y.postRg p m true false (FaultRec.of fPARTFAIL 4)).kill m none)

/-! ### Services, the loader, boot, links and collectives (R178-R190, R428-R432, R450-R466) -/

/-- The services a device runs (R428-R432): a call is popped, journalled and run, or answered BADARG where its entry is not VALID, and its result
stands at its completion address; a storage call answers from the cache and the namespace; the mapper writes the stream and the result
header, a placement that its cache holds under the key with HIT; a watchdog that has run down leaves a WDOG record, in the hypervisor's queue where HVSVC is set, and restarts the core, its calls
each returned, replayed or failed with SVC_ABORTED by the STATE its journal entry has.
When a finished call gives its journal entry back and what a faulting service access leaves are the model's choice (notes/assumptions 37). -/
def Obligations.ServicesServe : Prop :=
  (∀ (s : State) (p : Nat) (x : Xlate) (c : Cont) (compl : Nat) (v : Dword),
    let ends (m : Memory) : Option State :=
      some (State.retireJoin { s with mem := m, journal := s.journal.eraseP (isCallPop p c) } p x c.join.toNat stOK c.iidx)
    (compl = 0 → s.svcAnswer p x c compl v = ends s.mem) ∧
    (∀ m, compl ≠ 0 → vwrite s.mem x compl (leBytes v.toNat 8) = .ok m → s.svcAnswer p x c compl v = ends m) ∧
    (∀ f, compl ≠ 0 → vwrite s.mem x compl (leBytes v.toNat 8) = .error f → s.svcAnswer p x c compl v = none)) ∧
  (∀ (s : State) (p svc h : Nat) (v : Dword),
    let e := s.svcEntry p svc
    let x := s.handleXlate p (svcQueue e)
    let step := exec (.serviceCall p svc h v) s
    let after (o : Option State) : Prop := (∀ z, o = some z → step = .next z) ∧ (o = none → step = .next s)
    (s.hartOut h = true ∨ (s.hart h).wait ≠ none → step = .next s) ∧
    (s.hartOut h = false → (s.hart h).wait = none →
      (∀ y rest, 2 ≤ svc → s.openCalls p svc = y :: rest →
        (fieldAt (s.callEntry p e y.1) 4 1 = 1 → step = .next (s.gwrite p (callAt e y.1 + 4) [2])) ∧
        (fieldAt (s.callEntry p e y.1) 4 1 ≠ 1 → after (s.finishCall p svc h e y.1 y.2 v))) ∧
      (svc < 2 ∨ s.openCalls p svc = [] →
        (s.popCall p h e = none → step = .next s) ∧
        (∀ c t, s.popCall p h e = some (c, t) →
          (s.callOf svc x c = none → step = .next s) ∧
          (∀ k, s.callOf svc x c = some k →
            (svcValid e = false → after (t.svcAnswer p x c k.compl (errWord eBADARG))) ∧
            (svcValid e = true → t.freeCall p e = none → step = .next s) ∧
            (∀ i, svcValid e = true → t.freeCall p e = some i →
              let y := (t.gwrite p (callAt e i) (callBytes k.num 1 k.arg 0 k.compl)).serve p svc h e (fun l => l ++ [(i, c)])
              (svc ≠ 1 ∨ (k.ok = true ∧ k.num ≤ 2) → step = .next y) ∧
              (svc = 1 → k.ok = false ∨ 2 < k.num → after (y.finishCall p svc h e i c (errWord eBADARG))))))))) ∧
  (∀ (s : State) (p h : Nat) (arg : Dword) (nvme : NvmeReply) (num i : Nat) (c : Cont) (b : List Byte), num ≤ 2 →
    let e := s.svcEntry p 1
    let x := s.handleXlate p (svcQueue e)
    let P := s.part p
    let step := if num = 0 then exec (.storageRead p h arg nvme) s else if num = 1 then exec (.storageWrite p h arg nvme) s
      else exec (.storagePersist p h arg nvme) s
    let after (o : Option State) : Prop := (∀ z, o = some z → step = .next z) ∧ (o = none → step = .next s)
    let code (n : Nat) : Dword := if n = 0 then 0 else errWord n
    (s.callFor p 1 h e num arg.toNat = none → step = .next s) ∧
    (∀ o f, s.callFor p 1 h e num arg.toNat = some (i, c) → vread s.mem x arg.toNat 64 = .error (o, f) →
      (f.kind = .page → step = .next s) ∧ (f.kind ≠ .page → after (s.finishCall p 1 h e i c (errWord ePGFLT)))) ∧
    (s.callFor p 1 h e num arg.toNat = some (i, c) → vread s.mem x arg.toNat 64 = .ok b →
      (s.storeArg p num b = none → after (s.finishCall p 1 h e i c (errWord eBADARG))) ∧
      (∀ a, s.storeArg p num b = some a →
        (num = 0 → P.allCached a = false → nvme.error = true → after (s.finishCall p 1 h e i c (errWord eIOERR))) ∧
        (num = 0 → P.allCached a = false → nvme.error = false → nvme.bytes.length ≠ a.nlb * a.size →
          step = .next (s.gwrite p (callAt e i + 4) [2])) ∧
        (num = 0 → P.allCached a = true ∨ (nvme.error = false ∧ nvme.bytes.length = a.nlb * a.size) → ∀ m,
          vwrite s.mem x a.buf (P.readBlocks a nvme.bytes) = .ok m → ∃ y : State, after (y.finishCall p 1 h e i c 0) ∧
            y = { s with mem := m, parts := y.parts } ∧
            (∀ k < a.nlb, ∃ z, (y.part p).cached a.ns (a.lba + k) = some z ∧ z.bytes = ((P.readBlocks a nvme.bytes).drop (k * a.size)).take a.size ∨
              (y.part p).cached a.ns (a.lba + k) = P.cached a.ns (a.lba + k) ∧ (P.cached a.ns (a.lba + k)).isSome = true)) ∧
        (num = 1 → ∀ bs, vread s.mem x a.buf (a.nlb * a.size) = .ok bs →
          ∃ y : State, after (y.finishCall p 1 h e i c (code (if a.durable ∧ nvme.error then eIOERR else 0))) ∧ y = { s with parts := y.parts } ∧
            (∀ k < a.nlb, (y.part p).cached a.ns (a.lba + k) =
              some { ns := a.ns, lba := a.lba + k, bytes := (bs.drop (k * a.size)).take a.size, durable := a.durable && !nvme.error })) ∧
        (num = 2 → nvme.error = true → after (s.finishCall p 1 h e i c (errWord eIOERR))) ∧
        (num = 2 → nvme.error = false → ∃ y : State, after (y.finishCall p 1 h e i c 0) ∧ y = { s with parts := y.parts } ∧
          (y.part p).cache = P.cache.map (fun z => if z.ns = a.ns then { z with durable := true } else z))))) ∧
  (∀ (s : State) (p h : Nat) (req : Dword) (i : Nat) (c : Cont) (b obj : List Byte) (m : Memory),
    let e := s.svcEntry p 0
    let x := s.handleXlate p (svcQueue e)
    let r := s.serveRequest p b obj
    (s.callFor p 0 h e 0 req.toNat = none → exec (.mapperPlace p h req) s = .next s) ∧
    (s.callFor p 0 h e 0 req.toNat = some (i, c) → vread s.mem x req.toNat 64 = .ok b →
      (reqOk b = false → r.1 = placeHeader 2 false 0 s.dmver.toNat (List.replicate 32 0) ∧ r.2.1 = []) ∧
      (reqOk b = true → objCheck obj ≠ none → r.1 = placeHeader 1 false 0 s.dmver.toNat (List.replicate 32 0) ∧ r.2.1 = []) ∧
      (∀ k, reqOk b = true → objCheck obj = none →
        s.place p obj (fieldAt b 8 2) (fieldAt b 10 2) (fieldAt b 12 2) (fieldAt b 14 2) ((fieldAt b 16 4).testBit 0) ((fieldAt b 16 4).testBit 1) = .error k →
        r.1 = placeHeader k false 0 s.dmver.toNat (s.placeKey (objCanon obj) (fieldAt b 8 2) (fieldAt b 10 2) (fieldAt b 12 2) (fieldAt b 14 2)) ∧
          r.2.1 = []) ∧
      (∀ pl, reqOk b = true → objCheck obj = none → (fieldAt b 16 4).testBit 0 = false → 64 + 4 * pl.words.length ≤ fieldAt b 32 4 →
        (s.part p).placed.find? (fun z => z.key == s.placeKey (objCanon obj) (fieldAt b 8 2) (fieldAt b 10 2) (fieldAt b 12 2) (fieldAt b 14 2)) = some pl →
        r.1 = placeHeader 0 true pl.words.length s.dmver.toNat pl.key ∧ r.2.1 = wordBytes pl.words ∧ r.2.2 = some pl) ∧
      ((reqOk b = true → readObject s.mem x (fieldAt b 0 8) = .ok obj) → (reqOk b = false → obj = []) →
        vwrite s.mem x (fieldAt b 24 8) (r.1 ++ r.2.1) = .ok m →
        (let y := match r.2.2 with | some pl => State.cachePlace { s with mem := m } p pl | none => { s with mem := m }
         (∀ z, y.finishCall p 0 h e i c 0 = some z → exec (.mapperPlace p h req) s = .next z) ∧
         (y.finishCall p 0 h e i c 0 = none → exec (.mapperPlace p h req) s = .next s))))) ∧
  (∀ (s : State) (p svc : Nat),
    ((s.part p).svcs.find svc = none → exec (.serviceWatchdogExpiry p svc) s = .next s) ∧
    (∀ v, (s.part p).svcs.find svc = some v →
      (v.left ≠ 0 → exec (.serviceWatchdogExpiry p svc) s = .next s) ∧
      (v.left = 0 →
        let e := s.svcEntry p svc
        let hv := (fieldAt e 0 4).testBit 1
        let wdog : FaultRec := { FaultRec.of fWDOG 4 with fid := (s.part p).nextFid, part := p }
        (∃ z : State, exec (.serviceWatchdogExpiry p svc) s = .next (v.calls.foldl (fun y c => y.restartCall p svc v.hart e c) z) ∧
          (z.part p).fqWait = (s.part p).fqWait ++ (if hv then [] else [wdog]) ∧ z.hvq = s.hvq ++ (if hv then [wdog] else []) ∧
          (z.hart v.hart).pc = w (fieldAt e 8 8) ∧ (∀ n, (z.hart v.hart).get n = 0) ∧ (z.hart v.hart).mode = (s.hart v.hart).mode ∧
          (z.hart v.hart).wait = none ∧ (∀ h, h ≠ v.hart → z.hart h = s.hart h) ∧ (z.part p).cache = (s.part p).cache ∧
          ((z.part p).svcs.find svc).map (fun y => (y.hart, y.left, y.calls)) =
            some (v.hart, (if fieldAt e 4 4 = 0 then 20 else fieldAt e 4 4) * 2100000, v.calls)) ∧
        ∀ (y : State) (c : Nat × Cont),
          let b := y.callEntry p e c.1
          let num := fieldAt b 0 4
          let Again : Prop := (svc = 1 ∧ (num = 0 ∨ num = 2)) ∨ (num < 64 ∧ (fieldAt e 24 8).testBit num = true)
          let restarted := y.restartCall p svc v.hart e c
          let after (v' : Dword) : State := (y.finishCall p svc v.hart e c.1 c.2 v').getD y
          (fieldAt b 4 1 = 3 → restarted = after (w (fieldAt b 16 8))) ∧
          (fieldAt b 4 1 = 2 → Again → restarted = y.gwrite p (callAt e c.1 + 4) [1]) ∧
          (fieldAt b 4 1 = 2 → ¬ Again → restarted = after (errWord eABORTED)) ∧
          (fieldAt b 4 1 < 2 → restarted = y))))

/-- The loader, boot images and leaders (R190, R460, R461, R464-R466): an object is refused by the first check it fails, or placed, kept and
installed; an image is rejected with the code of the first failure and its window zeroed, or starts the firmware, or makes the hypervisor
ready; a follower whose load times out stands for the next epoch; of two leaders the one of lower precedence cedes, and a follower that it
had loaded is reset to be loaded again.
The registers the loader returns in, its synchronous mapper and where the firmware is put are the model's choice (notes/assumptions 7, 38, 40). -/
def Obligations.LoadsAndBoot : Prop :=
  (∀ (s : State) (rn h : Nat) (obj buf : Dword) (r : Region) (b : List Byte),
    let y := s.hart h
    let step := exec (.loaderLoad rn h obj buf) s
    s.region? rn = some r → y.wait = none → s.hartOut h = false → 1 ≤ y.mode.level → r.part = y.actPart → r.freeing = false →
    r.loadingFrom buf.toNat = false → r.state = .claimed ∨ r.state = .ready → buf.toNat % 64 = 0 →
    (∀ o f, readObject s.mem y.xlate obj.toNat = .error (o, f) → step = .next (s.hartFault h f false false (obj.toNat + o))) ∧
    (readObject s.mem y.xlate obj.toNat = .ok b →
      let returned (code detail : Nat) : State := s.setHart h ((y.set 10 (w code)).set 11 (w detail))
      (∀ o, objCheck b = some o → step = .next (returned 1 o)) ∧
      (objCheck b = none → (fieldAt b 6 2).testBit 0 = false → ∀ d, (s.part r.part).desc = some d → d.reqsig = true → step = .next (returned 2 0)) ∧
      (objCheck b = none → (fieldAt b 6 2).testBit 0 = true → s.trustedKey r.part (((objPart b 15).getD []).take 8) = none → step = .next (returned 3 0)) ∧
      (∀ key, objCheck b = none → (fieldAt b 6 2).testBit 0 = true → s.trustedKey r.part (((objPart b 15).getD []).take 8) = some key →
        sigFailures b key ≠ 0 → step = .next (returned 4 (sigFailures b key))) ∧
      (s.loadRefusal r.part b = none →
        let placed := s.place r.part b r.width r.height r.ocol r.orow false ((fieldAt b 6 2).testBit 1)
        (∀ c, placed = .error c → step = .next (returned 5 c)) ∧
        (∀ hit pl, placed = .ok (hit, pl) → step = .next ((s.cachePlace r.part pl).loadInstall rn h r y.xlate b buf.toNat pl.words))))) ∧
  (∀ (s : State) (win : Nat) (img : BootImage),
    let image := img.bytes
    let step := exec (.firmwareImageVerify win img) s
    let window (y : State) (b : List Byte) : State := { y with staging := y.staging.set win b, lastWin := win }
    let rejected (c : Nat) : Host.Outcome State Fault Refusal := .next { window s [] with bootstat := w c }
    let plen := fieldAt image 12 4
    let keys : Prop := leBytes (Config.sha384 ((image.drop (64 + plen)).take 97)).toNat 48 = s.fuses.keyHash ∧
      leBytes (Config.sha256 ((image.drop (64 + plen + 97)).take 56)).toNat 32 = s.fuses.lmsHash
    (s.firmware ≠ none ∨ s.bootstat = 1 → step = .next (window s image)) ∧
    (s.firmware = none → s.bootstat ≠ 1 →
      (headerOk image 0 = false → step = rejected 2) ∧
      (headerOk image 0 = true → ¬ keys → step = rejected 3) ∧
      (headerOk image 0 = true → keys → fieldAt image 8 4 < s.fuses.minSvn → step = rejected 4) ∧
      (headerOk image 0 = true → keys → s.fuses.minSvn ≤ fieldAt image 8 4 → imageSigned image = false → step = rejected 5) ∧
      (headerOk image 0 = true → keys → s.fuses.minSvn ≤ fieldAt image 8 4 → imageSigned image = true →
        ∃ z : State, step = .next z ∧ z.firmware = some image ∧ z.selfOk = img.passed ∧ z.outCores = img.badCores ∧ z.staging = s.staging.set win image ∧
          z.mem = s.mem.write Config.firmwareBase.toNat ((image.drop 64).take plen) ∧
          (∀ n < Config.numHarts, z.hartOut n = false → (z.hart n).pc = Config.firmwareBase + w (fieldAt image 16 8) ∧ (z.hart n).mode = Hart.reset.mode) ∧
          (∀ n, z.hartOut n = true → z.hart n = s.hart n) ∧
          (img.passed = false → z.best = s.best ∧ z.leader = s.leader) ∧
          z.epoch = { epoch := s.epoch.epoch, id := s.fuses.chipId }))) ∧
  (∀ (s : State) (win epoch : Nat) (image : List Byte) (id : Dword),
    let step := exec (.hypervisorImageLoad win image epoch id) s
    let window (b : List Byte) : State := { s with staging := s.staging.set win b, lastWin := win }
    let ours : Prop := s.leader = true ∨ s.best = some { epoch := epoch, id := id }
    (s.firmware = none ∨ s.hvImage ≠ none ∨ ¬ ours → step = .next s) ∧
    (s.firmware ≠ none → s.hvImage = none → ours →
      (∀ c, s.imageFault image 1 = some c → step = .next { window [] with bootstat := w c }) ∧
      (s.imageFault image 1 = none → step = .next { window image with hvImage := some image, bootstat := 0x80, loadedBy := some (if s.leader then s.fuses.chipId else id) }))) ∧
  (∀ (s : State),
    (s.best = none ∨ s.leader = true ∨ s.hvImage ≠ none → exec .followerLoadTimeout s = .next s) ∧
    (∀ e, s.best = some e → s.leader = false → s.hvImage = none → ∃ z : State, exec .followerLoadTimeout s = .next z ∧
      z.epoch = { epoch := e.epoch + 1, id := s.fuses.chipId } ∧ z.staging = s.staging.set s.lastWin [] ∧
      (s.selfOk = true → z.best = some { epoch := e.epoch + 1, id := s.fuses.chipId }))) ∧
  (∀ (s : State) (epoch : Nat) (id : Dword),
    let first (a b : Epoch) : Prop := b.epoch < a.epoch ∨ (a.epoch = b.epoch ∧ a.id.toNat < b.id.toNat)
    let other : Epoch := { epoch := epoch, id := id }
    (s.leader = true → first s.epoch other → ∃ z : State, exec (.leaderHeal epoch id) s = .next z ∧
      z.epoch = { epoch := max s.epoch.epoch epoch + 1, id := s.fuses.chipId }) ∧
    (s.leader = true → ¬ first s.epoch other → ∃ z : State, exec (.leaderHeal epoch id) s = .next z ∧ z.best = some other ∧ z.epoch = s.epoch) ∧
    ((s.leader = false → (∃ l, s.loadedBy = some l ∧ l ≠ id) → (∀ b, s.best = some b → first other b ∨ b = other) → ∃ z : State, exec (.leaderHeal epoch id) s = .next z ∧ z.best = some other ∧
        z.hvImage = none ∧ z.firmware = none ∧ z.mem = s.mem ∧ z.staging = s.staging) ∧
     (s.leader = false → s.loadedBy = none ∨ s.loadedBy = some id ∨ (∃ b, s.best = some b ∧ ¬ first other b ∧ b ≠ other) →
        exec (.leaderHeal epoch id) s = .next s)))

/-- Akend flits (R451-R453, R459): on a port that is down nothing comes; a wrong CRC asks for a retry, and the sixteenth in a row retires a lane;
a SEQ not expected asks for one; else the flit is taken with its ACK and credit, and flits that wait go on while the retry buffer has room: data lands
in its slot, a retry request sends every flit of the retry buffer again, an election flit is a pair or an acknowledgement seen, a reserved
type is dropped and counted. A flit sent takes the next SEQ and stays in the retry buffer.
The layout of an election payload, the slot a beat lands in, the credit granted, that a retry request and an idle flit take no SEQ, and the lane a
wrong CRC lies with are the model's choice (notes/assumptions 39, 47). -/
def Obligations.AkendFlits : Prop :=
  (∀ (s : State) (port : Nat) (f : List Byte),
    let a := s.ak port
    let seq := fieldAt f 0 2
    let ack := fieldAt f 2 2
    let type := fieldAt f 4 1
    let credit := fieldAt f 8 4
    let slot := fieldAt f 6 2 % 1024
    let good : Prop := fieldAt f 252 4 = (crc32 (f.take 252)).toNat
    let kinds : List (Nat × Instr) := [(0, .akendDataFlit port f), (1, .akendCreditFlit port f), (2, .akendRetryRequest port f),
      (3, .akendElectionFlit port f), (4, .akendIdleFlit port f)]
    let kept (x : List Byte) : Bool := decide (0 < (fieldAt x 0 2 + 65536 - ack) % 65536) && decide ((fieldAt x 0 2 + 65536 - ack) % 65536 < 32768)
    let acked (rx : Half) : Akend := a.pend.foldl Akend.send { a with rxSeq := rx, consec := [], retry := a.retry.filter kept, pend := [] }
    let next := acked (a.rxSeq + 1)
    let n := credit / 65536 % 4
    let taken : Akend := if n = 0 then next else { next with credits := next.credits.put (credit % 1024) (next.credits.get (credit % 1024) 0 + n) }
    let port_ (x : Akend) : State := { s with akend := s.akend.put port x }
    (∀ k i, (k, i) ∈ kinds ++ [(5, .akendReservedFlitType port f)] →
      (a.up = false → exec i s = .next s) ∧
      (a.up = true → ¬ good → exec i s = .next ((s.askRetry port).laneFails port)) ∧
      (a.up = true → good → (k < 5 ∧ type ≠ k) ∨ (k = 5 ∧ type < 5) → exec i s = .next s) ∧
      (a.up = true → good → (k < 5 ∧ type = k) ∨ (k = 5 ∧ 5 ≤ type) → k ≠ 2 → k ≠ 4 → seq ≠ a.rxSeq.toNat → exec i s = .next (s.askRetry port))) ∧
    (∃ x : List Byte, s.askRetry port = port_ { a with out := a.out ++ [x], retries := a.retries + 1 } ∧ x.length = 256 ∧ fieldAt x 4 1 = 2 ∧
      fieldAt x 0 2 = a.txSeq.toNat ∧ fieldAt x 2 2 = (a.rxSeq - 1).toNat ∧ fieldAt x 252 4 = (crc32 (x.take 252)).toNat) ∧
    (a.up = true → good →
      (let y := port_ { acked a.rxSeq with out := (acked a.rxSeq).out ++ (acked a.rxSeq).retry }
       type = 2 → exec (.akendRetryRequest port f) s = .next (if seq = a.rxSeq.toNat then y else y.askRetry port)) ∧
      (let y := port_ (acked a.rxSeq)
       type = 4 → exec (.akendIdleFlit port f) s = .next (if seq = a.rxSeq.toNat then y else y.askRetry port))) ∧
    (a.up = true → good → seq = a.rxSeq.toNat →
      (type = 1 → exec (.akendCreditFlit port f) s = .next (port_ taken)) ∧
      (5 ≤ type → exec (.akendReservedFlitType port f) s = .next (port_ { taken with dropped := taken.dropped + 1 })) ∧
      (type = 0 → s.linkAt port slot = none → ∃ x : List Byte, fieldAt x 4 1 = 4 ∧ fieldAt x 2 2 = a.rxSeq.toNat ∧
        let bs := (List.range (min 3 (fieldAt f 5 1))).map (flitBeat f)
        exec (.akendDataFlit port f) s = .next (port_ { taken with
          slots := if bs = [] then taken.slots else taken.slots.put slot ((taken.slots.get slot [] ++ bs).take 4), out := taken.out ++ [x] })) ∧
      (type = 3 →
        let e : Epoch := { epoch := fieldAt f 12 4, id := w (fieldAt f 16 8) }
        let y := port_ taken
        let First (b : Epoch) : Prop := b.epoch < e.epoch ∨ (e.epoch = b.epoch ∧ e.id.toNat < b.id.toNat)
        ((fieldAt f 26 1).testBit 0 = true → exec (.akendElectionFlit port f) s = .next (y.seeAck e (w (fieldAt f 27 8)))) ∧
        ((fieldAt f 26 1).testBit 0 = false → exec (.akendElectionFlit port f) s = .next (y.seePair e) ∧
          ((∀ b, s.best = some b → First b) → e.epoch ≤ s.epoch.epoch → (y.seePair e).best = some e) ∧
          ((∃ b, s.best = some b ∧ ¬ First b) → y.seePair e = y))))) ∧
  (∀ (a : Akend) (p : PendFlit), ∃ x : List Byte,
    a.send p = (if a.retry.length < 64 ∧ a.pend = [] then { a with txSeq := a.txSeq + 1, retry := a.retry ++ [x], out := a.out ++ [x] }
      else { a with pend := a.pend ++ [p] }) ∧
    fieldAt x 0 2 = a.txSeq.toNat ∧ fieldAt x 2 2 = (a.rxSeq - 1).toNat ∧ fieldAt x 4 1 = p.type % 256 ∧ fieldAt x 5 1 = p.nbeat % 256 ∧
    fieldAt x 6 2 = p.slot % 65536 ∧ fieldAt x 8 4 = p.credit % 2 ^ 32 ∧ (p.payload.length ≤ 240 → (x.drop 12).take p.payload.length = p.payload)) ∧
  (∀ (y : State) (port : Nat),
    let k := y.pick (y.goodLanes port).length
    let l := nth (y.goodLanes port) k.1 0
    let n := (y.ak port).consec.get l 0 + 1
    let z := k.2.modAk port fun a => { a with consec := a.consec.del l, badLanes := a.badLanes ++ [l] }
    (n < 16 → y.laneFails port = k.2.modAk port fun a => { a with consec := a.consec.put l n }) ∧
    (16 ≤ n → 4 ≤ (z.goodLanes port).length → y.laneFails port = z) ∧
    (16 ≤ n → (z.goodLanes port).length < 4 → y.laneFails port =
      (z.linksOver port).foldl (fun s rn => s.faultFreeze rn 4 (FaultRec.of fUELINK 4)) (z.modAk port fun a => { a with up := false })))

/-- The collective engines (R13, R456-R458): the oldest collective of an OP whose ranks have matched is carried out, or the next command of its
ring is taken by one of the chiplet's four engines; a command that breaks its form ends BADARG as it is taken; a failure ends every rank that has
matched with its status: LINKDOWN, that of a rank that has failed, TIMEOUT where not all match in time; an ended one writes its
DONE word and leaves its engine. FAST sums go by the tree over group order, EXACT ones add integers worth multiples of 2^-149.
What a collective does while a rank's data does not come, which links it needs, and that ranks match by group and SEQNO alone are the model's
readings (notes/assumptions 40). -/
def Obligations.CollectivesRun : Prop :=
  (∀ (s : State) (p chip op : Nat) (peers : List PeerData), op ≤ 3 →
    let step := if op = 0 then exec (.allreduce p chip peers) s else if op = 1 then exec (.reduce p chip peers) s
      else if op = 2 then exec (.broadcast p chip peers) s else exec (.allgather p chip peers) s
    s.collHeld p chip = none →
    let waiting := (s.collOf p chip).filter (fun c => c.ended.isNone && cmOp c.cmd == op)
    (∀ l c rest t, waiting = l ++ c :: rest → (∀ x ∈ l, s.collDo p chip x.cmd peers = none) → s.collDo p chip c.cmd peers = some t → step = .next t) ∧
    ((∀ x ∈ waiting, s.collDo p chip x.cmd peers = none) →
      (s.nextCmd p chip = .ok none → step = .next s) ∧
      (∀ f, s.nextCmd p chip = .error f → step = .next (s.collFault p chip none f false 0)) ∧
      (∀ b, s.nextCmd p chip = .ok (some b) → cmdOk b = false ∨ cmOp b ≠ op → step = .next s) ∧
      (∀ b, s.nextCmd p chip = .ok (some b) → cmdOk b = true → cmOp b = op → ∃ y : State, step = .next ((y.collDo p chip b peers).getD y) ∧
        y = { s with colls := y.colls, collHead := y.collHead } ∧
        y.collOf p chip = s.collOf p chip ++ [{ cmd := b, age := 0, stuck := false, ended := none }] ∧
        y.collHead.get (16 * p + chip) 0 = s.collHead.get (16 * p + chip) 0 + 1))) ∧
  (∀ (s : State) (p chip : Nat) (b g : List Byte) (peers : List PeerData), s.readGroup p (cmGroup b) = .ok g →
    let n := fieldAt g 0 4
    let pod (i : Nat) : Nat := fieldAt g (64 + 8 * i) 8 % 256
    let far : Prop := ∃ i < n, pod i ≠ s.podNum
    (groupOk g b = false → s.collDo p chip b peers = some (s.endAll p chip b eBADARG)) ∧
    (¬ far → s.linkLacks g = false) ∧ (far → (∀ x ∈ s.akend, x.2.up = false) → s.linkLacks g = true) ∧
    ((∃ x ∈ s.akend, x.2.up = true) → (∀ q < 32, Config.cabled q = true → (s.ak q).up = true) → s.linkLacks g = false) ∧
    (groupOk g b = true → s.linkLacks g = true → s.collDo p chip b peers = some (s.endAll p chip b 0x13)) ∧
    (groupOk g b = true → s.linkLacks g = false →
      (∀ l x rest, peers = l ++ x :: rest → (∀ y ∈ l, y.rank < n → pod y.rank ≠ s.podNum → y.status = 0) → x.rank < n → pod x.rank ≠ s.podNum →
        x.status ≠ 0 → s.collDo p chip b peers = some (s.endAll p chip b (x.status % 65536))) ∧
      ((∀ y ∈ peers, y.rank < n → pod y.rank ≠ s.podNum → y.status = 0) →
        ((∃ i < n, s.rankData g b peers i = none) → s.collDo p chip b peers = none) ∧
        (∀ i q ch c f a, i < n → (∀ j < n, s.rankData g b peers j ≠ none) → (∀ j < i, ∃ d, s.rankData g b peers j = some (.ok d)) →
          s.rankData g b peers i = some (.error (q, ch, c, f, a)) → s.collDo p chip b peers = some (s.collFault q ch (some c) f false a)) ∧
        (∀ data : List (List Byte), data.length = n → (∀ i < n, s.rankData g b peers i = some (.ok (nth data i []))) →
          s.collDo p chip b peers = some (let red := if cmOp b ≤ 1 then reduceAll b data else ([], 0)
                                          s.deliver b g data red.1 red.2 (List.range n) s)))) ∧
    (∀ e i c, s.localRank g b e i = some c → c.ended = none ∧ fieldAt c.cmd 8 8 = fieldAt b 8 8 ∧ fieldAt c.cmd 40 4 = i ∧
      s.readGroup (grPart e) (cmGroup c.cmd) = .ok g) ∧
    (∀ code : Nat, let z := s.endAll p chip b code
      z = { s with colls := z.colls } ∧ (∀ c ∈ z.collOf p chip, c.cmd = b → c.ended ≠ none) ∧
      (2 ≤ n → n ≤ 4096 → ∀ i < n, ∀ c, s.localRank g b (grEntry g i) i = some c →
        ∀ d ∈ z.collOf (grPart (grEntry g i)) (grChip (grEntry g i)), d.cmd = c.cmd → d.ended ≠ none) ∧
      ∀ q ch, ∃ h : Coll → Coll, z.collOf q ch = (s.collOf q ch).map h ∧ ∀ c, h c = c ∨ (c.ended = none ∧ h c = { c with ended := some (code, 0) }))) ∧
  (∀ (s : State) (p chip : Nat), 4 ≤ ((List.range 16).map (fun q => (s.collOf q chip).length)).sum → ∀ b, s.nextCmd p chip ≠ .ok (some b)) ∧
  (∀ (s : State) (p chip : Nat), s.collHeld p chip = none →
    (∀ b, s.nextCmd p chip = .ok (some b) → cmdOk b = true → exec (.collectiveReservedCode p chip) s = .next s) ∧
    (∀ b, s.nextCmd p chip = .ok (some b) → cmdOk b = false → ∃ y : State, exec (.collectiveReservedCode p chip) s = .next y ∧
      y = { s with colls := y.colls, collHead := y.collHead } ∧
      y.collOf p chip = s.collOf p chip ++ [{ cmd := b, age := 0, stuck := false, ended := some (eBADARG, 0) }]) ∧
    ((s.collOf p chip).find? (fun c => c.ended.isSome) = none → exec (.collectiveDone p chip) s = .next s) ∧
    (∀ (c : Coll) (code : Nat) (fl : BitVec 6), (s.collOf p chip).find? (fun c => c.ended.isSome) = some c → c.ended = some (code, fl) →
      (∀ o f, vwrite s.mem (s.gpa p) (cmDone c.cmd) (leBytes (2 ^ 63 + fl.toNat * 65536 + code) 8) = .error (o, f) →
        exec (.collectiveDone p chip) s = .next (s.collFault p chip (some c.cmd) f true (cmDone c.cmd + o))) ∧
      (∀ m, vwrite s.mem (s.gpa p) (cmDone c.cmd) (leBytes (2 ^ 63 + fl.toNat * 65536 + code) 8) = .ok m →
        exec (.collectiveDone p chip) s = .next (State.setColl { s with mem := m } p chip ((s.collOf p chip).erase c))))) ∧
  (∀ (s : State) (p chip : Nat),
    let Match (g b : List Byte) : Prop := ∀ i < fieldAt g 0 4, grPod (grEntry g i) = s.podNum ∧ s.localRank g b (grEntry g i) i ≠ none
    let Late (c : Coll) : Prop := c.ended = none ∧ ∃ g, s.readGroup p (cmGroup c.cmd) = .ok g ∧ 2 ^ fieldAt g 4 1 ≤ c.age ∧ ¬ Match g c.cmd
    ((∀ c ∈ s.collOf p chip, ¬ Late c) → exec (.collectiveTimeout p chip) s = .next s) ∧
    (∀ l c rest, s.collOf p chip = l ++ c :: rest → (∀ x ∈ l, ¬ Late x) → Late c →
      exec (.collectiveTimeout p chip) s = .next (s.endAll p chip c.cmd 0x14))) ∧
  (∀ (dtype redop : Nat) (vals : List Nat), vals.length ≤ 3 → vals ≠ [] →
    (reduceElem dtype redop vals).1 =
      (let a := nth vals 0 0
       let l := if 1 < vals.length then (reduceTwo dtype redop a (nth vals 1 0)).1 else a
       if 2 < vals.length then (reduceTwo dtype redop l (nth vals 2 0)).1 else l)) ∧
  (∀ vals : List Nat, (∀ x ∈ vals, (b32.val x).nonFinite = false) →
    let acc := accumSum (vals.map (fun x => accumOf (x, 0)))
    let sum : Int := (vals.map (fun x => (b32.val x).scaled (-149))).sum
    acc.sum = BitVec.ofInt 312 sum ∧
    (acc.sum.toInt ≠ 0 → acc.final = b32.round rmRNE false (decide (acc.sum.toInt < 0)) acc.sum.toInt.natAbs (-149) false))

/-! ### The whole machine -/

/-- Right after reset (R463, R115, R123, R136, R450): device memory reads zero and is in canonical form, no region exists, no partition is in force,
no VF is assigned and every port of the links is down; and nothing is under way (what the spec gives no reset value is notes/assumptions 2's). -/
def Obligations.ResetHolds : Prop :=
  State.reset.memOk ∧ (∀ a, State.reset.mem.get a = 0) ∧ (∀ rn, State.reset.region? rn = none) ∧ (∀ t, State.reset.ownerOf t = none) ∧
  (∀ t, State.reset.tile t = Tile.cleared) ∧ (∀ p, (State.reset.part p).desc = none ∧ (State.reset.part p).queues = [] ∧ (State.reset.part p).frames = []) ∧
  (∀ v, State.reset.vfPart v = none) ∧ (∀ n, (State.reset.ak n).up = false) ∧ State.reset.journal = [] ∧ State.reset.modErr = [0, 0, 0, 0] ∧
  (∀ h, (State.reset.hart h).mode = .m ∧ (State.reset.hart h).wait = none ∧ (State.reset.hart h).resv = none)

/-- Every step keeps memory in its one canonical form: addresses strictly rising, and no byte listed that an unlisted address reads as, so equal
memories are equal data. -/
def Obligations.StepKeepsMemoryCanonical : Prop :=
  ∀ s t : State, s.memOk → step s = .next t → t.memOk
end

