-- ==== Sys2Proof/Laws/Decode.lean ====
section
/-! SUPPORT. The fields of an encoded word are the ones it was built from, for each format of R75, R78 and R49. -/

namespace Sys2Proof

/-- A field of an appended word that lies in its lower part. -/
theorem extract_low {n m : Nat} (x : BitVec n) (y : BitVec m) (s k : Nat) (h : s + k ≤ m) :
    (x ++ y).extractLsb' s k = y.extractLsb' s k := by
  apply BitVec.eq_of_getLsbD_eq
  intro i hi
  simp only [BitVec.getLsbD_extractLsb', BitVec.getLsbD_append, hi, decide_true, Bool.true_and]
  rw [if_pos (by omega)]

/-- A field of an appended word that lies in its upper part. -/
theorem extract_high {n m : Nat} (x : BitVec n) (y : BitVec m) (s k : Nat) (h : m ≤ s) :
    (x ++ y).extractLsb' s k = x.extractLsb' (s - m) k := by
  apply BitVec.eq_of_getLsbD_eq
  intro i hi
  simp only [BitVec.getLsbD_extractLsb', BitVec.getLsbD_append, hi, decide_true, Bool.true_and]
  rw [if_neg (by omega)]
  congr 1; omega

/-- The whole of a word is one of its fields. -/
theorem extract_self {n : Nat} (x : BitVec n) : x.extractLsb' 0 n = x := by simp

/-- The lowest bits of an extension. -/
theorem extract_setWidth {n m : Nat} (x : BitVec n) (h : n ≤ m) : (x.setWidth m).extractLsb' 0 n = x := by
  apply BitVec.eq_of_getLsbD_eq
  intro i hi
  simp [BitVec.getLsbD_setWidth, hi]
  intro; omega

/-- The bits above a value in its extension are zero. -/
theorem extract_above {n m : Nat} (x : BitVec n) (s k : Nat) (h : n ≤ s) : (x.setWidth m).extractLsb' s k = 0#k := by
  apply BitVec.eq_of_getLsbD_eq
  intro i hi
  simp only [BitVec.getLsbD_extractLsb', BitVec.getLsbD_setWidth, BitVec.getLsbD_zero]
  rw [BitVec.getLsbD_of_ge x (s + i) (by omega)]
  simp

theorem getLsbD_low {n m : Nat} (x : BitVec n) (y : BitVec m) (s : Nat) (h : s < m) : (x ++ y).getLsbD s = y.getLsbD s := by
  rw [BitVec.getLsbD_append, if_pos h]

theorem getLsbD_high {n m : Nat} (x : BitVec n) (y : BitVec m) (s : Nat) (h : m ≤ s) :
    (x ++ y).getLsbD s = x.getLsbD (s - m) := by
  rw [BitVec.getLsbD_append, if_neg (by omega)]

/-! ### Format R -/

section
variable (o : BitVec 6) (d : Reg) (a b : Src) (n : BitVec 9)

theorem opc_encR : (encR o d a b n).extractLsb' 26 6 = o := by
  simp (disch := omega) only [encR, extract_high, Nat.reduceSub, extract_self]
@[simp] theorem fOpc_encR : fOpc (encR o d a b n) = o.toNat := by rw [fOpc, opc_encR]
@[simp] theorem fD_encR : fD (encR o d a b n) = d := by
  simp only [fD, encR]; simp (disch := omega) only [extract_high, extract_low]
  simp
@[simp] theorem srcRA_encR : srcRA (encR o d a b n) = a := by
  simp only [srcRA, fA, encR]
  rw [getLsbD_high _ _ _ (by omega), getLsbD_high _ _ _ (by omega), getLsbD_low _ _ _ (by omega)]
  simp (disch := omega) only [extract_high, extract_low]
  cases a; simp [tb]
@[simp] theorem srcRB_encR : srcRB (encR o d a b n) = b := by
  simp only [srcRB, fB, encR]
  rw [getLsbD_high _ _ _ (by omega), getLsbD_low _ _ _ (by omega)]
  simp (disch := omega) only [extract_high, extract_low]
  cases b; simp [tb]
@[simp] theorem fFn_encR : fFn (encR o d a b n) = n := by
  simp only [fFn, encR]; rw [extract_low _ _ _ _ (by omega)]; simp

theorem zD_encR : zD (encR o d a b n) = (d == 0) := by simp [zD]
theorem zA_encR : zA (encR o d a b n) = (a.reg == 0 && !a.t) := by
  have h := srcRA_encR o d a b n
  have h1 := congrArg Src.reg h
  have h2 := congrArg Src.t h
  simp only [srcRA] at h1 h2
  rw [zA, h1, h2]
theorem zB_encR : zB (encR o d a b n) = (b.reg == 0 && !b.t) := by
  have h := srcRB_encR o d a b n
  have h1 := congrArg Src.reg h
  have h2 := congrArg Src.t h
  simp only [srcRB] at h1 h2
  rw [zB, h1, h2]
theorem zFn_encR : zFn (encR o d a b n) = (n == 0) := by simp [zFn]
theorem low3_encR (m : BitVec 3) : (encR o d a b (m.setWidth 9)).extractLsb' 0 3 = m := by
  simp only [encR]; rw [extract_low _ _ _ _ (by omega)]; exact extract_setWidth m (by omega)
theorem mid6_encR (m : BitVec 3) : (encR o d a b (m.setWidth 9)).extractLsb' 3 6 = 0#6 := by
  simp only [encR]; rw [extract_low _ _ _ _ (by omega)]; exact extract_above m 3 6 (by omega)
end

/-! ### Format I -/

section
variable (o : BitVec 6) (d : Reg) (a : Src) (i : BitVec 15)

theorem opc_encI : (encI o d a i).extractLsb' 26 6 = o := by
  simp (disch := omega) only [encI, extract_high, Nat.reduceSub, extract_self]
@[simp] theorem fOpc_encI : fOpc (encI o d a i) = o.toNat := by rw [fOpc, opc_encI]
@[simp] theorem fD_encI : fD (encI o d a i) = d := by
  simp only [fD, encI]; simp (disch := omega) only [extract_high, extract_low]
  simp
@[simp] theorem srcIA_encI : srcIA (encI o d a i) = a := by
  simp only [srcIA, fA, encI]
  rw [getLsbD_high _ _ _ (by omega), getLsbD_low _ _ _ (by omega)]
  simp (disch := omega) only [extract_high, extract_low]
  cases a; simp [tb]
@[simp] theorem imm_encI : (encI o d a i).extractLsb' 0 15 = i := by
  simp only [encI]; rw [extract_low _ _ _ _ (by omega)]; simp
theorem sh_encI (k : BitVec 6) : (encI o d a (k.setWidth 15)).extractLsb' 0 6 = k := by
  simp only [encI]; rw [extract_low _ _ _ _ (by omega)]; exact extract_setWidth k (by omega)
theorem shz_encI (k : BitVec 6) : (encI o d a (k.setWidth 15)).extractLsb' 6 9 = 0#9 := by
  simp only [encI]; rw [extract_low _ _ _ _ (by omega)]; exact extract_above k 6 9 (by omega)
end

/-! ### Formats B, S, U and J -/

section
variable (o : BitVec 6) (a b : Src) (i : BitVec 14)

theorem opc_encB : (encB o a b i).extractLsb' 26 6 = o := by
  simp (disch := omega) only [encB, extract_high, Nat.reduceSub, extract_self]
@[simp] theorem fOpc_encB : fOpc (encB o a b i) = o.toNat := by rw [fOpc, opc_encB]
@[simp] theorem srcB1_encB : srcB1 (encB o a b i) = a := by
  simp only [srcB1, fD, encB]
  rw [getLsbD_high _ _ _ (by omega), getLsbD_high _ _ _ (by omega), getLsbD_low _ _ _ (by omega)]
  simp (disch := omega) only [extract_high, extract_low]
  cases a; simp [tb]
@[simp] theorem srcB2_encB : srcB2 (encB o a b i) = b := by
  simp only [srcB2, fA, encB]
  rw [getLsbD_high _ _ _ (by omega), getLsbD_low _ _ _ (by omega)]
  simp (disch := omega) only [extract_high, extract_low]
  cases b; simp [tb]
@[simp] theorem off_encB : (encB o a b i).extractLsb' 0 14 = i := by
  simp only [encB]; rw [extract_low _ _ _ _ (by omega)]; simp

theorem opc_encS : (encS o b a i).extractLsb' 26 6 = o := by
  simp (disch := omega) only [encS, extract_high, Nat.reduceSub, extract_self]
@[simp] theorem fOpc_encS : fOpc (encS o b a i) = o.toNat := by rw [fOpc, opc_encS]
@[simp] theorem srcSB_encS : srcSB (encS o b a i) = b := by
  simp only [srcSB, fD, encS]
  rw [getLsbD_high _ _ _ (by omega), getLsbD_low _ _ _ (by omega)]
  simp (disch := omega) only [extract_high, extract_low]
  cases b; simp [tb]
@[simp] theorem srcIA_encS : srcIA (encS o b a i) = a := by
  simp only [srcIA, fA, encS]
  rw [getLsbD_high _ _ _ (by omega), getLsbD_high _ _ _ (by omega), getLsbD_low _ _ _ (by omega)]
  simp (disch := omega) only [extract_high, extract_low]
  cases a; simp [tb]
@[simp] theorem imm_encS : (encS o b a i).extractLsb' 0 14 = i := by
  simp only [encS]; rw [extract_low _ _ _ _ (by omega)]; simp

theorem opc_encU (d : Reg) (k : BitVec 21) : (encU o d k).extractLsb' 26 6 = o := by
  simp (disch := omega) only [encU, extract_high, Nat.reduceSub, extract_self]
@[simp] theorem fOpc_encU (d : Reg) (k : BitVec 21) : fOpc (encU o d k) = o.toNat := by rw [fOpc, opc_encU]
@[simp] theorem fD_encU (d : Reg) (k : BitVec 21) : fD (encU o d k) = d := by
  simp only [fD, encU]; rw [extract_high _ _ _ _ (by omega), extract_low _ _ _ _ (by omega)]; simp
@[simp] theorem imm_encU (d : Reg) (k : BitVec 21) : (encU o d k).extractLsb' 0 21 = k := by
  simp only [encU]; rw [extract_low _ _ _ _ (by omega)]; simp

theorem opc_encJ (k : BitVec 26) : (encJ o k).extractLsb' 26 6 = o := by
  simp (disch := omega) only [encJ, extract_high, Nat.reduceSub, extract_self]
@[simp] theorem fOpc_encJ (k : BitVec 26) : fOpc (encJ o k) = o.toNat := by rw [fOpc, opc_encJ]
@[simp] theorem off_encJ (k : BitVec 26) : (encJ o k).extractLsb' 0 26 = k := by
  simp only [encJ]; rw [extract_low _ _ _ _ (by omega)]; simp
end

/-! ### The R-type layout of R78 -/

section
variable (f7 : BitVec 7) (rs2 rs1 : Reg) (f3 : BitVec 3) (rd : Reg) (m : BitVec 7)

@[simp] theorem major_encX : (encX f7 rs2 rs1 f3 rd m).extractLsb' 0 7 = m := by
  simp only [encX]; rw [extract_low _ _ _ _ (by omega)]; simp
@[simp] theorem xRd_encX : xRd (encX f7 rs2 rs1 f3 rd m) = rd := by
  simp only [xRd, encX]; rw [extract_high _ _ _ _ (by omega), extract_low _ _ _ _ (by omega)]; simp
@[simp] theorem f3_encX : (encX f7 rs2 rs1 f3 rd m).extractLsb' 12 3 = f3 := by
  simp only [encX]; simp (disch := omega) only [extract_high, extract_low]
  simp
@[simp] theorem xRs1_encX : xRs1 (encX f7 rs2 rs1 f3 rd m) = rs1 := by
  simp only [xRs1, encX]; simp (disch := omega) only [extract_high, extract_low]
  simp
@[simp] theorem xRs2_encX : xRs2 (encX f7 rs2 rs1 f3 rd m) = rs2 := by
  simp only [xRs2, encX]; simp (disch := omega) only [extract_high, extract_low]
  simp
@[simp] theorem f7_encX : (encX f7 rs2 rs1 f3 rd m).extractLsb' 25 7 = f7 := by
  simp only [encX]; simp (disch := omega) only [extract_high, extract_low]; simp
end

/-! ### Stream words -/

@[simp] theorem idx_word (i f : Byte) (v : BitVec 16) : (i ++ f ++ v).extractLsb' 24 8 = i := by
  simp (disch := omega) only [extract_high, extract_low]; simp
@[simp] theorem fld_word (i f : Byte) (v : BitVec 16) : (i ++ f ++ v).extractLsb' 16 8 = f := by
  rw [extract_high _ _ _ _ (by omega), extract_low _ _ _ _ (by omega)]; simp
@[simp] theorem val_word (i f : Byte) (v : BitVec 16) : (i ++ f ++ v).extractLsb' 0 16 = v := by
  rw [extract_low _ _ _ _ (by omega), extract_self]

/-! ### A word is put together again from its fields -/

/-- Two adjacent fields of a word are one field. -/
theorem extract_append {n : Nat} (x : BitVec n) (s k j : Nat) :
    x.extractLsb' (s + j) k ++ x.extractLsb' s j = x.extractLsb' s (k + j) := by
  apply BitVec.eq_of_getLsbD_eq
  intro i hi
  simp only [BitVec.getLsbD_append, BitVec.getLsbD_extractLsb', hi, decide_true, Bool.true_and]
  split
  · simp [*]
  · rw [decide_eq_true (by omega), Bool.true_and]; congr 1; omega

/-- A bit of a word as a field of one bit. -/
theorem ofBool_extract {n : Nat} (x : BitVec n) (s : Nat) : BitVec.ofBool (x.getLsbD s) = x.extractLsb' s 1 := by
  apply BitVec.eq_of_getLsbD_eq
  intro i hi
  obtain rfl : i = 0 := by omega
  simp

theorem encR_fields (x : Word) : encR (x.extractLsb' 26 6) (fD x) (srcRA x) (srcRB x) (fFn x) = x := by
  simp only [encR, fD, srcRA, srcRB, fA, fB, fFn, tb, ofBool_extract]
  rw [extract_append x 21 6 5, extract_append x 16 11 5, extract_append x 11 16 5, extract_append x 10 21 1,
    extract_append x 9 22 1, extract_append x 0 23 9, extract_self]
theorem encI_fields (x : Word) : encI (x.extractLsb' 26 6) (fD x) (srcIA x) (x.extractLsb' 0 15) = x := by
  simp only [encI, fD, srcIA, fA, tb, ofBool_extract]
  rw [extract_append x 21 6 5, extract_append x 16 11 5, extract_append x 15 16 1, extract_append x 0 17 15, extract_self]
theorem encB_fields (x : Word) : encB (x.extractLsb' 26 6) (srcB1 x) (srcB2 x) (x.extractLsb' 0 14) = x := by
  simp only [encB, srcB1, srcB2, fD, fA, tb, ofBool_extract]
  rw [extract_append x 21 6 5, extract_append x 16 11 5, extract_append x 15 16 1, extract_append x 14 17 1,
    extract_append x 0 18 14, extract_self]
theorem encS_fields (x : Word) : encS (x.extractLsb' 26 6) (srcSB x) (srcIA x) (x.extractLsb' 0 14) = x := by
  simp only [encS, srcSB, srcIA, fD, fA, tb, ofBool_extract]
  rw [extract_append x 21 6 5, extract_append x 16 11 5, extract_append x 15 16 1, extract_append x 14 17 1,
    extract_append x 0 18 14, extract_self]
theorem encU_fields (x : Word) : encU (x.extractLsb' 26 6) (fD x) (x.extractLsb' 0 21) = x := by
  simp only [encU, fD]
  rw [extract_append x 21 6 5, extract_append x 0 11 21, extract_self]
theorem encJ_fields (x : Word) : encJ (x.extractLsb' 26 6) (x.extractLsb' 0 26) = x := by
  simp only [encJ]
  rw [extract_append x 0 6 26, extract_self]
theorem encX_fields (x : Word) : encX (x.extractLsb' 25 7) (xRs2 x) (xRs1 x) (x.extractLsb' 12 3) (xRd x) (x.extractLsb' 0 7) = x := by
  simp only [encX, xRs2, xRs1, xRd]
  rw [extract_append x 20 7 5, extract_append x 15 12 5, extract_append x 12 17 3, extract_append x 7 20 5,
    extract_append x 0 25 7, extract_self]
theorem word_fields (x : Word) : x.extractLsb' 24 8 ++ x.extractLsb' 16 8 ++ x.extractLsb' 0 16 = x := by
  rw [extract_append x 16 8 8, extract_append x 0 16 16, extract_self]

end Sys2Proof
end

