-- ==== Sys2Proof/Laws/Table.lean ====
section
/-! SUPPORT. Tables by key: a read after a write, and that writes and deletions keep the keys rising. -/

namespace Sys2Proof.Machine

variable {α : Type}

/-- The keys of a table rise strictly. -/
def Tbl.Rising (t : Tbl α) : Prop := t.Pairwise (fun a b => a.1 < b.1)

/-- A value is found under the key it was put under. -/
@[simp] theorem Tbl.find_put_same (t : Tbl α) (k : Nat) (v : α) : (t.put k v).find k = some v := by
  induction t with
  | nil => simp [Tbl.put, Tbl.find]
  | cons x t ih =>
    obtain ⟨a, u⟩ := x
    simp only [Tbl.put]
    split
    · simp [Tbl.find]
    · split
      · simp [Tbl.find]
      · simp only [Tbl.find]; rw [if_neg (by omega)]; exact ih

/-- A write under one key leaves what stands under every other. -/
theorem Tbl.find_put_other (t : Tbl α) {k j : Nat} (v : α) (h : j ≠ k) : (t.put k v).find j = t.find j := by
  induction t with
  | nil => simp [Tbl.put, Tbl.find, Ne.symm h]
  | cons x t ih =>
    obtain ⟨a, u⟩ := x
    simp only [Tbl.put]
    split
    · simp [Tbl.find, Ne.symm h]
    · split
      · next e => subst e; simp [Tbl.find, Ne.symm h]
      · simp only [Tbl.find, ih]

theorem Tbl.get_put_same (t : Tbl α) (k : Nat) (v d : α) : (t.put k v).get k d = v := by simp [Tbl.get]

theorem Tbl.get_put_other (t : Tbl α) {k j : Nat} (v d : α) (h : j ≠ k) : (t.put k v).get j d = t.get j d := by
  simp [Tbl.get, Tbl.find_put_other t v h]

/-- A deletion leaves what stands under every other key. -/
theorem Tbl.find_del_other (t : Tbl α) {k j : Nat} (h : j ≠ k) : (t.del k).find j = t.find j := by
  induction t with
  | nil => rfl
  | cons x t ih =>
    obtain ⟨a, u⟩ := x
    simp only [Tbl.del, List.filter_cons] at ih ⊢
    split
    · simp only [Tbl.find, ih]
    · next e => simp at e; subst e; simp [Tbl.find, Ne.symm h, ih]

/-- Nothing is found under a deleted key. -/
@[simp] theorem Tbl.find_del_same (t : Tbl α) (k : Nat) : (t.del k).find k = none := by
  induction t with
  | nil => rfl
  | cons x t ih =>
    obtain ⟨a, u⟩ := x
    simp only [Tbl.del, List.filter_cons] at ih ⊢
    split
    · next e => simp at e; simp [Tbl.find, e, ih]
    · exact ih

theorem Tbl.mem_put {t : Tbl α} {k : Nat} {v : α} {x : Nat × α} (h : x ∈ t.put k v) : x = (k, v) ∨ x ∈ t := by
  induction t with
  | nil => simpa [Tbl.put] using h
  | cons y t ih =>
    obtain ⟨a, u⟩ := y
    simp only [Tbl.put] at h
    split at h
    · simpa using h
    · split at h
      · rcases List.mem_cons.1 h with h | h
        · exact .inl h
        · exact .inr (List.mem_cons_of_mem _ h)
      · rcases List.mem_cons.1 h with h | h
        · exact .inr (by simp [h])
        · exact (ih h).imp id (List.mem_cons_of_mem _)

theorem Tbl.mem_del {t : Tbl α} {k : Nat} {x : Nat × α} (h : x ∈ t.del k) : x ∈ t := (List.mem_filter.1 h).1

/-- A write keeps the keys rising. -/
theorem Tbl.rising_put {t : Tbl α} (h : t.Rising) (k : Nat) (v : α) : (t.put k v).Rising := by
  induction t with
  | nil => simp [Tbl.put, Tbl.Rising]
  | cons y t ih =>
    obtain ⟨a, u⟩ := y
    obtain ⟨h1, h2⟩ := List.pairwise_cons.1 h
    simp only [Tbl.put]
    split
    · next hk =>
      refine List.pairwise_cons.2 ⟨?_, h⟩
      intro x hx
      rcases List.mem_cons.1 hx with rfl | hx
      · exact hk
      · exact Nat.lt_trans hk (h1 x hx)
    · split
      · next hk => subst hk; exact List.pairwise_cons.2 ⟨h1, h2⟩
      · refine List.pairwise_cons.2 ⟨?_, ih h2⟩
        intro x hx
        rcases Tbl.mem_put hx with rfl | hx
        · show a < k; omega
        · exact h1 x hx

/-- A deletion keeps the keys rising. -/
theorem Tbl.rising_del {t : Tbl α} (h : t.Rising) (k : Nat) : (t.del k).Rising := List.Pairwise.filter _ h

/-- Nothing is found under a key below every key of a table. -/
theorem Tbl.find_none_of_lt {t : Tbl α} {k : Nat} (h : ∀ x ∈ t, k < x.1) : t.find k = none := by
  induction t with
  | nil => rfl
  | cons y t ih =>
    obtain ⟨a, u⟩ := y
    have ha : k < a := h (a, u) (by simp)
    simp only [Tbl.find]
    rw [if_neg (by omega)]
    exact ih (fun x hx => h x (List.mem_cons_of_mem _ hx))

end Sys2Proof.Machine
end

