-- ==== Sys2Proof/Laws/Memory.lean ====
section
/-! SUPPORT. The memory: a read after a write, what a write leaves alone, and that every operation keeps the canonical form. -/

namespace Sys2Proof.Machine

/-! ### The canonical form -/

/-- The canonical form: the keys rise and no listed byte is zero. -/
theorem Memory.wf_iff (m : Memory) : m.wf = true ↔ m.Pairwise (fun a b => a.1 < b.1) ∧ ∀ c ∈ m, c.2 ≠ 0 := by
  induction m with
  | nil => simp [Memory.wf]
  | cons x m ih =>
    obtain ⟨a, v⟩ := x
    cases m with
    | nil => simp [Memory.wf]
    | cons y m =>
      obtain ⟨b, u⟩ := y
      rw [Memory.wf, Bool.and_eq_true, Bool.and_eq_true, ih, List.pairwise_cons (a := (a, v)) (l := (b, u) :: m)]
      constructor
      · rintro ⟨⟨hv, hab⟩, hp, hz⟩
        have hab : a < b := by simpa using hab
        refine ⟨⟨?_, hp⟩, ?_⟩
        · intro c hc
          rcases List.mem_cons.1 hc with rfl | hc
          · exact hab
          · exact Nat.lt_trans hab ((List.pairwise_cons.1 hp).1 c hc)
        · intro c hc
          rcases List.mem_cons.1 hc with rfl | hc
          · simpa using hv
          · exact hz c hc
      · rintro ⟨⟨h1, hp⟩, hz⟩
        have := hz (a, v) (by simp)
        exact ⟨⟨by simpa using this, by simpa using h1 (b, u) (by simp)⟩, hp, fun c hc => hz c (List.mem_cons_of_mem _ hc)⟩

theorem Memory.mem_put {m : Memory} {a : Nat} {v : Byte} {c : Host.Cell} (h : c ∈ m.put a v) : (c = (a, v) ∧ v ≠ 0) ∨ c ∈ m := by
  induction m with
  | nil =>
    simp only [Memory.put] at h
    split at h
    · simp at h
    · next hv => exact .inl ⟨by simpa using h, hv⟩
  | cons x m ih =>
    obtain ⟨k, u⟩ := x
    simp only [Memory.put] at h
    split at h
    · split at h
      · exact .inr h
      · next hv =>
        rcases List.mem_cons.1 h with h | h
        · exact .inl ⟨h, hv⟩
        · exact .inr h
    · split at h
      · split at h
        · exact .inr (List.mem_cons_of_mem _ h)
        · next hv =>
          rcases List.mem_cons.1 h with h | h
          · exact .inl ⟨h, hv⟩
          · exact .inr (List.mem_cons_of_mem _ h)
      · rcases List.mem_cons.1 h with h | h
        · exact .inr (by simp [h])
        · exact (ih h).imp id (List.mem_cons_of_mem _)

/-- One byte written keeps the form. -/
theorem Memory.wf_put {m : Memory} (h : m.wf = true) (a : Nat) (v : Byte) : (m.put a v).wf = true := by
  rw [Memory.wf_iff] at h ⊢
  obtain ⟨hp, hz⟩ := h
  refine ⟨?_, fun c hc => ?_⟩
  · clear hz
    induction m with
    | nil => simp only [Memory.put]; split <;> simp
    | cons x m ih =>
      obtain ⟨k, u⟩ := x
      obtain ⟨h1, h2⟩ := List.pairwise_cons.1 hp
      simp only [Memory.put]
      split
      · split
        · exact hp
        · next hk _ =>
          refine List.pairwise_cons.2 ⟨fun c hc => ?_, hp⟩
          rcases List.mem_cons.1 hc with rfl | hc
          · exact hk
          · exact Nat.lt_trans hk (h1 c hc)
      · split
        · split
          · exact h2
          · next e _ => subst e; exact List.pairwise_cons.2 ⟨h1, h2⟩
        · refine List.pairwise_cons.2 ⟨fun c hc => ?_, ih h2⟩
          rcases Memory.mem_put hc with ⟨rfl, _⟩ | hc
          · show k < a; omega
          · exact h1 c hc
  · rcases Memory.mem_put hc with ⟨rfl, hv⟩ | hc
    · exact hv
    · exact hz c hc

/-- Bytes written keep the form. -/
theorem Memory.wf_write {m : Memory} (h : m.wf = true) (a : Nat) (bs : List Byte) : (m.write a bs).wf = true := by
  induction bs generalizing m a with
  | nil => exact h
  | cons b bs ih => exact ih (Memory.wf_put h a b) (a + 1)

/-- A number written keeps the form. -/
theorem Memory.wf_writeN {m : Memory} (h : m.wf = true) (a k x : Nat) : (m.writeN a k x).wf = true := Memory.wf_write h a _

/-- Bytes zeroed keep the form. -/
theorem Memory.wf_zero {m : Memory} (h : m.wf = true) (lo hi : Nat) : (m.zero lo hi).wf = true := by
  rw [Memory.wf_iff] at h ⊢
  exact ⟨h.1.filter _, fun c hc => h.2 c (List.mem_of_mem_filter hc)⟩

/-! ### Reads after writes -/

theorem Memory.get_of_lt {m : Memory} {a : Nat} (h : ∀ c ∈ m, a < c.1) : m.get a = 0 := by
  cases m with
  | nil => rfl
  | cons x m =>
    obtain ⟨k, u⟩ := x
    have : a < k := h (k, u) (by simp)
    simp only [Memory.get]
    rw [if_neg (by omega), if_pos this]

/-- The byte written is read at its address. -/
theorem Memory.get_put_same {m : Memory} (h : m.wf = true) (a : Nat) (v : Byte) : (m.put a v).get a = v := by
  have hp := ((Memory.wf_iff m).1 h).1
  clear h
  induction m with
  | nil => simp only [Memory.put]; split <;> simp_all [Memory.get]
  | cons x m ih =>
    obtain ⟨k, u⟩ := x
    obtain ⟨h1, h2⟩ := List.pairwise_cons.1 hp
    simp only [Memory.put]
    split
    · next hk =>
      split
      · next hv => subst hv; simp only [Memory.get]; rw [if_neg (by omega), if_pos hk]
      · simp [Memory.get]
    · split
      · next e =>
        subst e
        split
        · next hv => subst hv; exact Memory.get_of_lt h1
        · simp [Memory.get]
      · simp only [Memory.get]; rw [if_neg (by omega), if_neg (by omega)]; exact ih h2

/-- Every other byte reads as before. -/
theorem Memory.get_put_other (m : Memory) {a b : Nat} (v : Byte) (hb : b ≠ a) (h : m.wf = true) : (m.put a v).get b = m.get b := by
  have hp := ((Memory.wf_iff m).1 h).1
  clear h
  induction m with
  | nil =>
    simp only [Memory.put]
    split
    · rfl
    · simp only [Memory.get]; rw [if_neg (Ne.symm hb)]; simp
  | cons x m ih =>
    obtain ⟨k, u⟩ := x
    obtain ⟨h1, h2⟩ := List.pairwise_cons.1 hp
    simp only [Memory.put]
    split
    · next hk =>
      split
      · rfl
      · simp only [Memory.get]
        rw [if_neg (Ne.symm hb)]
        split
        · next hba => rw [if_neg (by omega), if_pos (by omega)]
        · rfl
    · split
      · next e =>
        subst e
        have h0 : ¬ a = b := fun e => hb e.symm
        split
        · simp only [Memory.get]
          rw [if_neg h0]
          split
          · next hlt => exact Memory.get_of_lt (fun c hc => Nat.lt_trans hlt (h1 c hc))
          · rfl
        · simp only [Memory.get]; rw [if_neg h0, if_neg h0]
      · simp only [Memory.get, ih h2]

/-- Bytes outside a write read as before. -/
theorem Memory.get_write_other {m : Memory} (h : m.wf = true) {a b : Nat} (bs : List Byte) (hb : b < a ∨ a + bs.length ≤ b) :
    (m.write a bs).get b = m.get b := by
  induction bs generalizing m a with
  | nil => rfl
  | cons x bs ih =>
    simp only [List.length_cons] at hb
    rw [Memory.write, ih (Memory.wf_put h a x) (by omega), Memory.get_put_other m x (by omega) h]

/-- A byte of a write reads as it was written. -/
theorem Memory.get_write_same {m : Memory} (h : m.wf = true) (a : Nat) (bs : List Byte) {i : Nat} (hi : i < bs.length) :
    (m.write a bs).get (a + i) = bs[i] := by
  induction bs generalizing m a i with
  | nil => simp at hi
  | cons x bs ih =>
    rw [Memory.write]
    cases i with
    | zero =>
      rw [Memory.get_write_other (Memory.wf_put h a x) bs (by omega)]
      simpa using Memory.get_put_same h a x
    | succ i =>
      have := ih (Memory.wf_put h a x) (a + 1) (i := i) (by simpa using hi)
      rw [show a + (i + 1) = a + 1 + i by omega, this]
      simp

/-- What was written is read back. -/
theorem Memory.read_write {m : Memory} (h : m.wf = true) (a : Nat) (bs : List Byte) : (m.write a bs).read a bs.length = bs := by
  induction bs generalizing m a with
  | nil => rfl
  | cons x bs ih =>
    rw [Memory.write, List.length_cons, Memory.read, ih (Memory.wf_put h a x),
      Memory.get_write_other (Memory.wf_put h a x) bs (by omega), Memory.get_put_same h]

/-- The first bytes of what was written are read back. -/
theorem Memory.read_write_take {m : Memory} (h : m.wf = true) (a : Nat) (bs : List Byte) {n : Nat} (hn : n ≤ bs.length) :
    (m.write a bs).read a n = bs.take n := by
  induction bs generalizing m a n with
  | nil =>
    obtain rfl : n = 0 := by simpa using hn
    rfl
  | cons x bs ih =>
    cases n with
    | zero => rfl
    | succ n =>
      rw [Memory.write, Memory.read, ih (Memory.wf_put h a x) _ (by simpa using hn),
        Memory.get_write_other (Memory.wf_put h a x) bs (by omega), Memory.get_put_same h, List.take_succ_cons]

/-- A zeroed byte reads zero. -/
theorem Memory.get_zero_in {m : Memory} {lo hi a : Nat} (h1 : lo ≤ a) (h2 : a < hi) : (m.zero lo hi).get a = 0 := by
  induction m with
  | nil => rfl
  | cons x m ih =>
    obtain ⟨k, u⟩ := x
    simp only [Memory.zero, List.filter_cons] at ih ⊢
    split
    · next hk =>
      have hk : k < lo ∨ hi ≤ k := by simpa using hk
      simp only [Memory.get]
      rw [if_neg (by omega)]
      split
      · rfl
      · exact ih
    · exact ih

/-- A byte outside the zeroed ones reads as before. -/
theorem Memory.get_zero_out {m : Memory} (h : m.wf = true) {lo hi a : Nat} (ha : a < lo ∨ hi ≤ a) :
    (m.zero lo hi).get a = m.get a := by
  have hp := ((Memory.wf_iff m).1 h).1
  clear h
  induction m with
  | nil => rfl
  | cons x m ih =>
    obtain ⟨k, u⟩ := x
    obtain ⟨h1, h2⟩ := List.pairwise_cons.1 hp
    simp only [Memory.zero, List.filter_cons] at ih ⊢
    split
    · simp only [Memory.get, ih h2]
    · next hk =>
      have hk : lo ≤ k ∧ k < hi := by simpa using hk
      rw [ih h2]
      simp only [Memory.get]
      rw [if_neg (by omega)]
      split
      · next hlt => exact Memory.get_of_lt (fun c hc => Nat.lt_trans hlt (h1 c hc))
      · rfl

/-- The bytes of a number: as many as asked for. -/
@[simp] theorem leBytes_length (x k : Nat) : (leBytes x k).length = k := by
  induction k generalizing x with
  | zero => rfl
  | succ k ih => simp [leBytes, ih]

/-- The bytes of a number give it back. -/
theorem leNat_leBytes (x k : Nat) : leNat (leBytes x k) = x % 256 ^ k := by
  induction k generalizing x with
  | zero => simp [leBytes, leNat, Nat.mod_one]
  | succ k ih =>
    rw [leBytes, leNat, ih, BitVec.toNat_ofNat, show 256 ^ (k + 1) = 256 * 256 ^ k by ring, Nat.mod_mul]

/-- A number written is read back. -/
theorem Memory.readN_writeN {m : Memory} (h : m.wf = true) (a k x : Nat) : (m.writeN a k x).readN a k = x % 256 ^ k := by
  have := Memory.read_write h a (leBytes x k)
  rw [leBytes_length] at this
  rw [Memory.readN, Memory.writeN, this, leNat_leBytes]

end Sys2Proof.Machine
end

