-- ==== Sys2Proof/Laws/State.lean ====
section
/-! SUPPORT. What each named update of the state leaves alone, field by field, and what it writes. -/

namespace Sys2Proof.Machine

/-! ### setPart -/

@[simp] theorem State.setPart_agenda (s : State) (p : Nat) (x : Partition) : (s.setPart p x).agenda = s.agenda := rfl
@[simp] theorem State.setPart_power (s : State) (p : Nat) (x : Partition) : (s.setPart p x).power = s.power := rfl
@[simp] theorem State.setPart_cycle (s : State) (p : Nat) (x : Partition) : (s.setPart p x).cycle = s.cycle := rfl
@[simp] theorem State.setPart_freeCtr (s : State) (p : Nat) (x : Partition) : (s.setPart p x).freeCtr = s.freeCtr := rfl
@[simp] theorem State.setPart_curSeq (s : State) (p : Nat) (x : Partition) : (s.setPart p x).curSeq = s.curSeq := rfl
@[simp] theorem State.setPart_curHart (s : State) (p : Nat) (x : Partition) : (s.setPart p x).curHart = s.curHart := rfl
@[simp] theorem State.setPart_curReg (s : State) (p : Nat) (x : Partition) : (s.setPart p x).curReg = s.curReg := rfl
@[simp] theorem State.setPart_mem (s : State) (p : Nat) (x : Partition) : (s.setPart p x).mem = s.mem := rfl
@[simp] theorem State.setPart_fuses (s : State) (p : Nat) (x : Partition) : (s.setPart p x).fuses = s.fuses := rfl
@[simp] theorem State.setPart_bootstat (s : State) (p : Nat) (x : Partition) : (s.setPart p x).bootstat = s.bootstat := rfl
@[simp] theorem State.setPart_staging (s : State) (p : Nat) (x : Partition) : (s.setPart p x).staging = s.staging := rfl
@[simp] theorem State.setPart_lastWin (s : State) (p : Nat) (x : Partition) : (s.setPart p x).lastWin = s.lastWin := rfl
@[simp] theorem State.setPart_firmware (s : State) (p : Nat) (x : Partition) : (s.setPart p x).firmware = s.firmware := rfl
@[simp] theorem State.setPart_hvImage (s : State) (p : Nat) (x : Partition) : (s.setPart p x).hvImage = s.hvImage := rfl
@[simp] theorem State.setPart_vdtab (s : State) (p : Nat) (x : Partition) : (s.setPart p x).vdtab = s.vdtab := rfl
@[simp] theorem State.setPart_updBad (s : State) (p : Nat) (x : Partition) : (s.setPart p x).updBad = s.updBad := rfl
@[simp] theorem State.setPart_updOffset (s : State) (p : Nat) (x : Partition) : (s.setPart p x).updOffset = s.updOffset := rfl
@[simp] theorem State.setPart_updPart (s : State) (p : Nat) (x : Partition) : (s.setPart p x).updPart = s.updPart := rfl
@[simp] theorem State.setPart_modErr (s : State) (p : Nat) (x : Partition) : (s.setPart p x).modErr = s.modErr := rfl
@[simp] theorem State.setPart_hvq (s : State) (p : Nat) (x : Partition) : (s.setPart p x).hvq = s.hvq := rfl
@[simp] theorem State.setPart_mkq (s : State) (p : Nat) (x : Partition) : (s.setPart p x).mkq = s.mkq := rfl
@[simp] theorem State.setPart_failed (s : State) (p : Nat) (x : Partition) : (s.setPart p x).failed = s.failed := rfl
@[simp] theorem State.setPart_journal (s : State) (p : Nat) (x : Partition) : (s.setPart p x).journal = s.journal := rfl
@[simp] theorem State.setPart_journalCap (s : State) (p : Nat) (x : Partition) : (s.setPart p x).journalCap = s.journalCap := rfl
@[simp] theorem State.setPart_periodNo (s : State) (p : Nat) (x : Partition) : (s.setPart p x).periodNo = s.periodNo := rfl
@[simp] theorem State.setPart_seamFails (s : State) (p : Nat) (x : Partition) : (s.setPart p x).seamFails = s.seamFails := rfl
@[simp] theorem State.setPart_seamRetired (s : State) (p : Nat) (x : Partition) : (s.setPart p x).seamRetired = s.seamRetired := rfl
@[simp] theorem State.setPart_vfs (s : State) (p : Nat) (x : Partition) : (s.setPart p x).vfs = s.vfs := rfl
@[simp] theorem State.setPart_parts (s : State) (p : Nat) (x : Partition) : (s.setPart p x).parts = s.parts.put p x := rfl
@[simp] theorem State.setPart_regions (s : State) (p : Nat) (x : Partition) : (s.setPart p x).regions = s.regions := rfl
@[simp] theorem State.setPart_tiles (s : State) (p : Nat) (x : Partition) : (s.setPart p x).tiles = s.tiles := rfl
@[simp] theorem State.setPart_ports (s : State) (p : Nat) (x : Partition) : (s.setPart p x).ports = s.ports := rfl
@[simp] theorem State.setPart_harts (s : State) (p : Nat) (x : Partition) : (s.setPart p x).harts = s.harts := rfl
@[simp] theorem State.setPart_dies (s : State) (p : Nat) (x : Partition) : (s.setPart p x).dies = s.dies := rfl
@[simp] theorem State.setPart_migs (s : State) (p : Nat) (x : Partition) : (s.setPart p x).migs = s.migs := rfl
@[simp] theorem State.setPart_rails (s : State) (p : Nat) (x : Partition) : (s.setPart p x).rails = s.rails := rfl
@[simp] theorem State.setPart_margins (s : State) (p : Nat) (x : Partition) : (s.setPart p x).margins = s.margins := rfl
@[simp] theorem State.setPart_akend (s : State) (p : Nat) (x : Partition) : (s.setPart p x).akend = s.akend := rfl
@[simp] theorem State.setPart_podX (s : State) (p : Nat) (x : Partition) : (s.setPart p x).podX = s.podX := rfl
@[simp] theorem State.setPart_podY (s : State) (p : Nat) (x : Partition) : (s.setPart p x).podY = s.podY := rfl
@[simp] theorem State.setPart_epoch (s : State) (p : Nat) (x : Partition) : (s.setPart p x).epoch = s.epoch := rfl
@[simp] theorem State.setPart_best (s : State) (p : Nat) (x : Partition) : (s.setPart p x).best = s.best := rfl
@[simp] theorem State.setPart_acks (s : State) (p : Nat) (x : Partition) : (s.setPart p x).acks = s.acks := rfl
@[simp] theorem State.setPart_nmod (s : State) (p : Nat) (x : Partition) : (s.setPart p x).nmod = s.nmod := rfl
@[simp] theorem State.setPart_leader (s : State) (p : Nat) (x : Partition) : (s.setPart p x).leader = s.leader := rfl
@[simp] theorem State.setPart_selfOk (s : State) (p : Nat) (x : Partition) : (s.setPart p x).selfOk = s.selfOk := rfl
@[simp] theorem State.setPart_loadedBy (s : State) (p : Nat) (x : Partition) : (s.setPart p x).loadedBy = s.loadedBy := rfl
@[simp] theorem State.setPart_outCores (s : State) (p : Nat) (x : Partition) : (s.setPart p x).outCores = s.outCores := rfl
@[simp] theorem State.setPart_colls (s : State) (p : Nat) (x : Partition) : (s.setPart p x).colls = s.colls := rfl
@[simp] theorem State.setPart_collHead (s : State) (p : Nat) (x : Partition) : (s.setPart p x).collHead = s.collHead := rfl
@[simp] theorem State.setPart_lostPeriods (s : State) (p : Nat) (x : Partition) : (s.setPart p x).lostPeriods = s.lostPeriods := rfl
@[simp] theorem State.setPart_used (s : State) (p : Nat) (x : Partition) : (s.setPart p x).used = s.used := rfl
@[simp] theorem State.setPart_lostGran (s : State) (p : Nat) (x : Partition) : (s.setPart p x).lostGran = s.lostGran := rfl
@[simp] theorem State.setPart_saves (s : State) (p : Nat) (x : Partition) : (s.setPart p x).saves = s.saves := rfl

/-! ### setRegion -/

@[simp] theorem State.setRegion_agenda (s : State) (rn : Nat) (x : Region) : (s.setRegion rn x).agenda = s.agenda := rfl
@[simp] theorem State.setRegion_power (s : State) (rn : Nat) (x : Region) : (s.setRegion rn x).power = s.power := rfl
@[simp] theorem State.setRegion_cycle (s : State) (rn : Nat) (x : Region) : (s.setRegion rn x).cycle = s.cycle := rfl
@[simp] theorem State.setRegion_freeCtr (s : State) (rn : Nat) (x : Region) : (s.setRegion rn x).freeCtr = s.freeCtr := rfl
@[simp] theorem State.setRegion_curSeq (s : State) (rn : Nat) (x : Region) : (s.setRegion rn x).curSeq = s.curSeq := rfl
@[simp] theorem State.setRegion_curHart (s : State) (rn : Nat) (x : Region) : (s.setRegion rn x).curHart = s.curHart := rfl
@[simp] theorem State.setRegion_curReg (s : State) (rn : Nat) (x : Region) : (s.setRegion rn x).curReg = s.curReg := rfl
@[simp] theorem State.setRegion_mem (s : State) (rn : Nat) (x : Region) : (s.setRegion rn x).mem = s.mem := rfl
@[simp] theorem State.setRegion_fuses (s : State) (rn : Nat) (x : Region) : (s.setRegion rn x).fuses = s.fuses := rfl
@[simp] theorem State.setRegion_bootstat (s : State) (rn : Nat) (x : Region) : (s.setRegion rn x).bootstat = s.bootstat := rfl
@[simp] theorem State.setRegion_staging (s : State) (rn : Nat) (x : Region) : (s.setRegion rn x).staging = s.staging := rfl
@[simp] theorem State.setRegion_lastWin (s : State) (rn : Nat) (x : Region) : (s.setRegion rn x).lastWin = s.lastWin := rfl
@[simp] theorem State.setRegion_firmware (s : State) (rn : Nat) (x : Region) : (s.setRegion rn x).firmware = s.firmware := rfl
@[simp] theorem State.setRegion_hvImage (s : State) (rn : Nat) (x : Region) : (s.setRegion rn x).hvImage = s.hvImage := rfl
@[simp] theorem State.setRegion_vdtab (s : State) (rn : Nat) (x : Region) : (s.setRegion rn x).vdtab = s.vdtab := rfl
@[simp] theorem State.setRegion_updBad (s : State) (rn : Nat) (x : Region) : (s.setRegion rn x).updBad = s.updBad := rfl
@[simp] theorem State.setRegion_updOffset (s : State) (rn : Nat) (x : Region) : (s.setRegion rn x).updOffset = s.updOffset := rfl
@[simp] theorem State.setRegion_updPart (s : State) (rn : Nat) (x : Region) : (s.setRegion rn x).updPart = s.updPart := rfl
@[simp] theorem State.setRegion_modErr (s : State) (rn : Nat) (x : Region) : (s.setRegion rn x).modErr = s.modErr := rfl
@[simp] theorem State.setRegion_hvq (s : State) (rn : Nat) (x : Region) : (s.setRegion rn x).hvq = s.hvq := rfl
@[simp] theorem State.setRegion_mkq (s : State) (rn : Nat) (x : Region) : (s.setRegion rn x).mkq = s.mkq := rfl
@[simp] theorem State.setRegion_failed (s : State) (rn : Nat) (x : Region) : (s.setRegion rn x).failed = s.failed := rfl
@[simp] theorem State.setRegion_journal (s : State) (rn : Nat) (x : Region) : (s.setRegion rn x).journal = s.journal := rfl
@[simp] theorem State.setRegion_journalCap (s : State) (rn : Nat) (x : Region) : (s.setRegion rn x).journalCap = s.journalCap := rfl
@[simp] theorem State.setRegion_periodNo (s : State) (rn : Nat) (x : Region) : (s.setRegion rn x).periodNo = s.periodNo := rfl
@[simp] theorem State.setRegion_seamFails (s : State) (rn : Nat) (x : Region) : (s.setRegion rn x).seamFails = s.seamFails := rfl
@[simp] theorem State.setRegion_seamRetired (s : State) (rn : Nat) (x : Region) : (s.setRegion rn x).seamRetired = s.seamRetired := rfl
@[simp] theorem State.setRegion_vfs (s : State) (rn : Nat) (x : Region) : (s.setRegion rn x).vfs = s.vfs := rfl
@[simp] theorem State.setRegion_parts (s : State) (rn : Nat) (x : Region) : (s.setRegion rn x).parts = s.parts := rfl
@[simp] theorem State.setRegion_regions (s : State) (rn : Nat) (x : Region) : (s.setRegion rn x).regions = s.regions.put rn x := rfl
@[simp] theorem State.setRegion_tiles (s : State) (rn : Nat) (x : Region) : (s.setRegion rn x).tiles = s.tiles := rfl
@[simp] theorem State.setRegion_ports (s : State) (rn : Nat) (x : Region) : (s.setRegion rn x).ports = s.ports := rfl
@[simp] theorem State.setRegion_harts (s : State) (rn : Nat) (x : Region) : (s.setRegion rn x).harts = s.harts := rfl
@[simp] theorem State.setRegion_dies (s : State) (rn : Nat) (x : Region) : (s.setRegion rn x).dies = s.dies := rfl
@[simp] theorem State.setRegion_migs (s : State) (rn : Nat) (x : Region) : (s.setRegion rn x).migs = s.migs := rfl
@[simp] theorem State.setRegion_rails (s : State) (rn : Nat) (x : Region) : (s.setRegion rn x).rails = s.rails := rfl
@[simp] theorem State.setRegion_margins (s : State) (rn : Nat) (x : Region) : (s.setRegion rn x).margins = s.margins := rfl
@[simp] theorem State.setRegion_akend (s : State) (rn : Nat) (x : Region) : (s.setRegion rn x).akend = s.akend := rfl
@[simp] theorem State.setRegion_podX (s : State) (rn : Nat) (x : Region) : (s.setRegion rn x).podX = s.podX := rfl
@[simp] theorem State.setRegion_podY (s : State) (rn : Nat) (x : Region) : (s.setRegion rn x).podY = s.podY := rfl
@[simp] theorem State.setRegion_epoch (s : State) (rn : Nat) (x : Region) : (s.setRegion rn x).epoch = s.epoch := rfl
@[simp] theorem State.setRegion_best (s : State) (rn : Nat) (x : Region) : (s.setRegion rn x).best = s.best := rfl
@[simp] theorem State.setRegion_acks (s : State) (rn : Nat) (x : Region) : (s.setRegion rn x).acks = s.acks := rfl
@[simp] theorem State.setRegion_nmod (s : State) (rn : Nat) (x : Region) : (s.setRegion rn x).nmod = s.nmod := rfl
@[simp] theorem State.setRegion_leader (s : State) (rn : Nat) (x : Region) : (s.setRegion rn x).leader = s.leader := rfl
@[simp] theorem State.setRegion_selfOk (s : State) (rn : Nat) (x : Region) : (s.setRegion rn x).selfOk = s.selfOk := rfl
@[simp] theorem State.setRegion_loadedBy (s : State) (rn : Nat) (x : Region) : (s.setRegion rn x).loadedBy = s.loadedBy := rfl
@[simp] theorem State.setRegion_outCores (s : State) (rn : Nat) (x : Region) : (s.setRegion rn x).outCores = s.outCores := rfl
@[simp] theorem State.setRegion_colls (s : State) (rn : Nat) (x : Region) : (s.setRegion rn x).colls = s.colls := rfl
@[simp] theorem State.setRegion_collHead (s : State) (rn : Nat) (x : Region) : (s.setRegion rn x).collHead = s.collHead := rfl
@[simp] theorem State.setRegion_lostPeriods (s : State) (rn : Nat) (x : Region) : (s.setRegion rn x).lostPeriods = s.lostPeriods := rfl
@[simp] theorem State.setRegion_used (s : State) (rn : Nat) (x : Region) : (s.setRegion rn x).used = s.used := rfl
@[simp] theorem State.setRegion_lostGran (s : State) (rn : Nat) (x : Region) : (s.setRegion rn x).lostGran = s.lostGran := rfl
@[simp] theorem State.setRegion_saves (s : State) (rn : Nat) (x : Region) : (s.setRegion rn x).saves = s.saves := rfl

/-! ### setTile -/

@[simp] theorem State.setTile_agenda (s : State) (t : Nat) (x : Tile) : (s.setTile t x).agenda = s.agenda := rfl
@[simp] theorem State.setTile_power (s : State) (t : Nat) (x : Tile) : (s.setTile t x).power = s.power := rfl
@[simp] theorem State.setTile_cycle (s : State) (t : Nat) (x : Tile) : (s.setTile t x).cycle = s.cycle := rfl
@[simp] theorem State.setTile_freeCtr (s : State) (t : Nat) (x : Tile) : (s.setTile t x).freeCtr = s.freeCtr := rfl
@[simp] theorem State.setTile_curSeq (s : State) (t : Nat) (x : Tile) : (s.setTile t x).curSeq = s.curSeq := rfl
@[simp] theorem State.setTile_curHart (s : State) (t : Nat) (x : Tile) : (s.setTile t x).curHart = s.curHart := rfl
@[simp] theorem State.setTile_curReg (s : State) (t : Nat) (x : Tile) : (s.setTile t x).curReg = s.curReg := rfl
@[simp] theorem State.setTile_mem (s : State) (t : Nat) (x : Tile) : (s.setTile t x).mem = s.mem := rfl
@[simp] theorem State.setTile_fuses (s : State) (t : Nat) (x : Tile) : (s.setTile t x).fuses = s.fuses := rfl
@[simp] theorem State.setTile_bootstat (s : State) (t : Nat) (x : Tile) : (s.setTile t x).bootstat = s.bootstat := rfl
@[simp] theorem State.setTile_staging (s : State) (t : Nat) (x : Tile) : (s.setTile t x).staging = s.staging := rfl
@[simp] theorem State.setTile_lastWin (s : State) (t : Nat) (x : Tile) : (s.setTile t x).lastWin = s.lastWin := rfl
@[simp] theorem State.setTile_firmware (s : State) (t : Nat) (x : Tile) : (s.setTile t x).firmware = s.firmware := rfl
@[simp] theorem State.setTile_hvImage (s : State) (t : Nat) (x : Tile) : (s.setTile t x).hvImage = s.hvImage := rfl
@[simp] theorem State.setTile_vdtab (s : State) (t : Nat) (x : Tile) : (s.setTile t x).vdtab = s.vdtab := rfl
@[simp] theorem State.setTile_updBad (s : State) (t : Nat) (x : Tile) : (s.setTile t x).updBad = s.updBad := rfl
@[simp] theorem State.setTile_updOffset (s : State) (t : Nat) (x : Tile) : (s.setTile t x).updOffset = s.updOffset := rfl
@[simp] theorem State.setTile_updPart (s : State) (t : Nat) (x : Tile) : (s.setTile t x).updPart = s.updPart := rfl
@[simp] theorem State.setTile_modErr (s : State) (t : Nat) (x : Tile) : (s.setTile t x).modErr = s.modErr := rfl
@[simp] theorem State.setTile_hvq (s : State) (t : Nat) (x : Tile) : (s.setTile t x).hvq = s.hvq := rfl
@[simp] theorem State.setTile_mkq (s : State) (t : Nat) (x : Tile) : (s.setTile t x).mkq = s.mkq := rfl
@[simp] theorem State.setTile_failed (s : State) (t : Nat) (x : Tile) : (s.setTile t x).failed = s.failed := rfl
@[simp] theorem State.setTile_journal (s : State) (t : Nat) (x : Tile) : (s.setTile t x).journal = s.journal := rfl
@[simp] theorem State.setTile_journalCap (s : State) (t : Nat) (x : Tile) : (s.setTile t x).journalCap = s.journalCap := rfl
@[simp] theorem State.setTile_periodNo (s : State) (t : Nat) (x : Tile) : (s.setTile t x).periodNo = s.periodNo := rfl
@[simp] theorem State.setTile_seamFails (s : State) (t : Nat) (x : Tile) : (s.setTile t x).seamFails = s.seamFails := rfl
@[simp] theorem State.setTile_seamRetired (s : State) (t : Nat) (x : Tile) : (s.setTile t x).seamRetired = s.seamRetired := rfl
@[simp] theorem State.setTile_vfs (s : State) (t : Nat) (x : Tile) : (s.setTile t x).vfs = s.vfs := rfl
@[simp] theorem State.setTile_parts (s : State) (t : Nat) (x : Tile) : (s.setTile t x).parts = s.parts := rfl
@[simp] theorem State.setTile_regions (s : State) (t : Nat) (x : Tile) : (s.setTile t x).regions = s.regions := rfl
@[simp] theorem State.setTile_tiles (s : State) (t : Nat) (x : Tile) : (s.setTile t x).tiles = s.tiles.put t x := rfl
@[simp] theorem State.setTile_ports (s : State) (t : Nat) (x : Tile) : (s.setTile t x).ports = s.ports := rfl
@[simp] theorem State.setTile_harts (s : State) (t : Nat) (x : Tile) : (s.setTile t x).harts = s.harts := rfl
@[simp] theorem State.setTile_dies (s : State) (t : Nat) (x : Tile) : (s.setTile t x).dies = s.dies := rfl
@[simp] theorem State.setTile_migs (s : State) (t : Nat) (x : Tile) : (s.setTile t x).migs = s.migs := rfl
@[simp] theorem State.setTile_rails (s : State) (t : Nat) (x : Tile) : (s.setTile t x).rails = s.rails := rfl
@[simp] theorem State.setTile_margins (s : State) (t : Nat) (x : Tile) : (s.setTile t x).margins = s.margins := rfl
@[simp] theorem State.setTile_akend (s : State) (t : Nat) (x : Tile) : (s.setTile t x).akend = s.akend := rfl
@[simp] theorem State.setTile_podX (s : State) (t : Nat) (x : Tile) : (s.setTile t x).podX = s.podX := rfl
@[simp] theorem State.setTile_podY (s : State) (t : Nat) (x : Tile) : (s.setTile t x).podY = s.podY := rfl
@[simp] theorem State.setTile_epoch (s : State) (t : Nat) (x : Tile) : (s.setTile t x).epoch = s.epoch := rfl
@[simp] theorem State.setTile_best (s : State) (t : Nat) (x : Tile) : (s.setTile t x).best = s.best := rfl
@[simp] theorem State.setTile_acks (s : State) (t : Nat) (x : Tile) : (s.setTile t x).acks = s.acks := rfl
@[simp] theorem State.setTile_nmod (s : State) (t : Nat) (x : Tile) : (s.setTile t x).nmod = s.nmod := rfl
@[simp] theorem State.setTile_leader (s : State) (t : Nat) (x : Tile) : (s.setTile t x).leader = s.leader := rfl
@[simp] theorem State.setTile_selfOk (s : State) (t : Nat) (x : Tile) : (s.setTile t x).selfOk = s.selfOk := rfl
@[simp] theorem State.setTile_loadedBy (s : State) (t : Nat) (x : Tile) : (s.setTile t x).loadedBy = s.loadedBy := rfl
@[simp] theorem State.setTile_outCores (s : State) (t : Nat) (x : Tile) : (s.setTile t x).outCores = s.outCores := rfl
@[simp] theorem State.setTile_colls (s : State) (t : Nat) (x : Tile) : (s.setTile t x).colls = s.colls := rfl
@[simp] theorem State.setTile_collHead (s : State) (t : Nat) (x : Tile) : (s.setTile t x).collHead = s.collHead := rfl
@[simp] theorem State.setTile_lostPeriods (s : State) (t : Nat) (x : Tile) : (s.setTile t x).lostPeriods = s.lostPeriods := rfl
@[simp] theorem State.setTile_used (s : State) (t : Nat) (x : Tile) : (s.setTile t x).used = s.used := rfl
@[simp] theorem State.setTile_lostGran (s : State) (t : Nat) (x : Tile) : (s.setTile t x).lostGran = s.lostGran := rfl
@[simp] theorem State.setTile_saves (s : State) (t : Nat) (x : Tile) : (s.setTile t x).saves = s.saves := rfl

/-! ### setPort -/

@[simp] theorem State.setPort_agenda (s : State) (k : Nat) (x : Port) : (s.setPort k x).agenda = s.agenda := rfl
@[simp] theorem State.setPort_power (s : State) (k : Nat) (x : Port) : (s.setPort k x).power = s.power := rfl
@[simp] theorem State.setPort_cycle (s : State) (k : Nat) (x : Port) : (s.setPort k x).cycle = s.cycle := rfl
@[simp] theorem State.setPort_freeCtr (s : State) (k : Nat) (x : Port) : (s.setPort k x).freeCtr = s.freeCtr := rfl
@[simp] theorem State.setPort_curSeq (s : State) (k : Nat) (x : Port) : (s.setPort k x).curSeq = s.curSeq := rfl
@[simp] theorem State.setPort_curHart (s : State) (k : Nat) (x : Port) : (s.setPort k x).curHart = s.curHart := rfl
@[simp] theorem State.setPort_curReg (s : State) (k : Nat) (x : Port) : (s.setPort k x).curReg = s.curReg := rfl
@[simp] theorem State.setPort_mem (s : State) (k : Nat) (x : Port) : (s.setPort k x).mem = s.mem := rfl
@[simp] theorem State.setPort_fuses (s : State) (k : Nat) (x : Port) : (s.setPort k x).fuses = s.fuses := rfl
@[simp] theorem State.setPort_bootstat (s : State) (k : Nat) (x : Port) : (s.setPort k x).bootstat = s.bootstat := rfl
@[simp] theorem State.setPort_staging (s : State) (k : Nat) (x : Port) : (s.setPort k x).staging = s.staging := rfl
@[simp] theorem State.setPort_lastWin (s : State) (k : Nat) (x : Port) : (s.setPort k x).lastWin = s.lastWin := rfl
@[simp] theorem State.setPort_firmware (s : State) (k : Nat) (x : Port) : (s.setPort k x).firmware = s.firmware := rfl
@[simp] theorem State.setPort_hvImage (s : State) (k : Nat) (x : Port) : (s.setPort k x).hvImage = s.hvImage := rfl
@[simp] theorem State.setPort_vdtab (s : State) (k : Nat) (x : Port) : (s.setPort k x).vdtab = s.vdtab := rfl
@[simp] theorem State.setPort_updBad (s : State) (k : Nat) (x : Port) : (s.setPort k x).updBad = s.updBad := rfl
@[simp] theorem State.setPort_updOffset (s : State) (k : Nat) (x : Port) : (s.setPort k x).updOffset = s.updOffset := rfl
@[simp] theorem State.setPort_updPart (s : State) (k : Nat) (x : Port) : (s.setPort k x).updPart = s.updPart := rfl
@[simp] theorem State.setPort_modErr (s : State) (k : Nat) (x : Port) : (s.setPort k x).modErr = s.modErr := rfl
@[simp] theorem State.setPort_hvq (s : State) (k : Nat) (x : Port) : (s.setPort k x).hvq = s.hvq := rfl
@[simp] theorem State.setPort_mkq (s : State) (k : Nat) (x : Port) : (s.setPort k x).mkq = s.mkq := rfl
@[simp] theorem State.setPort_failed (s : State) (k : Nat) (x : Port) : (s.setPort k x).failed = s.failed := rfl
@[simp] theorem State.setPort_journal (s : State) (k : Nat) (x : Port) : (s.setPort k x).journal = s.journal := rfl
@[simp] theorem State.setPort_journalCap (s : State) (k : Nat) (x : Port) : (s.setPort k x).journalCap = s.journalCap := rfl
@[simp] theorem State.setPort_periodNo (s : State) (k : Nat) (x : Port) : (s.setPort k x).periodNo = s.periodNo := rfl
@[simp] theorem State.setPort_seamFails (s : State) (k : Nat) (x : Port) : (s.setPort k x).seamFails = s.seamFails := rfl
@[simp] theorem State.setPort_seamRetired (s : State) (k : Nat) (x : Port) : (s.setPort k x).seamRetired = s.seamRetired := rfl
@[simp] theorem State.setPort_vfs (s : State) (k : Nat) (x : Port) : (s.setPort k x).vfs = s.vfs := rfl
@[simp] theorem State.setPort_parts (s : State) (k : Nat) (x : Port) : (s.setPort k x).parts = s.parts := rfl
@[simp] theorem State.setPort_regions (s : State) (k : Nat) (x : Port) : (s.setPort k x).regions = s.regions := rfl
@[simp] theorem State.setPort_tiles (s : State) (k : Nat) (x : Port) : (s.setPort k x).tiles = s.tiles := rfl
@[simp] theorem State.setPort_ports (s : State) (k : Nat) (x : Port) : (s.setPort k x).ports = s.ports.put k x := rfl
@[simp] theorem State.setPort_harts (s : State) (k : Nat) (x : Port) : (s.setPort k x).harts = s.harts := rfl
@[simp] theorem State.setPort_dies (s : State) (k : Nat) (x : Port) : (s.setPort k x).dies = s.dies := rfl
@[simp] theorem State.setPort_migs (s : State) (k : Nat) (x : Port) : (s.setPort k x).migs = s.migs := rfl
@[simp] theorem State.setPort_rails (s : State) (k : Nat) (x : Port) : (s.setPort k x).rails = s.rails := rfl
@[simp] theorem State.setPort_margins (s : State) (k : Nat) (x : Port) : (s.setPort k x).margins = s.margins := rfl
@[simp] theorem State.setPort_akend (s : State) (k : Nat) (x : Port) : (s.setPort k x).akend = s.akend := rfl
@[simp] theorem State.setPort_podX (s : State) (k : Nat) (x : Port) : (s.setPort k x).podX = s.podX := rfl
@[simp] theorem State.setPort_podY (s : State) (k : Nat) (x : Port) : (s.setPort k x).podY = s.podY := rfl
@[simp] theorem State.setPort_epoch (s : State) (k : Nat) (x : Port) : (s.setPort k x).epoch = s.epoch := rfl
@[simp] theorem State.setPort_best (s : State) (k : Nat) (x : Port) : (s.setPort k x).best = s.best := rfl
@[simp] theorem State.setPort_acks (s : State) (k : Nat) (x : Port) : (s.setPort k x).acks = s.acks := rfl
@[simp] theorem State.setPort_nmod (s : State) (k : Nat) (x : Port) : (s.setPort k x).nmod = s.nmod := rfl
@[simp] theorem State.setPort_leader (s : State) (k : Nat) (x : Port) : (s.setPort k x).leader = s.leader := rfl
@[simp] theorem State.setPort_selfOk (s : State) (k : Nat) (x : Port) : (s.setPort k x).selfOk = s.selfOk := rfl
@[simp] theorem State.setPort_loadedBy (s : State) (k : Nat) (x : Port) : (s.setPort k x).loadedBy = s.loadedBy := rfl
@[simp] theorem State.setPort_outCores (s : State) (k : Nat) (x : Port) : (s.setPort k x).outCores = s.outCores := rfl
@[simp] theorem State.setPort_colls (s : State) (k : Nat) (x : Port) : (s.setPort k x).colls = s.colls := rfl
@[simp] theorem State.setPort_collHead (s : State) (k : Nat) (x : Port) : (s.setPort k x).collHead = s.collHead := rfl
@[simp] theorem State.setPort_lostPeriods (s : State) (k : Nat) (x : Port) : (s.setPort k x).lostPeriods = s.lostPeriods := rfl
@[simp] theorem State.setPort_used (s : State) (k : Nat) (x : Port) : (s.setPort k x).used = s.used := rfl
@[simp] theorem State.setPort_lostGran (s : State) (k : Nat) (x : Port) : (s.setPort k x).lostGran = s.lostGran := rfl
@[simp] theorem State.setPort_saves (s : State) (k : Nat) (x : Port) : (s.setPort k x).saves = s.saves := rfl

/-! ### setHart -/

@[simp] theorem State.setHart_agenda (s : State) (h : Nat) (x : Hart) : (s.setHart h x).agenda = s.agenda := rfl
@[simp] theorem State.setHart_power (s : State) (h : Nat) (x : Hart) : (s.setHart h x).power = s.power := rfl
@[simp] theorem State.setHart_cycle (s : State) (h : Nat) (x : Hart) : (s.setHart h x).cycle = s.cycle := rfl
@[simp] theorem State.setHart_freeCtr (s : State) (h : Nat) (x : Hart) : (s.setHart h x).freeCtr = s.freeCtr := rfl
@[simp] theorem State.setHart_curSeq (s : State) (h : Nat) (x : Hart) : (s.setHart h x).curSeq = s.curSeq := rfl
@[simp] theorem State.setHart_curHart (s : State) (h : Nat) (x : Hart) : (s.setHart h x).curHart = s.curHart := rfl
@[simp] theorem State.setHart_curReg (s : State) (h : Nat) (x : Hart) : (s.setHart h x).curReg = s.curReg := rfl
@[simp] theorem State.setHart_mem (s : State) (h : Nat) (x : Hart) : (s.setHart h x).mem = s.mem := rfl
@[simp] theorem State.setHart_fuses (s : State) (h : Nat) (x : Hart) : (s.setHart h x).fuses = s.fuses := rfl
@[simp] theorem State.setHart_bootstat (s : State) (h : Nat) (x : Hart) : (s.setHart h x).bootstat = s.bootstat := rfl
@[simp] theorem State.setHart_staging (s : State) (h : Nat) (x : Hart) : (s.setHart h x).staging = s.staging := rfl
@[simp] theorem State.setHart_lastWin (s : State) (h : Nat) (x : Hart) : (s.setHart h x).lastWin = s.lastWin := rfl
@[simp] theorem State.setHart_firmware (s : State) (h : Nat) (x : Hart) : (s.setHart h x).firmware = s.firmware := rfl
@[simp] theorem State.setHart_hvImage (s : State) (h : Nat) (x : Hart) : (s.setHart h x).hvImage = s.hvImage := rfl
@[simp] theorem State.setHart_vdtab (s : State) (h : Nat) (x : Hart) : (s.setHart h x).vdtab = s.vdtab := rfl
@[simp] theorem State.setHart_updBad (s : State) (h : Nat) (x : Hart) : (s.setHart h x).updBad = s.updBad := rfl
@[simp] theorem State.setHart_updOffset (s : State) (h : Nat) (x : Hart) : (s.setHart h x).updOffset = s.updOffset := rfl
@[simp] theorem State.setHart_updPart (s : State) (h : Nat) (x : Hart) : (s.setHart h x).updPart = s.updPart := rfl
@[simp] theorem State.setHart_modErr (s : State) (h : Nat) (x : Hart) : (s.setHart h x).modErr = s.modErr := rfl
@[simp] theorem State.setHart_hvq (s : State) (h : Nat) (x : Hart) : (s.setHart h x).hvq = s.hvq := rfl
@[simp] theorem State.setHart_mkq (s : State) (h : Nat) (x : Hart) : (s.setHart h x).mkq = s.mkq := rfl
@[simp] theorem State.setHart_failed (s : State) (h : Nat) (x : Hart) : (s.setHart h x).failed = s.failed := rfl
@[simp] theorem State.setHart_journal (s : State) (h : Nat) (x : Hart) : (s.setHart h x).journal = s.journal := rfl
@[simp] theorem State.setHart_journalCap (s : State) (h : Nat) (x : Hart) : (s.setHart h x).journalCap = s.journalCap := rfl
@[simp] theorem State.setHart_periodNo (s : State) (h : Nat) (x : Hart) : (s.setHart h x).periodNo = s.periodNo := rfl
@[simp] theorem State.setHart_seamFails (s : State) (h : Nat) (x : Hart) : (s.setHart h x).seamFails = s.seamFails := rfl
@[simp] theorem State.setHart_seamRetired (s : State) (h : Nat) (x : Hart) : (s.setHart h x).seamRetired = s.seamRetired := rfl
@[simp] theorem State.setHart_vfs (s : State) (h : Nat) (x : Hart) : (s.setHart h x).vfs = s.vfs := rfl
@[simp] theorem State.setHart_parts (s : State) (h : Nat) (x : Hart) : (s.setHart h x).parts = s.parts := rfl
@[simp] theorem State.setHart_regions (s : State) (h : Nat) (x : Hart) : (s.setHart h x).regions = s.regions := rfl
@[simp] theorem State.setHart_tiles (s : State) (h : Nat) (x : Hart) : (s.setHart h x).tiles = s.tiles := rfl
@[simp] theorem State.setHart_ports (s : State) (h : Nat) (x : Hart) : (s.setHart h x).ports = s.ports := rfl
@[simp] theorem State.setHart_harts (s : State) (h : Nat) (x : Hart) : (s.setHart h x).harts = s.harts.put h x := rfl
@[simp] theorem State.setHart_dies (s : State) (h : Nat) (x : Hart) : (s.setHart h x).dies = s.dies := rfl
@[simp] theorem State.setHart_migs (s : State) (h : Nat) (x : Hart) : (s.setHart h x).migs = s.migs := rfl
@[simp] theorem State.setHart_rails (s : State) (h : Nat) (x : Hart) : (s.setHart h x).rails = s.rails := rfl
@[simp] theorem State.setHart_margins (s : State) (h : Nat) (x : Hart) : (s.setHart h x).margins = s.margins := rfl
@[simp] theorem State.setHart_akend (s : State) (h : Nat) (x : Hart) : (s.setHart h x).akend = s.akend := rfl
@[simp] theorem State.setHart_podX (s : State) (h : Nat) (x : Hart) : (s.setHart h x).podX = s.podX := rfl
@[simp] theorem State.setHart_podY (s : State) (h : Nat) (x : Hart) : (s.setHart h x).podY = s.podY := rfl
@[simp] theorem State.setHart_epoch (s : State) (h : Nat) (x : Hart) : (s.setHart h x).epoch = s.epoch := rfl
@[simp] theorem State.setHart_best (s : State) (h : Nat) (x : Hart) : (s.setHart h x).best = s.best := rfl
@[simp] theorem State.setHart_acks (s : State) (h : Nat) (x : Hart) : (s.setHart h x).acks = s.acks := rfl
@[simp] theorem State.setHart_nmod (s : State) (h : Nat) (x : Hart) : (s.setHart h x).nmod = s.nmod := rfl
@[simp] theorem State.setHart_leader (s : State) (h : Nat) (x : Hart) : (s.setHart h x).leader = s.leader := rfl
@[simp] theorem State.setHart_selfOk (s : State) (h : Nat) (x : Hart) : (s.setHart h x).selfOk = s.selfOk := rfl
@[simp] theorem State.setHart_loadedBy (s : State) (h : Nat) (x : Hart) : (s.setHart h x).loadedBy = s.loadedBy := rfl
@[simp] theorem State.setHart_outCores (s : State) (h : Nat) (x : Hart) : (s.setHart h x).outCores = s.outCores := rfl
@[simp] theorem State.setHart_colls (s : State) (h : Nat) (x : Hart) : (s.setHart h x).colls = s.colls := rfl
@[simp] theorem State.setHart_collHead (s : State) (h : Nat) (x : Hart) : (s.setHart h x).collHead = s.collHead := rfl
@[simp] theorem State.setHart_lostPeriods (s : State) (h : Nat) (x : Hart) : (s.setHart h x).lostPeriods = s.lostPeriods := rfl
@[simp] theorem State.setHart_used (s : State) (h : Nat) (x : Hart) : (s.setHart h x).used = s.used := rfl
@[simp] theorem State.setHart_lostGran (s : State) (h : Nat) (x : Hart) : (s.setHart h x).lostGran = s.lostGran := rfl
@[simp] theorem State.setHart_saves (s : State) (h : Nat) (x : Hart) : (s.setHart h x).saves = s.saves := rfl

/-! ### setVf -/

@[simp] theorem State.setVf_agenda (s : State) (v : Nat) (x : Vf) : (s.setVf v x).agenda = s.agenda := rfl
@[simp] theorem State.setVf_power (s : State) (v : Nat) (x : Vf) : (s.setVf v x).power = s.power := rfl
@[simp] theorem State.setVf_cycle (s : State) (v : Nat) (x : Vf) : (s.setVf v x).cycle = s.cycle := rfl
@[simp] theorem State.setVf_freeCtr (s : State) (v : Nat) (x : Vf) : (s.setVf v x).freeCtr = s.freeCtr := rfl
@[simp] theorem State.setVf_curSeq (s : State) (v : Nat) (x : Vf) : (s.setVf v x).curSeq = s.curSeq := rfl
@[simp] theorem State.setVf_curHart (s : State) (v : Nat) (x : Vf) : (s.setVf v x).curHart = s.curHart := rfl
@[simp] theorem State.setVf_curReg (s : State) (v : Nat) (x : Vf) : (s.setVf v x).curReg = s.curReg := rfl
@[simp] theorem State.setVf_mem (s : State) (v : Nat) (x : Vf) : (s.setVf v x).mem = s.mem := rfl
@[simp] theorem State.setVf_fuses (s : State) (v : Nat) (x : Vf) : (s.setVf v x).fuses = s.fuses := rfl
@[simp] theorem State.setVf_bootstat (s : State) (v : Nat) (x : Vf) : (s.setVf v x).bootstat = s.bootstat := rfl
@[simp] theorem State.setVf_staging (s : State) (v : Nat) (x : Vf) : (s.setVf v x).staging = s.staging := rfl
@[simp] theorem State.setVf_lastWin (s : State) (v : Nat) (x : Vf) : (s.setVf v x).lastWin = s.lastWin := rfl
@[simp] theorem State.setVf_firmware (s : State) (v : Nat) (x : Vf) : (s.setVf v x).firmware = s.firmware := rfl
@[simp] theorem State.setVf_hvImage (s : State) (v : Nat) (x : Vf) : (s.setVf v x).hvImage = s.hvImage := rfl
@[simp] theorem State.setVf_vdtab (s : State) (v : Nat) (x : Vf) : (s.setVf v x).vdtab = s.vdtab := rfl
@[simp] theorem State.setVf_updBad (s : State) (v : Nat) (x : Vf) : (s.setVf v x).updBad = s.updBad := rfl
@[simp] theorem State.setVf_updOffset (s : State) (v : Nat) (x : Vf) : (s.setVf v x).updOffset = s.updOffset := rfl
@[simp] theorem State.setVf_updPart (s : State) (v : Nat) (x : Vf) : (s.setVf v x).updPart = s.updPart := rfl
@[simp] theorem State.setVf_modErr (s : State) (v : Nat) (x : Vf) : (s.setVf v x).modErr = s.modErr := rfl
@[simp] theorem State.setVf_hvq (s : State) (v : Nat) (x : Vf) : (s.setVf v x).hvq = s.hvq := rfl
@[simp] theorem State.setVf_mkq (s : State) (v : Nat) (x : Vf) : (s.setVf v x).mkq = s.mkq := rfl
@[simp] theorem State.setVf_failed (s : State) (v : Nat) (x : Vf) : (s.setVf v x).failed = s.failed := rfl
@[simp] theorem State.setVf_journal (s : State) (v : Nat) (x : Vf) : (s.setVf v x).journal = s.journal := rfl
@[simp] theorem State.setVf_journalCap (s : State) (v : Nat) (x : Vf) : (s.setVf v x).journalCap = s.journalCap := rfl
@[simp] theorem State.setVf_periodNo (s : State) (v : Nat) (x : Vf) : (s.setVf v x).periodNo = s.periodNo := rfl
@[simp] theorem State.setVf_seamFails (s : State) (v : Nat) (x : Vf) : (s.setVf v x).seamFails = s.seamFails := rfl
@[simp] theorem State.setVf_seamRetired (s : State) (v : Nat) (x : Vf) : (s.setVf v x).seamRetired = s.seamRetired := rfl
@[simp] theorem State.setVf_vfs (s : State) (v : Nat) (x : Vf) : (s.setVf v x).vfs = s.vfs.put v x := rfl
@[simp] theorem State.setVf_parts (s : State) (v : Nat) (x : Vf) : (s.setVf v x).parts = s.parts := rfl
@[simp] theorem State.setVf_regions (s : State) (v : Nat) (x : Vf) : (s.setVf v x).regions = s.regions := rfl
@[simp] theorem State.setVf_tiles (s : State) (v : Nat) (x : Vf) : (s.setVf v x).tiles = s.tiles := rfl
@[simp] theorem State.setVf_ports (s : State) (v : Nat) (x : Vf) : (s.setVf v x).ports = s.ports := rfl
@[simp] theorem State.setVf_harts (s : State) (v : Nat) (x : Vf) : (s.setVf v x).harts = s.harts := rfl
@[simp] theorem State.setVf_dies (s : State) (v : Nat) (x : Vf) : (s.setVf v x).dies = s.dies := rfl
@[simp] theorem State.setVf_migs (s : State) (v : Nat) (x : Vf) : (s.setVf v x).migs = s.migs := rfl
@[simp] theorem State.setVf_rails (s : State) (v : Nat) (x : Vf) : (s.setVf v x).rails = s.rails := rfl
@[simp] theorem State.setVf_margins (s : State) (v : Nat) (x : Vf) : (s.setVf v x).margins = s.margins := rfl
@[simp] theorem State.setVf_akend (s : State) (v : Nat) (x : Vf) : (s.setVf v x).akend = s.akend := rfl
@[simp] theorem State.setVf_podX (s : State) (v : Nat) (x : Vf) : (s.setVf v x).podX = s.podX := rfl
@[simp] theorem State.setVf_podY (s : State) (v : Nat) (x : Vf) : (s.setVf v x).podY = s.podY := rfl
@[simp] theorem State.setVf_epoch (s : State) (v : Nat) (x : Vf) : (s.setVf v x).epoch = s.epoch := rfl
@[simp] theorem State.setVf_best (s : State) (v : Nat) (x : Vf) : (s.setVf v x).best = s.best := rfl
@[simp] theorem State.setVf_acks (s : State) (v : Nat) (x : Vf) : (s.setVf v x).acks = s.acks := rfl
@[simp] theorem State.setVf_nmod (s : State) (v : Nat) (x : Vf) : (s.setVf v x).nmod = s.nmod := rfl
@[simp] theorem State.setVf_leader (s : State) (v : Nat) (x : Vf) : (s.setVf v x).leader = s.leader := rfl
@[simp] theorem State.setVf_selfOk (s : State) (v : Nat) (x : Vf) : (s.setVf v x).selfOk = s.selfOk := rfl
@[simp] theorem State.setVf_loadedBy (s : State) (v : Nat) (x : Vf) : (s.setVf v x).loadedBy = s.loadedBy := rfl
@[simp] theorem State.setVf_outCores (s : State) (v : Nat) (x : Vf) : (s.setVf v x).outCores = s.outCores := rfl
@[simp] theorem State.setVf_colls (s : State) (v : Nat) (x : Vf) : (s.setVf v x).colls = s.colls := rfl
@[simp] theorem State.setVf_collHead (s : State) (v : Nat) (x : Vf) : (s.setVf v x).collHead = s.collHead := rfl
@[simp] theorem State.setVf_lostPeriods (s : State) (v : Nat) (x : Vf) : (s.setVf v x).lostPeriods = s.lostPeriods := rfl
@[simp] theorem State.setVf_used (s : State) (v : Nat) (x : Vf) : (s.setVf v x).used = s.used := rfl
@[simp] theorem State.setVf_lostGran (s : State) (v : Nat) (x : Vf) : (s.setVf v x).lostGran = s.lostGran := rfl
@[simp] theorem State.setVf_saves (s : State) (v : Nat) (x : Vf) : (s.setVf v x).saves = s.saves := rfl

/-! ### setDie -/

@[simp] theorem State.setDie_agenda (s : State) (k : Nat) (x : Stack) : (s.setDie k x).agenda = s.agenda := rfl
@[simp] theorem State.setDie_power (s : State) (k : Nat) (x : Stack) : (s.setDie k x).power = s.power := rfl
@[simp] theorem State.setDie_cycle (s : State) (k : Nat) (x : Stack) : (s.setDie k x).cycle = s.cycle := rfl
@[simp] theorem State.setDie_freeCtr (s : State) (k : Nat) (x : Stack) : (s.setDie k x).freeCtr = s.freeCtr := rfl
@[simp] theorem State.setDie_curSeq (s : State) (k : Nat) (x : Stack) : (s.setDie k x).curSeq = s.curSeq := rfl
@[simp] theorem State.setDie_curHart (s : State) (k : Nat) (x : Stack) : (s.setDie k x).curHart = s.curHart := rfl
@[simp] theorem State.setDie_curReg (s : State) (k : Nat) (x : Stack) : (s.setDie k x).curReg = s.curReg := rfl
@[simp] theorem State.setDie_mem (s : State) (k : Nat) (x : Stack) : (s.setDie k x).mem = s.mem := rfl
@[simp] theorem State.setDie_fuses (s : State) (k : Nat) (x : Stack) : (s.setDie k x).fuses = s.fuses := rfl
@[simp] theorem State.setDie_bootstat (s : State) (k : Nat) (x : Stack) : (s.setDie k x).bootstat = s.bootstat := rfl
@[simp] theorem State.setDie_staging (s : State) (k : Nat) (x : Stack) : (s.setDie k x).staging = s.staging := rfl
@[simp] theorem State.setDie_lastWin (s : State) (k : Nat) (x : Stack) : (s.setDie k x).lastWin = s.lastWin := rfl
@[simp] theorem State.setDie_firmware (s : State) (k : Nat) (x : Stack) : (s.setDie k x).firmware = s.firmware := rfl
@[simp] theorem State.setDie_hvImage (s : State) (k : Nat) (x : Stack) : (s.setDie k x).hvImage = s.hvImage := rfl
@[simp] theorem State.setDie_vdtab (s : State) (k : Nat) (x : Stack) : (s.setDie k x).vdtab = s.vdtab := rfl
@[simp] theorem State.setDie_updBad (s : State) (k : Nat) (x : Stack) : (s.setDie k x).updBad = s.updBad := rfl
@[simp] theorem State.setDie_updOffset (s : State) (k : Nat) (x : Stack) : (s.setDie k x).updOffset = s.updOffset := rfl
@[simp] theorem State.setDie_updPart (s : State) (k : Nat) (x : Stack) : (s.setDie k x).updPart = s.updPart := rfl
@[simp] theorem State.setDie_modErr (s : State) (k : Nat) (x : Stack) : (s.setDie k x).modErr = s.modErr := rfl
@[simp] theorem State.setDie_hvq (s : State) (k : Nat) (x : Stack) : (s.setDie k x).hvq = s.hvq := rfl
@[simp] theorem State.setDie_mkq (s : State) (k : Nat) (x : Stack) : (s.setDie k x).mkq = s.mkq := rfl
@[simp] theorem State.setDie_failed (s : State) (k : Nat) (x : Stack) : (s.setDie k x).failed = s.failed := rfl
@[simp] theorem State.setDie_journal (s : State) (k : Nat) (x : Stack) : (s.setDie k x).journal = s.journal := rfl
@[simp] theorem State.setDie_journalCap (s : State) (k : Nat) (x : Stack) : (s.setDie k x).journalCap = s.journalCap := rfl
@[simp] theorem State.setDie_periodNo (s : State) (k : Nat) (x : Stack) : (s.setDie k x).periodNo = s.periodNo := rfl
@[simp] theorem State.setDie_seamFails (s : State) (k : Nat) (x : Stack) : (s.setDie k x).seamFails = s.seamFails := rfl
@[simp] theorem State.setDie_seamRetired (s : State) (k : Nat) (x : Stack) : (s.setDie k x).seamRetired = s.seamRetired := rfl
@[simp] theorem State.setDie_vfs (s : State) (k : Nat) (x : Stack) : (s.setDie k x).vfs = s.vfs := rfl
@[simp] theorem State.setDie_parts (s : State) (k : Nat) (x : Stack) : (s.setDie k x).parts = s.parts := rfl
@[simp] theorem State.setDie_regions (s : State) (k : Nat) (x : Stack) : (s.setDie k x).regions = s.regions := rfl
@[simp] theorem State.setDie_tiles (s : State) (k : Nat) (x : Stack) : (s.setDie k x).tiles = s.tiles := rfl
@[simp] theorem State.setDie_ports (s : State) (k : Nat) (x : Stack) : (s.setDie k x).ports = s.ports := rfl
@[simp] theorem State.setDie_harts (s : State) (k : Nat) (x : Stack) : (s.setDie k x).harts = s.harts := rfl
@[simp] theorem State.setDie_dies (s : State) (k : Nat) (x : Stack) : (s.setDie k x).dies = s.dies.put k x := rfl
@[simp] theorem State.setDie_migs (s : State) (k : Nat) (x : Stack) : (s.setDie k x).migs = s.migs := rfl
@[simp] theorem State.setDie_rails (s : State) (k : Nat) (x : Stack) : (s.setDie k x).rails = s.rails := rfl
@[simp] theorem State.setDie_margins (s : State) (k : Nat) (x : Stack) : (s.setDie k x).margins = s.margins := rfl
@[simp] theorem State.setDie_akend (s : State) (k : Nat) (x : Stack) : (s.setDie k x).akend = s.akend := rfl
@[simp] theorem State.setDie_podX (s : State) (k : Nat) (x : Stack) : (s.setDie k x).podX = s.podX := rfl
@[simp] theorem State.setDie_podY (s : State) (k : Nat) (x : Stack) : (s.setDie k x).podY = s.podY := rfl
@[simp] theorem State.setDie_epoch (s : State) (k : Nat) (x : Stack) : (s.setDie k x).epoch = s.epoch := rfl
@[simp] theorem State.setDie_best (s : State) (k : Nat) (x : Stack) : (s.setDie k x).best = s.best := rfl
@[simp] theorem State.setDie_acks (s : State) (k : Nat) (x : Stack) : (s.setDie k x).acks = s.acks := rfl
@[simp] theorem State.setDie_nmod (s : State) (k : Nat) (x : Stack) : (s.setDie k x).nmod = s.nmod := rfl
@[simp] theorem State.setDie_leader (s : State) (k : Nat) (x : Stack) : (s.setDie k x).leader = s.leader := rfl
@[simp] theorem State.setDie_selfOk (s : State) (k : Nat) (x : Stack) : (s.setDie k x).selfOk = s.selfOk := rfl
@[simp] theorem State.setDie_loadedBy (s : State) (k : Nat) (x : Stack) : (s.setDie k x).loadedBy = s.loadedBy := rfl
@[simp] theorem State.setDie_outCores (s : State) (k : Nat) (x : Stack) : (s.setDie k x).outCores = s.outCores := rfl
@[simp] theorem State.setDie_colls (s : State) (k : Nat) (x : Stack) : (s.setDie k x).colls = s.colls := rfl
@[simp] theorem State.setDie_collHead (s : State) (k : Nat) (x : Stack) : (s.setDie k x).collHead = s.collHead := rfl
@[simp] theorem State.setDie_lostPeriods (s : State) (k : Nat) (x : Stack) : (s.setDie k x).lostPeriods = s.lostPeriods := rfl
@[simp] theorem State.setDie_used (s : State) (k : Nat) (x : Stack) : (s.setDie k x).used = s.used := rfl
@[simp] theorem State.setDie_lostGran (s : State) (k : Nat) (x : Stack) : (s.setDie k x).lostGran = s.lostGran := rfl
@[simp] theorem State.setDie_saves (s : State) (k : Nat) (x : Stack) : (s.setDie k x).saves = s.saves := rfl

/-! ### modPart -/

@[simp] theorem State.modPart_agenda (s : State) (p : Nat) (f : Partition → Partition) : (s.modPart p f).agenda = s.agenda := rfl
@[simp] theorem State.modPart_power (s : State) (p : Nat) (f : Partition → Partition) : (s.modPart p f).power = s.power := rfl
@[simp] theorem State.modPart_cycle (s : State) (p : Nat) (f : Partition → Partition) : (s.modPart p f).cycle = s.cycle := rfl
@[simp] theorem State.modPart_freeCtr (s : State) (p : Nat) (f : Partition → Partition) : (s.modPart p f).freeCtr = s.freeCtr := rfl
@[simp] theorem State.modPart_curSeq (s : State) (p : Nat) (f : Partition → Partition) : (s.modPart p f).curSeq = s.curSeq := rfl
@[simp] theorem State.modPart_curHart (s : State) (p : Nat) (f : Partition → Partition) : (s.modPart p f).curHart = s.curHart := rfl
@[simp] theorem State.modPart_curReg (s : State) (p : Nat) (f : Partition → Partition) : (s.modPart p f).curReg = s.curReg := rfl
@[simp] theorem State.modPart_mem (s : State) (p : Nat) (f : Partition → Partition) : (s.modPart p f).mem = s.mem := rfl
@[simp] theorem State.modPart_fuses (s : State) (p : Nat) (f : Partition → Partition) : (s.modPart p f).fuses = s.fuses := rfl
@[simp] theorem State.modPart_bootstat (s : State) (p : Nat) (f : Partition → Partition) : (s.modPart p f).bootstat = s.bootstat := rfl
@[simp] theorem State.modPart_staging (s : State) (p : Nat) (f : Partition → Partition) : (s.modPart p f).staging = s.staging := rfl
@[simp] theorem State.modPart_lastWin (s : State) (p : Nat) (f : Partition → Partition) : (s.modPart p f).lastWin = s.lastWin := rfl
@[simp] theorem State.modPart_firmware (s : State) (p : Nat) (f : Partition → Partition) : (s.modPart p f).firmware = s.firmware := rfl
@[simp] theorem State.modPart_hvImage (s : State) (p : Nat) (f : Partition → Partition) : (s.modPart p f).hvImage = s.hvImage := rfl
@[simp] theorem State.modPart_vdtab (s : State) (p : Nat) (f : Partition → Partition) : (s.modPart p f).vdtab = s.vdtab := rfl
@[simp] theorem State.modPart_updBad (s : State) (p : Nat) (f : Partition → Partition) : (s.modPart p f).updBad = s.updBad := rfl
@[simp] theorem State.modPart_updOffset (s : State) (p : Nat) (f : Partition → Partition) : (s.modPart p f).updOffset = s.updOffset := rfl
@[simp] theorem State.modPart_updPart (s : State) (p : Nat) (f : Partition → Partition) : (s.modPart p f).updPart = s.updPart := rfl
@[simp] theorem State.modPart_modErr (s : State) (p : Nat) (f : Partition → Partition) : (s.modPart p f).modErr = s.modErr := rfl
@[simp] theorem State.modPart_hvq (s : State) (p : Nat) (f : Partition → Partition) : (s.modPart p f).hvq = s.hvq := rfl
@[simp] theorem State.modPart_mkq (s : State) (p : Nat) (f : Partition → Partition) : (s.modPart p f).mkq = s.mkq := rfl
@[simp] theorem State.modPart_failed (s : State) (p : Nat) (f : Partition → Partition) : (s.modPart p f).failed = s.failed := rfl
@[simp] theorem State.modPart_journal (s : State) (p : Nat) (f : Partition → Partition) : (s.modPart p f).journal = s.journal := rfl
@[simp] theorem State.modPart_journalCap (s : State) (p : Nat) (f : Partition → Partition) : (s.modPart p f).journalCap = s.journalCap := rfl
@[simp] theorem State.modPart_periodNo (s : State) (p : Nat) (f : Partition → Partition) : (s.modPart p f).periodNo = s.periodNo := rfl
@[simp] theorem State.modPart_seamFails (s : State) (p : Nat) (f : Partition → Partition) : (s.modPart p f).seamFails = s.seamFails := rfl
@[simp] theorem State.modPart_seamRetired (s : State) (p : Nat) (f : Partition → Partition) : (s.modPart p f).seamRetired = s.seamRetired := rfl
@[simp] theorem State.modPart_vfs (s : State) (p : Nat) (f : Partition → Partition) : (s.modPart p f).vfs = s.vfs := rfl
@[simp] theorem State.modPart_parts (s : State) (p : Nat) (f : Partition → Partition) : (s.modPart p f).parts = s.parts.put p (f (s.part p)) := rfl
@[simp] theorem State.modPart_regions (s : State) (p : Nat) (f : Partition → Partition) : (s.modPart p f).regions = s.regions := rfl
@[simp] theorem State.modPart_tiles (s : State) (p : Nat) (f : Partition → Partition) : (s.modPart p f).tiles = s.tiles := rfl
@[simp] theorem State.modPart_ports (s : State) (p : Nat) (f : Partition → Partition) : (s.modPart p f).ports = s.ports := rfl
@[simp] theorem State.modPart_harts (s : State) (p : Nat) (f : Partition → Partition) : (s.modPart p f).harts = s.harts := rfl
@[simp] theorem State.modPart_dies (s : State) (p : Nat) (f : Partition → Partition) : (s.modPart p f).dies = s.dies := rfl
@[simp] theorem State.modPart_migs (s : State) (p : Nat) (f : Partition → Partition) : (s.modPart p f).migs = s.migs := rfl
@[simp] theorem State.modPart_rails (s : State) (p : Nat) (f : Partition → Partition) : (s.modPart p f).rails = s.rails := rfl
@[simp] theorem State.modPart_margins (s : State) (p : Nat) (f : Partition → Partition) : (s.modPart p f).margins = s.margins := rfl
@[simp] theorem State.modPart_akend (s : State) (p : Nat) (f : Partition → Partition) : (s.modPart p f).akend = s.akend := rfl
@[simp] theorem State.modPart_podX (s : State) (p : Nat) (f : Partition → Partition) : (s.modPart p f).podX = s.podX := rfl
@[simp] theorem State.modPart_podY (s : State) (p : Nat) (f : Partition → Partition) : (s.modPart p f).podY = s.podY := rfl
@[simp] theorem State.modPart_epoch (s : State) (p : Nat) (f : Partition → Partition) : (s.modPart p f).epoch = s.epoch := rfl
@[simp] theorem State.modPart_best (s : State) (p : Nat) (f : Partition → Partition) : (s.modPart p f).best = s.best := rfl
@[simp] theorem State.modPart_acks (s : State) (p : Nat) (f : Partition → Partition) : (s.modPart p f).acks = s.acks := rfl
@[simp] theorem State.modPart_nmod (s : State) (p : Nat) (f : Partition → Partition) : (s.modPart p f).nmod = s.nmod := rfl
@[simp] theorem State.modPart_leader (s : State) (p : Nat) (f : Partition → Partition) : (s.modPart p f).leader = s.leader := rfl
@[simp] theorem State.modPart_selfOk (s : State) (p : Nat) (f : Partition → Partition) : (s.modPart p f).selfOk = s.selfOk := rfl
@[simp] theorem State.modPart_loadedBy (s : State) (p : Nat) (f : Partition → Partition) : (s.modPart p f).loadedBy = s.loadedBy := rfl
@[simp] theorem State.modPart_outCores (s : State) (p : Nat) (f : Partition → Partition) : (s.modPart p f).outCores = s.outCores := rfl
@[simp] theorem State.modPart_colls (s : State) (p : Nat) (f : Partition → Partition) : (s.modPart p f).colls = s.colls := rfl
@[simp] theorem State.modPart_collHead (s : State) (p : Nat) (f : Partition → Partition) : (s.modPart p f).collHead = s.collHead := rfl
@[simp] theorem State.modPart_lostPeriods (s : State) (p : Nat) (f : Partition → Partition) : (s.modPart p f).lostPeriods = s.lostPeriods := rfl
@[simp] theorem State.modPart_used (s : State) (p : Nat) (f : Partition → Partition) : (s.modPart p f).used = s.used := rfl
@[simp] theorem State.modPart_lostGran (s : State) (p : Nat) (f : Partition → Partition) : (s.modPart p f).lostGran = s.lostGran := rfl
@[simp] theorem State.modPart_saves (s : State) (p : Nat) (f : Partition → Partition) : (s.modPart p f).saves = s.saves := rfl

/-! ### modTile -/

@[simp] theorem State.modTile_agenda (s : State) (t : Nat) (f : Tile → Tile) : (s.modTile t f).agenda = s.agenda := rfl
@[simp] theorem State.modTile_power (s : State) (t : Nat) (f : Tile → Tile) : (s.modTile t f).power = s.power := rfl
@[simp] theorem State.modTile_cycle (s : State) (t : Nat) (f : Tile → Tile) : (s.modTile t f).cycle = s.cycle := rfl
@[simp] theorem State.modTile_freeCtr (s : State) (t : Nat) (f : Tile → Tile) : (s.modTile t f).freeCtr = s.freeCtr := rfl
@[simp] theorem State.modTile_curSeq (s : State) (t : Nat) (f : Tile → Tile) : (s.modTile t f).curSeq = s.curSeq := rfl
@[simp] theorem State.modTile_curHart (s : State) (t : Nat) (f : Tile → Tile) : (s.modTile t f).curHart = s.curHart := rfl
@[simp] theorem State.modTile_curReg (s : State) (t : Nat) (f : Tile → Tile) : (s.modTile t f).curReg = s.curReg := rfl
@[simp] theorem State.modTile_mem (s : State) (t : Nat) (f : Tile → Tile) : (s.modTile t f).mem = s.mem := rfl
@[simp] theorem State.modTile_fuses (s : State) (t : Nat) (f : Tile → Tile) : (s.modTile t f).fuses = s.fuses := rfl
@[simp] theorem State.modTile_bootstat (s : State) (t : Nat) (f : Tile → Tile) : (s.modTile t f).bootstat = s.bootstat := rfl
@[simp] theorem State.modTile_staging (s : State) (t : Nat) (f : Tile → Tile) : (s.modTile t f).staging = s.staging := rfl
@[simp] theorem State.modTile_lastWin (s : State) (t : Nat) (f : Tile → Tile) : (s.modTile t f).lastWin = s.lastWin := rfl
@[simp] theorem State.modTile_firmware (s : State) (t : Nat) (f : Tile → Tile) : (s.modTile t f).firmware = s.firmware := rfl
@[simp] theorem State.modTile_hvImage (s : State) (t : Nat) (f : Tile → Tile) : (s.modTile t f).hvImage = s.hvImage := rfl
@[simp] theorem State.modTile_vdtab (s : State) (t : Nat) (f : Tile → Tile) : (s.modTile t f).vdtab = s.vdtab := rfl
@[simp] theorem State.modTile_updBad (s : State) (t : Nat) (f : Tile → Tile) : (s.modTile t f).updBad = s.updBad := rfl
@[simp] theorem State.modTile_updOffset (s : State) (t : Nat) (f : Tile → Tile) : (s.modTile t f).updOffset = s.updOffset := rfl
@[simp] theorem State.modTile_updPart (s : State) (t : Nat) (f : Tile → Tile) : (s.modTile t f).updPart = s.updPart := rfl
@[simp] theorem State.modTile_modErr (s : State) (t : Nat) (f : Tile → Tile) : (s.modTile t f).modErr = s.modErr := rfl
@[simp] theorem State.modTile_hvq (s : State) (t : Nat) (f : Tile → Tile) : (s.modTile t f).hvq = s.hvq := rfl
@[simp] theorem State.modTile_mkq (s : State) (t : Nat) (f : Tile → Tile) : (s.modTile t f).mkq = s.mkq := rfl
@[simp] theorem State.modTile_failed (s : State) (t : Nat) (f : Tile → Tile) : (s.modTile t f).failed = s.failed := rfl
@[simp] theorem State.modTile_journal (s : State) (t : Nat) (f : Tile → Tile) : (s.modTile t f).journal = s.journal := rfl
@[simp] theorem State.modTile_journalCap (s : State) (t : Nat) (f : Tile → Tile) : (s.modTile t f).journalCap = s.journalCap := rfl
@[simp] theorem State.modTile_periodNo (s : State) (t : Nat) (f : Tile → Tile) : (s.modTile t f).periodNo = s.periodNo := rfl
@[simp] theorem State.modTile_seamFails (s : State) (t : Nat) (f : Tile → Tile) : (s.modTile t f).seamFails = s.seamFails := rfl
@[simp] theorem State.modTile_seamRetired (s : State) (t : Nat) (f : Tile → Tile) : (s.modTile t f).seamRetired = s.seamRetired := rfl
@[simp] theorem State.modTile_vfs (s : State) (t : Nat) (f : Tile → Tile) : (s.modTile t f).vfs = s.vfs := rfl
@[simp] theorem State.modTile_parts (s : State) (t : Nat) (f : Tile → Tile) : (s.modTile t f).parts = s.parts := rfl
@[simp] theorem State.modTile_regions (s : State) (t : Nat) (f : Tile → Tile) : (s.modTile t f).regions = s.regions := rfl
@[simp] theorem State.modTile_tiles (s : State) (t : Nat) (f : Tile → Tile) : (s.modTile t f).tiles = s.tiles.put t (f (s.tile t)) := rfl
@[simp] theorem State.modTile_ports (s : State) (t : Nat) (f : Tile → Tile) : (s.modTile t f).ports = s.ports := rfl
@[simp] theorem State.modTile_harts (s : State) (t : Nat) (f : Tile → Tile) : (s.modTile t f).harts = s.harts := rfl
@[simp] theorem State.modTile_dies (s : State) (t : Nat) (f : Tile → Tile) : (s.modTile t f).dies = s.dies := rfl
@[simp] theorem State.modTile_migs (s : State) (t : Nat) (f : Tile → Tile) : (s.modTile t f).migs = s.migs := rfl
@[simp] theorem State.modTile_rails (s : State) (t : Nat) (f : Tile → Tile) : (s.modTile t f).rails = s.rails := rfl
@[simp] theorem State.modTile_margins (s : State) (t : Nat) (f : Tile → Tile) : (s.modTile t f).margins = s.margins := rfl
@[simp] theorem State.modTile_akend (s : State) (t : Nat) (f : Tile → Tile) : (s.modTile t f).akend = s.akend := rfl
@[simp] theorem State.modTile_podX (s : State) (t : Nat) (f : Tile → Tile) : (s.modTile t f).podX = s.podX := rfl
@[simp] theorem State.modTile_podY (s : State) (t : Nat) (f : Tile → Tile) : (s.modTile t f).podY = s.podY := rfl
@[simp] theorem State.modTile_epoch (s : State) (t : Nat) (f : Tile → Tile) : (s.modTile t f).epoch = s.epoch := rfl
@[simp] theorem State.modTile_best (s : State) (t : Nat) (f : Tile → Tile) : (s.modTile t f).best = s.best := rfl
@[simp] theorem State.modTile_acks (s : State) (t : Nat) (f : Tile → Tile) : (s.modTile t f).acks = s.acks := rfl
@[simp] theorem State.modTile_nmod (s : State) (t : Nat) (f : Tile → Tile) : (s.modTile t f).nmod = s.nmod := rfl
@[simp] theorem State.modTile_leader (s : State) (t : Nat) (f : Tile → Tile) : (s.modTile t f).leader = s.leader := rfl
@[simp] theorem State.modTile_selfOk (s : State) (t : Nat) (f : Tile → Tile) : (s.modTile t f).selfOk = s.selfOk := rfl
@[simp] theorem State.modTile_loadedBy (s : State) (t : Nat) (f : Tile → Tile) : (s.modTile t f).loadedBy = s.loadedBy := rfl
@[simp] theorem State.modTile_outCores (s : State) (t : Nat) (f : Tile → Tile) : (s.modTile t f).outCores = s.outCores := rfl
@[simp] theorem State.modTile_colls (s : State) (t : Nat) (f : Tile → Tile) : (s.modTile t f).colls = s.colls := rfl
@[simp] theorem State.modTile_collHead (s : State) (t : Nat) (f : Tile → Tile) : (s.modTile t f).collHead = s.collHead := rfl
@[simp] theorem State.modTile_lostPeriods (s : State) (t : Nat) (f : Tile → Tile) : (s.modTile t f).lostPeriods = s.lostPeriods := rfl
@[simp] theorem State.modTile_used (s : State) (t : Nat) (f : Tile → Tile) : (s.modTile t f).used = s.used := rfl
@[simp] theorem State.modTile_lostGran (s : State) (t : Nat) (f : Tile → Tile) : (s.modTile t f).lostGran = s.lostGran := rfl
@[simp] theorem State.modTile_saves (s : State) (t : Nat) (f : Tile → Tile) : (s.modTile t f).saves = s.saves := rfl

/-! ### modPort -/

@[simp] theorem State.modPort_agenda (s : State) (k : Nat) (f : Port → Port) : (s.modPort k f).agenda = s.agenda := rfl
@[simp] theorem State.modPort_power (s : State) (k : Nat) (f : Port → Port) : (s.modPort k f).power = s.power := rfl
@[simp] theorem State.modPort_cycle (s : State) (k : Nat) (f : Port → Port) : (s.modPort k f).cycle = s.cycle := rfl
@[simp] theorem State.modPort_freeCtr (s : State) (k : Nat) (f : Port → Port) : (s.modPort k f).freeCtr = s.freeCtr := rfl
@[simp] theorem State.modPort_curSeq (s : State) (k : Nat) (f : Port → Port) : (s.modPort k f).curSeq = s.curSeq := rfl
@[simp] theorem State.modPort_curHart (s : State) (k : Nat) (f : Port → Port) : (s.modPort k f).curHart = s.curHart := rfl
@[simp] theorem State.modPort_curReg (s : State) (k : Nat) (f : Port → Port) : (s.modPort k f).curReg = s.curReg := rfl
@[simp] theorem State.modPort_mem (s : State) (k : Nat) (f : Port → Port) : (s.modPort k f).mem = s.mem := rfl
@[simp] theorem State.modPort_fuses (s : State) (k : Nat) (f : Port → Port) : (s.modPort k f).fuses = s.fuses := rfl
@[simp] theorem State.modPort_bootstat (s : State) (k : Nat) (f : Port → Port) : (s.modPort k f).bootstat = s.bootstat := rfl
@[simp] theorem State.modPort_staging (s : State) (k : Nat) (f : Port → Port) : (s.modPort k f).staging = s.staging := rfl
@[simp] theorem State.modPort_lastWin (s : State) (k : Nat) (f : Port → Port) : (s.modPort k f).lastWin = s.lastWin := rfl
@[simp] theorem State.modPort_firmware (s : State) (k : Nat) (f : Port → Port) : (s.modPort k f).firmware = s.firmware := rfl
@[simp] theorem State.modPort_hvImage (s : State) (k : Nat) (f : Port → Port) : (s.modPort k f).hvImage = s.hvImage := rfl
@[simp] theorem State.modPort_vdtab (s : State) (k : Nat) (f : Port → Port) : (s.modPort k f).vdtab = s.vdtab := rfl
@[simp] theorem State.modPort_updBad (s : State) (k : Nat) (f : Port → Port) : (s.modPort k f).updBad = s.updBad := rfl
@[simp] theorem State.modPort_updOffset (s : State) (k : Nat) (f : Port → Port) : (s.modPort k f).updOffset = s.updOffset := rfl
@[simp] theorem State.modPort_updPart (s : State) (k : Nat) (f : Port → Port) : (s.modPort k f).updPart = s.updPart := rfl
@[simp] theorem State.modPort_modErr (s : State) (k : Nat) (f : Port → Port) : (s.modPort k f).modErr = s.modErr := rfl
@[simp] theorem State.modPort_hvq (s : State) (k : Nat) (f : Port → Port) : (s.modPort k f).hvq = s.hvq := rfl
@[simp] theorem State.modPort_mkq (s : State) (k : Nat) (f : Port → Port) : (s.modPort k f).mkq = s.mkq := rfl
@[simp] theorem State.modPort_failed (s : State) (k : Nat) (f : Port → Port) : (s.modPort k f).failed = s.failed := rfl
@[simp] theorem State.modPort_journal (s : State) (k : Nat) (f : Port → Port) : (s.modPort k f).journal = s.journal := rfl
@[simp] theorem State.modPort_journalCap (s : State) (k : Nat) (f : Port → Port) : (s.modPort k f).journalCap = s.journalCap := rfl
@[simp] theorem State.modPort_periodNo (s : State) (k : Nat) (f : Port → Port) : (s.modPort k f).periodNo = s.periodNo := rfl
@[simp] theorem State.modPort_seamFails (s : State) (k : Nat) (f : Port → Port) : (s.modPort k f).seamFails = s.seamFails := rfl
@[simp] theorem State.modPort_seamRetired (s : State) (k : Nat) (f : Port → Port) : (s.modPort k f).seamRetired = s.seamRetired := rfl
@[simp] theorem State.modPort_vfs (s : State) (k : Nat) (f : Port → Port) : (s.modPort k f).vfs = s.vfs := rfl
@[simp] theorem State.modPort_parts (s : State) (k : Nat) (f : Port → Port) : (s.modPort k f).parts = s.parts := rfl
@[simp] theorem State.modPort_regions (s : State) (k : Nat) (f : Port → Port) : (s.modPort k f).regions = s.regions := rfl
@[simp] theorem State.modPort_tiles (s : State) (k : Nat) (f : Port → Port) : (s.modPort k f).tiles = s.tiles := rfl
@[simp] theorem State.modPort_ports (s : State) (k : Nat) (f : Port → Port) : (s.modPort k f).ports = s.ports.put k (f (s.port k)) := rfl
@[simp] theorem State.modPort_harts (s : State) (k : Nat) (f : Port → Port) : (s.modPort k f).harts = s.harts := rfl
@[simp] theorem State.modPort_dies (s : State) (k : Nat) (f : Port → Port) : (s.modPort k f).dies = s.dies := rfl
@[simp] theorem State.modPort_migs (s : State) (k : Nat) (f : Port → Port) : (s.modPort k f).migs = s.migs := rfl
@[simp] theorem State.modPort_rails (s : State) (k : Nat) (f : Port → Port) : (s.modPort k f).rails = s.rails := rfl
@[simp] theorem State.modPort_margins (s : State) (k : Nat) (f : Port → Port) : (s.modPort k f).margins = s.margins := rfl
@[simp] theorem State.modPort_akend (s : State) (k : Nat) (f : Port → Port) : (s.modPort k f).akend = s.akend := rfl
@[simp] theorem State.modPort_podX (s : State) (k : Nat) (f : Port → Port) : (s.modPort k f).podX = s.podX := rfl
@[simp] theorem State.modPort_podY (s : State) (k : Nat) (f : Port → Port) : (s.modPort k f).podY = s.podY := rfl
@[simp] theorem State.modPort_epoch (s : State) (k : Nat) (f : Port → Port) : (s.modPort k f).epoch = s.epoch := rfl
@[simp] theorem State.modPort_best (s : State) (k : Nat) (f : Port → Port) : (s.modPort k f).best = s.best := rfl
@[simp] theorem State.modPort_acks (s : State) (k : Nat) (f : Port → Port) : (s.modPort k f).acks = s.acks := rfl
@[simp] theorem State.modPort_nmod (s : State) (k : Nat) (f : Port → Port) : (s.modPort k f).nmod = s.nmod := rfl
@[simp] theorem State.modPort_leader (s : State) (k : Nat) (f : Port → Port) : (s.modPort k f).leader = s.leader := rfl
@[simp] theorem State.modPort_selfOk (s : State) (k : Nat) (f : Port → Port) : (s.modPort k f).selfOk = s.selfOk := rfl
@[simp] theorem State.modPort_loadedBy (s : State) (k : Nat) (f : Port → Port) : (s.modPort k f).loadedBy = s.loadedBy := rfl
@[simp] theorem State.modPort_outCores (s : State) (k : Nat) (f : Port → Port) : (s.modPort k f).outCores = s.outCores := rfl
@[simp] theorem State.modPort_colls (s : State) (k : Nat) (f : Port → Port) : (s.modPort k f).colls = s.colls := rfl
@[simp] theorem State.modPort_collHead (s : State) (k : Nat) (f : Port → Port) : (s.modPort k f).collHead = s.collHead := rfl
@[simp] theorem State.modPort_lostPeriods (s : State) (k : Nat) (f : Port → Port) : (s.modPort k f).lostPeriods = s.lostPeriods := rfl
@[simp] theorem State.modPort_used (s : State) (k : Nat) (f : Port → Port) : (s.modPort k f).used = s.used := rfl
@[simp] theorem State.modPort_lostGran (s : State) (k : Nat) (f : Port → Port) : (s.modPort k f).lostGran = s.lostGran := rfl
@[simp] theorem State.modPort_saves (s : State) (k : Nat) (f : Port → Port) : (s.modPort k f).saves = s.saves := rfl

/-! ### modHart -/

@[simp] theorem State.modHart_agenda (s : State) (h : Nat) (f : Hart → Hart) : (s.modHart h f).agenda = s.agenda := rfl
@[simp] theorem State.modHart_power (s : State) (h : Nat) (f : Hart → Hart) : (s.modHart h f).power = s.power := rfl
@[simp] theorem State.modHart_cycle (s : State) (h : Nat) (f : Hart → Hart) : (s.modHart h f).cycle = s.cycle := rfl
@[simp] theorem State.modHart_freeCtr (s : State) (h : Nat) (f : Hart → Hart) : (s.modHart h f).freeCtr = s.freeCtr := rfl
@[simp] theorem State.modHart_curSeq (s : State) (h : Nat) (f : Hart → Hart) : (s.modHart h f).curSeq = s.curSeq := rfl
@[simp] theorem State.modHart_curHart (s : State) (h : Nat) (f : Hart → Hart) : (s.modHart h f).curHart = s.curHart := rfl
@[simp] theorem State.modHart_curReg (s : State) (h : Nat) (f : Hart → Hart) : (s.modHart h f).curReg = s.curReg := rfl
@[simp] theorem State.modHart_mem (s : State) (h : Nat) (f : Hart → Hart) : (s.modHart h f).mem = s.mem := rfl
@[simp] theorem State.modHart_fuses (s : State) (h : Nat) (f : Hart → Hart) : (s.modHart h f).fuses = s.fuses := rfl
@[simp] theorem State.modHart_bootstat (s : State) (h : Nat) (f : Hart → Hart) : (s.modHart h f).bootstat = s.bootstat := rfl
@[simp] theorem State.modHart_staging (s : State) (h : Nat) (f : Hart → Hart) : (s.modHart h f).staging = s.staging := rfl
@[simp] theorem State.modHart_lastWin (s : State) (h : Nat) (f : Hart → Hart) : (s.modHart h f).lastWin = s.lastWin := rfl
@[simp] theorem State.modHart_firmware (s : State) (h : Nat) (f : Hart → Hart) : (s.modHart h f).firmware = s.firmware := rfl
@[simp] theorem State.modHart_hvImage (s : State) (h : Nat) (f : Hart → Hart) : (s.modHart h f).hvImage = s.hvImage := rfl
@[simp] theorem State.modHart_vdtab (s : State) (h : Nat) (f : Hart → Hart) : (s.modHart h f).vdtab = s.vdtab := rfl
@[simp] theorem State.modHart_updBad (s : State) (h : Nat) (f : Hart → Hart) : (s.modHart h f).updBad = s.updBad := rfl
@[simp] theorem State.modHart_updOffset (s : State) (h : Nat) (f : Hart → Hart) : (s.modHart h f).updOffset = s.updOffset := rfl
@[simp] theorem State.modHart_updPart (s : State) (h : Nat) (f : Hart → Hart) : (s.modHart h f).updPart = s.updPart := rfl
@[simp] theorem State.modHart_modErr (s : State) (h : Nat) (f : Hart → Hart) : (s.modHart h f).modErr = s.modErr := rfl
@[simp] theorem State.modHart_hvq (s : State) (h : Nat) (f : Hart → Hart) : (s.modHart h f).hvq = s.hvq := rfl
@[simp] theorem State.modHart_mkq (s : State) (h : Nat) (f : Hart → Hart) : (s.modHart h f).mkq = s.mkq := rfl
@[simp] theorem State.modHart_failed (s : State) (h : Nat) (f : Hart → Hart) : (s.modHart h f).failed = s.failed := rfl
@[simp] theorem State.modHart_journal (s : State) (h : Nat) (f : Hart → Hart) : (s.modHart h f).journal = s.journal := rfl
@[simp] theorem State.modHart_journalCap (s : State) (h : Nat) (f : Hart → Hart) : (s.modHart h f).journalCap = s.journalCap := rfl
@[simp] theorem State.modHart_periodNo (s : State) (h : Nat) (f : Hart → Hart) : (s.modHart h f).periodNo = s.periodNo := rfl
@[simp] theorem State.modHart_seamFails (s : State) (h : Nat) (f : Hart → Hart) : (s.modHart h f).seamFails = s.seamFails := rfl
@[simp] theorem State.modHart_seamRetired (s : State) (h : Nat) (f : Hart → Hart) : (s.modHart h f).seamRetired = s.seamRetired := rfl
@[simp] theorem State.modHart_vfs (s : State) (h : Nat) (f : Hart → Hart) : (s.modHart h f).vfs = s.vfs := rfl
@[simp] theorem State.modHart_parts (s : State) (h : Nat) (f : Hart → Hart) : (s.modHart h f).parts = s.parts := rfl
@[simp] theorem State.modHart_regions (s : State) (h : Nat) (f : Hart → Hart) : (s.modHart h f).regions = s.regions := rfl
@[simp] theorem State.modHart_tiles (s : State) (h : Nat) (f : Hart → Hart) : (s.modHart h f).tiles = s.tiles := rfl
@[simp] theorem State.modHart_ports (s : State) (h : Nat) (f : Hart → Hart) : (s.modHart h f).ports = s.ports := rfl
@[simp] theorem State.modHart_harts (s : State) (h : Nat) (f : Hart → Hart) : (s.modHart h f).harts = s.harts.put h (f (s.hart h)) := rfl
@[simp] theorem State.modHart_dies (s : State) (h : Nat) (f : Hart → Hart) : (s.modHart h f).dies = s.dies := rfl
@[simp] theorem State.modHart_migs (s : State) (h : Nat) (f : Hart → Hart) : (s.modHart h f).migs = s.migs := rfl
@[simp] theorem State.modHart_rails (s : State) (h : Nat) (f : Hart → Hart) : (s.modHart h f).rails = s.rails := rfl
@[simp] theorem State.modHart_margins (s : State) (h : Nat) (f : Hart → Hart) : (s.modHart h f).margins = s.margins := rfl
@[simp] theorem State.modHart_akend (s : State) (h : Nat) (f : Hart → Hart) : (s.modHart h f).akend = s.akend := rfl
@[simp] theorem State.modHart_podX (s : State) (h : Nat) (f : Hart → Hart) : (s.modHart h f).podX = s.podX := rfl
@[simp] theorem State.modHart_podY (s : State) (h : Nat) (f : Hart → Hart) : (s.modHart h f).podY = s.podY := rfl
@[simp] theorem State.modHart_epoch (s : State) (h : Nat) (f : Hart → Hart) : (s.modHart h f).epoch = s.epoch := rfl
@[simp] theorem State.modHart_best (s : State) (h : Nat) (f : Hart → Hart) : (s.modHart h f).best = s.best := rfl
@[simp] theorem State.modHart_acks (s : State) (h : Nat) (f : Hart → Hart) : (s.modHart h f).acks = s.acks := rfl
@[simp] theorem State.modHart_nmod (s : State) (h : Nat) (f : Hart → Hart) : (s.modHart h f).nmod = s.nmod := rfl
@[simp] theorem State.modHart_leader (s : State) (h : Nat) (f : Hart → Hart) : (s.modHart h f).leader = s.leader := rfl
@[simp] theorem State.modHart_selfOk (s : State) (h : Nat) (f : Hart → Hart) : (s.modHart h f).selfOk = s.selfOk := rfl
@[simp] theorem State.modHart_loadedBy (s : State) (h : Nat) (f : Hart → Hart) : (s.modHart h f).loadedBy = s.loadedBy := rfl
@[simp] theorem State.modHart_outCores (s : State) (h : Nat) (f : Hart → Hart) : (s.modHart h f).outCores = s.outCores := rfl
@[simp] theorem State.modHart_colls (s : State) (h : Nat) (f : Hart → Hart) : (s.modHart h f).colls = s.colls := rfl
@[simp] theorem State.modHart_collHead (s : State) (h : Nat) (f : Hart → Hart) : (s.modHart h f).collHead = s.collHead := rfl
@[simp] theorem State.modHart_lostPeriods (s : State) (h : Nat) (f : Hart → Hart) : (s.modHart h f).lostPeriods = s.lostPeriods := rfl
@[simp] theorem State.modHart_used (s : State) (h : Nat) (f : Hart → Hart) : (s.modHart h f).used = s.used := rfl
@[simp] theorem State.modHart_lostGran (s : State) (h : Nat) (f : Hart → Hart) : (s.modHart h f).lostGran = s.lostGran := rfl
@[simp] theorem State.modHart_saves (s : State) (h : Nat) (f : Hart → Hart) : (s.modHart h f).saves = s.saves := rfl

/-! ### modVf -/

@[simp] theorem State.modVf_agenda (s : State) (v : Nat) (f : Vf → Vf) : (s.modVf v f).agenda = s.agenda := rfl
@[simp] theorem State.modVf_power (s : State) (v : Nat) (f : Vf → Vf) : (s.modVf v f).power = s.power := rfl
@[simp] theorem State.modVf_cycle (s : State) (v : Nat) (f : Vf → Vf) : (s.modVf v f).cycle = s.cycle := rfl
@[simp] theorem State.modVf_freeCtr (s : State) (v : Nat) (f : Vf → Vf) : (s.modVf v f).freeCtr = s.freeCtr := rfl
@[simp] theorem State.modVf_curSeq (s : State) (v : Nat) (f : Vf → Vf) : (s.modVf v f).curSeq = s.curSeq := rfl
@[simp] theorem State.modVf_curHart (s : State) (v : Nat) (f : Vf → Vf) : (s.modVf v f).curHart = s.curHart := rfl
@[simp] theorem State.modVf_curReg (s : State) (v : Nat) (f : Vf → Vf) : (s.modVf v f).curReg = s.curReg := rfl
@[simp] theorem State.modVf_mem (s : State) (v : Nat) (f : Vf → Vf) : (s.modVf v f).mem = s.mem := rfl
@[simp] theorem State.modVf_fuses (s : State) (v : Nat) (f : Vf → Vf) : (s.modVf v f).fuses = s.fuses := rfl
@[simp] theorem State.modVf_bootstat (s : State) (v : Nat) (f : Vf → Vf) : (s.modVf v f).bootstat = s.bootstat := rfl
@[simp] theorem State.modVf_staging (s : State) (v : Nat) (f : Vf → Vf) : (s.modVf v f).staging = s.staging := rfl
@[simp] theorem State.modVf_lastWin (s : State) (v : Nat) (f : Vf → Vf) : (s.modVf v f).lastWin = s.lastWin := rfl
@[simp] theorem State.modVf_firmware (s : State) (v : Nat) (f : Vf → Vf) : (s.modVf v f).firmware = s.firmware := rfl
@[simp] theorem State.modVf_hvImage (s : State) (v : Nat) (f : Vf → Vf) : (s.modVf v f).hvImage = s.hvImage := rfl
@[simp] theorem State.modVf_vdtab (s : State) (v : Nat) (f : Vf → Vf) : (s.modVf v f).vdtab = s.vdtab := rfl
@[simp] theorem State.modVf_updBad (s : State) (v : Nat) (f : Vf → Vf) : (s.modVf v f).updBad = s.updBad := rfl
@[simp] theorem State.modVf_updOffset (s : State) (v : Nat) (f : Vf → Vf) : (s.modVf v f).updOffset = s.updOffset := rfl
@[simp] theorem State.modVf_updPart (s : State) (v : Nat) (f : Vf → Vf) : (s.modVf v f).updPart = s.updPart := rfl
@[simp] theorem State.modVf_modErr (s : State) (v : Nat) (f : Vf → Vf) : (s.modVf v f).modErr = s.modErr := rfl
@[simp] theorem State.modVf_hvq (s : State) (v : Nat) (f : Vf → Vf) : (s.modVf v f).hvq = s.hvq := rfl
@[simp] theorem State.modVf_mkq (s : State) (v : Nat) (f : Vf → Vf) : (s.modVf v f).mkq = s.mkq := rfl
@[simp] theorem State.modVf_failed (s : State) (v : Nat) (f : Vf → Vf) : (s.modVf v f).failed = s.failed := rfl
@[simp] theorem State.modVf_journal (s : State) (v : Nat) (f : Vf → Vf) : (s.modVf v f).journal = s.journal := rfl
@[simp] theorem State.modVf_journalCap (s : State) (v : Nat) (f : Vf → Vf) : (s.modVf v f).journalCap = s.journalCap := rfl
@[simp] theorem State.modVf_periodNo (s : State) (v : Nat) (f : Vf → Vf) : (s.modVf v f).periodNo = s.periodNo := rfl
@[simp] theorem State.modVf_seamFails (s : State) (v : Nat) (f : Vf → Vf) : (s.modVf v f).seamFails = s.seamFails := rfl
@[simp] theorem State.modVf_seamRetired (s : State) (v : Nat) (f : Vf → Vf) : (s.modVf v f).seamRetired = s.seamRetired := rfl
@[simp] theorem State.modVf_vfs (s : State) (v : Nat) (f : Vf → Vf) : (s.modVf v f).vfs = s.vfs.put v (f (s.vf v)) := rfl
@[simp] theorem State.modVf_parts (s : State) (v : Nat) (f : Vf → Vf) : (s.modVf v f).parts = s.parts := rfl
@[simp] theorem State.modVf_regions (s : State) (v : Nat) (f : Vf → Vf) : (s.modVf v f).regions = s.regions := rfl
@[simp] theorem State.modVf_tiles (s : State) (v : Nat) (f : Vf → Vf) : (s.modVf v f).tiles = s.tiles := rfl
@[simp] theorem State.modVf_ports (s : State) (v : Nat) (f : Vf → Vf) : (s.modVf v f).ports = s.ports := rfl
@[simp] theorem State.modVf_harts (s : State) (v : Nat) (f : Vf → Vf) : (s.modVf v f).harts = s.harts := rfl
@[simp] theorem State.modVf_dies (s : State) (v : Nat) (f : Vf → Vf) : (s.modVf v f).dies = s.dies := rfl
@[simp] theorem State.modVf_migs (s : State) (v : Nat) (f : Vf → Vf) : (s.modVf v f).migs = s.migs := rfl
@[simp] theorem State.modVf_rails (s : State) (v : Nat) (f : Vf → Vf) : (s.modVf v f).rails = s.rails := rfl
@[simp] theorem State.modVf_margins (s : State) (v : Nat) (f : Vf → Vf) : (s.modVf v f).margins = s.margins := rfl
@[simp] theorem State.modVf_akend (s : State) (v : Nat) (f : Vf → Vf) : (s.modVf v f).akend = s.akend := rfl
@[simp] theorem State.modVf_podX (s : State) (v : Nat) (f : Vf → Vf) : (s.modVf v f).podX = s.podX := rfl
@[simp] theorem State.modVf_podY (s : State) (v : Nat) (f : Vf → Vf) : (s.modVf v f).podY = s.podY := rfl
@[simp] theorem State.modVf_epoch (s : State) (v : Nat) (f : Vf → Vf) : (s.modVf v f).epoch = s.epoch := rfl
@[simp] theorem State.modVf_best (s : State) (v : Nat) (f : Vf → Vf) : (s.modVf v f).best = s.best := rfl
@[simp] theorem State.modVf_acks (s : State) (v : Nat) (f : Vf → Vf) : (s.modVf v f).acks = s.acks := rfl
@[simp] theorem State.modVf_nmod (s : State) (v : Nat) (f : Vf → Vf) : (s.modVf v f).nmod = s.nmod := rfl
@[simp] theorem State.modVf_leader (s : State) (v : Nat) (f : Vf → Vf) : (s.modVf v f).leader = s.leader := rfl
@[simp] theorem State.modVf_selfOk (s : State) (v : Nat) (f : Vf → Vf) : (s.modVf v f).selfOk = s.selfOk := rfl
@[simp] theorem State.modVf_loadedBy (s : State) (v : Nat) (f : Vf → Vf) : (s.modVf v f).loadedBy = s.loadedBy := rfl
@[simp] theorem State.modVf_outCores (s : State) (v : Nat) (f : Vf → Vf) : (s.modVf v f).outCores = s.outCores := rfl
@[simp] theorem State.modVf_colls (s : State) (v : Nat) (f : Vf → Vf) : (s.modVf v f).colls = s.colls := rfl
@[simp] theorem State.modVf_collHead (s : State) (v : Nat) (f : Vf → Vf) : (s.modVf v f).collHead = s.collHead := rfl
@[simp] theorem State.modVf_lostPeriods (s : State) (v : Nat) (f : Vf → Vf) : (s.modVf v f).lostPeriods = s.lostPeriods := rfl
@[simp] theorem State.modVf_used (s : State) (v : Nat) (f : Vf → Vf) : (s.modVf v f).used = s.used := rfl
@[simp] theorem State.modVf_lostGran (s : State) (v : Nat) (f : Vf → Vf) : (s.modVf v f).lostGran = s.lostGran := rfl
@[simp] theorem State.modVf_saves (s : State) (v : Nat) (f : Vf → Vf) : (s.modVf v f).saves = s.saves := rfl

/-! ### touch -/

/-- What noting the granules of an access can do: two lists of the model's own change (R426). -/
theorem State.touch_only (s : State) (rn va n : Nat) :
    s.touch rn va n = { s with used := (s.touch rn va n).used, lostPeriods := (s.touch rn va n).lostPeriods } := by
  unfold State.touch; split <;> rfl

@[simp] theorem State.touch_agenda (s : State) (rn va n : Nat) : (s.touch rn va n).agenda = s.agenda := by rw [State.touch_only]
@[simp] theorem State.touch_power (s : State) (rn va n : Nat) : (s.touch rn va n).power = s.power := by rw [State.touch_only]
@[simp] theorem State.touch_cycle (s : State) (rn va n : Nat) : (s.touch rn va n).cycle = s.cycle := by rw [State.touch_only]
@[simp] theorem State.touch_freeCtr (s : State) (rn va n : Nat) : (s.touch rn va n).freeCtr = s.freeCtr := by rw [State.touch_only]
@[simp] theorem State.touch_curSeq (s : State) (rn va n : Nat) : (s.touch rn va n).curSeq = s.curSeq := by rw [State.touch_only]
@[simp] theorem State.touch_curHart (s : State) (rn va n : Nat) : (s.touch rn va n).curHart = s.curHart := by rw [State.touch_only]
@[simp] theorem State.touch_curReg (s : State) (rn va n : Nat) : (s.touch rn va n).curReg = s.curReg := by rw [State.touch_only]
@[simp] theorem State.touch_mem (s : State) (rn va n : Nat) : (s.touch rn va n).mem = s.mem := by rw [State.touch_only]
@[simp] theorem State.touch_fuses (s : State) (rn va n : Nat) : (s.touch rn va n).fuses = s.fuses := by rw [State.touch_only]
@[simp] theorem State.touch_bootstat (s : State) (rn va n : Nat) : (s.touch rn va n).bootstat = s.bootstat := by rw [State.touch_only]
@[simp] theorem State.touch_staging (s : State) (rn va n : Nat) : (s.touch rn va n).staging = s.staging := by rw [State.touch_only]
@[simp] theorem State.touch_lastWin (s : State) (rn va n : Nat) : (s.touch rn va n).lastWin = s.lastWin := by rw [State.touch_only]
@[simp] theorem State.touch_firmware (s : State) (rn va n : Nat) : (s.touch rn va n).firmware = s.firmware := by rw [State.touch_only]
@[simp] theorem State.touch_hvImage (s : State) (rn va n : Nat) : (s.touch rn va n).hvImage = s.hvImage := by rw [State.touch_only]
@[simp] theorem State.touch_vdtab (s : State) (rn va n : Nat) : (s.touch rn va n).vdtab = s.vdtab := by rw [State.touch_only]
@[simp] theorem State.touch_updBad (s : State) (rn va n : Nat) : (s.touch rn va n).updBad = s.updBad := by rw [State.touch_only]
@[simp] theorem State.touch_updOffset (s : State) (rn va n : Nat) : (s.touch rn va n).updOffset = s.updOffset := by rw [State.touch_only]
@[simp] theorem State.touch_updPart (s : State) (rn va n : Nat) : (s.touch rn va n).updPart = s.updPart := by rw [State.touch_only]
@[simp] theorem State.touch_modErr (s : State) (rn va n : Nat) : (s.touch rn va n).modErr = s.modErr := by rw [State.touch_only]
@[simp] theorem State.touch_hvq (s : State) (rn va n : Nat) : (s.touch rn va n).hvq = s.hvq := by rw [State.touch_only]
@[simp] theorem State.touch_mkq (s : State) (rn va n : Nat) : (s.touch rn va n).mkq = s.mkq := by rw [State.touch_only]
@[simp] theorem State.touch_failed (s : State) (rn va n : Nat) : (s.touch rn va n).failed = s.failed := by rw [State.touch_only]
@[simp] theorem State.touch_journal (s : State) (rn va n : Nat) : (s.touch rn va n).journal = s.journal := by rw [State.touch_only]
@[simp] theorem State.touch_journalCap (s : State) (rn va n : Nat) : (s.touch rn va n).journalCap = s.journalCap := by rw [State.touch_only]
@[simp] theorem State.touch_periodNo (s : State) (rn va n : Nat) : (s.touch rn va n).periodNo = s.periodNo := by rw [State.touch_only]
@[simp] theorem State.touch_seamFails (s : State) (rn va n : Nat) : (s.touch rn va n).seamFails = s.seamFails := by rw [State.touch_only]
@[simp] theorem State.touch_seamRetired (s : State) (rn va n : Nat) : (s.touch rn va n).seamRetired = s.seamRetired := by rw [State.touch_only]
@[simp] theorem State.touch_vfs (s : State) (rn va n : Nat) : (s.touch rn va n).vfs = s.vfs := by rw [State.touch_only]
@[simp] theorem State.touch_parts (s : State) (rn va n : Nat) : (s.touch rn va n).parts = s.parts := by rw [State.touch_only]
@[simp] theorem State.touch_regions (s : State) (rn va n : Nat) : (s.touch rn va n).regions = s.regions := by rw [State.touch_only]
@[simp] theorem State.touch_tiles (s : State) (rn va n : Nat) : (s.touch rn va n).tiles = s.tiles := by rw [State.touch_only]
@[simp] theorem State.touch_ports (s : State) (rn va n : Nat) : (s.touch rn va n).ports = s.ports := by rw [State.touch_only]
@[simp] theorem State.touch_harts (s : State) (rn va n : Nat) : (s.touch rn va n).harts = s.harts := by rw [State.touch_only]
@[simp] theorem State.touch_dies (s : State) (rn va n : Nat) : (s.touch rn va n).dies = s.dies := by rw [State.touch_only]
@[simp] theorem State.touch_migs (s : State) (rn va n : Nat) : (s.touch rn va n).migs = s.migs := by rw [State.touch_only]
@[simp] theorem State.touch_rails (s : State) (rn va n : Nat) : (s.touch rn va n).rails = s.rails := by rw [State.touch_only]
@[simp] theorem State.touch_margins (s : State) (rn va n : Nat) : (s.touch rn va n).margins = s.margins := by rw [State.touch_only]
@[simp] theorem State.touch_akend (s : State) (rn va n : Nat) : (s.touch rn va n).akend = s.akend := by rw [State.touch_only]
@[simp] theorem State.touch_podX (s : State) (rn va n : Nat) : (s.touch rn va n).podX = s.podX := by rw [State.touch_only]
@[simp] theorem State.touch_podY (s : State) (rn va n : Nat) : (s.touch rn va n).podY = s.podY := by rw [State.touch_only]
@[simp] theorem State.touch_epoch (s : State) (rn va n : Nat) : (s.touch rn va n).epoch = s.epoch := by rw [State.touch_only]
@[simp] theorem State.touch_best (s : State) (rn va n : Nat) : (s.touch rn va n).best = s.best := by rw [State.touch_only]
@[simp] theorem State.touch_acks (s : State) (rn va n : Nat) : (s.touch rn va n).acks = s.acks := by rw [State.touch_only]
@[simp] theorem State.touch_nmod (s : State) (rn va n : Nat) : (s.touch rn va n).nmod = s.nmod := by rw [State.touch_only]
@[simp] theorem State.touch_leader (s : State) (rn va n : Nat) : (s.touch rn va n).leader = s.leader := by rw [State.touch_only]
@[simp] theorem State.touch_selfOk (s : State) (rn va n : Nat) : (s.touch rn va n).selfOk = s.selfOk := by rw [State.touch_only]
@[simp] theorem State.touch_loadedBy (s : State) (rn va n : Nat) : (s.touch rn va n).loadedBy = s.loadedBy := by rw [State.touch_only]
@[simp] theorem State.touch_outCores (s : State) (rn va n : Nat) : (s.touch rn va n).outCores = s.outCores := by rw [State.touch_only]
@[simp] theorem State.touch_colls (s : State) (rn va n : Nat) : (s.touch rn va n).colls = s.colls := by rw [State.touch_only]
@[simp] theorem State.touch_collHead (s : State) (rn va n : Nat) : (s.touch rn va n).collHead = s.collHead := by rw [State.touch_only]
@[simp] theorem State.touch_lostGran (s : State) (rn va n : Nat) : (s.touch rn va n).lostGran = s.lostGran := by rw [State.touch_only]
@[simp] theorem State.touch_saves (s : State) (rn va n : Nat) : (s.touch rn va n).saves = s.saves := by rw [State.touch_only]

/-! ### modRegion and modSeq -/

@[simp] theorem State.modRegion_agenda (s : State) (rn : Nat) (f : Region → Region) : (s.modRegion rn f).agenda = s.agenda := by
  unfold State.modRegion; split <;> rfl
@[simp] theorem State.modRegion_power (s : State) (rn : Nat) (f : Region → Region) : (s.modRegion rn f).power = s.power := by
  unfold State.modRegion; split <;> rfl
@[simp] theorem State.modRegion_cycle (s : State) (rn : Nat) (f : Region → Region) : (s.modRegion rn f).cycle = s.cycle := by
  unfold State.modRegion; split <;> rfl
@[simp] theorem State.modRegion_freeCtr (s : State) (rn : Nat) (f : Region → Region) : (s.modRegion rn f).freeCtr = s.freeCtr := by
  unfold State.modRegion; split <;> rfl
@[simp] theorem State.modRegion_curSeq (s : State) (rn : Nat) (f : Region → Region) : (s.modRegion rn f).curSeq = s.curSeq := by
  unfold State.modRegion; split <;> rfl
@[simp] theorem State.modRegion_curHart (s : State) (rn : Nat) (f : Region → Region) : (s.modRegion rn f).curHart = s.curHart := by
  unfold State.modRegion; split <;> rfl
@[simp] theorem State.modRegion_curReg (s : State) (rn : Nat) (f : Region → Region) : (s.modRegion rn f).curReg = s.curReg := by
  unfold State.modRegion; split <;> rfl
@[simp] theorem State.modRegion_mem (s : State) (rn : Nat) (f : Region → Region) : (s.modRegion rn f).mem = s.mem := by
  unfold State.modRegion; split <;> rfl
@[simp] theorem State.modRegion_fuses (s : State) (rn : Nat) (f : Region → Region) : (s.modRegion rn f).fuses = s.fuses := by
  unfold State.modRegion; split <;> rfl
@[simp] theorem State.modRegion_bootstat (s : State) (rn : Nat) (f : Region → Region) : (s.modRegion rn f).bootstat = s.bootstat := by
  unfold State.modRegion; split <;> rfl
@[simp] theorem State.modRegion_staging (s : State) (rn : Nat) (f : Region → Region) : (s.modRegion rn f).staging = s.staging := by
  unfold State.modRegion; split <;> rfl
@[simp] theorem State.modRegion_lastWin (s : State) (rn : Nat) (f : Region → Region) : (s.modRegion rn f).lastWin = s.lastWin := by
  unfold State.modRegion; split <;> rfl
@[simp] theorem State.modRegion_firmware (s : State) (rn : Nat) (f : Region → Region) : (s.modRegion rn f).firmware = s.firmware := by
  unfold State.modRegion; split <;> rfl
@[simp] theorem State.modRegion_hvImage (s : State) (rn : Nat) (f : Region → Region) : (s.modRegion rn f).hvImage = s.hvImage := by
  unfold State.modRegion; split <;> rfl
@[simp] theorem State.modRegion_vdtab (s : State) (rn : Nat) (f : Region → Region) : (s.modRegion rn f).vdtab = s.vdtab := by
  unfold State.modRegion; split <;> rfl
@[simp] theorem State.modRegion_updBad (s : State) (rn : Nat) (f : Region → Region) : (s.modRegion rn f).updBad = s.updBad := by
  unfold State.modRegion; split <;> rfl
@[simp] theorem State.modRegion_updOffset (s : State) (rn : Nat) (f : Region → Region) : (s.modRegion rn f).updOffset = s.updOffset := by
  unfold State.modRegion; split <;> rfl
@[simp] theorem State.modRegion_updPart (s : State) (rn : Nat) (f : Region → Region) : (s.modRegion rn f).updPart = s.updPart := by
  unfold State.modRegion; split <;> rfl
@[simp] theorem State.modRegion_modErr (s : State) (rn : Nat) (f : Region → Region) : (s.modRegion rn f).modErr = s.modErr := by
  unfold State.modRegion; split <;> rfl
@[simp] theorem State.modRegion_hvq (s : State) (rn : Nat) (f : Region → Region) : (s.modRegion rn f).hvq = s.hvq := by
  unfold State.modRegion; split <;> rfl
@[simp] theorem State.modRegion_mkq (s : State) (rn : Nat) (f : Region → Region) : (s.modRegion rn f).mkq = s.mkq := by
  unfold State.modRegion; split <;> rfl
@[simp] theorem State.modRegion_failed (s : State) (rn : Nat) (f : Region → Region) : (s.modRegion rn f).failed = s.failed := by
  unfold State.modRegion; split <;> rfl
@[simp] theorem State.modRegion_journal (s : State) (rn : Nat) (f : Region → Region) : (s.modRegion rn f).journal = s.journal := by
  unfold State.modRegion; split <;> rfl
@[simp] theorem State.modRegion_journalCap (s : State) (rn : Nat) (f : Region → Region) : (s.modRegion rn f).journalCap = s.journalCap := by
  unfold State.modRegion; split <;> rfl
@[simp] theorem State.modRegion_periodNo (s : State) (rn : Nat) (f : Region → Region) : (s.modRegion rn f).periodNo = s.periodNo := by
  unfold State.modRegion; split <;> rfl
@[simp] theorem State.modRegion_seamFails (s : State) (rn : Nat) (f : Region → Region) : (s.modRegion rn f).seamFails = s.seamFails := by
  unfold State.modRegion; split <;> rfl
@[simp] theorem State.modRegion_seamRetired (s : State) (rn : Nat) (f : Region → Region) : (s.modRegion rn f).seamRetired = s.seamRetired := by
  unfold State.modRegion; split <;> rfl
@[simp] theorem State.modRegion_vfs (s : State) (rn : Nat) (f : Region → Region) : (s.modRegion rn f).vfs = s.vfs := by
  unfold State.modRegion; split <;> rfl
@[simp] theorem State.modRegion_parts (s : State) (rn : Nat) (f : Region → Region) : (s.modRegion rn f).parts = s.parts := by
  unfold State.modRegion; split <;> rfl
@[simp] theorem State.modRegion_tiles (s : State) (rn : Nat) (f : Region → Region) : (s.modRegion rn f).tiles = s.tiles := by
  unfold State.modRegion; split <;> rfl
@[simp] theorem State.modRegion_ports (s : State) (rn : Nat) (f : Region → Region) : (s.modRegion rn f).ports = s.ports := by
  unfold State.modRegion; split <;> rfl
@[simp] theorem State.modRegion_harts (s : State) (rn : Nat) (f : Region → Region) : (s.modRegion rn f).harts = s.harts := by
  unfold State.modRegion; split <;> rfl
@[simp] theorem State.modRegion_dies (s : State) (rn : Nat) (f : Region → Region) : (s.modRegion rn f).dies = s.dies := by
  unfold State.modRegion; split <;> rfl
@[simp] theorem State.modRegion_migs (s : State) (rn : Nat) (f : Region → Region) : (s.modRegion rn f).migs = s.migs := by
  unfold State.modRegion; split <;> rfl
@[simp] theorem State.modRegion_rails (s : State) (rn : Nat) (f : Region → Region) : (s.modRegion rn f).rails = s.rails := by
  unfold State.modRegion; split <;> rfl
@[simp] theorem State.modRegion_margins (s : State) (rn : Nat) (f : Region → Region) : (s.modRegion rn f).margins = s.margins := by
  unfold State.modRegion; split <;> rfl
@[simp] theorem State.modRegion_akend (s : State) (rn : Nat) (f : Region → Region) : (s.modRegion rn f).akend = s.akend := by
  unfold State.modRegion; split <;> rfl
@[simp] theorem State.modRegion_podX (s : State) (rn : Nat) (f : Region → Region) : (s.modRegion rn f).podX = s.podX := by
  unfold State.modRegion; split <;> rfl
@[simp] theorem State.modRegion_podY (s : State) (rn : Nat) (f : Region → Region) : (s.modRegion rn f).podY = s.podY := by
  unfold State.modRegion; split <;> rfl
@[simp] theorem State.modRegion_epoch (s : State) (rn : Nat) (f : Region → Region) : (s.modRegion rn f).epoch = s.epoch := by
  unfold State.modRegion; split <;> rfl
@[simp] theorem State.modRegion_best (s : State) (rn : Nat) (f : Region → Region) : (s.modRegion rn f).best = s.best := by
  unfold State.modRegion; split <;> rfl
@[simp] theorem State.modRegion_acks (s : State) (rn : Nat) (f : Region → Region) : (s.modRegion rn f).acks = s.acks := by
  unfold State.modRegion; split <;> rfl
@[simp] theorem State.modRegion_nmod (s : State) (rn : Nat) (f : Region → Region) : (s.modRegion rn f).nmod = s.nmod := by
  unfold State.modRegion; split <;> rfl
@[simp] theorem State.modRegion_leader (s : State) (rn : Nat) (f : Region → Region) : (s.modRegion rn f).leader = s.leader := by
  unfold State.modRegion; split <;> rfl
@[simp] theorem State.modRegion_selfOk (s : State) (rn : Nat) (f : Region → Region) : (s.modRegion rn f).selfOk = s.selfOk := by
  unfold State.modRegion; split <;> rfl
@[simp] theorem State.modRegion_loadedBy (s : State) (rn : Nat) (f : Region → Region) : (s.modRegion rn f).loadedBy = s.loadedBy := by
  unfold State.modRegion; split <;> rfl
@[simp] theorem State.modRegion_outCores (s : State) (rn : Nat) (f : Region → Region) : (s.modRegion rn f).outCores = s.outCores := by
  unfold State.modRegion; split <;> rfl
@[simp] theorem State.modRegion_colls (s : State) (rn : Nat) (f : Region → Region) : (s.modRegion rn f).colls = s.colls := by
  unfold State.modRegion; split <;> rfl
@[simp] theorem State.modRegion_collHead (s : State) (rn : Nat) (f : Region → Region) : (s.modRegion rn f).collHead = s.collHead := by
  unfold State.modRegion; split <;> rfl
@[simp] theorem State.modRegion_lostPeriods (s : State) (rn : Nat) (f : Region → Region) : (s.modRegion rn f).lostPeriods = s.lostPeriods := by
  unfold State.modRegion; split <;> rfl
@[simp] theorem State.modRegion_used (s : State) (rn : Nat) (f : Region → Region) : (s.modRegion rn f).used = s.used := by
  unfold State.modRegion; split <;> rfl
@[simp] theorem State.modRegion_lostGran (s : State) (rn : Nat) (f : Region → Region) : (s.modRegion rn f).lostGran = s.lostGran := by
  unfold State.modRegion; split <;> rfl
@[simp] theorem State.modRegion_saves (s : State) (rn : Nat) (f : Region → Region) : (s.modRegion rn f).saves = s.saves := by
  unfold State.modRegion; split <;> rfl
@[simp] theorem State.modSeq_agenda (s : State) (rn : Nat) (f : Seq → Seq) : (s.modSeq rn f).agenda = s.agenda := State.modRegion_agenda s rn _
@[simp] theorem State.modSeq_power (s : State) (rn : Nat) (f : Seq → Seq) : (s.modSeq rn f).power = s.power := State.modRegion_power s rn _
@[simp] theorem State.modSeq_cycle (s : State) (rn : Nat) (f : Seq → Seq) : (s.modSeq rn f).cycle = s.cycle := State.modRegion_cycle s rn _
@[simp] theorem State.modSeq_freeCtr (s : State) (rn : Nat) (f : Seq → Seq) : (s.modSeq rn f).freeCtr = s.freeCtr := State.modRegion_freeCtr s rn _
@[simp] theorem State.modSeq_curSeq (s : State) (rn : Nat) (f : Seq → Seq) : (s.modSeq rn f).curSeq = s.curSeq := State.modRegion_curSeq s rn _
@[simp] theorem State.modSeq_curHart (s : State) (rn : Nat) (f : Seq → Seq) : (s.modSeq rn f).curHart = s.curHart := State.modRegion_curHart s rn _
@[simp] theorem State.modSeq_curReg (s : State) (rn : Nat) (f : Seq → Seq) : (s.modSeq rn f).curReg = s.curReg := State.modRegion_curReg s rn _
@[simp] theorem State.modSeq_mem (s : State) (rn : Nat) (f : Seq → Seq) : (s.modSeq rn f).mem = s.mem := State.modRegion_mem s rn _
@[simp] theorem State.modSeq_fuses (s : State) (rn : Nat) (f : Seq → Seq) : (s.modSeq rn f).fuses = s.fuses := State.modRegion_fuses s rn _
@[simp] theorem State.modSeq_bootstat (s : State) (rn : Nat) (f : Seq → Seq) : (s.modSeq rn f).bootstat = s.bootstat := State.modRegion_bootstat s rn _
@[simp] theorem State.modSeq_staging (s : State) (rn : Nat) (f : Seq → Seq) : (s.modSeq rn f).staging = s.staging := State.modRegion_staging s rn _
@[simp] theorem State.modSeq_lastWin (s : State) (rn : Nat) (f : Seq → Seq) : (s.modSeq rn f).lastWin = s.lastWin := State.modRegion_lastWin s rn _
@[simp] theorem State.modSeq_firmware (s : State) (rn : Nat) (f : Seq → Seq) : (s.modSeq rn f).firmware = s.firmware := State.modRegion_firmware s rn _
@[simp] theorem State.modSeq_hvImage (s : State) (rn : Nat) (f : Seq → Seq) : (s.modSeq rn f).hvImage = s.hvImage := State.modRegion_hvImage s rn _
@[simp] theorem State.modSeq_vdtab (s : State) (rn : Nat) (f : Seq → Seq) : (s.modSeq rn f).vdtab = s.vdtab := State.modRegion_vdtab s rn _
@[simp] theorem State.modSeq_updBad (s : State) (rn : Nat) (f : Seq → Seq) : (s.modSeq rn f).updBad = s.updBad := State.modRegion_updBad s rn _
@[simp] theorem State.modSeq_updOffset (s : State) (rn : Nat) (f : Seq → Seq) : (s.modSeq rn f).updOffset = s.updOffset := State.modRegion_updOffset s rn _
@[simp] theorem State.modSeq_updPart (s : State) (rn : Nat) (f : Seq → Seq) : (s.modSeq rn f).updPart = s.updPart := State.modRegion_updPart s rn _
@[simp] theorem State.modSeq_modErr (s : State) (rn : Nat) (f : Seq → Seq) : (s.modSeq rn f).modErr = s.modErr := State.modRegion_modErr s rn _
@[simp] theorem State.modSeq_hvq (s : State) (rn : Nat) (f : Seq → Seq) : (s.modSeq rn f).hvq = s.hvq := State.modRegion_hvq s rn _
@[simp] theorem State.modSeq_mkq (s : State) (rn : Nat) (f : Seq → Seq) : (s.modSeq rn f).mkq = s.mkq := State.modRegion_mkq s rn _
@[simp] theorem State.modSeq_failed (s : State) (rn : Nat) (f : Seq → Seq) : (s.modSeq rn f).failed = s.failed := State.modRegion_failed s rn _
@[simp] theorem State.modSeq_journal (s : State) (rn : Nat) (f : Seq → Seq) : (s.modSeq rn f).journal = s.journal := State.modRegion_journal s rn _
@[simp] theorem State.modSeq_journalCap (s : State) (rn : Nat) (f : Seq → Seq) : (s.modSeq rn f).journalCap = s.journalCap := State.modRegion_journalCap s rn _
@[simp] theorem State.modSeq_periodNo (s : State) (rn : Nat) (f : Seq → Seq) : (s.modSeq rn f).periodNo = s.periodNo := State.modRegion_periodNo s rn _
@[simp] theorem State.modSeq_seamFails (s : State) (rn : Nat) (f : Seq → Seq) : (s.modSeq rn f).seamFails = s.seamFails := State.modRegion_seamFails s rn _
@[simp] theorem State.modSeq_seamRetired (s : State) (rn : Nat) (f : Seq → Seq) : (s.modSeq rn f).seamRetired = s.seamRetired := State.modRegion_seamRetired s rn _
@[simp] theorem State.modSeq_vfs (s : State) (rn : Nat) (f : Seq → Seq) : (s.modSeq rn f).vfs = s.vfs := State.modRegion_vfs s rn _
@[simp] theorem State.modSeq_parts (s : State) (rn : Nat) (f : Seq → Seq) : (s.modSeq rn f).parts = s.parts := State.modRegion_parts s rn _
@[simp] theorem State.modSeq_tiles (s : State) (rn : Nat) (f : Seq → Seq) : (s.modSeq rn f).tiles = s.tiles := State.modRegion_tiles s rn _
@[simp] theorem State.modSeq_ports (s : State) (rn : Nat) (f : Seq → Seq) : (s.modSeq rn f).ports = s.ports := State.modRegion_ports s rn _
@[simp] theorem State.modSeq_harts (s : State) (rn : Nat) (f : Seq → Seq) : (s.modSeq rn f).harts = s.harts := State.modRegion_harts s rn _
@[simp] theorem State.modSeq_dies (s : State) (rn : Nat) (f : Seq → Seq) : (s.modSeq rn f).dies = s.dies := State.modRegion_dies s rn _
@[simp] theorem State.modSeq_migs (s : State) (rn : Nat) (f : Seq → Seq) : (s.modSeq rn f).migs = s.migs := State.modRegion_migs s rn _
@[simp] theorem State.modSeq_rails (s : State) (rn : Nat) (f : Seq → Seq) : (s.modSeq rn f).rails = s.rails := State.modRegion_rails s rn _
@[simp] theorem State.modSeq_margins (s : State) (rn : Nat) (f : Seq → Seq) : (s.modSeq rn f).margins = s.margins := State.modRegion_margins s rn _
@[simp] theorem State.modSeq_akend (s : State) (rn : Nat) (f : Seq → Seq) : (s.modSeq rn f).akend = s.akend := State.modRegion_akend s rn _
@[simp] theorem State.modSeq_podX (s : State) (rn : Nat) (f : Seq → Seq) : (s.modSeq rn f).podX = s.podX := State.modRegion_podX s rn _
@[simp] theorem State.modSeq_podY (s : State) (rn : Nat) (f : Seq → Seq) : (s.modSeq rn f).podY = s.podY := State.modRegion_podY s rn _
@[simp] theorem State.modSeq_epoch (s : State) (rn : Nat) (f : Seq → Seq) : (s.modSeq rn f).epoch = s.epoch := State.modRegion_epoch s rn _
@[simp] theorem State.modSeq_best (s : State) (rn : Nat) (f : Seq → Seq) : (s.modSeq rn f).best = s.best := State.modRegion_best s rn _
@[simp] theorem State.modSeq_acks (s : State) (rn : Nat) (f : Seq → Seq) : (s.modSeq rn f).acks = s.acks := State.modRegion_acks s rn _
@[simp] theorem State.modSeq_nmod (s : State) (rn : Nat) (f : Seq → Seq) : (s.modSeq rn f).nmod = s.nmod := State.modRegion_nmod s rn _
@[simp] theorem State.modSeq_leader (s : State) (rn : Nat) (f : Seq → Seq) : (s.modSeq rn f).leader = s.leader := State.modRegion_leader s rn _
@[simp] theorem State.modSeq_selfOk (s : State) (rn : Nat) (f : Seq → Seq) : (s.modSeq rn f).selfOk = s.selfOk := State.modRegion_selfOk s rn _
@[simp] theorem State.modSeq_loadedBy (s : State) (rn : Nat) (f : Seq → Seq) : (s.modSeq rn f).loadedBy = s.loadedBy := State.modRegion_loadedBy s rn _
@[simp] theorem State.modSeq_outCores (s : State) (rn : Nat) (f : Seq → Seq) : (s.modSeq rn f).outCores = s.outCores := State.modRegion_outCores s rn _
@[simp] theorem State.modSeq_colls (s : State) (rn : Nat) (f : Seq → Seq) : (s.modSeq rn f).colls = s.colls := State.modRegion_colls s rn _
@[simp] theorem State.modSeq_collHead (s : State) (rn : Nat) (f : Seq → Seq) : (s.modSeq rn f).collHead = s.collHead := State.modRegion_collHead s rn _
@[simp] theorem State.modSeq_lostPeriods (s : State) (rn : Nat) (f : Seq → Seq) : (s.modSeq rn f).lostPeriods = s.lostPeriods := State.modRegion_lostPeriods s rn _
@[simp] theorem State.modSeq_used (s : State) (rn : Nat) (f : Seq → Seq) : (s.modSeq rn f).used = s.used := State.modRegion_used s rn _
@[simp] theorem State.modSeq_lostGran (s : State) (rn : Nat) (f : Seq → Seq) : (s.modSeq rn f).lostGran = s.lostGran := State.modRegion_lostGran s rn _
@[simp] theorem State.modSeq_saves (s : State) (rn : Nat) (f : Seq → Seq) : (s.modSeq rn f).saves = s.saves := State.modRegion_saves s rn _

end Sys2Proof.Machine
end

