-- ==== Sys2Proof/Laws/Issue.lean ====
section
/-! SUPPORT. What the shared operations over regions, sequencers and harts do: reads after writes of the tables, and issue. -/

namespace Sys2Proof.Machine

/-! ### Reads after writes of the tables -/

@[simp] theorem State.region?_setRegion_same (s : State) (n : Nat) (x : Region) : (s.setRegion n x).region? n = some x := by
  simp [State.region?]
theorem State.region?_setRegion_other (s : State) {n k : Nat} (x : Region) (h : k ≠ n) :
    (s.setRegion n x).region? k = s.region? k := Tbl.find_put_other _ _ h
@[simp] theorem State.part_setPart_same (s : State) (n : Nat) (x : Partition) : (s.setPart n x).part n = x := Tbl.get_put_same _ _ _ _
theorem State.part_setPart_other (s : State) {n k : Nat} (x : Partition) (h : k ≠ n) : (s.setPart n x).part k = s.part k :=
  Tbl.get_put_other _ _ _ h
@[simp] theorem State.tile_setTile_same (s : State) (n : Nat) (x : Tile) : (s.setTile n x).tile n = x := Tbl.get_put_same _ _ _ _
theorem State.tile_setTile_other (s : State) {n k : Nat} (x : Tile) (h : k ≠ n) : (s.setTile n x).tile k = s.tile k :=
  Tbl.get_put_other _ _ _ h
@[simp] theorem State.port_setPort_same (s : State) (n : Nat) (x : Port) : (s.setPort n x).port n = x := Tbl.get_put_same _ _ _ _
theorem State.port_setPort_other (s : State) {n k : Nat} (x : Port) (h : k ≠ n) : (s.setPort n x).port k = s.port k :=
  Tbl.get_put_other _ _ _ h
@[simp] theorem State.hart_setHart_same (s : State) (n : Nat) (x : Hart) : (s.setHart n x).hart n = x := Tbl.get_put_same _ _ _ _
theorem State.hart_setHart_other (s : State) {n k : Nat} (x : Hart) (h : k ≠ n) : (s.setHart n x).hart k = s.hart k :=
  Tbl.get_put_other _ _ _ h
@[simp] theorem State.vf_setVf_same (s : State) (n : Nat) (x : Vf) : (s.setVf n x).vf n = x := Tbl.get_put_same _ _ _ _
theorem State.vf_setVf_other (s : State) {n k : Nat} (x : Vf) (h : k ≠ n) : (s.setVf n x).vf k = s.vf k :=
  Tbl.get_put_other _ _ _ h

/-! ### Regions and sequencers -/

theorem State.modRegion_eq {s : State} {n : Nat} {r : Region} (h : s.region? n = some r) (f : Region → Region) :
    s.modRegion n f = s.setRegion n (f r) := by simp [State.modRegion, h]
theorem State.modRegion_none {s : State} {n : Nat} (h : s.region? n = none) (f : Region → Region) : s.modRegion n f = s := by
  simp [State.modRegion, h]
theorem State.modSeq_eq {s : State} {n : Nat} {r : Region} (h : s.region? n = some r) (f : Seq → Seq) :
    s.modSeq n f = s.setRegion n { r with seq := f r.seq } := State.modRegion_eq h _
theorem State.modSeq_cur {s : State} {r : Region} (h : s.region? s.curSeq = some r) (f : Seq → Seq) :
    s.modSeq s.curSeq f = s.withSeq r (f r.seq) := State.modRegion_eq h _

/-- An instruction that may issue is performed (R199). -/
theorem State.issue_ok {s : State} {r : Region} {srcs : List Src} {dst : Option Reg} (f : Region → State → State)
    (h : s.region? s.curSeq = some r) (hi : r.mayIssue srcs dst) : s.issue srcs dst f = f r s := by
  obtain ⟨h1, h2, h3, h4⟩ := hi
  have e1 : srcs.any (fun x => !r.srcFull x && x.t) = false := by
    simp only [List.any_eq_false, Region.srcFull]; intro x hx; simp [h3 x hx]
  have e2 : srcs.any (fun x => !r.srcFull x) = false := by
    simp only [List.any_eq_false, Region.srcFull]; intro x hx; simp [h3 x hx]
  unfold State.issue
  cases dst with
  | none => simp [h, h1, h2, e1, e2]
  | some d => simp [h, h1, h2, e1, e2, h4 d rfl]

/-- An instruction that waits while the region drains is performed in a RUNNING region (R410). -/
theorem State.issueRunning_ok {s : State} {r : Region} {srcs : List Src} {dst : Option Reg} (f : Region → State → State)
    (h : s.region? s.curSeq = some r) (hi : r.mayIssue srcs dst) (hr : r.state = .running) :
    s.issueRunning srcs dst f = f r s := by
  rw [State.issueRunning, State.issue_ok _ h hi]; simp [hr]

/-- A result written: the sequencer past its word. -/
theorem State.seqResult_eq {s : State} {r : Region} (h : s.region? s.curSeq = some r) (d : Reg) (v : Dword) :
    s.seqResult d v = s.withSeq r { (r.seq.set d v) with pc := r.seq.pc + 4 } := State.modSeq_cur h _

/-- Issue either leaves the state, traps FEEMPTY, or performs the instruction (R199). -/
theorem State.issue_cases (s : State) (srcs : List Src) (dst : Option Reg) (f : Region → State → State) :
    s.issue srcs dst f = s ∨ s.issue srcs dst f = s.trapNow fFEEMPTY ∨
    ∃ r, s.region? s.curSeq = some r ∧ s.issue srcs dst f = f r s := by
  unfold State.issue
  split
  · exact .inl rfl
  · next r h =>
    split
    · exact .inl rfl
    · split
      · exact .inr (.inl rfl)
      · split
        · exact .inl rfl
        · split
          · split
            · exact .inr (.inr ⟨r, h, rfl⟩)
            · exact .inl rfl
          · exact .inr (.inr ⟨r, h, rfl⟩)

/-! ### Registers -/

/-- s0 reads zero, whatever was written to it (R198). -/
@[simp] theorem Seq.get_zero (q : Seq) : q.get 0 = 0 := rfl
@[simp] theorem Seq.set_zero (q : Seq) (v : Dword) : q.set 0 v = q := rfl
@[simp] theorem Seq.set_pc (q : Seq) (i : Reg) (v : Dword) : (q.set i v).pc = q.pc := by unfold Seq.set; split <;> rfl
@[simp] theorem Seq.clear_pc (q : Seq) (i : Reg) : (q.clear i).pc = q.pc := by unfold Seq.clear; split <;> rfl
@[simp] theorem Seq.clear_regs (q : Seq) (i : Reg) : (q.clear i).regs = q.regs := by unfold Seq.clear; split <;> rfl
@[simp] theorem Hart.get_zero (h : Hart) : h.get 0 = 0 := rfl
@[simp] theorem Hart.set_zero (h : Hart) (v : Dword) : h.set 0 v = h := rfl

/-- A register other than the one written reads as before. -/
theorem Seq.get_set_other (q : Seq) {i j : Reg} (v : Dword) (h : j ≠ i) : (q.set i v).get j = q.get j := by
  have : i.toNat ≠ j.toNat := fun e => h (BitVec.eq_of_toNat_eq e.symm)
  unfold Seq.set Seq.get nth
  by_cases hj : j = 0
  · rw [if_pos hj, if_pos hj]
  · by_cases hi : i = 0
    · rw [if_pos hi]
    · rw [if_neg hj, if_neg hj, if_neg hi, List.getElem?_set_ne this]

/-- A register written reads as written. -/
theorem Seq.get_set_same (q : Seq) {i : Reg} (v : Dword) (h : i ≠ 0) (hl : q.regs.length = 32) : (q.set i v).get i = v := by
  have : i.toNat < q.regs.length := by rw [hl]; exact i.isLt
  unfold Seq.set Seq.get nth
  rw [if_neg h, if_neg h, List.getElem?_set_self this]; rfl

/-! ### Harts -/

theorem State.modHart_eq (s : State) (n : Nat) (f : Hart → Hart) : s.modHart n f = s.setHart n (f (s.hart n)) := rfl

theorem State.xResult_eq (s : State) (rd : Reg) (v : Dword) : s.xResult rd v = s.withResult rd v := by
  show s.setHart _ _ = s.setHart _ _
  congr 1
  unfold Hart.advance Hart.set
  show ({ (if rd = 0 then s.hart s.curHart else _) with pc := _ } : Hart) = _
  unfold State.me
  split <;> rfl

/-- A privileged instruction that the hart may run is performed (R12). -/
theorem State.xPriv_ok {s : State} {least : Nat} (rd : Reg) (adr : Option Reg) (f : Hart → State → State) (hw : s.me.wait = none)
    (hl : least ≤ s.me.mode.level) : s.xPriv rd least adr f = f s.me s := by
  unfold State.xPriv
  simp [hw, Nat.not_lt.2 hl]

/-- An instruction for a partition that the hart may run is performed (R146). -/
theorem State.xPart_ok {s : State} {least : Nat} (rd : Reg) (adr : Option Reg) (f : Hart → Nat → State → State) (h : s.mayRun least) :
    s.xPart rd least adr f = f s.me s.me.actPart s := by
  obtain ⟨hw, hl, hp⟩ := h
  rw [State.xPart, State.xPriv_ok rd _ _ hw hl]
  by_cases h2 : 2 ≤ s.me.mode.level
  · simp [h2, hp h2]
  · simp [h2]

/-- An instruction on a region that the hart may run is performed on it (R127). -/
theorem State.xRegion_ok {s : State} {rd rs1 : Reg} (adr : Option Reg) (f : Hart → Nat → Region → State → State) {rn : Nat} {r : Region}
    (h : s.mayRun 1) (hr : s.rgOf s.me.actPart (bits (s.me.get rs1) 31 0) = some (rn, r)) :
    s.xRegion rd rs1 adr f = f s.me rn r s := by
  rw [State.xRegion, State.xPart_ok rd _ _ h]; simp [hr]

end Sys2Proof.Machine
end

