-- ==== Sys2Proof/Laws/Faults.lean ====
section
/-! SUPPORT. What the shared operations of faults do: counts, trace records, posting a record, freezing a region, trapping. -/

namespace Sys2Proof.Machine

/-- Two states that agree but for memory. -/
def State.onlyMem (s t : State) : Prop := t = { s with mem := t.mem }

theorem State.onlyMem_refl (s : State) : s.onlyMem s := rfl
theorem State.onlyMem_mem (s : State) (m : Memory) : s.onlyMem { s with mem := m } := rfl
theorem State.onlyMem_regions {s t : State} (h : s.onlyMem t) : t.regions = s.regions := by rw [h]
theorem State.onlyMem_parts {s t : State} (h : s.onlyMem t) : t.parts = s.parts := by rw [h]
theorem State.onlyMem_curSeq {s t : State} (h : s.onlyMem t) : t.curSeq = s.curSeq := by rw [h]
theorem State.onlyMem_region {s t : State} (h : s.onlyMem t) (n : Nat) : t.region? n = s.region? n := by
  unfold State.region?; rw [State.onlyMem_regions h]
theorem State.onlyMem_part {s t : State} (h : s.onlyMem t) (n : Nat) : t.part n = s.part n := by
  unfold State.part; rw [State.onlyMem_parts h]

/-- A write to a structure of a partition changes memory alone. -/
theorem State.gwrite_onlyMem (s : State) (p ga : Nat) (bs : List Byte) : s.onlyMem (s.gwrite p ga bs) := by
  unfold State.gwrite; split
  · exact s.onlyMem_mem _
  · exact s.onlyMem_refl

/-- A count in an error block changes memory alone. -/
theorem State.errCount_onlyMem (s : State) (p off : Nat) : s.onlyMem (s.errCount p off) := by
  unfold State.errCount State.count32; split
  · split
    · exact s.onlyMem_refl
    · exact s.gwrite_onlyMem _ _ _
  · exact s.onlyMem_refl

/-- A partition as a trace record leaves it: only its trace ring's registers change. -/
def Partition.sameButTrace (P Q : Partition) : Prop :=
  Q = { P with trTail := Q.trTail, trPhase := Q.trPhase, trLost := Q.trLost }

/-- A trace record changes memory and the trace registers of the region's partition alone. -/
theorem State.trace_spec (s : State) (rn kind d0 d1 : Nat) :
    (s.trace rn kind d0 d1).regions = s.regions ∧ (s.trace rn kind d0 d1).tiles = s.tiles ∧
    (s.trace rn kind d0 d1).ports = s.ports ∧ (s.trace rn kind d0 d1).harts = s.harts ∧
    (s.trace rn kind d0 d1).curSeq = s.curSeq ∧ (s.trace rn kind d0 d1).hvq = s.hvq ∧
    ∀ p, (s.part p).sameButTrace ((s.trace rn kind d0 d1).part p) := by
  generalize ht : s.trace rn kind d0 d1 = t
  unfold State.trace at ht
  split at ht
  · subst ht; exact ⟨rfl, rfl, rfl, rfl, rfl, rfl, fun _ => rfl⟩
  · next g _ =>
    dsimp only at ht
    split at ht
    · subst ht; exact ⟨rfl, rfl, rfl, rfl, rfl, rfl, fun _ => rfl⟩
    · split at ht
      · subst ht; exact ⟨rfl, rfl, rfl, rfl, rfl, rfl, fun _ => rfl⟩
      · split at ht
        · subst ht
          refine ⟨rfl, rfl, rfl, rfl, rfl, rfl, fun p => ?_⟩
          by_cases hp : p = g.part
          · subst hp; rw [State.part_setPart_same]; rfl
          · rw [State.part_setPart_other _ _ hp]; rfl
        · next d _ _ _ =>
          generalize hu : s.gwrite g.part (d.trbase + 32 * (s.part g.part).trTail) _ = u at ht
          have hm : s.onlyMem u := hu ▸ s.gwrite_onlyMem _ _ _
          subst ht
          refine ⟨by rw [State.modPart_regions, hm], by rw [State.modPart_tiles, hm], by rw [State.modPart_ports, hm],
            by rw [State.modPart_harts, hm], by rw [State.modPart_curSeq, hm], by rw [State.modPart_hvq, hm], fun p => ?_⟩
          by_cases hp : p = g.part
          · subst hp
            unfold State.modPart
            rw [State.part_setPart_same, State.onlyMem_part hm]; rfl
          · unfold State.modPart
            rw [State.part_setPart_other _ _ hp, State.onlyMem_part hm]; rfl

theorem State.trace_region (s : State) (rn kind d0 d1 n : Nat) : (s.trace rn kind d0 d1).region? n = s.region? n := by
  unfold State.region?; rw [(s.trace_spec rn kind d0 d1).1]

/-- A record posted to the guest kernel's queue: it waits there last, under the next FID, and no region changes (R407). -/
theorem State.post_guest (s : State) (p : Nat) (r : FaultRec) :
    ((s.post p true false r).part p).fqWait = (s.part p).fqWait ++ [{ r with fid := (s.part p).nextFid, part := p }] ∧
    ((s.post p true false r).part p).nextFid = nextFid (s.part p).nextFid ∧
    (s.post p true false r).regions = s.regions ∧ (s.post p true false r).tiles = s.tiles := by
  unfold State.post
  simp only [Bool.true_and, if_true, Bool.false_eq_true, if_false]
  generalize hu : (if (s.part p).fqFull = true then s.errCount p 8 else s) = u
  have hm : s.onlyMem u := by
    subst hu; split
    · exact s.errCount_onlyMem _ _
    · exact s.onlyMem_refl
  unfold State.modPart
  rw [State.part_setPart_same, State.onlyMem_part hm, State.setPart_regions, State.setPart_tiles, State.onlyMem_regions hm]
  exact ⟨rfl, rfl, rfl, by rw [hm]⟩

/-- A freeze of a running or draining region (R153, R411). -/
theorem State.freeze_active {s : State} {rn : Nat} {r : Region} (why : Nat) (h : s.region? rn = some r) (ha : r.active = true) :
    (s.freeze rn why).region? rn = some { r with state := .freezing, frzWhy := why } ∧
    (∀ n, n ≠ rn → (s.freeze rn why).region? n = s.region? n) ∧
    ((s.freeze rn why).part r.part).fqWait = (s.part r.part).fqWait ∧
    (s.freeze rn why).mem = s.mem ∧ (s.freeze rn why).tiles = s.tiles := by
  have hs : s.freeze rn why =
      ((s.setRegion rn { r with state := .freezing, frzWhy := why }).withdrawAcqs rn r.part).modPart r.part fun P =>
        { P with held := P.held.filter (fun h => !(h.rn == rn && h.counts)) } := by
    unfold State.freeze; rw [h]
    unfold Region.active at ha
    cases hst : r.state <;> simp_all
  rw [hs]
  refine ⟨?_, fun n hn => ?_, ?_, rfl, rfl⟩
  · exact State.region?_setRegion_same s rn _
  · exact State.region?_setRegion_other s _ hn
  · unfold State.modPart; rw [State.part_setPart_same]
    unfold State.withdrawAcqs State.modPart; rw [State.part_setPart_same]; rfl

/-- A fault that freezes an active region: the record with FROZE waits last in the guest kernel's queue, and the region is FREEZING
(R405, R406). -/
theorem State.faultFreeze_active {s : State} {rn : Nat} {r : Region} (why : Nat) (f : FaultRec) (h : s.region? rn = some r)
    (ha : r.active = true) :
    (s.faultFreeze rn why f).region? rn = some { r with state := .freezing, frzWhy := why } ∧
    (∀ n, n ≠ rn → (s.faultFreeze rn why f).region? n = s.region? n) ∧
    ((s.faultFreeze rn why f).part r.part).fqWait = (s.part r.part).fqWait ++
      [{ s.inRegion rn { f with flags := f.flags ||| 4 } with fid := (s.part r.part).nextFid, part := r.part }] ∧
    (s.faultFreeze rn why f).tiles = s.tiles := by
  have hf : s.freezes rn = true := by
    unfold State.freezes; rw [h]; unfold Region.active at ha; revert ha; dsimp only
    cases r.state <;> decide
  unfold State.faultFreeze
  rw [h]
  simp only [hf, State.postRg]
  generalize hg : (s.inRegion rn { f with flags := f.flags ||| w (4 * b2n true) }) = g
  have hp := s.post_guest r.part g
  generalize hu : s.post r.part true false g = u at hp
  have ht := u.trace_spec rn 5 f.code.toNat (s.part r.part).nextFid
  generalize hv : u.trace rn 5 f.code.toNat (s.part r.part).nextFid = v at ht
  have hr : v.region? rn = some r := by unfold State.region? at h ⊢; rw [ht.1, hp.2.2.1]; exact h
  have hfr := State.freeze_active why hr ha
  refine ⟨hfr.1, fun n hn => ?_, ?_, ?_⟩
  · rw [hfr.2.1 n hn]; unfold State.region?; rw [ht.1, hp.2.2.1]
  · rw [hfr.2.2.1, ht.2.2.2.2.2.2 r.part]
    show (u.part r.part).fqWait = _
    rw [hp.1, ← hg]; rfl
  · rw [hfr.2.2.2.2, ht.2.1, hp.2.2.2]

/-- Naming a region in a record leaves its other fields. -/
theorem State.inRegion_eq (s : State) (rn : Nat) (f : FaultRec) :
    s.inRegion rn f = { f with region := (s.inRegion rn f).region, incarn := (s.inRegion rn f).incarn, version := (s.inRegion rn f).version } := by
  unfold State.inRegion; split <;> rfl

/-- A sequencer trap in an active region (R202, R406). -/
theorem State.seqTrap_active {s : State} {rn : Nat} {r : Region} (code : Nat) (addr aux : Dword) (h : s.region? rn = some r)
    (ha : r.active = true) :
    (s.seqTrap rn code addr aux).region? rn =
      some { r with state := .freezing, frzWhy := 5, seq := { r.seq with trapped := some (w code) } } ∧
    (∀ n, n ≠ rn → (s.seqTrap rn code addr aux).region? n = s.region? n) ∧
    (∃ f, ((s.seqTrap rn code addr aux).part r.part).fqWait = (s.part r.part).fqWait ++ [f] ∧ f.fid = (s.part r.part).nextFid ∧
      f.code = w code ∧ f.src = 1 ∧ f.flags = 4 ∧ f.place = w rn ∧ f.detail = w r.seq.pc ∧ f.addr = addr ∧ f.aux = aux) ∧
    (s.seqTrap rn code addr aux).tiles = s.tiles := by
  unfold State.seqTrap
  rw [h]
  simp only
  rw [State.modSeq_eq h]
  generalize hx : ({ r with seq := { r.seq with trapped := some (w code) } } : Region) = x
  have hax : x.active = true := by subst hx; exact ha
  have hpx : x.part = r.part := by subst hx; rfl
  have hf := State.faultFreeze_active (s := s.setRegion rn x) (rn := rn) 5
    { FaultRec.of code 1 with place := w rn, detail := w r.seq.pc, addr := addr, aux := aux } (by simp) hax
  rw [hpx] at hf
  refine ⟨?_, fun n hn => ?_, ?_, hf.2.2.2⟩
  · rw [hf.1]; subst hx; rfl
  · rw [hf.2.1 n hn]; exact State.region?_setRegion_other s x hn
  · refine ⟨_, hf.2.2.1, rfl, ?_, ?_, ?_, ?_, ?_, ?_, ?_⟩ <;> (rw [State.inRegion_eq]; try (first | rfl | (show (0 : Byte) ||| 4 = 4; decide)))

end Sys2Proof.Machine
end

