-- ==== Sys2Proof/Laws/Link.lean ====
section
/-! SUPPORT. What the shared operations of links and of guarded tables do: the bound of a retry buffer,
the port a port is cabled to, and the levels at which no access is denied. -/

namespace Sys2Proof.Machine

/-! ### Guarded tables (R12, R449) -/

/-- Nothing is denied at HV and above. -/
theorem State.denied_of_level (s : State) (x : Xlate) (va n : Nat) (write : Bool) {lvl : Nat} (h : 2 ≤ lvl) :
    s.denied lvl x va n write = none := if_pos h

/-- An access of no bytes is denied nowhere. -/
theorem State.denied_empty (s : State) (lvl : Nat) (x : Xlate) (va : Nat) (write : Bool) : s.denied lvl x va 0 write = none := by
  unfold State.denied; split <;> simp [piecesOf, pieces]

/-- A partition that is not in force has no table to guard. -/
theorem State.gaDenied_inactive (s : State) (lvl p ga n : Nat) (write : Bool) (h : (s.part p).desc = none) :
    s.gaDenied lvl p ga n write = false := by simp [State.gaDenied, h]

/-! ### Ports (R450) -/

/-- The port that the cabled one is cabled to is the port itself. -/
theorem facingPort_facingPort {p : Nat} (h : p < 32) : facingPort (facingPort p) = p := by unfold facingPort; omega

/-! ### Sending (R452) -/

/-- A flit sent leaves the retry buffer within its 64 places. -/
theorem Akend.send_retry (a : Akend) (p : PendFlit) (h : a.retry.length ≤ 64) : (a.send p).retry.length ≤ 64 := by
  unfold Akend.send; split
  · simp_all
  · exact h

/-- The flits that wait, sent as far as there is room, leave the retry buffer within its 64 places. -/
theorem Akend.pump_retry (a : Akend) (h : a.retry.length ≤ 64) : a.pump.retry.length ≤ 64 := by
  suffices hs : ∀ (l : List PendFlit) (b : Akend), b.retry.length ≤ 64 → (l.foldl Akend.send b).retry.length ≤ 64 from hs _ _ h
  intro l; induction l with
  | nil => exact fun _ hb => hb
  | cons p l ih => exact fun b hb => ih _ (b.send_retry p hb)

end Sys2Proof.Machine
end

