-- ==== Sys2Proof/Laws/PerInstr.lean ====
section
/-! SUPPORT. Facts about each constructor of Instr, one lemma for each: decoding its words gives it back. -/

namespace Sys2Proof.Laws.RoundTrip

/-- Decoding the words of a well-formed instruction, by the agent that fetches them, gives it back; an instruction with no words is
an event or the trap of a fetch (R49-R51, R75-R79, R201). -/
def Statement (i : Instr) : Prop :=
  WellFormed i = true →
    match encode i with
    | [] => isEvent i = true ∨ i = .badpc
    | [x] => decodeSeq x = i ∨ decodeXlan x = some i ∨ decodeStream false x = i
    | [e, x] => decodeStream false e = .cfgEsc 0 ∧ decodeStream true x = i
    | _ => False

theorem of_seq {i : Instr} {x : Word} (he : encode i = [x]) (h : decodeSeq x = i) : Statement i := by
  intro _; rw [he]; exact .inl h
theorem of_xlan {i : Instr} {x : Word} (he : encode i = [x]) (h : decodeXlan x = some i) : Statement i := by
  intro _; rw [he]; exact .inr (.inl h)
theorem of_stream {i : Instr} {x : Word} (he : encode i = [x]) (h : decodeStream false x = i) : Statement i := by
  intro _; rw [he]; exact .inr (.inr h)
theorem of_event {i : Instr} (he : encode i = []) (h : isEvent i = true) : Statement i := by
  intro _; rw [he]; exact .inl h

theorem alu {x : Word} {i : Instr} (h : fOpc x = 0) (hd : decodeAlu x = i) : decodeSeq x = i := by
  unfold decodeSeq; rw [if_pos h, hd]
theorem low {x : Word} {i : Instr} (h0 : fOpc x ≠ 0) (h : fOpc x < 0x18) (hd : decodeLow x = i) : decodeSeq x = i := by
  unfold decodeSeq; rw [if_neg h0, if_pos h, hd]
theorem high {x : Word} {i : Instr} (h : 0x18 ≤ fOpc x) (hd : decodeHigh x = i) : decodeSeq x = i := by
  unfold decodeSeq; rw [if_neg (by omega), if_neg (by omega), hd]
theorem ok {x : Word} {b : Bool} {i j : Instr} (hb : b = true) (h : i = j) : orIlleg x b i = j := by rw [orIlleg, hb, if_pos rfl, h]
theorem okX {x : Word} {b : Bool} {i j : Instr} (hb : b = true) (h : i = j) : orXill x b i = j := by rw [orXill, hb, if_pos rfl, h]
theorem cmd {x : Word} {i : Instr} (hx : x.extractLsb' 24 8 = 0xFF)
    (h : (match (x.extractLsb' 16 8).toNat with
    | 0 => Instr.cfgNop (x.extractLsb' 0 16)
    | 1 => .cfgBegin (x.extractLsb' 0 16)
    | 2 => .cfgEnd (x.extractLsb' 0 16)
    | 3 => .cfgWin (x.extractLsb' 0 16)
    | 4 => .cfgHi (x.extractLsb' 0 16)
    | 5 => .cfgSect (x.extractLsb' 0 16)
    | 6 => .cfgEsc (x.extractLsb' 0 16)
    | 7 => .cfgZwin (x.extractLsb' 0 16)
    | _ => .badcmd x) = i) : decodeStream false x = i := by
  unfold decodeStream; simp only [Bool.false_eq_true, if_false]; rw [if_pos hx]; exact h
theorem custom0 {x : Word} {i : Instr} (h : x.extractLsb' 0 7 = 0b0001011) (hd : decodeCustom0 x = i) : decodeXlan x = some i := by
  unfold decodeXlan; rw [if_pos h, hd]
theorem custom1 {x : Word} {i : Instr} (h : x.extractLsb' 0 7 = 0b0101011) (hd : decodeCustom1 x = i) : decodeXlan x = some i := by
  unfold decodeXlan; rw [if_neg (by rw [h]; decide), if_pos h, hd]

theorem hostSubmission (vf page w0) : Statement (.hostSubmission vf page w0) := of_event rfl rfl
theorem submissionPageBind (vf page qmask) : Statement (.submissionPageBind vf page qmask) := of_event rfl rfl
theorem launchExpansion (p q) : Statement (.launchExpansion p q) := of_event rfl rfl
theorem completionPost (vf q) : Statement (.completionPost vf q) := of_event rfl rfl
theorem crheadWrite (vf v) : Statement (.crheadWrite vf v) := of_event rfl rfl
theorem ringEnableWrite (vf v) : Statement (.ringEnableWrite vf v) := of_event rfl rfl
theorem functionLevelReset (vf) : Statement (.functionLevelReset vf) := of_event rfl rfl
theorem registerWrite (r v) : Statement (.registerWrite r v) := of_event rfl rfl
theorem regionPop (rn) : Statement (.regionPop rn) := of_event rfl rfl
theorem reservePushRetry (p q) : Statement (.reservePushRetry p q) := of_event rfl rfl
theorem trimPop (p q) : Statement (.trimPop p q) := of_event rfl rfl
theorem trimExecute (p i0) : Statement (.trimExecute p i0) := of_event rfl rfl
theorem glowUpdateApply (tile) : Statement (.glowUpdateApply tile) := of_event rfl rfl
theorem soGrant (p slot) : Statement (.soGrant p slot) := of_event rfl rfl
theorem xlanWaitInterrupt (h cause) : Statement (.xlanWaitInterrupt h cause) := of_event rfl rfl
theorem invalidationComplete (h) : Statement (.invalidationComplete h) := of_event rfl rfl
theorem cfgBegin (v) : Statement (.cfgBegin v) := of_stream rfl (cmd (idx_word _ _ _) (by rw [encC, fld_word]; show Instr.cfgBegin _ = _; rw [val_word]))
theorem cfgEnd (v) : Statement (.cfgEnd v) := of_stream rfl (cmd (idx_word _ _ _) (by rw [encC, fld_word]; show Instr.cfgEnd _ = _; rw [val_word]))
theorem cfgNop (v) : Statement (.cfgNop v) := of_stream rfl (cmd (idx_word _ _ _) (by rw [encC, fld_word]; show Instr.cfgNop _ = _; rw [val_word]))
theorem cfgWin (v) : Statement (.cfgWin v) := of_stream rfl (cmd (idx_word _ _ _) (by rw [encC, fld_word]; show Instr.cfgWin _ = _; rw [val_word]))
theorem cfgHi (v) : Statement (.cfgHi v) := of_stream rfl (cmd (idx_word _ _ _) (by rw [encC, fld_word]; show Instr.cfgHi _ = _; rw [val_word]))
theorem cfgSect (v) : Statement (.cfgSect v) := of_stream rfl (cmd (idx_word _ _ _) (by rw [encC, fld_word]; show Instr.cfgSect _ = _; rw [val_word]))
theorem cfgEsc (v) : Statement (.cfgEsc v) := of_stream rfl (cmd (idx_word _ _ _) (by rw [encC, fld_word]; show Instr.cfgEsc _ = _; rw [val_word]))
theorem cfgZwin (v) : Statement (.cfgZwin v) := of_stream rfl (cmd (idx_word _ _ _) (by rw [encC, fld_word]; show Instr.cfgZwin _ = _; rw [val_word]))
theorem cfgElementWrite (idx fld v) : Statement (.cfgElementWrite idx fld v) := by
  intro _
  by_cases h : idx = 0xFF
  · rw [show encode (.cfgElementWrite idx fld v) = [encC 6 0, idx ++ fld ++ v] from if_pos h]
    refine ⟨cmd (idx_word _ _ _) (by rw [encC, fld_word]; show Instr.cfgEsc _ = _; rw [val_word]), ?_⟩
    unfold decodeStream; rw [if_pos rfl]; show Instr.cfgElementWrite _ _ _ = _; rw [idx_word, fld_word, val_word]
  · rw [show encode (.cfgElementWrite idx fld v) = [idx ++ fld ++ v] from if_neg h]
    refine .inr (.inr ?_)
    unfold decodeStream; rw [if_neg Bool.false_ne_true, idx_word, if_neg h, fld_word, val_word]
theorem ctRuleFire (tile) : Statement (.ctRuleFire tile) := of_event rfl rfl
theorem mtRuleFire (tile) : Statement (.mtRuleFire tile) := of_event rfl rfl
theorem streamRuleFire (tile) : Statement (.streamRuleFire tile) := of_event rfl rfl
theorem classDone (tile c) : Statement (.classDone tile c) := of_event rfl rfl
theorem barrierSnuffMerge (tile) : Statement (.barrierSnuffMerge tile) := of_event rfl rfl
theorem reservedKindDrop (tile ch) : Statement (.reservedKindDrop tile ch) := of_event rfl rfl
theorem intersectDiscard (tile) : Statement (.intersectDiscard tile) := of_event rfl rfl
theorem beatTransfer (tile src) : Statement (.beatTransfer tile src) := of_event rfl rfl
theorem expressLaneTransfer (tile lane slot) : Statement (.expressLaneTransfer tile lane slot) := of_event rfl rfl
theorem seamBeatRetry (seam lane rn) : Statement (.seamBeatRetry seam lane rn) := of_event rfl rfl
theorem partitionRequestServe (tile) : Statement (.partitionRequestServe tile) := of_event rfl rfl
theorem gthResultEnqueue (tile) : Statement (.gthResultEnqueue tile) := of_event rfl rfl
theorem istrmBlockAccept (tile) : Statement (.istrmBlockAccept tile) := of_event rfl rfl
theorem indirectStreamRow (stack eng) : Statement (.indirectStreamRow stack eng) := of_event rfl rfl
theorem acqnGrant (tile) : Statement (.acqnGrant tile) := of_event rfl rfl
theorem macroUnitStart (tile u) : Statement (.macroUnitStart tile u) := of_event rfl rfl
theorem macroOpDone (tile u) : Statement (.macroOpDone tile u) := of_event rfl rfl
theorem empRequest (rn emp ch) : Statement (.empRequest rn emp ch) := of_event rfl rfl
theorem empWriteData (rn emp ch) : Statement (.empWriteData rn emp ch) := of_event rfl rfl
theorem empReply (rn emp ch) : Statement (.empReply rn emp ch) := of_event rfl rfl
theorem empMarkerForward (rn emp ch) : Statement (.empMarkerForward rn emp ch) := of_event rfl rfl
theorem faultRecordWrite (p) : Statement (.faultRecordWrite p) := of_event rfl rfl
theorem freezeLimitExpiry (rn) : Statement (.freezeLimitExpiry rn) := of_event rfl rfl
theorem copyBeat (rn i0) : Statement (.copyBeat rn i0) := of_event rfl rfl
theorem copyComplete (rn i0) : Statement (.copyComplete rn i0) := of_event rfl rfl
theorem seqLoadFill (rn i0) : Statement (.seqLoadFill rn i0) := of_event rfl rfl
theorem barrComplete (rn) : Statement (.barrComplete rn) := of_event rfl rfl
theorem freezeComplete (rn) : Statement (.freezeComplete rn) := of_event rfl rfl
theorem snuffDrainComplete (rn) : Statement (.snuffDrainComplete rn) := of_event rfl rfl
theorem saveComplete (rn) : Statement (.saveComplete rn) := of_event rfl rfl
theorem loadComplete (rn) : Statement (.loadComplete rn) := of_event rfl rfl
theorem rebaseComplete (rn) : Statement (.rebaseComplete rn) := of_event rfl rfl
theorem regionZeroingComplete (rn) : Statement (.regionZeroingComplete rn) := of_event rfl rfl
theorem debugStop (rn) : Statement (.debugStop rn) := of_event rfl rfl
theorem traceSample (rn) : Statement (.traceSample rn) := of_event rfl rfl
theorem pgMigGranule (i0 frame) : Statement (.pgMigGranule i0 frame) := of_event rfl rfl
theorem bistComplete (h test fails cycles) : Statement (.bistComplete h test fails cycles) := of_event rfl rfl
theorem partFailure (part users lost) : Statement (.partFailure part users lost) := of_event rfl rfl
theorem parityError (site) : Statement (.parityError site) := of_event rfl rfl
theorem memoryEccError (site correctable users) : Statement (.memoryEccError site correctable users) := of_event rfl rfl
theorem patrolScrub (site err) : Statement (.patrolScrub site err) := of_event rfl rfl
theorem serviceCall (p svc h result) : Statement (.serviceCall p svc h result) := of_event rfl rfl
theorem mapperPlace (p h req) : Statement (.mapperPlace p h req) := of_event rfl rfl
theorem storageRead (p h arg nvme) : Statement (.storageRead p h arg nvme) := of_event rfl rfl
theorem storageWrite (p h arg nvme) : Statement (.storageWrite p h arg nvme) := of_event rfl rfl
theorem storagePersist (p h arg nvme) : Statement (.storagePersist p h arg nvme) := of_event rfl rfl
theorem serviceWatchdogExpiry (p svc) : Statement (.serviceWatchdogExpiry p svc) := of_event rfl rfl
theorem loaderLoad (rn h obj buf) : Statement (.loaderLoad rn h obj buf) := of_event rfl rfl
theorem queueCreate (h v) : Statement (.queueCreate h v) := of_event rfl rfl
theorem queueDestroy (h v) : Statement (.queueDestroy h v) := of_event rfl rfl
theorem partitionDescriptorUpdate (h v) : Statement (.partitionDescriptorUpdate h v) := of_event rfl rfl
theorem vdresume (h v) : Statement (.vdresume h v) := of_event rfl rfl
theorem revokeGraph (h v) : Statement (.revokeGraph h v) := of_event rfl rfl
theorem revokeSyncObject (h v) : Statement (.revokeSyncObject h v) := of_event rfl rfl
theorem revokeAttnPage (h v) : Statement (.revokeAttnPage h v) := of_event rfl rfl
theorem revokeRegion (h v) : Statement (.revokeRegion h v) := of_event rfl rfl
theorem revokeQueue (h v) : Statement (.revokeQueue h v) := of_event rfl rfl
theorem faultQueueHeadWrite (h v) : Statement (.faultQueueHeadWrite h v) := of_event rfl rfl
theorem pageZero (h v) : Statement (.pageZero h v) := of_event rfl rfl
theorem debugArm (h v) : Statement (.debugArm h v) := of_event rfl rfl
theorem debugCancel (h v) : Statement (.debugCancel h v) := of_event rfl rfl
theorem voltageOffsetWrite (h v) : Statement (.voltageOffsetWrite h v) := of_event rfl rfl
theorem voltageSettled (rail) : Statement (.voltageSettled rail) := of_event rfl rfl
theorem linkMarginRun (h v) : Statement (.linkMarginRun h v) := of_event rfl rfl
theorem linkMarginDone (phy inst lane errs) : Statement (.linkMarginDone phy inst lane errs) := of_event rfl rfl
theorem coldReset : Statement (.coldReset) := of_event rfl rfl
theorem rstcold : Statement (.rstcold) := of_event rfl rfl
theorem rstwarm : Statement (.rstwarm) := of_event rfl rfl
theorem rst : Statement (.rst) := of_event rfl rfl
theorem firmwareImageVerify (win image) : Statement (.firmwareImageVerify win image) := of_event rfl rfl
theorem hypervisorImageLoad (win image epoch id) : Statement (.hypervisorImageLoad win image epoch id) := of_event rfl rfl
theorem akendDataFlit (port flit) : Statement (.akendDataFlit port flit) := of_event rfl rfl
theorem akendCreditFlit (port flit) : Statement (.akendCreditFlit port flit) := of_event rfl rfl
theorem akendRetryRequest (port flit) : Statement (.akendRetryRequest port flit) := of_event rfl rfl
theorem akendElectionFlit (port flit) : Statement (.akendElectionFlit port flit) := of_event rfl rfl
theorem akendIdleFlit (port flit) : Statement (.akendIdleFlit port flit) := of_event rfl rfl
theorem followerLoadTimeout : Statement (.followerLoadTimeout) := of_event rfl rfl
theorem leaderHeal (epoch id) : Statement (.leaderHeal epoch id) := of_event rfl rfl
theorem allreduce (p chip peers) : Statement (.allreduce p chip peers) := of_event rfl rfl
theorem reduce (p chip peers) : Statement (.reduce p chip peers) := of_event rfl rfl
theorem broadcast (p chip peers) : Statement (.broadcast p chip peers) := of_event rfl rfl
theorem allgather (p chip peers) : Statement (.allgather p chip peers) := of_event rfl rfl
theorem collectiveDone (p chip) : Statement (.collectiveDone p chip) := of_event rfl rfl
theorem collectiveTimeout (p chip) : Statement (.collectiveTimeout p chip) := of_event rfl rfl
theorem add (d a b) : Statement (.add d a b) := of_seq rfl (alu (fOpc_encR _ _ _ _ _) (by unfold decodeAlu; rw [fFn_encR]; show Instr.add _ _ _ = _; simp only [fD_encR, srcRA_encR, srcRB_encR, fFn_encR]))
theorem sub (d a b) : Statement (.sub d a b) := of_seq rfl (alu (fOpc_encR _ _ _ _ _) (by unfold decodeAlu; rw [fFn_encR]; show Instr.sub _ _ _ = _; simp only [fD_encR, srcRA_encR, srcRB_encR, fFn_encR]))
theorem and (d a b) : Statement (.and d a b) := of_seq rfl (alu (fOpc_encR _ _ _ _ _) (by unfold decodeAlu; rw [fFn_encR]; show Instr.and _ _ _ = _; simp only [fD_encR, srcRA_encR, srcRB_encR, fFn_encR]))
theorem or (d a b) : Statement (.or d a b) := of_seq rfl (alu (fOpc_encR _ _ _ _ _) (by unfold decodeAlu; rw [fFn_encR]; show Instr.or _ _ _ = _; simp only [fD_encR, srcRA_encR, srcRB_encR, fFn_encR]))
theorem xor (d a b) : Statement (.xor d a b) := of_seq rfl (alu (fOpc_encR _ _ _ _ _) (by unfold decodeAlu; rw [fFn_encR]; show Instr.xor _ _ _ = _; simp only [fD_encR, srcRA_encR, srcRB_encR, fFn_encR]))
theorem sll (d a b) : Statement (.sll d a b) := of_seq rfl (alu (fOpc_encR _ _ _ _ _) (by unfold decodeAlu; rw [fFn_encR]; show Instr.sll _ _ _ = _; simp only [fD_encR, srcRA_encR, srcRB_encR, fFn_encR]))
theorem srl (d a b) : Statement (.srl d a b) := of_seq rfl (alu (fOpc_encR _ _ _ _ _) (by unfold decodeAlu; rw [fFn_encR]; show Instr.srl _ _ _ = _; simp only [fD_encR, srcRA_encR, srcRB_encR, fFn_encR]))
theorem sra (d a b) : Statement (.sra d a b) := of_seq rfl (alu (fOpc_encR _ _ _ _ _) (by unfold decodeAlu; rw [fFn_encR]; show Instr.sra _ _ _ = _; simp only [fD_encR, srcRA_encR, srcRB_encR, fFn_encR]))
theorem slt (d a b) : Statement (.slt d a b) := of_seq rfl (alu (fOpc_encR _ _ _ _ _) (by unfold decodeAlu; rw [fFn_encR]; show Instr.slt _ _ _ = _; simp only [fD_encR, srcRA_encR, srcRB_encR, fFn_encR]))
theorem sltu (d a b) : Statement (.sltu d a b) := of_seq rfl (alu (fOpc_encR _ _ _ _ _) (by unfold decodeAlu; rw [fFn_encR]; show Instr.sltu _ _ _ = _; simp only [fD_encR, srcRA_encR, srcRB_encR, fFn_encR]))
theorem mul (d a b) : Statement (.mul d a b) := of_seq rfl (alu (fOpc_encR _ _ _ _ _) (by unfold decodeAlu; rw [fFn_encR]; show Instr.mul _ _ _ = _; simp only [fD_encR, srcRA_encR, srcRB_encR, fFn_encR]))
theorem mulhu (d a b) : Statement (.mulhu d a b) := of_seq rfl (alu (fOpc_encR _ _ _ _ _) (by unfold decodeAlu; rw [fFn_encR]; show Instr.mulhu _ _ _ = _; simp only [fD_encR, srcRA_encR, srcRB_encR, fFn_encR]))
theorem addi (d a imm) : Statement (.addi d a imm) := of_seq rfl (low (by rw [fOpc_encI]; decide) (by rw [fOpc_encI]; decide) (by unfold decodeLow; rw [fOpc_encI]; show Instr.addi _ _ _ = _; simp only [fD_encI, srcIA_encI, imm_encI]))
theorem andi (d a imm) : Statement (.andi d a imm) := of_seq rfl (low (by rw [fOpc_encI]; decide) (by rw [fOpc_encI]; decide) (by unfold decodeLow; rw [fOpc_encI]; show Instr.andi _ _ _ = _; simp only [fD_encI, srcIA_encI, imm_encI]))
theorem ori (d a imm) : Statement (.ori d a imm) := of_seq rfl (low (by rw [fOpc_encI]; decide) (by rw [fOpc_encI]; decide) (by unfold decodeLow; rw [fOpc_encI]; show Instr.ori _ _ _ = _; simp only [fD_encI, srcIA_encI, imm_encI]))
theorem xori (d a imm) : Statement (.xori d a imm) := of_seq rfl (low (by rw [fOpc_encI]; decide) (by rw [fOpc_encI]; decide) (by unfold decodeLow; rw [fOpc_encI]; show Instr.xori _ _ _ = _; simp only [fD_encI, srcIA_encI, imm_encI]))
theorem slli (d a sh) : Statement (.slli d a sh) := of_seq rfl (low (by rw [fOpc_encI]; decide) (by rw [fOpc_encI]; decide) (by unfold decodeLow; rw [fOpc_encI]; exact ok (by simp only [shz_encI]; rfl) (by simp only [fD_encI, srcIA_encI, sh_encI])))
theorem srli (d a sh) : Statement (.srli d a sh) := of_seq rfl (low (by rw [fOpc_encI]; decide) (by rw [fOpc_encI]; decide) (by unfold decodeLow; rw [fOpc_encI]; exact ok (by simp only [shz_encI]; rfl) (by simp only [fD_encI, srcIA_encI, sh_encI])))
theorem srai (d a sh) : Statement (.srai d a sh) := of_seq rfl (low (by rw [fOpc_encI]; decide) (by rw [fOpc_encI]; decide) (by unfold decodeLow; rw [fOpc_encI]; exact ok (by simp only [shz_encI]; rfl) (by simp only [fD_encI, srcIA_encI, sh_encI])))
theorem slti (d a imm) : Statement (.slti d a imm) := of_seq rfl (low (by rw [fOpc_encI]; decide) (by rw [fOpc_encI]; decide) (by unfold decodeLow; rw [fOpc_encI]; show Instr.slti _ _ _ = _; simp only [fD_encI, srcIA_encI, imm_encI]))
theorem lui (d imm) : Statement (.lui d imm) := of_seq rfl (low (by rw [fOpc_encU]; decide) (by rw [fOpc_encU]; decide) (by unfold decodeLow; rw [fOpc_encU]; show Instr.lui _ _ = _; simp only [fD_encU, imm_encU]))
theorem beq (a b off) : Statement (.beq a b off) := of_seq rfl (low (by rw [fOpc_encB]; decide) (by rw [fOpc_encB]; decide) (by unfold decodeLow; rw [fOpc_encB]; show Instr.beq _ _ _ = _; simp only [srcB1_encB, srcB2_encB, off_encB]))
theorem bne (a b off) : Statement (.bne a b off) := of_seq rfl (low (by rw [fOpc_encB]; decide) (by rw [fOpc_encB]; decide) (by unfold decodeLow; rw [fOpc_encB]; show Instr.bne _ _ _ = _; simp only [srcB1_encB, srcB2_encB, off_encB]))
theorem blt (a b off) : Statement (.blt a b off) := of_seq rfl (low (by rw [fOpc_encB]; decide) (by rw [fOpc_encB]; decide) (by unfold decodeLow; rw [fOpc_encB]; show Instr.blt _ _ _ = _; simp only [srcB1_encB, srcB2_encB, off_encB]))
theorem bge (a b off) : Statement (.bge a b off) := of_seq rfl (low (by rw [fOpc_encB]; decide) (by rw [fOpc_encB]; decide) (by unfold decodeLow; rw [fOpc_encB]; show Instr.bge _ _ _ = _; simp only [srcB1_encB, srcB2_encB, off_encB]))
theorem bltu (a b off) : Statement (.bltu a b off) := of_seq rfl (low (by rw [fOpc_encB]; decide) (by rw [fOpc_encB]; decide) (by unfold decodeLow; rw [fOpc_encB]; show Instr.bltu _ _ _ = _; simp only [srcB1_encB, srcB2_encB, off_encB]))
theorem bgeu (a b off) : Statement (.bgeu a b off) := of_seq rfl (low (by rw [fOpc_encB]; decide) (by rw [fOpc_encB]; decide) (by unfold decodeLow; rw [fOpc_encB]; show Instr.bgeu _ _ _ = _; simp only [srcB1_encB, srcB2_encB, off_encB]))
theorem jmp (off) : Statement (.jmp off) := of_seq rfl (low (by rw [fOpc_encJ]; decide) (by rw [fOpc_encJ]; decide) (by unfold decodeLow; rw [fOpc_encJ]; show Instr.jmp _ = _; simp only [off_encJ]))
theorem jal (off) : Statement (.jal off) := of_seq rfl (low (by rw [fOpc_encJ]; decide) (by rw [fOpc_encJ]; decide) (by unfold decodeLow; rw [fOpc_encJ]; show Instr.jal _ = _; simp only [off_encJ]))
theorem jr (d a) : Statement (.jr d a) := of_seq rfl (low (by rw [fOpc_encR]; decide) (by rw [fOpc_encR]; decide) (by unfold decodeLow; rw [fOpc_encR]; exact ok (by simp only [zB_encR, zFn_encR]; rfl) (by simp only [fD_encR, srcRA_encR, srcRB_encR, fFn_encR])))
theorem ld (d a imm) : Statement (.ld d a imm) := of_seq rfl (low (by rw [fOpc_encI]; decide) (by rw [fOpc_encI]; decide) (by unfold decodeLow; rw [fOpc_encI]; show Instr.ld _ _ _ = _; simp only [fD_encI, srcIA_encI, imm_encI]))
theorem st (b a imm) : Statement (.st b a imm) := of_seq rfl (low (by rw [fOpc_encS]; decide) (by rw [fOpc_encS]; decide) (by unfold decodeLow; rw [fOpc_encS]; show Instr.st _ _ _ = _; simp only [srcSB_encS, srcIA_encS, imm_encS]))
theorem lw (d a imm) : Statement (.lw d a imm) := of_seq rfl (low (by rw [fOpc_encI]; decide) (by rw [fOpc_encI]; decide) (by unfold decodeLow; rw [fOpc_encI]; show Instr.lw _ _ _ = _; simp only [fD_encI, srcIA_encI, imm_encI]))
theorem sw (b a imm) : Statement (.sw b a imm) := of_seq rfl (low (by rw [fOpc_encS]; decide) (by rw [fOpc_encS]; decide) (by unfold decodeLow; rw [fOpc_encS]; show Instr.sw _ _ _ = _; simp only [srcSB_encS, srcIA_encS, imm_encS]))
theorem cpy (d a) : Statement (.cpy d a) := of_seq rfl (high (by rw [fOpc_encR]; decide) (by unfold decodeHigh; rw [fOpc_encR]; exact ok (by simp only [zB_encR, zFn_encR]; rfl) (by simp only [fD_encR, srcRA_encR, srcRB_encR, fFn_encR])))
theorem cpy2 (d a) : Statement (.cpy2 d a) := of_seq rfl (high (by rw [fOpc_encR]; decide) (by unfold decodeHigh; rw [fOpc_encR]; exact ok (by simp only [zB_encR, zFn_encR]; rfl) (by simp only [fD_encR, srcRA_encR, srcRB_encR, fFn_encR])))
theorem cpyi (d a b n) : Statement (.cpyi d a b n) := of_seq rfl (high (by rw [fOpc_encR]; decide) (by unfold decodeHigh; rw [fOpc_encR]; show Instr.cpyi _ _ _ _ = _; simp only [fD_encR, srcRA_encR, srcRB_encR, fFn_encR]))
theorem cfg (d a b) : Statement (.cfg d a b) := of_seq rfl (high (by rw [fOpc_encR]; decide) (by unfold decodeHigh; rw [fOpc_encR]; exact ok (by simp only [zFn_encR]; rfl) (by simp only [fD_encR, srcRA_encR, srcRB_encR, fFn_encR])))
theorem arm (a b) : Statement (.arm a b) := of_seq rfl (high (by rw [fOpc_encR]; decide) (by unfold decodeHigh; rw [fOpc_encR]; exact ok (by simp only [zD_encR, zFn_encR]; rfl) (by simp only [fD_encR, srcRA_encR, srcRB_encR, fFn_encR])))
theorem fork (a m) : Statement (.fork a m) := of_seq rfl (high (by rw [fOpc_encR]; decide) (by unfold decodeHigh; rw [fOpc_encR]; exact ok (by simp only [zD_encR, zB_encR, mid6_encR]; rfl) (by simp only [srcRA_encR, low3_encR])))
theorem rdv (a) : Statement (.rdv a) := of_seq rfl (high (by rw [fOpc_encR]; decide) (by unfold decodeHigh; rw [fOpc_encR]; exact ok (by simp only [zD_encR, zB_encR, zFn_encR]; rfl) (by simp only [fD_encR, srcRA_encR, srcRB_encR, fFn_encR])))
theorem punct (a) : Statement (.punct a) := of_seq rfl (high (by rw [fOpc_encR]; decide) (by unfold decodeHigh; rw [fOpc_encR]; exact ok (by simp only [zD_encR, zB_encR, zFn_encR]; rfl) (by simp only [fD_encR, srcRA_encR, srcRB_encR, fFn_encR])))
theorem barr (d a) : Statement (.barr d a) := of_seq rfl (high (by rw [fOpc_encR]; decide) (by unfold decodeHigh; rw [fOpc_encR]; exact ok (by simp only [zB_encR, zFn_encR]; rfl) (by simp only [fD_encR, srcRA_encR, srcRB_encR, fFn_encR])))
theorem snuf : Statement (.snuf) := of_seq rfl (high (by rw [fOpc_encJ]; decide) (by unfold decodeHigh; rw [fOpc_encJ]; exact ok (by simp only [off_encJ]; rfl) rfl))
theorem spawnRecord (d a b) : Statement (.spawnRecord d a b) := of_seq rfl (high (by rw [fOpc_encR]; decide) (by unfold decodeHigh; rw [fOpc_encR]; show (if fFn _ = 0 then _ else if fFn _ = 1 then _ else _ : Instr) = _; rw [if_pos (fFn_encR _ _ _ _ _)]; simp only [fD_encR, srcRA_encR, srcRB_encR, fFn_encR]))
theorem spawnLaunch (d a b) : Statement (.spawnLaunch d a b) := of_seq rfl (high (by rw [fOpc_encR]; decide) (by unfold decodeHigh; rw [fOpc_encR]; show (if fFn _ = 0 then _ else if fFn _ = 1 then _ else _ : Instr) = _; rw [if_neg (by rw [fFn_encR]; decide), if_pos (fFn_encR _ _ _ _ _)]; simp only [fD_encR, srcRA_encR, srcRB_encR, fFn_encR]))
theorem join (d a) : Statement (.join d a) := of_seq rfl (high (by rw [fOpc_encR]; decide) (by unfold decodeHigh; rw [fOpc_encR]; exact ok (by simp only [zB_encR, zFn_encR]; rfl) (by simp only [fD_encR, srcRA_encR, srcRB_encR, fFn_encR])))
theorem retire : Statement (.retire) := of_seq rfl (high (by rw [fOpc_encJ]; decide) (by unfold decodeHigh; rw [fOpc_encJ]; exact ok (by simp only [off_encJ]; rfl) rfl))
theorem yield (a) : Statement (.yield a) := of_seq rfl (high (by rw [fOpc_encR]; decide) (by unfold decodeHigh; rw [fOpc_encR]; exact ok (by simp only [zD_encR, zB_encR, zFn_encR]; rfl) (by simp only [fD_encR, srcRA_encR, srcRB_encR, fFn_encR])))
theorem acq (d a b) : Statement (.acq d a b) := of_seq rfl (high (by rw [fOpc_encR]; decide) (by unfold decodeHigh; rw [fOpc_encR]; exact ok (by simp only [zFn_encR]; rfl) (by simp only [fD_encR, srcRA_encR, srcRB_encR, fFn_encR])))
theorem rel (d a) : Statement (.rel d a) := of_seq rfl (high (by rw [fOpc_encR]; decide) (by unfold decodeHigh; rw [fOpc_encR]; exact ok (by simp only [zB_encR, zFn_encR]; rfl) (by simp only [fD_encR, srcRA_encR, srcRB_encR, fFn_encR])))
theorem fencex (a b) : Statement (.fencex a b) := of_seq rfl (high (by rw [fOpc_encR]; decide) (by unfold decodeHigh; rw [fOpc_encR]; exact ok (by simp only [zD_encR, zFn_encR]; rfl) (by simp only [fD_encR, srcRA_encR, srcRB_encR, fFn_encR])))
theorem trim (d a b) : Statement (.trim d a b) := of_seq rfl (high (by rw [fOpc_encR]; decide) (by unfold decodeHigh; rw [fOpc_encR]; exact ok (by simp only [zFn_encR]; rfl) (by simp only [fD_encR, srcRA_encR, srcRB_encR, fFn_encR])))
theorem waittAll (d a) : Statement (.waittAll d a) := of_seq rfl (high (by rw [fOpc_encR]; decide) (by unfold decodeHigh; rw [fOpc_encR]; show (if (!zB _) = true then _ else if fFn _ = 0 then _ else if fFn _ = 1 then _ else _ : Instr) = _; rw [if_neg (by rw [zB_encR]; decide)]; rw [if_pos (fFn_encR _ _ _ _ _)]; simp only [fD_encR, srcRA_encR, srcRB_encR, fFn_encR]))
theorem waittAny (d a) : Statement (.waittAny d a) := of_seq rfl (high (by rw [fOpc_encR]; decide) (by unfold decodeHigh; rw [fOpc_encR]; show (if (!zB _) = true then _ else if fFn _ = 0 then _ else if fFn _ = 1 then _ else _ : Instr) = _; rw [if_neg (by rw [zB_encR]; decide)]; rw [if_neg (by rw [fFn_encR]; decide), if_pos (fFn_encR _ _ _ _ _)]; simp only [fD_encR, srcRA_encR, srcRB_encR, fFn_encR]))
theorem prof (d n) : Statement (.prof d n) := of_seq rfl (high (by rw [fOpc_encR]; decide) (by unfold decodeHigh; rw [fOpc_encR]; exact ok (by simp only [zA_encR, zB_encR]; rfl) (by simp only [fD_encR, srcRA_encR, srcRB_encR, fFn_encR])))
theorem trap (a n) : Statement (.trap a n) := of_seq rfl (high (by rw [fOpc_encR]; decide) (by unfold decodeHigh; rw [fOpc_encR]; exact ok (by simp only [zD_encR, zB_encR]; rfl) (by simp only [fD_encR, srcRA_encR, srcRB_encR, fFn_encR])))
theorem csrr (d n) : Statement (.csrr d n) := of_seq rfl (high (by rw [fOpc_encR]; decide) (by unfold decodeHigh; rw [fOpc_encR]; exact ok (by simp only [zA_encR, zB_encR]; rfl) (by simp only [fD_encR, srcRA_encR, srcRB_encR, fFn_encR])))
theorem csrw (a n) : Statement (.csrw a n) := of_seq rfl (high (by rw [fOpc_encR]; decide) (by unfold decodeHigh; rw [fOpc_encR]; exact ok (by simp only [zD_encR, zB_encR]; rfl) (by simp only [fD_encR, srcRA_encR, srcRB_encR, fFn_encR])))
theorem lanDispatch (rd rs1 rs2) : Statement (.lanDispatch rd rs1 rs2) := of_xlan rfl (custom0 (major_encX _ _ _ _ _ _) (by unfold decodeCustom0; rw [f3_encX, f7_encX, show (0 : BitVec 3).toNat * 256 + (0 : BitVec 7).toNat = 0 from rfl]; show Instr.lanDispatch _ _ _ = _; simp only [xRd_encX, xRs1_encX, xRs2_encX]))
theorem lanJoin (rd rs1) : Statement (.lanJoin rd rs1) := of_xlan rfl (custom0 (major_encX _ _ _ _ _ _) (by unfold decodeCustom0; rw [f3_encX, f7_encX, show (0 : BitVec 3).toNat * 256 + (1 : BitVec 7).toNat = 1 from rfl]; exact okX (by simp only [xRd_encX, xRs1_encX, xRs2_encX]; rfl) (by simp only [xRd_encX, xRs1_encX, xRs2_encX])))
theorem hqPush (rd rs1 rs2) : Statement (.hqPush rd rs1 rs2) := of_xlan rfl (custom0 (major_encX _ _ _ _ _ _) (by unfold decodeCustom0; rw [f3_encX, f7_encX, show (1 : BitVec 3).toNat * 256 + (0 : BitVec 7).toNat = 256 from rfl]; show Instr.hqPush _ _ _ = _; simp only [xRd_encX, xRs1_encX, xRs2_encX]))
theorem hqPop (rd rs1 rs2) : Statement (.hqPop rd rs1 rs2) := of_xlan rfl (custom0 (major_encX _ _ _ _ _ _) (by unfold decodeCustom0; rw [f3_encX, f7_encX, show (1 : BitVec 3).toNat * 256 + (1 : BitVec 7).toNat = 257 from rfl]; show Instr.hqPop _ _ _ = _; simp only [xRd_encX, xRs1_encX, xRs2_encX]))
theorem rgClaim (rd rs1 rs2) : Statement (.rgClaim rd rs1 rs2) := of_xlan rfl (custom0 (major_encX _ _ _ _ _ _) (by unfold decodeCustom0; rw [f3_encX, f7_encX, show (2 : BitVec 3).toNat * 256 + (0 : BitVec 7).toNat = 512 from rfl]; show Instr.rgClaim _ _ _ = _; simp only [xRd_encX, xRs1_encX, xRs2_encX]))
theorem rgCfg (rd rs1 rs2) : Statement (.rgCfg rd rs1 rs2) := of_xlan rfl (custom0 (major_encX _ _ _ _ _ _) (by unfold decodeCustom0; rw [f3_encX, f7_encX, show (2 : BitVec 3).toNat * 256 + (1 : BitVec 7).toNat = 513 from rfl]; show Instr.rgCfg _ _ _ = _; simp only [xRd_encX, xRs1_encX, xRs2_encX]))
theorem rgStart (rd rs1 rs2) : Statement (.rgStart rd rs1 rs2) := of_xlan rfl (custom0 (major_encX _ _ _ _ _ _) (by unfold decodeCustom0; rw [f3_encX, f7_encX, show (2 : BitVec 3).toNat * 256 + (2 : BitVec 7).toNat = 514 from rfl]; show Instr.rgStart _ _ _ = _; simp only [xRd_encX, xRs1_encX, xRs2_encX]))
theorem rgSnuff (rd rs1) : Statement (.rgSnuff rd rs1) := of_xlan rfl (custom0 (major_encX _ _ _ _ _ _) (by unfold decodeCustom0; rw [f3_encX, f7_encX, show (2 : BitVec 3).toNat * 256 + (3 : BitVec 7).toNat = 515 from rfl]; exact okX (by simp only [xRd_encX, xRs1_encX, xRs2_encX]; rfl) (by simp only [xRd_encX, xRs1_encX, xRs2_encX])))
theorem rgFreeze (rd rs1) : Statement (.rgFreeze rd rs1) := of_xlan rfl (custom0 (major_encX _ _ _ _ _ _) (by unfold decodeCustom0; rw [f3_encX, f7_encX, show (2 : BitVec 3).toNat * 256 + (4 : BitVec 7).toNat = 516 from rfl]; exact okX (by simp only [xRd_encX, xRs1_encX, xRs2_encX]; rfl) (by simp only [xRd_encX, xRs1_encX, xRs2_encX])))
theorem rgSave (rd rs1 rs2) : Statement (.rgSave rd rs1 rs2) := of_xlan rfl (custom0 (major_encX _ _ _ _ _ _) (by unfold decodeCustom0; rw [f3_encX, f7_encX, show (2 : BitVec 3).toNat * 256 + (5 : BitVec 7).toNat = 517 from rfl]; show Instr.rgSave _ _ _ = _; simp only [xRd_encX, xRs1_encX, xRs2_encX]))
theorem rgLoad (rd rs1 rs2) : Statement (.rgLoad rd rs1 rs2) := of_xlan rfl (custom0 (major_encX _ _ _ _ _ _) (by unfold decodeCustom0; rw [f3_encX, f7_encX, show (2 : BitVec 3).toNat * 256 + (6 : BitVec 7).toNat = 518 from rfl]; show Instr.rgLoad _ _ _ = _; simp only [xRd_encX, xRs1_encX, xRs2_encX]))
theorem rgRebase (rd rs1 rs2) : Statement (.rgRebase rd rs1 rs2) := of_xlan rfl (custom0 (major_encX _ _ _ _ _ _) (by unfold decodeCustom0; rw [f3_encX, f7_encX, show (2 : BitVec 3).toNat * 256 + (7 : BitVec 7).toNat = 519 from rfl]; show Instr.rgRebase _ _ _ = _; simp only [xRd_encX, xRs1_encX, xRs2_encX]))
theorem rgKill (rd rs1) : Statement (.rgKill rd rs1) := of_xlan rfl (custom0 (major_encX _ _ _ _ _ _) (by unfold decodeCustom0; rw [f3_encX, f7_encX, show (2 : BitVec 3).toNat * 256 + (8 : BitVec 7).toNat = 520 from rfl]; exact okX (by simp only [xRd_encX, xRs1_encX, xRs2_encX]; rfl) (by simp only [xRd_encX, xRs1_encX, xRs2_encX])))
theorem rgStat (rd rs1) : Statement (.rgStat rd rs1) := of_xlan rfl (custom0 (major_encX _ _ _ _ _ _) (by unfold decodeCustom0; rw [f3_encX, f7_encX, show (2 : BitVec 3).toNat * 256 + (9 : BitVec 7).toNat = 521 from rfl]; exact okX (by simp only [xRd_encX, xRs1_encX, xRs2_encX]; rfl) (by simp only [xRd_encX, xRs1_encX, xRs2_encX])))
theorem rgFree (rd rs1) : Statement (.rgFree rd rs1) := of_xlan rfl (custom0 (major_encX _ _ _ _ _ _) (by unfold decodeCustom0; rw [f3_encX, f7_encX, show (2 : BitVec 3).toNat * 256 + (10 : BitVec 7).toNat = 522 from rfl]; exact okX (by simp only [xRd_encX, xRs1_encX, xRs2_encX]; rfl) (by simp only [xRd_encX, xRs1_encX, xRs2_encX])))
theorem soBind (rd rs1 rs2) : Statement (.soBind rd rs1 rs2) := of_xlan rfl (custom0 (major_encX _ _ _ _ _ _) (by unfold decodeCustom0; rw [f3_encX, f7_encX, show (3 : BitVec 3).toNat * 256 + (0 : BitVec 7).toNat = 768 from rfl]; show Instr.soBind _ _ _ = _; simp only [xRd_encX, xRs1_encX, xRs2_encX]))
theorem soAcq (rd rs1 rs2) : Statement (.soAcq rd rs1 rs2) := of_xlan rfl (custom0 (major_encX _ _ _ _ _ _) (by unfold decodeCustom0; rw [f3_encX, f7_encX, show (3 : BitVec 3).toNat * 256 + (1 : BitVec 7).toNat = 769 from rfl]; show Instr.soAcq _ _ _ = _; simp only [xRd_encX, xRs1_encX, xRs2_encX]))
theorem soRel (rd rs1) : Statement (.soRel rd rs1) := of_xlan rfl (custom0 (major_encX _ _ _ _ _ _) (by unfold decodeCustom0; rw [f3_encX, f7_encX, show (3 : BitVec 3).toNat * 256 + (2 : BitVec 7).toNat = 770 from rfl]; exact okX (by simp only [xRd_encX, xRs1_encX, xRs2_encX]; rfl) (by simp only [xRd_encX, xRs1_encX, xRs2_encX])))
theorem fenceX (rs1 rs2) : Statement (.fenceX rs1 rs2) := of_xlan rfl (custom0 (major_encX _ _ _ _ _ _) (by unfold decodeCustom0; rw [f3_encX, f7_encX, show (3 : BitVec 3).toNat * 256 + (3 : BitVec 7).toNat = 771 from rfl]; exact okX (by simp only [xRd_encX, xRs1_encX, xRs2_encX]; rfl) (by simp only [xRd_encX, xRs1_encX, xRs2_encX])))
theorem xltInv (rs1 rs2) : Statement (.xltInv rs1 rs2) := of_xlan rfl (custom1 (major_encX _ _ _ _ _ _) (by unfold decodeCustom1; rw [f3_encX, f7_encX, show (0 : BitVec 3).toNat * 256 + (0 : BitVec 7).toNat = 0 from rfl]; exact okX (by simp only [xRd_encX, xRs1_encX, xRs2_encX]; rfl) (by simp only [xRd_encX, xRs1_encX, xRs2_encX])))
theorem xltSync (rd) : Statement (.xltSync rd) := of_xlan rfl (custom1 (major_encX _ _ _ _ _ _) (by unfold decodeCustom1; rw [f3_encX, f7_encX, show (0 : BitVec 3).toNat * 256 + (1 : BitVec 7).toNat = 1 from rfl]; exact okX (by simp only [xRd_encX, xRs1_encX, xRs2_encX]; rfl) (by simp only [xRd_encX, xRs1_encX, xRs2_encX])))
theorem pgMig (rd rs1 rs2) : Statement (.pgMig rd rs1 rs2) := of_xlan rfl (custom1 (major_encX _ _ _ _ _ _) (by unfold decodeCustom1; rw [f3_encX, f7_encX, show (1 : BitVec 3).toNat * 256 + (0 : BitVec 7).toNat = 256 from rfl]; show Instr.pgMig _ _ _ = _; simp only [xRd_encX, xRs1_encX, xRs2_encX]))
theorem bistRun (rd rs1 rs2) : Statement (.bistRun rd rs1 rs2) := of_xlan rfl (custom1 (major_encX _ _ _ _ _ _) (by unfold decodeCustom1; rw [f3_encX, f7_encX, show (2 : BitVec 3).toNat * 256 + (0 : BitVec 7).toNat = 512 from rfl]; show Instr.bistRun _ _ _ = _; simp only [xRd_encX, xRs1_encX, xRs2_encX]))
theorem bistStat (rd rs1) : Statement (.bistStat rd rs1) := of_xlan rfl (custom1 (major_encX _ _ _ _ _ _) (by unfold decodeCustom1; rw [f3_encX, f7_encX, show (2 : BitVec 3).toNat * 256 + (1 : BitVec 7).toNat = 513 from rfl]; exact okX (by simp only [xRd_encX, xRs1_encX, xRs2_encX]; rfl) (by simp only [xRd_encX, xRs1_encX, xRs2_encX])))
theorem illeg (w0) : Statement (.illeg w0) := fun h => .inl (of_decide_eq_true h)
theorem badpc : Statement (.badpc) := fun _ => .inr rfl
theorem badcmd (w0) : Statement (.badcmd w0) := fun h => .inr (.inr (of_decide_eq_true h))
theorem xlanIllegalInstruction (w0) : Statement (.xlanIllegalInstruction w0) := fun h => .inr (.inl (of_decide_eq_true h))
theorem lanternLoadStore (h op addr) : Statement (.lanternLoadStore h op addr) := of_event rfl rfl
theorem csrRead (h rd num) : Statement (.csrRead h rd num) := of_event rfl rfl
theorem collectiveReservedCode (p chip) : Statement (.collectiveReservedCode p chip) := of_event rfl rfl
theorem akendReservedFlitType (port flit) : Statement (.akendReservedFlitType port flit) := of_event rfl rfl
theorem powerLoss : Statement (.powerLoss) := of_event rfl rfl

end Sys2Proof.Laws.RoundTrip
end

