-- ==== Sys2Proof/Laws/Step.lean ====
section
/-! SUPPORT. What one step does, agent by agent: the move at the head of the agenda, and when an agent runs its instruction. -/

namespace Sys2Proof.Machine

/-- The move at the head of the agenda is made, with a supply. -/
theorem step_move {s : State} {m : Move} {rest : List Move} (hp : s.power = true) (ha : s.agenda = m :: rest) :
    step s = stepMove m { s with agenda := rest } := by
  unfold step; rw [ha]; simp only; rw [if_pos (by simp [hp])]

/-- A power-on reset is made without a supply too. -/
theorem step_coldReset {s : State} {rest : List Move} (ha : s.agenda = .ev .coldReset :: rest) :
    step s = stepMove (.ev .coldReset) { s with agenda := rest } := by
  unfold step; rw [ha]; simp only; rw [if_pos (by simp)]

/-- Without a supply every other move is a fault (R430). -/
theorem step_off {s : State} {m : Move} {rest : List Move} (hp : s.power = false) (ha : s.agenda = m :: rest)
    (hm : m ≠ .ev .coldReset) : step s = .fault .powerOff := by
  unfold step; rw [ha]; simp only; rw [if_neg (by simp [hp, hm])]

/-- A sequencer runs the instruction at its PC. -/
theorem stepSeq_run {s : State} {sq : Nat} {r : Region} (hr : s.region? sq = some r) (hact : r.active = true)
    (hst : r.seq.stopNext = false) (hout : s.seqOut sq = false) (hdbg : s.debugDue sq = false) :
    stepSeq sq s = exec r.instr (s.atSeq sq) := by
  unfold stepSeq; rw [hr]; simp [hact, hst, hout, hdbg]

/-- The instruction of a PC inside the section, and at or beyond its end (R201). -/
theorem Region.instr_word {r : Region} {x : Word} (hpc : r.seq.pc % 4 = 0) (hx : r.code[r.seq.pc / 4]? = some x) :
    r.instr = decodeSeq x := by simp [Region.instr, Region.word, hpc, hx]
theorem Region.instr_badpc {r : Region} (h : 4 * r.code.length ≤ r.seq.pc) : r.instr = .badpc := by
  unfold Region.instr Region.word
  by_cases hp : r.seq.pc % 4 = 0
  · rw [if_pos hp, List.getElem?_eq_none (by omega)]
  · rw [if_neg hp]

/-- A hart runs the Xlan word at its pc. -/
theorem stepHart_run {s : State} {h : Nat} {x : Word} {i : Instr} (hw : (s.hart h).wait = none) (ho : s.hartOut h = false)
    (hx : s.hartWord (s.hart h) = .ok x) (hi : decodeXlan x = some i) : stepHart h s = exec i { s with curHart := h } := by
  unfold stepHart; rw [hx, hw, ho]; simp [hi]

/-- A hart runs a word that is not Xlan's as `rvStep` does. -/
theorem stepHart_rv {s : State} {h : Nat} {x : Word} (hw : (s.hart h).wait = none) (ho : s.hartOut h = false)
    (hx : s.hartWord (s.hart h) = .ok x) (hi : decodeXlan x = none) : stepHart h s = .next (s.rvStep h x) := by
  unfold stepHart; rw [hx, hw, ho]; simp [hi]

/-- An install engine performs the word it fetches. -/
theorem stepStream_run {s : State} {rn : Nat} {esc : Bool} {x : Word} (h : s.streamFetch rn = .inr (esc, x)) :
    stepStream rn s = exec (decodeStream esc x) { s with curReg := rn } := by
  unfold stepStream; rw [h]

/-- A well-formed event is run. -/
theorem stepEvent_run {s : State} {i : Instr} (he : isEvent i = true) (hw : WellFormed i = true) : stepEvent i s = exec i s := by
  unfold stepEvent; simp [he, hw]

end Sys2Proof.Machine
end

