-- ==== Sys2Proof/Tests/Slice0.lean ====
section
/-! SUPPORT. The tests: terms WellFormed refuses, words written out from the encoding tables, and for each statement with hypotheses a
concrete state and operands that meet them, each clause at a boundary of its range. -/

namespace Sys2Proof.Tests

set_option Elab.async false

open Sys2Proof.Machine

/-- Whether an outcome is a next state of which p holds. -/
def answers (o : Host.Outcome State Fault Refusal) (p : State → Bool) : Bool :=
  match o with
  | .next t => p t
  | _ => false

/-- Whether an outcome is the next state given. -/
def goes (o : Host.Outcome State Fault Refusal) (t : State) : Bool := answers o (fun y => decide (y = t))

/-- Registers whose number times 64 each one holds. -/
def tRegs : List Dword := (List.range 32).map (fun i => BitVec.ofNat 64 (64 * i))

/-- A running region of two by two tiles for sequencer 0, its registers full. -/
def tRegion : Region := { probeRegion (List.replicate 8 0) with seq := { Seq.zero with regs := tRegs, pc := 4 } }

/-- The same with one register empty. -/
def tEmpty (i : Reg) : Region := { tRegion with seq := tRegion.seq.clear i }

/-- The machine with that region as sequencer 0's. -/
def tS : State := { State.reset with regions := [(0, tRegion)], curSeq := 0 }

/-- The machine with a region given as sequencer 0's. -/
def tWith (r : Region) : State := { State.reset with regions := [(0, r)], curSeq := 0 }

/-- One table of each level that maps the first GiB to itself, for both stages. -/
def tPT : Memory :=
  [(0x10000, 0x01), (0x10001, 0x10), (0x10002, 0x01), (0x11000, 0x01), (0x11001, 0x20), (0x11002, 0x01), (0x12000, 0x0F)]

/-- The descriptor of a partition whose tables and rings stand in the first GiB. -/
def tDesc : Desc :=
  { reqsig := false, fqlog := 6, frzlim := 20, trlog := 6, s2root := 0x10000, sctab := 0x20000, attntab := 0x30000, attnstat := 0x38000
    fqbase := 0x40000, trbase := 0x50000, errblk := 0x60000, svctab := 0x68000, qtab := 0x70000, framebase := 0x80000
    framelen := 0x10000, frameva := 0x80000, shadowbase := 0, shadowlen := 0, pchtab := 0x90000, coldesc := 0xA0000
    keytab := 0xB0000, nstab := 0xC0000, nattn := 64, quotas := List.replicate 12 1000 }

/-- An empty queue of that partition; its handle is 0x100001. -/
def tQueue : Queue :=
  { asid := 1, s1root := 0x10000, share := 512, log2n := [10, 10, 10, 10], ring := [0, 0, 0, 0], recs := [[], [], [], []], age := 0
    accNo := 0, rsv := [] }

/-- A shape class of two by two tiles with hash zero, at entry 1 of the table; its graph's handle is 0x100007. -/
def tClass : Memory := [(0x20040, 2), (0x20042, 2), (0x20044, 7), (0x20046, 0x10), (0x20048, 1)]

/-- The partition in force with its queue, and the region with its handle 0x100001 too. -/
def tPart : Partition := { Partition.inactive with
    desc := some tDesc, queues := [(0, tQueue)], rgs := [(1, 0)], graphs := [(7, { ghash := List.replicate 32 0, seqs := [[0]], inPlace := false })] }

/-- The region under the queue's translation. -/
def tQRegion : Region := { tRegion with origq := 0x100001 }

/-- A hart of the guest's user. -/
def tHart : Hart := { Hart.reset with mode := .vu, x := tRegs }

/-- The machine with a partition in force, memory given beside the tables, and a region. -/
def tQ (r : Region) (m : Memory) : State :=
  { State.reset with vdtab := 0x88000, regions := [(0, r)], parts := [(0, tPart)], mem := m.foldl (fun k c => k.put c.1 c.2) (tPT ++ tClass), harts := [(0, tHart)] }

/-- Bytes at an address as memory lists them. -/
def at_ (a : Nat) (bs : List Byte) : Memory := putPieces [] [(a, bs.length)] bs

/-- A LANTERN record of level 3. -/
def tRec : Cont := { code := 1, frame := 0, join := 0, flags := 0x0F }

/-- A descriptor of CPY that moves 64 bytes from 0x14000 to 0x15000. -/
def tCpy : List Byte := leBytes 0x14000 8 ++ leBytes 0x15000 8 ++ leBytes 64 4 ++ List.replicate 12 0

/-- An install that CFG has begun. -/
def tInstC : Install := newInstall false true 0x100 8 Hart.reset.xlate 0 3 0

/-- An element of section 64 with passes left, and the machine with it at tile 1. -/
def tElem : Tile := { Tile.cleared with sect := some 64, passc := 5, fields := [(0xF0, 7)] }
def tPhase (r : Region) (t : Tile) : State := { tQ r [] with tiles := [(1, t)] }

/-- An edge tile with an ingress attachment on channel 1 of EMP 0 and an egress one on channel 2, and a round of 255 on the first. -/
def tEdge : Tile := { Tile.cleared with fields := [(0xE4, 0x8200), (0xE5, 0x8C00)] }
def tMark (r : Region) (ps : Tbl Port) : State := { tPhase r tElem with tiles := [(0, tEdge)], ports := ps }

/-- A launch record of one core instance of a 2 by 2 shape, with the graph handle given. -/
def tLaunch (g : Nat) : List Byte :=
  [0x52, 0x4C, 1, 1] ++ List.replicate 12 0 ++ leBytes 0x10003 4 ++ List.replicate 28 0 ++ leBytes g 4 ++ leBytes 2 2 ++ leBytes 2 2 ++
  List.replicate 200 0
/-- A dispatch block naming the queue. -/
def tBlk : List Byte := leBytes 0x100001 4 ++ List.replicate 12 0
/-- The partition with a graph of hash zero at slot 7. -/
def tGraph : Partition := tPart

/-- An arm block for the block at 0x14000. -/
def tArm : List Byte := leBytes 0x14000 8 ++ leBytes 0x100001 4 ++ List.replicate 20 0 ++ tRec.bytes

/-- A period that names the join block at 0x14000 with two children left. -/
def tPeriod : Region := { tQRegion with run := some { tRec with join := 0x14000, flags := 0x0000000100000000 }, period := 9, attach := some (0x100001, 1) }

/-- An object held exclusively by a sequencer with a hart waiting, and the partition with it at slot 3 (handle 0x100003). -/
def tHeld : SyncObj :=
  { classes := 0, exclOnly := false, ranges := [], holds := [{ who := .seq 0, excl := true, scope := 7, tag := 0 }]
    waits := [{ who := .owner 1, excl := true, scope := 7, reply := .hart 0 5 }], nextTag := 0xFFFFFFFF }
def tFree : SyncObj := { tHeld with holds := [], waits := [] }
def tSo (o : SyncObj) : State := (tQ tQRegion []).setPart 0 { tPart with sos := [(3, o)] }

/-- A guest kernel's hart with three registers as given, on the machine with a region. -/
def tK (r : Region) (a b : Dword) (m : Memory) : State :=
  (tQ r m).setHart 0 { (tHart.set 1 a).set 2 b with mode := .vs }

/-- A descriptor of rg.cfg: a stream of 8 words at 0x14000. -/
def tCfg : List Byte := leBytes 0x14000 8 ++ leBytes 8 4 ++ List.replicate 4 0 ++ leBytes 0x15000 8 ++ List.replicate 8 0

/-- A region of one fused tile with a period, stopped or loading, and its image. -/
def tImg (st : RgState) (op : Option AsyncOp) : Region :=
  { tQRegion with width := 1, height := 1, state := st, run := some { code := 0x100007, frame := 0, join := 0, flags := 0x100 }, async := op }
def tImgS (r : Region) : State := { (tQ r []).setPart 0 tGraph with fuses := { Fuses.allGood with elems := [0] } }
def tElems : List Byte := (tImg .stopped none).tiles.flatMap (State.elemRecord (tImgS (tImg .stopped none)) 0 (tImg .stopped none))
def tSeqB : List Byte := State.seqBlockBytes (tImgS (tImg .stopped none)) 0 (tImg .stopped none)
def tHead : List Byte := (tImgS (tImg .stopped none)).imageHead (tImg .stopped none) 3328 1344 3328
def tBody : List Byte := tElems ++ tSeqB
def tImage : List Byte := tHead ++ (leBytes (crc32c (tHead ++ tBody)).toNat 4 ++ (zeros 4 ++ (leBytes 1 8 ++ tBody)))

/-- Two regions of which the first moves onto the second (RegionStepsEnd). -/
def tMove : State :=
  let a := { tImg .stopped none with why := 2 }
  let b := { tImg .claimed none with ocol := 4, slot := 2, run := none }
  { tK a 0x100001 0x100002 [] with
    regions := [(0, a), (1, b)], parts := [(0, { tPart with rgs := [(1, 0), (2, 1)] })], fuses := { Fuses.allGood with elems := [0, 4] } }

/-- A hart of a mode on the machine with the partition of the tests in force. -/
def tMode (mode : Mode) (h : Hart) : State := (tQ tQRegion []).setHart 0 { h with mode := mode }

/-- An entry of the queue table with four rings of 64 records from 0x40000000, which stage 2 maps to LPDDR-6. -/
def tEntry (share : Nat) : List Byte :=
  leBytes 1 4 ++ leBytes 3 2 ++ zeros 2 ++ leBytes 0x10000 8 ++ leBytes share 4 ++ zeros 12 ++
  (List.range 4).flatMap (fun l => leBytes (0x40000000 + 0x800 * l) 8 ++ leBytes 6 1 ++ zeros 7) ++ zeros 32
def tLp : Memory := [(0x12008, 0x0F), (0x1200D, 1)]

/-- A sound descriptor's bytes. -/
def tDescBytes : List Byte :=
  leBytes 1 4 ++ [4, 0, 6, 0] ++ leBytes 0x10000 8 ++ (List.range 8).flatMap (fun i => leBytes (0x20000 + 0x1000 * i) 8) ++
  leBytes 0x80000 8 ++ leBytes 0x10000 8 ++ leBytes 0x80000 8 ++ zeros 16 ++ leBytes 0x90000 8 ++ leBytes 0xA0000 8 ++ leBytes 0xB0000 8 ++ leBytes 0xC0000 8

/-- A data beat whose lanes are their numbers, a header beat of format 16, and a round mark. -/
def tBeat (tag : Word) : Beat := dataBeat 3 tag 0xFFFF (lanesOf (fun l => BitVec.ofNat 32 l))
def tHdr (x : Word) : Beat := headerBeat 3 0 x

/-- A CT whose rule 1 takes channel 0, writes d0 and sends on output 1; its predicate 0 must be 1. -/
def tCt (xs : List (Nat × Word)) (ins : List (List Beat)) : Tile :=
  { Tile.cleared with
    fields := xs ++ [(0x01, 0x10101000), (0x11, 0x80200210), (0x21, 0x51), (0xB0, 0x04000000), (0xB5, 0x04000000), (0xF2, 1)]
    sect := some 64, passc := 5, forked := 1, preds := 1, inF := ins }

/-- The machine with that element at tile 0. -/
def tCtS (t : Tile) : State := { tQ tQRegion [] with tiles := [(0, t)] }

/-- The conditions of a CT's rule, as CtRuleFires states them. -/
abbrev tNeeds (t : Tile) (i c : Nat) : Prop := bit (t.fld i) (28 + c) = true ∨ (c ≤ 1 ∧ bit (t.fld 0xB0) 29 = true ∧ bit (t.fld (0x10 + i)) (4 + c) = true)
def tRecipe (t : Tile) (i : Nat) : List Word := (List.range 6).map (fun k => t.fld (0x30 + 6 * (bits (t.fld (0x10 + i)) 3 0) + k))
def tChan (t : Tile) (i : Nat) : Bool := decide (∀ c ∈ List.range 4, tNeeds t i c → t.ready true c = true ∧
  (beatsOf (tRecipe t i) ≠ 1 → beatsOf (tRecipe t i) ≤ (t.fifo c).length ∧ ∀ x ∈ (t.fifo c).take (beatsOf (tRecipe t i)), x.kind = 0))
def tPreds (t : Tile) (i : Nat) : Bool := decide (∀ k ∈ List.range 8, bit (t.fld i) (12 + k) = true →
  k ∉ t.pend ∧ (t.predWord true).testBit k = bit (t.fld i) (20 + k))
def tHolds (t : Tile) (i : Nat) : Bool :=
  decide (bit (t.fld (0x10 + i)) 31 = true ∧ t.st.toNat &&& bits (t.fld i) 11 6 = bits (t.fld i) 5 0 &&& bits (t.fld i) 11 6) &&
  tPreds t i && tChan t i &&
  decide (∀ o ∈ List.range 4, bit (t.fld (0x10 + i)) (8 + o) = true → beatsOf (tRecipe t i) ≤ t.credits o) &&
  decide (recGlow (tRecipe t i) = true →
    t.glow.length + 16 * (t.flights.filter (fun f => recGlow f.stages && decide (f.age ≤ 5))).length + 16 ≤ 64)
def tPending (t : Tile) (i : Nat) : Nat := readsOf (t.fld (0x20 + i)) (t.fld (0x10 + i)) (tRecipe t i) &&& t.empty.toNat
def tPassed (t : Tile) (j : Nat) : Bool := decide (tHolds t j = false ∨ (tPending t j ≠ 0 ∧ tPending t j &&& (t.fld 0xBB).toNat = 0))
def tMay (t : Tile) (draining : Bool) : Bool :=
  decide (t.enabled = true ∧ t.trap = none ∧ t.merged = false ∧ t.mergedNow true = false ∧ t.forked.getLsbD 0 = true ∧ t.passc ≠ 0) &&
  decide ((∀ f ∈ t.flights, f.passes ≤ f.age) ∧ (draining = true → t.mainIns true ≠ []))

/-- An MT whose rule 1 takes channel 0 and sends on output 1, with an operation word. -/
def tMt (op : Word) (ins : List (List Beat)) : Tile :=
  { Tile.cleared with
    fields := [(0x01, 0x10000000), (0x11, 0x80000210), (0x22, op), (0x60, 1), (0x64, 0x04000000), (0x69, 0x04000000), (0xF2, 1)]
    sect := some 64, passc := 5, forked := 7, inF := ins }
def tMtS (t : Tile) : State := { tQ tQRegion [] with tiles := [(1, t)] }

/-- A tile with markers on its inputs, in a region of the state given. -/
def tIn (st : RgState) (t : Tile) : State := { tQ { tQRegion with state := st } [] with tiles := [(0, t)] }

/-- VF 0 of partition 0 with page 2 bound to queue 0, its ring of 64 records at host address 0x7000. -/
def tVf : Vf := { Vf.reset with part := some 0, crbase := 0x7000, en := true, log2n := 6, pages := [(2, { qmask := 1, lastseq := 8 })] }
def tHost (v : Vf) (m : Memory) : State := { tQ tQRegion m with vfs := [(0, v)] }

/-- A submission: sequence number, queue and priority, flags, the address of the record. -/
def tSub (seq q prio fl pa : Nat) : HostWrite :=
  { off := 0x80, dmw := true, bytes := leBytes seq 8 ++ [w q, w prio, w fl, 0] ++ leBytes 77 4 ++ zeros 16 ++ leBytes pa 8 ++ zeros 88 }

/-- A host launch with the record given, and the partition with it. -/
def tLaunched (rec_ : List Byte) (short : Bool) : Launch :=
  { q := 0, accNo := 1, prio := 0, short := short, record := rec_, act := .host 0 2 9 77 false, expanded := false, join := 0, units := [], status := none }
def tWithL (l : Launch) (v : Vf) : State := (tHost v []).setPart 0 { tGraph with launches := [l] }

/-- A tile whose output E takes what its own sources send on either lane, and what comes from W on lane 0. -/
def tSw (t : Tile) : Tile := { t with fields := (0xCA, 0x14) :: (0xCB, 0x1C) :: (0xCC, 0x13) :: t.fields }
def tHop : Hop := { src := 0, beat := tBeat 1 }

/-- Two tiles of the running region. -/
def tTwo (a b : Tile) : State := { tQ tQRegion [] with tiles := [(0, a), (1, b)] }

/-- A tile whose local port takes what comes from W on lane 0, its inputs enabled. -/
def tIns : State :=
  tTwo { Tile.cleared with fields := [(0xD0, 0x13), (0xB0, 0x04000000), (0xB1, 0x04000000), (0xB2, 0x04000000), (0xB3, 0x04000000)] } Tile.cleared

/-- An operation of an MT by its word, sending on outputs 0 and 1. -/
def tOp (op : Dword) (no : Nat) : MtOp :=
  { op := op, progress := 0, ich := none, dch := none, enq := 3, tag := 0, rnd := 0, reply := [], done := false, off := 0, gA := 0, gB := 0
    waits := [], seqNo := no }

/-- An MT with the operations given, banks 0 to 2 its buffers W, X and Y, owing what operation 1 sends. -/
def tOps (ops : List MtOp) : Tile :=
  { tMt 0 [[], [], [], []] with
    fields := [(0x60, 0x39), (0xF2, 1)], ops := ops
    owed := [{ out := 0, op := 1, due := 0, n := 1, after := false, beats := none }, { out := 1, op := 1, due := 0, n := 1, after := false, beats := none }] }

/-- A stream block: index array at 0x14000, one index, rows of 64 bytes at 0x15000, to channel 1 of EMP 0. -/
def tStream (fl : Byte) : List Byte :=
  leBytes 0x14000 8 ++ leBytes 1 4 ++ [0, fl] ++ leBytes 512 2 ++ leBytes 0x15000 8 ++ leBytes 64 8 ++ leBytes 64 4 ++ leBytes 5 4 ++ zeros 24
def tStr (b : List Byte) : IStream := { rn := 0, incarn := tQRegion.incarn, block := b, next := 0, row := none, stuck := false }

/-- A request beat: address, count, operation. -/
def tReq (va count op : Nat) : Beat :=
  dataBeat 3 9 0xFFFF (lanesOf (fun l => if l = 0 then BitVec.ofNat 32 va else if l = 2 then BitVec.ofNat 32 (count + op * 2 ^ 16) else 0))

/-- The region with the port of channel 1 of EMP 0 as given, the tile there with routes on both lanes of output E. -/
def tPort (p : Port) : State := { tMark tQRegion [(1, p)] with tiles := [(0, tSw tEdge)] }
def tWalk (va op count : Nat) : PortReq := { va := BitVec.ofNat 64 va, count := count, op := op, next := 0, tag := 9, cur := va }

/-- Tables whose second GiB has one granule leaf with an ATTN page at 0x200000, LIVE 2, and the entries of its table: slot 5 there, slot 6 unmapped,
slot 7 a page of format 0. -/
def tAttn : Memory :=
  [(0x12008, 0x01), (0x12009, 0x30), (0x1200A, 0x01)] ++ [(0x13000, 0x01), (0x13001, 0x41), (0x13002, 0x01)] ++
  [(0x14100, 0x0F), (0x14102, 0x20), (0x14107, 0x60)] ++ [(0x20F960, 2), (0x20F964, 128)] ++
  [(0x30053, 0x40), (0x3005B, 0x40), (0x30062, 0x02), (0x30063, 0x40), (0x3006B, 0x40), (0x30072, 0x02), (0x3007A, 0x02)]
def tGlow (r : Region) (gs : List Glow) (m : Memory) : State := { tQ r (tAttn ++ m) with tiles := [(1, { Tile.cleared with glow := gs })] }

/-- A trim command on the chain at 0x14100 of no pages, for the object given; its block at 0x14000, result at 0x15000. -/
def tTrim (so decay chain : Nat) : List Byte :=
  leBytes so 4 ++ leBytes 0 2 ++ leBytes decay 1 ++ [0] ++ leBytes chain 8 ++ zeros 12 ++ leBytes 0 4 ++ leBytes 0x16000 8 ++ leBytes 0x15000 8 ++ leBytes 0x17000 8 ++ zeros 8

/-- The partition with trims, free objects at slots 3 (free) and 4 (held), and a TRIM record in its queue. -/
def tTrimS (cmd : List Byte) (ts : Tbl Trim) (P : Partition → Partition) : State :=
  let s := tQ tQRegion (at_ 0x14000 cmd ++ at_ 0x14180 (leBytes 0 8 ++ leBytes 4097 4 ++ zeros 52))
  let c : Cont := { code := 0x14000, frame := 0, join := 0, flags := 8 }
  s.setPart 0 (P { tPart with
    sos := [(3, tFree), (4, { tHeld with waits := [] })], trims := ts
    queues := [(0, { tQueue with recs := [[{ cont := c, rsv := false, period := none, trim := none }], [], [], []] })] })
def tRun (so : Option Word) (granted : Bool) (fail : Option Nat) (cmd : List Byte) : Trim :=
  { q := 0, cont := { code := 0x14000, frame := 0, join := 0, flags := 8 }, num := none, cmd := cmd, so := so, granted := granted, fail := fail, stack := none, ended := none }

/-- A waiting fault record and the partition with it and its ring's tail as given. -/
def tFq (recs : List FaultRec) (tail : Nat) (P : Partition → Partition) : State := tTrimS [] [] (fun p => P { p with fqWait := recs, fqTail := tail })

/-- The machine after pops of period 9 on region 0 and of period 8, and of LANTERN records of hart 2. -/
def tJournal (run : Nat) : State :=
  { (tQ { tQRegion with run := some { tRec with join := 0 }, period := run, attach := some (0x100001, 1) } (at_ 0x13000 [1, 2, 3])) with
    journal := [.pop 9 0 0 1 0 { tRec with flags := 0x100 }, .lanternPop 0 0 0 2 tRec] }

/-- The memory of the services: entry 2 valid with its journal of one entry at 0x69000, entries 0 and 1 with their journals, and namespace 1 of
512-byte blocks. -/
def tSvcMem : Memory :=
  let e (n fl : Nat) : Memory := at_ (0x68000 + 64 * n) (leBytes fl 4 ++ zeros 4 ++ leBytes 1 8 ++ leBytes 0x100001 4 ++ zeros 12 ++ leBytes (0x69000 + 0x100 * n) 8 ++ leBytes 1 4 ++ zeros 20)
  e 0 1 ++ e 1 1 ++ e 2 1 ++ e 3 0 ++ at_ 0xC0020 (leBytes 1 4 ++ zeros 12 ++ [9] ++ zeros 15)

/-- A call block at 0x14000: its number, argument block at 0x16000 and completion address at 0x15000. -/
def tCallB (num : Nat) : List Byte := leBytes num 4 ++ zeros 4 ++ leBytes 0x16000 8 ++ leBytes 0x15000 8 ++ zeros 40
def tCallC : Cont := { code := 1, frame := 0x14000, join := 0, flags := 0x0C }

/-- The machine with records of calls in the queue, services as given, and memory beside the tables. -/
def tSvc (recs : List Cont) (svcs : Tbl Service) (m : Memory) : State :=
  (tQ tQRegion (tSvcMem ++ m)).setPart 0 { tPart with
    svcs := svcs, queues := [(0, { tQueue with recs := [recs.map (fun c => { cont := c, rsv := false, period := none, trim := none }), [], [], []] })] }

/-- The argument block at 0x16000 of a storage call: namespace, DURABLE, blocks from 4, buffer 0x18000. -/
def tArg (ns fl nlb buf : Nat) : List Byte := leBytes ns 4 ++ leBytes fl 4 ++ leBytes 4 8 ++ leBytes nlb 4 ++ zeros 4 ++ leBytes buf 8 ++ zeros 32
def tStore (num : Nat) (arg : List Byte) (cache : List CacheBlock) : State :=
  let s := tSvc [] [(1, { hart := 5, left := 9, calls := [(0, tCallC)] })] (at_ 0x69100 (leBytes num 4 ++ [1] ++ zeros 3 ++ leBytes 0x16000 8) ++ at_ 0x16000 arg)
  s.setPart 0 { s.part 0 with cache := cache }

/-- A placement request for the object at 0x14000, of a shape at (0, 0), its result at 0x17000. -/
def tPlace (wd : Nat) : List Byte := leBytes 0x14000 8 ++ leBytes wd 2 ++ leBytes 2 2 ++ zeros 12 ++ leBytes 0x17000 8 ++ leBytes 0x1000 4 ++ zeros 28

/-- Hart 0 in M-mode with one word at its pc, the next to move. -/
def tHartAt (x : Word) (f : Hart → Hart) : State :=
  { State.reset with
    agenda := [.hart 0], harts := [(0, f { Hart.reset with pc := 0x100, x := tRegs, mode := .m })]
    mem := at_ 0x100 (leBytes x.toNat 4) ++ at_ 0x1C0 (leBytes 0x1122334455667788 8) }

/-- An install of a stream at its first words, and its region. -/
def tIw (f : Install → Install) : Region :=
  { tQRegion with state := .installing, inst := some (f { newInstall true false 0x14000 8 Hart.reset.xlate 0x15000 0 0 with begun := true, win := some (0, 0) }) }

/-- A command on the group at 0x15000: OP, type, rank and count; data at 0x16000, results at 0x17000, DONE at 0x18000. -/
def tCmd (op type rank count : Nat) : List Byte :=
  leBytes 0x15000 8 ++ leBytes 3 8 ++ [BitVec.ofNat 8 op, BitVec.ofNat 8 type, 0, 0] ++ leBytes count 4 ++ leBytes (0x16000 + 64 * rank) 8 ++
  leBytes (0x17000 + 64 * rank) 8 ++ leBytes rank 4 ++ leBytes 0 4 ++ leBytes 0x18000 8 ++ zeros 8

/-- A group of two ranks of this module's partition 0 at chiplets 0 and 1, or the second of module `pod`. -/
def tGroup (tlog pod : Nat) : List Byte := leBytes 2 4 ++ leBytes tlog 1 ++ zeros 59 ++ leBytes 0 8 ++ leBytes (0x1000 + pod) 8

/-- The ring of chiplet 0 with one command, the group, data 5 and 7, and the collectives of chiplets 0 and 1. -/
def tColl (cmd g : List Byte) (a b : List Coll) : State :=
  { tQ tQRegion (at_ 0xA0000 (leBytes 0x19000 8 ++ leBytes 0x1A000 8 ++ [4] ++ zeros 15) ++ at_ 0x1A000 [1] ++ at_ 0x19000 cmd ++ at_ 0x15000 g ++
      at_ 0x16000 [5] ++ at_ 0x16040 [7]) with
    colls := [(0, a), (1, b)] }
def tOn (cmd : List Byte) (age : Nat) (ended : Option (Nat × BitVec 6)) : Coll := { cmd := cmd, age := age, stuck := false, ended := ended }
/-! ### Terms that WellFormed refuses, one for each check -/

theorem test_wf_refuses_units :
    (List.all [Instr.launchExpansion 16 0, .launchExpansion 0 64, .glowUpdateApply 409600, .empRequest 1024 0 0, .empRequest 0 512 0,
      .empRequest 0 0 4, .allreduce 16 0 [], .allreduce 0 16 [], .akendIdleFlit 32 (List.replicate 256 0), .akendIdleFlit 0 [],
      .serviceCall 16 0 0 0, .serviceCall 0 0 256 0, .serviceCall 0 16 0 0, .regionPop 1024, .invalidationComplete 256,
      .hostSubmission 128 0 ⟨0, true, []⟩, .hostSubmission 0 256 ⟨0, true, []⟩, .hostSubmission 0 0 ⟨4090, true, List.replicate 8 0⟩,
      .completionPost 128 0, .completionPost 0 64, .trimExecute 16 0, .soGrant 16 0, .soGrant 0 65536, .reservedKindDrop 0 4,
      .expressLaneTransfer 0 8 0, .expressLaneTransfer 0 0 4, .indirectStreamRow 16 0, .indirectStreamRow 0 8, .copyBeat 0 16,
      .voltageSettled 32, .linkMarginDone 4 0 0 0, .linkMarginDone 0 0 128 0, .firmwareImageVerify 2 { bytes := [] }]
      (fun i => !WellFormed i)) = true := by decide +kernel

theorem test_wf_refuses_places :
    (List.all [Instr.beatTransfer 0 (.outFifo 4), .beatTransfer 0 (.delay 4 0), .beatTransfer 0 (.delay 0 16), .beatTransfer 0 (.laneReg 5 0),
      .beatTransfer 0 (.laneReg 0 2), .patrolScrub (.memory (2 ^ 40 + 2 ^ 41)) .clean, .patrolScrub (.scratchpad 0 65536) .clean,
      .patrolScrub (.scratchpad 409600 0) .clean, .seamBeatRetry 0 0 0, .seamBeatRetry (4 * 159 + 1) 6 0, .seamBeatRetry (4 * 158 + 1) 0 0,
      .seamBeatRetry (4 * 409600) 0 0, .partFailure (.lanternCore 256) [] [], .partFailure (.sequencer 1024) [] [],
      .partFailure (.regionArea 1024) [] [], .partFailure (.pseudoChannel 16 0) [] [], .partFailure (.pseudoChannel 0 256) [] [],
      .partFailure (.linkLane 32 0) [] [], .partFailure (.linkLane 0 8) [] [], .partFailure (.seamLane 0 0) [] [],
      .partFailure (.lanternCore 0) [1024] [], .memoryEccError (.memory 0) true [1024]]
      (fun i => !WellFormed i)) = true := by decide +kernel

theorem test_wf_refuses_registers :
    (List.all [Instr.registerWrite (.vf 0 4) 0, .registerWrite (.vf 128 0) 0, .registerWrite (.vf 0 0x9100) 0, .registerWrite (.csr 256 0x5C0) 0,
      .registerWrite (.csr 0 0x300) 0, .csrRead 0 1 0x300, .csrRead 256 1 0x5C0, .queueCreate 0 0, .queueDestroy 0 0,
      .revokeGraph 0 0x100000000, .revokeSyncObject 0 0, .revokeAttnPage 0 0, .revokeRegion 0 0, .revokeQueue 0 0,
      .debugArm 0 0, .debugCancel 0 0x100000000, .linkMarginRun 0 0, .lanternLoadStore 0 (.fload 0 1) 0, .lanternLoadStore 0 (.fstore 0 1) 0,
      .lanternLoadStore 0 (.lr 1 1) 0, .lanternLoadStore 0 (.sc 1 1 1) 0, .lanternLoadStore 0 (.amo .add 1 1 1) 0,
      .lanternLoadStore 0 (.vload 3 1 [(32, 0)]) 0, .lanternLoadStore 0 (.vstore 3 1 [(0, 0), (0, 8)]) 0,
      .lanternLoadStore 256 (.load 0 true 1) 0]
      (fun i => !WellFormed i)) = true := by decide +kernel

/-- An illegal-word trap carries a word its decoder rejects: ADD, rg.claim and NOP are none. -/
theorem test_wf_refuses_listed_words :
    (WellFormed (.illeg 0) || WellFormed (.xlanIllegalInstruction 0x0000200B) || WellFormed (.badcmd 0xFF000000)) = false := by
  decide +kernel

/-- An entry that is no event of this module moves nothing; a hart goes past a fence.i word (StepRunsDecoded). -/
theorem witness_StepRunsDecoded_other :
    goes (step { State.reset with agenda := [.ev (.glowUpdateApply 409600)] }) { State.reset with agenda := [] } = true ∧
    goes (step { State.reset with agenda := [.ev (.add 1 ⟨2, false⟩ ⟨3, false⟩)] }) { State.reset with agenda := [] } = true ∧
    (let s : State := { tMode .m tHart with mem := at_ 0 (leBytes 0x0000100F 4), agenda := [.hart 0] }
     vread s.mem (s.hart 0).xlate (s.hart 0).pc.toNat 4 = .ok (leBytes 0x0000100F 4) ∧ decodeXlan 0x0000100F = none ∧
     answers (step s) (fun t => (t.hart 0).pc == 4) = true) := by decide +kernel

/-! ### Words written out from the encoding tables: one of each family -/

-- SLTU s31, s30, s29 (R75, R76): OPC 0x00, D 31, A 30, B 29, TA 0, TB 0, FN 9
theorem test_decode_alu : decodeSeq 0b00000011111111101110100000001001 = .sltu 31 ⟨30, false⟩ ⟨29, false⟩ := by decide +kernel
-- ADDI s3, s2, -5 is 0x04627FFB (the spec's example), and encodes to it
theorem test_decode_addi :
    decodeSeq 0x04627FFB = .addi 3 ⟨2, false⟩ 0x7FFB ∧ encode (.addi 3 ⟨2, false⟩ 0x7FFB) = [0x04627FFB] := by decide +kernel
-- SRAI s2, s1, 63: OPC 0x07; SLTI s2, s1, -1: OPC 0x08
theorem test_decode_shift :
    decodeSeq 0b00011100010000010000000000111111 = .srai 2 ⟨1, false⟩ 63 ∧
    decodeSeq 0b00100000010000010111111111111111 = .slti 2 ⟨1, false⟩ 0x7FFF := by decide +kernel
-- BGEU s9, s8, -1 word with TB: OPC 0x0F
theorem test_decode_branch : decodeSeq 0b00111101001010000111111111111111 = .bgeu ⟨9, false⟩ ⟨8, true⟩ 0x3FFF := by decide +kernel
-- LW s1, s2, 4: OPC 0x16; SW of s1 at s2 - 1: OPC 0x17, data in bits 25:21
theorem test_decode_memory :
    decodeSeq 0b01011000001000100000000000000100 = .lw 1 ⟨2, false⟩ 4 ∧
    decodeSeq 0b01011100001000100011111111111111 = .sw ⟨1, false⟩ ⟨2, false⟩ 0x3FFF := by decide +kernel
-- JMP -1 word: OPC 0x10; JR s1, s2: OPC 0x12
theorem test_decode_jump :
    decodeSeq 0b01000011111111111111111111111111 = .jmp 0x3FFFFFF ∧ decodeSeq 0b01001000001000100000000000000000 = .jr 1 ⟨2, false⟩ := by
  decide +kernel
-- CPYI s1, s2, s3 of 256 units: OPC 0x1A; BARR s1, s2: OPC 0x21; TRIM s1, s2, s3: OPC 0x2C; CSRW s2 to 0x20: OPC 0x34
theorem test_decode_system :
    decodeSeq 0b01101000001000100001100100000000 = .cpyi 1 ⟨2, false⟩ ⟨3, false⟩ 256 ∧
    decodeSeq 0b10000100001000100000000000000000 = .barr 1 ⟨2, false⟩ ∧
    decodeSeq 0b10110000001000100001100000000000 = .trim 1 ⟨2, false⟩ ⟨3, false⟩ ∧
    decodeSeq 0b11010000000000100000000000100000 = .csrw ⟨2, false⟩ 0x20 := by decide +kernel
-- rg.freeze a0, a1 is 0x0805A50B (the spec's example); so.rel x1, x2: funct7 2, funct3 011; pg.mig x1, x2, x3: custom-1, funct3 001
theorem test_decode_xlan :
    decodeXlan 0x0805A50B = some (.rgFreeze 10 11) ∧ encode (.rgFreeze 10 11) = [0x0805A50B] ∧
    decodeXlan 0b00000100000000010011000010001011 = some (.soRel 1 2) ∧
    decodeXlan 0b00000000001100010001000010101011 = some (.pgMig 1 2 3) := by decide +kernel
-- HI 0x4340, the element write after it, and the same behind ESC (the spec's example)
theorem test_decode_stream :
    decodeStream false 0xFF044340 = .cfgHi 0x4340 ∧ decodeStream false 0x25434910 = .cfgElementWrite 0x25 0x43 0x4910 ∧
    decodeStream false 0xFF060000 = .cfgEsc 0 ∧ decodeStream true 0xFF434910 = .cfgElementWrite 0xFF 0x43 0x4910 := by decide +kernel
-- the words of the statement ListedWordsDecode with an immediate or a base register
theorem test_decode_listed :
    decodeSeq 0b00000000011000010001010000000000 = .add 3 ⟨1, true⟩ ⟨2, false⟩ ∧
    decodeSeq 0b00111000100001010000000000000010 = .bltu ⟨4, false⟩ ⟨5, false⟩ 2 ∧
    decodeSeq 0b01010100111001100000000000001000 = .st ⟨7, false⟩ ⟨6, false⟩ 8 ∧
    decodeSeq 0b00100100001000000000000000000001 = .lui 1 1 ∧
    decodeSeq 0b10011000000000000000000000000000 = .retire ∧
    decodeXlan 0b00000000011100110010001010001011 = some (.rgClaim 5 6 7) ∧
    decodeXlan 0b00000010000000110010001010101011 = some (.bistStat 5 6) ∧
    decodeStream false 0b11111111000000010001001000110100 = .cfgBegin 0x1234 := by decide +kernel

/-- Words the tables do not list, at the ends of each range (ListedWordsDecode, DecodedWordsEncode). -/
theorem witness_ListedWordsDecode :
    (fOpc 0x4C000000 = 0x13 ∧ fOpc 0xFC000000 = 0x3F) ∧ (fOpc 12 = 0 ∧ (fFn 12).toNat = 12 ∧ (fFn 511).toNat = 511) ∧
    (fOpc 0x48000001 = 0x12 ∧ fFn 0x48000001 ≠ 0) ∧ (fOpc 0x90000002 = 0x24 ∧ (fFn 0x90000002).toNat = 2) ∧
    decodeSeq 0x4C000000 = .illeg 0x4C000000 ∧ decodeSeq 12 = .illeg 12 ∧ decodeSeq 511 = .illeg 511 ∧
    decodeSeq 0x90000002 = .illeg 0x90000002 ∧ decodeXlan 0x0000400B = some (.xlanIllegalInstruction 0x0000400B) ∧
    decodeXlan 0x0000302B = some (.xlanIllegalInstruction 0x0000302B) ∧ decodeStream false 0xFF080000 = .badcmd 0xFF080000 ∧
    decodeStream false 0xFFFF0000 = .badcmd 0xFFFF0000 ∧ decodeXlan 0x00000033 = none := by decide +kernel

/-- The forms of EncodedWordsDecode: one word, two words, none. -/
theorem witness_EncodedWordsDecode :
    WellFormed (.add 31 ⟨31, true⟩ ⟨31, true⟩) = true ∧ encode (.add 31 ⟨31, true⟩ ⟨31, true⟩) = [0x03FFFE00] ∧
    WellFormed (.cfgElementWrite 0xFF 0 0xFFFF) = true ∧ (encode (.cfgElementWrite 0xFF 0 0xFFFF)).length = 2 ∧
    WellFormed .badpc = true ∧ encode .badpc = [] ∧ isEvent (.regionPop 1023) = true ∧ WellFormed (.regionPop 1023) = true := by
  decide +kernel

/-! ### The step -/

/-- A running sequencer, one past its code, a hart, an install and an event about to move (StepRunsDecoded). -/
theorem witness_StepRunsDecoded :
    (let s := { tS with agenda := [.seq 0] }
     s.power = true ∧ s.region? 0 = some tRegion ∧ tRegion.active = true ∧ tRegion.seq.stopNext = false ∧ s.seqOut 0 = false ∧
     State.debugDue { s with agenda := [] } 0 = false ∧ tRegion.seq.pc % 4 = 0 ∧ tRegion.code[tRegion.seq.pc / 4]? = some 0) ∧
    (let r := { tRegion with seq := { tRegion.seq with pc := 32 } }
     State.debugDue (tWith r) 0 = false ∧ r.active = true ∧ 4 * r.code.length ≤ r.seq.pc ∧
     answers (step { tWith r with agenda := [.seq 0] }) (fun t => (t.region? 0).any (fun g => g.seq.trapped = some 3)) = true) ∧
    (let s := { State.reset with mem := [(0, 0x0B), (1, 0xA5), (2, 0x05), (3, 0x08)], agenda := [.hart 0] }
     (s.hart 0).wait = none ∧ s.hartOut 0 = false ∧ vread s.mem (s.hart 0).xlate (s.hart 0).pc.toNat 4 = .ok [0x0B, 0xA5, 0x05, 0x08] ∧
     decodeXlan (BitVec.ofNat 32 (leNat [0x0B, 0xA5, 0x05, 0x08])) = some (.rgFreeze 10 11)) ∧
    (isEvent (.voltageSettled 31) = true ∧ WellFormed (.voltageSettled 31) = true) := by
  decide +kernel

/-- A region installing a stream (StepRunsDecoded): its next word stands at 0x100. -/
def tInst : Install :=
  { full := true, byCfg := false, va := 0x100, count := 8, next := 0, xl := Hart.reset.xlate, result := 0, reg := 0, pc := 0, begun := false
    ended := false, version := 0, win := none, section_ := 0, hi := none, esc := false, crcHi := none, crcEsc := none, touched := [] }

theorem witness_StepRunsDecoded_stream :
    let r := { tRegion with state := .installing, inst := some tInst }
    let s := { tWith r with mem := [(0x100, 7), (0x102, 1), (0x103, 0xFF)], agenda := [.stream 0] }
    s.region? 0 = some r ∧ r.inst = some tInst ∧ s.isHeld tInst.xl.part (.cfg 0) = false ∧
    vread s.mem tInst.xl (tInst.va.toNat + 4 * tInst.next) 4 = .ok [7, 0, 1, 0xFF] ∧ decodeStream false 0xFF010007 = .cfgBegin 7 ∧
    answers (step s) (fun t => (t.region? 0).any (fun g => g.inst.any (fun i => i.begun && decide (i.version = 7)))) = true := by
  decide +kernel

/-- Without a supply a move faults, and a power-on reset runs (ResetsAndPowerLoss). -/
theorem witness_ResetsAndPowerLoss :
    let s := { tS with power := false, agenda := [.tick, .ev .coldReset] }
    s.power = false ∧ Move.tick ≠ .ev .coldReset ∧
    answers (step { s with agenda := [.ev .coldReset] }) (fun t => t.power && t.regions.isEmpty) = true := by decide +kernel


/-! ### The sequencer: arithmetic, branches, traps -/

/-- The region of the tests may issue (AluResults, BranchesAndJumps, SequencerTraps, WaitsProfilesAndCsrs); s0 as destination too. -/
theorem witness_AluResults :
    tS.region? tS.curSeq = some tRegion ∧ tRegion.mayIssue [⟨1, false⟩, ⟨2, true⟩] (some 3) ∧ tRegion.mayIssue [⟨0, true⟩] (some 0) ∧
    tRegion.mayIssue [] (some 31) ∧
    goes (exec (.add 3 ⟨1, false⟩ ⟨2, true⟩) tS) (tS.withSeq tRegion { (tRegion.seq.set 3 192) with pc := 8 }) = true ∧
    goes (exec (.sra 3 ⟨1, false⟩ ⟨2, true⟩) (tWith { tRegion with seq := tRegion.seq.set 1 0x8000000000000000 }))
      (tWith { tRegion with seq := { ((tRegion.seq.set 1 0x8000000000000000).set 3 0x8000000000000000) with pc := 8 } }) = true ∧
    goes (exec (.add 0 ⟨1, false⟩ ⟨2, true⟩) tS) (tS.withSeq tRegion { tRegion.seq with pc := 8 }) = true := by
  unfold Region.mayIssue; decide +kernel

-- 0 - 1 is all ones; the high half of (2^64 - 1)^2 is 2^64 - 2 (R203)
theorem test_sub_mulhu_wrap :
    let s := tWith { tRegion with seq := tRegion.seq.set 1 0xFFFFFFFFFFFFFFFF }
    answers (exec (.sub 3 ⟨0, false⟩ ⟨1, false⟩) s) (fun t => (t.region? 0).any (fun g => g.seq.get 3 == 1)) = true ∧
    answers (exec (.mulhu 3 ⟨1, false⟩ ⟨1, false⟩) s) (fun t => (t.region? 0).any (fun g => g.seq.get 3 == 0xFFFFFFFFFFFFFFFE)) = true := by decide +kernel

-- LUI of -1 and an I-format shift by 63 (R204)
theorem test_lui_slli :
    answers (exec (.lui 3 0x1FFFFF) tS) (fun t => (t.region? 0).any (fun g => g.seq.get 3 == 0xFFFFFFFFFFFF8000)) = true ∧
    answers (exec (.slli 3 ⟨1, false⟩ 63) (tWith { tRegion with seq := tRegion.seq.set 1 3 }))
      (fun t => (t.region? 0).any (fun g => g.seq.get 3 == 0x8000000000000000)) = true := by decide +kernel

theorem witness_SequencerRegisterFile :
    (31 : Reg) ≠ 0 ∧ tRegion.seq.regs.length = 32 ∧ (30 : Reg) ≠ 31 ∧ (tRegion.seq.set 31 5).get 31 = 5 ∧
    (tRegion.seq.clear 31).isFull 31 = false := by decide +kernel

theorem witness_BranchesAndJumps :
    tRegion.mayIssue [⟨1, false⟩, ⟨2, false⟩] none ∧ tRegion.mayIssue [] none ∧ tRegion.mayIssue [] (some 31) ∧
    tRegion.mayIssue [⟨0, false⟩] (some 3) ∧ (tRegion.seq.get 0).toNat % 4 = 0 ∧ (tRegion.seq.get 0).toNat < 4 * tRegion.code.length ∧
    goes (exec (.jmp 0x3FFFFFF) tS) (tS.withSeq tRegion { tRegion.seq with pc := 0 }) = true ∧
    goes (exec (.bltu ⟨1, false⟩ ⟨2, false⟩ 2) tS) (tS.withSeq tRegion { tRegion.seq with pc := 12 }) = true ∧
    goes (exec (.beq ⟨1, false⟩ ⟨2, false⟩ 2) tS) (tS.withSeq tRegion { tRegion.seq with pc := 8 }) = true := by
  unfold Region.mayIssue; decide +kernel

/-- An empty source with and without T, and an empty destination (IssueWaitsOrTraps). -/
theorem witness_IssueWaitsOrTraps :
    (tEmpty 1).active = true ∧ (tEmpty 1).seq.stopNext = false ∧ (tEmpty 1).seq.isFull 1 = false ∧ (tEmpty 1).seq.isFull 2 = true ∧
    (tEmpty 3).seq.isFull 3 = false ∧
    goes (exec (.add 3 ⟨1, true⟩ ⟨2, false⟩) (tWith (tEmpty 1))) ((tWith (tEmpty 1)).seqTrap 0 fFEEMPTY 0 0) = true ∧
    goes (exec (.add 3 ⟨1, false⟩ ⟨2, false⟩) (tWith (tEmpty 1))) (tWith (tEmpty 1)) = true ∧
    goes (exec (.add 3 ⟨2, false⟩ ⟨1, false⟩) (tWith (tEmpty 1))) (tWith (tEmpty 1)) = true ∧
    goes (exec (.add 3 ⟨1, false⟩ ⟨2, false⟩) (tWith (tEmpty 3))) (tWith (tEmpty 3)) = true := by decide +kernel

/-- ILLEG, BADPC and USER are taken: code, PC and argument stand in the record (SequencerTraps). -/
theorem witness_SequencerTraps :
    tRegion.mayIssue [] none ∧ tRegion.seq.isFull 1 = true ∧
    answers (exec (.trap ⟨1, false⟩ 7) tS) (fun t => (t.part 0).fqWait.any (fun f => f.code == 8 && f.addr == 64 && f.aux == 7 && f.detail == 4 &&
      f.flags == 4 && f.src == 1 && f.fid == 1)) = true ∧
    answers (exec (.illeg 0xFFFFFFFF) tS) (fun t => (t.region? 0).any (fun g => decide (g.state = .freezing) && g.seq.pc == 4)) = true := by
  unfold Region.mayIssue; decide +kernel

/-- WAITT holds, waits and holds on a register named that is empty; PROF, CSRR and CSRW at the ends of their ranges. -/
theorem witness_WaitsProfilesAndCsrs :
    (let r := { tRegion with seq := (tRegion.seq.set 1 0xC).clear 2 }
     r.mayIssue [⟨1, false⟩] (some 3) ∧ goes (exec (.waittAll 3 ⟨1, false⟩) (tWith r)) (tWith r) = true ∧
     goes (exec (.waittAny 3 ⟨1, false⟩) (tWith r)) (tWith { r with seq := { r.seq.set 3 8 with pc := 8 } }) = true) ∧
    tRegion.mayIssue [] (some 3) ∧
    goes (exec (.csrr 3 2) tS) (tWith { tRegion with seq := { tRegion.seq.set 3 0x20002 with pc := 8 } }) = true ∧
    answers (exec (.prof 3 4) (tWith { tRegion with prof := [1, 2, 3, 9] })) (fun t => (t.region? 0).any (fun g => g.seq.get 3 == 9)) = true ∧
    tRegion.mayIssue [⟨1, false⟩] none ∧
    answers (exec (.csrw ⟨31, false⟩ 0x27) tS) (fun t => (t.region? 0).any (fun g => g.seq.scr == [0, 0, 0, 0, 0, 0, 0, 1984])) = true ∧
    answers (exec (.csrw ⟨1, false⟩ 8) (tWith { tRegion with seq := tRegion.seq.set 1 0xFFFFFFFFFFFFFFFF }))
      (fun t => (t.region? 0).any (fun g => g.seq.profbase == 0x01FFFFFFFFFFFFCC)) = true := by
  unfold Region.mayIssue; decide +kernel


/-! ### The sequencer: memory and copies -/

/-- Loads at issue at the ends of the address range, and their fill (SequencerLoads). -/
theorem witness_SequencerLoads :
    let hi (v : Dword) : Region := { tQRegion with seq := tQRegion.seq.set 1 v }
    tQRegion.mayIssue [⟨1, false⟩] (some 3) ∧
    bits (0x200000000000000 : Dword) 63 57 ≠ 0 ∧ (hi 0x200000000000000).mayIssue [⟨1, false⟩] (some 3) ∧
    goes (exec (.ld 3 ⟨1, false⟩ 0) (tWith (hi 0x200000000000000))) ((tWith (hi 0x200000000000000)).seqTrap 0 0x05 0 0) = true ∧
    goes (exec (.ld 3 ⟨1, false⟩ 4) tS) (tS.seqTrap 0 0x04 0 0) = true ∧
    goes (exec (.lw 3 ⟨1, false⟩ 4) tS) (tWith { tRegion with seq := { tRegion.seq.clear 3 with pc := 8, opNo := 1, acc := [(0, { store := false, reg := 3, va := 68, size := 4, data := 0, pc := 4 })] } }) = true ∧
    (let r := { tQRegion with seq := { tQRegion.seq.clear 3 with acc := [(5, { store := false, reg := 3, va := 0x13004, size := 4, data := 0, pc := 0 })] } }
     let s := tQ r (at_ 0x13004 [0xFE, 0xFF, 0xFF, 0xFF])
     s.region? 0 = some r ∧ r.active = true ∧ accBlocked r.seq.acc 5 0x13004 0x13005 = false ∧ descBlocked r.seq.copies 5 0x13004 = false ∧ s.isHeld r.part (.seqAccess 0 5) = false ∧
     s.rread 0 0x13004 4 = .ok [0xFE, 0xFF, 0xFF, 0xFF] ∧
     goes (exec (.seqLoadFill 0 5) s)
       ((s.touch 0 0x13004 4).setRegion 0 { r with seq := { tQRegion.seq.set 3 0xFFFFFFFFFFFFFFFE with acc := [] } }) = true ∧
     (s.touch 0 0x13004 4).used = [(r.period, 1)]) := by
  unfold Region.mayIssue; decide +kernel

/-- Stores: each trap, one that waits, one that leaves its bytes (SequencerStores). -/
theorem witness_SequencerStores :
    let s := tQ tQRegion []
    s.memOk ∧ s.region? s.curSeq = some tQRegion ∧ tQRegion.mayIssue [⟨3, false⟩, ⟨1, false⟩] none ∧
    goes (exec (.st ⟨3, false⟩ ⟨1, false⟩ 4) s) (s.seqTrap 0 0x04 0 0) = true ∧
    (let r := { tQRegion with seq := { tQRegion.seq with opNo := 1, acc := [(0, { store := false, reg := 3, va := 68, size := 4, data := 0, pc := 0 })] } }
     accBlocked (r.seq.acc.put 1 { store := true, reg := 0, va := 64, size := 8, data := 192, pc := 4 }) 1 64 65 = true ∧
     answers (exec (.st ⟨3, false⟩ ⟨1, false⟩ 0) (tQ r [])) (fun t => decide (t.mem = (tQ r []).mem) &&
       (t.region? 0).any (fun g => g.seq.acc.length == 2 && g.seq.pc == 8)) = true) ∧
    s.isHeld 0 (.seqAccess 0 0) = false ∧ translate s.mem (s.rgXlate tQRegion) 64 .write = .ok (64, 0) ∧ s.rgDenied 0 64 4 true = none ∧
    answers (exec (.sw ⟨3, false⟩ ⟨1, false⟩ 0) s) (fun t => decide (t.mem.read 64 4 = leBytes 192 4) &&
      (t.region? 0).any (fun g => g.seq.acc.isEmpty && g.seq.pc == 8)) = true ∧
    -- the top byte of the space a store may reach
    answers (exec (.st ⟨3, false⟩ ⟨1, false⟩ 0) (tWith { tRegion with seq := tRegion.seq.set 1 0x200000000000000 }))
      (fun t => (t.region? 0).any (fun g => g.seq.trapped == some 5)) = true := by
  unfold State.memOk Region.mayIssue; decide +kernel

/-- Copies at issue: no slot, the operands refused, the slot of CPYI, the descriptor of CPY (CopiesIssue). -/
theorem witness_CopiesIssue :
    let c : Copy := newCopy 0 3 tQRegion.seq
    let full := { tQRegion with seq := { tQRegion.seq with copies := (List.range 16).map (fun i => (i, c)) } }
    let s := tQ { tQRegion with seq := tQRegion.seq.set 1 0x13000 } (at_ 0x13000 tCpy)
    tQRegion.mayIssue [⟨1, false⟩, ⟨2, false⟩] (some 3) ∧
    full.seq.freeCopy = none ∧ goes (exec (.cpyi 3 ⟨1, false⟩ ⟨2, false⟩ 1) (tQ full [])) (tQ full []) = true ∧
    tQRegion.seq.freeCopy = some 0 ∧
    goes (exec (.cpyi 3 ⟨1, false⟩ ⟨2, false⟩ 0) s) (s.seqTrap 0 0x06 0 0) = true ∧
    goes (exec (.cpyi 0 ⟨1, false⟩ ⟨2, false⟩ 1) s) (s.seqTrap 0 0x06 0 0) = true ∧
    answers (exec (.cpyi 3 ⟨1, false⟩ ⟨2, false⟩ 511) s) (fun t => (t.region? 0).any (fun g => (g.seq.copies.find 0).any (fun c =>
      c.len == 32704 && c.src == 0x13000 && c.dst == 128 && c.rows == 1 && c.status == 0 && !g.seq.isFull 3))) = true ∧
    goes (exec (.cpy2 3 ⟨31, false⟩) (tWith { tRegion with seq := tRegion.seq.set 31 32 }))
      ((tWith { tRegion with seq := tRegion.seq.set 31 32 }).seqTrap 0 0x06 0 0) = true ∧
    s.rread 0 0x13000 32 = .ok tCpy ∧ s.isHeld 0 (.copy 0 0) = false ∧
    answers (exec (.cpy 3 ⟨1, false⟩) s) (fun t => (t.region? 0).any (fun g => (g.seq.copies.find 0).any (fun c =>
      c.len == 64 && c.src == 0x14000 && c.dst == 0x15000 && c.desc.isNone && c.status == 0))) = true := by
  unfold Region.mayIssue; decide +kernel

/-- A beat in memory, a beat over three rows of 24 bytes, and a copy that ends (CopiesMoveAndComplete). -/
theorem witness_CopiesMoveAndComplete :
    let c : Copy := { newCopy 2 3 tQRegion.seq with src := 0x14000, dst := 0x15000, len := 64 }
    let d : Copy := { newCopy 1 3 tQRegion.seq with src := 0x14000, dst := 0x15000, len := 24, rows := 4, sstride := 32, dstride := 24 }
    let r (c : Copy) : Region := { tQRegion with seq := { tQRegion.seq.clear 3 with copies := [(0, c)] } }
    let s (c : Copy) : State := tQ (r c) [(0x14000, 7), (0x1403F, 9), (0x14040, 5), (0x14061, 6)]
    (s c).region? 0 = some (r c) ∧ (s c).beatCheck (r c) c.src 0x14000 64 = 0 ∧ (s c).beatCheck (r c) c.dst 0x15000 64 = 0 ∧
    c.pieces = [(0, 0, 64)] ∧
    (s c).copySrc 0 (r c) c c.pieces = .ok ([7] ++ List.replicate 62 0 ++ [9], [], 0) ∧
    locate (s c).mem ((s c).rgXlate (r c)) .write 0x15000 (piecesOf 0x15000 64) = .ok [(0x15000, 64)] ∧
    goes (exec (.copyBeat 0 0) (s c)) { (s { c with done := 64 }) with mem := ((s c).mem.put 0x15000 7).put 0x1503F 9, used := [(0, 1)] } = true ∧
    d.pieces = [(0, 0, 24), (1, 0, 24), (2, 0, 16)] ∧ (s d).beatCode (r d) d = 0 ∧
    goes (exec (.copyBeat 0 0) (s d)) { (s { d with done := 64 }) with mem := ((s d).mem.put 0x15000 7).put 0x15030 5, used := [(0, 1)] } = true ∧
    { d with done := 64 }.pieces = [(2, 16, 8), (3, 0, 24)] ∧
    goes (exec (.copyBeat 0 0) (s { d with done := 64 })) { (s { d with done := 96 }) with mem := (s d).mem.put 0x15049 6, used := [(0, 1)] } = true ∧
    goes (exec (.copyComplete 0 0) (s { c with done := 64 }))
      ((s c).setRegion 0 { tQRegion with seq := tQRegion.seq.set 3 64 }) = true ∧
    goes (exec (.copyComplete 0 0) (s { c with done := 0, status := 8 }))
      ((s c).setRegion 0 { tQRegion with seq := tQRegion.seq.set 3 0x8000000000000 }) = true := by
  decide +kernel



/-- CFG, ARM, FORK, RDV and CLASS_DONE: the refusals at the ends of the ranges, the waits, and the effects (PhaseControl). -/
theorem witness_PhaseControl_config :
    let s := tPhase tQRegion tElem
    let wide := { tQRegion with seq := tQRegion.seq.set 1 256 }
    tQRegion.mayIssue [⟨1, false⟩, ⟨2, false⟩] (some 3) ∧ tQRegion.state = .running ∧ tQRegion.inst = none ∧
    goes (exec (.cfg 3 ⟨1, false⟩ ⟨2, false⟩) (tPhase { tQRegion with inst := some tInstC } tElem)) (tPhase { tQRegion with inst := some tInstC } tElem) = true ∧
    goes (exec (.cfg 3 ⟨1, false⟩ ⟨0, false⟩) s) (s.seqTrap 0 0x06 0 0) = true ∧
    (let r := { tQRegion with seq := tQRegion.seq.set 2 0x10000001 }
     goes (exec (.cfg 3 ⟨1, false⟩ ⟨2, false⟩) (tPhase r tElem)) ((tPhase r tElem).seqTrap 0 0x06 0 0) = true) ∧
    answers (exec (.cfg 3 ⟨1, false⟩ ⟨2, false⟩) s) (fun t => (t.region? 0).any (fun g => g.inst.any (fun i =>
      i.count == 128 && i.va == 64 && i.byCfg && !i.full) && !g.seq.isFull 3 && g.seq.pc == 8)) = true ∧
    s.section_ tQRegion 64 = [1] ∧ (s.section_ tQRegion 64).Nodup ∧
    goes (exec (.arm ⟨1, false⟩ ⟨0, false⟩) s) (s.seqTrap 0 0x06 0 0) = true ∧
    goes (exec (.arm ⟨1, false⟩ ⟨2, false⟩) (tPhase wide tElem)) ((tPhase wide tElem).seqTrap 0 0x06 0 0) = true ∧
    goes (exec (.arm ⟨1, false⟩ ⟨2, false⟩) (tPhase tQRegion { tElem with passc := 2 ^ 32 - 128 }))
      ((tPhase tQRegion { tElem with passc := 2 ^ 32 - 128 }).seqTrap 0 0x06 0 0) = true ∧
    answers (exec (.arm ⟨1, false⟩ ⟨2, false⟩) (tPhase tQRegion { tElem with passc := 2 ^ 32 - 129 }))
      (fun t => (t.tile 1).passc == 2 ^ 32 - 1 && (t.region? 0).any (fun g => g.seq.pc == 8)) = true := by
  unfold Region.mayIssue; decide +kernel

theorem witness_PhaseControl_run :
    let s := tPhase tQRegion tElem
    let wide := { tQRegion with seq := tQRegion.seq.set 1 256 }
    let sect : Sect := { forked := 7, forkCycle := some 3, firstEnd := none, lastEnd := 0 }
    let forked := { tQRegion with sects := [(64, sect)], cycles := 9 }
    goes (exec (.fork ⟨1, false⟩ 1) (tPhase wide tElem)) ((tPhase wide tElem).seqTrap 0 0x06 0 0) = true ∧
    goes (exec (.fork ⟨1, false⟩ 1) (tPhase tQRegion { tElem with passc := 0 })) ((tPhase tQRegion { tElem with passc := 0 }).seqTrap 0 0x06 0 0) = true ∧
    (tElem.fork (isCt 1) 7).forkTrap = none ∧
    answers (exec (.fork ⟨1, false⟩ 0) s) (fun t => (t.tile 1).forked == 7 && (t.region? 0).any (fun g => g.seq.pc == 8 && (g.sects.find 64).isSome)) = true ∧
    goes (exec (.rdv ⟨1, false⟩) (tPhase wide tElem)) ((tPhase wide tElem).seqTrap 0 0x06 0 0) = true ∧
    (tPhase forked { tElem with forked := 7 }).sectDone forked 64 = false ∧
    goes (exec (.rdv ⟨1, false⟩) (tPhase forked { tElem with forked := 7 })) (tPhase forked { tElem with forked := 7 }) = true ∧
    (tPhase forked { tElem with forked := 7, doneCls := 7 }).sectDone forked 64 = true ∧
    answers (exec (.rdv ⟨1, false⟩) (tPhase forked { tElem with forked := 7, doneCls := 7 })) (fun t => (t.tile 1).forked == 0 && (t.tile 1).passc == 0 &&
      (t.region? 0).any (fun g => g.seq.pc == 8 && (g.sects.find 64).isNone && g.phase == 1 && g.phaseStart == 9)) = true ∧
    (s.liveRegion 1).isSome = true ∧ ({ tElem with passc := 0, forked := 1 } : Tile).classOver .fabric = true ∧
    answers (exec (.classDone 1 .fabric) (tPhase tQRegion { tElem with passc := 0, forked := 1 })) (fun t => (t.tile 1).doneCls == 1) = true := by
  decide +kernel

/-- A FORK that starts a pattern stream on Y traps its element and freezes the region (PhaseControl). -/
theorem witness_PhaseControl_fork_trap :
    let t : Tile := { tElem with fields := (0x10, 0x80000000) :: (0x20, 0x05) :: (0x40, 0x20000) :: tElem.fields }
    let s := tPhase tQRegion t
    s.section_ tQRegion 64 = [1] ∧ t.forked.getLsbD 1 = false ∧ isCt 1 = false ∧ (t.fork (isCt 1) 7).forkTrap = some (0, 0x14) ∧
    (s.ownerOf 1).any (fun y => y.1 == 0 && decide (y.2 = tQRegion)) = true ∧
    answers (exec (.fork ⟨1, false⟩ 0) s) (fun z => (z.tile 1).trap == some 0x14 &&
      (z.region? 0).any (fun g => decide (g.state = .freezing) && g.seq.pc == 8)) = true := by decide +kernel

/-- Markers, a held port, barriers and the drain (MarkersAndDrain). -/
theorem witness_MarkersAndDrain :
    let p : Port := { Port.empty with round := 255 }
    let s := tMark tQRegion [(1, p)]
    let all := { tQRegion with seq := tQRegion.seq.set 1 1 }
    s.ports_ tQRegion 0 = [{ tile := 0, a := 0, emp := 0, ch := 1 }] ∧ s.ports_ tQRegion 1 = [{ tile := 0, a := 1, emp := 0, ch := 2 }] ∧
    selected (tQRegion.seq.get 0) (s.ports_ tQRegion 0) = s.ports_ tQRegion 0 ∧ selected (tQRegion.seq.get 1) (s.ports_ tQRegion 0) = [] ∧
    selected (all.seq.get 1) (s.ports_ all 0) = s.ports_ all 0 ∧
    goes (exec (.punct ⟨0, false⟩) s) ({ tMark tQRegion [(1, { p with round := 0, reply := [(0, markBeat 2 255)] })] with
      regions := [(0, { tQRegion with seq := { tQRegion.seq with pc := 8 } })] }) = true ∧
    goes (exec (.barr 0 ⟨0, false⟩) s) (s.seqTrap 0 0x06 0 0) = true ∧
    (let b := { tQRegion with seq := { tQRegion.seq with barr := some (5, 0) } }
     goes (exec (.barr 3 ⟨0, false⟩) (tMark b [(1, p)])) (tMark b [(1, p)]) = true ∧
     goes (exec (.barrComplete 0) (tMark b [(1, p)])) (tMark b [(1, p)]) = true ∧
     answers (exec (.barrComplete 0) (tMark b [(2, { p with barrOut := true })])) (fun t => (t.region? 0).any (fun g => g.seq.barr.isNone && g.seq.get 5 == 0)) = true) ∧
    answers (exec (.barr 3 ⟨0, false⟩) s) (fun t => decide ((t.port 1).reply = [(0, markBeat 3 255)]) && (t.port 1).round == 255 &&
      (t.region? 0).any (fun g => !g.seq.isFull 3 && g.seq.pc == 8)) = true ∧
    answers (exec .snuf s) (fun t => decide ((t.port 1).reply = [(0, markBeat 4 255)]) &&
      (t.region? 0).any (fun g => decide (g.state = .draining) && g.seq.stopNext && g.seq.pc == 8)) = true ∧
    (let h := tMark tQRegion [(1, { p with wait := true })]
     answers (exec (.punct ⟨0, false⟩) h) (fun t => decide ((t.port 1).marks = [2] ∧ (t.port 1).reply = [])) = true) := by
  decide +kernel


/-- Pushes: a stale handle, a malformed record, no room, a push, a push that counts up a block (RecordsPushed). -/
theorem witness_RecordsPushed :
    let s := tQ tQRegion (at_ 0x13000 tRec.bytes)
    let x := s.rgXlate tQRegion
    let j : Cont := { tRec with join := 0x14000 }
    (s.part 0).current tblQueue 0x100002 = false ∧ decide (s.pushRec 0 x 0x100002 tRec 0 = .ok (errWord 1, s)) = true ∧
    (s.part 0).current tblQueue 0x100001 = true ∧ s.recOk 0 { tRec with flags := 0x40 } = false ∧
    decide (s.pushRec 0 x 0x100001 { tRec with flags := 0x40 } 0 = .ok (errWord 3, s)) = true ∧
    s.recOk 0 tRec = true ∧ (s.part 0).room 0 tRec.prio 1 0 = true ∧ (s.part 0).queues.find (hSlot 0x100001 - 1) = some tQueue ∧
    (let f := s.setPart 0 { tPart with queues := [(0, { tQueue with share := 0 })] }
     (f.part 0).room 0 3 1 0 = false ∧ decide (f.pushRec 0 x 0x100001 tRec 0 = .ok (errWord 2, f)) = true) ∧
    (∃ t, s.pushRec 0 x 0x100001 tRec 0xFFFF = .ok (0, t) ∧ (((t.part 0).queues.get 0 tQueue).recs[3]?).getD [] =
      [{ cont := tRec.tagged 0xFFFF 0, rsv := false, period := none, trim := none }]) ∧
    translate s.mem x 0x14000 .atomic = .ok (0x14000, 0) ∧
    (∃ t, s.pushRec 0 x 0x100001 j 5 = .ok (0, t) ∧ t.mem.readN 0x14000 4 = 1 ∧ t.journal.length = 2) ∧
    (let f := tQ tQRegion (at_ 0x14000 [0xFE, 0xFF, 0xFF, 0xFF])
     f.mem.readN 0x14000 4 < 2 ^ 32 - 1 ∧ ∃ t, f.pushRec 0 x 0x100001 j 5 = .ok (0, t) ∧ t.mem.readN 0x14000 4 = 2 ^ 32 - 1) := by
  refine ⟨by decide +kernel, by decide +kernel, by decide +kernel, by decide +kernel, by decide +kernel, by decide +kernel, by decide +kernel,
    by decide +kernel, by decide +kernel, ⟨_, rfl, by decide +kernel⟩, by decide +kernel, ⟨_, rfl, by decide +kernel⟩, by decide +kernel,
    ⟨_, rfl, by decide +kernel⟩⟩

/-- The words that push: hq.push of a hart, SPAWN of a period, and a replayed one (RecordsPushed). -/
theorem witness_RecordsPushed_words :
    let r := { tQRegion with seq := (tQRegion.seq.set 1 0x13000).set 2 0x100001 }
    let s := (tQ r (at_ 0x13000 tRec.bytes)).setHart 0 ((tHart.set 1 0x100001).set 2 0x13000)
    s.mayRun 0 ∧ (s.me.get 2).toNat % 32 = 0 ∧ vread s.mem s.me.xlate (s.me.get 2).toNat 32 = .ok tRec.bytes ∧ contOf tRec.bytes = tRec ∧
    answers (exec (.hqPush 3 1 2) s) (fun t => ((t.part 0).queues.get 0 tQueue).levelUsed 3 == 1 && (t.hart 0).get 3 == 0 && (t.hart 0).pc == 4) = true ∧
    r.mayIssue [⟨1, false⟩, ⟨2, false⟩] (some 3) ∧ s.journalled r.period r.pushIdx = none ∧ s.isHeld 0 (.seqAccess 0 (2 ^ 20)) = false ∧
    s.rread 0 0x13000 32 = .ok tRec.bytes ∧ bits (0x100001 : Dword) 63 32 = 0 ∧
    answers (exec (.spawnRecord 3 ⟨1, false⟩ ⟨2, false⟩) s) (fun t => ((t.part 0).queues.get 0 tQueue).levelUsed 3 == 1 &&
      (t.region? 0).any (fun g => g.seq.get 3 == 0 && g.seq.pc == 8 && g.pushIdx == 1)) = true ∧
    (let f := { s with journal := [.result 0 0 9] }
     f.journalled 0 0 = some 9 ∧ answers (exec (.spawnRecord 3 ⟨1, false⟩ ⟨2, false⟩) f) (fun t => ((t.part 0).queues.get 0 tQueue).levelUsed 3 == 0 &&
      (t.region? 0).any (fun g => g.seq.get 3 == 9 && g.pushIdx == 1)) = true) := by
  unfold State.mayRun Region.mayIssue; decide +kernel

/-- The refusals of a dispatch and one accepted (LaunchesDispatched). -/
theorem witness_LaunchesDispatched :
    let s := (tQ tQRegion []).setPart 0 tGraph
    let x := s.rgXlate tQRegion
    State.dispatchOk (leBytes 0x100001 4 ++ [1] ++ List.replicate 11 0) = false ∧ State.dispatchOk tBlk = true ∧
    decide (s.dispatch 0 x (tLaunch 0x100007) (leBytes 0x100001 4 ++ [1] ++ List.replicate 11 0) 0 = .ok (errWord 8, s)) = true ∧
    decide (s.dispatch 0 x (tLaunch 0x100007) (leBytes 0x200001 4 ++ List.replicate 12 0) 0 = .ok (errWord 1, s)) = true ∧
    s.launchCheck 0 (tLaunch 0x100008) true = .error 5 ∧ decide (s.dispatch 0 x (tLaunch 0x100008) tBlk 0 = .ok (errWord 1, s)) = true ∧
    s.launchCheck 0 (tLaunch 0x100007) true = .ok 1 ∧ s.launchCheck 0 (List.replicate 256 0) true = .error 6 ∧
    decide (s.dispatch 0 x (List.replicate 256 0) tBlk 0 = .ok (errWord 3, s)) = true ∧
    (let f := s.setPart 0 { tGraph with queues := [(0, { tQueue with share := 0 })] }
     (f.part 0).room 0 0 1 2 = false ∧ decide (f.dispatch 0 x (tLaunch 0x100007) tBlk 0 = .ok (errWord 2, f)) = true) ∧
    (s.part 0).room 0 0 1 2 = true ∧ (s.part 0).frames.length + 2 ≤ (s.part 0).frameUnits ∧ fieldAt tBlk 8 8 = 0 := by
  decide +kernel

/-- The words that dispatch reach the record and the block (LaunchesDispatched). -/
theorem witness_LaunchesDispatched_words :
    let r := { tQRegion with seq := (tQRegion.seq.set 1 0x13000).set 2 0x13100 }
    let s := ((tQ r (at_ 0x13000 (tLaunch 0x100008) ++ at_ 0x13100 tBlk)).setPart 0 tGraph).setHart 0 ((tHart.set 1 0x13000).set 2 0x13100)
    s.mayRun 0 ∧ (s.me.get 1).toNat % 64 = 0 ∧ (s.me.get 2).toNat % 16 = 0 ∧ vread s.mem s.me.xlate 0x13100 16 = .ok tBlk ∧
    vread s.mem s.me.xlate 0x13000 256 = .ok (tLaunch 0x100008) ∧
    goes (exec (.lanDispatch 3 1 2) s) (s.withResult 3 (errWord 1)) = true ∧
    r.mayIssue [⟨1, false⟩, ⟨2, false⟩] (some 3) ∧ s.rread 0 0x13100 16 = .ok tBlk ∧ s.rread 0 0x13000 256 = .ok (tLaunch 0x100008) ∧
    answers (exec (.spawnLaunch 3 ⟨1, false⟩ ⟨2, false⟩) s) (fun t => (t.region? 0).any (fun g => g.seq.get 3 == errWord 1 && g.pushIdx == 1)) = true := by
  unfold State.mayRun Region.mayIssue; decide +kernel

/-- Arming a block that counts, one that does not, and one that is not idle (JoinBlocksArmed). -/
theorem witness_JoinBlocksArmed :
    let s (m : Memory) := tQ { tQRegion with seq := tQRegion.seq.set 1 0x13000 } (at_ 0x13000 tArm ++ m)
    let x := (s []).rgXlate tQRegion
    let go (m : Memory) : Option (Dword × State) := match (s m).armJoin 0 x tArm with | .ok y => some y | .error _ => none
    fieldAt tArm 0 8 % 64 = 0 ∧ fieldAt tArm 0 8 ≠ 0 ∧ zeroAt tArm 12 32 = true ∧ (s []).recOk 0 (contOf (tArm.drop 32)) = true ∧
    translate (s []).mem x 0x14000 .atomic = .ok (0x14000, 0) ∧ (s []).memOk ∧
    (go [(0x14005, 1)]).any (fun y => y.1 == errWord 4 && decide (y.2 = s [(0x14005, 1)])) = true ∧
    (go [(0x14000, 2)]).any (fun y => y.1 == 0 && y.2.mem.get 0x14005 == 1 && y.2.mem.get 0x14000 == 2 && decide (y.2.parts = (s []).parts)) = true ∧
    (go []).any (fun y => y.1 == 0 && y.2.mem.get 0x14005 == 2 && ((y.2.part 0).queues.get 0 tQueue).rsvUsed 3 == 1) = true ∧
    answers (exec (.join 3 ⟨1, false⟩) (s [])) (fun t => (t.region? 0).any (fun g => g.seq.get 3 == 0 && g.pushIdx == 1 && g.seq.pc == 8)) = true ∧
    answers (exec (.lanJoin 3 1) ((s []).setHart 0 (tHart.set 1 0x13000))) (fun t => t.mem.get 0x14005 == 2 && (t.hart 0).pc == 4) = true := by
  unfold State.memOk; decide +kernel


/-- RETIRE and YIELD: they wait, trap, and end the run with and without a block (RetireAndYield). -/
theorem witness_RetireAndYield :
    let r := tPeriod
    let s := tQ r [(0x14000, 2), (0x14005, 1)]
    s.memOk ∧ s.region? 0 = some r ∧ r.mayIssue [⟨1, false⟩] none ∧ r.run = some { tRec with join := 0x14000, flags := 0x0000000100000000 } ∧
    (let e := { r with seq := r.seq.clear 5 }
     e.seq.full ≠ 0xFFFFFFFF ∧ goes (exec .retire (tQ e [])) (tQ e []) = true) ∧
    (let e := { r with seq := r.seq.set 1 16384 }
     goes (exec (.yield ⟨1, false⟩) (tQ e [])) ((tQ e []).seqTrap 0 0x06 0 0) = true) ∧
    r.seq.full = 0xFFFFFFFF ∧ r.seq.acc = [] ∧ r.forkedSects = [] ∧ s.ports = [] ∧ (s.part 0).trEn = 0 ∧
    translate s.mem (s.rgXlate r) 0x14000 .atomic = .ok (0x14000, 0) ∧ s.mem.readN 0x14000 4 = 2 ∧
    answers (exec .retire s) (fun t => t.mem.readN 0x14000 4 == 1 && t.journal.contains (.retire 9) &&
      (t.region? 0).any (fun g => decide (g.state = .idle) && g.run.isNone)) = true ∧
    answers (exec (.yield ⟨1, false⟩) s) (fun t => decide (t.mem = s.mem) && (((t.part 0).queues.get 0 tQueue).rsvUsed 0 == 1) &&
      (t.region? 0).any (fun g => decide (g.state = .idle) && g.run.isNone)) = true := by
  unfold State.memOk Region.mayIssue; decide +kernel

/-- Requests and releases in each of their answers (SyncObjects). -/
theorem witness_SyncObjects :
    ((tSo tHeld).part 0).current tblSo 0x100003 = true ∧ ((tSo tHeld).part 0).sos.find (hSlot 0x100003) = some tHeld ∧
    ((tSo tHeld).soAcq 0 0x100003 (.seq 0) true false 0 (.seqReg 0 3)).1 = .err 0xA ∧
    ((tSo tHeld).soAcq 0 0x100003 (.owner 1) true false 0 (.hart 0 5)).1 = .err 0xA ∧
    ((tSo tHeld).soAcq 0 0x100003 (.owner 2) false true 0 (.hart 0 5)).1 = .err 7 ∧
    ((tSo tHeld).soAcq 0 0x100003 (.owner 2) false false 0 (.hart 0 5)).1 = .queued ∧
    ((tSo tFree).soAcq 0 0x100003 (.owner 2) false false 0 (.hart 0 5)).1 = .granted ∧
    ((tSo { tFree with holds := [{ who := .owner 4, excl := false, scope := 7, tag := 1 }] }).soAcq 0 0x100003 (.owner 2) false true 3 (.hart 0 5)).1 = .granted ∧
    ((tSo tFree).soAcq 0 0x100003 (.owner 2) true true 0 (.hart 0 5)).2 = tSo { tFree with
      holds := [{ who := .owner 2, excl := true, scope := 7, tag := 0xFFFFFFFF }], nextTag := 0 } ∧
    (tSo tHeld).soRel 0 0x100003 (.seq 0) = (0, tSo { tHeld with holds := [] }) ∧
    (tSo tHeld).soRel 0 0x100003 (.owner 1) = (errWord 0xA, tSo tHeld) := by decide +kernel

/-- The words that ask and release, and a grant to a hart and to a sequencer (SyncObjects). -/
theorem witness_SyncObjects_words :
    let hart := (tHart.set 1 0x000100100003).set 2 1
    let r := { tQRegion with seq := (tQRegion.seq.set 1 0x100003).set 2 1 }
    let s (o : SyncObj) := ((tSo o).setHart 0 hart).setRegion 0 r
    (s tFree).mayRun 0 ∧ bits ((s tFree).me.get 1) 63 48 = 0 ∧ bits ((s tFree).me.get 2) 63 7 = 0 ∧
    goes (exec (.soAcq 3 1 3) (s tFree)) ((s tFree).withResult 3 (errWord 8)) = true ∧
    answers (exec (.soAcq 3 1 2) (s tFree)) (fun t => (t.hart 0).get 3 == 0 && (t.hart 0).pc == 4) = true ∧
    answers (exec (.soAcq 3 1 2) (s { tHeld with waits := [] })) (fun t => decide ((t.hart 0).wait = some (.acq 0 3 3)) && (t.hart 0).pc == 0) = true ∧
    r.mayIssue [⟨1, false⟩, ⟨2, false⟩] (some 3) ∧
    answers (exec (.acq 3 ⟨1, false⟩ ⟨2, false⟩) (s tFree)) (fun t => (t.region? 0).any (fun g => g.seq.get 3 == 0 && g.seq.pc == 8)) = true ∧
    answers (exec (.acq 3 ⟨1, false⟩ ⟨2, false⟩) (s { tHeld with holds := [{ who := .owner 9, excl := true, scope := 7, tag := 0 }] }))
      (fun t => (t.region? 0).any (fun g => decide (g.seq.acqWait = some (3, 0x100003)) && g.seq.pc == 4)) = true ∧
    answers (exec (.rel 3 ⟨1, false⟩) (s tHeld)) (fun t => (t.region? 0).any (fun g => g.seq.get 3 == 0 && g.seq.pc == 8)) = true ∧
    (s { tHeld with holds := [] }).mayRun 0 ∧
    goes (exec (.soGrant 0 3) (s { tHeld with holds := [] })) ((s { tHeld with
      holds := [{ who := .owner 1, excl := true, scope := 7, tag := 0xFFFFFFFF }], waits := [], nextTag := 0 }).setHart 0 { hart.set 5 0 with pc := 4 }) = true ∧
    answers (exec (.soGrant 0 3) (s { tHeld with holds := [], waits := [{ who := .seq 0, excl := true, scope := 7, reply := .seqReg 0 3 }] }))
      (fun t => (t.region? 0).any (fun g => g.seq.get 3 == 0 && g.seq.pc == 8)) = true := by
  unfold State.mayRun Region.mayIssue; decide +kernel

/-- so.bind: its block, a change and a free, and a busy object (SyncObjects). -/
theorem witness_SyncObjects_bind :
    let hart := { ((tHart.set 1 0x13000).set 2 0x100003) with mode := .vs }
    let s (o : SyncObj) := ({ tSo o with mem := (((tSo o).mem.put 0x13000 1).put 0x13002 1).put 0x13018 64 }).setHart 0 hart
    (s tFree).mayRun 1 ∧ (s tFree).me.actPart = 0 ∧ ((s tFree).me.get 1).toNat % 16 = 0 ∧ (s tFree).me.get 1 ≠ 0 ∧ bits ((s tFree).me.get 2) 63 32 = 0 ∧
    (match vread (s tFree).mem (s tFree).me.xlate 0x13000 144 with | .ok b => bindOk b | .error _ => false) = true ∧
    (let z := (s tFree).setHart 0 (hart.set 2 0)
     z.me.get 2 = 0 ∧ (z.part 0).sos.length < (z.part 0).quota 4) ∧
    answers (exec (.soBind 3 1 2) (s tFree)) (fun t => (t.hart 0).get 3 == 0 && ((t.part 0).sos.get 3 tHeld).nextTag == 0xFFFFFFFF) = true ∧
    answers (exec (.soBind 3 0 2) (s tFree)) (fun t => (t.hart 0).get 3 == 0 && (t.part 0).gen tblSo 3 == 2 && ((t.part 0).sos.find 3).isNone) = true ∧
    goes (exec (.soBind 3 1 2) (s tHeld)) ((s tHeld).withResult 3 (errWord 7)) = true := by
  unfold State.mayRun; decide +kernel


/-! ### Harts: exceptions, fences, queues, regions -/

/-- Each mode that takes a trap: M, HS by mideleg, VS by hideleg, at the vectored handler; and the ends of the causes (HartExceptionEntry). -/
theorem witness_HartExceptionEntry :
    let h : Hart := { tHart with pc := 0x400, csr := [(mSTATUS, 8), (mEDELEG, 0x8000000000000000), (mTVEC, 0x801), (xTVEC, 0x1000)] }
    let d : Hart := { h with csr := (h.csr.put mIDELEG 0x200).put hIDELEG 0x200 }
    h.trapMode 2 false = .m ∧ (h.takeTrap 2 false 7 0).pc = 0x800 ∧ (h.takeTrap 2 false 7 0).rcsr mEPC = 0x400 ∧
    bits ((h.takeTrap 2 false 7 0).rcsr mSTATUS) 12 11 = 0 ∧ bit ((h.takeTrap 2 false 7 0).rcsr mSTATUS) 7 = true ∧
    (h.takeTrap 63 true 0 0).pc = 0x8FC ∧ h.trapMode 63 false = .hs ∧ (h.takeTrap 63 false 0 0).pc = 0x1000 ∧
    d.trapMode 9 true = .vs ∧ (d.takeTrap 9 true 0 0).mode = .vs ∧ (d.takeTrap 9 true 0 0).rcsr vEPC = 0x400 := by decide +kernel

/-- An unlisted word, an instruction of a guest kernel at U, one for a partition not in force (XlanIllegalAndPrivilege). -/
theorem witness_XlanIllegalAndPrivilege :
    let s := tQ tQRegion []
    let off := { State.reset with harts := [(0, { Hart.reset with mode := .hs })] }
    s.me.wait = none ∧ s.me.mode.level = 0 ∧
    answers (exec (.xlanIllegalInstruction 0x400B) s) (fun t => (t.hart 0).rcsr mCAUSE == 2 && (t.hart 0).rcsr mTVAL == 0x400B) = true ∧
    answers (exec (.rgStat 3 1) s) (fun t => (t.hart 0).get 3 == errWord 0x16 && (t.hart 0).pc == 4 &&
      (t.part 0).fqWait.any (fun f => f.code == 0x35 && f.src == 4)) = true ∧
    off.me.wait = none ∧ 2 ≤ off.me.mode.level ∧ (off.part off.me.actPart).active = false ∧
    goes (exec (.rgKill 3 1) off) (off.withResult 3 (errWord 8)) = true := by decide +kernel

/-- FENCEX behind a store and after it; fences, invalidations and waits of a hart; both ways out of a wait (FencesAndInvalidations). -/
theorem witness_FencesAndInvalidations :
    let r := { tQRegion with seq := { tQRegion.seq with acc := [(0, { store := true, reg := 0, va := 64, size := 8, data := 0, pc := 0 })] } }
    let k (h : Hart) : State := (tQ tQRegion []).setHart 0 { h with mode := .vs }
    r.mayIssue [⟨1, false⟩, ⟨2, false⟩] none ∧ r.seq.acc ≠ [] ∧ goes (exec (.fencex ⟨1, false⟩ ⟨2, false⟩) (tQ r [])) (tQ r []) = true ∧
    tQRegion.seq.acc = [] ∧ tQRegion.inPlace = false ∧
    answers (exec (.fencex ⟨1, false⟩ ⟨2, false⟩) (tQ tQRegion [])) (fun t => (t.region? 0).any (fun g => g.seq.pc == 8)) = true ∧
    1 ≤ (k tHart).me.mode.level ∧ (k tHart).me.invs = 0 ∧ (k { tHart with invs := 1 }).me.invs ≠ 0 ∧
    (invBroad ((k tHart).me.get 2) = true ∨ bits ((k tHart).me.get 2) 1 0 ≠ 2) := by
  unfold Region.mayIssue; decide +kernel

theorem witness_FencesAndInvalidations_waits :
    let k (h : Hart) : State := (tSo tHeld).setHart 0 { h with mode := .vs }
    answers (exec (.fenceX 1 2) (k tHart)) (fun t => (t.hart 0).pc == 4) = true ∧
    answers (exec (.xltInv 1 0) (k tHart)) (fun t => (t.hart 0).pc == 4 && (t.hart 0).invs == 1) = true ∧
    answers (exec (.xltSync 3) (k tHart)) (fun t => (t.hart 0).get 3 == 0 && (t.hart 0).pc == 4) = true ∧
    answers (exec (.xltSync 3) (k { tHart with invs := 1 })) (fun t => decide ((t.hart 0).wait = some (.sync 3)) && (t.hart 0).pc == 0) = true ∧
    answers (exec (.invalidationComplete 0) (k { tHart with invs := 1, wait := some (.sync 3) }))
      (fun t => decide ((t.hart 0).wait = none) && (t.hart 0).invs == 0 && (t.hart 0).pc == 4) = true ∧
    answers (exec (.invalidationComplete 0) (k { tHart with invs := 1 })) (fun t => (t.hart 0).invs == 0 && (t.hart 0).pc == 0) = true ∧
    answers (exec (.xlanWaitInterrupt 0 11) (k { tHart with wait := some (.sync 3) })) (fun t => decide ((t.hart 0).wait = none ∧ (t.hart 0).mode = .m)) = true ∧
    answers (exec (.xlanWaitInterrupt 0 11) (k { tHart with wait := some (.acq 0 3 5) })) (fun t => decide ((t.hart 0).wait = none) &&
      ((t.part 0).sos.get 3 tFree).waits.isEmpty) = true := by decide +kernel

/-- hq.pop: misaligned, stale, empty, one level, and two levels before and after 64 passes (RecordsPopped). -/
theorem witness_RecordsPopped :
    let e (l : Nat) : QRec := { cont := { tRec with flags := BitVec.ofNat 64 (12 + l) }, rsv := false, period := none, trim := none }
    let one : Queue := { tQueue with recs := [[], [e 1], [], []] }
    let two (n : Nat) : Queue := { tQueue with recs := [[e 0], [], [], [e 3]], age := n }
    let s (Q : Queue) (h : Dword) : State := ((tQ tQRegion []).setHart 0 ({ ((tHart.set 1 h).set 2 0x13000) with mode := .vs })).setPart 0 { tPart with queues := [(0, Q)] }
    let mine (x : QRec) : Bool := x.cont.kind == 3
    (s one 0x100001).mayRun 1 ∧
    goes (exec (.hqPop 3 1 31) ((s one 0x100001).setHart 0 { tHart.set 31 8 with mode := .vs })) (((s one 0x100001).setHart 0 { tHart.set 31 8 with mode := .vs }).withResult 3 (errWord 8)) = true ∧
    goes (exec (.hqPop 3 1 2) (s one 0x200001)) ((s one 0x200001).withResult 3 (errWord 1)) = true ∧
    tQueue.pop mine (fun _ => false) = none ∧ goes (exec (.hqPop 3 1 2) (s tQueue 0x100001)) ((s tQueue 0x100001).withResult 3 (errWord 9)) = true ∧
    one.pop mine (fun _ => false) = some (e 1, 1, { tQueue with age := 0 }) ∧
    (two 63).pop mine (fun _ => false) = some (e 0, 0, { two 64 with recs := [[], [], [], [e 3]] }) ∧
    (two 64).pop mine (fun _ => false) = some (e 3, 3, { two 0 with recs := [[e 0], [], [], []] }) ∧
    answers (exec (.hqPop 3 1 2) (s one 0x100001)) (fun t => (t.hart 0).get 3 == 0 && t.mem.readN 0x13018 8 == 13 && t.mem.get 0x13000 == 1) = true := by
  unfold State.mayRun; decide +kernel


/-- A claim's operands at the ends of their ranges, each refusal, and a grant at a fixed origin (RegionClaims). -/
theorem witness_RegionClaims :
    let s (a b : Dword) := tK tQRegion a b []
    let small := (s 0x20002 0x8000000000020002).setPart 0 { tPart with desc := some { tDesc with quotas := List.replicate 12 1 } }
    (s 0x20002 0).mayRun 1 ∧ (s 0 0).me.actPart = 0 ∧
    goes (exec (.rgClaim 3 1 2) (s 0x20001 0)) ((s 0x20001 0).withResult 3 (errWord 8)) = true ∧
    goes (exec (.rgClaim 3 1 2) (s 0x20281 0)) ((s 0x20281 0).withResult 3 (errWord 8)) = true ∧
    goes (exec (.rgClaim 3 1 2) (s 0x20002 0x8000000000000001)) ((s 0x20002 0x8000000000000001).withResult 3 (errWord 8)) = true ∧
    ({ x := 2, y := 2, wd := 2, ht := 2 } : Rect).mayStand 0 = true ∧
    small.claimOver 0 4 = true ∧ goes (exec (.rgClaim 3 1 2) small) (small.withResult 3 (errWord 5)) = true ∧
    (s 0x20002 0).claimOver 0 4 = false ∧ (s 0x20002 0).rectBusy { x := 0, y := 0, wd := 2, ht := 2 } = true ∧
    goes (exec (.rgClaim 3 1 2) (s 0x20002 0x8000000000000000)) ((s 0x20002 0x8000000000000000).withResult 3 (errWord 7)) = true ∧
    (s 0x20002 0).seqFor { x := 2, y := 2, wd := 2, ht := 2 } = some 1 ∧
    (let f := { s 0x20002 0x8000000000020002 with fuses := { Fuses.allGood with seqs := (List.range 64) } }
     f.rectBusy { x := 2, y := 2, wd := 2, ht := 2 } = false ∧ f.seqFor { x := 2, y := 2, wd := 2, ht := 2 } = none ∧
     goes (exec (.rgClaim 3 1 2) f) (f.withResult 3 (errWord 6)) = true) ∧
    (s 0x20002 0).seqFree 1 = true ∧ 1 / Config.seqsPerChip ∈ ({ x := 2, y := 2, wd := 2, ht := 2 } : Rect).chips := by
  unfold State.mayRun; decide +kernel

/-- The first origin in scan order of a claim that is not fixed; and none for the whole module while a tile is taken (RegionClaims). -/
theorem witness_RegionClaims_scan :
    (∃ l', State.origins State.reset 2 2 0 = [] ++ { x := 0, y := 0, wd := 2, ht := 2 } :: l') ∧
    State.seqFor State.reset { x := 0, y := 0, wd := 2, ht := 2 } = some 0 ∧
    State.origins (tQ tQRegion []) 640 640 0 = [] := by
  refine ⟨?_, by decide +kernel, ?_⟩
  · have hr : List.range Config.gridSide = 0 :: (List.range 639).map Nat.succ := List.range_succ_eq_map
    simp only [State.origins, hr, List.flatMap_cons, List.filterMap_cons]
    rw [if_pos (by decide +kernel)]
    exact ⟨_, rfl⟩
  simp only [State.origins, List.flatMap_eq_nil_iff, List.filterMap_eq_nil_iff, List.mem_range]
  intro y hy x hx
  split
  · next h =>
    simp only [Bool.and_eq_true, Rect.mayStand, decide_eq_true_eq] at h
    obtain ⟨⟨⟨⟨-, hx'⟩, hy'⟩, -⟩, hb⟩ := h
    change x + 640 ≤ 640 at hx'; change y + 640 ≤ 640 at hy'
    obtain rfl : x = 0 := by omega
    obtain rfl : y = 0 := by omega
    revert hb; decide +kernel
  · rfl

/-- Instructions on a stale handle, from states they do not admit, and from those they do (RegionControl). -/
theorem witness_RegionControl :
    let rs (st : RgState) : Region := { tQRegion with state := st }
    let s (st : RgState) (b : Dword) : State := tK (rs st) 0x100001 b []
    (s .running 0).mayRun 1 ∧ (s .running 0).rgOf 0 0x200001 = none ∧
    goes (exec (.rgKill 3 31) (s .running 0)) ((s .running 0).withResult 3 (errWord 1)) = true ∧
    (s .running 0).rgOf 0 0x100001 = some (0, rs .running) ∧
    goes (exec (.rgSnuff 3 1) (s .saving 0)) ((s .saving 0).withResult 3 (errWord 7)) = true ∧
    goes (exec (.rgSnuff 3 1) (s .ready 0)) ((s .ready 0).withResult 3 (errWord 0xA)) = true ∧
    goes (exec (.rgFreeze 3 1) (s .idle 0)) ((s .idle 0).withResult 3 (errWord 0xA)) = true ∧
    goes (exec (.rgFree 3 1) (s .draining 0)) ((s .draining 0).withResult 3 (errWord 7)) = true ∧
    goes (exec (.rgStat 3 1) (s .running 0)) ((s .running 0).withResult 3 5) = true ∧
    goes (exec (.rgSnuff 3 1) (s .idle 0)) (((s .idle 0).setRegion 0 { rs .ready with attach := none }).withResult 3 0) = true ∧
    answers (exec (.rgSnuff 3 1) (s .running 0)) (fun t => (t.region? 0).any (fun g => decide (g.state = .draining))) = true ∧
    answers (exec (.rgFreeze 3 1) (s .draining 0)) (fun t => (t.region? 0).any (fun g => decide (g.state = .freezing) && g.frzWhy == 2)) = true ∧
    goes (exec (.rgSave 3 1 2) (s .stopped 32)) ((s .stopped 32).withResult 3 (errWord 8)) = true ∧
    answers (exec (.rgSave 3 1 2) (s .stopped 64)) (fun t => (t.region? 0).any (fun g => decide (g.state = .saving) && g.async.isSome)) = true ∧
    answers (exec (.rgLoad 3 1 2) (s .claimed 64)) (fun t => (t.region? 0).any (fun g => decide (g.state = .loading) && g.async.isSome)) = true := by
  unfold State.mayRun; decide +kernel

theorem witness_RegionControl_starts :
    let rs (st : RgState) : Region := { tQRegion with state := st }
    let s (st : RgState) (b : Dword) (m : Memory) : State := tK (rs st) 0x100001 b m
    vread (s .ready 0x13000 (at_ 0x13000 tCfg)).mem (s .ready 0 []).me.xlate 0x13000 32 = .ok tCfg ∧ cfgDescOk tCfg = true ∧ cfgDescOk (tCfg.take 8 ++ List.replicate 24 0) = false ∧
    answers (exec (.rgCfg 3 1 2) (s .claimed 0x13000 (at_ 0x13000 tCfg))) (fun t => (t.region? 0).any (fun g => decide (g.state = .installing) &&
      g.inst.any (fun i => i.full && i.count == 8 && i.va == 0x14000 && i.result == 0x15000))) = true ∧
    goes (exec (.rgCfg 3 1 2) (s .claimed 0x13000 [])) ((s .claimed 0x13000 []).withResult 3 (errWord 8)) = true ∧
    (s .ready 0 []).classFits (rs .ready) 1 = true ∧
    (s .ready 0x0000000100100001 []).rgOf 0 0x100001 = some (0, rs .ready) ∧ ((s .ready 0 []).part 0).current tblQueue 0x100001 = true ∧
    bits (0x0000000100100001 : Dword) 63 56 = 0 ∧ bits (0x0000000100100001 : Dword) 55 32 = 1 ∧
    goes (exec (.rgStart 3 1 2) (s .ready 0 [])) ((s .ready 0 []).withResult 3 (errWord 8)) = true ∧
    (let w := tK { rs .stopped with why := 4 } 0x100001 0 []
     goes (exec (.rgStart 3 1 2) w) (w.withResult 3 (errWord 0xA)) = true) ∧
    (s .stopped 0 []).waitingAcqns (rs .stopped) = [] := by
  decide +kernel


/-- A region killed while it runs, and one freed (RegionKillAndFree). -/
theorem witness_RegionKillAndFree :
    let s := tK tPeriod 0x100001 0 []
    let f := { tK { tQRegion with state := .idle } 0x100001 0 [] with tiles := [(0, tElem), (5, tElem)] }
    s.mayRun 1 ∧ s.rgOf s.me.actPart (bits (s.me.get 1) 31 0) = some (0, tPeriod) ∧ f.rgOf 0 0x100001 = some (0, { tQRegion with state := .idle }) ∧
    answers (exec (.rgKill 3 1) s) (fun t => (t.region? 0).any (fun g => decide (g.state = .claimed ∧ g.run = none ∧ g.seq = Seq.zero) && g.incarn == 1) &&
      (t.hart 0).get 3 == 0) = true ∧
    answers (exec (.rgFree 3 1) f) (fun t => (t.part 0).gen tblRegion 1 == 2 && (t.hart 0).get 3 == 0 && decide (t.tile 0 = Tile.cleared ∧ t.tile 5 = tElem) &&
      t.regions.any (fun y => y.2.freeing && y.2.width == 2)) = true := by
  unfold State.mayRun; decide +kernel


/-- Freezes, drains, debug stops, expiries, samples and zeroings that end, and ones that do not (RegionStepsEnd). -/
theorem witness_RegionStepsEnd :
    let rs (st : RgState) : Region := { tQRegion with state := st, frzWhy := 2 }
    let s (r : Region) : State := tQ r []
    let dbg : Region := { tQRegion with debug := true, seq := { tQRegion.seq with first := true } }
    let old : Held := { fid := 1, who := .seqAccess 0 0, rn := 0, age := 2 ^ 20, counts := true }
    let slow : State := (s tQRegion).setPart 0 { tPart with held := [old] }
    let smp : State := (s { tQRegion with cycles := 1024 }).setPart 0 { tPart with trSlog := 10 }
    answers (exec (.freezeComplete 0) (s (rs .freezing))) (fun t => (t.region? 0).any (fun g => decide (g.state = .stopped) && g.why == 2)) = true ∧
    goes (exec (.freezeComplete 0) (s (rs .running))) (s (rs .running)) = true ∧
    (s (rs .draining)).drained 0 (rs .draining) = true ∧
    answers (exec (.snuffDrainComplete 0) (s (rs .draining))) (fun t => (t.region? 0).any (fun g => decide (g.state = .stopped) && g.why == 1)) = true ∧
    (s dbg).debugDue 0 = true ∧ (s tQRegion).debugDue 0 = false ∧
    answers (exec (.debugStop 0) (s dbg)) (fun t => (t.region? 0).any (fun g => decide (g.state = .stopped) && g.why == 6 && !g.debug)) = true ∧
    goes (exec (.debugStop 0) (s tQRegion)) (s tQRegion) = true ∧
    old ∈ (slow.part 0).held ∧ answers (exec (.freezeLimitExpiry 0) slow) (fun t => (t.region? 0).any (fun g => decide (g.state = .freezing) && g.frzWhy == 3)) = true ∧
    answers (exec (.regionZeroingComplete 0) { s { tQRegion with zeroing := true } with regions := [(0, { tQRegion with zeroing := true }), (1024, { tQRegion with freeing := true })] })
      (fun t => (t.region? 0).any (fun g => !g.zeroing) && (t.region? 1024).isNone) = true ∧
    answers (exec (.traceSample 0) smp) (fun t => (t.region? 0).any (fun g => g.sampleAt == 1024)) = true := by decide +kernel

/-- The end of a save and of a load of no image (RegionStepsEnd). -/
theorem witness_RegionStepsEnd_images :
    let r : Region := { tQRegion with state := .loading, async := some (.load 0x40000 Hart.reset.xlate) }
    let s := tQ r []
    s.isHeld 0 (.image 0) = false ∧ imgRead s.mem Hart.reset.xlate 0x40000 = .ok (List.replicate 256 0) ∧ imgOk (List.replicate 256 0) = false ∧
    answers (exec (.loadComplete 0) s) (fun t => (t.region? 0).any (fun g => decide (g.state = .claimed ∧ g.async = none) && g.lasterr == 0xB)) = true := by decide +kernel

theorem test_image_lengths : tElems.length = 1088 ∧ tSeqB.length = 1984 ∧ tHead.length = 240 := by decide +kernel

theorem test_image_saved : (tImgS (tImg .stopped none)).imageBytes 0 (tImg .stopped none) = tImage := by
  have h1 : ((tImg .stopped none).tiles.flatMap (State.elemRecord (tImgS (tImg .stopped none)) 0 (tImg .stopped none))).length = 1088 := test_image_lengths.1
  have h2 : (State.seqBlockBytes (tImgS (tImg .stopped none)) 0 (tImg .stopped none)).length = 1984 := test_image_lengths.2.1
  have h3 : ((tImgS (tImg .stopped none)).ports_ (tImg .stopped none) 0) = [] := by decide +kernel
  have h4 : ((tImgS (tImg .stopped none)).ports_ (tImg .stopped none) 1) = [] := by decide +kernel
  have h0 : ({ tImg .stopped none with seq := (tImg .stopped none).seq.deliver } : Region) = tImg .stopped none := by decide +kernel
  rw [State.imageBytes, h0]
  simp only [h1, h2, h3, h4, List.flatMap_nil, List.append_nil, List.length_append, tImage, tHead, tBody, tElems, tSeqB,
    List.append_assoc]

theorem test_image_length : tImage.length = 3328 := by
  simp only [tImage, tBody, List.length_append, leBytes_length, zeros, List.length_replicate, test_image_lengths.1, test_image_lengths.2.1,
  test_image_lengths.2.2]

/-- A saved image is whole. -/
theorem test_image_whole : imgOk tImage = true := by
  have hh : imgHeadOk tImage = true := by decide +kernel
  have hl := test_image_length
  have hz : imgZeros tImage = true := by decide +kernel
  have hf : fieldAt tImage 24 8 = 3328 := by decide +kernel
  have hd : tImage.take 240 = tHead := by rw [tImage, List.take_left' test_image_lengths.2.2]
  have hr : tImage.drop 240 = leBytes (crc32c (tHead ++ tBody)).toNat 4 ++ (zeros 4 ++ (leBytes 1 8 ++ tBody)) := by
    rw [tImage, List.drop_left' test_image_lengths.2.2]
  have hb : tImage.drop 256 = tBody := by
    rw [show (256 : Nat) = 240 + 16 from rfl, ← List.drop_drop, hr, ← List.append_assoc, ← List.append_assoc]
    exact List.drop_left' (by simp only [List.length_append, leBytes_length, zeros, List.length_replicate])
  have hc : fieldAt tImage 240 4 = (crc32c (tHead ++ tBody)).toNat := by
    rw [fieldAt, hr, List.take_left' (by simp), leNat_leBytes]
    exact Nat.mod_eq_of_lt (crc32c (tHead ++ tBody)).isLt
  have hk : imgCodes tImage = true := by decide +kernel
  simp [imgOk, hh, hl, hf, hd, hb, hc, hz, hk]

/-- A region that saves into memory, and one that loads the image from it (RegionStepsEnd). -/
theorem witness_RegionStepsEnd_save :
    let r := tImg .stopped (some (.save 0x40000 Hart.reset.xlate))
    (tImgS r).isHeld 0 (.image 0) = false ∧
    (vwrite (tImgS r).mem Hart.reset.xlate (0x40000 : Dword).toNat ((tImgS r).imageBytes 0 r)).toOption.isSome = true := by decide +kernel

theorem witness_RegionStepsEnd_load :
    let r := tImg .loading (some (.load 0x40000 Hart.reset.xlate))
    let s := { tImgS r with mem := Memory.write [] 0x40000 tImage }
    imgRead (Memory.write [] 0x40000 tImage) Hart.reset.xlate 0x40000 = .ok tImage ∧ imgOk tImage = true ∧ (s.restore 0 tImage (s.keptWith tImage) 0 false).toOption.isSome = true ∧
    ({ s with regions := [(0, { r with width := 2 })] } : State).restore 0 tImage none 0 false = .error eSHAPE := by
  refine ⟨?_, test_image_whole, by decide +kernel, by decide +kernel⟩
  have hf : fieldAt tImage 24 8 = 3328 := by decide +kernel
  have hh : imgHeadOk tImage = true := by decide +kernel
  have hp (n : Nat) (hn : n ≤ 3328) (hv : ∀ m, locate m Hart.reset.xlate .read 0x40000 (piecesOf 0x40000 n) = .ok [(0x40000, n)]) :
      vread (Memory.write [] 0x40000 tImage) Hart.reset.xlate 0x40000 n = .ok (tImage.take n) := by
    simp only [vread, hv, Except.map, List.map_cons, List.map_nil, List.flatten_cons, List.flatten_nil, List.append_nil]
    rw [Memory.read_write_take (by rfl) _ _ (by rw [test_image_length]; exact hn)]
  have h1 := hp 256 (by omega) (fun m => rfl)
  have h2 := hp 3328 (by omega) (fun m => rfl)
  have ht : imgHeadOk (tImage.take 256) = true := by decide +kernel
  have hft : fieldAt (tImage.take 256) 24 8 = 3328 := by decide +kernel
  rw [imgRead, h1]
  simp only [ht, if_true, hft, h2]
  rw [List.take_of_length_le (by rw [test_image_length])]

theorem witness_RegionStepsEnd_rebase :
    tMove.mayRun 1 ∧ (tMove.rgOf 0 0x100001).any (fun y => y.1 == 0 && decide (y.2.state = .stopped)) = true ∧
    (tMove.rgOf 0 0x100002).any (fun y => y.1 == 1 && decide (y.2.state = .claimed)) = true ∧ (tMove.rebase 0 1).toOption.isSome = true := by
  unfold State.mayRun; decide +kernel


/-! ### Device CSRs and tenancy -/

/-- Below the level in and out of a guest, for a partition not in force, and reads at their level (CsrPrivilege). -/
theorem witness_CsrPrivilege :
    let s := tMode .vu tHart
    let off := (tMode .vs tHart).setPart 0 Partition.inactive
    (s.hart 0).wait = none ∧ s.hartOut 0 = false ∧ (s.hart 0).mode.level < 1 ∧
    answers (exec (.vdresume 0 5) s) (fun t => (t.hart 0).rcsr mCAUSE == 22 && (t.hart 0).get 3 == 192) = true ∧
    answers (exec (.voltageOffsetWrite 0 5) (tMode .hs tHart)) (fun t => (t.hart 0).rcsr mCAUSE == 2) = true ∧
    answers (exec (.pageZero 0 0) (tMode .u tHart)) (fun t => (t.hart 0).rcsr mCAUSE == 2) = true ∧
    1 ≤ (off.hart 0).mode.level ∧ (off.part (off.hart 0).actPart).active = false ∧
    goes (exec (.vdresume 0 5) off) (off.setHart 0 { off.hart 0 with pc := 4 }) = true ∧
    answers (exec (.csrRead 0 3 0xCC1) { s with fuses := { Fuses.allGood with chipId := 77 } }) (fun t => (t.hart 0).get 3 == 77 && (t.hart 0).pc == 4) = true ∧
    answers (exec (.csrRead 0 3 0x7C0) (tMode .m { tHart with vmsel := 9 })) (fun t => (t.hart 0).get 3 == 9) = true := by decide +kernel

/-- Each register written at its level; a withheld access resumed and an FID that names none; handles that name a region and none (CsrWrites). -/
theorem witness_CsrWrites :
    let held : Held := { fid := 5, who := .seqAccess 0 0, rn := 0, age := 0, counts := true }
    let s := (tMode .vs tHart).setPart 0 { tPart with held := [held] }
    1 ≤ (s.hart 0).mode.level ∧ (s.part 0).active = true ∧ (s.part 0).held.find? (fun f => f.fid == 5) = some held ∧
    (s.part 0).held.find? (fun f => f.fid == 6) = none ∧ s.rgOf 0 0x100001 = some (0, tQRegion) ∧ s.rgOf 0 0x200001 = none ∧
    answers (exec (.faultQueueHeadWrite 0 0x1FFFF) s) (fun t => (t.part 0).fqHead == 0xFFFF && (t.hart 0).pc == 4) = true ∧
    answers (exec (.registerWrite (.csr 0 0x5C4) 0x1F7F0003) s) (fun t => (t.part 0).trSlog == 31 && (t.part 0).trEn == 0x7F && (t.part 0).trHead == 3) = true ∧
    answers (exec (.vdresume 0 5) s) (fun t => (t.part 0).held.isEmpty) = true ∧
    goes (exec (.vdresume 0 6) s) (s.setHart 0 { s.hart 0 with pc := 4 }) = true ∧
    answers (exec (.debugArm 0 0x100100001) s) (fun t => (t.region? 0).any (·.debug)) = true ∧
    goes (exec (.debugCancel 0 0x200001) s) (s.setHart 0 { s.hart 0 with pc := 4 }) = true ∧
    answers (exec (.registerWrite (.csr 0 0x5C0) 0xFF) (tMode .hs tHart)) (fun t => (t.hart 0).vdpart == 15) = true ∧
    answers (exec (.registerWrite (.csr 0 0x6C4) 0x10003FFF) (tMode .hs tHart)) (fun t => t.vdtab == 0x10000000) = true ∧
    paTarget 0x10000 = true ∧ goes (exec (.pageZero 0 0x12001) (tMode .hs tHart)) ((tMode .hs tHart).setHart 0 { (tMode .hs tHart).hart 0 with pc := 4 }) = true ∧
    answers (exec (.pageZero 0 0x10000) (tMode .hs tHart)) (fun t => t.mem.get 0x10000 == 0 && t.mem.get 0x12000 == 0 && t.mem.get 0x20040 == 2) = true ∧
    answers (exec (.registerWrite (.csr 0 0x7C0) 0xFF) (tMode .m tHart)) (fun t => (t.hart 0).vmsel == 63) = true ∧
    (let v := s.setVf 127 { Vf.reset with part := some 0 }
     (v.vfPart 127).isSome = true ∧ answers (exec (.registerWrite (.vf 127 0) 0xFF) v) (fun t => (t.vf 127).crbase == 0xC0) = true) := by decide +kernel

/-- Voltage offsets at and beyond the ends, rails that exist and do not, margining selections and runs (MarginingRegisters). -/
theorem witness_MarginingRegisters :
    let s (h : Hart) := tMode .m h
    3 ≤ ((s tHart).hart 0).mode.level ∧
    answers (exec (.voltageOffsetWrite 0 0xF6) (s { tHart with vmsel := 31 })) (fun t => (t.rail 31).offset == -10 && !(t.rail 31).settled) = true ∧
    answers (exec (.voltageOffsetWrite 0 10) (s tHart)) (fun t => (t.rail 0).offset == 10) = true ∧
    answers (exec (.voltageOffsetWrite 0 11) (s tHart)) (fun t => t.rails.isEmpty && (t.hart 0).pc == 4) = true ∧
    answers (exec (.voltageOffsetWrite 0 0) (s { tHart with vmsel := 32 })) (fun t => t.rails.isEmpty) = true ∧
    marginKey 0 = some 0 ∧ marginKey 0x0E7C = some 0x0E7C ∧ marginKey 0x1000 = none ∧ marginKey 3 = none ∧
    answers (exec (.linkMarginRun 0 0x31F0001) (s tHart)) (fun t => (t.margin 0).busy && (t.margin 0).dir == 3 && (t.margin 0).step == 31) = true ∧
    answers (exec (.linkMarginRun 0 0x4000001) (s tHart)) (fun t => !(t.margin 0).busy && (t.margin 0).dir == 4) = true ∧
    answers (exec (.linkMarginRun 0 1) (s { tHart with lmsel := 3 })) (fun t => t.margins.isEmpty) = true ∧
    answers (exec (.voltageSettled 31) (s tHart)) (fun t => (t.rail 31).settled) = true ∧
    answers (exec (.linkMarginDone 0 0 0 0x1FFFFFFFF) { s tHart with margins := [(0, { Margin.reset with busy := true })] })
      (fun t => !(t.margin 0).busy && (t.margin 0).errs == 0xFFFFFFFF) = true := by decide +kernel

/-- Queues created, refused and destroyed; a descriptor in force and one refused (QueuesAndDescriptors). -/
theorem witness_QueuesAndDescriptors :
    let s (e : List Byte) : State := (tQ tQRegion (tLp ++ at_ 0x70080 e)).setHart 0 { tHart with mode := .vs }
    let busy := (s []).setPart 0 { tPart with queues := [(0, { tQueue with recs := [[], [], [], [{ cont := tRec, rsv := false, period := none, trim := none }]] })] }
    let q1 : Dword := 0x4000000000000001
    ((s []).hart 0).wait = none ∧ (s []).hartOut 0 = false ∧ (s []).gread 0 0x70080 128 = zeros 128 ∧ (s []).queueEntryOk 0 (zeros 128) = false ∧
    answers (exec (.queueCreate 0 q1) (s [])) (fun t => (t.hart 0).vdqctl == errWord 8) = true ∧
    answers (exec (.queueCreate 0 0x4000000000000000) (s [])) (fun t => (t.hart 0).vdqctl == errWord 7) = true ∧
    (s (tEntry 488)).queueEntryOk 0 ((s (tEntry 488)).gread 0 0x70080 128) = true ∧
    answers (exec (.queueCreate 0 q1) (s (tEntry 489))) (fun t => (t.hart 0).vdqctl == errWord 5) = true ∧
    answers (exec (.queueCreate 0 q1) (s (tEntry 488))) (fun t => (t.hart 0).vdqctl == 0x100002 && ((t.part 0).queues.find 1).any (fun Q => Q.share == 488 && Q.asid == 3)) = true ∧
    busy.queueBusy 0 0 = true ∧ answers (exec (.queueDestroy 0 0x8000000000000000) busy) (fun t => (t.hart 0).vdqctl == errWord 7) = true ∧
    (s []).queueBusy 0 0 = false ∧
    answers (exec (.queueDestroy 0 0x8000000000000000) (s [])) (fun t => (t.hart 0).vdqctl == 0 && (t.part 0).queues.isEmpty && (t.part 0).gen tblQueue 1 == 2) = true := by
  decide +kernel

theorem test_zero_field (A : List Byte) (n o k : Nat) (h : A.length ≤ o) : fieldAt (A ++ List.replicate n 0) o k = 0 := by
  have hz : ∀ m, leNat (List.replicate m 0) = 0 := fun m => by
    induction m with
    | zero => rfl
    | succ m ih =>
      rw [List.replicate_succ, leNat, ih]
      rfl
  rw [fieldAt, List.drop_append, List.drop_of_length_le h, List.nil_append, List.drop_replicate, List.take_replicate, hz]

/-- A descriptor that is sound. -/
theorem test_descriptor_sound : (State.reset.descChecks 1 (tDescBytes ++ zeros 872)).find? (fun y => !y.2) = none := by
  have hl : tDescBytes.length = 152 := by decide +kernel
  have hz (o k : Nat) (h : 152 ≤ o) : fieldAt (tDescBytes ++ zeros 872) o k = 0 := test_zero_field tDescBytes 872 o k (by omega)
  rw [List.find?_eq_none]
  suffices h : ∀ y ∈ State.reset.descChecks 1 (tDescBytes ++ zeros 872), y.2 = true from fun y hy => by simp [h y hy]
  simp only [State.descChecks, List.forall_mem_append, List.forall_mem_map]
  refine ⟨⟨⟨⟨⟨by decide +kernel, by decide +kernel⟩, by decide +kernel⟩, ?_⟩, by decide +kernel⟩, ?_⟩
  all_goals
    simp only [List.mem_singleton, forall_eq]
  · rw [zeroAt, show (156 : Nat) = 152 + 4 from rfl, ← List.drop_drop, List.drop_left' hl]; decide +kernel
  · rw [zeroAt, show (304 : Nat) = 152 + 152 from rfl, ← List.drop_drop, List.drop_left' hl]; decide +kernel

theorem witness_QueuesAndDescriptors_update :
    let s : State := { (tMode .hs tHart) with vdtab := 0x100000, mem := at_ 0x100400 tDescBytes, parts := [] }
    2 ≤ (s.hart 0).mode.level ∧ (s.descChecks 0 (s.mem.read 0x100000 1024)).find? (fun y => !y.2) = some (0, false) ∧
    answers (exec (.partitionDescriptorUpdate 0 0) s) (fun t => t.updBad && t.updOffset == 0 && (t.hart 0).pc == 4) = true ∧
    (s.part 1).desc = none ∧ s.mem.read (s.vdtab + 1024 * 1) 1024 = tDescBytes ++ zeros 872 ∧ s.parts = State.reset.parts ∧ s.fuses = State.reset.fuses := by
  decide +kernel

/-- Handles that are not current and, of each table, one that is (Revocations). -/
theorem witness_Revocations :
    let p : Partition := { tGraph with sos := [(3, tHeld)], launches := [{ q := 0, accNo := 1, prio := 0, short := false, record := [], act := .nothing, expanded := false, join := 0, units := [], status := none }] }
    let s : State := ((tQ tQRegion (at_ 0x30010 (leBytes 0x100000 8 ++ leBytes 0x110000 8))).setPart 0 p).setHart 0 { tHart with mode := .vs }
    1 ≤ (s.hart 0).mode.level ∧ (s.part 0).active = true ∧
    (s.part 0).current tblGraph 0x200007 = false ∧ goes (exec (.revokeGraph 0 0x200007) s) (s.setHart 0 { s.hart 0 with pc := 4 }) = true ∧
    (s.part 0).current tblGraph 0x100007 = true ∧ answers (exec (.revokeGraph 0 0x100007) s) (fun t => (t.part 0).graphs.isEmpty && (t.part 0).gen tblGraph 7 == 2) = true ∧
    (s.part 0).current tblSo 0x100003 = true ∧
    answers (exec (.revokeSyncObject 0 0x100100003) { s with harts := [(0, { s.hart 0 with wait := none }), (1, s.hart 0)] }) (fun t => (t.part 0).sos.isEmpty &&
      (t.part 0).ended.contains (0x100003, .seq 0) && (t.part 0).gen tblSo 3 == 2) = true ∧
    s.attnEntry 0 0x100002 = none ∧ s.attnEntry 0 0x100001 = some (0x100000, 0x110000) ∧
    translate s.mem (s.attnXlate 0 (s.hart 0)) 0x100000 .read = .ok (0x100000, 0) ∧
    answers (exec (.revokeAttnPage 0 0x200100001) s) (fun t => (t.part 0).gen tblAttn 1 == 2 && (t.hart 0).pc == 4) = true ∧
    s.rgOf 0 0x200001 = none ∧ answers (exec (.revokeRegion 0 0x300100001) s) (fun t => (t.part 0).gen tblRegion 1 == 2 &&
      (t.part 0).fqWait.any (fun f => f.code == 0x33 && f.src == 4 && f.fid == 1)) = true ∧
    (s.part 0).current tblQueue 0x100001 = true ∧ tQueue.recs.flatten = [] ∧
    answers (exec (.revokeQueue 0 0x400100001) s) (fun t => (t.part 0).queues.isEmpty && (t.part 0).oldq.contains (0x100001, 1, 0x10000) &&
      (t.part 0).launches.any (fun l => l.status == some 4)) = true := by decide +kernel


/-- Accesses of a hart: loads and stores of each file, their faults, LR, SC and AMO, vectors (LanternAccesses). -/
theorem witness_LanternAccesses :
    let x : Hart := { (tHart.set 1 0x80) with v := (List.range 32).map (fun i => List.replicate 32 (BitVec.ofNat 8 i)) }
    let s := (tQ tQRegion [(0x13000, 0xFE), (0x13007, 0x80)]).setHart 0 x
    let low := s.setHart 0 { x with vsatp := 0xE000000000000010 }
    let run (op : LanOp) (a : Dword) : Host.Outcome State Fault Refusal := exec (.lanternLoadStore 0 op a) s
    (s.hart 0).wait = none ∧ s.hartOut 0 = false ∧ vread s.mem x.xlate 0x13000 1 = .ok [0xFE] ∧
    answers (run (.load 0 true 3) 0x13000) (fun t => (t.hart 0).get 3 == 0xFFFFFFFFFFFFFFFE && (t.hart 0).pc == 4) = true ∧
    answers (run (.load 0 false 3) 0x13000) (fun t => (t.hart 0).get 3 == 0xFE) = true ∧
    answers (run (.fload 2 3) 0x13004) (fun t => (((t.hart 0).f[3]?).getD 0) == 0xFFFFFFFF80000000) = true ∧
    (vwrite s.mem x.xlate 0x13000 (leBytes 0x80 4)).toOption.isSome = true ∧
    answers (run (.store 2 1) 0x13004) (fun t => t.mem.readN 0x13004 4 == 0x80 && (t.hart 0).pc == 4) = true ∧
    answers (run (.fstore 3 1) 0x13000) (fun t => t.mem.readN 0x13000 8 == 0) = true ∧
    vread low.mem (low.hart 0).xlate 0x40000000 8 = .error (0, { kind := .page, stage := 1, ga := 0 }) ∧
    answers (exec (.lanternLoadStore 0 (.load 3 true 3) 0x40000000) low) (fun t => (t.hart 0).rcsr mCAUSE == 13 && (t.hart 0).rcsr mTVAL == 0x40000000) = true ∧
    answers (exec (.lanternLoadStore 0 (.store 3 3) 0x40000000) low) (fun t => (t.hart 0).rcsr mCAUSE == 15 && decide (t.mem = low.mem)) = true ∧
    answers (run (.lr 3 5) 0x13004) (fun t => (t.hart 0).rcsr mCAUSE == 4) = true ∧ answers (run (.sc 3 5 1) 0x13004) (fun t => (t.hart 0).rcsr mCAUSE == 6) = true ∧
    translate s.mem x.xlate 0x13000 .read = .ok (0x13000, 0) ∧ translate s.mem x.xlate 0x13000 .atomic = .ok (0x13000, 0) ∧
    answers (run (.lr 3 5) 0x13000) (fun t => decide ((t.hart 0).resv = some (0x13000, [0xFE, 0, 0, 0, 0, 0, 0, 0x80])) && (t.hart 0).get 5 == 0x80000000000000FE) = true ∧
    answers (run (.sc 3 5 1) 0x13000) (fun t => (t.hart 0).get 5 == 1 && decide (t.mem = s.mem)) = true ∧
    answers (exec (.lanternLoadStore 0 (.sc 3 5 1) 0x13000) (s.setHart 0 { x with resv := some (0x13000, [0xFE, 0, 0, 0, 0, 0, 0, 0x80]) }))
      (fun t => (t.hart 0).get 5 == 0 && t.mem.readN 0x13000 8 == 0x80 && decide ((t.hart 0).resv = none)) = true ∧
    answers (run (.amo .min 2 5 1) 0x13004) (fun t => t.mem.readN 0x13004 4 == 0x80000000 && (t.hart 0).get 5 == 0xFFFFFFFF80000000) = true ∧
    answers (run (.amo .minu 2 5 1) 0x13004) (fun t => t.mem.readN 0x13004 4 == 0x80) = true ∧
    answers (run (.vload 1 2 [(1, 2)]) 0x13004) (fun t => ((((t.hart 0).v[2]?).getD []).take 5) == [2, 2, 0, 0x80, 2]) = true ∧
    answers (run (.vstore 0 7 [(0, 0), (2, 2)]) 0x13000) (fun t => decide (t.mem.read 0x13000 3 = [7, 0, 7])) = true := by decide +kernel

/-- A block that moves two granules from 0x40000000 to HBM, its DONE word at 0x13040. -/
def tMig : List Byte := leBytes 0x40000000 8 ++ leBytes 2 4 ++ [0] ++ zeros 3 ++ leBytes 0x13040 8 ++ zeros 8

/-- Tables whose second GiB has one granule leaf in LPDDR-6 and one in HBM4, for both stages. -/
def tGran : Memory :=
  [(0x12008, 0x01), (0x12009, 0x30), (0x1200A, 0x01)] ++ [(0x13000, 0x01), (0x13001, 0x41), (0x13002, 0x01)] ++
  [(0x14100, 0x0F), (0x14105, 0x01), (0x14108, 0x0F), (0x1410A, 0x31)]

/-- Migrations: a block refused and one started; a granule that stays, one that moves, and the end (MigrationAndSelfTest). -/
theorem witness_MigrationAndSelfTest_migrations :
    let x : Xlate := { part := 0, asid := 0, s1 := none, s2 := some 0x10000, sup := true }
    let hart : Hart := { (tHart.set 2 0x15000) with mode := .vs, hgatp := 0xE000000000000010 }
    let s (b : List Byte) : State := (tQ tQRegion (tGran ++ at_ 0x15000 b)).setHart 0 hart
    let g : Migration := { base := 0x40000000, count := 2, tier := 0, done := 0x16040, xl := x, moved := 0, code := none }
    let at_ (n : Nat) : State := { s [] with migs := [(3, { g with moved := n })] }
    let bare : State := { at_ 0 with parts := [] }
    (s []).me.wait = none ∧ 1 ≤ (s []).me.mode.level ∧ ((s []).me.get 2).toNat % 8 = 0 ∧ vread (s tMig).mem (s tMig).me.xlate 0x15000 32 = .ok tMig ∧
    migOk (zeros 32) = false ∧ answers (exec (.pgMig 5 0 2) (s [])) (fun t => (t.hart 0).get 5 == errWord 8) = true ∧
    migOk tMig = true ∧ (s tMig).me.xlate.s2.isSome = true ∧ migSplits (s tMig).mem (s tMig).me.xlate 0x40000000 2 = false ∧
    answers (exec (.pgMig 5 0 2) (s tMig)) (fun t => (t.hart 0).get 5 == 0 && t.migs.length == 1) = true ∧
    (at_ 0).migs.find 3 = some g ∧ (at_ 0).isHeld 0 (.mig 3) = false ∧
    answers (exec (.pgMigGranule 3 none) (at_ 2)) (fun t => t.migs.isEmpty && t.mem.readN 0x16040 8 == 2 ^ 63 + 2 * 2 ^ 16) = true ∧
    translate (at_ 0).mem x 0x40000000 .read = .ok (0x10000000000, 0) ∧ (migLeaf (at_ 0).mem x 0x40000000).any (fun y => y.2 == 0x10000000000 && y.1.size == 65536) = true ∧
    (bare.frameFree 0 0x80000000 65536 = true ∧ bare.migs.find 3 = some g ∧ bare.isHeld 0 (.mig 3) = false ∧
      translate bare.mem x 0x40000000 .read = .ok (0x10000000000, 0)) ∧
    translate (at_ 1).mem x 0x40010000 .read = .ok (0x310000, 0) ∧ answers (exec (.pgMigGranule 3 none) (at_ 1)) (fun t => (t.migs.get 3 g).moved == 2) = true := by
  decide +kernel

/-- Self-tests: operands refused, a region in the way, a start, its status, and its end (MigrationAndSelfTest). -/
theorem witness_MigrationAndSelfTest_tests :
    let s (v buf : Dword) : State := (tQ tQRegion []).setHart 0 { ((tHart.set 1 v).set 2 buf) with mode := .hs }
    let run : State := (s 1 0).setHart 0 { (s 0 0).me with bists := [(1, (0, 4, 0, 0x20000000, Hart.reset.xlate))] }
    2 ≤ (s 0 0).me.mode.level ∧ bistOk 3 = false ∧ bistOk 0x1900 = false ∧ bistOk 0x18C0 = true ∧ testMeets 4 tQRegion.rect = false ∧ testMeets 0 tQRegion.rect = true ∧
    answers (exec (.bistRun 5 1 2) (s 3 0)) (fun t => (t.hart 0).get 5 == errWord 8) = true ∧
    answers (exec (.bistRun 5 1 2) (s 0 0x800)) (fun t => (t.hart 0).get 5 == errWord 8) = true ∧
    answers (exec (.bistRun 5 1 2) (s 0 0x20000000)) (fun t => (t.hart 0).get 5 == errWord 7) = true ∧
    answers (exec (.bistRun 5 1 2) (s 4 0x20000000)) (fun t => (t.hart 0).get 5 == 0 && (t.hart 0).bists.length == 1 && (t.hart 0).bistNo == 1) = true ∧
    answers (exec (.bistStat 5 1) (s 1 0)) (fun t => (t.hart 0).get 5 == errWord 8) = true ∧
    answers (exec (.bistStat 5 31) (run.setHart 0 (run.me.set 31 1))) (fun t => (t.hart 0).get 5 == 0) = true ∧
    run.isHeld 0 (.bist 0 1) = false ∧ run.bistFails 4 [{ item := 1, place := 1, expect := 0, observed := 1 }, { item := 4, place := 1, expect := 0, observed := 1 }] = [{ item := 1, place := 1, expect := 0, observed := 1 }] ∧
    (vwrite run.mem Hart.reset.xlate 0x20000000 (bistRecords 1 [] (Config.freeWord run.freeCtr) 5).flatten).toOption.isSome = true := by decide +kernel


/-- Submissions to an unbound page, of a wrong form, refused, repeated, retried, short and full (HostSubmissions). -/
theorem witness_HostSubmissions :
    let s := tHost tVf (at_ 0x14000 (tLaunch 0x100007))
    let full := tHost { tVf with crhead := 1 } (at_ 0x14000 (tLaunch 0x100007))
    let run (s : State) (h : HostWrite) : Host.Outcome State Fault Refusal := exec (.hostSubmission 0 2 h) s
    let cpl (o : Host.Outcome State Fault Refusal) (c : Cpl) : Bool := answers o (fun t => decide ((t.vf 0).cpl = c) && decide ((t.part 0).launches = []))
    (s.vf 0).pages.find 3 = none ∧ cpl (exec (.hostSubmission 0 3 (tSub 9 0 0 0 0x14000)) s) .ur = true ∧
    answers (exec (.hostSubmission 0 3 { tSub 9 0 0 0 0x14000 with dmw := false }) s) (fun t => (t.vf 0).errs == 1) = true ∧
    s.vfPart 0 = some 0 ∧ (s.vf 0).pages.find 2 = some { qmask := 1, lastseq := 8 } ∧ (s.part 0).queues.find 0 = some tQueue ∧
    cpl (run s { tSub 9 0 0 0 0x14000 with off := 0x81 }) .ur = true ∧ (tSub 9 0 0 0 0x14000).bytes.length = 128 ∧
    subFieldsOk (tSub 9 0 4 0 0x14000).bytes = false ∧ cpl (run s (tSub 9 0 4 0 0x14000)) .ur = true ∧ cpl (run s (tSub 9 64 0 0 0x14000)) .ur = true ∧
    cpl (run s (tSub 9 1 0 0 0x14000)) .ur = true ∧ cpl (run s (tSub 10 0 0 0 0x14000)) .ur = true ∧ subFieldsOk (tSub 9 0 3 0 0x14000).bytes = true ∧
    cpl (run s (tSub 8 0 0 0 0x14000)) .sc = true ∧
    full.subRoom 0 0 0 3 = false ∧ cpl (run full (tSub 9 0 3 0 0x14000)) .rrs = true ∧ s.subRoom 0 0 0 3 = true ∧ (tHost { tVf with crhead := 1, en := false } []).subRoom 0 0 0 3 = false ∧
    cpl (run (tHost { tVf with en := false } []) (tSub 9 0 0 1 0)) .rrs = true ∧
    answers (run s (tSub 9 0 3 3 0)) (fun t => match (t.part 0).launches with
      | [l] => l.accNo == 1 && l.prio == 3 && !l.short && decide (l.act = .host 0 2 9 77 true) && l.record.length == 256
      | _ => false) = true ∧
    (vread s.mem (s.queueXlate 0 0) 0x14000 256).toOption = some (tLaunch 0x100007) ∧
    answers (run s (tSub 9 0 0 0 0x14000)) (fun t => match (t.part 0).launches with
      | [l] => decide (l.record = tLaunch 0x100007) && decide (l.act = .host 0 2 9 77 false)
      | _ => false) = true ∧
    cpl (run (tHost { tVf with en := false } (at_ 0x14000 (tLaunch 0x100007))) (tSub 9 0 0 0 0x14000)) .rrs = true := by
  unfold State.subRoom; decide +kernel

/-- Page bindings, the ring's registers, and a function-level reset, with and without an assignment (HostRegisters). -/
theorem witness_HostRegisters :
    let s := tHost tVf []
    let off := tHost { tVf with part := none } []
    (s.vfPart 0).isSome = true ∧ off.vfPart 0 = none ∧
    answers (exec (.submissionPageBind 0 2 7) s) (fun t => decide ((t.vf 0).pages = [(2, { qmask := 7, lastseq := 0 })])) = true ∧
    answers (exec (.crheadWrite 0 0x12345) s) (fun t => (t.vf 0).crhead == 0x2345) = true ∧
    answers (exec (.ringEnableWrite 0 0x106) s) (fun t => (t.vf 0).en && (t.vf 0).log2n == 6) = true ∧
    answers (exec (.ringEnableWrite 0 0x110) s) (fun t => (t.vf 0).en && (t.vf 0).log2n == 16) = true ∧
    answers (exec (.ringEnableWrite 0 0x105) s) (fun t => !(t.vf 0).en) = true ∧ answers (exec (.ringEnableWrite 0 0x111) s) (fun t => !(t.vf 0).en) = true ∧
    answers (exec (.ringEnableWrite 0 0x6) s) (fun t => !(t.vf 0).en) = true ∧
    answers (exec (.crheadWrite 0 1) off) (fun t => (t.vf 0).errs == 1 && (t.vf 0).crhead == 0) = true ∧
    answers (exec (.functionLevelReset 0) s) (fun t => decide (t.vf 0 = { Vf.reset with part := some 0 })) = true := by decide +kernel

/-- Expansions that fail, wait and run; a completion posted at the ring's last place (LaunchesExpandAndComplete). -/
theorem witness_LaunchesExpandAndComplete :
    let s := tWithL (tLaunched (tLaunch 0x100007) false) tVf
    let bad := tWithL (tLaunched (tLaunch 0x100008) false) tVf
    let short := tWithL (tLaunched (zeros 256) true) tVf
    let wait := s.setPart 0 { s.part 0 with queues := [(0, { tQueue with log2n := [0, 0, 0, 0] })] }
    let done := tWithL { tLaunched [] false with expanded := true, status := some 3, act := .host 0 2 9 77 true } { tVf with crhead := 63, crtail := 63 }
    answers (exec (.launchExpansion 0 0) short) (fun t => (t.part 0).launches.map (·.status) == [some 6]) = true ∧
    s.launchCheck 0 (tLaunch 0x100007) false = .ok 1 ∧ (bad.launchCheck 0 (tLaunch 0x100008) false).toOption = none ∧
    answers (exec (.launchExpansion 0 0) bad) (fun t => (t.part 0).launches.map (·.expanded) == [true]) = true ∧
    lrInstances (tLaunch 0x100007) = 1 ∧ (s.part 0).room 0 0 1 2 = true ∧ (s.part 0).frames.length + 2 ≤ (s.part 0).frameUnits ∧
    (wait.part 0).room 0 0 1 2 = false ∧ answers (exec (.launchExpansion 0 0) wait) (fun t => (t.part 0).launches.map (·.expanded) == [false]) = true ∧
    (done.vf 0).ringFree ≠ 0 ∧
    answers (exec (.completionPost 0 0) done) (fun t => (t.vf 0).crtail == 0 && !(t.vf 0).phase && (t.part 0).launches.isEmpty &&
      t.mem.read (hostPa (0x7000 + 1008)) 16 == [77, 0, 0, 0, 3, 0, 0, 1, 9, 0, 0, 0, 0, 0, 2, 0]) = true := by decide +kernel

/-- A pop with nothing to take and one that starts a period, and reserve pushes that find room (RegionPops). -/
theorem witness_RegionPops :
    let c : Cont := { code := 0x00001000_00100007, frame := 0x14000, join := 0x15000, flags := 0x100 }
    let r := { tQRegion with state := .idle, attach := some (0x100001, 1) }
    let s (recs : List QRec) : State := (tQ r []).setPart 0 { tGraph with queues := [(0, { tQueue with recs := [[], recs, [], []] })] }
    let e : QRec := { cont := c, rsv := false, period := some 4, trim := none }
    let Q := { tQueue with recs := [[], [e], [], []] }
    let mine (e : QRec) : Bool := (e.cont.kind == 0 || e.cont.kind == 1) && e.cont.sclass == 1
    let first (e : QRec) : Bool := e.cont.kind == 1
    (s []).region? 0 = some r ∧ ((s []).part 0).current tblQueue 0x100001 = true ∧ (s []).isHeld 0 (.image 0) = false ∧
    tQueue.pop mine first = none ∧ answers (exec (.regionPop 0) (s [])) (fun t => decide (t.regions = (s []).regions)) = true ∧
    (Q.pop mine first).isSome = true ∧ c.kind = 0 ∧ ((s []).part 0).current tblGraph c.graph = true ∧
    answers (exec (.reservePushRetry 0 0) ((s []).setPart 0 { tGraph with queues := [(0, { tQueue with rsv := [e] })] }))
      (fun t => match (t.part 0).queues.find 0 with | some q => q.rsv.isEmpty && (q.recs.map (·.length)).sum == 1 | none => false) = true := by decide +kernel

/-- A launch accepted before is expanded first, and one that has to wait leaves the queue full for a dispatch (LaunchesDispatched). -/
theorem witness_LaunchesDispatched_order :
    let s := tWithL (tLaunched (zeros 256) true) tVf
    let y := s.expandEarlier 0 0
    let w0 := tWithL (tLaunched (tLaunch 0x100007) false) tVf
    let wait := w0.setPart 0 { w0.part 0 with queues := [(0, { tQueue with log2n := [0, 0, 0, 0] })] }
    s.launchCheck 0 (tLaunch 0x100007) true = .ok 1 ∧ (s.unexpanded 0 0).isSome = true ∧ y.unexpanded 0 0 = none ∧ (y.part 0).room 0 0 1 2 = true ∧
    (y.part 0).launches.map (·.status) = [some 6] ∧ (wait.expandEarlier 0 0).unexpanded 0 0 ≠ none ∧
    decide (wait.dispatch 0 (wait.rgXlate tQRegion) (tLaunch 0x100007) tBlk 0 = .ok (errWord 2, wait)) = true := by
  decide +kernel

/-- A CT that may not fire, one with no rule that holds, and rules that fire, trap and wait on a file entry (CtRuleFires). -/
theorem witness_CtRuleFires :
    let s (t : Tile) : State := tCtS t
    let t := tCt [] [[tBeat 1], [], [], []]
    let idle := tCt [] [[], [], [], []]
    let mix := tCt [(0x11, 0x80200230), (0xB1, 0x04000000)] [[tBeat 1], [markBeat 2 3], [], []]
    let busy := { t with empty := 1 }
    let trap := { tCt [(0xBB, 1)] [[tBeat 1], [], [], []] with empty := 1 }
    let run (t : Tile) (p : State → Bool) : Bool := answers (exec (.ctRuleFire 0) (s t)) p
    (s t).liveRegion 0 = some (0, tQRegion) ∧ (s t).region? 0 = some tQRegion ∧ isCt 0 = true ∧
    tMay { t with passc := 0 } false = false ∧ run { t with passc := 0 } (fun z => decide (z.tile 0 = { t with passc := 0 })) = true ∧
    tMay idle false = true ∧ (∀ j < 16, tPassed idle j = true) ∧ run idle (fun z => decide (z.tile 0 = idle)) = true ∧
    tMay t false = true ∧ tHolds t 1 = true ∧ (∀ j < 1, tPassed t j = true) ∧ tPending t 1 = 0 ∧ (∀ x ∈ t.deqHeads (t.fld 0x11), x.2.kind.toNat = 0) ∧
    run t (fun z => decide ((z.tile 0).deqs = [1, 0, 0, 0]) && (z.tile 0).empty == 1 && (z.tile 0).flights.length == 1) = true ∧
    tMay mix false = true ∧ tHolds mix 1 = true ∧ (0, tBeat 1) ∈ mix.deqHeads (mix.fld 0x11) ∧ (1, markBeat 2 3) ∈ mix.deqHeads (mix.fld 0x11) ∧
    run mix (fun z => (z.tile 0).trap == some 0x12) = true ∧
    tMay trap false = true ∧ tHolds trap 1 = true ∧ tPending trap 1 &&& (trap.fld 0xBB).toNat ≠ 0 ∧ run trap (fun z => (z.tile 0).trap.isSome) = true ∧
    tHolds busy 1 = true ∧ tPassed busy 1 = true ∧ run busy (fun z => decide (z.tile 0 = busy)) = true := by decide +kernel

/-- Heads, file entries, immediates, tags and lane numbers that a firing's slots take (CtFiringCaptures). -/
theorem witness_CtFiringCaptures :
    let t := { tCt [(0x21, 0xAC51), (0x90, 77)] [[tBeat 1], [tBeat 2], [], []] with d := List.replicate 4 (List.replicate 16 9) }
    let f := t.flight 1 0
    let slot (j : Nat) : Lanes := nth (nth f.slots 0 []) j []
    f.passes = 1 ∧ f.head 0 0 = some (tBeat 1) ∧ slot 0 = (tBeat 1).lanes ∧ slot 1 = List.replicate 16 9 ∧ lane (slot 2) 15 = 1 ∧ lane (slot 3) 15 = 77 ∧
    lane (nth (nth ((tCt [(0x21, 9)] [[tBeat 1], [], [], []]).flight 1 0).slots 0 []) 0 []) 15 = 15 := by decide +kernel

/-- Fire slots and stream slots: not free, no rule, mixed heads, headers, round marks and data, each once (MtRulesFire). -/
theorem witness_MtRulesFire :
    let d (xs : List Beat) : List (List Beat) := [xs, [], [], []]
    let t := tMt 0 (d [tBeat 1])
    let p := tMt 5 (d [tBeat 1])
    let two (t : Tile) : Tile := { t with fields := (0x65, 0x04000000) :: (0x11, 0x80000230) :: t.fields, inF := [[tBeat 1], [markBeat 2 3], [], []] }
    let run (t : Tile) (q : Tile → Bool) : Bool := answers (exec (.mtRuleFire 1) (tMtS t)) (fun z => q (z.tile 1))
    let walk (t : Tile) (q : Tile → Bool) : Bool := answers (exec (.streamRuleFire 1) (tMtS t)) (fun z => q (z.tile 1))
    (tMtS t).liveRegion 1 = some (0, tQRegion) ∧ isCt 1 = false ∧ t.enabled = true ∧ t.merged = false ∧ t.mergedNow false = false ∧
    run { t with hold := 1 } (fun x => decide (x = { t with hold := 1 })) = true ∧
    (∀ j < 16, (tMt 0 (d [])).mtHolds j = false) ∧ t.mtHolds 0 = false ∧ t.mtHolds 1 = true ∧
    run (two t) (fun x => x.trap == some 0x12) = true ∧ (two t).mtHolds 1 = true ∧
    headerBad (tHdr 0x00100000) = false ∧ headerBad (tHdr 0x01100000) = true ∧
    run (tMt 0 (d [tHdr 0x00100000])) (fun x => decide (x.latch = [some 0x00100000, none, none, none]) && x.owed.map (·.due) == [3]) = true ∧
    run (tMt 0 (d [tHdr 0x01100000])) (fun x => x.trap.isSome) = true ∧
    run (tMt 0 (d [markBeat 2 3])) (fun x => x.owed.map (·.beats) == [some [markBeat 2 0]]) = true ∧
    t.maccHolds (t.mtOp 1) = false ∧ run t (fun x => x.hold == 1 && x.opNo == 1 && decide (x.deqs = [1, 0, 0, 0])) = true ∧
    p.streamHolds 1 = true ∧ (∀ j < 16, p.mtHolds j = false) ∧ walk { p with shold := 1 } (fun x => decide (x = { p with shold := 1 })) = true ∧
    walk (two p) (fun x => x.trap == some 0x12) = true ∧ (two p).streamHolds 1 = true ∧
    walk (tMt 5 (d [tHdr 0x01100000])) (fun x => x.trap.isSome) = true ∧ walk (tMt 5 (d [tHdr 0x00100000])) (fun x => x.shold == 1 && x.owed.length == 1) = true ∧
    walk (tMt 5 (d [markBeat 2 3])) (fun x => x.shold == 1) = true ∧
    p.patOk 0 = true ∧ walk p (fun x => x.opNo == 1 && x.passc == 5) = true ∧
    { p with fields := (0x40, 1 + 0x40000) :: p.fields }.patOk 0 = false := by decide +kernel

/-- Merges of barriers and snuff markers, beats of reserved kinds, and the discards of an intersect pair (InputsOutsideRules). -/
theorem witness_InputsOutsideRules :
    let m (k : Nat) : Tile := tCt [(0xB1, 0x04000000)] [[markBeat k 3], [markBeat k 3], [], []]
    let none_ := { tCt [] [[], [], [], []] with fields := [(0xB5, 0x04000000), (0xF2, 1)] }
    let loop := { m 3 with loopIn := 1 }
    let odd := tCt [] [[markBeat 6 3], [], [], []]
    let empty : Beat := dataBeat 3 0 0 (lanesOf (fun _ => 0))
    let pair (a b : Beat) : Tile := tCt [(0xB1, 0x04000000), (0xB0, 0x24000010)] [[a], [b], [], []]
    let paired (a b : Beat) : Tile := { pair a b with fields := (0xB1, 0x04000010) :: (0xB0, 0x24000010) :: (pair a b).fields }
    let merge (st : RgState) (t : Tile) (p : Tile → Bool) : Bool := answers (exec (.barrierSnuffMerge 0) (tIn st t)) (fun z => p (z.tile 0))
    let drop (t : Tile) (p : Tile → Bool) : Bool := answers (exec (.intersectDiscard 0) (tIn .running t)) (fun z => p (z.tile 0))
    (m 3).mainIns true = [0, 1] ∧ (m 3).mainOuts true = [1] ∧ (m 3).enabled = true ∧
    merge .running (m 3) (fun t => decide (t.outF = [[], [markBeat 3 0], [], []]) && decide (t.deqs = [1, 1, 0, 0]) && !t.merged) = true ∧
    merge .draining (m 4) (fun t => t.merged) = true ∧ none_.mainIns true = [] ∧ merge .draining none_ (fun t => t.merged && (nth t.outF 1 []).length == 1) = true ∧
    merge .running { m 3 with fields := [] } (fun t => decide (t = { m 3 with fields := [] })) = true ∧
    0 ∈ loop.loopIns true ∧ nth (loop.dropLoop true).deqs 0 0 = 1 ∧
    odd.oldest 0 = some (markBeat 6 3) ∧ answers (exec (.reservedKindDrop 0 0) (tIn .running odd)) (fun z => decide ((z.tile 0).deqs = [1, 0, 0, 0])) = true ∧
    answers (exec (.reservedKindDrop 0 0) (tIn .running (m 5))) (fun z => decide ((z.tile 0).deqs = [0, 0, 0, 0])) = true ∧
    (∀ a ∈ [tBeat 1, empty], bit ((paired a a).inW true 0) 29 = true) ∧
    drop (paired (tBeat 1) (tBeat 1)) (fun t => decide (t.deqs = [0, 0, 0, 0])) = true ∧
    drop (paired (tBeat 1) (tBeat 2)) (fun t => decide (t.deqs = [1, 0, 0, 0]) && t.iskip == 1) = true ∧
    drop (paired (tBeat 2) (tBeat 1)) (fun t => decide (t.deqs = [0, 1, 0, 0]) && t.iskip == 1) = true ∧
    drop (paired empty (tBeat 1)) (fun t => decide (t.deqs = [1, 0, 0, 0])) = true ∧
    drop (paired empty empty) (fun t => decide (t.deqs = [1, 1, 0, 0])) = true := by decide +kernel

/-- Fan-out, and beats of an output, a delay line, a lane register and an express slot, with room and without (BeatsPass). -/
theorem witness_BeatsPass :
    let out := { tSw Tile.cleared with outF := [[tBeat 1, tBeat 2], [], [], []] }
    let slow := { out with fields := (0xBA, 2) :: out.fields, dly := [[none, none], [], [], []] }
    let full := { out with lanes := [(2, tHop), (3, tHop)] }
    let busy := { slow with dly := [[some (tBeat 3), some (tBeat 4)], [], [], []] }
    let last := { slow with dly := [[none, some (tBeat 4)], [], [], []] }
    let first := { slow with dly := [[some (tBeat 4), none], [], [], []] }
    let lane := { tSw Tile.cleared with lanes := [(2, tHop)] }
    let go (a b : Tile) (x : BeatSource) (p : State → Bool) : Bool := answers (exec (.beatTransfer 0 x) (tTwo a b)) p
    let east := { Tile.cleared with fields := [(0xCA, 0x13)] }
    (tTwo out Tile.cleared).liveRegion 0 = some (0, tQRegion) ∧ (tSw Tile.cleared).routesFrom 4 0 = [(1, 0)] ∧ (tSw Tile.cleared).routesFrom 4 1 = [(1, 1)] ∧
    (∀ m ∈ [0, 1], ((tTwo out Tile.cleared).fanOut 0 tQRegion 0 4 m 0 (tBeat 1)).isSome = true) ∧
    (∀ m ∈ [0, 1], ((tTwo full Tile.cleared).fanOut 0 tQRegion 0 4 m 0 (tBeat 1)) = none) ∧
    nth out.outF 0 [] = [tBeat 1, tBeat 2] ∧ out.dlen true 0 = 0 ∧ slow.dlen true 0 = 2 ∧ busy.stage? 0 0 ≠ none ∧ slow.stage? 0 0 = none ∧
    go slow Tile.cleared (.outFifo 0) (fun z => decide ((z.tile 0).stage? 0 0 = some (tBeat 1))) = true ∧
    go busy Tile.cleared (.outFifo 0) (fun z => decide (z.tile 0 = busy)) = true ∧ go out Tile.cleared (.outFifo 1) (fun z => decide (z.tile 0 = out)) = true ∧
    first.stage? 0 0 = some (tBeat 4) ∧ go first Tile.cleared (.delay 0 0) (fun z => decide ((z.tile 0).dly = last.dly)) = true ∧
    go busy Tile.cleared (.delay 0 0) (fun z => decide (z.tile 0 = busy)) = true ∧ last.stage? 0 1 = some (tBeat 4) ∧
    neighbour 0 1 = some 1 ∧ facing 1 = 3 ∧ lane.lanes.find 2 = some tHop ∧
    go lane east (.laneReg 1 0) (fun z => decide ((z.tile 0).lanes = []) && decide ((z.tile 1).lanes = [(2, tHop)])) = true ∧
    go lane { east with lanes := [(2, tHop)] } (.laneReg 1 0) (fun z => decide ((z.tile 0).lanes = [(2, tHop)])) = true := by decide +kernel

/-- The same across a seam, whose failures a beat that passes ends, and retries below and at the limit (BeatsPass). -/
theorem witness_BeatsPass_seam :
    let r := { tQRegion with ocol := 159 }
    let s := { tQ r [] with
      tiles := [(159, { tSw Tile.cleared with lanes := [(2, tHop)] }), (160, { Tile.cleared with fields := [(0xCA, 0x13)] })]
      seamFails := [(2 * (4 * 159 + 1), 7)] }
    s.liveRegion 159 = some (0, r) ∧ chipOf 159 ≠ chipOf 160 ∧ neighbour 159 1 = some 160 ∧
    answers (exec (.beatTransfer 159 (.laneReg 1 0)) s) (fun z => z.seamFails.isEmpty && decide ((z.tile 159).lanes = [])) = true ∧
    answers (exec (.seamBeatRetry 637 1 0) s) (fun z => z.seamFails.get (2 * 637 + 1) 0 == 1 && z.seamRetired.isEmpty) = true ∧
    answers (exec (.seamBeatRetry 637 0 0) s) (fun z => z.seamFails.isEmpty && z.seamRetired == [1274]) = true := by decide +kernel

/-- A beat at an entering express attachment and one at a leaving one (BeatsPass). -/
theorem witness_BeatsPass_express :
    let enter := { Tile.cleared with fields := [(0xD4, 0x801), (0xDC, 0x80)], xbuf := [(0, [tHop])] }
    let leave (hs : List Hop) : Tile := { tSw Tile.cleared with fields := (0xD4, 0xC00) :: (0xDC, 0x80) :: (tSw Tile.cleared).fields, xbuf := [(0, hs)] }
    let go (a b : Tile) (p : State → Bool) : Bool := answers (exec (.expressLaneTransfer 0 0 0) (tTwo a b)) p
    bit (enter.fld 0xD4) 11 = true ∧ bits (enter.fld 0xD4) 10 10 = 0 ∧ tQRegion.covers 1 = true ∧ (leave []).xLeave 0 0 = some 0 ∧
    go enter (leave [tHop]) (fun z => ((z.tile 1).xBuf 0 0).length == 2 && ((z.tile 0).xBuf 0 0).isEmpty) = true ∧
    go enter (leave [tHop, tHop]) (fun z => ((z.tile 1).xBuf 0 0).length == 2 && ((z.tile 0).xBuf 0 0).length == 1) = true ∧
    go enter Tile.cleared (fun z => ((z.tile 0).xBuf 0 0).length == 1) = true ∧
    go { enter with fields := [(0xD4, 1)] } (leave []) (fun z => ((z.tile 0).xBuf 0 0).length == 1) = true ∧
    bits ((leave []).fld 0xD4) 10 10 = 1 ∧ (∀ m ∈ [0, 1], ((tTwo (leave [tHop]) Tile.cleared).fanOut 0 tQRegion 0 4 m 0 (tBeat 1)).isSome = true) := by decide +kernel

/-- A route to the local port takes a beat to whichever input channel the configuration names (BeatsPass). -/
theorem witness_BeatsPass_local (h : tQRegion.inEnd 0 0 0 < 4) :
    (tIns.tile 0).routesFrom 3 0 = [(4, 0)] ∧ tIns.accepts 0 tQRegion 0 4 0 0 = true ∧ tQRegion.covers 0 = true ∧ tIns.lostAt 0 = false := by
  refine ⟨by decide +kernel, ?_, by decide +kernel, by decide +kernel⟩
  unfold State.accepts
  dsimp only
  generalize tQRegion.inEnd 0 0 0 = d at *
  interval_cases d <;> decide +kernel

/-- Requests at a partition member: none, out of the buffer, a write and reads of 4 and 8 bytes; and GTH results (LaterOperationsEnd). -/
theorem witness_LaterOperationsEnd_requests :
    let gth := { tOp 0x10 1 with reply := List.replicate 16 none, waits := [2] }
    let req (off size : Nat) (data : Option Dword) : NetReq := { src := 1, op := 1, lane := 2, off := off, size := size, data := data }
    let t (q : NetReq) : Tile := { tOps [gth] with net := [q], banks := [(4096, 7), (4100, 9)] }
    let serve (t : Tile) (p : Tile → Bool) : Bool := answers (exec (.partitionRequestServe 1) (tMtS t)) (fun z => p (z.tile 1))
    (tMtS (t (req 0 4 none))).liveRegion 1 = some (0, tQRegion) ∧ serve (tOps [gth]) (fun x => decide (x = tOps [gth])) = true ∧
    (t (req 0 4 none)).accessOk (bufX, 4092, 4, 4) = true ∧ (t (req 0 4 none)).accessOk (bufX, 4096, 4, 4) = false ∧
    serve (t (req 4096 4 none)) (fun x => x.trap.isSome && x.net.length == 1) = true ∧
    serve (t (req 4092 4 (some 0x01020304))) (fun x => x.net.isEmpty && decide (x.bufRead bufX 4092 4 = [4, 3, 2, 1])) = true ∧
    serve (t (req 0 4 none)) (fun x => (x.ops.map (fun o => (o.progress, nth o.reply 2 none))) == [(4, some 7)]) = true ∧
    serve (t (req 0 8 none)) (fun x => (x.ops.map (fun o => (nth o.reply 2 none, nth o.reply 3 none))) == [(some 7, some 9)]) = true ∧
    answers (exec (.gthResultEnqueue 1) (tMtS (tOps [gth]))) (fun z => decide (z.tile 1 = tOps [gth])) = true ∧
    answers (exec (.gthResultEnqueue 1) (tMtS (tOps [{ gth with progress := 4 }]))) (fun z => (z.tile 1).ops.isEmpty && (z.tile 1).owed.all (·.beats.isSome)) = true := by
  decide +kernel

/-- ACQNs: none, one granted already, and one that still waits (LaterOperationsEnd). -/
theorem witness_LaterOperationsEnd_acqn :
    let o := { tOp 0x1C 1 with gA := 0x100003 }
    let s (o : MtOp) : State := { tSo tHeld with tiles := [(1, tOps [o])] }
    let run (o : MtOp) (p : Tile → Bool) : Bool := answers (exec (.acqnGrant 1) (s o)) (fun z => p (z.tile 1))
    run { o with done := true, reply := [some 0] } (fun t => t.ops.isEmpty && t.owed.all (·.beats.isSome)) = true ∧
    (tOps []).ops.find? (fun o => opOpc o.op == 0x1C) = none ∧
    (∀ x ∈ (((s o).grant 0 3).tile 1).ops, opOpc x.op = 0x1C → x.done = false) ∧ run o (fun t => decide (t = tOps [o])) = true := by decide +kernel

/-- ISTRM blocks: malformed, with a stale queue, and taken by an engine, by the queue and by neither (LaterOperationsEnd). -/
theorem witness_LaterOperationsEnd_istrm :
    let o (b : List Byte) : MtOp := { tOp 0x14 1 with dch := some ((tOp 0x14 1).bytesBeat 0xFFFF b), waits := [] }
    let s (b : List Byte) : State := { tMark tQRegion [] with tiles := [(0, tEdge), (1, tOps [o b])] }
    let b := tStream 0
    let eng := (List.range 8).map (fun e => (e, tStr b))
    let die (s : State) (n : Nat) : State := s.setDie 0 { s.die 0 with engines := eng, queue := List.replicate n (tStr b) }
    let run (s : State) (p : State → Bool) : Bool := answers (exec (.istrmBlockAccept 1) s) p
    let paid (c : Nat) (z : State) : Bool := (z.tile 1).ops.isEmpty && (z.tile 1).owed.all (fun x => x.beats == some [(o b).word (BitVec.ofNat 32 c)] || x.beats == some [(o b).doneBeat])
    bytesOfLanes (((o b).bytesBeat 0xFFFF b).lanes) = b ∧ streamBlockOk b = true ∧ streamBlockOk (tStream 4) = false ∧
    (s b).attachOf tQRegion 0 1 0 ≠ none ∧ ((s b).part 0).current tblQueue 0x100001 = true ∧ (((s b).streamStack ((s b).rgXlate tQRegion) b)).1 = 0 ∧
    run (s (tStream 4)) (fun z => paid eBADARG z) = true ∧
    run ((s b).setPart 0 { (s b).part 0 with queues := [] }) (fun z => paid eSTALE z) = true ∧
    run (s b) (fun z => paid 0 z && decide ((z.die 0).engines.find 0 = some (tStr b))) = true ∧
    run (die (s b) 63) (fun z => paid 0 z && (z.die 0).queue.length == 64) = true ∧
    run (die (s b) 64) (fun z => !(z.tile 1).mtSlotFree && (z.die 0).queue.length == 64) = true := by decide +kernel

/-- Macro units: idle, waiting behind another unit's operation, free to start, and running (LaterOperationsEnd). -/
theorem witness_LaterOperationsEnd_units :
    let u (x y : MacUnit) : Tile := { tOps [] with units := [x, y, { running := none, waiting := [] }] }
    let idle : MacUnit := { running := none, waiting := [] }
    let wait (ks : List Nat) : MacUnit := { running := none, waiting := [{ tOp 0x0C 2 with waits := ks }] }
    let on (no : Nat) : MacUnit := { running := some (tOp 0x0D no), waiting := [] }
    let start (t : Tile) (p : Tile → Bool) : Bool := answers (exec (.macroUnitStart 1 .loader) (tMtS t)) (fun z => p (z.tile 1))
    start (u (wait [1]) idle) (fun t => (t.unit 0).running.isSome && (t.unit 0).waiting.isEmpty) = true ∧ 0 < (u idle idle).units.length ∧
    start (u (wait [1]) (on 1)) (fun t => decide (t = u (wait [1]) (on 1))) = true ∧ start (u idle (on 1)) (fun t => decide (t = u idle (on 1))) = true ∧
    start (u (on 1) idle) (fun t => decide (t = u (on 1) idle)) = true ∧ ((u idle (on 1)).unit 1).running = some (tOp 0x0D 1) ∧
    answers (exec (.macroOpDone 1 .loader) (tMtS (u idle (on 1)))) (fun z => decide (z.tile 1 = u idle (on 1))) = true := by decide +kernel

/-- Operation words of the macro with four tiles, a tile without a mask plane and the formats of MLOAD (MacroEffects). -/
theorem witness_MacroEffects :
    bits (tOp 0x0C 1).op 7 0 = 0x0C ∧ bits (tOp 0x0D 1).op 7 0 = 0x0D ∧ bits (tOp 0x0E 1).op 7 0 = 0x0E ∧ bits (tOp 0x0F 1).op 7 0 = 0x0F ∧
    (tOps []).mac.length = 4 ∧ bit (tOp 0x0C 1).op 26 = false ∧ bits (tOp 0x0C 1).op 25 24 = 0 ∧ bits (tOp 0x0300000C 1).op 25 24 = 3 ∧
    bits (tOp 0x0100000C 1).op 25 24 = 1 := by decide +kernel

/-- Requests of a port: none, of other kinds, malformed, reads and writes taken, units issued, faulting and held back (EdgePorts). -/
theorem witness_EdgePorts_requests :
    let with_ (bs : List Beat) : Port := { Port.empty with reqF := bs }
    let cur (va : Nat) : Port := { Port.empty with cur := some (tWalk va 0 2) }
    let full : Port := { cur 0x13000 with reply := List.replicate 32 (tQRegion.incarn, tBeat 1) }
    let wr : Port := { with_ [markBeat 2 3] with wr := some (tWalk 0x13000 2 1) }
    let run (p : Port) (q : Port → Bool) : Bool := answers (exec (.empRequest 0 0 1) (tPort p)) (fun z => q (z.port 1))
    let held (p : Port) : Bool := answers (exec (.empRequest 0 0 1) (tPort p)) (fun z => z.isHeld 0 (.port 0 0 1))
    (tPort (with_ [])).region? 0 = some tQRegion ∧ tQRegion.active = true ∧ (tPort (with_ [])).isHeld 0 (.port 0 0 1) = false ∧
    run (with_ []) (fun p => decide (p = with_ [])) = true ∧ run (with_ [markBeat 6 3]) (fun p => p.reqF.isEmpty) = true ∧
    run (with_ [markBeat 15 3]) (fun p => p.reqF.isEmpty) = true ∧ run (with_ [markBeat 5 3]) (fun p => p.reqF.isEmpty) = true ∧
    run (with_ [markBeat 2 3]) (fun p => p.reqF.length == 1) = true ∧ held wr = true ∧ held (with_ [tHdr 0]) = true ∧
    held (with_ [tReq 0x13004 1 0]) = true ∧ held (with_ [tReq 0x13000 0 0]) = true ∧ held (with_ [tReq 0x13000 1 3]) = true ∧
    run (with_ [tReq 0x13000 0xFFFF 0]) (fun p => decide (p.cur = some (tWalk 0x13000 0 0xFFFF)) && p.reqF.isEmpty) = true ∧
    run (with_ [tReq 0x13004 1 1]) (fun p => decide (p.cur = some (tWalk 0x13004 1 1))) = true ∧
    run (with_ [tReq 0x13000 1 2]) (fun p => decide (p.wr = some (tWalk 0x13000 2 1)) && p.cur.isNone) = true ∧
    (tPort (cur 0x13000)).rowOpen 0 0 1 = false ∧ translate (tPort full).mem ((tPort full).rgXlate tQRegion) 0x13000 .read = .ok (0x13000, 0) ∧
    (translate (tPort full).mem ((tPort full).rgXlate tQRegion) 0x40000000 .read).toOption = none ∧
    run (cur 0x13000) (fun p => p.reply.length == 1 && decide (p.cur = some { tWalk 0x13000 0 2 with next := 1, cur := 0x13040 })) = true ∧
    held (cur 0x40000000) = true ∧ run full (fun p => decide (p = full)) = true := by decide +kernel

/-- Write data: marker in front, a fault, lanes written; markers forwarded; replies stale, without attachment, and sent (EdgePorts). -/
theorem witness_EdgePorts_data :
    let wr (va : Nat) (b : Beat) : Port := { Port.empty with wr := some (tWalk va 2 2), reqF := [b] }
    let put (p : Port) (q : State → Bool) : Bool := answers (exec (.empWriteData 0 0 1) (tPort p)) q
    let mark (p : Port) (q : Port → Bool) : Bool := answers (exec (.empMarkerForward 0 0 1) (tPort p)) (fun z => q (z.port 1))
    let rep (inc : Half) : Port := { Port.empty with reply := [(inc, tBeat 1)] }
    let bare (p : Port) : State := tMark tQRegion [(1, p)]
    put (wr 0x13000 (markBeat 2 3)) (fun z => decide (z.port 1 = wr 0x13000 (markBeat 2 3))) = true ∧
    put (wr 0x40000000 (tBeat 1)) (fun z => z.isHeld 0 (.port 0 0 1)) = true ∧
    ((tPort (wr 0x13000 (tBeat 1))).makeShadows [(0x13000, 0x13000)] 0).isSome = true ∧
    put (wr 0x13000 { tBeat 1 with valid := 0x8002 }) (fun z => z.mem.readN 0x13004 4 == 1 && z.mem.readN 0x13008 4 == 0 && z.mem.readN 0x1303C 4 == 15) = true ∧
    put (wr 0x13000 (tBeat 1)) (fun z => decide ((z.port 1).wr = some { tWalk 0x13000 2 2 with next := 1, cur := 0x13040 })) = true ∧
    mark { Port.empty with reqF := [markBeat 3 3] } (fun p => p.reqF.isEmpty && p.barrOut && p.reply.length == 1) = true ∧
    mark { Port.empty with reqF := [tBeat 1] } (fun p => p.reqF.length == 1) = true ∧
    mark { Port.empty with reqF := [markBeat 5 3] } (fun p => p.reqF.length == 1) = true ∧
    mark { rep 0 with reqF := [markBeat 2 3] } (fun p => p.reqF.length == 1) = true ∧
    answers (exec (.empReply 0 0 1) (tPort (rep (tQRegion.incarn + 1)))) (fun z => (z.port 1).reply.isEmpty) = true ∧
    ((tPort (rep 0)).setRegion 0 tQRegion).attachOf tQRegion 0 1 0 ≠ none ∧
    answers (exec (.empReply 0 0 1) { bare (rep tQRegion.incarn) with tiles := [] }) (fun z => (z.port 1).reply.isEmpty) = true ∧
    (∀ m ∈ [0, 1], ((tPort (rep 0)).fanOut 0 tQRegion 0 4 m 4 (tBeat 1)).isSome = true) ∧
    (∀ m ∈ [0, 1], ((bare (rep 0)).fanOut 0 tQRegion 0 4 m 4 (tBeat 1)) = none) := by decide +kernel

/-- An engine's stream: none, its region gone or restarted, stopped, at its end, and with an index to read (EdgePorts). -/
theorem witness_EdgePorts_streams :
    let s (i : IStream) (r : Region) : State := let m := tMark r []; m.setDie 0 { m.die 0 with engines := [(3, i)] }
    let run (y : State) (p : State → Bool) : Bool := answers (exec (.indirectStreamRow 0 3) y) p
    let b := tStream 0
    let r := tQRegion
    run (tMark r []) (fun z => decide (z = tMark r [])) = true ∧ run (s { tStr b with rn := 9 } r) (fun z => (z.die 0).engines.isEmpty) = true ∧
    run (s { tStr b with incarn := 7 } r) (fun z => (z.die 0).engines.isEmpty) = true ∧
    run (s (tStr b) { r with state := .stopped }) (fun z => (z.die 0).engines.length == 1) = true ∧
    run (s { tStr (tStream 2) with next := 1 } r) (fun z => (z.die 0).engines.isEmpty) = true ∧
    run { s (tStr b) r with tiles := [] } (fun z => (z.die 0).engines.isEmpty) = true ∧
    ((s (tStr b) r).rread 0 0x14000 4).toOption = some (zeros 4) ∧ fieldAt b 32 4 = 64 ∧ (fieldAt b 13 1).testBit 0 = false ∧
    run (s (tStr b) r) (fun z => (z.port 1).reply.length == 1 && decide ((z.die 0).engines.find 3 = some { tStr b with next := 1 })) = true := by decide +kernel

/-- Updates of an element: none, of a stopped region, with a stale handle, a page that faults, one that is no ATTN page, slots at and below LIVE,
a sum that saturates (GlowUpdatesApply). -/
theorem witness_GlowUpdatesApply :
    let g (h slot wt : Word) : Glow := { handle := h, slot := slot, weight := wt }
    let run (gs : List Glow) (p : State → Bool) : Bool := answers (exec (.glowUpdateApply 1) (tGlow tQRegion gs [])) p
    let s := tGlow tQRegion [] []
    let at_ (z : State) (n : Nat) : Nat := z.mem.readN (0x200000 + 62880 + 4 * n) 4
    (s.tile 1).glow = [] ∧ s.ownerOf 1 = some (0, tQRegion) ∧ tQRegion.active = true ∧ s.isHeld 0 (.glow 1) = false ∧
    answers (exec (.glowUpdateApply 1) (tGlow { tQRegion with state := .stopped } [g 1 1 1] [])) (fun z => (z.tile 1).glow.length == 1) = true ∧
    s.attnEntry 0 0x200005 = none ∧ run [g 0x200005 1 0] (fun z => (z.tile 1).glow.isEmpty && z.mem.readN 0x38000 4 == 1) = true ∧
    s.attnEntry 0 0x100005 = some (0x40000000, 0x40000000) ∧ s.attnEntry 0 0x100006 = some (0x40020000, 0x40000000) ∧
    translate s.mem (s.rgXlate tQRegion) 0x40000000 .atomic = .ok (0x200000, 6) ∧ (translate s.mem (s.rgXlate tQRegion) 0x40020000 .atomic).toOption = none ∧
    run [g 0x100006 1 0] (fun z => z.isHeld 0 (.glow 1)) = true ∧ s.attnEntry 0 0x100007 = some (0x20000, 0x20000) ∧
    translate s.mem (s.rgXlate tQRegion) 0x20000 .atomic = .ok (0x20000, 0) ∧ run [g 0x100007 1 0] (fun z => z.mem.readN 0x38000 4 == 1) = true ∧
    attnTailOk (s.mem.read (0x200000 + 63840) 8) = true ∧ run [g 0x100005 2 0x3F800000] (fun z => z.mem.readN 0x38000 4 == 1 && at_ z 2 == 0) = true ∧
    run [g 0x100005 1 0x3F800000] (fun z => at_ z 1 == 0x01000000 && (z.tile 1).glow.isEmpty) = true ∧
    run [g 0x100005 1 0xBF800000] (fun z => at_ z 1 == 0 && z.mem.readN 0x38004 4 == 1) = true ∧
    answers (exec (.glowUpdateApply 1) (tGlow tQRegion [g 0x100005 1 0x7F800000] [(0x200000 + 62884, 1)]))
      (fun z => at_ z 1 == 0xFFFFFFFF && z.mem.get 0x20F962 == 2) = true ∧
    (glowAddend 0x7F800000, glowAddend 0x3F800000, glowAddend 0x80000000) = ((0xFFFFFFFF, false), (0x01000000, false), (0, false)) ∧
    (glowAddend 0xBF800000, glowAddend 0x7FC00000) = ((0, true), (0, true)) := by decide +kernel

/-- Pops of TRIM records: at the quota, without a queue or a record, unreadable, malformed, and with each answer of the object (TrimRuns). -/
theorem witness_TrimRuns_pops :
    let s (cmd : List Byte) : State := tTrimS cmd [] id
    let run (y : State) (p : State → Bool) : Bool := answers (exec (.trimPop 0 0) y) p
    let ended (z : State) (code : Nat) : Bool := (z.part 0).trims.isEmpty && z.mem.readN 0x15006 2 == code
    ((s []).part 0).quota 11 = 1000 ∧ ((s []).part 0).trims.find? (fun x => x.2.q == 0 && x.2.so.isNone && x.2.fail.isNone) = none ∧
    run (tTrimS [] [] (fun P => { P with desc := some { tDesc with quotas := [] } })) (fun z => (z.part 0).trims.isEmpty) = true ∧
    run (tTrimS [] [] (fun P => { P with queues := [] })) (fun z => (z.part 0).trims.isEmpty) = true ∧
    run (tTrimS [] [] (fun P => { P with queues := [(0, tQueue)] })) (fun z => (z.part 0).trims.isEmpty) = true ∧
    run (tTrimS [] [] (fun P => { P with queues := [(0, { tQueue with
      recs := [[{ cont := { code := 0x40000000, frame := 0, join := 0, flags := 8 }, rsv := false, period := none, trim := none }], [], [], []] })] }))
      (fun z => z.isHeld 0 (.trim 0 0)) = true ∧
    trimCmdOk (tTrim 0x100003 32 0x14100) = false ∧ run (s (tTrim 0x100003 32 0x14100)) (fun z => ended z eBADARG) = true ∧
    trimCmdOk (tTrim 0x100003 31 0x14100) = true ∧ ((s []).trimSpares 0 ((s []).queueXlate 0 0) (trimCmd (tTrim 0x100003 31 0x14100))).toOption = some [] ∧
    run (s (tTrim 0x200003 0 0x14100)) (fun z => ended z eSTALE) = true ∧
    run (s (tTrim 0x100004 0 0x14100)) (fun z => (z.part 0).trims.map (·.2.granted) == [false]) = true ∧
    run (s (tTrim 0x100003 0 0x14100)) (fun z => (z.part 0).trims.map (·.2.granted) == [true] && (z.part 0).trims.map (·.2.so) == [some 0x100003]) = true := by
  decide +kernel

/-- Runs: none, failed, not granted, revoked, waiting and too long, with a status, faulting, and done with and without a commit (TrimRuns). -/
theorem witness_TrimRuns_runs :
    let hold : SyncObj := { tFree with holds := [{ who := .trim 0, excl := true, scope := 0, tag := 0 }] }
    let s (cmd : List Byte) (t : Trim) (h : List Held) (so : SyncObj) : State := tTrimS cmd [(0, t)] (fun P => { P with sos := [(3, so)], held := h })
    let run (cmd : List Byte) (t : Trim) (h : List Held) (so : SyncObj) (p : State → Bool) : Bool := answers (exec (.trimExecute 0 0) (s cmd t h so)) p
    let on (cmd : List Byte) : Trim := tRun (some 0x100003) true none cmd
    let ended (z : State) (code : Nat) : Bool := (z.part 0).trims.isEmpty && z.mem.readN 0x15006 2 == code
    let h (age : Nat) : Held := { fid := 5, who := .trim 0 0, rn := 4096, age := age, counts := true }
    let c := tTrim 0x100003 0 0x14100
    answers (exec (.trimExecute 0 1) (s c (on c) [] hold)) (fun z => (z.part 0).trims.length == 1) = true ∧
    run c { on c with fail := some eREVOKED } [] hold (fun z => ended z eREVOKED) = true ∧
    run c { on c with granted := false } [] tFree (fun z => (z.part 0).trims.length == 1) = true ∧ run c (on c) [] tFree (fun z => ended z eREVOKED) = true ∧
    3 ∈ ((s c (on c) [] hold).part 0).heldBy (.trim 0) ∧ run c (on c) [h 0] hold (fun z => (z.part 0).trims.length == 1) = true ∧
    run c (on c) [h (2 ^ 40)] hold (fun z => ended z ePGFLT) = true ∧
    run [] (on (tTrim 0x100003 0 0x14180)) [] hold (fun z => ended z eBADARG) = true ∧
    run c (on (tTrim 0x100003 0 0x40000000)) [] hold (fun z => z.isHeld 0 (.trim 0 0)) = true ∧
    run c (on c) [] hold (fun z => ended z 0 && z.journal.isEmpty) = true ∧
    run c (on (tTrim 0x100003 1 0x14100)) [] hold (fun z => ended z 0 && z.journal.length == 1 && z.mem.readN 0x14100 8 == 0x17000) = true := by decide +kernel

/-- Tokens dropped by rank, ties to the lower position, and by threshold; the first SINK and the last RECENT stay (TrimRuns). -/
theorem witness_TrimRuns_dropped :
    let tok (p c : Nat) : Tok := { pos := p, ctr := c, page := 0, slot := p }
    let ts := [tok 0 0, tok 1 5, tok 2 4, tok 3 4, tok 4 9, tok 5 0]
    let c : TrimCmd := { trimCmd [] with mode := 0, sink := 1, recent := 1, limit := 5 }
    trimDropped c ts = [tok 2 4] ∧ trimDropped { c with limit := 4 } ts = [tok 2 4, tok 3 4] ∧ trimDropped { c with limit := 6 } ts = [] ∧
    trimDropped { c with limit := 0 } ts = [tok 2 4, tok 3 4, tok 1 5, tok 4 9] ∧ trimDropped { c with mode := 1 } ts = [tok 2 4, tok 3 4] := by decide +kernel

/-- An uncorrectable error in the descriptor of a granted trim ends it, in a page that it does not read leaves it (FaultRecordsAndErrors). -/
theorem witness_FaultRecordsAndErrors_trim :
    let hold : SyncObj := { tFree with holds := [{ who := .trim 0, excl := true, scope := 0, tag := 0 }] }
    let c := tTrim 0x100003 0 0x14100
    let s : State := tTrimS c [(0, tRun (some 0x100003) true none c)] (fun P => { P with sos := [(3, hold)] })
    answers (exec (.memoryEccError (.memory 0x14110) false []) s) (fun z => (z.part 0).trims.isEmpty && z.mem.readN 0x15006 2 == ePGFLT) = true ∧
    answers (exec (.memoryEccError (.memory 0x13000) false []) s) (fun z => (z.part 0).trims.length == 1) = true := by decide +kernel

/-- Records written at the ring's last entry, kept where it is full or there is none; parity errors; ECC errors in memory and scratchpads;
scrubbing (FaultRecordsAndErrors). -/
theorem witness_FaultRecordsAndErrors :
    let rec_ : FaultRec := { FaultRec.of fPARITY 0 with fid := 7 }
    let wr (y : State) (p : State → Bool) : Bool := answers (exec (.faultRecordWrite 0) y) p
    let s := tQ tQRegion (at_ 0x13000 [1, 2, 3])
    let run (i : Instr) (p : State → Bool) : Bool := answers (exec i s) p
    let frozen (z : State) : Bool := match z.region? 0 with | some r => decide (r.state = .freezing) && r.frzWhy == 4 | none => false
    wr (tFq [rec_] 0 (fun P => { P with desc := none })) (fun z => (z.part 0).fqWait.length == 1) = true ∧ wr (tFq [] 0 id) (fun z => (z.part 0).fqTail == 0) = true ∧
    wr (tFq [rec_] 63 id) (fun z => (z.part 0).fqWait.length == 1) = true ∧
    wr (tFq [rec_] 63 (fun P => { P with fqHead := 1 })) (fun z => (z.part 0).fqTail == 0 && (z.part 0).irq && !(z.part 0).fqPhase &&
      z.mem.read (0x40000 + 4032) 8 == [7, 0, 0, 0, 0x32, 0, 0, 0x80]) = true ∧
    s.ownerOf 5 = none ∧ run (.parityError (.store 5)) (fun z => nth z.modErr 3 0 == 1) = true ∧ s.ownerOf 1 = some (0, tQRegion) ∧ run (.parityError (.store 1)) frozen = true ∧
    run (.memoryEccError (.scratchpad 1 0) true []) (fun z => z.mem.readN 0x60004 4 == 1) = true ∧
    run (.memoryEccError (.scratchpad 1 0) false []) frozen = true ∧ run (.patrolScrub (.scratchpad 1 0) .doubleBit) frozen = true ∧
    run (.memoryEccError (.scratchpad 5 0) true []) (fun z => decide (z = s)) = true ∧ run (.memoryEccError (.scratchpad 5 0) false []) (fun z => nth z.modErr 3 0 == 1) = true ∧
    run (.memoryEccError (.memory 0x13000) false [0]) (fun z => frozen z && z.mem.readN 0x13000 4 == 0) = true ∧ s.region? 7 = none ∧
    run (.patrolScrub (.memory 0) .clean) (fun z => decide (z = s)) = true ∧ run (.patrolScrub (.memory 0) .singleBit) (fun z => nth z.modErr 2 0 == 1) = true := by decide +kernel

/-- Memory that a partition's stage 2 maps, and memory that none maps (FaultRecordsAndErrors). -/
theorem witness_FaultRecordsAndErrors_owner :
    let s := tQ tQRegion []
    s.paOwner 0x3FFFFFFF = some 0 ∧ s.paOwner 0x40000000 = none := by decide +kernel

/-- Parts that fail: with the period that used them running, and with it run no more, a core's records, a pseudo-channel's lost words
(PartFailures). -/
theorem witness_PartFailures :
    let run (n : Nat) (f : FailedPart) (p : State → Bool) : Bool := answers (exec (.partFailure f [0] [0x13000]) (tJournal n)) p
    let recs (z : State) : Nat := match (z.part 0).queues.find 0 with | some Q => (Q.recs.map (·.length)).sum | none => 0
    openPops (tJournal 9).journal = [(9, 0, 0, 0, { tRec with flags := 0x100 })] ∧ (tJournal 9).usedBy [0] (9, 0, 0, 0, { tRec with flags := 0x100 }) = true ∧
    (∀ x ∈ (tJournal 4).regions, x.2.run.isSome = true → x.2.period ≠ 9) ∧
    ((tJournal 9).regions.find? (fun x => x.2.run.isSome && x.2.period == 9)).isSome = true ∧
    run 4 (.sequencer 0) (fun z => z.failed == [.sequencer 0] && recs z == 1) = true ∧ run 4 (.regionArea 0) (fun z => recs z == 1) = true ∧
    run 4 (.sequencer 1) (fun z => recs z == 0) = true ∧ run 4 (.linkLane 0 1) (fun z => recs z == 1) = true ∧ run 4 (.seamLane 0 1) (fun z => recs z == 1) = true ∧
    run 4 (.lanternCore 2) (fun z => recs z == 1 && z.journal.length == 2) = true ∧
    run 9 (.regionArea 0) (fun z => (z.part 0).fqWait.length == 1) = true ∧
    paDevice 0x13000 = true ∧ paLpddr 0x13000 = false ∧
    run 9 (.pseudoChannel (stackOf 0x13000) (nbits 0x13000 18 11)) (fun z => z.lostPeriods == [9] && z.mem.readN 0x13000 4 == 0) = true ∧
    run 9 (.pseudoChannel (stackOf 0x13000) (nbits 0x13000 18 11 + 1)) (fun z => z.mem.readN 0x13000 4 == 0x030201) = true := by decide +kernel

/-- Answers with a completion word, with none and at an address that faults; calls popped, finished, of an entry that is not VALID, with no block
or no journal entry (ServicesServe). -/
theorem witness_ServicesServe_calls :
    let s := tSvc [tCallC] [] (at_ 0x14000 (tCallB 7))
    let x := s.handleXlate 0 0x100001
    let run (y : State) (svc : Nat) (p : State → Bool) : Bool := answers (exec (.serviceCall 0 svc 5 0x77) y) p
    (vwrite s.mem x 0x15000 (leBytes 0x77 8)).toOption.isSome = true ∧ (vwrite s.mem x 0x40000000 (leBytes 0x77 8)).toOption = none ∧
    (s.svcAnswer 0 x tCallC 0 0x77).isSome = true ∧ (s.svcAnswer 0 x tCallC 0x40000000 0x77).isNone = true ∧
    s.hartOut 5 = false ∧ (s.hart 5).wait = none ∧ s.openCalls 0 2 = [] ∧ (s.popCall 0 5 (s.svcEntry 0 2)).isSome = true ∧
    s.callOf 2 x tCallC = some { num := 7, arg := 0x16000, compl := 0x15000, ok := true } ∧
    svcValid (s.svcEntry 0 2) = true ∧ svcValid (s.svcEntry 0 3) = false ∧ s.freeCall 0 (s.svcEntry 0 2) = some 0 ∧
    run s 2 (fun z => z.openCalls 0 2 == [(0, tCallC)] && z.mem.readN 0x69200 8 == 2 ^ 32 + 7 && z.journal.length == 1) = true ∧
    run (tSvc [] [(2, { hart := 5, left := 9, calls := [(0, tCallC)] })] (at_ 0x69200 (leBytes 7 4 ++ [1]))) 2 (fun z => z.mem.readN 0x69200 8 == 2 * 2 ^ 32 + 7) = true ∧
    run (tSvc [] [] []) 2 (fun z => z.journal.isEmpty) = true ∧
    run (tSvc [{ tCallC with frame := 0x40000000 }] [] []) 2 (fun z => z.journal.isEmpty) = true ∧
    run (tSvc [tCallC] [] (at_ 0x14000 (tCallB 7) ++ at_ 0x69204 [1])) 2 (fun z => z.journal.isEmpty && z.mem.readN 0x15000 8 == 0) = true ∧
    run (tSvc [tCallC] [(2, { hart := 5, left := 9, calls := [(0, tCallC)] })] (at_ 0x69200 (leBytes 7 4 ++ [2]) ++ at_ 0x69218 (leBytes 0x15000 8))) 2
      (fun z => z.mem.readN 0x15000 8 == 0x77 && z.mem.readN 0x69200 8 == 3 * 2 ^ 32 + 7 && (z.openCalls 0 2).isEmpty) = true ∧
    run s 0 (fun z => z.openCalls 0 0 == [(0, tCallC)]) = true ∧ run (tSvc [tCallC] [] (at_ 0x14000 (tCallB 2))) 1 (fun z => z.openCalls 0 1 == [(0, tCallC)]) = true ∧
    run (tSvc [tCallC] [] (at_ 0x14000 (tCallB 3))) 1 (fun z => (z.openCalls 0 1).isEmpty && z.mem.readN 0x15000 8 == (errWord eBADARG).toNat) = true ∧
    run (tSvc [tCallC] [] (at_ 0x14000 (tCallB 7))) 3 (fun z => z.mem.readN 0x15000 8 == (errWord eBADARG).toNat) = true ∧
    run { s with fuses := { Fuses.allGood with cores := [5] } } 2 (fun z => z.journal.isEmpty) = true := by decide +kernel

/-- Storage calls: another core's, a bad argument block, reads from the cache, from the namespace and with an error, writes and PERSIST
(ServicesServe). -/
theorem witness_ServicesServe_storage :
    let s := tStore 0 (tArg 1 0 1 0x18000) []
    let x := s.handleXlate 0 (svcQueue (s.svcEntry 0 1))
    let a : StoreArg := { ns := 1, durable := false, lba := 4, nlb := 1, size := 512, buf := 0x18000 }
    let blk : CacheBlock := { ns := 1, lba := 4, bytes := [], durable := false }
    let err : NvmeReply := { error := true, bytes := [] }
    s.callFor 0 1 6 (s.svcEntry 0 1) 0 0x16000 = none ∧ s.callFor 0 1 5 (s.svcEntry 0 1) 0 0x16000 = some (0, tCallC) ∧
    (tStore 1 (tArg 1 1 1 0x18000) []).callFor 0 1 5 (s.svcEntry 0 1) 1 0x16000 = some (0, tCallC) ∧
    (tStore 2 (tArg 1 0 0 0) []).callFor 0 1 5 (s.svcEntry 0 1) 2 0x16000 = some (0, tCallC) ∧
    vread s.mem x 0x16000 64 = .ok (tArg 1 0 1 0x18000) ∧ s.storeArg 0 0 (tArg 1 1 1 0x18000) = none ∧ s.storeArg 0 0 (tArg 2 0 1 0x18000) = none ∧
    s.storeArg 0 0 (tArg 1 0 65537 0x18000) = none ∧ s.storeArg 0 0 (tArg 1 0 1 0x18000) = some a ∧ s.storeArg 0 1 (tArg 1 1 1 0x18000) = some { a with durable := true } ∧
    s.storeArg 0 2 (tArg 1 0 0 0) = some { a with nlb := 0, buf := 0 } ∧ (s.part 0).allCached a = false ∧
    ((tStore 0 [] [blk]).part 0).allCached a = true ∧ (s.part 0).cached 1 4 = none ∧
    answers (exec (.storageRead 0 5 0x16000 err) s) (fun z => (z.openCalls 0 1).isEmpty && z.mem.readN 0x69110 8 == (errWord eIOERR).toNat) = true ∧
    answers (exec (.storageRead 0 5 0x16000 { err with error := false }) s) (fun z => z.mem.readN 0x69100 5 == 2 * 2 ^ 32 && (z.openCalls 0 1).length == 1) = true ∧
    answers (exec (.storageRead 0 5 0x16000 { err with error := false }) (tStore 0 (tArg 1 0 1 0x18000) [{ blk with bytes := [1, 2] }]))
      (fun z => (z.openCalls 0 1).isEmpty && z.mem.readN 0x18000 2 == 0x201) = true ∧
    answers (exec (.storagePersist 0 5 0x16000 { err with error := false }) (tStore 2 (tArg 1 0 0 0) [blk]))
      (fun z => (z.openCalls 0 1).isEmpty && (z.part 0).cache.all (·.durable)) = true ∧
    answers (exec (.storagePersist 0 5 0x16000 err) (tStore 2 (tArg 1 0 0 0) [blk])) (fun z => !(z.part 0).cache.all (·.durable)) = true := by decide +kernel

/-- A write of one block, durable and not, with and without an error of the namespace (ServicesServe). -/
theorem witness_ServicesServe_writes :
    let s := tStore 1 (tArg 1 1 1 0x18000) []
    let x := s.handleXlate 0 (svcQueue (s.svcEntry 0 1))
    (vread s.mem x 0x18000 512).toOption.isSome = true ∧ (vwrite s.mem x 0x18000 (zeros 512)).toOption.isSome = true ∧
    answers (exec (.storageWrite 0 5 0x16000 { error := false, bytes := [] }) s) (fun z => (z.part 0).cache.map (·.durable) == [true]) = true ∧
    answers (exec (.storageWrite 0 5 0x16000 { error := true, bytes := [] }) s) (fun z => (z.part 0).cache.map (·.durable) == [false]) = true := by decide +kernel

/-- Placement requests: none, out of range, and of an object that does not conform; watchdogs that run and that have run down (ServicesServe). -/
theorem witness_ServicesServe_mapper :
    let s (b : List Byte) (svcs : Tbl Service) : State := tSvc [] svcs (at_ 0x14000 b)
    let on (left : Nat) (calls : List (Nat × Cont)) : Tbl Service := [(0, { hart := 5, left := left, calls := calls })]
    let y := s (tPlace 1) (on 9 [(0, tCallC)])
    y.callFor 0 0 5 (y.svcEntry 0 0) 0 0x16000 = none ∧
    (let z := { y with mem := putPieces y.mem [(0x69000, 16)] (leBytes 0 4 ++ [1, 0, 0, 0] ++ leBytes 0x14000 8) }
     z.callFor 0 0 5 (z.svcEntry 0 0) 0 0x14000 = some (0, tCallC) ∧ (vread z.mem (z.handleXlate 0 0x100001) 0x14000 64).toOption = some (tPlace 1) ∧
     reqOk (tPlace 1) = false ∧ reqOk (tPlace 2) = true ∧ reqOk (tPlace 640) = true ∧ reqOk (tPlace 641) = false ∧ objCheck [] = some 0 ∧
     (readObject z.mem (z.handleXlate 0 0x100001) 0x14000).toOption = some (tPlace 1)) ∧
    answers (exec (.serviceWatchdogExpiry 0 1) y) (fun z => (z.part 0).fqWait.isEmpty) = true ∧
    answers (exec (.serviceWatchdogExpiry 0 0) y) (fun z => (z.part 0).fqWait.isEmpty) = true ∧
    answers (exec (.serviceWatchdogExpiry 0 0) (s [] (on 0 []))) (fun z => (z.part 0).fqWait.length == 1 && (z.hart 5).pc == 1 &&
      ((z.part 0).svcs.find 0).map (·.left) == some 42000000) = true := by decide +kernel

/-- A list of checks whose first fails names an offset. -/
theorem firstBad_head (l : List (Nat × Bool)) (o : Nat) : firstBad ((o, false) :: l) ≠ none := by
  have h : ∀ (l : List (Nat × Bool)) (k : Nat), l.foldl (fun a x => if x.2 then a else match a with | some o => some (min o x.1) | none => some x.1) (some k) ≠ none := by
    intro l
    induction l with
    | nil => simp
    | cons x l ih => intro k; simp only [List.foldl_cons]; split <;> exact ih _
  exact h l o

/-- An object whose first bytes are no graph object's does not conform (ServicesServe). -/
theorem witness_ServicesServe_object : objCheck (tPlace 1) ≠ none := by
  unfold objCheck
  rw [if_neg (by decide)]
  split
  · simp
  · rename_i h
    exact absurd h (firstBad_head _ 0)

/-- The least object: a CANON of no nodes, its hash in the header; and one with a SIG section naming key 9. -/
def tCanon : List Byte := zeros 12 ++ leBytes 16 4
def tObj : List Byte :=
  leBytes 0x4F474456 4 ++ leBytes 1 2 ++ leBytes 0 2 ++ leBytes 1 2 ++ zeros 2 ++ leBytes 96 4 ++ sha3Bytes tCanon ++ zeros 16 ++
  (leBytes 1 2 ++ zeros 2 ++ leBytes 80 4 ++ leBytes 16 4 ++ zeros 4) ++ tCanon
def tSigned : List Byte :=
  leBytes 0x4F474456 4 ++ leBytes 1 2 ++ leBytes 1 2 ++ leBytes 2 2 ++ zeros 2 ++ leBytes 224 4 ++ sha3Bytes tCanon ++ zeros 16 ++
  (leBytes 1 2 ++ zeros 2 ++ leBytes 96 4 ++ leBytes 16 4 ++ zeros 4) ++ (leBytes 15 2 ++ zeros 2 ++ leBytes 112 4 ++ leBytes 112 4 ++ zeros 4) ++
  tCanon ++ (leBytes 9 8 ++ zeros 96 ++ leBytes 4 4 ++ zeros 4)

/-- Objects that conform: the hash in the header is that of their CANON. -/
theorem test_objects_conform : objCheck tObj = none ∧ objCheck tSigned = none := by
  have a : (sha3Bytes (objCanon tObj) == (tObj.drop 16).take 32) = true := by
    have h : objCanon tObj = tCanon := by decide +kernel
    have k : (tObj.drop 16).take 32 = sha3Bytes tCanon := rfl
    rw [h, k]; simp
  have b : (sha3Bytes (objCanon tSigned) == (tSigned.drop 16).take 32) = true := by
    have h : objCanon tSigned = tCanon := by decide +kernel
    have k : (tSigned.drop 16).take 32 = sha3Bytes tCanon := rfl
    rw [h, k]; simp
  constructor
  · unfold objCheck headerChecks
    rw [a]
    decide +kernel
  · unfold objCheck headerChecks
    rw [b]
    decide +kernel

/-- The moves of a cached placement that R187 and R188 work out: XATT, EATT and PSECT by (2, 0) and by (6, 0), and out of the module by (510, 0). -/
theorem test_placement_moves :
    let e : Placement := { key := [], canon := [], wd := 8, ht := 8, ox := 100, oy := 40, dmver := 0, pos := [(0, 0)]
                           switches := [(0, [(0xD5, 0x882), (0xE4, 0x8214), (0xE8, 0x8000C06E)])], words := [] }
    (e.movedTo 102 40 = some ([(0, 0)], [(0, [(0xD5, 0x884), (0xE4, 0x8214), (0xE8, 0x8000C070)])])) ∧
    ((e.movedTo 106 40).map (fun q => q.2.map (fun x => x.2.map (·.2))) = some [[0x888, 0x8215, 0x8000C074]]) ∧ e.movedTo 610 40 = none := by
  decide +kernel

/-- A placement that the cache holds under the key of a request, and its object (ServicesServe). -/
theorem witness_ServicesServe_hit :
    let z : State := tQ tQRegion []
    let key := z.placeKey (objCanon tObj) 2 2 0 0
    let pl : Placement := { key := key, canon := objCanon tObj, wd := 2, ht := 2, ox := 0, oy := 0, dmver := z.dmver, pos := [], switches := [], words := [0] }
    let s := z.cachePlace 0 pl
    objCheck tObj = none ∧ reqOk (tPlace 2) = true ∧ (fieldAt (tPlace 2) 16 4).testBit 0 = false ∧ 64 + 4 * pl.words.length ≤ fieldAt (tPlace 2) 32 4 ∧
    fieldAt (tPlace 2) 10 2 = 2 ∧ fieldAt (tPlace 2) 12 2 = 0 ∧ fieldAt (tPlace 2) 14 2 = 0 ∧
    (s.part 0).placed.find? (fun e => e.key == s.placeKey (objCanon tObj) 2 2 0 0) = some pl := by
  refine ⟨test_objects_conform.1, by decide +kernel, by decide +kernel, by decide +kernel, by decide +kernel, by decide +kernel, by decide +kernel, ?_⟩
  exact (congrArg (List.find? _) (show _ = [_] from rfl)).trans (List.find?_cons_of_pos (by exact beq_self_eq_true _))

/-- Bytes listed one by one from an address. -/
def tCells (a : Nat) : List Byte → Memory
  | [] => []
  | b :: t => (a, b) :: tCells (a + 1) t

theorem read_cells (pre post : Memory) (a : Nat) (bs : List Byte) (h : ∀ c ∈ pre, c.1 < a) (n : Nat) (hn : n ≤ bs.length) :
    Memory.read (pre ++ tCells a bs ++ post) a n = bs.take n := by
  induction bs generalizing pre a n with
  | nil => simp at hn; subst hn; rfl
  | cons b t ih =>
    cases n with
    | zero => rfl
    | succ n =>
      have g : ∀ (p q : Memory), (∀ c ∈ p, c.1 < a) → Memory.get (p ++ (a, b) :: q) a = b := by
        intro p q hp
        induction p with
        | nil => simp [Memory.get]
        | cons c p ihp =>
          have := hp c (by simp)
          obtain ⟨k, v⟩ := c
          simp only [List.cons_append, Memory.get]
          rw [if_neg (by simp at this; omega), if_neg (by simp at this; omega)]
          exact ihp (fun c hc => hp c (by simp [hc]))
      have e : pre ++ tCells a (b :: t) ++ post = (pre ++ [(a, b)]) ++ tCells (a + 1) t ++ post := by simp [tCells]
      rw [Memory.read, List.take_succ_cons]
      congr 1
      · rw [tCells, List.append_assoc, List.cons_append]; exact g pre _ h
      · rw [e]
        exact ih (pre ++ [(a, b)]) (a + 1) (by
          intro c hc
          rcases List.mem_append.1 hc with hc | hc
          · exact Nat.lt_succ_of_lt (h c hc)
          · simp at hc; subst hc; exact Nat.lt_succ_self a) n (by simpa using hn)

/-- A hart of the guest kernel with a region and an object at 0x14000. -/
def tLoad (r : Region) (obj : List Byte) : State :=
  { tQ tQRegion [] with
    regions := [(0, r)]
    mem := tPT ++ tCells 0x14000 obj ++ tClass
    harts := [(0, { tHart with mode := .vs, vsatp := 0xE000000000000010 })] }
def tClaimed : Region := { tQRegion with state := .claimed }

/-- An object that stands in one granule reads as its bytes. -/
theorem object_reads (r : Region) (obj : List Byte) (x : Xlate) (h : 64 ≤ obj.length) (hn : fieldAt (obj.take 64) 12 4 = obj.length)
    (h64 : locate (tLoad r obj).mem x .read 0x14000 (piecesOf 0x14000 64) = .ok [(0x14000, 64)])
    (hl : locate (tLoad r obj).mem x .read 0x14000 (piecesOf 0x14000 obj.length) = .ok [(0x14000, obj.length)]) :
    readObject (tLoad r obj).mem x 0x14000 = .ok obj := by
  have k : ∀ n ≤ obj.length, (tLoad r obj).mem.read 0x14000 n = obj.take n :=
    fun n hn => read_cells tPT tClass 0x14000 obj (by decide) n hn
  have v64 : vread (tLoad r obj).mem x 0x14000 64 = .ok (obj.take 64) := by
    rw [vread, h64]; simp [Except.map, k 64 h]
  have vl : vread (tLoad r obj).mem x 0x14000 obj.length = .ok obj := by
    rw [vread, hl]; simp [Except.map, k _ le_rfl]
  rw [readObject, v64]
  simp only
  rw [hn]
  split
  · rw [show obj.length = 64 by omega] at vl
    rw [← v64, vl]
  · exact vl

/-- Objects that read, of which one is refused for want of a signature, one names no trusted key, and one is not refused (LoadsAndBoot). -/
theorem witness_LoadsAndBoot_objects :
    (let s := tLoad tClaimed tObj
     readObject s.mem (s.hart 0).xlate 0x14000 = .ok tObj) ∧
    (let s := tLoad tClaimed tSigned
     readObject s.mem (s.hart 0).xlate 0x14000 = .ok tSigned) := by
  constructor
  · exact object_reads _ _ _ (by decide +kernel) (by decide +kernel) (by decide +kernel) (by decide +kernel)
  · exact object_reads _ _ _ (by decide +kernel) (by decide +kernel) (by decide +kernel) (by decide +kernel)

/-- The loader: hypotheses on the region and the hart, an object that faults, refusals of each kind, and none (LoadsAndBoot). -/
theorem witness_LoadsAndBoot_loader :
    let s := tLoad tClaimed tObj
    let sig (y : State) : State := y.setPart 0 { y.part 0 with desc := some { tDesc with reqsig := true } }
    let key : List Byte := leBytes 9 8 ++ zeros 184
    let keyed := { tLoad tClaimed tSigned with mem := tPT ++ tCells 0x14000 tSigned ++ tClass ++ tCells 0xB0000 key }
    (s.region? 0 = some tClaimed ∧ (s.hart 0).wait = none ∧ s.hartOut 0 = false ∧ 1 ≤ (s.hart 0).mode.level ∧ tClaimed.part = (s.hart 0).actPart ∧
      tClaimed.freeing = false ∧ tClaimed.loadingFrom 0x40000 = false ∧ (0x40000 : Dword).toNat % 64 = 0) ∧
    (readObject s.mem (s.hart 0).xlate 0x40000000).toOption = none ∧
    answers (exec (.loaderLoad 0 0 0x40000000 0x40000) (s.setHart 0 { s.hart 0 with vsatp := 0xE000000000000010 })) (fun z => decide ((z.hart 0).mode = .hs) || decide ((z.hart 0).mode = .m)) = true ∧
    (fieldAt tObj 6 2).testBit 0 = false ∧ (((sig s).part 0).desc.map (·.reqsig)) = some true ∧ (fieldAt tSigned 6 2).testBit 0 = true ∧
    ((objPart tSigned 15).getD []).take 8 = leBytes 9 8 ∧ (tLoad tClaimed tSigned).trustedKey 0 (leBytes 9 8) = none ∧
    keyed.trustedKey 0 (leBytes 9 8) = some key := by decide +kernel

/-- An object without a signature is not refused where none is required (LoadsAndBoot). -/
theorem witness_LoadsAndBoot_taken : (tLoad tClaimed tObj).loadRefusal 0 tObj = none := by
  rw [State.loadRefusal, test_objects_conform.1]
  decide +kernel

/-- An image of a kind with no payload, of security version 5, and fuses that hold the hashes of its keys. -/
def tFw (kind : Nat) : List Byte := leBytes 0x57464456 4 ++ leBytes 1 2 ++ leBytes kind 2 ++ leBytes 5 4 ++ zeros 52 ++ zeros 253
def tFuses (svn : Nat) : Fuses :=
  { Fuses.allGood with keyHash := leBytes (Config.sha384 (zeros 97)).toNat 48, lmsHash := leBytes (Config.sha256 (zeros 56)).toNat 32, minSvn := svn }

/-- Images: of a wrong header, with keys that are those of the fuses, below the least security version, and as they are verified or not; and windows
written once firmware runs (LoadsAndBoot). -/
theorem witness_LoadsAndBoot_images :
    let fused := { State.reset with fuses := tFuses 5 }
    headerOk (tFw 0) 0 = true ∧ headerOk (tFw 1) 0 = false ∧ headerOk (tFw 1) 1 = true ∧ fieldAt (tFw 0) 8 4 = 5 ∧ fused.fuses.minSvn = 5 ∧
    answers (exec (.firmwareImageVerify 1 { bytes := tFw 1 }) State.reset) (fun z => z.bootstat == 2 && z.lastWin == 1 && z.firmware.isNone) = true ∧
    answers (exec (.firmwareImageVerify 1 { bytes := [1] }) { State.reset with firmware := some [] }) (fun z => decide (nth z.staging 1 [] = [1])) = true := by decide +kernel

/-- The keys of the image are those of the fuses, whatever the hashes (LoadsAndBoot). -/
theorem witness_LoadsAndBoot_keys :
    leBytes (Config.sha384 (((tFw 0).drop (64 + 0)).take 97)).toNat 48 = (tFuses 5).keyHash ∧
    leBytes (Config.sha256 (((tFw 0).drop (64 + 0 + 97)).take 56)).toNat 32 = (tFuses 5).lmsHash := by
  constructor <;> rfl

/-- With these fuses an image is rejected with 4 or 5, or accepted, as its version and its signatures say (LoadsAndBoot). -/
theorem test_image_outcomes :
    (State.imageFault { State.reset with fuses := tFuses 6 } (tFw 0) 0 = some 4) ∧
    (State.imageFault { State.reset with fuses := tFuses 5 } (tFw 0) 0 = if imageSigned (tFw 0) then none else some 5) := by
  have h : headerOk (tFw 0) 0 = true := by decide +kernel
  have p : imPlen (tFw 0) = 0 := by decide +kernel
  have a : imTail (tFw 0) 0 97 = zeros 97 := by decide +kernel
  have b : imTail (tFw 0) 97 56 = zeros 56 := by decide +kernel
  have v : fieldAt (tFw 0) 8 4 = 5 := by decide +kernel
  constructor
  · simp [State.imageFault, h, a, b, v, tFuses]
  · simp [State.imageFault, h, a, b, v, tFuses]
    cases imageSigned (tFw 0) <;> rfl

/-- Hypervisor images of a leader and of the leader followed, timeouts of followers, and leaders that meet (LoadsAndBoot). -/
theorem witness_LoadsAndBoot_leaders :
    let up := { State.reset with firmware := some [], selfOk := true, nmod := 3 }
    let lead := { up with leader := true, epoch := { epoch := 2, id := 0 }, best := some { epoch := 2, id := 0 } }
    let follow := { up with best := some { epoch := 2, id := 9 } }
    let load (s : State) (e : Nat) (p : State → Bool) : Bool := answers (exec (.hypervisorImageLoad 1 (tFw 0) e 9) s) p
    let heal (s : State) (e : Nat) (p : State → Bool) : Bool := answers (exec (.leaderHeal e 9) s) p
    load State.reset 2 (fun z => z.bootstat == 0) = true ∧ load follow 3 (fun z => z.bootstat == 0) = true ∧
    load follow 2 (fun z => z.bootstat == 2 && z.lastWin == 1) = true ∧ load lead 7 (fun z => z.bootstat == 2) = true ∧
    lead.imageFault (tFw 0) 1 = some 2 ∧
    answers (exec .followerLoadTimeout up) (fun z => z.epoch.epoch == 0) = true ∧ answers (exec .followerLoadTimeout lead) (fun z => z.epoch.epoch == 2) = true ∧
    answers (exec .followerLoadTimeout follow) (fun z => z.epoch.epoch == 3 && decide (z.best = some { epoch := 3, id := 0 })) = true ∧
    heal lead 2 (fun z => z.epoch.epoch == 3) = true ∧ heal lead 1 (fun z => z.epoch.epoch == 3) = true ∧
    heal lead 3 (fun z => decide (z.best = some { epoch := 3, id := 9 }) && !z.leader) = true ∧
    follow.beats { epoch := 3, id := 9 } = true ∧ follow.beats { epoch := 2, id := 9 } = false ∧
    heal { follow with hvImage := some [], loadedBy := some 7 } 3 (fun z => z.hvImage.isNone && z.firmware.isNone && decide (z.best = some { epoch := 3, id := 9 })) = true ∧
    heal { follow with loadedBy := some 9 } 3 (fun z => z.firmware.isSome) = true ∧
    heal { follow with loadedBy := some 7 } 1 (fun z => z.firmware.isSome) = true ∧ heal follow 3 (fun z => z.firmware.isSome) = true := by decide +kernel

/-- A flit of a type with SEQ, ACK, beats, slot, credit and payload, its CRC right. -/
def tFlitHead (seq ack type nbeat slot credit : Nat) (payload : List Byte) : List Byte :=
  leBytes seq 2 ++ leBytes ack 2 ++ leBytes type 1 ++ leBytes nbeat 1 ++ leBytes slot 2 ++ leBytes credit 4 ++
  (payload ++ List.replicate (240 - payload.length) 0)
def tFlit (seq ack type nbeat slot credit : Nat) (payload : List Byte) : List Byte :=
  tFlitHead seq ack type nbeat slot credit payload ++ leBytes (crc32 (tFlitHead seq ack type nbeat slot credit payload)).toNat 4

/-- A flit's CRC is that of its first 252 bytes. -/
theorem flit_good (b : List Byte) (h : b.length = 252) :
    fieldAt (b ++ leBytes (crc32 b).toNat 4) 252 4 = (crc32 ((b ++ leBytes (crc32 b).toNat 4).take 252)).toNat := by
  have l : (leBytes (crc32 b).toNat 4).length = 4 := by simp [leBytes]
  rw [List.take_append_of_le_length (by omega), List.take_of_length_le (by omega)]
  unfold fieldAt
  rw [← h, List.drop_left, List.take_of_length_le (by omega), leNat_leBytes, Nat.mod_eq_of_lt (by have := (crc32 b).isLt; omega)]

/-- The port 4 up, expecting SEQ 5, with flits 3 and 4 not acknowledged. -/
def tAk (up : Bool) : State :=
  { tQ tQRegion [] with
    akend := [(4, { Akend.reset with up := up, rxSeq := 5, txSeq := 5, retry := [leBytes 3 2, leBytes 4 2] })]
    epoch := { epoch := 2, id := 0 }, best := some { epoch := 2, id := 7 } }

/-- The fields of flits of each type, and their CRCs (AkendFlits). -/
theorem witness_AkendFlits_fields :
    (∀ t ∈ [0, 1, 2, 3, 4, 5, 255], let f := tFlit 5 3 t 1 9 0x10009 (voteBytes { epoch := 2, id := 6 } 3 none)
      fieldAt f 0 2 = 5 ∧ fieldAt f 2 2 = 3 ∧ fieldAt f 4 1 = t ∧ fieldAt f 5 1 = 1 ∧ fieldAt f 6 2 % 1024 = 9) ∧
    (fieldAt (tFlit 5 3 3 0 0 0 (voteBytes { epoch := 2, id := 6 } 3 none)) 26 1).testBit 0 = false ∧
    (fieldAt (tFlit 5 3 3 0 0 0 (voteBytes { epoch := 2, id := 6 } 3 (some 8))) 26 1).testBit 0 = true ∧
    ((tAk true).ak 4).up = true ∧ ((tAk true).ak 4).rxSeq = 5 ∧ (tAk true).linkAt 4 9 = none ∧
    (∀ b, (tAk true).best = some b → b.epoch < 2 ∨ (2 = b.epoch ∧ (6 : Dword).toNat < b.id.toNat)) := by
  refine ⟨by decide +kernel, by decide +kernel, by decide +kernel, by decide +kernel, by decide +kernel, by decide +kernel, ?_⟩
  intro b h
  cases h
  decide

theorem witness_AkendFlits_good (t : Nat) (p : List Byte) (h : p.length ≤ 240) :
    fieldAt (tFlit 5 3 t 1 9 0x10009 p) 252 4 = (crc32 ((tFlit 5 3 t 1 9 0x10009 p).take 252)).toNat := by
  refine flit_good _ ?_
  simp [tFlitHead, leBytes]
  omega

/-- Ports that are down, flits with a wrong CRC (AkendFlits). -/
theorem witness_AkendFlits_bad :
    ((tAk false).ak 4).up = false ∧ answers (exec (.akendIdleFlit 4 [1]) (tAk false)) (fun z => decide (z = tAk false)) = true ∧
    fieldAt [1] 252 4 ≠ (crc32 ([1].take 252)).toNat ∧ answers (exec (.akendIdleFlit 4 [1]) (tAk true)) (fun z => (z.ak 4).retries == 1 && (z.ak 4).out.length == 1) = true := by
  decide +kernel

/-- Commands taken and carried out, kept back and refused (CollectivesRun). -/
theorem witness_CollectivesRun_steps :
    let g := tGroup 20 0
    let c (r : Nat) : List Byte := tCmd 0 3 r 1
    let s := tColl (c 0) g [] [tOn (c 1) 0 none]
    let bad := tColl (tCmd 4 3 0 1) g [] []
    let faulty := s.setPart 0 { s.part 0 with desc := some { tDesc with coldesc := 0x40000000 } }
    s.collHeld 0 0 = none ∧ s.nextCmd 0 0 = .ok (some (c 0)) ∧ cmdOk (c 0) = true ∧ cmOp (c 0) = 0 ∧ (s.collOf 0 0).find? (fun c => c.ended.isNone && cmOp c.cmd == 0) = none ∧
    answers (exec (.allreduce 0 0 []) s) (fun z => z.mem.readN 0x17000 4 == 12 && z.mem.readN 0x17040 4 == 12 &&
      (z.collOf 0 0).map (·.ended) == [some (0, 0)] && (z.collOf 0 1).map (·.ended) == [some (0, 0)]) = true ∧
    answers (exec (.reduce 0 0 []) s) (fun z => (z.collOf 0 0).isEmpty) = true ∧
    ((tColl (c 0) g [tOn (c 0) 0 none] []).collOf 0 0).find? (fun c => c.ended.isNone && cmOp c.cmd == 0) = some (tOn (c 0) 0 none) ∧
    answers (exec (.allreduce 0 1 []) { s with colls := [] }) (fun z => z.colls.isEmpty) = true ∧
    faulty.nextCmd 0 0 = .error { kind := .page, stage := 2, ga := 0x40000000 } ∧ answers (exec (.broadcast 0 0 []) faulty) (fun z => z.isHeld 0 (.coll 0 0)) = true ∧
    bad.nextCmd 0 0 = .ok (some (tCmd 4 3 0 1)) ∧ cmdOk (tCmd 4 3 0 1) = false ∧
    answers (exec (.collectiveReservedCode 0 0) bad) (fun z => (z.collOf 0 0).map (·.ended) == [some (eBADARG, 0)]) = true ∧
    answers (exec (.collectiveReservedCode 0 0) s) (fun z => (z.collOf 0 0).isEmpty) = true := by decide +kernel

/-- What a command comes to: a bad group, ranks of other modules without and with a link, ranks that have not matched, and all matched
(CollectivesRun). -/
theorem witness_CollectivesRun_groups :
    let c (r : Nat) : List Byte := tCmd 0 3 r 1
    let s (g : List Byte) (b : List Coll) : State := tColl (c 0) g [tOn (c 0) 0 none] b
    let g := tGroup 20 0
    let up (y : State) : State := { y with akend := [(4, { Akend.reset with up := true })] }
    groupOk (tGroup 19 0) (c 0) = false ∧ groupOk (tGroup 41 0) (c 0) = false ∧ groupOk (tGroup 40 0) (c 0) = true ∧ groupOk g (c 0) = true ∧
    (s g []).readGroup 0 (cmGroup (c 0)) = .ok g ∧ (s (tGroup 20 3) []).readGroup 0 (cmGroup (c 0)) = .ok (tGroup 20 3) ∧
    fieldAt (tGroup 20 3) (64 + 8 * 1) 8 % 256 ≠ (s g []).podNum ∧ (∀ i ∈ [0, 1], fieldAt g (64 + 8 * i) 8 % 256 = (s g []).podNum) ∧
    ((s (tGroup 20 3) []).collDo 0 0 (c 0) []).map (fun z => (z.collOf 0 0).map (·.ended)) = some [some (0x13, 0)] ∧
    ((s (tGroup 19 0) []).collDo 0 0 (c 0) []).map (fun z => (z.collOf 0 0).map (·.ended)) = some [some (eBADARG, 0)] ∧
    ((s g []).collDo 0 0 (c 0) []).isNone = true ∧ ((s g [tOn (c 1) 0 none]).collDo 0 0 (c 0) []).isSome = true ∧
    ((s g []).rankData g (c 0) [] 1).isNone = true ∧ ((s g [tOn (c 1) 0 none]).rankData g (c 0) [] 0).bind (·.toOption) = some [5, 0, 0, 0] ∧
    ((s g [tOn (c 1) 0 none]).rankData g (c 0) [] 1).bind (·.toOption) = some [7, 0, 0, 0] ∧
    ((up (s (tGroup 20 3) [])).rankData (tGroup 20 3) (c 0) [{ rank := 1, bytes := [8, 0, 0, 0] }] 1).bind (·.toOption) = some [8, 0, 0, 0] ∧ grN g = 2 := by decide +kernel

/-- Ends and timeouts (CollectivesRun). -/
theorem witness_CollectivesRun_ends :
    let c : List Byte := tCmd 0 3 0 1
    let s (x : Coll) : State := tColl c (tGroup 20 0) [x] []
    let far := { tOn (c.take 48 ++ leBytes 0x40000000 8 ++ zeros 8) 0 (some (0, 5)) with age := 0 }
    (s (tOn c 0 (some (0, 5)))).collHeld 0 0 = none ∧
    answers (exec (.collectiveDone 0 0) (s (tOn c 0 (some (0, 5))))) (fun z => z.mem.readN 0x18000 8 == 2 ^ 63 + 5 * 65536 && (z.collOf 0 0).isEmpty) = true ∧
    answers (exec (.collectiveDone 0 0) (s (tOn c 0 none))) (fun z => (z.collOf 0 0).length == 1) = true ∧
    answers (exec (.collectiveDone 0 0) (s far)) (fun z => z.isHeld 0 (.coll 0 0)) = true ∧
    answers (exec (.collectiveTimeout 0 0) (s (tOn c (2 ^ 20) (some (0, 0))))) (fun z => (z.collOf 0 0).map (·.ended) == [some (0, 0)]) = true ∧
    (s (tOn c (2 ^ 20) none)).readGroup 0 (cmGroup c) = .ok (tGroup 20 0) ∧ fieldAt (tGroup 20 0) 4 1 = 20 ∧
    answers (exec (.collectiveTimeout 0 0) (s (tOn c (2 ^ 20 - 1) none))) (fun z => (z.collOf 0 0).map (·.ended) == [none]) = true ∧
    answers (exec (.collectiveTimeout 0 0) (s (tOn c (2 ^ 20) none))) (fun z => (z.collOf 0 0).map (·.ended) == [some (0x14, 0)]) = true := by decide +kernel

/-- Sums of three values in group order: those of the tree (CollectivesRun). -/
theorem test_fast_sums :
    (reduceElem 0 0 [0x3F800000, 0x40000000, 0x40400000]).1 = 0x40C00000 ∧ (reduceElem 3 1 [0xFFFFFFFF, 4, 2]).1 = 0xFFFFFFFF := by decide +kernel

/-- Memory in its canonical form at reset, and a step from there (StepKeepsMemoryCanonical, ResetHolds). -/
theorem witness_StepKeepsMemoryCanonical :
    State.reset.memOk ∧ answers (step State.reset) (fun z => z.mem.wf) = true := by
  unfold State.memOk; decide +kernel

/-- Words of a stream: each kind, an element write that is taken, one refused, a CRC that does not match, and the end (StreamWords). -/
theorem witness_StreamWords :
    let s (f : Install → Install) : State := tQ (tIw f) []
    let i := (tIw id).inst.getD tInstC
    let new (i : Install) : Install := { i with begun := false, win := none }
    let next (o : Host.Outcome State Fault Refusal) (p : Install → Bool) : Bool := answers o (fun t => (t.region? 0).any (fun g => g.inst.any (fun i => i.next == 1 && p i)))
    let ended (o : Host.Outcome State Fault Refusal) (st : RgState) : Bool := answers o (fun t => (t.region? 0).any (fun g => g.inst.isNone && decide (g.state = st)))
    (s id).curReg = 0 ∧ (s id).region? 0 = some (tIw id) ∧ (tIw id).inst = some i ∧ i.ended = false ∧ i.next + 1 < i.count ∧ i.begun = true ∧ i.hi = none ∧
    next (exec (.cfgBegin 7) (s new)) (fun i => i.version == 7 && i.begun) = true ∧
    next (exec (.cfgBegin 7) (s (fun i => { new i with byCfg := true, full := false }))) (fun i => i.version == 7 && i.begun) = true ∧
    ended (exec (.cfgBegin 7) (s id)) .claimed = true ∧ ended (exec (.cfgBegin 0) (s new)) .claimed = true ∧
    next (exec (.cfgNop 0) (s id)) (fun _ => true) = true ∧ ended (exec (.cfgNop 1) (s id)) .claimed = true ∧
    next (exec (.cfgHi 0xFFFF) (s id)) (fun i => i.hi == some 0xFFFF) = true ∧ next (exec (.cfgEsc 0) (s id)) (·.esc) = true ∧
    next (exec (.cfgWin 0) (s id)) (fun i => i.win == some (0, 0)) = true ∧ ended (exec (.cfgWin 1) (s id)) .claimed = true ∧
    next (exec (.cfgSect 255) (s id)) (fun i => i.section_ == 255) = true ∧ next (exec (.cfgZwin 0) (s id)) (fun _ => true) = true ∧
    (tIw id).winTile (0, 0) 0 = some 0 ∧ (s id).lostAt 0 = false ∧ (s id).fusedAt 0 = false ∧ ((s id).fieldWrite (tIw id) i 0 1 0x1000).toOption.isSome = true ∧
    next (exec (.cfgElementWrite 0 1 0x1000) (s id)) (fun _ => true) = true ∧
    ((s id).fieldWrite (tIw id) i 0 0xFF 5).toOption = none ∧ ended (exec (.cfgElementWrite 0 0xFF 5) (s id)) .claimed = true ∧
    decide ((s id).fieldWrite (tIw id) i 0 0xFF 5 = .error 2) = true ∧ decide ((s id).fieldWrite (tIw id) i 0 0xF4 5 = .error 4) = true ∧
    ended (exec (.cfgElementWrite 0 0xF4 5) (s id)) .claimed = true ∧ ended (exec (.cfgElementWrite 0 1 5) (s new)) .claimed = true ∧
    (s (fun i => { i with count := 1 })).endFault (tIw (fun i => { i with count := 1 })) [] = none ∧
    ended (exec (.cfgEnd 0) (s (fun i => { i with count := 1 }))) .ready = true := by decide +kernel

/-- The word after ESC goes to window position (15, 15), whatever its IDX (StreamWords). -/
theorem witness_StreamWords_esc :
    let r : Region := { tIw (fun i => { i with esc := true }) with width := 16, height := 16 }
    r.winTile (0, 0) 0xFF = some (tileAt 15 15) ∧
    answers (exec (.cfgElementWrite 0 1 0x1000) (tQ r [])) (fun t => (t.tile (tileAt 15 15)).fld 1 == 0x1000 && (t.tile 0).fld 1 == 0 &&
      (t.region? 0).any (fun g => g.inst.any (fun i => !i.esc))) = true := by decide +kernel

/-- rg.start and vdresume while a fault record waits to be written, and after (RegionControl, CsrWrites). -/
theorem witness_RegionControl_waits :
    let f : FaultRec := { FaultRec.of fUSER 1 with region := 0x100001, incarn := tQRegion.incarn, fid := 5 }
    let s (q : List FaultRec) : State := (tK { tQRegion with state := .stopped, why := 5 } 0x100001 0 []).setPart 0 { tPart with fqWait := q }
    let held : Held := { fid := 5, who := .seqAccess 0 0, rn := 0, age := 0, counts := true }
    let v (q : List FaultRec) : State := (tMode .vs tHart).setPart 0 { tPart with held := [held], fqWait := q }
    (s [f]).recordWaits { tQRegion with state := .stopped, why := 5 } = true ∧ (s []).recordWaits { tQRegion with state := .stopped, why := 5 } = false ∧
    goes (exec (.rgStart 3 1 2) (s [f])) ((s [f]).withResult 3 (errWord 7)) = true ∧
    answers (exec (.rgStart 3 1 2) (s [])) (fun t => (t.region? 0).any (fun g => decide (g.state = .running))) = true ∧
    (∃ y ∈ ((v [f]).part 0).fqWait, y.fid = 5) ∧ goes (exec (.vdresume 0 5) (v [f])) ((v [f]).setHart 0 { (v [f]).hart 0 with pc := 4 }) = true ∧
    (∀ y ∈ ((v []).part 0).fqWait, y.fid ≠ 5) ∧ answers (exec (.vdresume 0 5) (v [])) (fun t => (t.part 0).held.isEmpty) = true := by decide +kernel

/-- The load of an image of another shape fails with the region as it was (RegionStepsEnd). -/
theorem witness_RegionStepsEnd_load_fails :
    let r : Region := { tImg .loading (some (.load 0x40000 Hart.reset.xlate)) with width := 2 }
    let s : State := { (tImgS r) with regions := [(0, r)] }
    s.isHeld 0 (.image 0) = false ∧ decide (s.restore 0 tImage (s.keptWith tImage) 0 false = .error eSHAPE) = true := by decide +kernel

/-- Copies that touch a revoked ATTN page and ones that do not (Revocations). -/
theorem witness_Revocations_copies :
    let c (a : Dword) : Copy := { newCopy 2 3 tQRegion.seq with src := a, dst := 0x15000, len := 64 }
    let r : Region := { tQRegion with seq := { tQRegion.seq with copies := [(0, c 0x10FFC0), (1, c 0xFFFC0)] } }
    let s : State := ((tQ r (at_ 0x30010 (leBytes 0x100000 8 ++ leBytes 0x110000 8))).setPart 0 tPart).setHart 0 { tHart with mode := .vs }
    (c 0x10FFC0).touches 0x100000 0x110000 = true ∧ (c 0x10FFC0).touches 0x110000 0x120000 = false ∧ (c 0xFFFC0).touches 0x100000 0x110000 = false ∧
    answers (exec (.revokeAttnPage 0 0x200100001) s) (fun t => (t.region? 0).any (fun g => g.seq.copies.map (·.2.status) == [0xD, 0])) = true := by decide +kernel

/-- Vector accesses of elements at offsets of their own, and ones whose second element faults (LanternAccesses). -/
theorem witness_LanternAccesses_vectors :
    let x : Hart := { (tHart.set 1 0x80) with v := (List.range 32).map (fun i => List.replicate 32 (BitVec.ofNat 8 i)), vsatp := 0xE000000000000010 }
    let s := (tQ tQRegion [(0x13000, 0xFE), (0x13017, 0x80)]).setHart 0 x
    let run (op : LanOp) : Host.Outcome State Fault Refusal := exec (.lanternLoadStore 0 op 0x13000) s
    let es : List (Nat × Dword) := [(0, 0), (33, 0x17)]
    let far : List (Nat × Dword) := [(0, 0), (1, 0x40000000)]
    decide (gatherElems s.mem x.xlate 0x13000 1 es = .ok [(0, [0xFE]), (33, [0x80])]) = true ∧
    answers (run (.vload 0 2 es)) (fun t => (((t.hart 0).v[2]?).getD []).head? == some 0xFE && ((((t.hart 0).v[3]?).getD [])[1]?) == some 0x80) = true ∧
    answers (run (.vstore 0 2 es)) (fun t => t.mem.get 0x13000 == 2 && t.mem.get 0x13017 == 3) = true ∧
    answers (run (.vload 0 2 far)) (fun t => (t.hart 0).rcsr mCAUSE == 13 && (t.hart 0).rcsr mTVAL == 0x40013000 && decide ((t.hart 0).v = x.v)) = true ∧
    answers (run (.vstore 0 2 far)) (fun t => (t.hart 0).rcsr mCAUSE == 15 && decide (t.mem = s.mem)) = true := by decide +kernel

/-- A self-test that covers a sequencer of a region whose tiles it does not (MigrationAndSelfTest). -/
theorem witness_MigrationAndSelfTest_sequencer :
    let s : State := { tMode .hs { tHart.set 1 5 with x := (tHart.set 1 5).x } with regions := [(64, { tQRegion with ocol := 0, orow := 0 })] }
    bistOk 5 = true ∧ testMeets 5 tQRegion.rect = false ∧ testsSeq 5 64 = true ∧
    answers (exec (.bistRun 3 1 0) s) (fun t => (t.hart 0).get 3 == errWord 7) = true := by decide +kernel

/-- Writes of the MSI-X table of VF 0, and what the host reads (HostRegisters). -/
theorem witness_HostRegisters_reads :
    let s := tHost { tVf with crtail := 9, phase := true } []
    (s.vfPart 0).isSome = true ∧ ((s.vf 0).msixPba.get 0).getLsbD 0 = false ∧
    answers (exec (.registerWrite (.vf 0 0x1008) 0x77) s) (fun t => (t.vf 0).msixTable.readN 8 8 == 0x77) = true ∧
    s.hostRead 0 0x100018 = some 0x10009 ∧ s.hostRead 0 0x100008 = some 0x106 ∧ s.hostRead 0 0xFFFF8 = some 0 ∧
    (tHost { tVf with part := none } []).hostRead 0 0x100018 = none := by decide +kernel

/-- Lane 0 alone of a header is read (CtFiringCaptures). -/
theorem witness_CtFiringCaptures_header :
    let b : Beat := { tBeat 1 with kind := 1 }
    b.kind = 1 ∧ lane b.lanes 3 = 3 ∧ lane b.seen.lanes 3 = 0 ∧ lane b.seen.lanes 0 = lane b.lanes 0 ∧ b.seen.valid = 1 := by decide +kernel

/-- An operation that a MACC holds keeps the fire slot before a lower-numbered rule (MtRulesFire). -/
theorem witness_MtRulesFire_held :
    let macc : MtOp := { tOp 0x0E 4 with gB := 0x100 }
    let t : Tile := { tMt 0 [[tBeat 1], [], [], []] with units := [{ running := none, waiting := [] }, { running := some macc, waiting := [] }, { running := none, waiting := [] }] }
    let low : Tile := { t with macHeld := some 1, fields := (0x00, 0x10000000) :: (0x10, 0x80000210) :: t.fields }
    t.macHeld = none ∧ t.mtPick = some 1 ∧ low.mtHolds 0 = true ∧ low.mtHolds 1 = true ∧ low.mtPick = some 1 ∧ { low with macHeld := none }.mtPick = some 0 ∧
    (match t.mtEnd with | some e => e.round | none => 0) = 0 := by decide +kernel

/-- A beat that came to its stage in this cycle stays there; an express lane past a lost window passes nothing (BeatsPass). -/
theorem witness_BeatsPass_stays :
    let line : Tile := { tSw Tile.cleared with fields := (0xBA, 2) :: (tSw Tile.cleared).fields, dly := [[some (tBeat 4), none], [], [], []], came := [(0, 0)] }
    let enter := { Tile.cleared with fields := [(0xD4, 0x801), (0xDC, 0x80)], xbuf := [(0, [tHop])] }
    let leave : Tile := { tSw Tile.cleared with fields := (0xD4, 0xC00) :: (0xDC, 0x80) :: (tSw Tile.cleared).fields, xbuf := [] }
    let s : State := tTwo enter leave
    answers (exec (.beatTransfer 0 (.delay 0 0)) (tTwo line Tile.cleared)) (fun z => decide (z.tile 0 = line)) = true ∧
    (expressPath 0 0 1).1 = [0, 1] ∧ expressSeams (expressPath 159 0 160) 0 = [seamLaneNo 637 2] ∧
    (∀ n ∈ (expressPath 0 0 1).1, s.lostAt n = false) ∧
    answers (exec (.expressLaneTransfer 0 0 0) { s with seamFails := [(seamLaneNo 637 2, 3)] }) (fun z => ((z.tile 1).xBuf 0 0).length == 1 && z.seamFails.length == 1) = true := by
  decide +kernel

/-- A request, a marker and a stream of a channel where a row stands open, and where markers wait (EdgePorts). -/
theorem witness_EdgePorts_open :
    let i : IStream := { tStr (tStream 0) with row := some (tWalk 0x15000 0 1) }
    let s (p : Port) : State := let m := tPort p; m.setDie 0 { m.die 0 with engines := [(3, i)] }
    let cur : Port := { Port.empty with cur := some (tWalk 0x13000 0 2) }
    let mark : Port := { Port.empty with reqF := [markBeat 3 3] }
    let waits : Port := { Port.empty with marks := [2], cur := some (tWalk 0x13000 0 2) }
    let other (p : Port) (j : IStream) : State := let m := tMark tQRegion [(1, p)]; m.setDie 0 { m.die 0 with engines := [(3, i), (4, j)] }
    (s cur).rowOpen 0 0 1 = true ∧ goes (exec (.empRequest 0 0 1) (s cur)) (s cur) = true ∧ goes (exec (.empMarkerForward 0 0 1) (s mark)) (s mark) = true ∧
    goes (exec (.empMarkerForward 0 0 1) (tPort { mark with marks := [2] })) (tPort { mark with marks := [2] }) = true ∧
    answers (exec (.empRequest 0 0 1) (tPort waits)) (fun z => (z.port 1).marks.isEmpty && (z.port 1).reply.length == 2) = true ∧
    goes (exec (.indirectStreamRow 0 4) (other Port.empty (tStr (tStream 0)))) (other Port.empty (tStr (tStream 0))) = true ∧
    (∀ p ∈ [{ Port.empty with snuff := true }, { Port.empty with wait := true }, cur, { Port.empty with reply := List.replicate 32 (0, tBeat 1) }],
      (let m := tMark tQRegion [(1, p)]
       let y : State := m.setDie 0 { m.die 0 with engines := [(4, tStr (tStream 0))] }
       goes (exec (.indirectStreamRow 0 4) y) y) = true) := by decide +kernel

/-- A glow update to a page whose LIVE breaks R113 is withheld (GlowUpdatesApply); a trim whose engine runs another waits (TrimRuns). -/
theorem witness_GlowUpdatesApply_bad_page :
    let s : State := tGlow tQRegion [{ handle := 0x100005, slot := 1, weight := 0 }] [(0x20F960, 241)]
    attnTailOk (s.mem.read (0x200000 + 63840) 8) = false ∧
    answers (exec (.glowUpdateApply 1) s) (fun z => z.isHeld 0 (.glow 1) && (z.tile 1).glow.length == 1) = true ∧
    (let c := tTrim 0x100003 0 0x14100
     let z : State := tTrimS c [(7, { tRun (some 0x100003) true none c with stack := some 0 })] id
     -- a chain of one page, at 0x100000
     let y : State := { z with mem := ((z.mem.write 0x14100 (leBytes 0x15800 8 ++ [1])).write 0x15800 (leBytes 0x100001 4)).write 0x30010 (leBytes 0x100000 8 ++ leBytes 0x110000 8) }
     y.trimEngineBusy 0 = true ∧ (y.trimStack 0 (y.queueXlate 0 0) (trimCmd c)).1 = 0 ∧
     answers (exec (.trimPop 0 0) y) (fun z => (z.part 0).trims.map (·.2.so) == [some 0x100003, none] || (z.part 0).trims.map (·.2.so) == [none, some 0x100003]) = true) := by
  decide +kernel

/-- Words of RISC-V's integer sets, each written out from the RISC-V standard's formats, with x_i holding 64 i (StepRunsDecoded). -/
theorem test_rv_words :
    let gets (x : Word) (rd : Reg) (v : Dword) : Bool := answers (step (tHartAt x id)) (fun t => (t.hart 0).get rd == v && (t.hart 0).pc == 0x104)
    -- addi x10, x10, -1; sub x5, x6, x7; mul x5, x6, x7; divu x5, x6, x0; sraiw x5, x6, 1; lui x5, 0x80000
    gets 0xFFF50513 10 639 = true ∧ gets 0x407302B3 5 (0 - 64) = true ∧ gets 0x027302B3 5 172032 = true ∧ gets 0x020352B3 5 (0 - 1) = true ∧
    gets 0x4013529B 5 192 = true ∧ gets 0x800002B7 5 0xFFFFFFFF80000000 = true ∧
    -- ld x5, 0(x7); lbu x5, 7(x7); fence
    gets 0x0003B283 5 0x1122334455667788 = true ∧ gets 0x0073C283 5 0x11 = true ∧ gets 0x0FF0000F 0 0 = true ∧
    -- amoadd.d x5, x6, (x7)
    gets 0x0063B2AF 5 0x1122334455667788 = true ∧
    answers (step (tHartAt 0x0063B2AF id)) (fun t => t.mem.readN 0x1C0 8 == 0x1122334455667788 + 384) = true := by decide +kernel

/-- Branches, jumps, exceptions, returns and CSRs (StepRunsDecoded, HartExceptionEntry). -/
theorem test_rv_control :
    let pc (x : Word) (f : Hart → Hart) (v : Dword) (md : Mode) : Bool := answers (step (tHartAt x f)) (fun t => (t.hart 0).pc == v && (t.hart 0).mode == md)
    -- beq x0, x0, -4; beq x0, x1, -4; jalr x1, 3(x6)
    pc 0xFE000EE3 id 0xFC .m = true ∧ pc 0xFE100EE3 id 0x104 .m = true ∧ pc 0x003300E7 id 386 .m = true ∧
    -- ecall; mret to VS-mode; sret of VS-mode to VU-mode; sret of U-mode
    answers (step (tHartAt 0x00000073 id)) (fun t => (t.hart 0).rcsr mCAUSE == 11 && (t.hart 0).rcsr mEPC == 0x100) = true ∧
    pc 0x30200073 (fun y => (y.setRcsr mSTATUS 0x8000000800).setRcsr mEPC 0x4001) 0x4000 .vs = true ∧
    pc 0x10200073 (fun y => { y.setRcsr vEPC 0x4000 with mode := .vs }) 0x4000 .vu = true ∧
    pc 0x10200073 (fun y => { y with mode := .u }) 0 .m = true ∧
    -- csrrw x5, mtvec, x6 with mtvec 8; csrrs x5, vmsel, x7 with vmsel 1 (device); csrrs x5, mhartid, x0
    answers (step (tHartAt 0x305312F3 (fun y => y.setRcsr mTVEC 8))) (fun t => (t.hart 0).rcsr mTVEC == 384 && (t.hart 0).get 5 == 8) = true ∧
    answers (step (tHartAt (BitVec.ofNat 32 (nVMSEL * 0x100000 + 0x3A2F3)) (fun y => { y with vmsel := 1 }))) (fun t => (t.hart 0).get 5 == 1) = true ∧
    answers (step (tHartAt 0xF14022F3 id)) (fun t => (t.hart 0).get 5 == 0 && (t.hart 0).pc == 0x104) = true ∧
    -- a word that no set assigns is an illegal instruction
    answers (step (tHartAt 0xFFFFFFFF id)) (fun t => (t.hart 0).rcsr mCAUSE == 2 && (t.hart 0).rcsr mTVAL == 0xFFFFFFFF) = true := by decide +kernel

/-! ### The hart's compressed, floating-point and vector words, and accesses below a table's level -/

/-- c.addi x10, 1; c.j +2; fadd.d f0, f0, f0 of twice 2.0; vsetvli x5, x0, e64, m1; vadd.vi v2, v1, -1 of two elements, the rest as it was
(StepRunsDecoded). -/
theorem test_rv_sets :
    let c (f : Hart → Hart) (p : Hart → Bool) (x : Word) : Bool := answers (step (tHartAt x f)) (fun t => p (t.hart 0))
    let vl2 (h : Hart) : Hart := { (h.setRcsr cVL 2).setRcsr cVTYPE 0x18 with v := (h.v.set 1 (leBytes 5 8 ++ leBytes 0 8 ++ leBytes 9 16)).set 2 (List.replicate 32 0xFF) }
    c id (fun h => h.pc == 0x102 && h.get 10 == 641) 0x0505 = true ∧
    c id (fun h => h.pc == 0x102) 0xA009 = true ∧
    c (fun h => { h with f := h.f.set 0 0x4000000000000000 }) (fun h => h.pc == 0x104 && h.f.head? == some 0x4010000000000000) 0x02007053 = true ∧
    c id (fun h => h.pc == 0x104 && h.get 5 == 4) 0x018072D7 = true ∧
    c vl2 (fun h => h.pc == 0x104 && nth h.v 2 [] == leBytes 4 8 ++ List.replicate 24 0xFF) 0x021FB157 = true := by decide +kernel

/-- A sequencer's load and store of its own descriptor have no effect there and raise PRIV (XlanIllegalAndPrivilege); a copy of it ends PRIV, and
a copy and accesses beside it are not denied (CopiesMoveAndComplete, SequencerLoads). -/
theorem witness_XlanIllegalAndPrivilege_tables :
    let a (st : Bool) : SeqAcc := { store := st, reg := 3, va := 0x88000, size := 4, data := 7, pc := 0 }
    let r (st : Bool) : Region := { tQRegion with seq := { tQRegion.seq.clear 3 with acc := [(5, a st)] } }
    let s (st : Bool) : State := tQ (r st) [(0x88000, 1)]
    let c : Copy := { newCopy 2 3 tQRegion.seq with src := 0x14000, dst := 0x88000, len := 64 }
    let k : State := tQ { tQRegion with seq := { tQRegion.seq with copies := [(0, c)] } } []
    (s true).rgDenied 0 0x88000 4 true = some 0x88000 ∧ (s false).rgDenied 0 0x88000 4 false = some 0x88000 ∧
    (s false).rgDenied 0 0x88400 4 false = none ∧ (s false).rgDenied 0 0x20000 4 false = some 0x20000 ∧
    accBlocked [(5, a true)] 5 0x88000 0x88001 = false ∧ (s true).isHeld 0 (.seqAccess 0 5) = false ∧
    ((s true).rwrite 0 0x88000 (leBytes 7 4)).toOption.any (·.isSome) = true ∧ ((s true).part 0).trEn = 0 ∧ ((s true).part 0).fqFull = false ∧
    [true, false].all (fun st => answers (exec (.seqLoadFill 0 5) (s st)) (fun t => decide (t.mem = (s st).mem) &&
      (t.part 0).fqWait.map (fun f => (f.code, f.src, f.addr)) == [(0x35, 1, 0x88000)] && (t.region? 0).any (fun g => g.seq.acc.isEmpty))) = true ∧
    k.copyDenied 0 c = some (0x88000, true) ∧
    answers (exec (.copyBeat 0 0) k) (fun t => decide (t.mem = k.mem) && (t.region? 0).any (fun g => g.seq.copies.map (·.2.status) == [0x16])) = true ∧
    k.copyDenied 0 { c with dst := 0x15000 } = none := by decide +kernel

/-- At VS-mode a self-test is refused, and the hypervisor's queue has the record too (XlanIllegalAndPrivilege). -/
theorem witness_XlanIllegalAndPrivilege_guest :
    let s := tK tQRegion 5 2 []
    s.me.wait = none ∧ s.me.mode.level = 1 ∧ invBroad (s.me.get 2) = false ∧ bits (s.me.get 2) 1 0 = 2 ∧
    [Instr.bistRun 3 1 2, .xltInv 1 2].all (fun i => answers (exec i s) (fun t => t.hvq.length == 1 && (t.part 0).fqWait.length == 1 && decide (t.mem = s.mem))) = true ∧
    answers (exec (.bistStat 3 1) s) (fun t => (t.hart 0).get 3 == errWord 0x16) = true := by decide +kernel

/-- A dispatch under a parent's block, one more in it, and one under a full block (LaunchesDispatched). -/
theorem witness_LaunchesDispatched_parent :
    let s (v : List Byte) : State := (tQ tQRegion (at_ 0x14000 v)).setPart 0 tGraph
    let blk : List Byte := leBytes 0x100001 4 ++ zeros 4 ++ leBytes 0x14000 8
    let x := (s [3]).rgXlate tQRegion
    State.dispatchOk blk = true ∧ (s [3]).launchCheck 0 (tLaunch 0x100007) true = .ok 1 ∧ (s [3]).unexpanded 0 0 = none ∧
    translate (s [3]).mem x 0x14000 .atomic = .ok (0x14000, 0) ∧
    (match (s [3]).dispatch 0 x (tLaunch 0x100007) blk 5 with | .ok y => y.1 == 1 | .error _ => false) = true ∧
    decide ((s (List.replicate 4 0xFF)).dispatch 0 x (tLaunch 0x100007) blk 5 = .ok (errWord 2, s (List.replicate 4 0xFF))) = true := by decide +kernel

/-- The last class of a section to end zeroes its pass counts, one before it does not; a fill behind an earlier access waits (PhaseControl, SequencerLoads). -/
theorem witness_PhaseControl_zeroed :
    let e (fk dn : BitVec 3) : Tile := { tElem with forked := fk, doneCls := dn, passc := 0 }
    let s (a b : Tile) : State := { tQ tQRegion [] with tiles := [(0, a), (1, b)] }
    let r : Region := { tQRegion with seq := { tQRegion.seq with acc := [(4, { store := true, reg := 0, va := 0x13000, size := 8, data := 0, pc := 0 }),
      (5, { store := false, reg := 3, va := 0x13004, size := 4, data := 0, pc := 0 })] } }
    (s (e 1 0) { e 2 0 with passc := 9 }).liveRegion 0 = some (0, tQRegion) ∧ (e 1 0).forked.getLsbD (classNo .fabric) = true ∧ (e 1 0).classOver .fabric = true ∧
    (s (e 1 0) (e 2 0)).section_ tQRegion 64 = [0, 1] ∧
    answers (exec (.classDone 0 .fabric) (s (e 1 0) { e 2 0 with passc := 9 })) (fun t => (t.tile 0).doneCls == 1 && (t.tile 1).passc == 9) = true ∧
    answers (exec (.classDone 0 .fabric) (s (e 1 0) { e 2 2 with passc := 9 })) (fun t => (t.tile 0).doneCls == 1 && (t.tile 1).passc == 0) = true ∧
    accBlocked r.seq.acc 5 0x13004 0x13005 = true ∧ goes (exec (.seqLoadFill 0 5) (tQ r [])) (tQ r []) = true := by decide +kernel

/-- A retirement at a block of three children, the first that fails (Revocations). -/
theorem witness_Revocations_retire :
    let s := tQ tQRegion (at_ 0x14000 [3])
    let x := s.queueXlate 0 0
    s.memOk ∧ translate s.mem x 0x14000 .atomic = .ok (0x14000, 0) ∧ s.mem.readN 0x14000 4 = 3 ∧ s.mem.readN 0x14006 2 = 0 ∧
    (s.retireJoin 0 x 0x14000 4 9).mem.read 0x14000 10 = [2, 0, 0, 0, 0, 0, 4, 0, 9, 0] ∧
    translate (at_ 0x30010 (leBytes 0x100000 8 ++ leBytes 0x110000 8)) Hart.reset.xlate 0x110000 .read = .ok (0x110000, 0) := by
  unfold State.memOk; decide +kernel

/-- A hart's load and store of a table below their level move nothing and raise PRIV (LanternAccesses). -/
theorem witness_LanternAccesses_tables :
    let s : State := (tQ tQRegion [(0x88000, 5)]).setHart 0 { tHart with vsatp := 0xE000000000000010 }
    let x := (s.hart 0).xlate
    s.lanDenied 0 0x88000 4 false = some 0x88000 ∧ s.lanDenied 0 0x88000 4 true = some 0x88000 ∧ s.lanDenied 0 0x13000 4 true = none ∧
    vread s.mem x 0x88000 4 = .ok [5, 0, 0, 0] ∧ (vwrite s.mem x 0x88000 (leBytes 64 4)).toOption.isSome = true ∧
    [LanOp.load 2 true 3, .fload 2 3, .store 2 1].all (fun op => answers (exec (.lanternLoadStore 0 op 0x88000) s) (fun t =>
      decide (t.mem = s.mem ∧ t.hart 0 = { s.hart 0 with pc := 4 }) && (t.part 0).fqWait.map (fun f => (f.code, f.src, f.addr)) == [(0x35, 4, 0x88000)])) = true ∧
    s.vecDenied 0 0x13000 4 [(0, 0)] false = none ∧ (s.setHart 0 { s.hart 0 with mode := .hs }).lanDenied 0 0x88000 4 true = none := by decide +kernel

/-- A submission whose record's page is not present, and one whose page may not be read (HostSubmissions); assignments of a VF, with seven others of
the partition and with eight, and the minimum SVN (HostRegisters). -/
theorem witness_HostSubmissions_faults :
    let s := tHost tVf [(0x12008, 0x09)]
    let run (a : Nat) (c : Cpl) : Bool := answers (exec (.hostSubmission 0 2 (tSub 9 0 0 0 a)) s) (fun t =>
      decide ((t.vf 0).cpl = c) && (t.part 0).fqWait.map (·.src) == [4] && (t.part 0).launches.isEmpty)
    let vfs (n : Nat) : State := { s with bootstat := 0x80, vfs := (List.range n).map (fun i => (i + 1, tVf)) }
    let assigned (t : State) : Bool := answers (exec (.registerWrite (.vfAssign 0) 0) t) (fun z => (z.vf 0).part == some 0)
    run 0x80000000 .rrs = true ∧ run 0x40000000 .ur = true ∧ assigned (vfs 7) = true ∧ assigned (vfs 8) = false ∧
    assigned { vfs 0 with bootstat := 0x40 } = false ∧
    answers (exec (.registerWrite (.vfAssign 1) 16) (vfs 7)) (fun z => (z.vf 1).part == none) = true ∧
    answers (exec (.registerWrite .minSvn 0x100000007) s) (fun z => z.fuses.minSvn == 7) = true ∧
    answers (exec (.registerWrite .minSvn 3) { s with fuses := { s.fuses with minSvn := 5 } }) (fun z => z.fuses.minSvn == 5) = true := by decide +kernel

/-- An install's end whose result is written before the region is READY, and one whose result waits for its page; a rejected word's result, which
names the window in force and 0xFF (StreamWords). -/
theorem witness_StreamWords_result :
    let x := (tQ tQRegion []).rgXlate tQRegion
    let s (a : Dword) : State := tQ (tIw (fun i => { i with count := 1, version := 7, result := a, xl := x })) []
    let free := Config.freeWord (s 0).freeCtr
    let bytes : List Byte := leBytes 0 2 ++ leBytes (bits free 5 0 + 256 * bits free 13 8) 2 ++ [BitVec.ofNat 8 (bits free 23 16)] ++ leBytes 0 3 ++
      leBytes 1 4 ++ leBytes 7 4
    let bad : State := tQ (tIw (fun i => { i with count := 4, version := 7, result := 0x15000, xl := x, win := some (1, 2) })) []
    (vwrite (s 0x15000).mem x 0x15000 bytes).toOption.isSome = true ∧
    answers (exec (.cfgEnd 0) (s 0x15000)) (fun t => (t.region? 0).any (fun g => decide (g.state = .ready) && g.version == 7)) = true ∧
    (match vwrite (s 0x40000000).mem x 0x40000000 bytes with | .ok _ => false | .error y => decide (y.2.kind = .page)) = true ∧
    answers (exec (.cfgEnd 0) (s 0x40000000)) (fun t => (t.part 0).results.map (fun y => (y.addr, y.next)) == [(0x40000000, some (0, .ready, 7))] &&
      (t.region? 0).any (fun g => decide (g.state = .installing) && g.inst.isNone && g.version == 0)) = true ∧
    answers (exec (.badcmd 0xFF080000) bad) (fun t => decide (t.mem.read 0x15000 16 = leBytes 1 2 ++ leBytes 0x201 2 ++ [0xFF] ++ leBytes 0 3 ++
      leBytes 0 4 ++ leBytes 7 4) && (t.region? 0).any (fun g => decide (g.state = .claimed))) = true := by decide +kernel

/-! ### What firings, operation words and cycles do -/

/-- A stage word: operation, destination slot, operands, mask and MOD (R65). -/
def tSt (o dst a b c msk m : Nat) : Word := BitVec.ofNat 32 (o * 2 ^ 24 + dst * 2 ^ 22 + a * 2 ^ 17 + b * 2 ^ 12 + c * 2 ^ 7 + msk * 16 + m)

/-- A firing of one pass whose slots 0 to 2 hold a value in every lane. -/
def tFl (a b c : Word) : Flight :=
  { (tCt [] [[tBeat 1], [], [], []]).flight 1 0 with
    slots := [[lanesOf (fun _ => a), lanesOf (fun _ => b), lanesOf (fun _ => c), lanesOf (fun _ => 0)]], valids := [[0xFFFF, 0xFFFF, 0xFFFF, 0]] }

/-- Stage words: ADD wrapping and saturating, a masked lane kept, MUL with rounding, SHUF, PSET, TSET and TAGOVF (CtFiringCaptures). -/
theorem witness_CtFiringCaptures_stages :
    let t := tCt [] [[tBeat 1], [], [], []]
    let go (f : Flight) (x : Word) (p : Lanes → Flight → StageOut → Bool) : Bool :=
      let z := f.stage t 0 1 x
      p (nth (nth z.1.slots 0 []) 3 []) z.1 z.2
    -- ADD of the largest integer and 1: wraps, and clamps with SAT
    go (tFl 0x7FFFFFFF 1 0) (tSt 0x02 3 0 1 0 7 0) (fun l _ o => lane l 0 == 0x80000000 && lane l 15 == 0x80000000 && o.flags == 0) = true ∧
    go (tFl 0x7FFFFFFF 1 0) (tSt 0x02 3 0 1 0 7 4) (fun l _ o => lane l 9 == 0x7FFFFFFF && o.flags == flSAT) = true ∧
    go (tFl 0x8000FFFF 0x00010001 0) (tSt 0x02 3 0 1 0 7 8) (fun l _ _ => lane l 0 == 0x80010000) = true ∧
    -- under mask k0, of lane 2 alone
    (let z := (tFl 5 6 0).stage { t with kmask := [4, 0, 0, 0] } 0 1 (tSt 0x02 3 0 1 0 0 0)
     lane (nth (nth z.1.slots 0 []) 3 []) 2 = 11 ∧ lane (nth (nth z.1.slots 0 []) 3 []) 3 = 0 ∧ nth (nth z.1.valids 0 []) 3 0 = 4) ∧
    -- FADD of 1.0 and 2^-24: a tie to even, then up; FMUL of an infinity and 0
    go (tFl 0x3F800000 0x33800000 0) (tSt 0x40 3 0 1 0 7 0) (fun l _ o => lane l 0 == 0x3F800000 && o.flags == flINX) = true ∧
    go (tFl 0x3F800000 0x33800000 0) (tSt 0x40 3 0 1 0 7 3) (fun l _ _ => lane l 0 == 0x3F800001) = true ∧
    go (tFl 0x7F800000 0 0) (tSt 0x42 3 0 1 0 7 0) (fun l _ o => lane l 0 == 0x7FC00000 && o.flags == flINV) = true ∧
    -- the sum over the lanes, and the count of non-zero ones
    go (tFl 7 0 0) (tSt 0xA6 3 0 0 0 7 0) (fun l _ _ => lane l 15 == 112) = true ∧ go (tFl 7 0 0) (tSt 0xB1 3 1 0 0 7 0) (fun l _ _ => lane l 0 == 0) = true ∧
    -- a predicate, the tag register, and a field of 4 bits that 9 fits and 16 does not
    go (tFl 7 0 0) (tSt 0xD2 3 0 0 0 7 2) (fun _ _ o => o.pred == some (2, true)) = true ∧
    go (tFl 7 0 0) (tSt 0xDC 3 0 0 0 7 0) (fun _ _ o => o.treg == some 7) = true ∧
    (let u := { t with fields := (0xB0, 4) :: t.fields }
     lane (nth (nth ((tFl 0xF3 9 0).stage u 0 1 (tSt 0xD9 3 0 1 0 7 0)).1.slots 0 []) 3 []) 5 = 0xF9 ∧ ((tFl 0xF3 16 0).stage u 0 1 (tSt 0xD9 3 0 1 0 7 0)).1.trap = some (fTAGOVF, 1, 0)) := by
  decide +kernel

/-- A CT whose rule doubles slot 0 into slot 3 and sends slot 3 on output 1, and that firing alone in its element at an age. -/
def tDbl : Tile := tCt [(0x30, tSt 0x02 3 0 0 0 7 0), (0x21, 0x000C0051)] [[tBeat 1], [], [], []]
def tLone (n : Nat) : Tile := { tDbl with flights := [{ tDbl.flight 1 0 with age := n }] }

/-- That firing in its first cycle, in its sixth and in the cycle of its beats (CtFiringCaptures); the credits of an output (InputsOutsideRules). -/
theorem witness_CtFiringCaptures_alone :
    ((tDbl.flight 1 0).beats = 1 ∧ (tDbl.flight 1 0).renorm = false ∧ (tDbl.flight 1 0).kind = 0 ∧ (tDbl.flight 1 0).trap = none ∧
      (tDbl.flight 1 0).stages.all (fun y => !isRenorm (stOpc y)) = true ∧ tDbl.outF.length = 4) ∧
    ((tLone 0).ctCycle.2.1.isEmpty = true ∧ (tLone 0).ctCycle.1.flights.map (·.age) = [1]) ∧
    (tLone 0).ctCycle.1.flights.all (fun g => lane (nth (nth g.slots 0 []) 3 []) 7 == 14) = true ∧
    (tLone 5).ctCycle.1.flights.map (·.age) = [6] ∧ (tLone 6).ctCycle.1.flights.isEmpty = true ∧
    (tLone 6).ctCycle.1.outF.map (·.length) = [0, 1, 0, 0] ∧ (tDbl.credits 1 = 4 ∧ (tLone 0).credits 1 = 3 ∧ (tLone 0).credits 0 = 4) ∧
    ({ tDbl with gone := [0, 2, 0, 0] } : Tile).credits 1 = 2 := by decide +kernel

/-- A cycle with no region, one of a CT that fires and one of an MT; beats owed, not due and due (InputsOutsideRules). -/
theorem witness_InputsOutsideRules_tick :
    let one (n : Nat) (x : Tile) : State :=
      let r := { tQRegion with width := 1, height := 1, ocol := n }
      { tQ r [] with tiles := [(n, x)], regions := [(0, r)] }
    let ct := tCt [] [[tBeat 1], [], [], []]
    let mt := tMt 0 [[tBeat 1], [], [], []]
    let o (due : Nat) (bs : Option (List Beat)) : Owed := { out := 1, op := 1, due := due, n := 1, after := false, beats := bs }
    let s0 : State := { tQ tQRegion [] with regions := [], colls := [] }
    (one 0 ct).listed ((one 0 ct).region? 0 |>.getD tQRegion) = [0] ∧ (one 1 mt).listed ((one 1 mt).region? 0 |>.getD tQRegion) = [1] ∧
    answers (step s0) (fun t => t.cycle == 1 && decide (t.mem = s0.mem)) = true ∧
    answers (step (one 0 ct)) (fun t => (t.tile 0).flights.map (·.age) == [1] && decide ((t.tile 0).inF = [[], [], [], []]) &&
      (t.region? 0).any (fun g => g.cycles == 1 && g.firings == 1)) = true ∧
    answers (step (one 1 mt)) (fun t => (t.tile 1).opNo == 1 && (t.tile 1).hold == 0 && decide ((t.tile 1).inF = [[], [], [], []])) = true ∧
    (let u : Tile := Tile.mtCycle { mt with owed := [o 2 (some [tBeat 1])] }
     u.owed = [o 1 (some [tBeat 1])] ∧ u.outF = mt.outF) ∧
    (let u : Tile := Tile.mtCycle { mt with owed := [o 0 (some [tBeat 1])] }
     u.owed = [] ∧ u.outF = [[], [tBeat 1], [], []]) ∧ (Tile.mtCycle { mt with owed := [o 0 none] }).owed = [o 0 none] := by decide +kernel

/-- Operation words that use X: a class and a range refused, LD, ST, LDW, STW, ATOM and ATOMR, FILL and CLR (MacroEffects). -/
theorem witness_MacroEffects_words :
    let t := { tOps [] with banks := [(4100, 9), (4160, 5)], g := List.replicate 8 64 }
    let o (op : Dword) (i d : Option Beat) : MtOp := { tOp op 7 with ich := i, dch := d, gA := 64, gB := 3 }
    let two : Beat := dataBeat 0 0 3 (lanesOf (fun l => w l))
    let did (o : MtOp) (p : Tile → Bool) : Bool := match (tMtS t).mtPerform 1 0 tQRegion o with | .ok z => p (z.tile 1) | .error _ => false
    let sent (x : Tile) (c : Nat) (p : Beat → Bool) : Bool := x.owed.any (fun y => y.op == 7 && y.out == c && (match y.beats with | some [b] => p b | _ => false))
    let bad (o : MtOp) (c : Nat) : Bool := match (tMtS t).mtPerform 1 0 tQRegion o with | .ok _ => false | .error e => e == c
    bad (o 0x0001 (some (tBeat 1)) none) 0x14 = true ∧ bad (o 0x0FFC00001001 (some (tBeat 1)) none) 0x15 = true ∧ bad (o 0x000100001003 (some two) none) 0x15 = true ∧
    -- LD of X at 4 l: lane 1 reads 9 on output 0, output 1 is told that it is done
    did (o 0x1001 (some (tBeat 1)) none) (fun x => sent x 0 (fun b => lane b.lanes 1 == 9 && lane b.lanes 2 == 0) && sent x 1 (fun b => lane b.lanes 0 == 0 && b.valid == 1)) = true ∧
    -- ST of two lanes; LDW by g and after it 64 more; STW of lane 0's word
    did (o 0x1002 (some two) (some (tBeat 1))) (fun x => x.banks == [(4100, 1), (4160, 5)]) = true ∧
    did (o 0x03001003 none none) (fun x => sent x 0 (fun b => lane b.lanes 0 == 5) && x.g == 128 :: List.replicate 7 64) = true ∧
    did (o 0x1004 (some { two with lanes := lanesOf (fun _ => 0) }) (some two)) (fun x => x.banks.get 4096 == 0 && x.banks.get 4100 == 1) = true ∧
    -- ATOM of addition and ATOMR of exchange
    did (o 0x1008 (some two) (some two)) (fun x => x.banks == [(4100, 10), (4160, 5)]) = false ∧
    did (o 0x2008 (some two) (some two)) (fun x => x.banks.get 8196 == 1) = true ∧
    did (o 0x2609 (some { two with lanes := lanesOf (fun _ => 1) }) (some two)) (fun x => x.banks.get 8196 == 1 && sent x 0 (fun b => lane b.lanes 0 == 0 && lane b.lanes 1 == 0)) = true ∧
    did (o 0x1020 none none) (fun x => x.banks.get 4096 == 64 && x.banks.get 4156 == 64 && x.banks.get 4160 == 5) = true ∧
    did (o 0x1021 none none) (fun x => x.banks.isEmpty) = true := by decide +kernel

/-- GMOV, GADD, GCMP, RMTI, RMTO, GLOW and PASS (MacroEffects). -/
theorem witness_MacroEffects_registers :
    let t := { tOps [] with banks := [(4164, 9)], mtEnd := some { st := 0, preds := 0, pass := false, round := 0 } }
    let o (op : Dword) (i d : Option Beat) : MtOp := { tOp op 7 with ich := i, dch := d, gA := 64, gB := 3 }
    let did (o : MtOp) (p : Tile → Bool) : Bool := match (tMtS t).mtPerform 1 0 tQRegion o with | .ok z => p (z.tile 1) | .error _ => false
    let pred (x : Tile) : Option (BitVec 4) := x.mtEnd.map (·.preds)
    did (o 0x0010FFFE00000022 none none) (fun x => nth x.g 1 0 == 0xFFFE) = true ∧ did (o 0x0010000000000222 (some (tBeat 1)) none) (fun x => nth x.g 1 7 == 0) = true ∧
    did (o 0x0010FFFE00000023 none none) (fun x => nth x.g 1 0 == 62) = true ∧
    did (o 0x0000004000000224 none none) (fun x => pred x == some 4) = true ∧ did (o 0x0000000001000424 none none) (fun x => pred x == some 0) = true ∧
    did (o 0x1018 (some (tBeat 1)) none) (fun x => x.owed.any (fun y => y.op == 7 && (match y.beats with | some [b] => lane b.lanes 1 == 9 | _ => false))) = true ∧
    did (o 0x1019 none (some (tBeat 1))) (fun x => x.banks.get 4164 == 1 && x.banks.get 4220 == 15) = true ∧
    did (o 0x0015 (some (tBeat 1)) (some (tBeat 2))) (fun x => x.glow.length == 16) = true ∧
    did (o 0x0000 none none) (fun x => x.owed.any (fun y => y.op == 7 && y.due == 3)) = true := by decide +kernel

/-- A loaded tile and halves of its columns: kept values that add up, no value kept with a NaN scale, a NaN scale, and 2^128 (MacroEffects). -/
theorem witness_MacroEffects_columns :
    let m : MacTile := { b := [(0, 3), (64, 5)], scale := [], spare := [], e2b := false, dropped := [] }
    let gone : MacTile := { m with dropped := (List.range 32).map (fun i => 64 * i) }
    let a (e : Nat) : List Int × List Nat := ([2, -1] ++ List.replicate 62 0, [e, 127])
    m.val 0 0 = 3 ∧ m.val 1 0 = 5 ∧ m.kept 0 0 = true ∧ gone.kept 0 0 = false ∧
    macHalf m 0 (a 127) 0 0 (0x40000000, 0) = (0x40400000, 0) ∧ macHalf m 0 (a 127) 5 0 (0x40000000, 0) = (0x40000000, 0) ∧
    macHalf gone 0 (a 255) 0 0 (0x40000000, 0) = (0x40000000, flSKIPNF) ∧
    (macHalf m 0 (a 255) 0 0 (0x40000000, 0)).1 = 0x7FC00000 ∧
    macHalf { m with scale := [(0, 254)] } 0 (a 254) 0 0 (0, 0) = (0x7F800000, flOVF) := by decide +kernel

/-- A trim that has ended and whose result waits: written, and withheld by a page fault; the sequencer's TRIM: each refusal and a push (TrimRuns). -/
theorem witness_TrimRuns_ended :
    let s (a : Nat) : State :=
      let c := (tTrim 0x100003 0 0x14100).take 40 ++ leBytes a 8 ++ zeros 16
      tTrimS c [(0, { tRun (some 0x100003) true none c with ended := some (0, 5, 6) })] id
    let q (b : Nat) (P : Partition → Partition) : State := (tTrimS [] [] P).setRegion 0
      { tQRegion with seq := (tQRegion.seq.set 1 0x14000).set 2 (BitVec.ofNat 64 b) }
    let t (y : State) (p : Region → Partition → Bool) : Bool := answers (exec (.trim 3 ⟨1, false⟩ ⟨2, false⟩) y) (fun z => (z.region? 0).any (fun g => p g (z.part 0)))
    (trimCmd (((s 0x15000).part 0).trims.get 0 (tRun none false none [])).cmd).result = 0x15000 ∧
    (vwrite (s 0x15000).mem ((s 0x15000).queueXlate 0 0) 0x15000 (leBytes 5 8 ++ leBytes 6 8)).toOption.isSome = true ∧
    answers (exec (.trimExecute 0 0) (s 0x15000)) (fun z => (z.part 0).trims.isEmpty && z.mem.readN 0x15000 8 == 5 && z.mem.readN 0x15008 8 == 6) = true ∧
    answers (exec (.trimExecute 0 0) (s 0x40000000)) (fun z => z.isHeld 0 (.trim 0 0) && (z.part 0).trims.length == 1) = true ∧
    t (q 0x200001 id) (fun g _ => g.seq.get 3 == 0x1000000000000 && g.seq.pc == 8) = true ∧
    t (q 0x100001 (fun P => { P with queues := [(0, { tQueue with share := 0 })] })) (fun g _ => g.seq.get 3 == 0x2000000000000) = true ∧
    t (q 0x100001 id) (fun g P => !g.seq.isFull 3 && g.seq.trims == [(0, 3)] && (P.queues.get 0 tQueue).levelUsed 0 == 2 && P.trimNo == 1) = true := by decide +kernel

/-- Beats whose parity holds and does not, and a lost word of a call journal (FaultRecordsAndErrors); work whose two journal copies are lost, running
and not (PartFailures). -/
theorem witness_FaultRecordsAndErrors_parity :
    let s := tQ tQRegion []
    let v : State := tSvc [] [(1, { hart := 5, left := 9, calls := [] })] (at_ 0x69100 [7])
    let run (n : Nat) (p : State → Bool) : Bool := answers (exec (.partFailure (.journalCopies [9]) [] []) (tJournal n)) p
    answers (exec (.parityError (.fifo 1 0)) s) (fun z => decide (z = s)) = true ∧
    answers (exec (.parityError (.fifo 1 3)) s) (fun z => decide (z = s)) = true ∧
    answers (exec (.parityError (.fifo 1 1)) s) (fun z => (z.region? 0).any (fun r => decide (r.state = .freezing))) = true ∧
    v.inCallJournal 0x69100 = true ∧ v.inCallJournal 0x13000 = false ∧
    answers (exec (.memoryEccError (.memory 0x69100) false []) v) (fun z => z.mem.get 0x69100 == 7) = true ∧
    run 4 (fun z => (z.part 0).fqWait.map (·.code) == [fPARTFAIL] && z.journal.length == 3) = true ∧
    run 9 (fun z => (z.part 0).fqWait.length == 1 && (z.region? 0).any (fun g => g.run.isNone)) = true := by decide +kernel

/-- The egress beat of a port and a reserved kind; a request to a table below its level: the read gives no beat, the write none to memory; an index and a row
of a stream there (EdgePorts). -/
theorem witness_EdgePorts_tables :
    let s (p : Port) : State := tPort p
    let rd : Port := { Port.empty with cur := some (tWalk 0x88000 0 3) }
    let wr : Port := { Port.empty with wr := some (tWalk 0x88000 2 3), reqF := [tBeat 1] }
    let i (b : List Byte) : State := let m := tPort Port.empty; m.setDie 0 { m.die 0 with engines := [(3, tStr b)] }
    let idx : List Byte := leBytes 0x88000 8 ++ (tStream 0).drop 8
    let privs (z : State) : List (Word × Dword) := (z.part 0).fqWait.map (fun f => (f.detail, f.addr))
    (s rd).rgDenied 0 0x88000 64 false = some 0x88000 ∧ (translate (s rd).mem ((s rd).rgXlate tQRegion) 0x88000 .read).toOption.isSome = true ∧
    (s rd).rowOpen 0 0 1 = false ∧
    answers (exec (.empRequest 0 0 1) (s rd)) (fun z => (z.port 1).reply.isEmpty && (z.port 1).cur.any (fun q => q.next == 1 && q.cur == 0x88040) && privs z == [(0, 0x88000)]) = true ∧
    answers (exec (.empWriteData 0 0 1) (s wr)) (fun z => (z.port 1).reqF.isEmpty && decide (z.mem = (s wr).mem) && privs z == [(0, 0x88000)]) = true ∧
    answers (exec (.indirectStreamRow 0 3) (i idx)) (fun z => ((z.die 0).engines.find 3).any (fun y => y.next == 1) && (z.port 1).reply.isEmpty && privs z == [(0, 0x88000)]) = true := by
  decide +kernel

/-- Flits sent with room in the retry buffer and without; wrong CRCs, the sixteenth in a row (AkendFlits). -/
theorem witness_AkendFlits_sent :
    let a : Akend := { Akend.reset with up := true, rxSeq := 5, txSeq := 7 }
    let full : Akend := { a with retry := List.replicate 64 [] }
    let p : PendFlit := { type := 0, nbeat := 2, slot := 9, credit := 3, payload := [1, 2] }
    let y (n l : Nat) : State := { tQ tQRegion [] with akend := [(4, { a with consec := (List.range 16).map (fun i => (i, n)), badLanes := List.range l })] }
    (a.send p).txSeq = 8 ∧ (a.send p).retry.length = 1 ∧ (a.send p).pend = [] ∧ (a.send p).out.map (fun x => (x.length, fieldAt x 0 2, fieldAt x 2 2, fieldAt x 6 2)) = [(256, 7, 4, 9)] ∧
    full.send p = { full with pend := [p] } ∧
    -- whichever lane is picked: the fifteenth in a row, the sixteenth with lanes enough left, and with too few
    (∀ k ∈ List.range 8, ((y 14 0).ak 4).consec.get (nth ((y 14 0).goodLanes 4) k 0) 0 + 1 = 15) ∧
    (∀ k ∈ List.range 8, ((y 15 0).ak 4).consec.get (nth ((y 15 0).goodLanes 4) k 0) 0 + 1 = 16 ∧
      4 ≤ (((y 15 0).modAk 4 fun a => { a with badLanes := a.badLanes ++ [nth ((y 15 0).goodLanes 4) k 0] }).goodLanes 4).length) ∧
    (∀ k ∈ List.range 4, (((y 15 4).modAk 4 fun a => { a with badLanes := a.badLanes ++ [nth ((y 15 4).goodLanes 4) k 0] }).goodLanes 4).length < 4) := by decide +kernel

/-- Collectives with ranks of another module: a link that is lacking, links that are all up, a peer's data (CollectivesRun). -/
theorem witness_CollectivesRun_peers :
    let c : List Byte := tCmd 0 3 0 1
    let g := tGroup 20 3
    let s : State := tColl c g [tOn c 0 none] []
    let up : State := { s with akend := (List.range 32).map (fun q => (q, { Akend.reset with up := true })) }
    s.linkLacks g = true ∧ (tColl c (tGroup 20 0) [] []).linkLacks (tGroup 20 0) = false ∧ (∃ x ∈ up.akend, x.2.up = true) ∧ (∀ q < 32, (up.ak q).up = true) ∧
    (up.rankData g c [{ rank := 1, bytes := [8, 0, 0, 0], status := 0x14 }] 1).isSome = true ∧ (up.rankData g c [] 1).isNone = true ∧
    up.localRank g c (grEntry g 0) 0 = some (tOn c 0 none) ∧ ((s.endAll 0 0 c 0x14).collOf 0 0).map (·.ended) = [some (0x14, 0)] := by
  refine ⟨by decide +kernel, by decide +kernel, ⟨(0, { Akend.reset with up := true }), by simp, rfl⟩, by decide +kernel, by decide +kernel, by decide +kernel,
    by decide +kernel, by decide +kernel⟩

/-- EXACT sums of 2^24, 1 and -2^24, where the tree's lose the 1 (CollectivesRun). -/
theorem test_exact_sums :
    let vals : List Nat := [0x4B800000, 0x3F800000, 0xCB800000]
    (∀ v ∈ vals, (b32.val v).nonFinite = false) ∧ (accumSum (vals.map (fun v => accumOf (v, 0)))).final.1 = 0x3F800000 ∧
    (reduceElem 0 0 [0x4B800000, 0x3F800000, 0x00000000]).1 = 0x4B800000 := by decide +kernel

/-- An object that does not translate, as a page fault of the hart (LoadsAndBoot). -/
theorem witness_LoadsAndBoot_addresses :
    let s := (tQ { tQRegion with state := .claimed } []).setHart 0 { tHart with mode := .vs, vsatp := 0xE000000000000010 }
    (s.hart 0).wait = none ∧ s.hartOut 0 = false ∧ 1 ≤ (s.hart 0).mode.level ∧ tQRegion.part = (s.hart 0).actPart ∧
    (readObject s.mem (s.hart 0).xlate 0x40000000).toOption = none ∧
    answers (exec (.loaderLoad 0 0 0x40000000 0x14000) s) (fun t => (t.hart 0).rcsr mCAUSE == 13 && (t.hart 0).rcsr mTVAL == 0x40000000) = true := by decide +kernel

end Sys2Proof.Tests
end

section
/-! PROOF. What every function of the model does to the memory of a state, and that every step keeps memory in its canonical form (O60):
a function leaves the memory as it is (`…_mem`), or keeps its form (`…_wf`). The lemmas stand in the order of the model's files. -/

namespace Sys2Proof.Machine

open Sys2Proof.Config

/-! ### Memory operations -/

/-- A fold keeps the form of the memory where each of its steps does. -/
theorem Memory.foldl_wf {α : Type} {f : Memory → α → Memory} (hf : ∀ m a, m.wf → (f m a).wf) (l : List α) {m : Memory} (h : m.wf) :
    (l.foldl f m).wf := by
  induction l generalizing m with
  | nil => exact h
  | cons a l ih => exact ih (hf m a h)

@[simp] theorem State.foldl_mem {α : Type} {f : State → α → State} (hf : ∀ s a, (f s a).mem = s.mem) (l : List α) (s : State) :
    (l.foldl f s).mem = s.mem := by
  induction l generalizing s with
  | nil => rfl
  | cons a l ih => rw [List.foldl_cons, ih, hf]

@[simp] theorem State.foldl_wf {α : Type} {f : State → α → State} (hf : ∀ s a, s.mem.wf → (f s a).mem.wf)
    (l : List α) {s : State}
    (h : s.mem.wf) : (l.foldl f s).mem.wf := by
  induction l generalizing s with
  | nil => exact h
  | cons a l ih => exact ih (hf s a h)

/-- A fold of steps that may fail leaves the memory where each step does. -/
theorem State.foldl_bind_mem {α : Type} {f : State → α → Option State}
    (hf : ∀ s t a, f s a = some t → t.mem = s.mem) (l : List α)
    {s t : State} (ht : l.foldl (fun o a => o.bind fun s => f s a) (some s) = some t) : t.mem = s.mem := by
  induction l generalizing s with
  | nil => cases ht; rfl
  | cons a l ih =>
    rw [List.foldl_cons, Option.bind_some] at ht
    cases h : f s a with
    | none =>
      rw [h] at ht
      have hn : l.foldl (fun o a => o.bind fun s => f s a) (none : Option State) = none := by
        clear ht ih
        induction l with
        | nil => rfl
        | cons b l ihl => exact ihl
      rw [hn] at ht
      cases ht
    | some u => rw [h] at ht; rw [ih ht, hf s u a h]

theorem Memory.wf_filter {m : Memory} (h : m.wf) (f : Host.Cell → Bool) : Memory.wf (m.filter f) := by
  rw [Memory.wf_iff] at h ⊢
  exact ⟨h.1.filter _, fun c hc => h.2 c (List.mem_of_mem_filter hc)⟩

@[simp] theorem putPieces_wf {m : Memory} (ps : List (Nat × Nat)) (bs : List Byte) (h : m.wf) :
    (putPieces m ps bs).wf := by
  induction ps generalizing m bs with
  | nil => exact h
  | cons q ps ih => exact ih _ (Memory.wf_write h _ _)

theorem vwrite_wf {m m' : Memory} {x : Xlate} {va : Nat} {bs : List Byte} (h : m.wf)
    (hw : vwrite m x va bs = .ok m') :
    m'.wf := by
  unfold vwrite at hw
  cases hl : locate m x .write va (piecesOf va bs.length) with
  | error e => rw [hl] at hw; cases hw
  | ok ps => rw [hl] at hw; cases hw; exact putPieces_wf ps bs h

/-- An entry pointed at another granule keeps the form. -/
@[simp] theorem Memory.aim_wf {m : Memory} (h : m.wf) (a g : Nat) : (m.aim a g).wf := Memory.wf_writeN h _ _ _

/-- A shadow made visible keeps the form, whether entries or bytes change places. -/
@[simp] theorem Shadow.show_wf (x : Shadow) {m : Memory} (h : m.wf) (s2 : Option Nat) : (x.show m s2).wf := by
  have hb := Memory.wf_zero (Memory.wf_write h (x.pa * 65536) (m.read (x.own * 65536) 65536)) (x.own * 65536) (x.own * 65536 + 65536)
  unfold Shadow.show
  split
  · next a b _ _ =>
    split
    · exact Memory.wf_zero (Memory.aim_wf (Memory.aim_wf h _ _) _ _) _ _
    · exact hb
  · exact hb

theorem writeData_wf {m m' : Memory} {x : Xlate} {l : List (Nat × Nat)} {bs : List Byte} (h : m.wf) (hw : writeData m x l bs = .ok m') :
    m'.wf := by
  induction l generalizing m bs with
  | nil => cases hw; exact h
  | cons q l ih =>
    unfold writeData at hw
    split at hw
    · cases hw
    · next hm => exact ih (vwrite_wf h hm) hw

@[simp] theorem glowAdd_wf {m : Memory} (h : m.wf) (page slot q : Nat) : (glowAdd m page slot q).wf := by
  unfold glowAdd
  dsimp only
  split
  · exact Memory.wf_put (Memory.wf_writeN h _ _ _) _ _
  · exact Memory.wf_writeN h _ _ _

theorem twrite_wf {m m' : Memory} {x : Xlate} {va : Nat} {bs : List Byte} (h : m.wf)
    (hw : twrite m x va bs = .ok m') :
    m'.wf := by
  unfold twrite at hw
  split at hw
  · next hm => cases hw; exact vwrite_wf h hm
  · cases hw

theorem writePages_wf {x : Xlate} {c : TrimCmd} {gs : List ChainPage} {keep : List Tok} {n' : Nat}
    {l : List (Nat × Nat × Nat)}
    {m m' : Memory} (h : m.wf) (hw : writePages x c gs keep n' l m = .ok m') : m'.wf := by
  induction l generalizing m with
  | nil => cases hw; exact h
  | cons q l ih =>
    unfold writePages at hw
    dsimp only at hw
    split at hw
    · cases hw
    · next h1 =>
      split at hw
      · cases hw
      · next h2 => exact ih (twrite_wf (twrite_wf h h1) h2) hw

theorem scatterElems_wf {m m' : Memory} {x : Xlate} {va : Dword} {size : Nat} {v : List Byte}
    {l : List (Nat × Dword)} (h : m.wf)
    (hw : scatterElems m x va size v l = .ok m') : m'.wf := by
  induction l generalizing m with
  | nil => cases hw; exact h
  | cons q l ih =>
    unfold scatterElems at hw
    split at hw
    · cases hw
    · next hm => exact ih (vwrite_wf h hm) hw

@[simp] theorem movePage_wf {m : Memory} (h : m.wf) (l : Leaf) (old new n : Nat) : (movePage m l old new n).wf :=
  Memory.wf_zero (Memory.wf_writeN (Memory.wf_write (Memory.wf_zero h _ _) _ _) _ _ _) _ _

/-- An outcome whose next state has its memory in canonical form. -/
def NextWf (o : Host.Outcome State Fault Refusal) : Prop := ∀ t, o = .next t → t.mem.wf

@[simp] theorem nextWf_next {t : State} : NextWf (.next t) ↔ t.mem.wf := by simp [NextWf]
@[simp] theorem nextWf_fault {r : Fault} : NextWf (.fault r) := by simp [NextWf]
@[simp] theorem nextWf_refused {r : Refusal} : NextWf (.refused r) := by simp [NextWf]

/-! ### The functions of Machine/Ops -/

@[simp] theorem State.pick_mem (s : State) (n : Nat) : (s.pick n).2.mem = s.mem := rfl

@[simp] theorem State.modListed_mem (s : State) (r : Region) (f : Tile → Tile) : (s.modListed r f).mem = s.mem := rfl

@[simp] theorem State.zeroTiles_mem (s : State) (r : Region) : (s.zeroTiles r).mem = s.mem := rfl

@[simp] theorem State.freeSlot_mem (s : State) (p tbl : Nat) : (s.freeSlot p tbl).2.mem = s.mem := rfl

/-! ### The functions of Machine/Akend -/

@[simp] theorem State.modAk_mem (s : State) (port : Nat) (f : Akend → Akend) : (s.modAk port f).mem = s.mem := rfl

@[simp] theorem State.sendFlit_mem (s : State) (port type nbeat slot credit : Nat) (payload : List Byte) :
    (s.sendFlit port type nbeat slot credit payload).mem = s.mem :=
  rfl

@[simp] theorem State.sendBare_mem (s : State) (port type : Nat) : (s.sendBare port type).mem = s.mem := rfl

/-! ### The functions of Machine/Translate -/

@[simp] theorem State.gwrite_wf (s : State) (p ga : Nat) (bs : List Byte) (hs : s.mem.wf) :
    (s.gwrite p ga bs).mem.wf := by
  grind [State.gwrite, vwrite_wf]

/-! ### The functions of Machine/Faults -/

@[simp] theorem State.count32_wf (s : State) (p ga : Nat) (hs : s.mem.wf) : (s.count32 p ga).mem.wf := by
  simp [State.count32, hs]

@[simp] theorem State.errCount_wf (s : State) (p off : Nat) (hs : s.mem.wf) : (s.errCount p off).mem.wf := by
  unfold State.errCount
  (repeat' split) <;> simp [hs]

@[simp] theorem State.modCount_mem (s : State) (i : Nat) : (s.modCount i).mem = s.mem := rfl

@[simp] theorem State.post_wf (s : State) (p : Nat) (guest hv : Bool) (r : FaultRec) (hs : s.mem.wf) :
    (s.post p guest hv r).mem.wf := by
  unfold State.post
  dsimp only
  (repeat' split) <;> simp [hs]

@[simp] theorem State.trace_wf (s : State) (rn kind : Nat) (d0 d1 : Nat) (hs : s.mem.wf) :
    (s.trace rn kind d0 d1).mem.wf := by
  unfold State.trace
  dsimp only
  (repeat' split) <;> simp [hs]

@[simp] theorem State.postRg_wf (s : State) (p rn : Nat) (guest hv : Bool) (r : FaultRec) (hs : s.mem.wf) :
    (s.postRg p rn guest hv r).mem.wf := by
  simp [State.postRg, hs]

@[simp] theorem State.withdrawAcqs_mem (s : State) (rn p : Nat) : (s.withdrawAcqs rn p).mem = s.mem := rfl

@[simp] theorem State.freeze_mem (s : State) (rn why : Nat) : (s.freeze rn why).mem = s.mem := by
  unfold State.freeze
  (repeat' split) <;> simp

@[simp] theorem State.faultFreeze_wf (s : State) (rn why : Nat) (r : FaultRec) (hs : s.mem.wf) :
    (s.faultFreeze rn why r).mem.wf := by
  unfold State.faultFreeze
  split <;> simp [hs]

@[simp] theorem State.seqTrap_wf (s : State) (rn code : Nat) (addr aux : Dword) (hs : s.mem.wf) :
    (s.seqTrap rn code addr aux).mem.wf := by
  unfold State.seqTrap
  split <;> simp [hs]

@[simp] theorem State.elemTrap_wf (s : State) (t code rule stage lane : Nat) (kinds : List (BitVec 4))
    (tags : List Word) (hs : s.mem.wf) :
    (s.elemTrap t code rule stage lane kinds tags).mem.wf := by
  unfold State.elemTrap
  split <;> simp [hs]

@[simp] theorem State.withhold_wf (s : State) (p rn : Nat) (who : Holder) (counts guest hv : Bool) (r : FaultRec)
    (hs : s.mem.wf) :
    (s.withhold p rn who counts guest hv r).mem.wf := by
  simp [State.withhold, hs]

@[simp] theorem State.withholdX_wf (s : State) (rn : Nat) (who : Holder) (src place detail : Nat) (f : XFault)
    (write : Bool) (va : Nat) (hs : s.mem.wf) :
    (s.withholdX rn who src place detail f write va).mem.wf := by
  unfold State.withholdX
  split <;> simp [hs]

@[simp] theorem State.withholdEngine_wf (s : State) (p rn : Nat) (who : Holder) (f : XFault) (write : Bool)
    (va : Nat) (stack : Option Nat) (hs : s.mem.wf) :
    (s.withholdEngine p rn who f write va stack).mem.wf := by
  simp [State.withholdEngine, hs]

@[simp] theorem State.withholdHart_wf (s : State) (rn : Nat) (who : Holder) (x : Xlate) (detail : Nat)
    (f : XFault) (write : Bool) (va : Nat) (hs : s.mem.wf) :
    (s.withholdHart rn who x detail f write va).mem.wf := by
  simp [State.withholdHart, hs]

@[simp] theorem State.priv_wf (s : State) (p level : Nat) (r : FaultRec) (hs : s.mem.wf) :
    (s.priv p level r).mem.wf := by
  unfold State.priv
  split <;> simp [hs]

/-! ### The functions of Machine/Records -/

@[simp] theorem State.push_mem (s : State) (p q : Nat) (c : Cont) : (s.push p q c).mem = s.mem := rfl

@[simp] theorem State.pushReserve_mem (s : State) (p q : Nat) (c : Cont) (period : Option Nat) :
    (s.pushReserve p q c period).mem = s.mem :=
  rfl

theorem State.allocFrames_mem {s : State} {p k : Nat} {a t} (ht : s.allocFrames p k = some (a, t)) : t.mem = s.mem := by
  grind [State.allocFrames, State.pick_mem, State.modPart_mem]

@[simp] theorem State.freeFrames_mem (s : State) (p : Nat) (us : List Nat) : (s.freeFrames p us).mem = s.mem := rfl

@[simp] theorem State.joinRetire_wf (fuel : Nat) (s : State) (p : Nat) (x : Xlate) (addr status iidx : Nat) (hs : s.mem.wf) :
    (State.joinRetire fuel s p x addr status iidx).mem.wf := by
  induction fuel generalizing s x addr status iidx with
  | zero => simp [State.joinRetire, hs]
  | succ fuel ih =>
    unfold State.joinRetire
    dsimp only
    (repeat' split) <;> simp [hs, ih, Memory.wf_write]

@[simp] theorem State.retireJoin_wf (s : State) (p : Nat) (x : Xlate) (addr status iidx : Nat) (hs : s.mem.wf) :
    (s.retireJoin p x addr status iidx).mem.wf := by
  simp [State.retireJoin, hs]

@[simp] theorem State.pushOr_wf (s : State) (p q : Nat) (x : Xlate) (c : Cont) (period : Option Nat) (hs : s.mem.wf) :
    (s.pushOr p q x c period).mem.wf := by
  unfold State.pushOr
  split <;> simp [hs]

theorem State.joinSpawn_wf {s : State} {x : Xlate} {addr : Nat} {t} (hs : s.mem.wf)
    (ht : s.joinSpawn x addr = .ok (some t)) :
    t.mem.wf := by
  grind [State.joinSpawn, Memory.wf_writeN]

theorem State.joinArm_wf {s : State} {p : Nat} {x : Xlate} {addr q : Nat} {c : Cont} {a t} (hs : s.mem.wf)
    (ht : s.joinArm p x addr q c = .ok (a, t)) :
    t.mem.wf := by
  grind [State.joinArm, Memory.wf_write, State.pushReserve_mem]

@[simp] theorem State.expand_wf (s : State) (p q prio cls : Nat) (b : List Byte) (us : List Nat) (hs : s.mem.wf) :
    (s.expand p q prio cls b us).mem.wf := by
  unfold State.expand
  refine State.foldl_wf (fun s k hs => ?_) _ (s.gwrite_wf _ _ _ hs)
  rw [State.push_mem]
  exact s.gwrite_wf _ _ _ hs

@[simp] theorem State.modLaunch_mem (s : State) (p q no : Nat) (f : Launch → Launch) :
    (s.modLaunch p q no f).mem = s.mem :=
  rfl

@[simp] theorem State.expandNext_wf (s : State) (p q : Nat) (hs : s.mem.wf) : (s.expandNext p q).mem.wf := by
  unfold State.expandNext
  split
  · exact hs
  · split
    · exact hs
    · dsimp only
      split
      · exact hs
      · split
        · exact hs
        · next h => exact State.expand_wf _ _ _ _ _ _ _ (by simp [State.allocFrames_mem h, hs])

@[simp] theorem State.expandAll_wf (n : Nat) (s : State) (p q : Nat) (hs : s.mem.wf) :
    (State.expandAll n s p q).mem.wf := by
  induction n generalizing s with
  | zero => exact hs
  | succ n ih => unfold State.expandAll; split <;> simp [hs, ih]

@[simp] theorem State.expandEarlier_wf (s : State) (p q : Nat) (hs : s.mem.wf) : (s.expandEarlier p q).mem.wf := by
  simp [State.expandEarlier, hs]

theorem State.dispatch_wf {s : State} {p : Nat} {x : Xlate} {b blk : List Byte} {iidx : Nat} {a : Dword}
    {t : State} (hs : s.mem.wf)
    (ht : s.dispatch p x b blk iidx = .ok (a, t)) : t.mem.wf := by
  unfold State.dispatch at ht
  dsimp only at ht
  split at ht
  · cases ht; exact hs
  · split at ht
    · cases ht; exact hs
    · split at ht
      · cases ht; exact hs
      · split at ht
        · cases ht; exact hs
        · split at ht
          · cases ht
          · cases ht; exact hs
          · next h1 =>
            have := State.joinSpawn_wf (s.expandEarlier_wf p _ hs) h1
            split at ht
            · cases ht; exact hs
            · next h2 => cases ht; exact State.expand_wf _ _ _ _ _ _ _ (by simpa [State.allocFrames_mem h2])

theorem State.pushRec_wf {s : State} {p : Nat} {x : Xlate} {qh : Nat} {c : Cont} {iidx : Nat} {a t}
    (hs : s.mem.wf) (ht : s.pushRec p x qh c iidx = .ok (a, t)) :
    t.mem.wf := by
  grind [State.pushRec, State.joinSpawn_wf, State.push_mem]

theorem State.armJoin_wf {s : State} {p : Nat} {x : Xlate} {blk : List Byte} {a t} (hs : s.mem.wf)
    (ht : s.armJoin p x blk = .ok (a, t)) :
    t.mem.wf := by
  grind [State.armJoin, State.joinArm_wf]

/-! ### The functions of Machine/Sync -/

@[simp] theorem State.soAnswer_mem (s : State) (p : Nat) (r : SoReply) (v : Dword) : (s.soAnswer p r v).mem = s.mem := by
  unfold State.soAnswer
  split <;> simp

@[simp] theorem State.modSo_mem (s : State) (p slot : Nat) (f : SyncObj → SyncObj) : (s.modSo p slot f).mem = s.mem :=
  rfl

@[simp] theorem State.grant_mem (s : State) (p slot : Nat) : (s.grant p slot).mem = s.mem := by
  unfold State.grant
  split <;> simp

theorem State.soRelease_mem {s : State} {p slot : Nat} {who : SoParty} {t} (ht : s.soRelease p slot who = some t) :
    t.mem = s.mem := by
  grind [State.soRelease, State.modSo_mem]

@[simp] theorem State.soWithdraw_mem (s : State) (p slot : Nat) (who : SoParty) :
    (s.soWithdraw p slot who).mem = s.mem :=
  rfl

@[simp] theorem State.releaseAll_mem (s : State) (p : Nat) (who : SoParty) : (s.releaseAll p who).mem = s.mem := by
  unfold State.releaseAll
  simp only [State.modPart_mem]
  refine State.foldl_mem (fun s a => ?_) _ _
  cases h : s.soRelease p a who with
  | none => rfl
  | some t => exact State.soRelease_mem h

@[simp] theorem State.soRel_mem (s : State) (p h : Nat) (who : SoParty) : (s.soRel p h who).2.mem = s.mem := by
  grind [State.soRel, State.soRelease_mem]

@[simp] theorem State.soAcq_mem (s : State) (p h : Nat) (who : SoParty) (excl try_ : Bool) (scope : Nat)
    (reply : SoReply) :
    (s.soAcq p h who excl try_ scope reply).2.mem = s.mem := by
  grind [State.soAcq, State.setPart_mem]

@[simp] theorem State.moveHolds_mem (s : State) (p : Nat) (old new : SoParty) : (s.moveHolds p old new).mem = s.mem :=
  rfl

@[simp] theorem State.soEnd_mem (s : State) (p slot : Nat) : (s.soEnd p slot).mem = s.mem := by
  unfold State.soEnd
  split <;> simp

/-! ### The functions of Machine/Regions -/

theorem State.makeShadows_wf {l : List (Nat × Nat)} {s t : State} {rn : Nat} (hs : s.mem.wf) (ht : State.makeShadows l s rn = some t) :
    t.mem.wf := by
  induction l generalizing s with
  | nil => grind [State.makeShadows]
  | cons q l ih => unfold State.makeShadows at ht; grind [Memory.wf_write, State.setRegion_mem]

theorem State.rwrite_wf {s : State} {rn va : Nat} {bs : List Byte} {t : State} (hs : s.mem.wf) (ht : s.rwrite rn va bs = .ok (some t)) :
    t.mem.wf := by
  unfold State.rwrite at ht
  split at ht
  · cases ht; exact hs
  · split at ht
    · cases ht
    · split at ht
      · cases ht
      · next h =>
        have hm := State.makeShadows_wf hs h
        split at ht <;> cases ht
        · exact hm
        · exact putPieces_wf _ _ hm

@[simp] theorem State.showShadows_wf (s : State) (rn : Nat) (hs : s.mem.wf) : (s.showShadows rn).mem.wf := by
  unfold State.showShadows
  dsimp only
  split
  · exact hs
  · split
    · exact hs
    · exact Memory.foldl_wf (fun m x hm => x.show_wf hm _) _ hs

@[simp] theorem State.dropShadows_wf (s : State) (rn : Nat) (hs : s.mem.wf) : (s.dropShadows rn).mem.wf := by
  unfold State.dropShadows
  split
  · exact hs
  · exact Memory.foldl_wf (fun m x hm => Memory.wf_zero hm _ _) _ hs

@[simp] theorem State.stopped_wf (s : State) (rn why : Nat) (hs : s.mem.wf) : (s.stopped rn why).mem.wf := by
  unfold State.stopped
  split <;> simp [hs]

@[simp] theorem State.endPeriod_wf (s : State) (rn status : Nat) (hs : s.mem.wf) : (s.endPeriod rn status).mem.wf := by
  unfold State.endPeriod
  (repeat' split) <;> simp [hs]

@[simp] theorem State.countStale_wf (s : State) (rn p : Nat) (hs : s.mem.wf) : (s.countStale rn p).mem.wf := by
  unfold State.countStale
  simp +contextual [hs]

@[simp] theorem State.dropSlot_mem (s : State) (p : Port) : (s.dropSlot p).mem = s.mem := by
  unfold State.dropSlot
  dsimp only
  split
  · rfl
  · split
    · rfl
    · exact State.foldl_mem (fun s _ => s.sendFlit_mem _ _ _ _ _ _) _ _

@[simp] theorem State.dropPorts_mem (s : State) (rn : Nat) : (s.dropPorts rn).mem = s.mem := by
  unfold State.dropPorts
  exact State.foldl_mem (fun s (x : Nat × Port) => s.dropSlot_mem x.2) _ _

@[simp] theorem State.dropStreams_mem (s : State) (rn : Nat) : (s.dropStreams rn).mem = s.mem := rfl

@[simp] theorem State.dropHeld_mem (s : State) (rn : Nat) : (s.dropHeld rn).mem = s.mem := rfl

@[simp] theorem State.zeroRegion_mem (s : State) (rn : Nat) : (s.zeroRegion rn).mem = s.mem := by
  unfold State.zeroRegion
  split <;> simp

@[simp] theorem State.installed_mem (s : State) (c : CfgResult) : (s.installed c).mem = s.mem := by
  unfold State.installed
  split <;> simp

@[simp] theorem State.putResult_wf (s : State) (rn : Nat) (c : CfgResult) (hs : s.mem.wf) :
    (s.putResult rn c).mem.wf := by
  unfold State.putResult
  split
  · next h => simp [vwrite_wf hs h]
  · split <;> simp [hs]

@[simp] theorem State.putInstall_wf (s : State) (rn : Nat) (i : Install) (status : Nat)
    (win : Option (Nat × Nat)) (idx : Option Byte) (off : Nat) (next : Option (Nat × RgState × Half)) (hs : s.mem.wf) :
    (s.putInstall rn i status win idx off next).mem.wf := by
  simp [State.putInstall, hs]

@[simp] theorem State.forgetResults_mem (s : State) (rn : Nat) : (s.forgetResults rn).mem = s.mem := rfl

@[simp] theorem State.abandon_wf (s : State) (rn : Nat) (hs : s.mem.wf) : (s.abandon rn).mem.wf := by
  grind [State.abandon, State.forgetResults_mem, State.trace_wf, State.putInstall_wf, vwrite_wf,
    State.modRegion_mem]

@[simp] theorem State.replay_wf (s : State) (r : Region) (hs : s.mem.wf) : (s.replay r).mem.wf := by
  unfold State.replay
  split <;> simp [hs]

@[simp] theorem State.kill_wf (s : State) (rn : Nat) (status : Option Nat) (hs : s.mem.wf) :
    (s.kill rn status).mem.wf := by
  grind [State.kill, State.modRegion_mem, State.countStale_wf, State.abandon_wf, State.dropShadows_wf,
    State.withdrawAcqs_mem, State.releaseAll_mem, State.endPeriod_wf, State.replay_wf, State.zeroRegion_mem]

@[simp] theorem State.freeRegion_mem (s : State) (rn : Nat) : (s.freeRegion rn).mem = s.mem := by
  unfold State.freeRegion
  dsimp only
  (repeat' split) <;> simp

@[simp] theorem State.settle_wf (s : State) (rn : Nat) (r : Region) (hs : s.mem.wf) : (s.settle rn r).mem.wf := by
  unfold State.settle
  (repeat' split) <;> simp [hs]

/-! ### The functions of Machine/Guard -/

@[simp] theorem State.rgPriv_wf (s : State) (rn src place detail va : Nat) (write : Bool) (hs : s.mem.wf) :
    (s.rgPriv rn src place detail va write).mem.wf := by
  unfold State.rgPriv
  split <;> simp [hs]

/-! ### The functions of Machine/Operands -/

@[simp] theorem State.seqNext_mem (s : State) : (s.seqNext).mem = s.mem := by simp [State.seqNext]

@[simp] theorem State.seqResult_mem (s : State) (d : Reg) (v : Dword) : (s.seqResult d v).mem = s.mem := by
  simp [State.seqResult]

@[simp] theorem State.trapNow_wf (s : State) (code : Nat) (hs : s.mem.wf) : (s.trapNow code).mem.wf := by
  simp [State.trapNow, hs]

@[simp] theorem State.issue_wf (s : State) (srcs : List Src) (dst : Option Reg) (f : Region → State → State)
    (hs : s.mem.wf)
    (hf : ∀ r s, s.mem.wf → (f r s).mem.wf) : (s.issue srcs dst f).mem.wf := by
  rcases s.issue_cases srcs dst f with h | h | ⟨r, _, h⟩ <;> rw [h]
  · exact hs
  · exact s.trapNow_wf _ hs
  · exact hf r s hs

@[simp] theorem State.issueRunning_wf (s : State) (srcs : List Src) (dst : Option Reg)
    (f : Region → State → State) (hs : s.mem.wf)
    (hf : ∀ r s, s.mem.wf → (f r s).mem.wf) : (s.issueRunning srcs dst f).mem.wf :=
  s.issue_wf _ _ _ hs fun r s hs => by
    split
    · exact hf r s hs
    · exact hs

@[simp] theorem State.xResult_mem (s : State) (rd : Reg) (v : Dword) : (s.xResult rd v).mem = s.mem := rfl

@[simp] theorem State.xErr_mem (s : State) (rd : Reg) (code : Nat) : (s.xErr rd code).mem = s.mem := rfl

@[simp] theorem State.hartTrap_mem (s : State) (n cause : Nat) (tval tval2 : Dword) :
    (s.hartTrap n cause tval tval2).mem = s.mem :=
  rfl

@[simp] theorem State.hartFault_mem (s : State) (n : Nat) (f : XFault) (write fetch : Bool) (va : Nat) :
    (s.hartFault n f write fetch va).mem = s.mem :=
  rfl

@[simp] theorem State.xRefuse_wf (s : State) (rd : Reg) (adr : Option Reg) (hs : s.mem.wf) :
    (s.xRefuse rd adr).mem.wf := by
  simp [State.xRefuse, hs]

@[simp] theorem State.xPriv_wf (s : State) (rd : Reg) (least : Nat) (adr : Option Reg) (f : Hart → State → State)
    (hs : s.mem.wf)
    (hf : ∀ h s, s.mem.wf → (f h s).mem.wf) : (s.xPriv rd least adr f).mem.wf := by
  unfold State.xPriv
  dsimp only
  (repeat' split) <;> simp [hs, hf]

@[simp] theorem State.xPart_wf (s : State) (rd : Reg) (least : Nat) (adr : Option Reg)
    (f : Hart → Nat → State → State) (hs : s.mem.wf)
    (hf : ∀ h p s, s.mem.wf → (f h p s).mem.wf) : (s.xPart rd least adr f).mem.wf :=
  s.xPriv_wf _ _ _ _ hs fun h s hs => by split <;> simp [hs, hf]

@[simp] theorem State.xBlock_wf (s : State) (rd : Reg) (h : Hart) (va : Dword) (n k : Nat)
    (f : List Byte → State → State) (hs : s.mem.wf)
    (hf : ∀ bs s, s.mem.wf → (f bs s).mem.wf) : (s.xBlock rd h va n k f).mem.wf := by
  unfold State.xBlock
  (repeat' split) <;> simp [hs, hf]

/-! ### The functions of Machine/Pod -/

@[simp] theorem State.linksUp_mem (s : State) : (s.linksUp).mem = s.mem := by
  unfold State.linksUp
  exact State.foldl_mem (fun s a => by simp) _ _

@[simp] theorem State.flood_mem (s : State) (type : Nat) (payload : List Byte) :
    (s.flood type payload).mem = s.mem := by
  unfold State.flood
  exact State.foldl_mem (fun s a => by simp) _ _

@[simp] theorem State.portDown_wf (s : State) (port : Nat) (hs : s.mem.wf) : (s.portDown port).mem.wf := by
  unfold State.portDown
  simp +contextual [hs]

@[simp] theorem State.askRetry_mem (s : State) (port : Nat) : (s.askRetry port).mem = s.mem := rfl

@[simp] theorem State.laneFails_wf (s : State) (port : Nat) (hs : s.mem.wf) : (s.laneFails port).mem.wf := by
  unfold State.laneFails
  dsimp only
  (repeat' split) <;> simp [hs]

@[simp] theorem State.flitIn_wf (s : State) (port : Nat) (b : List Byte) (isType : Nat → Bool)
    (f : State → State) (hs : s.mem.wf)
    (hf : ∀ s, s.mem.wf → (f s).mem.wf) : (s.flitIn port b isType f).mem.wf := by
  unfold State.flitIn
  dsimp only
  (repeat' split) <;> simp [hs, hf]

@[simp] theorem State.bareIn_wf (s : State) (port : Nat) (b : List Byte) (type : Nat) (f : Akend → Akend)
    (hs : s.mem.wf) :
    (s.bareIn port b type f).mem.wf := by
  unfold State.bareIn
  dsimp only
  (repeat' split) <;> simp [hs]

@[simp] theorem State.drainSlot_mem (n : Nat) (s : State) (port slot : Nat) :
    (State.drainSlot n s port slot).mem = s.mem := by
  induction n generalizing s with
  | zero => rfl
  | succ n ih =>
    unfold State.drainSlot
    (repeat' split) <;> simp [ih]

@[simp] theorem execAkendDataFlit_wf (port : Nat) (flit : List Byte) (s : State) (hs : s.mem.wf) :
    NextWf (execAkendDataFlit port flit s) := by
  unfold execAkendDataFlit
  refine nextWf_next.2 (s.flitIn_wf _ _ _ _ hs fun s hs => ?_)
  dsimp only
  (repeat' split) <;> simp [hs]

@[simp] theorem execAkendCreditFlit_wf (port : Nat) (flit : List Byte) (s : State) (hs : s.mem.wf) :
    NextWf (execAkendCreditFlit port flit s) := by
  simp [execAkendCreditFlit, hs]

@[simp] theorem execAkendRetryRequest_wf (port : Nat) (flit : List Byte) (s : State) (hs : s.mem.wf) :
    NextWf (execAkendRetryRequest port flit s) := by
  simp [execAkendRetryRequest, hs]

@[simp] theorem execAkendIdleFlit_wf (port : Nat) (flit : List Byte) (s : State) (hs : s.mem.wf) :
    NextWf (execAkendIdleFlit port flit s) := by
  simp [execAkendIdleFlit, hs]

@[simp] theorem execAkendReservedFlitType_wf (port : Nat) (flit : List Byte) (s : State) (hs : s.mem.wf) :
    NextWf (execAkendReservedFlitType port flit s) := by
  unfold execAkendReservedFlitType
  refine nextWf_next.2 (s.flitIn_wf _ _ _ _ hs fun s hs => ?_)
  simp [hs]

@[simp] theorem State.grantSlot_mem (s : State) (port slot : Nat) : (s.grantSlot port slot).mem = s.mem := by
  unfold State.grantSlot
  split <;> simp

@[simp] theorem State.linkPort_mem (s : State) (rn : Nat) (r : Region) (e : Nat × Nat × Nat × PodLink) :
    (s.linkPort rn r e).mem = s.mem := by
  grind [State.linkPort, State.modPort_mem, State.drainSlot_mem, State.grantSlot_mem]

@[simp] theorem State.readChannels_mem (s : State) (rn : Nat) : (s.readChannels rn).mem = s.mem := by
  unfold State.readChannels
  dsimp only
  (repeat' split) <;> simp

@[simp] theorem State.sendBeat_mem (s : State) (l : PodLink) (b : Beat) : (s.sendBeat l b).mem = s.mem := rfl

@[simp] theorem State.linkRequest_wf (s : State) (rn emp ch : Nat) (r : Region) (hs : s.mem.wf) :
    (s.linkRequest rn emp ch r).mem.wf := by
  unfold State.linkRequest
  dsimp only
  (repeat' split) <;> simp [hs]

@[simp] theorem State.linkSend_mem (s : State) (k : Nat) : (s.linkSend k).mem = s.mem := by
  unfold State.linkSend
  (repeat' split) <;> simp

@[simp] theorem State.countVotes_mem (s : State) : (s.countVotes).mem = s.mem := rfl

@[simp] theorem State.adopt_mem (s : State) (e : Epoch) : (s.adopt e).mem = s.mem := by
  simp [State.adopt]

@[simp] theorem State.standFor_mem (s : State) (epoch : Nat) : (s.standFor epoch).mem = s.mem := by
  unfold State.standFor
  dsimp only
  (repeat' split) <;> simp

@[simp] theorem State.seePair_mem (s : State) (e : Epoch) : (s.seePair e).mem = s.mem := by
  unfold State.seePair
  dsimp only
  (repeat' split) <;> simp

@[simp] theorem State.seeAck_mem (s : State) (e : Epoch) (id : Dword) : (s.seeAck e id).mem = s.mem := by
  unfold State.seeAck
  split <;> simp

@[simp] theorem execAkendElectionFlit_wf (port : Nat) (flit : List Byte) (s : State) (hs : s.mem.wf) :
    NextWf (execAkendElectionFlit port flit s) := by
  unfold execAkendElectionFlit
  refine nextWf_next.2 (s.flitIn_wf _ _ _ _ hs fun s hs => ?_)
  (repeat' split) <;> simp [hs]

/-! ### The functions of Machine/Boot -/

@[simp] theorem State.coldReset_wf (s : State) (hs : s.mem.wf) : s.coldReset.mem.wf := Memory.wf_filter hs _

@[simp] theorem State.warmReset_mem (s : State) : (s.warmReset).mem = s.mem := rfl

@[simp] theorem execColdReset_wf (s : State) (hs : s.mem.wf) : NextWf (execColdReset s) := by
  simp [execColdReset, hs]

@[simp] theorem execRstcold_wf (s : State) (hs : s.mem.wf) : NextWf (execRstcold s) := by
  simp [execRstcold, hs]

@[simp] theorem execRstwarm_wf (s : State) (hs : s.mem.wf) : NextWf (execRstwarm s) := by
  simp [execRstwarm, hs]

@[simp] theorem execRst_wf (s : State) (hs : s.mem.wf) : NextWf (execRst s) := by simp [execRst, hs]

@[simp] theorem execPowerLoss_wf (s : State) (hs : s.mem.wf) : NextWf (execPowerLoss s) := by
  simp [execPowerLoss, hs]

@[simp] theorem State.stage_mem (s : State) (win : Nat) (b : List Byte) : (s.stage win b).mem = s.mem := rfl

@[simp] theorem State.rejectImage_mem (s : State) (win code : Nat) : (s.rejectImage win code).mem = s.mem := rfl

@[simp] theorem State.startFirmware_wf (s : State) (img : BootImage) (hs : s.mem.wf) :
    (s.startFirmware img).mem.wf := by
  unfold State.startFirmware
  rw [State.standFor_mem, State.linksUp_mem, State.foldl_mem fun _ _ => State.modHart_mem _ _ _]
  exact Memory.wf_write hs _ _

@[simp] theorem execFirmwareImageVerify_wf (win : Nat) (image : BootImage) (s : State) (hs : s.mem.wf) :
    NextWf (execFirmwareImageVerify win image s) := by
  unfold execFirmwareImageVerify
  (repeat' split) <;> simp [hs]

@[simp] theorem execHypervisorImageLoad_wf (win : Nat) (image : List Byte) (epoch : Nat) (id : Dword) (s : State)
    (hs : s.mem.wf) :
    NextWf (execHypervisorImageLoad win image epoch id s) := by
  unfold execHypervisorImageLoad
  (repeat' split) <;> simp [hs]

@[simp] theorem execFollowerLoadTimeout_wf (s : State) (hs : s.mem.wf) : NextWf (execFollowerLoadTimeout s) := by
  unfold execFollowerLoadTimeout
  (repeat' split) <;> simp [hs]

@[simp] theorem execLeaderHeal_wf (epoch : Nat) (id : Dword) (s : State) (hs : s.mem.wf) :
    NextWf (execLeaderHeal epoch id s) := by
  unfold execLeaderHeal
  dsimp only
  (repeat' split) <;> simp [hs]

/-! ### The functions of Machine/Elements -/

@[simp] theorem State.passEnd_mem (s : State) (t : Nat) : (s.passEnd t).mem = s.mem := by
  unfold State.passEnd
  split <;> simp

@[simp] theorem State.modTiles_mem (s : State) (l : List Nat) (f : Nat → Tile → Tile) :
    (s.modTiles l f).mem = s.mem := by
  unfold State.modTiles
  exact State.foldl_mem (fun s a => by simp) _ _

@[simp] theorem State.sectSpent_wf (s : State) (r : Region) (a : Nat) (hs : s.mem.wf) : (s.sectSpent r a).mem.wf := by
  unfold State.sectSpent
  dsimp only
  (repeat' split) <;> simp [hs]

@[simp] theorem State.inject_mem (s : State) (rn : Nat) (r : Region) (a : Attach) (kind : BitVec 4) :
    (s.inject rn r a kind).mem = s.mem :=
  rfl

@[simp] theorem State.drain_wf (s : State) (rn : Nat) (hs : s.mem.wf) : (s.drain rn).mem.wf := by
  unfold State.drain
  dsimp only
  (repeat' split) <;> simp +contextual [hs]

/-! ### The functions of Machine/Channels -/

@[simp] theorem State.pairDiscard_mem (s : State) (tile : Nat) : (s.pairDiscard tile).mem = s.mem := by
  grind [State.pairDiscard, State.setTile_mem]

@[simp] theorem execIntersectDiscard_wf (tile : Nat) (s : State) (hs : s.mem.wf) :
    NextWf (execIntersectDiscard tile s) := by
  simp [execIntersectDiscard, hs]

@[simp] theorem execReservedKindDrop_wf (tile ch : Nat) (s : State) (hs : s.mem.wf) :
    NextWf (execReservedKindDrop tile ch s) := by
  unfold execReservedKindDrop
  dsimp only
  (repeat' split) <;> simp [hs]

@[simp] theorem State.markMerge_mem (s : State) (tile : Nat) : (s.markMerge tile).mem = s.mem := by
  grind [State.markMerge, State.setTile_mem]

@[simp] theorem execBarrierSnuffMerge_wf (tile : Nat) (s : State) (hs : s.mem.wf) :
    NextWf (execBarrierSnuffMerge tile s) := by
  simp [execBarrierSnuffMerge, hs]

/-! ### The functions of Machine/Ct -/

@[simp] theorem State.ctFire_wf (s : State) (tile : Nat) (hs : s.mem.wf) : (s.ctFire tile).mem.wf := by
  unfold State.ctFire
  dsimp only
  (repeat' split) <;> simp [hs]

@[simp] theorem execCtRuleFire_wf (tile : Nat) (s : State) (hs : s.mem.wf) : NextWf (execCtRuleFire tile s) := by
  simp [execCtRuleFire, hs]

@[simp] theorem State.ctCycle_wf (s : State) (tile : Nat) (hs : s.mem.wf) : (s.ctCycle tile).mem.wf := by
  unfold State.ctCycle
  dsimp only
  (repeat' split) <;> simp +contextual [hs]

/-! ### The functions of Machine/Macro -/

@[simp] theorem execMacroUnitStart_wf (tile : Nat) (u : MacroUnit) (s : State) (hs : s.mem.wf) :
    NextWf (execMacroUnitStart tile u s) := by
  unfold execMacroUnitStart
  split <;> simp [hs]

@[simp] theorem execMacroOpDone_wf (tile : Nat) (u : MacroUnit) (s : State) (hs : s.mem.wf) :
    NextWf (execMacroOpDone tile u s) := by
  unfold execMacroOpDone
  (repeat' split) <;> simp [hs]

/-! ### The functions of Machine/Cycle -/

@[simp] theorem State.mtCycle_mem (s : State) (tile : Nat) : (s.mtCycle tile).mem = s.mem := by
  grind [State.mtCycle, State.setTile_mem, State.passEnd_mem]

@[simp] theorem State.regionCycle_wf (s : State) (r : Region) (hs : s.mem.wf) : (s.regionCycle r).mem.wf := by
  unfold State.regionCycle
  exact State.foldl_wf (fun s a hs => by split <;> simp [hs]) _ (by simp [hs])

@[simp] theorem State.flush_wf (s : State) (r : Region) (hs : s.mem.wf) : (s.flush r).mem.wf := by
  unfold State.flush
  exact State.foldl_wf (fun s _ hs => s.regionCycle_wf r hs) _ hs

/-! ### The functions of Machine/Fetch -/

@[simp] theorem State.atSeq_mem (s : State) (sq : Nat) : (s.atSeq sq).mem = s.mem := by
  simp [State.atSeq]

/-! ### The functions of Machine/SeqCopy -/

@[simp] theorem State.copyRead_wf (s : State) (rn i : Nat) (hs : s.mem.wf) : (s.copyRead rn i).mem.wf := by
  unfold State.copyRead
  (repeat' split) <;> simp [hs]

@[simp] theorem State.copyIssue_mem (s : State) (d : Reg) (i : Nat) (c : Copy) : (s.copyIssue d i c).mem = s.mem := by
  simp [State.copyIssue]

@[simp] theorem State.cpyDesc_wf (s : State) (form : Nat) (d : Reg) (a : Src) (hs : s.mem.wf) :
    (s.cpyDesc form d a).mem.wf := by
  unfold State.cpyDesc
  refine s.issue_wf _ _ _ hs fun r s hs => ?_
  dsimp only
  (repeat' split) <;> simp [hs]

@[simp] theorem execCpy_wf (d : Reg) (a : Src) (s : State) (hs : s.mem.wf) : NextWf (execCpy d a s) := by
  simp [execCpy, hs]

@[simp] theorem execCpy2_wf (d : Reg) (a : Src) (s : State) (hs : s.mem.wf) : NextWf (execCpy2 d a s) := by
  simp [execCpy2, hs]

@[simp] theorem execCpyi_wf (d : Reg) (a b : Src) (n : BitVec 9) (s : State) (hs : s.mem.wf) :
    NextWf (execCpyi d a b n s) := by
  unfold execCpyi
  refine nextWf_next.2 (s.issue_wf _ _ _ hs fun r s hs => ?_)
  (repeat' split) <;> simp [hs]

theorem State.copyDst_wf {rn : Nat} {r : Region} {c : Copy} {s t : State} {l : List (Nat × Nat × Nat)}
    {bs : List Byte} (hs : s.mem.wf)
    (ht : State.copyDst rn r c s l bs = .ok (some t)) : t.mem.wf := by
  induction l generalizing s bs with
  | nil => cases ht; exact hs
  | cons q l ih =>
    unfold State.copyDst at ht
    dsimp only at ht
    split at ht
    · exact ih (by simpa using hs) ht
    · split at ht
      · cases ht
      · cases ht
      · next hw => exact ih (State.rwrite_wf hs hw) ht

@[simp] theorem State.copyFault_wf (s : State) (rn i : Nat) (c : Copy) (f : XFault) (write : Bool) (va : Nat)
    (hs : s.mem.wf) :
    (s.copyFault rn i c f write va).mem.wf := by
  unfold State.copyFault
  split <;> simp [hs]

@[simp] theorem State.copyUses_mem (s : State) (rn : Nat) (c : Copy) : (s.copyUses rn c).mem = s.mem := by
  unfold State.copyUses
  dsimp only
  (repeat' split) <;> simp

@[simp] theorem State.copyBeat_wf (s : State) (rn i : Nat) (hs : s.mem.wf) : (s.copyBeat rn i).mem.wf := by
  unfold State.copyBeat
  (repeat' split) <;> try simp [hs]
  next h _ _ => exact State.copyDst_wf hs h

@[simp] theorem execCopyBeat_wf (rn i : Nat) (s : State) (hs : s.mem.wf) : NextWf (execCopyBeat rn i s) := by
  unfold execCopyBeat
  split <;> simp [hs]

@[simp] theorem State.revokeCopies_mem (s : State) (p lo hi : Nat) : (s.revokeCopies p lo hi).mem = s.mem := rfl

@[simp] theorem execCopyComplete_wf (rn i : Nat) (s : State) (hs : s.mem.wf) : NextWf (execCopyComplete rn i s) := by
  unfold execCopyComplete
  (repeat' split) <;> simp [hs]

/-! ### The functions of Machine/SeqMem -/

@[simp] theorem State.perform_wf (s : State) (rn k : Nat) (hs : s.mem.wf) : (s.perform rn k).mem.wf := by
  unfold State.perform
  dsimp only
  (repeat' split) <;> try simp [hs]
  all_goals exact State.rwrite_wf hs ‹_›

@[simp] theorem State.seqLoad_wf (s : State) (size : Nat) (d : Reg) (a : Src) (imm : BitVec 15) (hs : s.mem.wf) :
    (s.seqLoad size d a imm).mem.wf := by
  unfold State.seqLoad
  refine s.issue_wf _ _ _ hs fun r s hs => ?_
  dsimp only
  (repeat' split) <;> simp [hs]

@[simp] theorem State.seqStore_wf (s : State) (size : Nat) (b a : Src) (imm : BitVec 14) (hs : s.mem.wf) :
    (s.seqStore size b a imm).mem.wf := by
  unfold State.seqStore
  refine s.issue_wf _ _ _ hs fun r s hs => ?_
  dsimp only
  (repeat' split) <;> simp [hs]

@[simp] theorem execLd_wf (d : Reg) (a : Src) (imm : BitVec 15) (s : State) (hs : s.mem.wf) :
    NextWf (execLd d a imm s) := by
  simp [execLd, hs]

@[simp] theorem execLw_wf (d : Reg) (a : Src) (imm : BitVec 15) (s : State) (hs : s.mem.wf) :
    NextWf (execLw d a imm s) := by
  simp [execLw, hs]

@[simp] theorem execSt_wf (b a : Src) (imm : BitVec 14) (s : State) (hs : s.mem.wf) : NextWf (execSt b a imm s) := by
  simp [execSt, hs]

@[simp] theorem execSw_wf (b a : Src) (imm : BitVec 14) (s : State) (hs : s.mem.wf) : NextWf (execSw b a imm s) := by
  simp [execSw, hs]

@[simp] theorem execSeqLoadFill_wf (rn k : Nat) (s : State) (hs : s.mem.wf) : NextWf (execSeqLoadFill rn k s) := by
  unfold execSeqLoadFill
  (repeat' split) <;> simp [hs]

/-! ### The functions of Machine/SeqPhase -/

@[simp] theorem execCfg_wf (d : Reg) (a b : Src) (s : State) (hs : s.mem.wf) : NextWf (execCfg d a b s) := by
  unfold execCfg
  refine nextWf_next.2 (s.issueRunning_wf _ _ _ hs fun r s hs => ?_)
  dsimp only
  (repeat' split) <;> simp [hs]

@[simp] theorem execArm_wf (a b : Src) (s : State) (hs : s.mem.wf) : NextWf (execArm a b s) := by
  unfold execArm
  refine nextWf_next.2 (s.issueRunning_wf _ _ _ hs fun r s hs => ?_)
  dsimp only
  (repeat' split) <;> simp [hs]

@[simp] theorem execFork_wf (a : Src) (m : BitVec 3) (s : State) (hs : s.mem.wf) : NextWf (execFork a m s) := by
  unfold execFork
  refine nextWf_next.2 (s.issueRunning_wf _ _ _ hs fun r s hs => ?_)
  dsimp only
  split
  · simp [hs]
  · rw [State.seqNext_mem]
    refine State.sectSpent_wf _ _ _ (State.foldl_wf (fun s n hs => ?_) _ (by simp [hs]))
    split <;> simp [hs]

@[simp] theorem State.postStore_wf (s : State) (rn : Nat) (va v : Dword) (hs : s.mem.wf) :
    (s.postStore rn va v).mem.wf := by
  unfold State.postStore
  split <;> simp [hs]

@[simp] theorem State.phaseEnd_wf (s : State) (rn a : Nat) (hs : s.mem.wf) : (s.phaseEnd rn a).mem.wf := by
  unfold State.phaseEnd
  dsimp only
  (repeat' split) <;> (repeat apply State.postStore_wf) <;> simp [hs]

@[simp] theorem execRdv_wf (a : Src) (s : State) (hs : s.mem.wf) : NextWf (execRdv a s) := by
  unfold execRdv
  refine nextWf_next.2 (s.issue_wf _ _ _ hs fun r s hs => ?_)
  dsimp only
  (repeat' split) <;> simp [hs]

@[simp] theorem execPunct_wf (a : Src) (s : State) (hs : s.mem.wf) : NextWf (execPunct a s) := by
  unfold execPunct
  simp +contextual [hs]

@[simp] theorem execBarr_wf (d : Reg) (a : Src) (s : State) (hs : s.mem.wf) : NextWf (execBarr d a s) := by
  unfold execBarr
  refine nextWf_next.2 (s.issueRunning_wf _ _ _ hs fun r s hs => ?_)
  dsimp only
  (repeat' split) <;> simp +contextual [hs]

@[simp] theorem execBarrComplete_wf (rn : Nat) (s : State) (hs : s.mem.wf) : NextWf (execBarrComplete rn s) := by
  unfold execBarrComplete
  (repeat' split) <;> simp [hs]

@[simp] theorem execSnuf_wf (s : State) (hs : s.mem.wf) : NextWf (execSnuf s) := by
  unfold execSnuf
  refine nextWf_next.2 (s.issueRunning_wf _ _ _ hs fun r s hs => ?_)
  simp [hs]

@[simp] theorem execProf_wf (d : Reg) (n : BitVec 9) (s : State) (hs : s.mem.wf) : NextWf (execProf d n s) := by
  unfold execProf
  refine nextWf_next.2 (s.issue_wf _ _ _ hs fun r s hs => ?_)
  (repeat' split) <;> simp [hs]

/-! ### The functions of Machine/ImageSave -/

@[simp] theorem State.keep_mem (s : State) (rn : Nat) (r : Region) : (s.keep rn r).mem = s.mem := rfl

@[simp] theorem State.commit_wf (s : State) (rn : Nat) (hs : s.mem.wf) : (s.commit rn).mem.wf := by
  unfold State.commit
  (repeat' split) <;> simp [hs]

/-! ### The functions of Machine/Mt -/

@[simp] theorem State.sendReqs_mem (s : State) (reqs : List (Nat × NetReq)) : (s.sendReqs reqs).mem = s.mem := by
  unfold State.sendReqs
  exact State.foldl_mem (fun s a => by simp) _ _

@[simp] theorem State.netFire_mem (s : State) (tile : Nat) (r : Region) (o : MtOp) :
    (s.netFire tile r o).mem = s.mem := by
  simp [State.netFire]

@[simp] theorem State.acqnAsk_mem (s : State) (tile rn : Nat) (r : Region) (o : MtOp) :
    (s.acqnAsk tile rn r o).mem = s.mem := by
  unfold State.acqnAsk
  dsimp only
  (repeat' split) <;> simp

theorem State.mtPerform_mem {s t : State} {tile rn : Nat} {r : Region} {o : MtOp}
    (ht : s.mtPerform tile rn r o = .ok t) :
    t.mem = s.mem := by
  unfold State.mtPerform at ht
  dsimp only at ht
  split at ht
  · cases ht
  · split at ht
    case h_1 | h_2 | h_3 | h_4 => 
      revert ht
      cases (s.tile tile).macFire o <;> simp [Except.map]
      rintro rfl; rfl
    all_goals cases ht; simp

@[simp] theorem State.relnCommit_wf (s : State) (tile : Nat) (hs : s.mem.wf) : (s.relnCommit tile).mem.wf := by
  unfold State.relnCommit
  dsimp only
  (repeat' split) <;> simp [hs]

@[simp] theorem State.mtFire_wf (s : State) (tile : Nat) (hs : s.mem.wf) : (s.mtFire tile).mem.wf := by
  unfold State.mtFire
  dsimp only
  have hc := s.relnCommit_wf tile hs
  generalize s.relnCommit tile = u at hc
  (repeat' split) <;> try simp [hc]
  next h => simp [State.mtPerform_mem h, hc]

@[simp] theorem execMtRuleFire_wf (tile : Nat) (s : State) (hs : s.mem.wf) : NextWf (execMtRuleFire tile s) := by
  simp [execMtRuleFire, hs]

@[simp] theorem State.streamFire_wf (s : State) (tile : Nat) (hs : s.mem.wf) : (s.streamFire tile).mem.wf := by
  unfold State.streamFire
  dsimp only
  (repeat' split) <;> simp [hs]

@[simp] theorem execStreamRuleFire_wf (tile : Nat) (s : State) (hs : s.mem.wf) : NextWf (execStreamRuleFire tile s) := by
  simp [execStreamRuleFire, hs]

@[simp] theorem execClassDone_wf (tile : Nat) (c : EngineClass) (s : State) (hs : s.mem.wf) :
    NextWf (execClassDone tile c s) := by
  unfold execClassDone
  dsimp only
  (repeat' split) <;> simp [hs]

@[simp] theorem execPartitionRequestServe_wf (tile : Nat) (s : State) (hs : s.mem.wf) :
    NextWf (execPartitionRequestServe tile s) := by
  unfold execPartitionRequestServe
  dsimp only
  (repeat' split) <;> simp [hs]

@[simp] theorem execGthResultEnqueue_wf (tile : Nat) (s : State) (hs : s.mem.wf) :
    NextWf (execGthResultEnqueue tile s) := by
  unfold execGthResultEnqueue
  split <;> simp [hs]

@[simp] theorem execAcqnGrant_wf (tile : Nat) (s : State) (hs : s.mem.wf) : NextWf (execAcqnGrant tile s) := by
  unfold execAcqnGrant
  (repeat' split) <;> simp [hs]

@[simp] theorem State.reAcqns_mem (s : State) (rn : Nat) : (s.reAcqns rn).mem = s.mem := by
  unfold State.reAcqns
  split <;> simp

/-! ### The functions of Machine/Switch -/

@[simp] theorem State.deliverTo_mem (s : State) (rn : Nat) (r : Region) (tile p l src : Nat) (b : Beat) :
    (s.deliverTo rn r tile p l src b).mem = s.mem := by
  unfold State.deliverTo
  dsimp only
  (repeat' split) <;> simp

theorem State.fanOut_mem {s t : State} {rn : Nat} {r : Region} {tile q m src : Nat} {b : Beat}
    (ht : s.fanOut rn r tile q m src b = some t) : t.mem = s.mem := by
  unfold State.fanOut at ht
  dsimp only at ht
  split at ht
  · cases ht
  · cases ht
    exact State.foldl_mem (fun s x => by simp) _ _

theorem State.launchBeat_mem {s t : State} {rn : Nat} {r : Region} {tile code : Nat} {b : Beat}
    (ht : s.launchBeat rn r tile code b = some t) : t.mem = s.mem := State.fanOut_mem ht

@[simp] theorem State.moveOut_mem (s : State) (rn : Nat) (r : Region) (tile ch : Nat) :
    (s.moveOut rn r tile ch).mem = s.mem := by
  unfold State.moveOut
  dsimp only
  (repeat' split) <;> try simp
  next h => exact State.launchBeat_mem h

@[simp] theorem State.moveDelay_mem (s : State) (rn : Nat) (r : Region) (tile ch k : Nat) :
    (s.moveDelay rn r tile ch k).mem = s.mem := by
  unfold State.moveDelay
  dsimp only
  (repeat' split) <;> try simp
  next h => exact State.launchBeat_mem h

@[simp] theorem State.moveLane_mem (s : State) (rn : Nat) (r : Region) (tile p l : Nat) :
    (s.moveLane rn r tile p l).mem = s.mem := by
  unfold State.moveLane
  split
  · split
    · next h => split <;> simp [State.fanOut_mem h]
    · rfl
  · rfl

@[simp] theorem execBeatTransfer_wf (tile : Nat) (src : BeatSource) (s : State) (hs : s.mem.wf) :
    NextWf (execBeatTransfer tile src s) := by
  unfold execBeatTransfer
  (repeat' split) <;> simp [hs]

@[simp] theorem execExpressLaneTransfer_wf (tile lane slot : Nat) (s : State) (hs : s.mem.wf) :
    NextWf (execExpressLaneTransfer tile lane slot s) := by
  unfold execExpressLaneTransfer
  dsimp only
  rw [nextWf_next]
  (repeat' split) <;> try simp [hs]
  next h => simp [State.fanOut_mem h, hs]

@[simp] theorem State.markLoops_mem (s : State) (r : Region) : (s.markLoops r).mem = s.mem := by
  unfold State.markLoops
  exact State.foldl_mem (fun s a => by simp) _ _

/-! ### The functions of Machine/Emp -/

@[simp] theorem State.portFault_wf (s : State) (rn emp ch unit_ : Nat) (f : XFault) (write : Bool) (va : Nat)
    (hs : s.mem.wf) :
    (s.portFault rn emp ch unit_ f write va).mem.wf := by
  simp [State.portFault, hs]

@[simp] theorem State.issueUnit_wf (s : State) (rn emp ch : Nat) (r : Region) (q0 : PortReq) (hs : s.mem.wf) :
    (s.issueUnit rn emp ch r q0).mem.wf := by
  unfold State.issueUnit
  dsimp only
  (repeat' split) <;> simp [hs]

@[simp] theorem State.badHead_wf (s : State) (rn emp ch : Nat) (p : Port) (hs : s.mem.wf) :
    (s.badHead rn emp ch p).mem.wf := by
  unfold State.badHead
  (repeat' split) <;> simp [hs]

@[simp] theorem execEmpRequest_wf (rn emp ch : Nat) (s : State) (hs : s.mem.wf) :
    NextWf (execEmpRequest rn emp ch s) := by
  unfold execEmpRequest
  dsimp only
  (repeat' split) <;> simp [hs]

theorem State.writeUnit_wf {s t : State} {rn va : Nat} {b : Beat} (hs : s.mem.wf)
    (ht : s.writeUnit rn va b = .ok (some t)) :
    t.mem.wf := by
  unfold State.writeUnit at ht
  dsimp only at ht
  split at ht
  · cases ht; exact hs
  · split at ht
    · cases ht
    · split at ht
      · cases ht
      · split at ht
        · cases ht
        · next h =>
          cases ht
          refine Memory.foldl_wf (fun m l hm => ?_) _ (State.makeShadows_wf hs h)
          split
          · exact Memory.wf_writeN hm _ _ _
          · exact hm

@[simp] theorem execEmpWriteData_wf (rn emp ch : Nat) (s : State) (hs : s.mem.wf) :
    NextWf (execEmpWriteData rn emp ch s) := by
  unfold execEmpWriteData
  dsimp only
  rw [nextWf_next]
  (repeat' split) <;> try simp [hs]
  all_goals exact State.writeUnit_wf hs ‹_›

@[simp] theorem execEmpReply_wf (rn emp ch : Nat) (s : State) (hs : s.mem.wf) :
    NextWf (execEmpReply rn emp ch s) := by
  unfold execEmpReply
  rw [nextWf_next]
  split
  · exact hs
  · extract_lets k drained sent
    have hd : drained.mem.wf := by
      unfold drained
      split <;> simp [hs]
    have ht : sent.mem.wf := by
      unfold sent
      split <;> simp [hd]
    clear_value sent
    dsimp only
    (repeat' split) <;> try simp [ht]
    next h => simp [State.launchBeat_mem h, ht]

@[simp] theorem execEmpMarkerForward_wf (rn emp ch : Nat) (s : State) (hs : s.mem.wf) :
    NextWf (execEmpMarkerForward rn emp ch s) := by
  unfold execEmpMarkerForward
  dsimp only
  (repeat' split) <;> simp [hs]

@[simp] theorem State.streamStack_mem (s : State) (x : Xlate) (b : List Byte) : (s.streamStack x b).2.mem = s.mem := by
  unfold State.streamStack
  (repeat' split) <;> simp

theorem State.startStream_mem {s : State} {stack : Nat} {i : IStream} {t} (ht : s.startStream stack i = some t) :
    t.mem = s.mem := by
  grind [State.startStream, State.setDie_mem]

@[simp] theorem execIstrmBlockAccept_wf (tile : Nat) (s : State) (hs : s.mem.wf) :
    NextWf (execIstrmBlockAccept tile s) := by
  unfold execIstrmBlockAccept
  dsimp only
  rw [nextWf_next]
  (repeat' split) <;> try simp [hs]
  all_goals next h => simp [State.startStream_mem h, hs]

@[simp] theorem State.rowEnd_mem (s : State) (rn emp ch : Nat) (incarn : Half) :
    (s.rowEnd rn emp ch incarn).mem = s.mem := by
  unfold State.rowEnd
  dsimp only
  (repeat' split) <;> simp

@[simp] theorem State.rowStuck_wf (s : State) (stack eng : Nat) (i : IStream) (q : PortReq) (f : XFault)
    (r : Region) (hs : s.mem.wf) :
    (s.rowStuck stack eng i q f r).mem.wf := by
  unfold State.rowStuck
  split <;> simp [hs]

@[simp] theorem execIndirectStreamRow_wf (stack eng : Nat) (s : State) (hs : s.mem.wf) :
    NextWf (execIndirectStreamRow stack eng s) := by
  unfold execIndirectStreamRow
  dsimp only
  (repeat' split) <;> simp [hs]

/-! ### The functions of Machine/Rg -/

@[simp] theorem State.grantClaim_mem (s : State) (rd : Reg) (p : Nat) (a : Rect) (sq : Nat) :
    (s.grantClaim rd p a sq).mem = s.mem :=
  rfl

@[simp] theorem execRgClaim_wf (rd rs1 rs2 : Reg) (s : State) (hs : s.mem.wf) :
    NextWf (execRgClaim rd rs1 rs2 s) := by
  unfold execRgClaim
  refine nextWf_next.2 (s.xPart_wf _ _ _ _ hs fun h p s hs => ?_)
  dsimp only
  (repeat' split) <;> simp [hs]

@[simp] theorem State.xRegion_wf (s : State) (rd rs1 : Reg) (adr : Option Reg)
    (f : Hart → Nat → Region → State → State) (hs : s.mem.wf)
    (hf : ∀ h rn r s, s.mem.wf → (f h rn r s).mem.wf) : (s.xRegion rd rs1 adr f).mem.wf :=
  s.xPart_wf _ _ _ _ hs fun h p s hs => by split <;> simp [hs, hf]

@[simp] theorem State.xGate_wf (s : State) (rd : Reg) (r : Region) (ok : List RgState) (f : State → State)
    (hs : s.mem.wf)
    (hf : (f s).mem.wf) : (s.xGate rd r ok f).mem.wf := by
  unfold State.xGate
  (repeat' split) <;> simp [hs, hf]

@[simp] theorem execRgCfg_wf (rd rs1 rs2 : Reg) (s : State) (hs : s.mem.wf) : NextWf (execRgCfg rd rs1 rs2 s) := by
  unfold execRgCfg
  refine nextWf_next.2 (s.xRegion_wf _ _ _ _ hs fun h rn r s hs => s.xBlock_wf _ _ _ _ _ _ hs fun b s hs => ?_)
  split
  · simp [hs]
  · exact s.xGate_wf _ _ _ _ hs (by simp [hs])

@[simp] theorem State.restart_mem (s : State) (i : IStream) : (s.restart i).mem = s.mem := by
  grind [State.restart, State.streamStack_mem, State.startStream_mem, State.setDie_mem]

@[simp] theorem State.restream_mem (s : State) (k : Nat) : (s.restream k).mem = s.mem := by
  simp [State.restream]

@[simp] theorem State.resume_mem (s : State) (rn : Nat) : (s.resume rn).mem = s.mem := by
  unfold State.resume
  split <;> simp

@[simp] theorem execRgStart_wf (rd rs1 rs2 : Reg) (s : State) (hs : s.mem.wf) :
    NextWf (execRgStart rd rs1 rs2 s) := by
  unfold execRgStart
  refine nextWf_next.2 (s.xRegion_wf _ _ _ _ hs fun h rn r s hs => ?_)
  dsimp only
  split
  · simp [hs]
  · refine s.xGate_wf _ _ _ _ hs ?_
    (repeat' split) <;> simp [hs]

@[simp] theorem execRgSnuff_wf (rd rs1 : Reg) (s : State) (hs : s.mem.wf) : NextWf (execRgSnuff rd rs1 s) := by
  unfold execRgSnuff
  refine nextWf_next.2 (s.xRegion_wf _ _ _ _ hs fun h rn r s hs => ?_)
  (repeat' split) <;> simp [hs]

@[simp] theorem execRgFreeze_wf (rd rs1 : Reg) (s : State) (hs : s.mem.wf) : NextWf (execRgFreeze rd rs1 s) := by
  unfold execRgFreeze
  refine nextWf_next.2 (s.xRegion_wf _ _ _ _ hs fun h rn r s hs => ?_)
  simp [hs]

@[simp] theorem execRgSave_wf (rd rs1 rs2 : Reg) (s : State) (hs : s.mem.wf) : NextWf (execRgSave rd rs1 rs2 s) := by
  unfold execRgSave
  refine nextWf_next.2 (s.xRegion_wf _ _ _ _ hs fun h rn r s hs => ?_)
  dsimp only
  (repeat' split) <;> simp [hs]

@[simp] theorem execRgLoad_wf (rd rs1 rs2 : Reg) (s : State) (hs : s.mem.wf) : NextWf (execRgLoad rd rs1 rs2 s) := by
  unfold execRgLoad
  refine nextWf_next.2 (s.xRegion_wf _ _ _ _ hs fun h rn r s hs => ?_)
  dsimp only
  (repeat' split) <;> simp [hs]

@[simp] theorem execRgKill_wf (rd rs1 : Reg) (s : State) (hs : s.mem.wf) : NextWf (execRgKill rd rs1 s) := by
  unfold execRgKill
  refine nextWf_next.2 (s.xRegion_wf _ _ _ _ hs fun h rn r s hs => ?_)
  simp [hs]

@[simp] theorem execRgStat_wf (rd rs1 : Reg) (s : State) (hs : s.mem.wf) : NextWf (execRgStat rd rs1 s) := by
  unfold execRgStat
  refine nextWf_next.2 (s.xRegion_wf _ _ _ _ hs fun h rn r s hs => ?_)
  simp [hs]

@[simp] theorem execRgFree_wf (rd rs1 : Reg) (s : State) (hs : s.mem.wf) : NextWf (execRgFree rd rs1 s) := by
  unfold execRgFree
  refine nextWf_next.2 (s.xRegion_wf _ _ _ _ hs fun h rn r s hs => ?_)
  simp [hs]

/-! ### The functions of Machine/SeqWork -/

@[simp] theorem State.seqPushed_mem (s : State) (d : Reg) (v : Dword) : (s.seqPushed d v).mem = s.mem := by
  unfold State.seqPushed
  split <;> simp

@[simp] theorem State.seqPush_wf (s : State) (d : Reg) (r : Region) (f : State → State) (hs : s.mem.wf)
    (hf : ∀ s, s.mem.wf → (f s).mem.wf) : (s.seqPush d r f).mem.wf := by
  unfold State.seqPush
  (repeat' split) <;> simp [hs, hf]

@[simp] theorem State.seqBlock_wf (s : State) (d : Reg) (r : Region) (va : Dword) (n k : Nat)
    (f : List Byte → State → State) (hs : s.mem.wf)
    (hf : ∀ bs s, s.mem.wf → (f bs s).mem.wf) : (s.seqBlock d r va n k f).mem.wf := by
  unfold State.seqBlock
  (repeat' split) <;> simp [hs, hf]

@[simp] theorem State.ownPushes_mem (s : State) (n period idx : Nat) : (s.ownPushes n period idx).mem = s.mem := rfl

theorem State.seqJoined_wf (s : State) (d : Reg) (r : Region) (va : Nat) (o : Except XFault (Dword × State))
    (hs : s.mem.wf)
    (ho : ∀ v t, o = .ok (v, t) → t.mem.wf) : (s.seqJoined d r va o).mem.wf := by
  unfold State.seqJoined
  split
  · simp [ho _ _ rfl]
  · simp [hs]

@[simp] theorem execSpawnRecord_wf (d : Reg) (a b : Src) (s : State) (hs : s.mem.wf) :
    NextWf (execSpawnRecord d a b s) := by
  unfold execSpawnRecord
  refine nextWf_next.2 (s.issue_wf _ _ _ hs fun r s hs => s.seqPush_wf _ _ _ hs fun s hs => s.seqBlock_wf _ _ _ _ _ _ hs fun bs s hs => ?_)
  dsimp only
  split
  · simp [hs]
  · exact s.seqJoined_wf _ _ _ _ hs fun v t ht => State.pushRec_wf hs ht

@[simp] theorem execSpawnLaunch_wf (d : Reg) (a b : Src) (s : State) (hs : s.mem.wf) :
    NextWf (execSpawnLaunch d a b s) := by
  unfold execSpawnLaunch
  exact nextWf_next.2 (s.issue_wf _ _ _ hs fun r s hs => s.seqPush_wf _ _ _ hs fun s hs => s.seqBlock_wf _ _ _ _ _ _ hs fun blk s hs =>
    s.seqBlock_wf _ _ _ _ _ _ hs fun bs s hs => s.seqJoined_wf _ _ _ _ hs fun v t ht => State.dispatch_wf hs ht)

@[simp] theorem execJoin_wf (d : Reg) (a : Src) (s : State) (hs : s.mem.wf) : NextWf (execJoin d a s) := by
  unfold execJoin
  exact nextWf_next.2 (s.issue_wf _ _ _ hs fun r s hs => s.seqPush_wf _ _ _ hs fun s hs => s.seqBlock_wf _ _ _ _ _ _ hs fun bs s hs =>
    s.seqJoined_wf _ _ _ _ hs fun v t ht => State.armJoin_wf hs ht)

@[simp] theorem State.meetAll_wf (s : State) (rn : Nat) (r : Region) (f : Region → State → State) (hs : s.mem.wf)
    (hf : ∀ r s, s.mem.wf → (f r s).mem.wf) : (s.meetAll rn r f).mem.wf := by
  unfold State.meetAll
  have hm : (r.forkedSects.foldl (fun s a => s.phaseEnd rn a) s).mem.wf := State.foldl_wf (fun s a hs => s.phaseEnd_wf rn a hs) _ hs
  dsimp only
  (repeat' split) <;> simp [hm, hf]

@[simp] theorem State.dropReplies_wf (s : State) (rn : Nat) (hs : s.mem.wf) : (s.dropReplies rn).mem.wf := by
  unfold State.dropReplies
  dsimp only
  (repeat' split) <;> simp +contextual [hs]

@[simp] theorem State.leaveRun_wf (s : State) (rn : Nat) (hs : s.mem.wf) : (s.leaveRun rn).mem.wf := by
  simp [State.leaveRun, hs]

@[simp] theorem execRetire_wf (s : State) (hs : s.mem.wf) : NextWf (execRetire s) := by
  unfold execRetire
  refine nextWf_next.2 (s.issue_wf _ _ _ hs fun r s hs => ?_)
  split
  · exact hs
  · refine s.meetAll_wf _ _ _ hs fun g s hs => State.leaveRun_wf _ _ (State.endPeriod_wf _ _ _ ?_)
    simp [hs]

@[simp] theorem execYield_wf (a : Src) (s : State) (hs : s.mem.wf) : NextWf (execYield a s) := by
  unfold execYield
  refine nextWf_next.2 (s.issue_wf _ _ _ hs fun r s hs => ?_)
  dsimp only
  split
  · simp [hs]
  · split
    · exact hs
    · refine s.meetAll_wf _ _ _ hs fun g s hs => State.leaveRun_wf _ _ ?_
      dsimp only
      split <;> simp [hs]

@[simp] theorem execAcq_wf (d : Reg) (a b : Src) (s : State) (hs : s.mem.wf) : NextWf (execAcq d a b s) := by
  unfold execAcq
  refine nextWf_next.2 (s.issue_wf _ _ _ hs fun r s hs => ?_)
  grind [State.issue_wf, State.trapNow_wf, State.soAcq_mem, State.seqResult_mem, State.modSeq_mem]

@[simp] theorem execRel_wf (d : Reg) (a : Src) (s : State) (hs : s.mem.wf) : NextWf (execRel d a s) := by
  unfold execRel
  refine nextWf_next.2 (s.issue_wf _ _ _ hs fun r s hs => ?_)
  dsimp only
  (repeat' split) <;> simp [hs]

@[simp] theorem execFencex_wf (a b : Src) (s : State) (hs : s.mem.wf) : NextWf (execFencex a b s) := by
  unfold execFencex
  refine nextWf_next.2 (s.issue_wf _ _ _ hs fun r s hs => ?_)
  (repeat' split) <;> simp [hs]

@[simp] theorem State.trimAgain_mem (s : State) (d : Reg) (r : Region) (n : Nat) :
    (s.trimAgain d r n).mem = s.mem := by
  unfold State.trimAgain
  dsimp only
  (repeat' split) <;> simp

@[simp] theorem State.trimNow_mem (s : State) (d : Reg) (a b : Src) (r : Region) :
    (s.trimNow d a b r).mem = s.mem := by
  unfold State.trimNow
  dsimp only
  (repeat' split) <;> simp

@[simp] theorem execTrim_wf (d : Reg) (a b : Src) (s : State) (hs : s.mem.wf) : NextWf (execTrim d a b s) := by
  unfold execTrim
  refine nextWf_next.2 (s.issue_wf _ _ _ hs fun r s hs => ?_)
  (repeat' split) <;> simp [hs]

@[simp] theorem State.waitt_wf (s : State) (f : Dword → Dword → Bool) (d : Reg) (a : Src) (hs : s.mem.wf) :
    (s.waitt f d a).mem.wf := by
  unfold State.waitt
  refine s.issue_wf _ _ _ hs fun r s hs => ?_
  dsimp only
  (repeat' split) <;> simp [hs]

@[simp] theorem execWaittAll_wf (d : Reg) (a : Src) (s : State) (hs : s.mem.wf) : NextWf (execWaittAll d a s) := by
  simp [execWaittAll, hs]

@[simp] theorem execWaittAny_wf (d : Reg) (a : Src) (s : State) (hs : s.mem.wf) : NextWf (execWaittAny d a s) := by
  simp [execWaittAny, hs]

@[simp] theorem execTrap_wf (a : Src) (n : BitVec 9) (s : State) (hs : s.mem.wf) : NextWf (execTrap a n s) := by
  unfold execTrap
  refine nextWf_next.2 (s.issue_wf _ _ _ hs fun r s hs => ?_)
  simp [hs]

@[simp] theorem execCsrr_wf (d : Reg) (n : BitVec 9) (s : State) (hs : s.mem.wf) : NextWf (execCsrr d n s) := by
  unfold execCsrr
  refine nextWf_next.2 (s.issue_wf _ _ _ hs fun r s hs => ?_)
  (repeat' split) <;> simp [hs]

@[simp] theorem execCsrw_wf (a : Src) (n : BitVec 9) (s : State) (hs : s.mem.wf) : NextWf (execCsrw a n s) := by
  unfold execCsrw
  refine nextWf_next.2 (s.issue_wf _ _ _ hs fun r s hs => ?_)
  (repeat' split) <;> simp [hs]

/-! ### The functions of Machine/Stream -/

@[simp] theorem State.installEnd_wf (s : State) (rn status : Nat) (win : Option (Nat × Nat)) (idx : Option Byte)
    (off : Nat) (hs : s.mem.wf) :
    (s.installEnd rn status win idx off).mem.wf := by
  unfold State.installEnd
  (repeat' split) <;> simp [hs]

@[simp] theorem Reject.leaves_mem (x : Reject) (s : State) : (Reject.leaves x s).mem = s.mem := by
  unfold Reject.leaves
  split <;> simp

@[simp] theorem State.streamWordDo_wf (s : State) (f : Region → Install → State → Except Reject State) (hs : s.mem.wf)
    (hf : ∀ r i s t, s.mem.wf → f r i s = .ok t → t.mem.wf) : (s.streamWordDo f).mem.wf := by
  unfold State.streamWordDo
  dsimp only
  split
  · exact hs
  · split
    · exact hs
    · split
      · simp [hs]
      · next h =>
        split at h
        · cases h
        · have ht := hf _ _ _ _ hs h
          (repeat' split) <;> simp [ht]

@[simp] theorem State.modInst_mem (s : State) (rn : Nat) (f : Install → Install) : (s.modInst rn f).mem = s.mem := by
  simp [State.modInst]

@[simp] theorem State.streamCmd_wf (s : State) (ok : Region → Install → Bool)
    (f : Region → Install → State → Except Reject State) (hs : s.mem.wf)
    (hf : ∀ r i s t, s.mem.wf → f r i s = .ok t → t.mem.wf) : (s.streamCmd ok f).mem.wf :=
  s.streamWordDo_wf _ hs fun r i s t hs ht => by
    split at ht
    · exact hf r i s t hs ht
    · cases ht

@[simp] theorem State.streamFault_wf (s : State) (rn : Nat) (i : Install) (o : Nat) (f : XFault) (hs : s.mem.wf) :
    (s.streamFault rn i o f).mem.wf := by
  unfold State.streamFault
  (repeat' split) <;> simp [hs]

@[simp] theorem execCfgNop_wf (v : BitVec 16) (s : State) (hs : s.mem.wf) : NextWf (execCfgNop v s) := by
  unfold execCfgNop
  refine nextWf_next.2 (s.streamWordDo_wf _ hs fun r i s t hs ht => ?_)
  split at ht <;> cases ht
  exact hs

@[simp] theorem execCfgBegin_wf (v : BitVec 16) (s : State) (hs : s.mem.wf) : NextWf (execCfgBegin v s) := by
  unfold execCfgBegin
  refine nextWf_next.2 (s.streamWordDo_wf _ hs fun r i s t hs ht => ?_)
  dsimp only at ht
  split at ht <;> cases ht
  (repeat' split) <;> simp [hs]

@[simp] theorem execCfgEnd_wf (v : BitVec 16) (s : State) (hs : s.mem.wf) : NextWf (execCfgEnd v s) := by
  unfold execCfgEnd
  refine nextWf_next.2 (s.streamCmd_wf _ _ hs fun r i s t hs ht => ?_)
  dsimp only at ht
  split at ht <;> cases ht
  simp [hs]

@[simp] theorem execCfgWin_wf (v : BitVec 16) (s : State) (hs : s.mem.wf) : NextWf (execCfgWin v s) := by
  unfold execCfgWin
  refine nextWf_next.2 (s.streamCmd_wf _ _ hs fun r i s t hs ht => ?_)
  cases ht
  simp [hs]

@[simp] theorem execCfgHi_wf (v : BitVec 16) (s : State) (hs : s.mem.wf) : NextWf (execCfgHi v s) := by
  unfold execCfgHi
  refine nextWf_next.2 (s.streamWordDo_wf _ hs fun r i s t hs ht => ?_)
  split at ht <;> cases ht
  simp [hs]

@[simp] theorem execCfgSect_wf (v : BitVec 16) (s : State) (hs : s.mem.wf) : NextWf (execCfgSect v s) := by
  unfold execCfgSect
  refine nextWf_next.2 (s.streamCmd_wf _ _ hs fun r i s t hs ht => ?_)
  cases ht
  simp [hs]

@[simp] theorem execCfgEsc_wf (v : BitVec 16) (s : State) (hs : s.mem.wf) : NextWf (execCfgEsc v s) := by
  unfold execCfgEsc
  refine nextWf_next.2 (s.streamWordDo_wf _ hs fun r i s t hs ht => ?_)
  split at ht <;> cases ht
  simp [hs]

@[simp] theorem execBadcmd_wf (x : Word) (s : State) (hs : s.mem.wf) : NextWf (execBadcmd x s) :=
  nextWf_next.2 (s.streamWordDo_wf _ hs fun _ _ _ _ _ ht => nomatch ht)

@[simp] theorem execCfgZwin_wf (v : BitVec 16) (s : State) (hs : s.mem.wf) : NextWf (execCfgZwin v s) := by
  unfold execCfgZwin
  refine nextWf_next.2 (s.streamCmd_wf _ _ hs fun r i s t hs ht => ?_)
  dsimp only at ht
  split at ht <;> cases ht
  simp [hs]

@[simp] theorem execCfgElementWrite_wf (idx fld : Byte) (v : BitVec 16) (s : State) (hs : s.mem.wf) :
    NextWf (execCfgElementWrite idx fld v s) := by
  unfold execCfgElementWrite
  refine nextWf_next.2 (s.streamWordDo_wf _ hs fun r i s t hs ht => ?_)
  dsimp only at ht
  split at ht
  · cases ht
  · split at ht
    · cases ht
    · split at ht
      · cases ht
      · split at ht <;> cases ht
        simp [hs]

/-! ### The functions of Machine/ImageLoad -/

@[simp] theorem State.findSources_mem (s : State) (r : Region) : (s.findSources r).mem = s.mem := by
  unfold State.findSources
  exact State.foldl_mem (fun s a => by simp) _ _

@[simp] theorem State.regather_mem (s : State) (rn : Nat) : (s.regather rn).mem = s.mem := by
  unfold State.regather
  split <;> simp

@[simp] theorem State.rescanWord_mem (s : State) (r : Region) (i : Install) (x : Word) :
    (s.rescanWord r i x).2.mem = s.mem := by
  unfold State.rescanWord
  (repeat' split) <;> simp

@[simp] theorem State.rescan_mem (s : State) (rn : Nat) (r : Region) (n k : Nat) (i : Install) :
    (s.rescan rn r n k i).2.mem = s.mem := by
  induction n generalizing s k i with
  | zero => rfl
  | succ n ih =>
    unfold State.rescan
    split
    · rfl
    · dsimp only
      rw [ih, State.rescanWord_mem]

@[simp] theorem State.loadCfg_mem (s : State) (rn : Nat) (b : List Byte) : (s.loadCfg rn b).mem = s.mem := by
  unfold State.loadCfg
  dsimp only
  (repeat' split) <;> simp

@[simp] theorem State.loadPorts_mem (s : State) (rn : Nat) (r : Region) (recs : List (Nat × List Byte)) (edge : List Byte) :
    (s.loadPorts rn r recs edge).mem = s.mem := by
  unfold State.loadPorts
  dsimp only
  rw [State.foldl_mem, State.foldl_mem fun _ _ => State.modPort_mem _ _ _]
  intro s x
  refine State.foldl_mem (fun s y => ?_) _ _
  split <;> simp

theorem State.takeHold_mem {s : State} {p rn handle tag : Nat} {t} (ht : s.takeHold p rn handle tag = some t) :
    t.mem = s.mem := by
  grind [State.takeHold, State.modSo_mem]

theorem State.takeHolds_mem {s t : State} {p rn : Nat} {l : List (Nat × Nat)} (ht : s.takeHolds p rn l = some t) :
    t.mem = s.mem :=
  State.foldl_bind_mem (fun _ _ _ h => State.takeHold_mem h) l ht

theorem State.placeTiles_mem {s t : State} {recs : List (Nat × List Byte)} {dx dy : Int} (ht : s.placeTiles recs dx dy = some t) :
    t.mem = s.mem := by
  refine State.foldl_bind_mem (fun s t x h => ?_) recs ht
  cases hf : recFields x.2 dx dy with
  | none => rw [hf] at h; cases h
  | some f => rw [hf] at h; cases h; rfl

@[simp] theorem State.carryResults_mem (s : State) (old new n : Nat) : (s.carryResults old new n).mem = s.mem := by
  unfold State.carryResults
  split <;> simp

@[simp] theorem State.putKept_mem (s : State) (rn : Nat) (r : Region) (k : Kept) (edge : List Byte) :
    (s.putKept rn r k edge).mem = s.mem := by
  unfold State.putKept
  dsimp only
  split
  · rw [State.carryResults_mem, State.modRegion_mem, State.foldl_mem, State.foldl_mem fun _ _ => State.modTile_mem _ _ _]
    intro s e
    split <;> simp
  · rw [State.modRegion_mem, State.foldl_mem, State.foldl_mem fun _ _ => State.modTile_mem _ _ _]
    intro s e
    split <;> simp

@[simp] theorem State.fromImage_mem (s : State) (rn : Nat) (r : Region) (recs : List (Nat × List Byte)) (seqB edge : List Byte) :
    (s.fromImage rn r recs seqB edge).mem = s.mem := by
  unfold State.fromImage
  rw [State.loadCfg_mem, State.regather_mem, State.modRegion_mem, State.foldl_mem, State.loadPorts_mem, State.findSources_mem,
    State.markLoops_mem, State.modTiles_mem]
  exact fun s x => State.foldl_mem (fun s o => State.sendReqs_mem _ _) _ _

theorem State.restore_mem {s t : State} {rn : Nat} {b : List Byte} {k : Option Kept} {no : Nat} {move : Bool}
    (ht : s.restore rn b k no move = .ok t) : t.mem = s.mem := by
  unfold State.restore at ht
  dsimp only at ht
  split at ht
  · cases ht
  · split at ht
    · cases ht
    · split at ht
      · cases ht
      · split at ht
        · cases ht
        · split at ht
          · cases ht
          · next hp =>
            split at ht
            · cases ht
            · split at ht
              · cases ht
              · next hh =>
                cases ht
                rw [State.modRegion_mem]
                split <;> simp [State.takeHolds_mem hh, State.placeTiles_mem hp]

/-! ### The functions of Machine/Context -/

@[simp] theorem execFreezeLimitExpiry_wf (rn : Nat) (s : State) (hs : s.mem.wf) :
    NextWf (execFreezeLimitExpiry rn s) := by
  unfold execFreezeLimitExpiry
  dsimp only
  (repeat' split) <;> simp [hs]

@[simp] theorem State.performReady_wf (s : State) (rn : Nat) (hs : s.mem.wf) : (s.performReady rn).mem.wf := by
  unfold State.performReady
  split
  · exact hs
  · refine State.foldl_wf (fun s x hs => ?_) _ hs
    split <;> simp [hs]

@[simp] theorem execFreezeComplete_wf (rn : Nat) (s : State) (hs : s.mem.wf) : NextWf (execFreezeComplete rn s) := by
  unfold execFreezeComplete
  rw [nextWf_next]
  (repeat' split) <;> simp [hs]

@[simp] theorem execSnuffDrainComplete_wf (rn : Nat) (s : State) (hs : s.mem.wf) :
    NextWf (execSnuffDrainComplete rn s) := by
  unfold execSnuffDrainComplete
  (repeat' split) <;> simp [hs]

@[simp] theorem execDebugStop_wf (rn : Nat) (s : State) (hs : s.mem.wf) : NextWf (execDebugStop rn s) := by
  unfold execDebugStop
  split <;> simp [hs]

@[simp] theorem State.asyncEnd_mem (s : State) (rn : Nat) (st : RgState) (err : Nat) :
    (s.asyncEnd rn st err).mem = s.mem := by
  simp [State.asyncEnd]

@[simp] theorem execSaveComplete_wf (rn : Nat) (s : State) (hs : s.mem.wf) : NextWf (execSaveComplete rn s) := by
  unfold execSaveComplete
  rw [nextWf_next]
  (repeat' split) <;> try simp [hs]
  next h => simp [vwrite_wf hs h]

@[simp] theorem State.loadFail_wf (s : State) (rn code : Nat) (hs : s.mem.wf) : (s.loadFail rn code).mem.wf := by
  simp [State.loadFail, hs]

@[simp] theorem State.openPeriod_mem (s : State) (no : Nat) (rn : Nat) : (s.openPeriod no rn).mem = s.mem := by
  unfold State.openPeriod
  (repeat' split) <;> simp

@[simp] theorem execLoadComplete_wf (rn : Nat) (s : State) (hs : s.mem.wf) : NextWf (execLoadComplete rn s) := by
  unfold execLoadComplete
  dsimp only
  rw [nextWf_next]
  (repeat' split) <;> try simp [hs]
  next h => simp [State.restore_mem h, hs]

theorem State.rebase_mem {s t : State} {src dst : Nat} (ht : s.rebase src dst = .ok t) : t.mem = s.mem := by
  unfold State.rebase at ht
  split at ht
  · split at ht
    · cases ht
    · next h => cases ht; simp [State.restore_mem h]
  · cases ht

@[simp] theorem execRgRebase_wf (rd rs1 rs2 : Reg) (s : State) (hs : s.mem.wf) :
    NextWf (execRgRebase rd rs1 rs2 s) := by
  unfold execRgRebase
  refine nextWf_next.2 (s.xRegion_wf _ _ _ _ hs fun h rn r s hs => ?_)
  grind [State.xRegion_wf, State.xErr_mem, State.xGate_wf, State.modRegion_mem, State.xResult_mem]

@[simp] theorem execRebaseComplete_wf (rn : Nat) (s : State) (hs : s.mem.wf) : NextWf (execRebaseComplete rn s) := by
  unfold execRebaseComplete
  rw [nextWf_next]
  split
  · exact hs
  · split
    · next h => simp [State.rebase_mem h, hs]
    · simp [hs]

@[simp] theorem execRegionZeroingComplete_wf (rn : Nat) (s : State) (hs : s.mem.wf) :
    NextWf (execRegionZeroingComplete rn s) := by
  simp [execRegionZeroingComplete, hs]

@[simp] theorem execTraceSample_wf (rn : Nat) (s : State) (hs : s.mem.wf) : NextWf (execTraceSample rn s) := by
  unfold execTraceSample
  dsimp only
  (repeat' split) <;> simp [hs]

/-! ### The functions of Machine/Collective -/

@[simp] theorem State.setColl_mem (s : State) (p chip : Nat) (l : List Coll) : (s.setColl p chip l).mem = s.mem := rfl

@[simp] theorem State.takeCmd_mem (s : State) (p chip : Nat) (b : List Byte) (ended : Option (Nat × BitVec 6)) :
    (s.takeCmd p chip b ended).mem = s.mem :=
  rfl

@[simp] theorem State.endColl_mem (s : State) (p chip : Nat) (is : Coll → Bool) (code : Nat) (fl : BitVec 6) :
    (s.endColl p chip is code fl).mem = s.mem :=
  rfl

@[simp] theorem State.collFault_wf (s : State) (p chip : Nat) (b : Option (List Byte)) (f : XFault)
    (write : Bool) (va : Nat) (hs : s.mem.wf) :
    (s.collFault p chip b f write va).mem.wf := by
  simp [State.collFault, hs]

@[simp] theorem State.endRanks_mem (s : State) (g b : List Byte) (code : Nat) :
    (s.endRanks g b code).mem = s.mem := by
  unfold State.endRanks
  exact State.foldl_mem (fun s a => by split <;> simp) _ _

@[simp] theorem State.endAll_mem (s : State) (p chip : Nat) (b : List Byte) (code : Nat) :
    (s.endAll p chip b code).mem = s.mem := by
  unfold State.endAll
  (repeat' split) <;> simp

theorem State.collHeld_mem {s : State} {p chip : Nat} {t} (ht : s.collHeld p chip = some t) : t.mem = s.mem := by
  grind [State.collHeld, State.modPart_mem, State.endAll_mem]

@[simp] theorem State.deliver_wf (s : State) (b g : List Byte) (data : List (List Byte)) (red : List Byte)
    (fl : BitVec 6) (l : List Nat) (t : State)
    (hs : s.mem.wf) (ht : t.mem.wf) : (s.deliver b g data red fl l t).mem.wf := by
  induction l generalizing t with
  | nil => exact ht
  | cons i l ih =>
    unfold State.deliver
    dsimp only
    split
    · exact ih t ht
    · split
      · exact ih _ (by simpa using ht)
      · split
        · next h => exact ih _ (by simpa using writeData_wf ht h)
        · simp [hs]

theorem State.collDo_wf {s t : State} {p chip : Nat} {b : List Byte} {peers : List PeerData} (hs : s.mem.wf)
    (ht : s.collDo p chip b peers = some t) : t.mem.wf := by
  unfold State.collDo at ht
  dsimp only at ht
  split at ht
  · cases ht; simp [hs]
  · split at ht
    · cases ht; simp [hs]
    · split at ht
      · cases ht; simp [hs]
      · split at ht
        · cases ht; simp [hs]
        · split at ht
          · cases ht
          · cases ht
            split <;> simp [hs]

@[simp] theorem State.collStep_wf (s : State) (p chip op : Nat) (peers : List PeerData) (hs : s.mem.wf) :
    (s.collStep p chip op peers).mem.wf := by
  unfold State.collStep
  split
  · next h => simp [State.collHeld_mem h, hs]
  · split
    · next h =>
      obtain ⟨c, _, hc⟩ := List.exists_of_findSome?_eq_some h
      exact State.collDo_wf hs hc
    · split
      · simp [hs]
      · exact hs
      · dsimp only
        split
        · next b _ _ =>
          cases h : (s.takeCmd p chip b none).collDo p chip b peers with
          | none => simp [hs]
          | some u => exact State.collDo_wf (by simpa using hs) h
        · exact hs

@[simp] theorem execAllreduce_wf (p chip : Nat) (peers : List PeerData) (s : State) (hs : s.mem.wf) :
    NextWf (execAllreduce p chip peers s) := by
  simp [execAllreduce, hs]

@[simp] theorem execReduce_wf (p chip : Nat) (peers : List PeerData) (s : State) (hs : s.mem.wf) :
    NextWf (execReduce p chip peers s) := by
  simp [execReduce, hs]

@[simp] theorem execBroadcast_wf (p chip : Nat) (peers : List PeerData) (s : State) (hs : s.mem.wf) :
    NextWf (execBroadcast p chip peers s) := by
  simp [execBroadcast, hs]

@[simp] theorem execAllgather_wf (p chip : Nat) (peers : List PeerData) (s : State) (hs : s.mem.wf) :
    NextWf (execAllgather p chip peers s) := by
  simp [execAllgather, hs]

@[simp] theorem execCollectiveReservedCode_wf (p chip : Nat) (s : State) (hs : s.mem.wf) :
    NextWf (execCollectiveReservedCode p chip s) := by
  unfold execCollectiveReservedCode
  rw [nextWf_next]
  split
  · next h => simp [State.collHeld_mem h, hs]
  · (repeat' split) <;> simp [hs]

@[simp] theorem execCollectiveTimeout_wf (p chip : Nat) (s : State) (hs : s.mem.wf) :
    NextWf (execCollectiveTimeout p chip s) := by
  unfold execCollectiveTimeout
  split <;> simp [hs]

@[simp] theorem State.revokeColls_mem (s : State) (p lo hi : Nat) : (s.revokeColls p lo hi).mem = s.mem := by
  simp [State.revokeColls]

@[simp] theorem execCollectiveDone_wf (p chip : Nat) (s : State) (hs : s.mem.wf) :
    NextWf (execCollectiveDone p chip s) := by
  unfold execCollectiveDone
  rw [nextWf_next]
  split
  · next h => simp [State.collHeld_mem h, hs]
  · dsimp only
    (repeat' split) <;> try simp [hs]
    next h => simpa using vwrite_wf hs h

/-! ### The functions of Machine/Csr -/

@[simp] theorem State.csrGate_wf (s : State) (h n : Nat) (write : Bool) (f : Hart → State → State) (hs : s.mem.wf)
    (hf : ∀ x s, s.mem.wf → (f x s).mem.wf) : (s.csrGate h n write f).mem.wf := by
  unfold State.csrGate
  dsimp only
  (repeat' split) <;> simp [hs, hf]

@[simp] theorem State.csrPart_wf (s : State) (h n : Nat) (f : Hart → Nat → State → State) (hs : s.mem.wf)
    (hf : ∀ x p s, s.mem.wf → (f x p s).mem.wf) : (s.csrPart h n f).mem.wf :=
  s.csrGate_wf _ _ _ _ hs fun x s hs => by split <;> simp [hs, hf]

@[simp] theorem State.rejoin_wf (s : State) (p : Nat) (addr : Dword) (hs : s.mem.wf) : (s.rejoin p addr).mem.wf := by
  unfold State.rejoin
  (repeat' split) <;> simp [hs]

@[simp] theorem State.reresult_wf (s : State) (p rn : Nat) (addr : Dword) (hs : s.mem.wf) :
    (s.reresult p rn addr).mem.wf := by
  unfold State.reresult
  split <;> simp [hs]

@[simp] theorem State.resumeFid_wf (s : State) (p fid : Nat) (hs : s.mem.wf) : (s.resumeFid p fid).mem.wf := by
  unfold State.resumeFid
  (repeat' split) <;> simp [hs]

@[simp] theorem execVdresume_wf (h : Nat) (v : Dword) (s : State) (hs : s.mem.wf) : NextWf (execVdresume h v s) := by
  unfold execVdresume
  refine nextWf_next.2 (s.csrPart_wf _ _ _ hs fun x p s hs => ?_)
  simp [hs]

@[simp] theorem execFaultQueueHeadWrite_wf (h : Nat) (v : Dword) (s : State) (hs : s.mem.wf) :
    NextWf (execFaultQueueHeadWrite h v s) := by
  unfold execFaultQueueHeadWrite
  refine nextWf_next.2 (s.csrPart_wf _ _ _ hs fun x p s hs => ?_)
  simp [hs]

@[simp] theorem State.traceCtl_mem (s : State) (p : Nat) (v : Dword) : (s.traceCtl p v).mem = s.mem := by
  unfold State.traceCtl
  dsimp only
  (repeat' split) <;> simp

@[simp] theorem State.debugSet_mem (s : State) (p : Nat) (v : Dword) (arm : Bool) :
    (s.debugSet p v arm).mem = s.mem := by
  unfold State.debugSet
  split <;> simp

@[simp] theorem execDebugArm_wf (h : Nat) (v : Dword) (s : State) (hs : s.mem.wf) : NextWf (execDebugArm h v s) := by
  simp [execDebugArm, hs]

@[simp] theorem execDebugCancel_wf (h : Nat) (v : Dword) (s : State) (hs : s.mem.wf) :
    NextWf (execDebugCancel h v s) := by
  simp [execDebugCancel, hs]

@[simp] theorem State.pgZero_wf (s : State) (v : Dword) (hs : s.mem.wf) : (s.pgZero v).mem.wf := by
  unfold State.pgZero
  split <;> simp [hs, Memory.wf_zero]

@[simp] theorem execPageZero_wf (h : Nat) (v : Dword) (s : State) (hs : s.mem.wf) : NextWf (execPageZero h v s) := by
  unfold execPageZero
  refine nextWf_next.2 (s.csrGate_wf _ _ _ _ hs fun x s hs => ?_)
  simp [hs]

@[simp] theorem State.railWrite_mem (s : State) (k : Nat) (v : Dword) : (s.railWrite k v).mem = s.mem := by
  unfold State.railWrite
  dsimp only
  (repeat' split) <;> simp

@[simp] theorem execVoltageOffsetWrite_wf (h : Nat) (v : Dword) (s : State) (hs : s.mem.wf) :
    NextWf (execVoltageOffsetWrite h v s) := by
  simp [execVoltageOffsetWrite, hs]

@[simp] theorem execVoltageSettled_wf (rail : Nat) (s : State) (hs : s.mem.wf) : NextWf (execVoltageSettled rail s) := by
  unfold execVoltageSettled
  split <;> simp [hs]

@[simp] theorem State.marginWrite_mem (s : State) (sel v : Dword) : (s.marginWrite sel v).mem = s.mem := by
  unfold State.marginWrite
  split <;> simp

@[simp] theorem execLinkMarginRun_wf (h : Nat) (v : Dword) (s : State) (hs : s.mem.wf) :
    NextWf (execLinkMarginRun h v s) := by
  simp [execLinkMarginRun, hs]

@[simp] theorem execLinkMarginDone_wf (phy inst lane errs : Nat) (s : State) (hs : s.mem.wf) :
    NextWf (execLinkMarginDone phy inst lane errs s) := by
  unfold execLinkMarginDone
  (repeat' split) <;> simp [hs]

@[simp] theorem execCsrRead_wf (h : Nat) (rd : Reg) (num : BitVec 12) (s : State) (hs : s.mem.wf) :
    NextWf (execCsrRead h rd num s) := by
  unfold execCsrRead
  refine nextWf_next.2 (s.csrGate_wf _ _ _ _ hs fun x s hs => ?_)
  simp [hs]

/-! ### The functions of Machine/HostLink -/

@[simp] theorem State.refuseWrite_mem (s : State) (v : Nat) (dmw : Bool) : (s.refuseWrite v dmw).mem = s.mem := rfl

@[simp] theorem State.answer_mem (s : State) (v : Nat) (c : Cpl) : (s.answer v c).mem = s.mem := rfl

@[simp] theorem execSubmissionPageBind_wf (vf page : Nat) (qmask : Dword) (s : State) (hs : s.mem.wf) :
    NextWf (execSubmissionPageBind vf page qmask s) := by
  unfold execSubmissionPageBind
  split <;> simp [hs]

@[simp] theorem State.vfWrite_mem (s : State) (v : Nat) (f : Vf → Vf) : (s.vfWrite v f).mem = s.mem := by
  unfold State.vfWrite
  split <;> simp

@[simp] theorem execRingEnableWrite_wf (vf : Nat) (v : Dword) (s : State) (hs : s.mem.wf) :
    NextWf (execRingEnableWrite vf v s) := by
  simp [execRingEnableWrite, hs]

@[simp] theorem execCrheadWrite_wf (vf : Nat) (v : Dword) (s : State) (hs : s.mem.wf) :
    NextWf (execCrheadWrite vf v s) := by
  simp [execCrheadWrite, hs]

@[simp] theorem execFunctionLevelReset_wf (vf : Nat) (s : State) (hs : s.mem.wf) :
    NextWf (execFunctionLevelReset vf s) := by
  simp [execFunctionLevelReset, hs]

@[simp] theorem execCompletionPost_wf (vf q : Nat) (s : State) (hs : s.mem.wf) :
    NextWf (execCompletionPost vf q s) := by
  unfold execCompletionPost
  dsimp only
  (repeat' split) <;> simp [hs, Memory.wf_write]

@[simp] theorem State.accept_mem (s : State) (p v page q : Nat) (b record : List Byte) (short : Bool) :
    (s.accept p v page q b record short).mem = s.mem :=
  rfl

@[simp] theorem execHostSubmission_wf (vf page : Nat) (h : HostWrite) (s : State) (hs : s.mem.wf) :
    NextWf (execHostSubmission vf page h s) := by
  unfold execHostSubmission
  dsimp only
  (repeat' split) <;> simp [hs]

@[simp] theorem execLaunchExpansion_wf (p q : Nat) (s : State) (hs : s.mem.wf) : NextWf (execLaunchExpansion p q s) := by
  simp [execLaunchExpansion, hs]

@[simp] theorem execReservePushRetry_wf (p q : Nat) (s : State) (hs : s.mem.wf) :
    NextWf (execReservePushRetry p q s) := by
  simp [execReservePushRetry, hs]

@[simp] theorem State.startPeriod_mem (s : State) (rn : Nat) (r : Region) (c : Cont) (no : Nat) :
    (s.startPeriod rn r c no).mem = s.mem := by
  simp [State.startPeriod]

@[simp] theorem State.resumeFail_wf (s : State) (rn : Nat) (r : Region) (no : Nat) (b : List Byte) (x : Xlate)
    (hs : s.mem.wf) :
    (s.resumeFail rn r no b x).mem.wf := by
  unfold State.resumeFail
  split <;> simp [hs]

@[simp] theorem State.startRecord_wf (s : State) (rn : Nat) (r : Region) (q : QRec) (img : List Byte) (hs : s.mem.wf) :
    (s.startRecord rn r q img).mem.wf := by
  unfold State.startRecord
  dsimp only
  split
  · split
    · simp [hs]
    · split
      · simp [hs]
      · next h => simp [State.restore_mem h, hs]
  · split <;> simp [hs]

@[simp] theorem execRegionPop_wf (rn : Nat) (s : State) (hs : s.mem.wf) : NextWf (execRegionPop rn s) := by
  unfold execRegionPop
  dsimp only
  rw [nextWf_next]
  (repeat' split) <;> simp [hs]

/-! ### The functions of Machine/Objects -/

@[simp] theorem State.withPlaced_mem (s : State) (wd ox oy : Nat) (tiles : List (Nat × Nat × List (Nat × Word))) :
    (s.withPlaced wd ox oy tiles).mem = s.mem :=
  rfl

@[simp] theorem State.cachePlace_mem (s : State) (p : Nat) (e : Placement) : (s.cachePlace p e).mem = s.mem := rfl

/-! ### The functions of Machine/XlanQueue -/

@[simp] theorem execXlanIllegalInstruction_wf (x : Word) (s : State) (hs : s.mem.wf) :
    NextWf (execXlanIllegalInstruction x s) := by
  unfold execXlanIllegalInstruction
  split <;> simp [hs]

theorem State.xJoined_wf (s : State) (rd : Reg) (va : Nat) (o : Except XFault (Dword × State)) (hs : s.mem.wf)
    (ho : ∀ v t, o = .ok (v, t) → t.mem.wf) : (s.xJoined rd va o).mem.wf := by
  unfold State.xJoined
  split
  · simp [ho _ _ rfl]
  · simp [hs]

@[simp] theorem execLanDispatch_wf (rd rs1 rs2 : Reg) (s : State) (hs : s.mem.wf) :
    NextWf (execLanDispatch rd rs1 rs2 s) := by
  unfold execLanDispatch
  refine nextWf_next.2 (s.xPart_wf _ _ _ _ hs fun h p s hs => ?_)
  split
  · simp [hs]
  · exact s.xBlock_wf _ _ _ _ _ _ hs fun blk s hs => s.xBlock_wf _ _ _ _ _ _ hs fun b s hs =>
      s.xJoined_wf _ _ _ hs fun v t ht => State.dispatch_wf hs ht

@[simp] theorem execLanJoin_wf (rd rs1 : Reg) (s : State) (hs : s.mem.wf) : NextWf (execLanJoin rd rs1 s) := by
  unfold execLanJoin
  exact nextWf_next.2 (s.xPart_wf _ _ _ _ hs fun h p s hs => s.xBlock_wf _ _ _ _ _ _ hs fun blk s hs =>
    s.xJoined_wf _ _ _ hs fun v t ht => State.armJoin_wf hs ht)

@[simp] theorem execHqPush_wf (rd rs1 rs2 : Reg) (s : State) (hs : s.mem.wf) : NextWf (execHqPush rd rs1 rs2 s) := by
  unfold execHqPush
  exact nextWf_next.2 (s.xPart_wf _ _ _ _ hs fun h p s hs => s.xBlock_wf _ _ _ _ _ _ hs fun bs s hs =>
    s.xJoined_wf _ _ _ hs fun v t ht => State.pushRec_wf hs ht)

@[simp] theorem execHqPop_wf (rd rs1 rs2 : Reg) (s : State) (hs : s.mem.wf) : NextWf (execHqPop rd rs1 rs2 s) := by
  unfold execHqPop
  refine nextWf_next.2 (s.xPart_wf _ _ _ _ hs fun h p s hs => ?_)
  grind [State.xPart_wf, State.xErr_mem, vwrite_wf, State.hartFault_mem, State.xResult_mem, State.modPart_mem]

@[simp] theorem State.soBindDo_mem (s : State) (rd : Reg) (p h : Nat) (b : Option (List Byte)) :
    (s.soBindDo rd p h b).mem = s.mem := by
  unfold State.soBindDo
  dsimp only
  (repeat' split) <;> simp

@[simp] theorem execSoBind_wf (rd rs1 rs2 : Reg) (s : State) (hs : s.mem.wf) : NextWf (execSoBind rd rs1 rs2 s) := by
  unfold execSoBind
  refine nextWf_next.2 (s.xPart_wf _ _ _ _ hs fun h p s hs => ?_)
  grind [State.xPart_wf, State.xErr_mem, State.soBindDo_mem, State.xBlock_wf]

@[simp] theorem execSoAcq_wf (rd rs1 rs2 : Reg) (s : State) (hs : s.mem.wf) : NextWf (execSoAcq rd rs1 rs2 s) := by
  unfold execSoAcq
  refine nextWf_next.2 (s.xPart_wf _ _ _ _ hs fun h p s hs => ?_)
  grind [State.xPart_wf, State.xErr_mem, State.soAcq_mem, State.xResult_mem, State.modHart_mem]

@[simp] theorem execSoRel_wf (rd rs1 : Reg) (s : State) (hs : s.mem.wf) : NextWf (execSoRel rd rs1 s) := by
  unfold execSoRel
  refine nextWf_next.2 (s.xPart_wf _ _ _ _ hs fun h p s hs => ?_)
  dsimp only
  (repeat' split) <;> simp [hs]

@[simp] theorem execSoGrant_wf (p slot : Nat) (s : State) (hs : s.mem.wf) : NextWf (execSoGrant p slot s) := by
  simp [execSoGrant, hs]

@[simp] theorem execFenceX_wf (_rs1 _rs2 : Reg) (s : State) (hs : s.mem.wf) : NextWf (execFenceX _rs1 _rs2 s) := by
  unfold execFenceX
  split <;> simp [hs]

@[simp] theorem execXltInv_wf (rs1 rs2 : Reg) (s : State) (hs : s.mem.wf) : NextWf (execXltInv rs1 rs2 s) := by
  unfold execXltInv
  refine nextWf_next.2 (s.xPriv_wf _ _ _ _ hs fun h s hs => ?_)
  dsimp only
  (repeat' split) <;> simp [hs]

@[simp] theorem execInvalidationComplete_wf (h : Nat) (s : State) (hs : s.mem.wf) :
    NextWf (execInvalidationComplete h s) := by
  simp [execInvalidationComplete, hs]

@[simp] theorem execXltSync_wf (rd : Reg) (s : State) (hs : s.mem.wf) : NextWf (execXltSync rd s) := by
  unfold execXltSync
  refine nextWf_next.2 (s.xPriv_wf _ _ _ _ hs fun h s hs => ?_)
  (repeat' split) <;> simp [hs]

@[simp] theorem execXlanWaitInterrupt_wf (h cause : Nat) (s : State) (hs : s.mem.wf) :
    NextWf (execXlanWaitInterrupt h cause s) := by
  unfold execXlanWaitInterrupt
  split <;> simp [hs]

/-! ### The functions of Machine/Services -/

theorem State.popCall_mem {s : State} {p h : Nat} {e : List Byte} {a t} (ht : s.popCall p h e = some (a, t)) :
    t.mem = s.mem := by
  grind [State.popCall, State.modPart_mem]

theorem State.svcAnswer_wf {s : State} {p : Nat} {x : Xlate} {c : Cont} {compl : Nat} {result : Dword} {t}
    (hs : s.mem.wf) (ht : s.svcAnswer p x c compl result = some t) :
    t.mem.wf := by
  grind [State.svcAnswer, vwrite_wf, State.retireJoin_wf]

@[simp] theorem State.serve_mem (s : State) (p svc h : Nat) (e : List Byte)
    (f : List (Nat × Cont) → List (Nat × Cont)) :
    (s.serve p svc h e f).mem = s.mem :=
  rfl

theorem State.finishCall_wf {s t : State} {p svc h : Nat} {e : List Byte} {i : Nat} {c : Cont} {result : Dword}
    (hs : s.mem.wf)
    (ht : s.finishCall p svc h e i c result = some t) : t.mem.wf := by
  obtain ⟨u, hu, rfl⟩ := Option.map_eq_some_iff.1 ht
  simp [State.svcAnswer_wf hs hu]

@[simp] theorem State.startEffects_wf (s : State) (p : Nat) (e : List Byte) (i : Nat) (hs : s.mem.wf) :
    (s.startEffects p e i).mem.wf := by
  simp [State.startEffects, hs]

@[simp] theorem State.finishCall_getD_wf (s u : State) (p svc h : Nat) (e : List Byte) (i : Nat) (c : Cont)
    (result : Dword)
    (hs : s.mem.wf) (hu : u.mem.wf) : ((s.finishCall p svc h e i c result).getD u).mem.wf := by
  cases ht : s.finishCall p svc h e i c result with
  | none => exact hu
  | some t => exact State.finishCall_wf hs ht

theorem State.startCall_wf {s t : State} {p svc h : Nat} {e : List Byte} {c : Cont} {k : Call} (hs : s.mem.wf)
    (ht : s.startCall p svc h e c k = some t) : t.mem.wf := by
  unfold State.startCall at ht
  dsimp only at ht
  split at ht
  · cases ht
  · split at ht
    · exact State.finishCall_wf (by simp [hs]) ht
    · cases ht
      simp [hs]

@[simp] theorem execServiceCall_wf (p svc h : Nat) (result : Dword) (s : State) (hs : s.mem.wf) :
    NextWf (execServiceCall p svc h result s) := by
  unfold execServiceCall
  rw [nextWf_next]
  dsimp only
  split
  · exact hs
  · split
    · split <;> simp [hs]
    · split
      · exact hs
      · next hp =>
        have hp := State.popCall_mem hp
        split
        · exact hs
        · rename_i t _ _ k _
          cases hr : (if svcValid (s.svcEntry p svc) then t.startCall p svc h (s.svcEntry p svc) _ k
            else t.svcAnswer p (s.handleXlate p (svcQueue (s.svcEntry p svc))) _ k.compl (errWord eBADARG)) with
          | none => exact hs
          | some u =>
            split at hr
            · exact State.startCall_wf (hp ▸ hs) hr
            · exact State.svcAnswer_wf (hp ▸ hs) hr

@[simp] theorem execMapperPlace_wf (p h : Nat) (req : Dword) (s : State) (hs : s.mem.wf) :
    NextWf (execMapperPlace p h req s) := by
  unfold execMapperPlace
  rw [nextWf_next]
  dsimp only
  split
  · exact hs
  · split
    · exact hs
    · split
      · exact hs
      · split
        · exact hs
        · next hm =>
          refine State.finishCall_getD_wf _ _ _ _ _ _ _ _ _ ?_ hs
          split <;> simp [vwrite_wf hs hm]

theorem storeFault_mem {s : State} {f : XFault} {a t} (ht : storeFault s f = some (a, t)) : t.mem = s.mem := by
  grind [storeFault]

theorem State.readCall_wf {s t : State} {p : Nat} {x : Xlate} {a : StoreArg} {nvme : NvmeReply} {n : Nat}
    (hs : s.mem.wf)
    (ht : s.readCall p x a nvme = some (n, t)) : t.mem.wf := by
  unfold State.readCall at ht
  dsimp only at ht
  split at ht
  · cases ht; exact hs
  · split at ht
    · cases ht
    · split at ht
      · exact storeFault_mem ht ▸ hs
      · next hm => cases ht; exact vwrite_wf hs hm

theorem State.writeCall_mem {s t : State} {p : Nat} {x : Xlate} {a : StoreArg} {nvme : NvmeReply} {n : Nat}
    (ht : s.writeCall p x a nvme = some (n, t)) : t.mem = s.mem := by
  unfold State.writeCall at ht
  split at ht
  · exact storeFault_mem ht
  · cases ht; rfl

theorem State.persistCall_mem {s t : State} {p : Nat} {x : Xlate} {a : StoreArg} {nvme : NvmeReply} {n : Nat}
    (ht : s.persistCall p x a nvme = some (n, t)) : t.mem = s.mem := by
  unfold State.persistCall at ht
  split at ht <;> cases ht <;> rfl

theorem State.storeCall_wf (s : State) (p h num : Nat) (arg : Dword) (nvme : NvmeReply)
    (f : State → Nat → Xlate → StoreArg → NvmeReply → Option (Nat × State)) (hs : s.mem.wf)
    (hf : ∀ x a n t, f s p x a nvme = some (n, t) → t.mem.wf) : (s.storeCall p h num arg nvme f).mem.wf := by
  unfold State.storeCall
  dsimp only
  split
  · exact hs
  · split
    · split <;> simp [hs]
    · split
      · simp [hs]
      · split
        · simp [hs]
        · next h => simp [hf _ _ _ _ h, hs]

@[simp] theorem execStorageRead_wf (p h : Nat) (arg : Dword) (nvme : NvmeReply) (s : State) (hs : s.mem.wf) :
    NextWf (execStorageRead p h arg nvme s) :=
  nextWf_next.2 (s.storeCall_wf _ _ _ _ _ _ hs fun _ _ _ _ => State.readCall_wf hs)

@[simp] theorem execStorageWrite_wf (p h : Nat) (arg : Dword) (nvme : NvmeReply) (s : State) (hs : s.mem.wf) :
    NextWf (execStorageWrite p h arg nvme s) :=
  nextWf_next.2 (s.storeCall_wf _ _ _ _ _ _ hs fun _ _ _ _ ht => State.writeCall_mem ht ▸ hs)

@[simp] theorem execStoragePersist_wf (p h : Nat) (arg : Dword) (nvme : NvmeReply) (s : State) (hs : s.mem.wf) :
    NextWf (execStoragePersist p h arg nvme s) :=
  nextWf_next.2 (s.storeCall_wf _ _ _ _ _ _ hs fun _ _ _ _ ht => State.persistCall_mem ht ▸ hs)

@[simp] theorem State.restartCore_mem (s : State) (h code : Nat) : (s.restartCore h code).mem = s.mem := rfl

@[simp] theorem State.restartCall_wf (s : State) (p svc h : Nat) (e : List Byte) (y : Nat × Cont) (hs : s.mem.wf) :
    (s.restartCall p svc h e y).mem.wf := by
  unfold State.restartCall
  dsimp only
  split
  · simp [hs]
  · split <;> simp [hs]
  · exact hs

@[simp] theorem execServiceWatchdogExpiry_wf (p svc : Nat) (s : State) (hs : s.mem.wf) :
    NextWf (execServiceWatchdogExpiry p svc s) := by
  unfold execServiceWatchdogExpiry
  rw [nextWf_next]
  split
  · exact hs
  · dsimp only
    split
    · exact hs
    · exact State.foldl_wf (fun s y hs => s.restartCall_wf _ _ _ _ _ hs) _ (by simp [hs])

/-! ### The functions of Machine/Trim -/

@[simp] theorem State.zeroGranule_wf (s : State) (x : Xlate) (va : Nat) (hs : s.mem.wf) :
    (s.zeroGranule x va).mem.wf := by
  unfold State.zeroGranule
  split <;> simp [hs, Memory.wf_zero]

@[simp] theorem State.freeAttn_wf (s : State) (p : Nat) (x : Xlate) (h : Nat) (hs : s.mem.wf) :
    (s.freeAttn p x h).mem.wf := by
  grind [State.freeAttn, State.modPart_mem, State.gwrite_wf, State.zeroGranule_wf]

@[simp] theorem State.attnCount_wf (s : State) (p off : Nat) (hs : s.mem.wf) : (s.attnCount p off).mem.wf := by
  unfold State.attnCount
  split <;> simp [hs]

@[simp] theorem execGlowUpdateApply_wf (tile : Nat) (s : State) (hs : s.mem.wf) :
    NextWf (execGlowUpdateApply tile s) := by
  unfold execGlowUpdateApply
  dsimp only
  (repeat' split) <;> simp [hs]

@[simp] theorem State.fillTrim_mem (s : State) (p num : Nat) (v : Dword) : (s.fillTrim p num v).mem = s.mem := rfl

@[simp] theorem State.trimLeave_wf (s : State) (p i : Nat) (t : Trim) (st : Nat) (w0 : Dword) (hs : s.mem.wf) :
    (s.trimLeave p i t st w0).mem.wf := by
  unfold State.trimLeave
  split <;> simp [hs]

@[simp] theorem State.trimResult_wf (s : State) (p i : Nat) (t : Trim) (result st : Nat) (w0 w1 : Dword)
    (hs : s.mem.wf) :
    (s.trimResult p i t result st w0 w1).mem.wf := by
  grind [State.trimResult, State.trimLeave_wf, vwrite_wf, State.withholdEngine_wf, State.modPart_mem]

@[simp] theorem State.trimEndAs_wf (s : State) (p i : Nat) (t : Trim) (result st : Nat) (w0 w1 : Dword)
    (hs : s.mem.wf) :
    (s.trimEndAs p i t result st w0 w1).mem.wf := by
  unfold State.trimEndAs
  split <;> simp [hs]

@[simp] theorem State.trimEnd_wf (s : State) (p i : Nat) (t : Trim) (result : Nat) (code : Nat) (w0 w1 : Dword)
    (hs : s.mem.wf) :
    (s.trimEnd p i t result code w0 w1).mem.wf := by
  simp [State.trimEnd, hs]

@[simp] theorem State.trimFail_wf (s : State) (p i : Nat) (t : Trim) (code : Nat) (hs : s.mem.wf) :
    (s.trimFail p i t code).mem.wf := by
  unfold State.trimFail
  split <;> simp [hs]

@[simp] theorem State.freeGranule_wf (s : State) (x : Xlate) (va : Nat) (hs : s.mem.wf) :
    (s.freeGranule x va).mem.wf := by
  unfold State.freeGranule
  split <;> simp [hs, Memory.wf_write]

@[simp] theorem State.loseSpares_wf (s : State) (p : Nat) (t : Trim) (hs : s.mem.wf) : (s.loseSpares p t).mem.wf := by
  unfold State.loseSpares
  dsimp only
  split
  · exact hs
  · split
    · exact hs
    · exact State.foldl_wf (fun s h hs => by split <;> simp [hs]) _ hs

@[simp] theorem State.trimStop_wf (s : State) (p i : Nat) (t : Trim) (e : TrimStop) (hs : s.mem.wf) :
    (s.trimStop p i t e).mem.wf := by
  unfold State.trimStop
  split <;> simp [hs]

theorem State.trimWaits_wf (s : State) (p i : Nat) (t : Trim) (f : State → State) (hs : s.mem.wf)
    (hf : s.mem.wf → (f s).mem.wf) : (s.trimWaits p i t f).mem.wf := by
  unfold State.trimWaits
  split
  · split <;> simp [hs]
  · exact hf hs

@[simp] theorem State.trimStack_mem (s : State) (p : Nat) (x : Xlate) (c : TrimCmd) :
    (s.trimStack p x c).2.mem = s.mem := by
  unfold State.trimStack
  dsimp only
  (repeat' split) <;> simp

@[simp] theorem State.trimRequest_wf (s : State) (p i : Nat) (t : Trim) (hs : s.mem.wf) :
    (s.trimRequest p i t).mem.wf := by
  grind [State.trimRequest, State.trimStack_mem, State.trimFail_wf, State.trimStop_wf, State.soAcq_mem,
    State.modPart_mem]

@[simp] theorem State.trimBegin_wf (s : State) (p i : Nat) (t : Trim) (hs : s.mem.wf) :
    (s.trimBegin p i t).mem.wf := by
  unfold State.trimBegin
  refine s.trimWaits_wf _ _ _ _ hs fun hs => ?_
  dsimp only
  split
  · simp [hs]
  · split <;> simp [hs]

@[simp] theorem State.failTrims_wf (s : State) (pa : Nat) (hs : s.mem.wf) : (s.failTrims pa).mem.wf :=
  State.foldl_wf (fun s z hs => by simp [hs]) _ hs

@[simp] theorem execTrimPop_wf (p q : Nat) (s : State) (hs : s.mem.wf) : NextWf (execTrimPop p q s) := by
  unfold execTrimPop
  rw [nextWf_next]
  dsimp only
  (repeat' split) <;> simp [hs]

/-- A bind that succeeds is a success of its first part and of the rest. -/

theorem except_bind_ok {ε α β : Type} {x : Except ε α} {f : α → Except ε β} {b : β} (h : (x >>= f) = .ok b) :
    ∃ a, x = .ok a ∧ f a = .ok b := by
  cases x with
  | error e => cases h
  | ok a => exact ⟨a, rfl, h⟩

theorem State.trimRun_wf {s : State} {p : Nat} {x : Xlate} {c : TrimCmd} {r : TrimDone} (hs : s.mem.wf)
    (hr : s.trimRun p x c = .ok r) : r.mem.wf := by
  unfold State.trimRun at hr
  obtain ⟨spares, -, hr⟩ := except_bind_ok hr
  obtain ⟨d, -, hr⟩ := except_bind_ok hr
  dsimp only at hr
  split at hr
  · cases hr
  · obtain ⟨tbl, -, hr⟩ := except_bind_ok hr
    obtain ⟨gs, -, hr⟩ := except_bind_ok hr
    split at hr
    · cases hr
    · split at hr
      · cases hr; exact hs
      · split at hr
        · cases hr
        · obtain ⟨m1, h1, hr⟩ := except_bind_ok hr
          obtain ⟨m2, h2, hr⟩ := except_bind_ok hr
          obtain ⟨m3, h3, hr⟩ := except_bind_ok hr
          cases hr
          exact twrite_wf (twrite_wf (writePages_wf hs h1) h2) h3

@[simp] theorem execTrimExecute_wf (p i : Nat) (s : State) (hs : s.mem.wf) : NextWf (execTrimExecute p i s) := by
  unfold execTrimExecute
  rw [nextWf_next]
  split
  · exact hs
  · dsimp only
    split
    · exact s.trimWaits_wf _ _ _ _ hs fun hs => s.trimResult_wf _ _ _ _ _ _ _ hs
    · simp [hs]
    · split
      · exact hs
      · split
        · simp [hs]
        · refine s.trimWaits_wf _ _ _ _ hs fun hs => ?_
          split
          · simp [hs]
          · next hr =>
            split
            · exact hs
            · exact State.trimEndAs_wf _ _ _ _ _ _ _ _
                (State.foldl_wf (fun s h hs => s.freeAttn_wf _ _ _ hs) _ (State.trimRun_wf hs hr))

/-! ### The functions of Machine/Integrity -/

@[simp] theorem execFaultRecordWrite_wf (p : Nat) (s : State) (hs : s.mem.wf) :
    NextWf (execFaultRecordWrite p s) := by
  unfold execFaultRecordWrite
  dsimp only
  (repeat' split) <;> simp [hs]

@[simp] theorem execSeamBeatRetry_wf (seam lane rn : Nat) (s : State) (hs : s.mem.wf) :
    NextWf (execSeamBeatRetry seam lane rn s) := by
  unfold execSeamBeatRetry
  dsimp only
  (repeat' split) <;> simp [hs]

@[simp] theorem State.tileError_wf (s : State) (tile : Nat) (r : Region → FaultRec) (hs : s.mem.wf) :
    (s.tileError tile r).mem.wf := by
  unfold State.tileError
  split <;> simp [hs]

@[simp] theorem execParityError_wf (site : ParitySite) (s : State) (hs : s.mem.wf) :
    NextWf (execParityError site s) := by
  unfold execParityError
  (repeat' split) <;> simp [hs]

@[simp] theorem State.countCorr_wf (s : State) (site : EccSite) (hs : s.mem.wf) : (s.countCorr site).mem.wf := by
  unfold State.countCorr
  (repeat' split) <;> simp [hs]

@[simp] theorem State.loseData_mem (s : State) (rns : List Nat) : (s.loseData rns).mem = s.mem := rfl

@[simp] theorem State.zeroWord_wf (s : State) (pa : Nat) (hs : s.mem.wf) : (s.zeroWord pa).mem.wf := by
  unfold State.zeroWord
  split <;> simp [hs, Memory.wf_zero]

@[simp] theorem State.memoryError_wf (s : State) (pa : Nat) (users : List Nat) (hs : s.mem.wf) :
    (s.memoryError pa users).mem.wf := by
  unfold State.memoryError
  extract_lets s0 live s1
  have h1 : s1.mem.wf := State.zeroWord_wf _ _ (State.failTrims_wf s pa hs)
  clear_value s1
  split
  · split <;> simp [h1]
  · exact State.foldl_wf (fun s z hs => by simp [hs]) _ h1

@[simp] theorem execMemoryEccError_wf (site : EccSite) (correctable : Bool) (users : List Nat) (s : State) (hs : s.mem.wf) :
    NextWf (execMemoryEccError site correctable users s) := by
  unfold execMemoryEccError
  (repeat' split) <;> simp [hs]

@[simp] theorem execPatrolScrub_wf (site : EccSite) (err : ScrubFinding) (s : State) (hs : s.mem.wf) :
    NextWf (execPatrolScrub site err s) := by
  unfold execPatrolScrub
  (repeat' split) <;> simp [hs]

@[simp] theorem State.replayPeriod_wf (s : State) (x : Nat × Nat × Nat × Nat × Cont) (hs : s.mem.wf) :
    (s.replayPeriod x).mem.wf := by
  unfold State.replayPeriod
  (repeat' split) <;> simp [hs]

@[simp] theorem State.repush_wf (s : State) (h : Nat) (hs : s.mem.wf) : (s.repush h).mem.wf := by
  unfold State.repush
  exact State.foldl_wf (fun s a hs => by split <;> simp [hs]) _ (by simp [hs])

@[simp] theorem State.reportLost_wf (s : State) (x : Nat × Nat × Nat × Nat × Cont) (hs : s.mem.wf) :
    (s.reportLost x).mem.wf := by
  unfold State.reportLost
  (repeat' split) <;> simp [hs]

theorem State.zeroWords_wf (l : List Nat) {s : State} (hs : s.mem.wf) : (l.foldl State.zeroWord s).mem.wf :=
  State.foldl_wf (fun s pa hs => s.zeroWord_wf pa hs) l hs

theorem State.replayPeriods_wf (l : List (Nat × Nat × Nat × Nat × Cont)) {s : State} (hs : s.mem.wf) :
    (l.foldl State.replayPeriod s).mem.wf :=
  State.foldl_wf (fun s x hs => s.replayPeriod_wf x hs) l hs

@[simp] theorem execPartFailure_wf (part : FailedPart) (users lost : List Nat) (s : State) (hs : s.mem.wf) :
    NextWf (execPartFailure part users lost s) := by
  unfold execPartFailure
  rw [nextWf_next]
  extract_lets s0 us s1
  have h0 : s0.mem.wf := hs
  have h1 : s1.mem.wf := by
    unfold s1
    split
    · exact State.zeroWords_wf _ (State.foldl_wf (fun s pa hs => s.failTrims_wf pa hs) _ h0)
    · exact h0
  clear_value s1
  split
  · exact State.foldl_wf (fun s x hs => s.reportLost_wf x hs) _ h1
  · exact State.repush_wf _ _ (State.replayPeriods_wf _ h1)
  · exact State.replayPeriods_wf _ h1

@[simp] theorem execPgMig_wf (rd rs1 rs2 : Reg) (s : State) (hs : s.mem.wf) : NextWf (execPgMig rd rs1 rs2 s) := by
  unfold execPgMig
  refine nextWf_next.2 (s.xPriv_wf _ _ _ _ hs fun h s hs => ?_)
  grind [State.xPriv_wf, State.xErr_mem, State.xBlock_wf, State.xResult_mem]

@[simp] theorem State.migEnd_wf (s : State) (i : Nat) (g : Migration) (code : Nat) (hs : s.mem.wf) :
    (s.migEnd i g code).mem.wf := by
  grind [State.migEnd, vwrite_wf, State.withholdHart_wf]

@[simp] theorem State.movePage_wf (s : State) (l : Leaf) (old new n : Nat) (hs : s.mem.wf) :
    (s.movePage l old new n).mem.wf := by
  simp [State.movePage, hs]

@[simp] theorem execPgMigGranule_wf (i : Nat) (frame : Option Nat) (s : State) (hs : s.mem.wf) :
    NextWf (execPgMigGranule i frame s) := by
  unfold execPgMigGranule
  dsimp only
  (repeat' split) <;> simp [hs]

@[simp] theorem execBistRun_wf (rd rs1 rs2 : Reg) (s : State) (hs : s.mem.wf) :
    NextWf (execBistRun rd rs1 rs2 s) := by
  unfold execBistRun
  refine nextWf_next.2 (s.xPriv_wf _ _ _ _ hs fun h s hs => ?_)
  dsimp only
  (repeat' split) <;> simp [hs]

@[simp] theorem execBistStat_wf (rd rs1 : Reg) (s : State) (hs : s.mem.wf) : NextWf (execBistStat rd rs1 s) := by
  unfold execBistStat
  refine nextWf_next.2 (s.xPriv_wf _ _ _ _ hs fun h s hs => ?_)
  (repeat' split) <;> simp [hs]

@[simp] theorem execBistComplete_wf (h test : Nat) (fails : List BistFail) (cycles : Nat) (s : State) (hs : s.mem.wf) :
    NextWf (execBistComplete h test fails cycles s) := by
  unfold execBistComplete
  rw [nextWf_next]
  dsimp only
  split
  · exact hs
  · split
    · exact hs
    · split
      · next hm => exact vwrite_wf hs hm
      · split
        · simp [hs]
        · exact hs

/-! ### The functions of Machine/LanternMem -/

@[simp] theorem State.lanPriv_wf (s : State) (h len : Nat) (va : Nat) (write : Bool) (hs : s.mem.wf) :
    (s.lanPriv h len va write).mem.wf := by
  simp [State.lanPriv, hs]

theorem State.lanRead_wf (s : State) (h len : Nat) (va n : Nat) (f : List Byte → State) (hs : s.mem.wf)
    (hf : ∀ b, (f b).mem.wf) : (s.lanRead h len va n f).mem.wf := by
  unfold State.lanRead
  (repeat' split) <;> simp [hs, hf]

@[simp] theorem State.endReservations_mem (s : State) (h : Nat) (ps : List (Nat × Nat)) :
    (s.endReservations h ps).mem = s.mem :=
  rfl

theorem State.lanWrite_wf (s : State) (h len : Nat) (va : Nat) (bs : List Byte) (f : State → State) (hs : s.mem.wf)
    (hf : ∀ t, t.mem.wf → (f t).mem.wf) : (s.lanWrite h len va bs f).mem.wf := by
  unfold State.lanWrite
  split
  · next hm => split <;> simp [hs, hf, vwrite_wf hs hm]
  · simp [hs]

theorem State.lanAtomic_wf (s : State) (h len : Nat) (va n : Nat) (a : Access) (f : Nat → State) (hs : s.mem.wf)
    (hf : ∀ pa, (f pa).mem.wf) : (s.lanAtomic h len va n a f).mem.wf := by
  unfold State.lanAtomic
  dsimp only
  (repeat' split) <;> simp [hs, hf]

theorem State.ite_wf {c : Prop} [Decidable c] {s t : State} (hs : s.mem.wf) (ht : t.mem.wf) :
    (if c then s else t).mem.wf := by
  split <;> assumption

@[simp] theorem State.lanAccessBy_wf (s : State) (h len : Nat) (op : LanOp) (addr : Dword) (hs : s.mem.wf) :
    (s.lanAccessBy h len op addr).mem.wf := by
  unfold State.lanAccessBy
  dsimp only
  split
  · exact s.lanRead_wf _ _ _ _ _ hs fun bs => by simp [hs]
  · exact s.lanWrite_wf _ _ _ _ _ hs fun t ht => by simp [ht]
  · exact s.lanRead_wf _ _ _ _ _ hs fun bs => by simp [hs]
  · exact s.lanWrite_wf _ _ _ _ _ hs fun t ht => by simp [ht]
  · exact s.lanAtomic_wf _ _ _ _ _ _ hs fun pa => by simp [hs]
  · refine s.lanAtomic_wf _ _ _ _ _ _ hs fun pa => ?_
    rw [State.modHart_mem]
    refine State.ite_wf ?_ hs
    exact Memory.wf_write hs _ _
  · exact s.lanAtomic_wf _ _ _ _ _ _ hs fun pa => by simp [hs, Memory.wf_write]
  · (repeat' split) <;> simp [hs]
  · split
    · next hm => split <;> simp [hs, scatterElems_wf hs hm]
    · simp [hs]

@[simp] theorem State.lanAccess_wf (s : State) (h : Nat) (op : LanOp) (addr : Dword) (hs : s.mem.wf) :
    (s.lanAccess h op addr).mem.wf :=
  s.lanAccessBy_wf h 4 op addr hs

@[simp] theorem execLanternLoadStore_wf (h : Nat) (op : LanOp) (addr : Dword) (s : State) (hs : s.mem.wf) :
    NextWf (execLanternLoadStore h op addr s) := by
  unfold execLanternLoadStore
  rw [nextWf_next]
  split <;> simp [hs]

/-! ### The functions of Machine/Loader -/

/-- The state that an instruction ends in keeps the form where its outcome does. -/

@[simp] theorem nextOf_wf {s : State} {o : Host.Outcome State Fault Refusal} (hs : s.mem.wf) (ho : NextWf o) :
    (nextOf s o).mem.wf := by
  unfold nextOf
  split
  · exact ho _ rfl
  · exact hs

@[simp] theorem State.streamWord1_wf (s : State) (esc : Bool) (x : Word) (hs : s.mem.wf) :
    (s.streamWord1 esc x).mem.wf := by
  unfold State.streamWord1
  refine nextOf_wf hs ?_
  split <;> simp [hs]

theorem State.streamFetch_wf {s t : State} {rn : Nat} (hs : s.mem.wf) (ht : s.streamFetch rn = .inl t) :
    t.mem.wf := by
  unfold State.streamFetch at ht
  grind [State.streamFault_wf]

@[simp] theorem State.runInstall_wf (n : Nat) (s : State) (rn : Nat) (hs : s.mem.wf) :
    (State.runInstall n s rn).mem.wf := by
  induction n generalizing s with
  | zero => exact hs
  | succ n ih =>
    unfold State.runInstall
    split
    · next ht => exact State.streamFetch_wf hs ht
    · exact ih _ (State.streamWord1_wf _ _ _ hs)

@[simp] theorem State.loadReturn_mem (s : State) (h code detail : Nat) : (s.loadReturn h code detail).mem = s.mem :=
  rfl

@[simp] theorem State.loadEnd_mem (s : State) (rn h : Nat) (x : Xlate) (b : List Byte) (buf : Nat) :
    (s.loadEnd rn h x b buf).mem = s.mem := by
  unfold State.loadEnd
  dsimp only
  (repeat' split) <;> simp

@[simp] theorem State.loadInstall_wf (s : State) (rn h : Nat) (r : Region) (x : Xlate) (b : List Byte)
    (buf : Nat) (ws : List Word)
    (hs : s.mem.wf) : (s.loadInstall rn h r x b buf ws).mem.wf := by
  unfold State.loadInstall
  dsimp only
  split
  · simp [hs]
  · next hm =>
    rw [State.loadEnd_mem]
    exact State.runInstall_wf _ _ _ (by simp [vwrite_wf hs hm])

@[simp] theorem execLoaderLoad_wf (rn h : Nat) (obj buf : Dword) (s : State) (hs : s.mem.wf) :
    NextWf (execLoaderLoad rn h obj buf s) := by
  unfold execLoaderLoad
  rw [nextWf_next]
  dsimp only
  (repeat' split) <;> simp [hs]

/-! ### The functions of Machine/SeqAlu -/

@[simp] theorem State.aluR_wf (s : State) (f : Dword → Dword → Dword) (d : Reg) (a b : Src) (hs : s.mem.wf) :
    (s.aluR f d a b).mem.wf := by
  simp [State.aluR, hs]

@[simp] theorem State.aluI_wf (s : State) (f : Dword → Dword → Dword) (d : Reg) (a : Src) (v : Dword)
    (hs : s.mem.wf) :
    (s.aluI f d a v).mem.wf := by
  simp [State.aluI, hs]

@[simp] theorem execAdd_wf (d : Reg) (a b : Src) (s : State) (hs : s.mem.wf) : NextWf (execAdd d a b s) := by
  simp [execAdd, hs]

@[simp] theorem execSub_wf (d : Reg) (a b : Src) (s : State) (hs : s.mem.wf) : NextWf (execSub d a b s) := by
  simp [execSub, hs]

@[simp] theorem execAnd_wf (d : Reg) (a b : Src) (s : State) (hs : s.mem.wf) : NextWf (execAnd d a b s) := by
  simp [execAnd, hs]

@[simp] theorem execOr_wf (d : Reg) (a b : Src) (s : State) (hs : s.mem.wf) : NextWf (execOr d a b s) := by
  simp [execOr, hs]

@[simp] theorem execXor_wf (d : Reg) (a b : Src) (s : State) (hs : s.mem.wf) : NextWf (execXor d a b s) := by
  simp [execXor, hs]

@[simp] theorem execSll_wf (d : Reg) (a b : Src) (s : State) (hs : s.mem.wf) : NextWf (execSll d a b s) := by
  simp [execSll, hs]

@[simp] theorem execSrl_wf (d : Reg) (a b : Src) (s : State) (hs : s.mem.wf) : NextWf (execSrl d a b s) := by
  simp [execSrl, hs]

@[simp] theorem execSra_wf (d : Reg) (a b : Src) (s : State) (hs : s.mem.wf) : NextWf (execSra d a b s) := by
  simp [execSra, hs]

@[simp] theorem execSlt_wf (d : Reg) (a b : Src) (s : State) (hs : s.mem.wf) : NextWf (execSlt d a b s) := by
  simp [execSlt, hs]

@[simp] theorem execSltu_wf (d : Reg) (a b : Src) (s : State) (hs : s.mem.wf) : NextWf (execSltu d a b s) := by
  simp [execSltu, hs]

@[simp] theorem execMul_wf (d : Reg) (a b : Src) (s : State) (hs : s.mem.wf) : NextWf (execMul d a b s) := by
  simp [execMul, hs]

@[simp] theorem execMulhu_wf (d : Reg) (a b : Src) (s : State) (hs : s.mem.wf) : NextWf (execMulhu d a b s) := by
  simp [execMulhu, hs]

@[simp] theorem execAddi_wf (d : Reg) (a : Src) (imm : BitVec 15) (s : State) (hs : s.mem.wf) :
    NextWf (execAddi d a imm s) := by
  simp [execAddi, hs]

@[simp] theorem execAndi_wf (d : Reg) (a : Src) (imm : BitVec 15) (s : State) (hs : s.mem.wf) :
    NextWf (execAndi d a imm s) := by
  simp [execAndi, hs]

@[simp] theorem execOri_wf (d : Reg) (a : Src) (imm : BitVec 15) (s : State) (hs : s.mem.wf) :
    NextWf (execOri d a imm s) := by
  simp [execOri, hs]

@[simp] theorem execXori_wf (d : Reg) (a : Src) (imm : BitVec 15) (s : State) (hs : s.mem.wf) :
    NextWf (execXori d a imm s) := by
  simp [execXori, hs]

@[simp] theorem execSlti_wf (d : Reg) (a : Src) (imm : BitVec 15) (s : State) (hs : s.mem.wf) :
    NextWf (execSlti d a imm s) := by
  simp [execSlti, hs]

@[simp] theorem execSlli_wf (d : Reg) (a : Src) (sh : BitVec 6) (s : State) (hs : s.mem.wf) :
    NextWf (execSlli d a sh s) := by
  simp [execSlli, hs]

@[simp] theorem execSrli_wf (d : Reg) (a : Src) (sh : BitVec 6) (s : State) (hs : s.mem.wf) :
    NextWf (execSrli d a sh s) := by
  simp [execSrli, hs]

@[simp] theorem execSrai_wf (d : Reg) (a : Src) (sh : BitVec 6) (s : State) (hs : s.mem.wf) :
    NextWf (execSrai d a sh s) := by
  simp [execSrai, hs]

@[simp] theorem execLui_wf (d : Reg) (imm : BitVec 21) (s : State) (hs : s.mem.wf) : NextWf (execLui d imm s) := by
  simp [execLui, hs]

/-! ### The functions of Machine/SeqCtl -/

@[simp] theorem State.branch_wf (s : State) (c : Dword → Dword → Bool) (a b : Src) (off : BitVec 14) (hs : s.mem.wf) :
    (s.branch c a b off).mem.wf := by
  simp [State.branch, hs]

@[simp] theorem execBeq_wf (a b : Src) (off : BitVec 14) (s : State) (hs : s.mem.wf) : NextWf (execBeq a b off s) := by
  simp [execBeq, hs]

@[simp] theorem execBne_wf (a b : Src) (off : BitVec 14) (s : State) (hs : s.mem.wf) : NextWf (execBne a b off s) := by
  simp [execBne, hs]

@[simp] theorem execBlt_wf (a b : Src) (off : BitVec 14) (s : State) (hs : s.mem.wf) : NextWf (execBlt a b off s) := by
  simp [execBlt, hs]

@[simp] theorem execBge_wf (a b : Src) (off : BitVec 14) (s : State) (hs : s.mem.wf) : NextWf (execBge a b off s) := by
  simp [execBge, hs]

@[simp] theorem execBltu_wf (a b : Src) (off : BitVec 14) (s : State) (hs : s.mem.wf) : NextWf (execBltu a b off s) := by
  simp [execBltu, hs]

@[simp] theorem execBgeu_wf (a b : Src) (off : BitVec 14) (s : State) (hs : s.mem.wf) : NextWf (execBgeu a b off s) := by
  simp [execBgeu, hs]

@[simp] theorem execJmp_wf (off : BitVec 26) (s : State) (hs : s.mem.wf) : NextWf (execJmp off s) := by
  simp [execJmp, hs]

@[simp] theorem execJal_wf (off : BitVec 26) (s : State) (hs : s.mem.wf) : NextWf (execJal off s) := by
  simp [execJal, hs]

@[simp] theorem execJr_wf (d : Reg) (a : Src) (s : State) (hs : s.mem.wf) : NextWf (execJr d a s) := by
  unfold execJr
  refine nextWf_next.2 (s.issue_wf _ _ _ hs fun r s hs => ?_)
  dsimp only
  (repeat' split) <;> simp [hs]

@[simp] theorem execIlleg_wf (_x : Word) (s : State) (hs : s.mem.wf) : NextWf (execIlleg _x s) := by
  unfold execIlleg
  refine nextWf_next.2 (s.issue_wf _ _ _ hs fun r s hs => ?_)
  simp [hs]

@[simp] theorem execBadpc_wf (s : State) (hs : s.mem.wf) : NextWf (execBadpc s) := by
  unfold execBadpc
  refine nextWf_next.2 (s.issue_wf _ _ _ hs fun r s hs => ?_)
  simp [hs]

/-! ### The functions of Machine/Tenancy -/

@[simp] theorem State.updateDesc_mem (s : State) (v : Dword) : (s.updateDesc v).mem = s.mem := by
  unfold State.updateDesc
  dsimp only
  (repeat' split) <;> simp

@[simp] theorem execPartitionDescriptorUpdate_wf (h : Nat) (v : Dword) (s : State) (hs : s.mem.wf) :
    NextWf (execPartitionDescriptorUpdate h v s) := by
  simp [execPartitionDescriptorUpdate, hs]

@[simp] theorem State.createQueue_mem (s : State) (p q : Nat) : (s.createQueue p q).2.mem = s.mem := by
  unfold State.createQueue
  dsimp only
  (repeat' split) <;> simp

@[simp] theorem State.destroyQueue_mem (s : State) (p q : Nat) : (s.destroyQueue p q).2.mem = s.mem := by
  unfold State.destroyQueue
  (repeat' split) <;> simp

theorem State.queueCtl_wf (s : State) (h : Nat) (v : Dword) (f : State → Nat → Nat → Dword × State) (hs : s.mem.wf)
    (hf : ∀ s p q, s.mem.wf → (f s p q).2.mem.wf) : (s.queueCtl h v f).mem.wf :=
  s.csrGate_wf _ _ _ _ hs fun x s hs => by split <;> simp [hs, hf]

theorem State.queueCtl_create_wf (s : State) (h : Nat) (v : Dword) (hs : s.mem.wf) :
    (s.queueCtl h v State.createQueue).mem.wf :=
  s.queueCtl_wf _ _ _ hs fun s p q hs => by simp [hs]

theorem State.queueCtl_destroy_wf (s : State) (h : Nat) (v : Dword) (hs : s.mem.wf) :
    (s.queueCtl h v State.destroyQueue).mem.wf :=
  s.queueCtl_wf _ _ _ hs fun s p q hs => by simp [hs]

@[simp] theorem execQueueCreate_wf (h : Nat) (v : Dword) (s : State) (hs : s.mem.wf) :
    NextWf (execQueueCreate h v s) :=
  nextWf_next.2 (s.queueCtl_create_wf h v hs)

@[simp] theorem execQueueDestroy_wf (h : Nat) (v : Dword) (s : State) (hs : s.mem.wf) :
    NextWf (execQueueDestroy h v s) :=
  nextWf_next.2 (s.queueCtl_destroy_wf h v hs)

@[simp] theorem State.revokeGraph_mem (s : State) (p h : Nat) : (s.revokeGraph p h).mem = s.mem := by
  unfold State.revokeGraph
  split <;> simp

@[simp] theorem State.revokeSo_mem (s : State) (p h : Nat) : (s.revokeSo p h).mem = s.mem := by
  unfold State.revokeSo
  split <;> simp

@[simp] theorem State.revokeAttn_wf (s : State) (p : Nat) (x : Xlate) (h : Nat) (hs : s.mem.wf) :
    (s.revokeAttn p x h).mem.wf := by
  unfold State.revokeAttn
  split <;> simp [hs]

@[simp] theorem State.revokeRegion_wf (s : State) (p h : Nat) (hs : s.mem.wf) : (s.revokeRegion p h).mem.wf := by
  unfold State.revokeRegion
  split <;> simp [hs]

@[simp] theorem State.revokeQueue_wf (s : State) (p h : Nat) (hs : s.mem.wf) : (s.revokeQueue p h).mem.wf := by
  unfold State.revokeQueue
  dsimp only
  split
  · exact hs
  · split
    · exact hs
    · refine State.foldl_wf (fun s r hs => by simp [hs]) _ (State.foldl_wf (fun s r hs => ?_) _ ?_)
      · split <;> simp [hs]
      · rw [State.modPart_mem]
        exact State.foldl_wf (fun s y hs => by simp [hs]) _ hs

@[simp] theorem execRevokeGraph_wf (h : Nat) (v : Dword) (s : State) (hs : s.mem.wf) :
    NextWf (execRevokeGraph h v s) := by
  simp [execRevokeGraph, hs]

@[simp] theorem execRevokeSyncObject_wf (h : Nat) (v : Dword) (s : State) (hs : s.mem.wf) :
    NextWf (execRevokeSyncObject h v s) := by
  simp [execRevokeSyncObject, hs]

@[simp] theorem execRevokeAttnPage_wf (h : Nat) (v : Dword) (s : State) (hs : s.mem.wf) :
    NextWf (execRevokeAttnPage h v s) := by
  unfold execRevokeAttnPage
  refine nextWf_next.2 (s.csrPart_wf _ _ _ hs fun x p s hs => ?_)
  simp [hs]

@[simp] theorem execRevokeRegion_wf (h : Nat) (v : Dword) (s : State) (hs : s.mem.wf) :
    NextWf (execRevokeRegion h v s) := by
  unfold execRevokeRegion
  refine nextWf_next.2 (s.csrPart_wf _ _ _ hs fun x p s hs => ?_)
  simp [hs]

@[simp] theorem execRevokeQueue_wf (h : Nat) (v : Dword) (s : State) (hs : s.mem.wf) :
    NextWf (execRevokeQueue h v s) :=
  nextWf_next.2 (s.csrPart_wf _ _ _ hs fun x p s hs => by simp [hs])

@[simp] theorem State.revoke_wf (s : State) (x : Hart) (p : Nat) (v : Dword) (hs : s.mem.wf) :
    (s.revoke x p v).mem.wf := by
  unfold State.revoke
  dsimp only
  split <;> simp [hs]

@[simp] theorem State.csrWrite_wf (s : State) (h n : Nat) (v : Dword) (hs : s.mem.wf) :
    (s.csrWrite h n v).mem.wf := by
  unfold State.csrWrite
  refine State.ite_wf (s.csrPart_wf _ _ _ hs fun x p s hs => by simp [hs]) ?_
  refine State.ite_wf (s.csrPart_wf _ _ _ hs fun x p s hs => by simp [hs]) ?_
  refine State.ite_wf (s.csrPart_wf _ _ _ hs fun x p s hs => by simp [hs]) ?_
  refine State.ite_wf (s.csrPart_wf _ _ _ hs fun x p s hs => by simp [hs]) ?_
  refine State.ite_wf (s.csrGate_wf _ _ _ _ hs fun x s hs => by simp [hs]) ?_
  refine State.ite_wf (s.csrPart_wf _ _ _ hs fun x p s hs => by simp [hs]) ?_
  refine State.ite_wf ?queue ?_
  case queue =>
    split
    · exact s.queueCtl_create_wf _ _ hs
    · exact s.queueCtl_destroy_wf _ _ hs
    · exact s.csrGate_wf _ _ _ _ hs fun x s hs => hs
  refine State.ite_wf (s.csrGate_wf _ _ _ _ hs fun x s hs => by simp [hs]) ?_
  refine State.ite_wf (s.csrGate_wf _ _ _ _ hs fun x s hs => by simp [hs]) ?_
  refine State.ite_wf (s.csrGate_wf _ _ _ _ hs fun x s hs => hs) ?_
  refine State.ite_wf (s.csrGate_wf _ _ _ _ hs fun x s hs => by simp [hs]) ?_
  exact s.csrGate_wf _ _ _ _ hs fun x s hs => by simp [hs]

@[simp] theorem State.assignVf_mem (s : State) (vf : Nat) (v : Dword) : (s.assignVf vf v).mem = s.mem := by
  unfold State.assignVf
  dsimp only
  (repeat' split) <;> simp

@[simp] theorem execRegisterWrite_wf (r : RegSel) (v : Dword) (s : State) (hs : s.mem.wf) :
    NextWf (execRegisterWrite r v s) := by
  unfold execRegisterWrite
  rw [nextWf_next]
  cases r <;> simp [hs]

/-! ### The functions of Machine/Dispatch -/

@[simp] theorem exec_wf (i : Instr) (s : State) (hs : s.mem.wf) : NextWf (exec i s) := by
  unfold exec
  split <;> simp [hs]

/-! ### The functions of Machine/HartVector -/

theorem State.vecMem_wf {s t : State} {h : Nat} {x : Word} (hs : s.mem.wf) (ht : s.vecMem h x = some t) :
    t.mem.wf := by
  obtain ⟨a, -, rfl⟩ := Option.map_eq_some_iff.1 ht
  dsimp only
  (repeat' split) <;> simp [hs]

/-! ### The functions of Machine/HartBase -/

@[simp] theorem State.rvDone_mem (s : State) (h n : Nat) (rd : Reg) (v : Dword) : (s.rvDone h n rd v).mem = s.mem :=
  rfl

@[simp] theorem State.rvJump_mem (s : State) (h n : Nat) (rd : Reg) (pc : Dword) : (s.rvJump h n rd pc).mem = s.mem :=
  rfl

@[simp] theorem State.rvIllegal_mem (s : State) (h : Nat) (x : Word) : (s.rvIllegal h x).mem = s.mem := rfl

@[simp] theorem State.rvRefuse_mem (s : State) (h : Nat) (x : Word) (byHs : Bool) :
    (s.rvRefuse h x byHs).mem = s.mem :=
  rfl

@[simp] theorem State.rvDeviceCsr_wf (s : State) (h n : Nat) (rd : Reg) (new : Dword → Option Dword) (hs : s.mem.wf) :
    (s.rvDeviceCsr h n rd new).mem.wf := by
  unfold State.rvDeviceCsr
  dsimp only
  (repeat' split) <;> simp +contextual [hs]

@[simp] theorem State.rvOwnCsr_mem (s : State) (h n : Nat) (x : Word) (rd : Reg) (new : Dword → Option Dword) :
    (s.rvOwnCsr h n x rd new).mem = s.mem := by
  unfold State.rvOwnCsr
  dsimp only
  (repeat' split) <;> simp

@[simp] theorem State.rvPriv_mem (s : State) (h : Nat) (x : Word) : (s.rvPriv h x).mem = s.mem := by
  grind [State.rvPriv, State.modHart_mem, State.hartTrap_mem, State.rvRefuse_mem, State.rvIllegal_mem]

@[simp] theorem State.rvGuestLoad_wf (s : State) (h n : Nat) (signed : Bool) (rd : Reg) (va : Dword) (hs : s.mem.wf) :
    (s.rvGuestLoad h n signed rd va).mem.wf := by
  unfold State.rvGuestLoad
  dsimp only
  (repeat' split) <;> simp [hs]

@[simp] theorem State.rvGuestStore_wf (s : State) (h n : Nat) (v : Dword) (va : Dword) (hs : s.mem.wf) :
    (s.rvGuestStore h n v va).mem.wf := by
  grind [State.rvGuestStore, vwrite_wf, State.lanPriv_wf, State.modHart_mem, State.endReservations_mem,
    State.hartTrap_mem]

@[simp] theorem State.rvGuest_wf (s : State) (h : Nat) (x : Word) (rd r2 : Reg) (a b : Dword) (hs : s.mem.wf) :
    (s.rvGuest h x rd r2 a b).mem.wf := by
  unfold State.rvGuest
  dsimp only
  (repeat' split) <;> simp [hs]

@[simp] theorem State.rvSystem_wf (s : State) (h : Nat) (x : Word) (rd r1 r2 : Reg) (a b : Dword) (hs : s.mem.wf) :
    (s.rvSystem h x rd r1 r2 a b).mem.wf := by
  unfold State.rvSystem
  dsimp only
  (repeat' split) <;> simp [hs]

/-- An illegal word where there is nothing else to run. -/

theorem State.orIllegal_wf {s : State} {o : Option State} {h : Nat} {x : Word} (hs : s.mem.wf) (ho : ∀ t, o = some t → t.mem.wf) :
    (o.getD (s.rvIllegal h x)).mem.wf := by
  cases o with
  | none => exact (s.rvIllegal_mem h x).symm ▸ hs
  | some t => exact ho t rfl

theorem State.orIllegal_setHart_wf {s : State} {o : Option Hart} {h : Nat} {x : Word} (hs : s.mem.wf) :
    ((o.map fun z => s.setHart h z.advance).getD (s.rvIllegal h x)).mem.wf :=
  State.orIllegal_wf hs fun t ht => by
    obtain ⟨z, -, rfl⟩ := Option.map_eq_some_iff.1 ht
    exact hs

@[simp] theorem State.rvRun_wf (s : State) (h n : Nat) (f x : Word) (hs : s.mem.wf) : (s.rvRun h n f x).mem.wf := by
  have hill : (s.rvIllegal h f).mem.wf := (s.rvIllegal_mem h f).symm ▸ hs
  unfold State.rvRun
  dsimp only
  split
  · simp [hs]
  · simp [hs]
  · simp [hs]
  · exact State.ite_wf (by simp [hs]) hill
  · split <;> simp [hs]
  · exact State.ite_wf hill (by simp [hs])
  · exact State.ite_wf hill (by simp [hs])
  · exact State.ite_wf (by simp [hs]) (State.ite_wf hill (State.orIllegal_wf hs fun t => State.vecMem_wf hs))
  · exact State.ite_wf (by simp [hs]) (State.ite_wf hill (State.orIllegal_wf hs fun t => State.vecMem_wf hs))
  · split <;> simp [hs]
  iterate 4 · split <;> simp [hs]
  · exact State.ite_wf hs hill
  · simp [hs]
  iterate 6 · exact State.orIllegal_setHart_wf hs
  · exact hill

@[simp] theorem State.rvStep_wf (s : State) (h : Nat) (x : Word) (hs : s.mem.wf) : (s.rvStep h x).mem.wf := by
  unfold State.rvStep
  refine State.ite_wf (by simp [hs]) ?_
  split <;> simp [hs]

/-! ### The functions of Machine/Tick -/

@[simp] theorem State.elementFires_wf (s : State) (n : Nat) (hs : s.mem.wf) : (s.elementFires n).mem.wf := by
  unfold State.elementFires
  split <;> simp [hs]

@[simp] theorem State.fires_wf (s : State) (hs : s.mem.wf) : s.fires.mem.wf :=
  State.foldl_wf (fun _ _ hs => State.foldl_wf (fun s n hs => s.elementFires_wf n hs) _ hs) _ hs

@[simp] theorem State.elementCycle_wf (s : State) (hs : s.mem.wf) : s.elementCycle.mem.wf :=
  State.foldl_wf (fun s x hs => s.regionCycle_wf x.2 hs) _ hs

@[simp] theorem State.countRegions_mem (s : State) : (s.countRegions).mem = s.mem := rfl

@[simp] theorem State.countWaits_mem (s : State) : (s.countWaits).mem = s.mem := rfl

@[simp] theorem State.tick_wf (s : State) (hs : s.mem.wf) : s.tick.mem.wf := by
  unfold State.tick
  rw [State.countWaits_mem, State.countRegions_mem]
  exact State.elementCycle_wf _ (State.fires_wf _ hs)

/-! ### The functions of Machine/Step -/

@[simp] theorem stepSeq_wf (sq : Nat) (s : State) (hs : s.mem.wf) : NextWf (stepSeq sq s) := by
  unfold stepSeq
  (repeat' split) <;> simp [hs]

@[simp] theorem stepHart_wf (h : Nat) (s : State) (hs : s.mem.wf) : NextWf (stepHart h s) := by
  unfold stepHart
  split
  · simp [hs]
  · split
    · simp [hs]
    · split <;> simp [hs]

@[simp] theorem stepStream_wf (rn : Nat) (s : State) (hs : s.mem.wf) : NextWf (stepStream rn s) := by
  unfold stepStream
  split
  · next ht => exact nextWf_next.2 (State.streamFetch_wf hs ht)
  · exact exec_wf _ _ hs

@[simp] theorem stepEvent_wf (i : Instr) (s : State) (hs : s.mem.wf) : NextWf (stepEvent i s) := by
  unfold stepEvent
  split <;> simp [hs]

@[simp] theorem stepMove_wf (m : Move) (s : State) (hs : s.mem.wf) : NextWf (stepMove m s) := by
  unfold stepMove
  split <;> simp [hs]

@[simp] theorem step_wf (s : State) (hs : s.mem.wf) : NextWf (step s) := by
  unfold step
  split <;> split <;> simp [hs]

/-- Settles O60: a step is a cycle or a move, and each function that they call either leaves memory as it is or changes it with writes and
zeroings, which keep its form. -/
theorem stepKeepsMemoryCanonical : Obligations.StepKeepsMemoryCanonical := by
  unfold Obligations.StepKeepsMemoryCanonical
  exact fun s t hs ht => step_wf s hs t ht

end Sys2Proof.Machine
end

section
/-! PROOF. Instructions of Xlan and sequencer accesses below their least level (O24). -/

namespace Sys2Proof.Machine

open Sys2Proof Sys2Proof.Config

/-! ### Posting a record, and refusing an instruction -/

/-- What posting a record to the guest kernel's queue, and to the hypervisor's where `hv`, leaves (R407). -/
theorem State.post_eq (s : State) (p : Nat) (hv : Bool) (r : FaultRec) :
    s.post p true hv r = { s with
      parts := s.parts.put p { s.part p with
        nextFid := nextFid (s.part p).nextFid, fqWait := (s.part p).fqWait ++ [{ r with fid := (s.part p).nextFid, part := p }] }
      mem := if (s.part p).fqFull then (s.errCount p 8).mem else s.mem
      hvq := if hv then s.hvq ++ [{ r with fid := (s.part p).nextFid, part := p }] else s.hvq } := by
  have hu : (if (true && (s.part p).fqFull) = true then s.errCount p 8 else s) =
      { s with mem := if (s.part p).fqFull then (s.errCount p 8).mem else s.mem } := by
    cases (s.part p).fqFull
    · rfl
    · exact s.errCount_onlyMem p 8
  unfold State.post
  dsimp only
  rw [hu]
  cases hv <;> rfl

/-- A privilege fault of U-mode goes to the guest kernel's queue, one of GK to the hypervisor's too (R12, R407). -/
theorem State.priv_post (s : State) (p : Nat) (hv : Bool) (r : FaultRec) : s.priv p (b2n hv) r = s.post p true hv r := by
  cases hv <;> rfl

theorem State.gwrite_mem_eq (s : State) (p ga : Nat) (bs : List Byte) :
    (s.gwrite p ga bs).mem = (vwrite s.mem (s.gpa p) ga bs).toOption.getD s.mem := by
  unfold State.gwrite
  split <;> rename_i h <;> rw [h] <;> rfl

/-- A count of an error block reads memory and the partitions alone. -/
theorem State.errCount_mem_congr {s t : State} (hm : t.mem = s.mem) (hp : t.parts = s.parts) (p off : Nat) :
    (t.errCount p off).mem = (s.errCount p off).mem := by
  have hP : t.part p = s.part p := by unfold State.part; rw [hp]
  unfold State.errCount State.count32 State.gread State.gpa
  rw [hP]
  split
  · split
    · exact hm
    · rw [State.gwrite_mem_eq, State.gwrite_mem_eq]
      unfold State.gpa
      rw [hP, hm]
  · exact hm

/-- What a refused instruction of Xlan leaves below HV: PRIV in rd, and a PRIV record that waits at the next level (R12, R79). -/
theorem State.xRefuse_spec (s : State) (rd : Reg) (adr : Option Reg) (hv : Bool) (hl : s.me.mode.level = b2n hv) :
    let P := s.part s.me.part
    ∃ (t : State) (f : FaultRec), s.xRefuse rd adr = t.withResult rd (errWord 0x16) ∧ f.code = 0x35 ∧ f.src = 4 ∧
      (∀ a, adr = some a → f.addr = s.me.get a) ∧
      t.parts = s.parts.put s.me.part { P with nextFid := nextFid P.nextFid, fqWait := P.fqWait ++ [f] } ∧
      t.hvq = (if hv then s.hvq ++ [f] else s.hvq) ∧ t.mem = (if P.fqFull then (s.errCount s.me.part 8).mem else s.mem) ∧
      t = { s with parts := t.parts, mem := t.mem, hvq := t.hvq, freeCtr := s.freeCtr + 2 } := by
  intro P
  unfold State.xRefuse
  dsimp only
  rw [hl, State.priv_post, State.post_eq, State.xErr, State.xResult_eq]
  refine ⟨_, _, rfl, rfl, rfl, ?_, rfl, rfl, ?_, rfl⟩
  · rintro a rfl
    rfl
  · exact if_congr Iff.rfl (State.errCount_mem_congr (s := s) (t := { s with freeCtr := s.freeCtr + 2 }) rfl rfl _ _) rfl

/-- An instruction below its least level is refused (R12). -/
theorem State.xPriv_below {s : State} {rd : Reg} {least : Nat} (adr : Option Reg) (f : Hart → State → State) (hw : s.me.wait = none)
    (hl : s.me.mode.level < least) : s.xPriv rd least adr f = s.xRefuse rd adr := by
  unfold State.xPriv
  simp [hw, hl]

theorem exec_below {i : Instr} {s : State} {rd : Reg} {least : Nat} {adr : Option Reg} {f : Hart → State → State}
    (he : exec i s = .next (s.xPriv rd least adr f)) (hw : s.me.wait = none) (hl : s.me.mode.level < least) :
    exec i s = .next (s.xRefuse rd adr) := by
  rw [he, State.xPriv_below adr f hw hl]

theorem exec_below_region {i : Instr} {s : State} {rd rs1 : Reg} {adr : Option Reg} {f : Hart → Nat → Region → State → State}
    (he : exec i s = .next (s.xRegion rd rs1 adr f)) (hw : s.me.wait = none) (hl : s.me.mode.level < 1) :
    exec i s = .next (s.xRefuse rd adr) := by
  rw [he, State.xRegion, State.xPart, State.xPriv_below adr _ hw hl]

/-- An instruction for a partition that is not in force is BADARG at HV and MK (R146). -/
theorem exec_inactive {i : Instr} {s : State} {rd : Reg} {least : Nat} {adr : Option Reg} {f : Hart → Nat → State → State}
    (he : exec i s = .next (s.xPart rd least adr f)) (hw : s.me.wait = none) (h2 : 2 ≤ s.me.mode.level) (hl : least ≤ 2)
    (ha : (s.part s.me.actPart).active = false) : exec i s = .next (s.withResult rd (errWord 8)) := by
  rw [he, State.xPart, State.xPriv_ok rd _ _ hw (hl.trans h2), ← State.xResult_eq]
  simp [h2, ha, State.xErr, eBADARG]

theorem exec_inactive_region {i : Instr} {s : State} {rd rs1 : Reg} {adr : Option Reg} {f : Hart → Nat → Region → State → State}
    (he : exec i s = .next (s.xRegion rd rs1 adr f)) (hw : s.me.wait = none) (h2 : 2 ≤ s.me.mode.level)
    (ha : (s.part s.me.actPart).active = false) : exec i s = .next (s.withResult rd (errWord 8)) :=
  exec_inactive (he.trans rfl) hw h2 (by decide) ha

theorem exec_xlanIllegalInstruction {s : State} (x : Word) (hw : s.me.wait = none) :
    exec (.xlanIllegalInstruction x) s = .next (s.setHart s.curHart (s.me.takeTrap 2 false (x.setWidth 64) 0)) := by
  show execXlanIllegalInstruction x s = _
  unfold execXlanIllegalInstruction
  rw [if_neg (by simp [hw])]
  rfl

/-- The instructions of Xlan for GK and above, at U: each is refused, the record with the address that it names. -/
theorem exec_at_u {s : State} {rd rd' rs1 rs2 : Reg} {i : Instr} (hw : s.me.wait = none) (hl : s.me.mode.level = 0)
    (hi : (i, rd') ∈ [(Instr.hqPop rd rs1 rs2, rd), (.rgClaim rd rs1 rs2, rd), (.rgCfg rd rs1 rs2, rd), (.rgStart rd rs1 rs2, rd),
      (.rgSnuff rd rs1, rd), (.rgFreeze rd rs1, rd), (.rgSave rd rs1 rs2, rd), (.rgLoad rd rs1 rs2, rd), (.rgRebase rd rs1 rs2, rd),
      (.rgKill rd rs1, rd), (.rgStat rd rs1, rd), (.rgFree rd rs1, rd), (.soBind rd rs1 rs2, rd), (.xltInv rs1 rs2, 0), (.xltSync rd, rd),
      (.pgMig rd rs1 rs2, rd), (.bistRun rd rs1 rs2, rd), (.bistStat rd rs1, rd)]) :
    ∃ adr, exec i s = .next (s.xRefuse rd' adr) ∧
      ∀ a, (i, a) ∈ [(Instr.hqPop rd rs1 rs2, rs2), (.rgCfg rd rs1 rs2, rs2), (.rgSave rd rs1 rs2, rs2), (.rgLoad rd rs1 rs2, rs2),
        (.soBind rd rs1 rs2, rs1), (.xltInv rs1 rs2, rs1), (.pgMig rd rs1 rs2, rs2), (.bistRun rd rs1 rs2, rs2)] → adr = some a := by
  have h1 : s.me.mode.level < 1 := by omega
  have h2 : s.me.mode.level < 2 := by omega
  simp only [List.mem_cons, List.not_mem_nil, or_false, Prod.mk.injEq] at hi
  obtain ⟨rfl, rfl⟩ | ⟨rfl, rfl⟩ | ⟨rfl, rfl⟩ | ⟨rfl, rfl⟩ | ⟨rfl, rfl⟩ | ⟨rfl, rfl⟩ | ⟨rfl, rfl⟩ | ⟨rfl, rfl⟩ | ⟨rfl, rfl⟩ |
    ⟨rfl, rfl⟩ | ⟨rfl, rfl⟩ | ⟨rfl, rfl⟩ | ⟨rfl, rfl⟩ | ⟨rfl, rfl⟩ | ⟨rfl, rfl⟩ | ⟨rfl, rfl⟩ | ⟨rfl, rfl⟩ | ⟨rfl, rfl⟩ := hi
  iterate 2 · exact ⟨_, exec_below rfl hw h1, by simp +contextual⟩
  iterate 10 · exact ⟨_, exec_below_region rfl hw h1, by simp +contextual⟩
  iterate 4 · exact ⟨_, exec_below rfl hw h1, by simp +contextual⟩
  iterate 2 · exact ⟨_, exec_below rfl hw h2, by simp +contextual⟩

/-- Those for HV and above, and an invalidation of stage 2, at GK: each is refused. -/
theorem exec_at_gk {s : State} {rd rd' rs1 rs2 : Reg} {i : Instr} (hw : s.me.wait = none) (hl : s.me.mode.level = 1)
    (hi : (i, rd') ∈ [(Instr.bistRun rd rs1 rs2, rd), (.bistStat rd rs1, rd)] ∨
      ((i, rd') = (Instr.xltInv rs1 rs2, (0 : Reg)) ∧ invBroad (s.me.get rs2) = false ∧ bits (s.me.get rs2) 1 0 = 2)) :
    ∃ adr, exec i s = .next (s.xRefuse rd' adr) ∧
      ∀ a, (i, a) ∈ [(Instr.hqPop rd rs1 rs2, rs2), (.rgCfg rd rs1 rs2, rs2), (.rgSave rd rs1 rs2, rs2), (.rgLoad rd rs1 rs2, rs2),
        (.soBind rd rs1 rs2, rs1), (.xltInv rs1 rs2, rs1), (.pgMig rd rs1 rs2, rs2), (.bistRun rd rs1 rs2, rs2)] → adr = some a := by
  have h2 : s.me.mode.level < 2 := by omega
  simp only [List.mem_cons, List.not_mem_nil, or_false, Prod.mk.injEq] at hi
  obtain (⟨rfl, rfl⟩ | ⟨rfl, rfl⟩) | ⟨⟨rfl, rfl⟩, hb, hv⟩ := hi
  · exact ⟨_, exec_below rfl hw h2, by simp +contextual⟩
  · exact ⟨_, exec_below rfl hw h2, by simp +contextual⟩
  · refine ⟨some rs1, ?_, by simp +contextual⟩
    show execXltInv rs1 rs2 s = _
    unfold execXltInv
    rw [State.xPriv_ok 0 _ _ hw hl.ge]
    simp [hl, hb, hv]

theorem exec_not_in_force {s : State} {rd rs1 rs2 : Reg} {i : Instr} (hw : s.me.wait = none) (h2 : 2 ≤ s.me.mode.level)
    (ha : (s.part s.me.actPart).active = false)
    (hi : i ∈ [.lanDispatch rd rs1 rs2, .lanJoin rd rs1, .hqPush rd rs1 rs2, .hqPop rd rs1 rs2, .rgClaim rd rs1 rs2, .rgCfg rd rs1 rs2,
      .rgStart rd rs1 rs2, .rgSnuff rd rs1, .rgFreeze rd rs1, .rgSave rd rs1 rs2, .rgLoad rd rs1 rs2, .rgRebase rd rs1 rs2, .rgKill rd rs1,
      .rgStat rd rs1, .rgFree rd rs1, .soBind rd rs1 rs2, .soAcq rd rs1 rs2, .soRel rd rs1]) :
    exec i s = .next (s.withResult rd (errWord 8)) := by
  simp only [List.mem_cons, List.not_mem_nil, or_false] at hi
  obtain rfl | rfl | rfl | rfl | rfl | rfl | rfl | rfl | rfl | rfl | rfl | rfl | rfl | rfl | rfl | rfl | rfl | rfl := hi
  iterate 5 · exact exec_inactive rfl hw h2 (by decide) ha
  iterate 10 · exact exec_inactive_region rfl hw h2 ha
  iterate 3 · exact exec_inactive rfl hw h2 (by decide) ha

/-- Nothing is traced where the partition of the region traces no kind (R446). -/
theorem State.trace_off {s : State} {rn : Nat} {r : Region} (h : s.region? rn = some r) (ht : (s.part r.part).trEn = 0)
    (kind d0 d1 : Nat) : s.trace rn kind d0 d1 = s := by
  unfold State.trace
  rw [h]
  dsimp only
  split
  · rfl
  · rw [ht, if_pos (by simp)]

theorem State.trace_setPart_off {s : State} {rn : Nat} {r : Region} {P : Partition} (h : s.region? rn = some r) (ht : P.trEn = 0)
    (kind d0 d1 : Nat) : (s.setPart r.part P).trace rn kind d0 d1 = s.setPart r.part P :=
  State.trace_off (s := s.setPart r.part P) h (by rw [State.part_setPart_same]; exact ht) kind d0 d1

/-- A record that finds room in the guest kernel's queue changes its partition alone (R407). -/
theorem State.post_room {s : State} {p : Nat} (hf : (s.part p).fqFull = false) (f : FaultRec) :
    s.post p true false f = s.setPart p { s.part p with
      nextFid := nextFid (s.part p).nextFid, fqWait := (s.part p).fqWait ++ [{ f with fid := (s.part p).nextFid, part := p }] } := by
  rw [State.post_eq, hf]
  rfl

/-- The PRIV record of a region's access: it waits last in the guest kernel's queue, and nothing else changes (R12, R406). -/
theorem State.rgPriv_eq {s : State} {rn : Nat} {r : Region} (h : s.region? rn = some r) (ht : (s.part r.part).trEn = 0)
    (hf : (s.part r.part).fqFull = false) (src place detail va : Nat) (write : Bool) :
    ∃ f : FaultRec, f.code = 0x35 ∧ f.src = w src ∧ f.addr = w va ∧ f.flags = w (b2n write) ∧
      s.rgPriv rn src place detail va write = s.setPart r.part { s.part r.part with
        nextFid := nextFid (s.part r.part).nextFid, fqWait := (s.part r.part).fqWait ++ [f] } := by
  unfold State.rgPriv State.postRg
  rw [h]
  dsimp only
  rw [State.post_room hf, State.inRegion_eq, State.trace_setPart_off h]
  · exact ⟨_, rfl, rfl, rfl, rfl, rfl⟩
  · exact ht

/-- The change of a region's sequencer in a state whose partition alone was changed. -/
theorem State.modSeq_setPart_spec {s : State} {rn : Nat} {r : Region} (h : s.region? rn = some r) (P : Partition) (g : Seq → Seq) :
    ((s.setPart r.part P).modSeq rn g).mem = s.mem ∧ ((s.setPart r.part P).modSeq rn g).part r.part = P ∧
    ((s.setPart r.part P).modSeq rn g).region? rn = some { r with seq := g r.seq } := by
  rw [State.modSeq_eq (s := s.setPart r.part P) h]
  exact ⟨rfl, State.part_setPart_same s r.part P, State.region?_setRegion_same _ _ _⟩

theorem exec_seqLoadFill {s : State} {rn k : Nat} {r : Region} (h : s.region? rn = some r) (ha : r.active = true) :
    exec (.seqLoadFill rn k) s = .next (s.perform rn k) := by
  show execSeqLoadFill rn k s = _
  unfold execSeqLoadFill
  rw [h]
  simp [ha]

/-- An access of a sequencer below the least privilege of what it names: no effect there, and a record (R12). -/
theorem exec_seqLoadFill_denied {s : State} {rn k : Nat} {r : Region} {a : SeqAcc} (h : s.region? rn = some r)
    (ha : r.active = true) (hk : r.seq.acc.find k = some a) (hb : accBlocked r.seq.acc k a.va.toNat (a.va.toNat + 1) = false)
    (hd : descBlocked r.seq.copies k a.va.toNat = false) (hh : s.isHeld r.part (.seqAccess rn k) = false)
    (hp : (s.rgDenied rn a.va.toNat a.size a.store).isSome = true)
    (hrw : if a.store then ∃ u, s.rwrite rn a.va.toNat (leBytes a.data.toNat a.size) = .ok (some u)
      else ∃ bs, s.rread rn a.va.toNat a.size = .ok bs)
    (ht : (s.part r.part).trEn = 0) (hf : (s.part r.part).fqFull = false) :
    ∃ (t : State) (f : FaultRec) (v : Dword), exec (.seqLoadFill rn k) s = .next t ∧ t.mem = s.mem ∧
      f.code = 0x35 ∧ f.src = 1 ∧ f.addr = a.va ∧ f.flags.getLsbD 0 = a.store ∧
      (t.part r.part).fqWait = (s.part r.part).fqWait ++ [f] ∧
      t.region? rn = some { r with seq := { (if a.store then r.seq else r.seq.set a.reg v) with acc := r.seq.acc.del k } } := by
  rw [exec_seqLoadFill h ha]
  unfold State.perform
  rw [h]
  dsimp only
  rw [hk]
  dsimp only
  rw [hb, hd, hh]
  cases hst : a.store with
  | true =>
    rw [hst] at hp hrw
    obtain ⟨u, hu⟩ := hrw
    rw [hu]
    simp only [hp, if_true, Bool.or_false, Bool.false_eq_true, if_false]
    obtain ⟨f, hc, hsrc, hadr, hfl, he⟩ := State.rgPriv_eq h ht hf 1 rn a.pc a.va.toNat true
    rw [he]
    obtain ⟨hm, hP, hr⟩ := State.modSeq_setPart_spec h { s.part r.part with
        nextFid := nextFid (s.part r.part).nextFid, fqWait := (s.part r.part).fqWait ++ [f] } fun q => { q with acc := q.acc.del k }
    exact ⟨_, f, 0, rfl, hm, hc, hsrc, by simpa [w] using hadr, by rw [hfl]; decide, congrArg Partition.fqWait hP, hr⟩
  | false =>
    rw [hst] at hp hrw
    obtain ⟨bs, hbs⟩ := hrw
    rw [hbs]
    simp only [hp, if_true, Bool.or_false, Bool.false_eq_true, if_false]
    obtain ⟨f, hc, hsrc, hadr, hfl, he⟩ := State.rgPriv_eq (s := { s with freeCtr := s.freeCtr + 2 }) h ht hf 1 rn a.pc a.va.toNat false
    rw [he]
    obtain ⟨hm, hP, hr⟩ := State.modSeq_setPart_spec (s := { s with freeCtr := s.freeCtr + 2 }) h { s.part r.part with
        nextFid := nextFid (s.part r.part).nextFid, fqWait := (s.part r.part).fqWait ++ [f] }
        fun q => { (q.set a.reg (freeWord s.freeCtr ++ freeWord (s.freeCtr + 1))) with acc := q.acc.del k }
    exact ⟨_, f, _, rfl, hm, hc, hsrc, by simpa [w] using hadr, by rw [hfl]; decide, congrArg Partition.fqWait hP, hr⟩

/-- Settles O24: an instruction below its least level ends in the refusal of its gate, whose record is what posting one leaves; a denied access of
a sequencer ends in the record alone. -/
theorem xlanIllegalAndPrivilege : Obligations.XlanIllegalAndPrivilege := by
  unfold Obligations.XlanIllegalAndPrivilege
  refine ⟨fun s x hw => exec_xlanIllegalInstruction x hw, fun s rd rd' rs1 rs2 i hw => ⟨fun hl hi => ?_, fun hl hi => ?_⟩,
    fun s rd rs1 rs2 i hw h2 ha hi => exec_not_in_force hw h2 ha hi,
    fun s rn k r a h ha hk hb hd hh hp hrw ht hf => exec_seqLoadFill_denied h ha hk hb hd hh hp hrw ht hf⟩
  · obtain ⟨adr, he, hadr⟩ := exec_at_u hw hl hi
    obtain ⟨t, f, ht, hc, hs, ha, hrest⟩ := State.xRefuse_spec s rd' adr false hl
    exact ⟨t, f, he.trans (congrArg _ ht), hc, hs, fun a h => ha a (hadr a h), hrest⟩
  · obtain ⟨adr, he, hadr⟩ := exec_at_gk hw hl hi
    obtain ⟨t, f, ht, hc, hs, ha, hrest⟩ := State.xRefuse_spec s rd' adr true hl
    exact ⟨t, f, he.trans (congrArg _ ht), hc, hs, fun a h => ha a (hadr a h), hrest⟩

end Sys2Proof.Machine
end

section
/-! PROOF. Accesses of device CSRs: their least level (O31) and what their writes change (O32). -/

namespace Sys2Proof.Machine

open Sys2Proof Sys2Proof.Config

/-! ### Reads after writes of a table, where one key is written twice -/

@[simp] theorem Tbl.put_put {α : Type} (t : Tbl α) (k : Nat) (u v : α) : (t.put k u).put k v = t.put k v := by
  induction t with
  | nil => simp [Tbl.put]
  | cons x t ih =>
    obtain ⟨a, b⟩ := x
    simp only [Tbl.put]
    split
    · simp [Tbl.put]
    · split
      · simp [Tbl.put]
      · next h1 h2 => simp [Tbl.put, h1, h2, ih]

@[simp] theorem State.setHart_setHart (s : State) (h : Nat) (x y : Hart) : (s.setHart h x).setHart h y = s.setHart h y := by
  simp [State.setHart]

/-! ### The gate of device CSRs (R12, R449) -/

/-- The exception of an access of a device CSR below its least level l (R12). -/
theorem csrCause_some (m : Mode) (l : Nat) : csrCause m (some l) = if (m = .vs ∨ m = .vu) ∧ l ≤ 2 then 22 else 2 := by
  unfold csrCause
  simp [cVIRTUAL, cILLEGAL]

section
variable {s : State} {h : Nat} (hw : (s.hart h).wait = none) (ho : s.hartOut h = false)
include hw ho

/-- An access of a device CSR below its least level is the exception, and nothing else (R12). -/
theorem State.csrGate_below {n l : Nat} {write : Bool} (f : Hart → State → State) (hn : csrLeast n write = some l)
    (hl : (s.hart h).mode.level < l) : s.csrGate h n write f = s.setHart h
      ((s.hart h).takeTrap (if ((s.hart h).mode = .vs ∨ (s.hart h).mode = .vu) ∧ l ≤ 2 then 22 else 2) false 0 0) := by
  unfold State.csrGate
  simp only [hw, ho, hn, hl, Option.isSome_none, Bool.or_self, Bool.false_eq_true, if_false, if_true]
  rw [csrCause_some]
  rfl

/-- An access at its least level or above is performed, and the hart goes on. -/
theorem State.csrGate_ok {n l : Nat} {write : Bool} (f : Hart → State → State) (hn : csrLeast n write = some l)
    (hl : l ≤ (s.hart h).mode.level) : s.csrGate h n write f = (f (s.hart h) s).modHart h Hart.advance := by
  unfold State.csrGate
  simp [hw, ho, hn, Nat.not_lt.2 hl]

/-- A write for a partition that is not in force does nothing. -/
theorem State.csrPart_inactive {n : Nat} (f : Hart → Nat → State → State) (hn : csrLeast n true = some 1)
    (hl : 1 ≤ (s.hart h).mode.level) (ha : (s.part (s.hart h).actPart).active = false) :
    s.csrPart h n f = s.setHart h { s.hart h with pc := (s.hart h).pc + 4 } := by
  unfold State.csrPart
  rw [State.csrGate_ok hw ho _ hn hl, ha]
  rfl

theorem State.csrPart_ok {n : Nat} (f : Hart → Nat → State → State) (hn : csrLeast n true = some 1)
    (hl : 1 ≤ (s.hart h).mode.level) (ha : (s.part (s.hart h).actPart).active = true) :
    s.csrPart h n f = (f (s.hart h) (s.hart h).actPart s).modHart h Hart.advance := by
  unfold State.csrPart
  rw [State.csrGate_ok hw ho _ hn hl, ha]
  rfl

end

/-! ### Accesses by an instruction, below and at the least level -/

theorem exec_csr_below {s : State} {h n l : Nat} {write : Bool} {i : Instr} {f : Hart → State → State} (hw : (s.hart h).wait = none)
    (ho : s.hartOut h = false) (he : exec i s = .next (s.csrGate h n write f)) (hn : csrLeast n write = some l)
    (hl : (s.hart h).mode.level < l) : exec i s = .next (s.setHart h
      ((s.hart h).takeTrap (if ((s.hart h).mode = .vs ∨ (s.hart h).mode = .vu) ∧ l ≤ 2 then 22 else 2) false 0 0)) := by
  rw [he, State.csrGate_below hw ho f hn hl]

theorem exec_csr_inactive {s : State} {h n : Nat} {i : Instr} {f : Hart → Nat → State → State} (hw : (s.hart h).wait = none)
    (ho : s.hartOut h = false) (he : exec i s = .next (s.csrPart h n f)) (hn : csrLeast n true = some 1)
    (hl : 1 ≤ (s.hart h).mode.level) (ha : (s.part (s.hart h).actPart).active = false) :
    exec i s = .next (s.setHart h { s.hart h with pc := (s.hart h).pc + 4 }) := by
  rw [he, State.csrPart_inactive hw ho f hn hl ha]

theorem exec_csrRead {s : State} {h l : Nat} (hw : (s.hart h).wait = none) (ho : s.hartOut h = false) (rd : Reg) (n : BitVec 12)
    (hn : csrLeast n.toNat false = some l) (hl : l ≤ (s.hart h).mode.level) : exec (.csrRead h rd n) s =
      .next (s.setHart h { ((s.hart h).set rd (s.csrValue (s.hart h) n.toNat)) with pc := (s.hart h).pc + 4 }) := by
  show Host.Outcome.next _ = _
  rw [State.csrGate_ok hw ho _ hn hl]
  simp only [State.modHart_eq, State.hart_setHart_same, State.setHart_setHart]
  unfold Hart.advance Hart.set
  split <;> rfl

/-- The least levels of the reads of device CSRs (R449). -/
theorem csrLeast_read {n : BitVec 12} {l : Nat} (hn : (n, l) ∈ [((0x5C0 : BitVec 12), 2), (0x5C2, 1), (0x5C4, 1), (0x5C7, 1), (0x5C8, 1),
    (0x5CA, 1), (0x6C0, 2), (0x6C1, 2), (0x6C4, 2), (0x6C5, 2), (0x7C0, 3), (0x7C1, 3), (0xCC0, 0), (0xCC1, 0)]) :
    csrLeast n.toNat false = some l := by
  simp only [List.mem_cons, List.not_mem_nil, or_false, Prod.mk.injEq] at hn
  obtain ⟨rfl, rfl⟩ | ⟨rfl, rfl⟩ | ⟨rfl, rfl⟩ | ⟨rfl, rfl⟩ | ⟨rfl, rfl⟩ | ⟨rfl, rfl⟩ | ⟨rfl, rfl⟩ | ⟨rfl, rfl⟩ | ⟨rfl, rfl⟩ |
    ⟨rfl, rfl⟩ | ⟨rfl, rfl⟩ | ⟨rfl, rfl⟩ | ⟨rfl, rfl⟩ | ⟨rfl, rfl⟩ := hn
  all_goals decide

/-- Settles O31: every access goes through the gate of its CSR, which is the exception below the least level and the access at it. -/
theorem csrPrivilege : Obligations.CsrPrivilege := by
  unfold Obligations.CsrPrivilege
  intro s h v hw ho x
  refine ⟨fun i l hi hl => ?_, fun i hi hl ha => ?_, fun rd n l hn => ⟨fun hl => ?_, fun hl => ?_⟩, rfl, rfl, rfl, rfl, rfl, rfl, rfl⟩
  · simp only [List.mem_cons, List.not_mem_nil, or_false, Prod.mk.injEq] at hi
    obtain ⟨rfl, rfl⟩ | ⟨rfl, rfl⟩ | ⟨rfl, rfl⟩ | ⟨rfl, rfl⟩ | ⟨rfl, rfl⟩ | ⟨rfl, rfl⟩ | ⟨rfl, rfl⟩ | ⟨rfl, rfl⟩ | ⟨rfl, rfl⟩ |
      ⟨rfl, rfl⟩ | ⟨rfl, rfl⟩ | ⟨rfl, rfl⟩ | ⟨rfl, rfl⟩ | ⟨rfl, rfl⟩ | ⟨rfl, rfl⟩ := hi
    all_goals exact exec_csr_below hw ho rfl (by decide) hl
  · simp only [List.mem_cons, List.not_mem_nil, or_false] at hi
    obtain rfl | rfl | rfl | rfl | rfl | rfl | rfl | rfl | rfl := hi
    all_goals exact exec_csr_inactive hw ho rfl (by decide) hl ha
  · exact exec_csr_below hw ho rfl (csrLeast_read hn) hl
  · exact exec_csrRead hw ho rd n (csrLeast_read hn) hl

/-! ### What the writes change -/

theorem exec_csr_ok {s : State} {h n l : Nat} {write : Bool} {i : Instr} {f : Hart → State → State} (hw : (s.hart h).wait = none)
    (ho : s.hartOut h = false) (he : exec i s = .next (s.csrGate h n write f)) (hn : csrLeast n write = some l)
    (hl : l ≤ (s.hart h).mode.level) : exec i s = .next ((f (s.hart h) s).modHart h Hart.advance) := by
  rw [he, State.csrGate_ok hw ho f hn hl]

theorem exec_csrPart_ok {s : State} {h n : Nat} {i : Instr} {f : Hart → Nat → State → State} (hw : (s.hart h).wait = none)
    (ho : s.hartOut h = false) (he : exec i s = .next (s.csrPart h n f)) (hn : csrLeast n true = some 1)
    (hl : 1 ≤ (s.hart h).mode.level) (ha : (s.part (s.hart h).actPart).active = true) :
    exec i s = .next ((f (s.hart h) (s.hart h).actPart s).modHart h Hart.advance) := by
  rw [he, State.csrPart_ok hw ho f hn hl ha]

/-- A write of a hart's own register, and the hart past its word. -/
theorem State.csrSet_advance (s : State) (h : Nat) (f : Hart → Hart) :
    (s.modHart h f).modHart h Hart.advance = s.setHart h (f (s.hart h)).advance := by
  simp only [State.modHart_eq, State.hart_setHart_same, State.setHart_setHart]

/-- A write of vdresume for a FID that nothing withheld has does nothing. -/
theorem State.resumeFid_none {s : State} {p fid : Nat} (hf : (s.part p).held.find? (fun f => f.fid == fid) = none) :
    s.resumeFid p fid = s := by
  unfold State.resumeFid
  rw [hf]

/-- Nothing is resumed whose record still waits to be written (R346, R407). -/
theorem State.resumeFid_waits {s : State} {p fid : Nat} (hq : ∃ y ∈ (s.part p).fqWait, y.fid = fid) : s.resumeFid p fid = s := by
  have hq : (s.part p).fqWait.any (fun r => r.fid == fid) = true := by simpa using hq
  unfold State.resumeFid
  split
  · rfl
  · rw [if_pos hq]

/-- An access other than a retirement and a result of rg.cfg is no longer withheld, and is made afresh later (R346). -/
theorem State.resumeFid_access {s : State} {p fid : Nat} {f : Held} (hf : (s.part p).held.find? (fun f => f.fid == fid) = some f)
    (hq : ∀ y ∈ (s.part p).fqWait, y.fid ≠ fid) (hn : ∀ a, f.who ≠ .join a ∧ f.who ≠ .result a) :
    s.resumeFid p fid = s.setPart p { s.part p with held := (s.part p).held.filter (fun f => f.fid != fid) } := by
  have hq : ¬ (s.part p).fqWait.any (fun r => r.fid == fid) = true := by simpa using hq
  unfold State.resumeFid
  rw [hf]
  dsimp only
  rw [if_neg hq]
  split
  · next h => exact absurd h (hn _).1
  · next h => exact absurd h (hn _).2
  · rfl

theorem State.region?_of_rgOf {s : State} {p h rn : Nat} {r : Region} (hr : s.rgOf p h = some (rn, r)) : s.region? rn = some r := by
  unfold State.rgOf at hr
  split at hr
  · split at hr
    · obtain ⟨r', h', e⟩ := Option.map_eq_some_iff.1 hr
      cases e
      exact h'
    · cases hr
  · cases hr

theorem State.debugSet_some {s : State} {p rn : Nat} {v : Dword} {r : Region} (hr : s.rgOf p (bits v 31 0) = some (rn, r)) (arm : Bool) :
    s.debugSet p v arm = s.setRegion rn { r with debug := arm } := by
  unfold State.debugSet
  rw [hr]
  exact State.modRegion_eq (State.region?_of_rgOf hr) _

theorem State.debugSet_none {s : State} {p : Nat} {v : Dword} (hr : s.rgOf p (bits v 31 0) = none) (arm : Bool) :
    s.debugSet p v arm = s := by
  unfold State.debugSet
  rw [hr]

/-- A write of vdtrace with the SLOG there was changes the trace registers alone (R445). -/
theorem State.traceCtl_same {s : State} {p : Nat} {v : Dword} (hn : bits v 28 24 = (s.part p).trSlog) :
    s.traceCtl p v = s.setPart p { s.part p with trHead := bits v 15 0, trEn := BitVec.ofNat 8 (bits v 23 16), trSlog := bits v 28 24 } :=
  if_pos hn.symm

/-- With another SLOG the samples of the partition's regions start afresh (R446). -/
theorem State.traceCtl_other {s : State} {p : Nat} {v : Dword} (hn : bits v 28 24 ≠ (s.part p).trSlog) :
    s.traceCtl p v = { s.setPart p { s.part p with
      trHead := bits v 15 0, trEn := BitVec.ofNat 8 (bits v 23 16), trSlog := bits v 28 24 } with
        regions := s.regions.map fun (x : Nat × Region) =>
          if x.2.part = p then (x.1, { x.2 with sampleAt := x.2.cycles - x.2.cycles % 2 ^ bits v 28 24 }) else x } :=
  if_neg hn.symm

/-- A table whose values are changed and whose keys are not: what is found is what was, changed. -/
theorem Tbl.find_map {α : Type} (t : Tbl α) {f : Nat × α → Nat × α} (hf : ∀ x, (f x).1 = x.1) (k : Nat) :
    Tbl.find (t.map f) k = (t.find k).map fun v => (f (k, v)).2 := by
  induction t with
  | nil => rfl
  | cons x t ih =>
    obtain ⟨a, v⟩ := x
    rw [List.map_cons, show f (a, v) = (a, (f (a, v)).2) from Prod.ext (hf _) rfl]
    simp only [Tbl.find]
    split
    · next h => rw [h]; rfl
    · exact ih

/-- Another SLOG: each region of the partition samples afresh from the multiple of 2^SLOG cycles last past (R446). -/
theorem State.traceCtl_region? {s : State} {p : Nat} {v : Dword} (hn : bits v 28 24 ≠ (s.part p).trSlog) (n : Nat) :
    (s.traceCtl p v).region? n = (s.region? n).map fun r =>
      if r.part = p then { r with sampleAt := r.cycles / 2 ^ bits v 28 24 * 2 ^ bits v 28 24 } else r := by
  rw [State.traceCtl_other hn]
  show Tbl.find (s.regions.map _) n = _
  rw [Tbl.find_map _ fun x => by split <;> rfl]
  refine congrArg (fun f => (s.region? n).map f) (funext fun r => ?_)
  rw [Nat.div_mul_self_eq_mod_sub_self]
  split <;> rfl

/-! The writes of device CSRs by their numbers. -/

theorem exec_write_vdtrace (s : State) (h : Nat) (v : Dword) :
    exec (.registerWrite (.csr h 0x5C4) v) s = .next (s.csrPart h nVDTRACE fun _ p s => s.traceCtl p v) := rfl

theorem exec_write_vdpart (s : State) (h : Nat) (v : Dword) :
    exec (.registerWrite (.csr h 0x5C0) v) s = .next (s.csrGate h nVDPART true fun _ s => s.modHart h fun x => x.csrSet nVDPART v) := rfl

theorem exec_write_vdptab (s : State) (h : Nat) (v : Dword) :
    exec (.registerWrite (.csr h 0x6C4) v) s =
      .next (s.csrGate h nVDPTAB true fun _ s => { s with vdtab := bits v 51 14 * 16384 }) := rfl

theorem exec_write_vmsel (s : State) (h : Nat) (v : Dword) :
    exec (.registerWrite (.csr h 0x7C0) v) s = .next (s.csrGate h nVMSEL true fun _ s => s.modHart h fun x => x.csrSet nVMSEL v) := rfl

theorem exec_write_lmsel (s : State) (h : Nat) (v : Dword) :
    exec (.registerWrite (.csr h 0x6C0) v) s = .next (s.csrGate h nLMSEL true fun _ s => s.modHart h fun x => x.csrSet nLMSEL v) := rfl

theorem State.pgZero_refused {s : State} {v : Dword} (h : bits v 63 52 ≠ 0 ∨ bits v 15 0 ≠ 0 ∨ paTarget v.toNat = false) :
    s.pgZero v = s :=
  if_pos (by simpa [or_assoc] using h)

theorem State.pgZero_done {s : State} {v : Dword} (h1 : bits v 63 52 = 0) (h2 : bits v 15 0 = 0) (h3 : paTarget v.toNat = true) :
    s.pgZero v = { s with mem := s.mem.zero v.toNat (v.toNat + 65536) } :=
  if_neg (by simp [h1, h2, h3])

/-- Settles O32: at its level each write passes its gate, and what it changes is what the lemma of its effect says. -/
theorem csrWrites : Obligations.CsrWrites := by
  unfold Obligations.CsrWrites
  refine ⟨fun s h v hw ho => ?_, fun s vf v hv => ?_⟩
  · intro x p past
    refine ⟨fun hl ha => ⟨?_, ⟨fun hn => ?_, fun hn => ?_⟩, fun f hf hq => ?_, fun f hf hq hn => ?_, fun hf => ?_, fun rn r hr => ⟨?_, ?_⟩,
      fun hr => ⟨?_, ?_⟩⟩, fun hl => ⟨?_, ?_, fun hv => ?_, fun hm h1 h2 h3 => ?_⟩, fun hl => ⟨?_, ?_⟩⟩
    · rw [exec_csrPart_ok hw ho rfl (by decide) hl ha]
      rfl
    · rw [exec_csrPart_ok hw ho (exec_write_vdtrace s h v) (by decide) hl ha, State.traceCtl_same hn]
      rfl
    · refine ⟨s.traceCtl p v, ?_, ?_, fun n => ?_⟩
      · rw [exec_csrPart_ok hw ho (exec_write_vdtrace s h v) (by decide) hl ha, State.traceCtl_other hn]
        rfl
      · rw [State.traceCtl_other hn]
      · exact State.traceCtl_region? hn n
    · rw [exec_csrPart_ok hw ho rfl (by decide) hl ha, State.resumeFid_waits hq]
      rfl
    · rw [exec_csrPart_ok hw ho rfl (by decide) hl ha, State.resumeFid_access hf hq hn]
      rfl
    · rw [exec_csrPart_ok hw ho rfl (by decide) hl ha, State.resumeFid_none hf]
      rfl
    · rw [exec_csrPart_ok hw ho rfl (by decide) hl ha, State.debugSet_some hr]
      rfl
    · rw [exec_csrPart_ok hw ho rfl (by decide) hl ha, State.debugSet_some hr]
      rfl
    · rw [exec_csrPart_ok hw ho rfl (by decide) hl ha, State.debugSet_none hr]
      rfl
    · rw [exec_csrPart_ok hw ho rfl (by decide) hl ha, State.debugSet_none hr]
      rfl
    · rw [exec_csr_ok hw ho (exec_write_vdpart s h v) (by decide) hl, State.csrSet_advance]
      rfl
    · rw [exec_csr_ok hw ho (exec_write_vdptab s h v) (by decide) hl]
      rfl
    · rw [exec_csr_ok hw ho rfl (by decide) hl, State.pgZero_refused hv]
      rfl
    · refine ⟨s.pgZero v, ?_, ?_, ?_, ?_⟩
      · rw [exec_csr_ok hw ho rfl (by decide) hl, State.pgZero_done h1 h2 h3]
        rfl
      · rw [State.pgZero_done h1 h2 h3]
        exact fun a ha hb => Memory.get_zero_in ha hb
      · rw [State.pgZero_done h1 h2 h3]
        exact fun b hb => Memory.get_zero_out hm hb
      · rw [State.pgZero_done h1 h2 h3]
    · rw [exec_csr_ok hw ho (exec_write_vmsel s h v) (by decide) hl, State.csrSet_advance]
      rfl
    · rw [exec_csr_ok hw ho (exec_write_lmsel s h v) (by decide) hl, State.csrSet_advance]
      rfl
  · show Host.Outcome.next (State.vfWrite s vf _) = _
    unfold State.vfWrite
    rw [if_pos hv]
    rfl

end Sys2Proof.Machine
end

section
/-! PROOF. The registers of a virtual function, by the host (O39). -/

namespace Sys2Proof.Machine

open Sys2Proof Sys2Proof.Config

/-- A write of a VF's page that is assigned (R115). -/
theorem State.vfWrite_assigned {s : State} {vf : Nat} (hv : (s.vfPart vf).isSome = true) (f : Vf → Vf) :
    s.vfWrite vf f = s.setVf vf (f (s.vf vf)) := if_pos hv

/-- A posted write of one that is not is dropped and counted (R117). -/
theorem State.vfWrite_unassigned {s : State} {vf : Nat} (hv : s.vfPart vf = none) (f : Vf → Vf) :
    s.vfWrite vf f = s.setVf vf { s.vf vf with cpl := .none, errs := (s.vf vf).errs + 1 } := if_neg (by simp [hv])

/-- Enabling the ring with LOG2N in range starts it afresh (R123). -/
theorem Vf.ringWrite_enable {x : Vf} {v : Dword} (he : bit v 8 = true) (h6 : 6 ≤ bits v 4 0) (h16 : bits v 4 0 ≤ 16) :
    x.ringWrite v = { x with en := true, log2n := bits v 4 0, crtail := 0, phase := true } := by
  unfold Vf.ringWrite
  simp [he, Nat.not_lt.2 h6, Nat.not_lt.2 h16]

/-- Any other value leaves EN 0 (R123). -/
theorem Vf.ringWrite_disable {x : Vf} {v : Dword} (h : bit v 8 = false ∨ bits v 4 0 < 6 ∨ 16 < bits v 4 0) :
    x.ringWrite v = { x with en := false, log2n := bits v 4 0 } := by
  unfold Vf.ringWrite
  dsimp only
  split
  · rfl
  · next he =>
    refine if_pos ?_
    have : bit v 8 ≠ false := by simpa using he
    simpa [this] using h

/-- A write of the MSI-X table where no message of its vector is pending. -/
theorem Vf.regWrite_table {x : Vf} {off : Nat} (v : Dword) (h1 : 0x1000 ≤ off) (h2 : off < 0x9000)
    (hp : (x.msixPba.get ((off - 0x1000) / 16 / 8)).getLsbD ((off - 0x1000) / 16 % 8) = false) :
    x.regWrite off v = { x with msixTable := x.msixTable.writeN (off - 0x1000) 8 v.toNat } := by
  unfold Vf.regWrite
  rw [if_neg (by omega), if_neg (by omega), if_neg (by omega), if_neg (by omega), if_pos ⟨h1, h2⟩]
  unfold Vf.tableWrite
  simp [hp]

/-- A host read of an assigned VF: zeros on the submission pages, else the register of the control page. -/
theorem State.hostRead_assigned {s : State} {vf : Nat} (hv : (s.vfPart vf).isSome = true) (off : Nat) :
    s.hostRead vf off = some (if off < 0x100000 then 0 else (s.vf vf).regRead (off - 0x100000)) := by
  unfold State.hostRead
  rw [if_neg (by simp [Option.isSome_iff_ne_none.1 hv])]
  split <;> rfl

theorem State.hostRead_unassigned {s : State} {vf : Nat} (hv : s.vfPart vf = none) (off : Nat) : s.hostRead vf off = none :=
  if_pos (by simp [hv])

/-- The VFs other than one that a partition holds. -/
theorem State.assignVf_ready {s : State} {vf p : Nat} (hp : p < 16) (hb : s.bootstat = 0x80)
    (hn : ((List.range 128).filter fun k => k != vf && (s.vf k).part == some p).length < 8) :
    s.assignVf vf (BitVec.ofNat 64 p) = s.setVf vf { s.vf vf with part := some p } := by
  have ht : (BitVec.ofNat 64 p).toNat = p := by rw [BitVec.toNat_ofNat]; omega
  unfold State.assignVf
  rw [ht]
  dsimp only
  rw [if_neg (by simp [hb]), if_neg (by simpa [numParts] using hp), if_neg (by simpa [numVfs, vfsPerPart] using hn)]
  rfl

theorem State.assignVf_refused {s : State} {vf p : Nat} (hp : p < 16) (h : s.bootstat ≠ 0x80 ∨
    8 ≤ ((List.range 128).filter fun k => k != vf && (s.vf k).part == some p).length) :
    s.assignVf vf (BitVec.ofNat 64 p) = s := by
  have ht : (BitVec.ofNat 64 p).toNat = p := by rw [BitVec.toNat_ofNat]; omega
  unfold State.assignVf
  rw [ht]
  dsimp only
  split
  · rfl
  · next hb =>
    rw [if_neg (by simpa [numParts] using hp), if_pos]
    exact h.resolve_left (by simpa using hb)

theorem State.assignVf_none {s : State} {vf : Nat} {p : Dword} (hp : 16 ≤ p.toNat) (hb : s.bootstat = 0x80) :
    s.assignVf vf p = s.setVf vf { s.vf vf with part := none } := by
  unfold State.assignVf
  dsimp only
  rw [if_neg (by simp [hb]), if_pos (by simpa [numParts] using hp)]
  rfl

theorem exec_registerWrite (r : RegSel) (v : Dword) (s : State) : exec (.registerWrite r v) s = execRegisterWrite r v s := rfl

/-- Settles O39: a write takes place in an assigned VF and is counted in another, and each register is written and read as its lemma says. -/
theorem hostRegisters : Obligations.HostRegisters := by
  unfold Obligations.HostRegisters
  intro s vf page v x
  refine ⟨fun hv => ⟨?_, ?_, fun he h6 h16 => ?_, fun hd => ?_⟩, fun hv => ⟨?_, ?_, ?_⟩, fun off hv h1 h2 hp => ?_,
    fun hv => ⟨?_, ?_, ?_, ?_, ?_⟩, fun hv off => State.hostRead_unassigned hv off, fun p hp => ⟨fun hb hn => ?_, fun h => ?_⟩, fun hb p hp => ?_, fun h => rfl, ?_, ?_⟩
  · exact congrArg Host.Outcome.next (if_pos hv)
  · exact congrArg Host.Outcome.next (State.vfWrite_assigned hv _)
  · exact congrArg Host.Outcome.next ((State.vfWrite_assigned hv _).trans (congrArg _ (Vf.ringWrite_enable he h6 h16)))
  · exact congrArg Host.Outcome.next ((State.vfWrite_assigned hv _).trans (congrArg _ (Vf.ringWrite_disable hd)))
  · exact congrArg Host.Outcome.next (if_neg (by simp [hv]))
  · exact congrArg Host.Outcome.next (State.vfWrite_unassigned hv _)
  · exact congrArg Host.Outcome.next (State.vfWrite_unassigned hv _)
  · exact congrArg Host.Outcome.next ((State.vfWrite_assigned hv _).trans (congrArg _ (Vf.regWrite_table v h1 h2 hp)))
  · rw [State.hostRead_assigned hv]
    rfl
  · rw [State.hostRead_assigned hv]
    show some (w (x.log2n + 256 * b2n x.en)) = _
    cases x.en <;> rfl
  · rw [State.hostRead_assigned hv]
    rfl
  · rw [State.hostRead_assigned hv]
    show some (w (x.crtail + 65536 * b2n x.phase)) = _
    cases x.phase <;> rfl
  · intro off ho
    rw [State.hostRead_assigned hv, if_pos ho]
  · exact congrArg Host.Outcome.next (State.assignVf_ready hp hb hn)
  · exact congrArg Host.Outcome.next (State.assignVf_refused hp h)
  · exact congrArg Host.Outcome.next (State.assignVf_none hp hb)
  · show Host.Outcome.next { s with fuses := { s.fuses with minSvn := max s.fuses.minSvn (v.toNat / 2 ^ 0 % 2 ^ (31 + 1 - 0)) } } = _
    rw [pow_zero, Nat.div_one]
  · have hvf : (s.setVf vf { Vf.reset with part := x.part, msgs := x.msgs }).vf vf =
        { Vf.reset with part := x.part, msgs := x.msgs } := State.vf_setVf_same _ _ _
    exact ⟨_, rfl, rfl, congrArg Vf.pages hvf, congrArg Vf.en hvf, congrArg Vf.crbase hvf, congrArg Vf.crhead hvf,
      congrArg Vf.crtail hvf, congrArg Vf.phase hvf, congrArg Vf.qvec hvf, congrArg Vf.msixTable hvf, congrArg Vf.msixPba hvf,
      (congrArg Vf.part hvf).trans rfl, fun n hn => State.vf_setVf_other s _ hn⟩

end Sys2Proof.Machine
end

section
/-! PROOF. What an element does outside its rules, and what a cycle does (O46). -/

namespace Sys2Proof.Machine

open Sys2Proof Sys2Proof.Config

/-! ### Lists changed at some of their places -/

theorem nth_set_same {α : Type} {l : List α} {i : Nat} (h : i < l.length) (v d : α) : nth (l.set i v) i d = v := by
  simp [nth, h]

theorem nth_set_other {α : Type} (l : List α) {i j : Nat} (h : i ≠ j) (v d : α) : nth (l.set i v) j d = nth l j d := by
  simp [nth, h]

/-- A change made once at each of some places of a list. -/
theorem nth_foldl_set {α : Type} (g : α → α) (dflt : α) {ks : List Nat} (hk : ks.Nodup) {l : List α} {c : Nat} (hc : c < l.length) :
    nth (ks.foldl (fun l k => l.set k (g (nth l k dflt))) l) c dflt = if c ∈ ks then g (nth l c dflt) else nth l c dflt := by
  induction ks generalizing l with
  | nil => rfl
  | cons k ks ih =>
    obtain ⟨hk1, hk2⟩ := List.nodup_cons.1 hk
    rw [List.foldl_cons, ih hk2 (by simpa using hc)]
    by_cases h : k = c
    · subst h
      rw [nth_set_same hc, if_neg hk1, if_pos List.mem_cons_self]
    · rw [nth_set_other _ h]
      simp [List.mem_cons, Ne.symm h]

theorem nodup_filter_range (p : Nat → Bool) (n : Nat) : ((List.range n).filter p).Nodup := List.nodup_range.filter p

/-! ### Inputs that lose beats and outputs that gain them -/

/-- Beats that leave change what the inputs lose alone. -/
theorem Tile.foldl_take (t : Tile) (cs : List Nat) :
    cs.foldl (fun t c => t.take c 1) t = { t with deqs := cs.foldl (fun d c => d.set c (nth d c 0 + 1)) t.deqs } := by
  induction cs generalizing t with
  | nil => rfl
  | cons c cs ih => exact ih _

/-- A marker put into outputs changes their FIFOs alone. -/
theorem Tile.foldl_mark (t : Tile) (k : Nat) (os : List Nat) :
    os.foldl (fun t o => t.enq o (markBeat k t.ernd)) t =
      { t with outF := os.foldl (fun f o => f.set o (nth f o [] ++ [markBeat k t.ernd])) t.outF } := by
  induction os generalizing t with
  | nil => rfl
  | cons o os ih => exact ih _

theorem Tile.sendMark_eq (t : Tile) (ct : Bool) (k : BitVec 4) (draining : Bool) :
    t.sendMark ct k draining = { t with
      outF := (t.mainOuts ct).foldl (fun f o => f.set o (nth f o [] ++ [markBeat k.toNat t.ernd])) t.outF
      merged := t.merged || (draining && k == 4) } := by
  unfold Tile.sendMark
  rw [Tile.foldl_mark]

theorem Tile.sendMark_outF {t : Tile} {ct : Bool} {k : BitVec 4} {draining : Bool} {o : Nat} (ho : o < 4) (hl : t.outF.length = 4) :
    nth (t.sendMark ct k draining).outF o [] =
      nth t.outF o [] ++ (if o ∈ t.mainOuts ct then [markBeat k.toNat t.ernd] else []) := by
  have hn : (t.mainOuts ct).Nodup := nodup_filter_range _ _
  rw [Tile.sendMark_eq]
  dsimp only
  rw [nth_foldl_set (· ++ [markBeat k.toNat t.ernd]) [] hn (by omega)]
  split <;> simp

/-- One loop input's marker dropped. -/
def Tile.dropMark (t : Tile) (c : Nat) : Tile :=
  match t.head c with
  | some b => if (b.kind == 3 || b.kind == 4) && nth t.deqs c 0 == 0 then t.take c 1 else t
  | none => t

theorem Tile.dropLoop_eq (t : Tile) (ct : Bool) : t.dropLoop ct = (t.loopIns ct).foldl Tile.dropMark t := rfl

/-- A dropped marker changes what its input loses alone. -/
theorem Tile.dropMark_deqs (t : Tile) (c : Nat) : ∃ q, t.dropMark c = { t with deqs := q } ∧
    (∀ j, c ≠ j → nth q j 0 = nth t.deqs j 0) ∧ q.length = t.deqs.length := by
  unfold Tile.dropMark
  split
  · split
    · exact ⟨_, rfl, fun j hj => nth_set_other _ hj _ _, by simp⟩
    · exact ⟨_, rfl, fun _ _ => rfl, rfl⟩
  · exact ⟨_, rfl, fun _ _ => rfl, rfl⟩

theorem Tile.foldl_dropMark_deqs (t : Tile) (cs : List Nat) : ∃ q, cs.foldl Tile.dropMark t = { t with deqs := q } ∧
    (∀ j, j ∉ cs → nth q j 0 = nth t.deqs j 0) ∧ q.length = t.deqs.length := by
  induction cs generalizing t with
  | nil => exact ⟨_, rfl, fun _ _ => rfl, rfl⟩
  | cons c cs ih =>
    obtain ⟨q, hq, hj, hl⟩ := t.dropMark_deqs c
    obtain ⟨q', hq', hj', hl'⟩ := ih (t.dropMark c)
    rw [List.foldl_cons, hq']
    rw [hq] at hj' hl' ⊢
    refine ⟨q', rfl, fun j h => ?_, hl'.trans hl⟩
    rw [List.mem_cons, not_or] at h
    exact (hj' j h.2).trans (hj j (Ne.symm h.1))

theorem Tile.dropLoop_enabled (t : Tile) (ct : Bool) : (t.dropLoop ct).enabled = t.enabled := by
  obtain ⟨q, hq, -, -⟩ := t.foldl_dropMark_deqs (t.loopIns ct)
  rw [Tile.dropLoop_eq, hq]
  rfl

/-- A marker at the head of a loop input is dropped (R243). -/
theorem Tile.dropLoop_marker {t : Tile} {ct : Bool} {c : Nat} (hc : c ∈ t.loopIns ct) (hl : t.deqs.length = 4) (h0 : nth t.deqs c 0 = 0)
    (hm : ∃ b, t.head c = some b ∧ (b.kind = 3 ∨ b.kind = 4)) : nth (t.dropLoop ct).deqs c 0 = 1 := by
  have hn : (t.loopIns ct).Nodup := nodup_filter_range _ _
  have hc4 : c < 4 := by simpa using (List.mem_filter.1 hc).1
  obtain ⟨b, hb, hk⟩ := hm
  obtain ⟨l₁, l₂, hs⟩ := List.append_of_mem hc
  rw [hs] at hn
  rw [Tile.dropLoop_eq, hs, List.foldl_append, List.foldl_cons]
  obtain ⟨q, hq, hj, hql⟩ := t.foldl_dropMark_deqs l₁
  have h1 : nth q c 0 = 0 := by
    rw [hj c (fun h => by simpa using (List.nodup_append.1 hn).2.2 c h c List.mem_cons_self)]
    exact h0
  have hd : ({ t with deqs := q } : Tile).dropMark c = ({ t with deqs := q } : Tile).take c 1 := by
    unfold Tile.dropMark
    rw [show ({ t with deqs := q } : Tile).head c = some b from hb]
    exact if_pos (by rcases hk with hk | hk <;> simp [h1, hk])
  rw [hq, hd]
  obtain ⟨q', hq', hj', -⟩ := Tile.foldl_dropMark_deqs (({ t with deqs := q } : Tile).take c 1) l₂
  rw [hq']
  show nth q' c 0 = 1
  rw [hj' c (List.nodup_cons.1 (List.nodup_append.1 hn).2.1).1]
  show nth (q.set c (nth q c 0 + 1)) c 0 = 1
  rw [nth_set_same (by omega), h1]

/-! ### Merges -/

/-- Heads of one kind on every input that is no loop input. -/
theorem Tile.mergeKind_some {t : Tile} {ct : Bool} {k : BitVec 4} (hk : k = 3 ∨ k = 4) (hi : t.mainIns ct ≠ [])
    (hh : ∀ c ∈ t.mainIns ct, ∃ b, t.head c = some b ∧ b.kind = k) : t.mergeKind ct = some k := by
  unfold Tile.mergeKind
  split
  · next h => exact absurd h hi
  · next c cs h =>
    rw [h] at hh
    obtain ⟨b, hb, rfl⟩ := hh c List.mem_cons_self
    rw [hb]
    refine if_pos ?_
    rw [Bool.and_eq_true, List.all_eq_true]
    refine ⟨by rcases hk with hk | hk <;> simp [hk], fun d hd => ?_⟩
    obtain ⟨x, hx, he⟩ := hh d (List.mem_cons_of_mem _ hd)
    rw [hx]
    simpa using he

theorem Tile.mergeKind_none {t : Tile} {ct : Bool} (hi : t.mainIns ct = []) : t.mergeKind ct = none := by
  unfold Tile.mergeKind
  rw [hi]

/-- Firings are over, and every output has room (R243, R409). -/
theorem Tile.mergeReady_true {t : Tile} {ct : Bool} {k : BitVec 4} (h : t.flights = [] ∧ t.hold = 0 ∧ t.shold = 0 ∧ t.owed = [] ∧
    (k = 3 ∨ ct = true ∨ t.busy = false) ∧ ∀ o ∈ t.mainOuts ct, 1 ≤ t.credits o) : t.mergeReady ct k = true := by
  obtain ⟨hf, hh, hs, ho, hb, hc⟩ := h
  have hb : (k == 3 || ct || !t.busy) = true := by rcases hb with rfl | rfl | hb <;> simp [*]
  unfold Tile.mergeReady
  rw [hf, hh, hs, ho, hb]
  simpa using hc

/-- The kind of the head of an input, 0 where it is empty. -/
def Tile.headKind (t : Tile) (c : Nat) : BitVec 4 := match t.oldest c with | some x => x.kind | none => 0

/-- The kinds of the heads of an element, four bits each (R405). -/
theorem Tile.headKinds_sum (t : Tile) :
    (let ks := (List.range 4).map t.headKind
     (nth ks 0 0).toNat + 16 * (nth ks 1 0).toNat + 256 * (nth ks 2 0).toNat + 4096 * (nth ks 3 0).toNat) =
    ((List.range 4).map (fun c => match t.oldest c with | some x => x.kind.toNat * 16 ^ c | none => 0)).sum := by
  have hm : ∀ c, (match t.oldest c with | some x => x.kind.toNat * 16 ^ c | none => 0) = (t.headKind c).toNat * 16 ^ c := fun c => by
    unfold Tile.headKind
    split <;> simp [*]
  simp only [hm, List.range, List.range.loop, List.map_cons, List.map_nil, List.sum_cons, List.sum_nil, nth,
    List.getElem?_cons_zero, List.getElem?_cons_succ, Option.getD_some]
  ring

section
variable {s : State} {tile rn : Nat} {r : Region} (hr : s.liveRegion tile = some (rn, r))
include hr

/-- A merge takes one marker from every input that is no loop input, and sends one on every output without a delay line (R243). -/
theorem State.markMerge_some {k : BitVec 4} (he : (s.tile tile).enabled = true)
    (hk : ((s.tile tile).dropLoop (isCt tile)).mergeKind (isCt tile) = some k)
    (hy : ((s.tile tile).dropLoop (isCt tile)).mergeReady (isCt tile) k = true)
    (h0 : ∀ c ∈ ((s.tile tile).dropLoop (isCt tile)).mainIns (isCt tile), nth ((s.tile tile).dropLoop (isCt tile)).deqs c 0 = 0) :
    s.markMerge tile = (s.setTile tile ((s.tile tile).dropLoop (isCt tile))).setTile tile
      (((((s.tile tile).dropLoop (isCt tile)).mainIns (isCt tile)).foldl (fun t c => t.take c 1)
        ((s.tile tile).dropLoop (isCt tile))).sendMark (isCt tile) k (r.state == .draining)) := by
  have h0 : (((s.tile tile).dropLoop (isCt tile)).mainIns (isCt tile)).all
      (fun c => nth ((s.tile tile).dropLoop (isCt tile)).deqs c 0 == 0) = true := by
    simpa using h0
  unfold State.markMerge
  rw [hr]
  dsimp only
  rw [he, hk]
  dsimp only
  rw [hy, h0]
  rfl

/-- In a drain an element without such an input sends a snuff marker, and fires no more (R409). -/
theorem State.markMerge_none (he : (s.tile tile).enabled = true)
    (hi : ((s.tile tile).dropLoop (isCt tile)).mainIns (isCt tile) = []) (hd : r.state = .draining)
    (hm : ((s.tile tile).dropLoop (isCt tile)).merged = false) (hy : ((s.tile tile).dropLoop (isCt tile)).mergeReady (isCt tile) 4 = true) :
    s.markMerge tile = (s.setTile tile ((s.tile tile).dropLoop (isCt tile))).setTile tile
      (((s.tile tile).dropLoop (isCt tile)).sendMark (isCt tile) 4 true) := by
  unfold State.markMerge
  rw [hr]
  dsimp only
  rw [he, Tile.mergeKind_none hi, hi, hd, hm, hy]
  rfl

theorem State.markMerge_disabled (he : (s.tile tile).enabled = false) : s.markMerge tile = s := by
  unfold State.markMerge
  rw [hr]
  dsimp only
  rw [he]
  rfl

theorem exec_reservedKindDrop_disabled (he : (s.tile tile).enabled = false) (ch : Nat) :
    exec (.reservedKindDrop tile ch) s = .next s := by
  show execReservedKindDrop tile ch s = _
  unfold execReservedKindDrop
  rw [hr]
  dsimp only
  rw [he]
  split <;> rfl

/-- A head of a kind that is not reserved is not dropped. -/
theorem exec_reservedKindDrop_known {ch : Nat} {b : Beat} (hb : (s.tile tile).oldest ch = some b) (hk : b.kind.toNat < 6) :
    exec (.reservedKindDrop tile ch) s = .next s := by
  show execReservedKindDrop tile ch s = _
  unfold execReservedKindDrop
  rw [hr]
  dsimp only
  rw [hb]
  dsimp only
  rw [if_neg (by simp [Nat.not_le.2 hk])]

/-- A head of a reserved kind is dropped with a KIND record of the heads of the element (R238, R406). -/
theorem exec_reservedKindDrop_reserved {ch : Nat} {b : Beat} (he : (s.tile tile).enabled = true) (hb : (s.tile tile).oldest ch = some b)
    (hk : 6 ≤ b.kind.toNat) (h0 : nth (s.tile tile).deqs ch 0 = 0) :
    exec (.reservedKindDrop tile ch) s = .next ((s.postRg r.part rn true false { FaultRec.of fKIND 0 with
      place := w ((tileX tile - r.ocol) + 65536 * (tileY tile - r.orow))
      detail := w (4096 * ((List.range 4).map (fun c =>
        match (s.tile tile).oldest c with | some x => x.kind.toNat * 16 ^ c | none => 0)).sum)
      tags := (List.range 4).map (fun c => match (s.tile tile).oldest c with | some x => x.tag | none => 0) }).setTile tile
        ((s.tile tile).take ch 1)) := by
  show execReservedKindDrop tile ch s = _
  unfold execReservedKindDrop
  rw [hr]
  dsimp only
  rw [hb]
  dsimp only
  rw [he, if_pos (by simp [hk, h0]), ← Tile.headKinds_sum]
  rfl

end

/-- What a marker sent by an element leaves: one more beat in each output without a delay line, and in a drain no more firing
(R243, R409). -/
theorem Tile.sendMark_spec (d : Tile) (ct : Bool) (k : BitVec 4) (st : RgState) :
    (∀ o < 4, d.outF.length = 4 → nth (d.sendMark ct k (st == .draining)).outF o [] =
      nth d.outF o [] ++ (if o ∈ d.mainOuts ct then [markBeat k.toNat d.ernd] else [])) ∧
    (d.sendMark ct k (st == .draining)).merged = (d.merged || (decide (st = .draining) && k == 4)) := by
  refine ⟨fun o ho hl => Tile.sendMark_outF ho hl, ?_⟩
  rw [Tile.sendMark_eq]
  cases st <;> rfl

/-- The element after a merge: its inputs lose the markers, its outputs gain one (R243). -/
theorem Tile.merge_frame (d : Tile) (ct : Bool) (k : BitVec 4) (draining : Bool) :
    let u := ((d.mainIns ct).foldl (fun t c => t.take c 1) d).sendMark ct k draining
    u = { d with outF := u.outF, deqs := u.deqs, merged := u.merged } ∧
    ∀ c < 4, d.deqs.length = 4 → nth u.deqs c 0 = nth d.deqs c 0 + (if c ∈ d.mainIns ct then 1 else 0) := by
  intro u
  have hu : u = ((d.mainIns ct).foldl (fun t c => t.take c 1) d).sendMark ct k draining := rfl
  rw [Tile.sendMark_eq, Tile.foldl_take] at hu
  rw [hu]
  refine ⟨rfl, fun c hc hl => ?_⟩
  have hn : (d.mainIns ct).Nodup := nodup_filter_range _ _
  dsimp only
  rw [nth_foldl_set (· + 1) 0 hn (by omega)]
  split <;> rfl

/-! ### Discards -/

theorem emptyWord_iff (b : Beat) : emptyWord b = true ↔ b.kind = 0 ∧ b.valid = 0 := by
  unfold emptyWord
  simp

/-- A discard changes what its input loses, the count of discards and the status alone. -/
theorem Tile.discard_frame (t : Tile) (c : Nat) : ∃ q k e, t.discard c = { t with deqs := q, iskip := k, status := e } := by
  unfold Tile.discard
  split
  · exact ⟨_, _, _, rfl⟩
  · exact ⟨_, _, _, rfl⟩

theorem Tile.foldl_discard_frame (t : Tile) (cs : List Nat) :
    ∃ q k e, cs.foldl Tile.discard t = { t with deqs := q, iskip := k, status := e } := by
  induction cs generalizing t with
  | nil => exact ⟨_, _, _, rfl⟩
  | cons c cs ih =>
    obtain ⟨q, k, e, h⟩ := t.discard_frame c
    obtain ⟨q', k', e', h'⟩ := ih (t.discard c)
    rw [List.foldl_cons, h', h]
    exact ⟨_, _, _, rfl⟩

theorem Tile.discard_deqs {t : Tile} {c : Nat} {b : Beat} (hb : t.head c = some b) :
    (t.discard c).deqs = t.deqs.set c (nth t.deqs c 0 + 1) ∧ (t.discard c).iskip = t.iskip + 1 := by
  unfold Tile.discard
  rw [hb]
  exact ⟨rfl, rfl⟩

theorem Tile.foldl_discard_deqs (t : Tile) (cs : List Nat) (hh : ∀ c ∈ cs, ∃ b, t.head c = some b) :
    (cs.foldl Tile.discard t).deqs = cs.foldl (fun d c => d.set c (nth d c 0 + 1)) t.deqs := by
  induction cs generalizing t with
  | nil => rfl
  | cons c cs ih =>
    obtain ⟨b, hb⟩ := hh c List.mem_cons_self
    obtain ⟨q, k, e, h⟩ := t.discard_frame c
    rw [List.foldl_cons, List.foldl_cons, ← (Tile.discard_deqs hb).1]
    refine ih _ fun x hx => ?_
    rw [h]
    exact hh x (List.mem_cons_of_mem _ hx)

/-- Whether the head of an input is an empty word. -/
def Tile.emptyHead (t : Tile) (c : Nat) : Bool := match t.head c with | some b => emptyWord b | none => false

theorem Tile.emptyHead_iff (t : Tile) (c : Nat) : t.emptyHead c = true ↔ ∃ b, t.head c = some b ∧ b.kind = 0 ∧ b.valid = 0 := by
  unfold Tile.emptyHead
  cases t.head c with
  | none => simp
  | some b => simpa using emptyWord_iff b

/-- A pair discards its empty words, or else the head that has no match (R308, R309). -/
theorem Tile.discards_eq (t : Tile) (ct : Bool) : t.discards ct =
    (if ([0, 1].filter t.emptyHead).isEmpty then (t.pairState ct).2.toList else [0, 1].filter t.emptyHead).filter
      (fun c => nth t.deqs c 0 == 0) := by
  unfold Tile.discards
  cases (t.pairState ct).2 <;> rfl

section
variable {t : Tile} (ct : Bool) (h0 : nth t.deqs 0 0 = 0) (h1 : nth t.deqs 1 0 = 0)
include h0 h1

/-- Where a head is an empty word, the empty words are what is discarded (R309). -/
theorem Tile.discards_empty (he : t.emptyHead 0 = true ∨ t.emptyHead 1 = true) : t.discards ct = [0, 1].filter t.emptyHead := by
  have hne : ([0, 1].filter t.emptyHead).isEmpty = false := by
    rcases he with he | he <;> simp [List.isEmpty_eq_false_iff, List.filter, he]
    split <;> simp
  rw [Tile.discards_eq, hne, if_neg (by decide), List.filter_eq_self]
  intro c hc
  have hc : c = 0 ∨ c = 1 := by simpa using (List.mem_filter.1 hc).1
  rcases hc with rfl | rfl
  · simpa using h0
  · simpa using h1

/-- Of two heads with data the one with the smaller tag is discarded, and neither where the tags agree (R308). -/
theorem Tile.discards_data {a b : Beat} (ha : t.head 0 = some a) (ha0 : a.kind = 0) (hav : a.valid ≠ 0)
    (hb : t.head 1 = some b) (hb0 : b.kind = 0) (hbv : b.valid ≠ 0) : t.discards ct =
      if tagFld (t.inW ct 0) a.tag (t.pairFld ct) = tagFld (t.inW ct 1) b.tag (t.pairFld ct) then []
      else if tagFld (t.inW ct 0) a.tag (t.pairFld ct) < tagFld (t.inW ct 1) b.tag (t.pairFld ct) then [0] else [1] := by
  have hea : emptyWord a = false := by simpa [Bool.eq_false_iff, emptyWord_iff, ha0] using hav
  have heb : emptyWord b = false := by simpa [Bool.eq_false_iff, emptyWord_iff, hb0] using hbv
  have he : [0, 1].filter t.emptyHead = [] := by simp [Tile.emptyHead, ha, hb, hea, heb]
  have hp : (t.pairState ct).2 = if tagFld (t.inW ct 0) a.tag (t.pairFld ct) = tagFld (t.inW ct 1) b.tag (t.pairFld ct) then none
      else some (if tagFld (t.inW ct 0) a.tag (t.pairFld ct) < tagFld (t.inW ct 1) b.tag (t.pairFld ct) then 0 else 1) := by
    have hpa : t.pairHead 0 = some a := by unfold Tile.pairHead; rw [ha]; simp [hea]
    have hpb : t.pairHead 1 = some b := by unfold Tile.pairHead; rw [hb]; simp [heb]
    unfold Tile.pairState
    rw [hpa, hpb]
    by_cases ht : tagFld (t.inW ct 0) a.tag (t.pairFld ct) = tagFld (t.inW ct 1) b.tag (t.pairFld ct) <;> simp [ha0, hb0, ht]
  rw [Tile.discards_eq, he, hp, if_pos (by rfl)]
  split
  · rfl
  · split
    · simp [h0]
    · simp [h1]

/-- What each of the two inputs loses where a head is an empty word: its empty word, if it has one (R309). -/
theorem Tile.deqs_discards_empty (hl : t.deqs.length = 4) (he : t.emptyHead 0 = true ∨ t.emptyHead 1 = true) {c : Nat} (hc : c < 2) :
    nth ((t.discards ct).foldl Tile.discard t).deqs c 0 = if t.emptyHead c = true then 1 else 0 := by
  have h : nth t.deqs c 0 = 0 := by
    obtain rfl | rfl : c = 0 ∨ c = 1 := by omega
    · exact h0
    · exact h1
  have hm : c ∈ [0, 1].filter t.emptyHead ↔ t.emptyHead c = true := by
    rw [List.mem_filter, and_iff_right]
    simp only [List.mem_cons, List.not_mem_nil, or_false]
    omega
  rw [Tile.discards_empty ct h0 h1 he, Tile.foldl_discard_deqs, nth_foldl_set (· + 1) 0 ((by decide : [0, 1].Nodup).filter _) (by omega),
    h]
  · simp only [hm, Nat.zero_add]
  · intro c hc
    obtain ⟨b, hb, -⟩ := (t.emptyHead_iff c).1 (List.mem_filter.1 hc).2
    exact ⟨b, hb⟩

end

theorem exec_intersectDiscard {s : State} {tile rn : Nat} {r : Region} (hr : s.liveRegion tile = some (rn, r))
    (he : (s.tile tile).enabled = true) (ht : (s.tile tile).trap = none) (hp : bit ((s.tile tile).inW (isCt tile) 0) 29 = true) :
    exec (.intersectDiscard tile) s =
      .next (s.setTile tile (((s.tile tile).discards (isCt tile)).foldl Tile.discard (s.tile tile))) := by
  show Host.Outcome.next (s.pairDiscard tile) = _
  unfold State.pairDiscard
  rw [hr]
  dsimp only
  rw [he, ht, Tile.paired, hp]
  rfl

/-- What a pair discards (R308-R310). -/
theorem Tile.discards_spec {t : Tile} (ct : Bool) (hl : t.deqs.length = 4) (h0 : nth t.deqs 0 0 = 0) (h1 : nth t.deqs 1 0 = 0) :
    let u := (t.discards ct).foldl Tile.discard t
    u = { t with deqs := u.deqs, iskip := u.iskip, status := u.status } ∧
    (let E (c : Nat) : Prop := ∃ b, t.head c = some b ∧ b.kind = 0 ∧ b.valid = 0
     let tag (c : Nat) : Option Nat := (t.head c).map (fun b => tagFld (t.inW ct c) b.tag (t.pairFld ct))
     let Data (c : Nat) : Prop := ∃ b, t.head c = some b ∧ b.kind = 0 ∧ b.valid ≠ 0
     (∀ c < 2, E c → nth u.deqs c 0 = 1) ∧
     (∀ c < 2, (E 0 ∨ E 1) → ¬ E c → nth u.deqs c 0 = 0) ∧
     (Data 0 → Data 1 → ∀ x y, tag 0 = some x → tag 1 = some y →
       (x = y → u = t) ∧ (x < y → u.deqs = t.deqs.set 0 1 ∧ u.iskip = t.iskip + 1) ∧
       (y < x → u.deqs = t.deqs.set 1 1 ∧ u.iskip = t.iskip + 1))) := by
  refine ⟨?_, fun c hc hE => ?_, fun c hc hE hnE => ?_, ?_⟩
  · obtain ⟨q, k, e, h⟩ := t.foldl_discard_frame (t.discards ct)
    rw [h]
  · have hE := (t.emptyHead_iff c).2 hE
    rw [Tile.deqs_discards_empty ct h0 h1 hl ?_ hc, if_pos hE]
    obtain rfl | rfl : c = 0 ∨ c = 1 := by omega
    · exact .inl hE
    · exact .inr hE
  · rw [Tile.deqs_discards_empty ct h0 h1 hl (by simpa only [Tile.emptyHead_iff] using hE) hc, if_neg]
    rwa [Tile.emptyHead_iff]
  · rintro ⟨a, ha, ha0, hav⟩ ⟨b, hb, hb0, hbv⟩ x y hx hy
    dsimp only at hx hy
    rw [ha] at hx
    rw [hb] at hy
    cases hx
    cases hy
    rw [Tile.discards_data ct h0 h1 ha ha0 hav hb hb0 hbv]
    refine ⟨fun h => ?_, fun h => ?_, fun h => ?_⟩
    · rw [if_pos h]
      rfl
    · rw [if_neg h.ne, if_pos h]
      simpa [h0] using Tile.discard_deqs ha
    · rw [if_neg h.ne', if_neg h.not_gt]
      simpa [h1] using Tile.discard_deqs hb

/-! ### The cycle -/

/-- What a cycle counts (R347, R428, R441, R458). -/
theorem State.countAll_eq (s : State) : s.countRegions.countWaits = { s with
    regions := s.regions.map fun y =>
      if y.2.state = .running ∨ y.2.state = .draining then (y.1, { y.2 with cycles := y.2.cycles + 1 }) else y
    parts := s.parts.map fun y => (y.1, { y.2 with
      held := y.2.held.map fun h => { h with age := h.age + 1 }, svcs := y.2.svcs.map fun v => (v.1, { v.2 with left := v.2.left - 1 }) })
    colls := s.colls.map fun y => (y.1, y.2.map fun c => { c with age := c.age + 1 }) } := by
  have hf : (fun y : Nat × Region => if y.2.active then (y.1, { y.2 with cycles := y.2.cycles + 1 }) else y) =
      fun y => if y.2.state = .running ∨ y.2.state = .draining then (y.1, { y.2 with cycles := y.2.cycles + 1 }) else y :=
    funext fun y => by simp only [Region.active, Bool.or_eq_true, beq_iff_eq]
  unfold State.countWaits State.countRegions
  rw [hf]

theorem step_tick {s : State} {rest : List Move} (hp : s.power = true) (ha : s.agenda = [] ∧ rest = [] ∨ s.agenda = .tick :: rest) :
    step s = .next { s with agenda := rest }.tick := by
  unfold step
  obtain ⟨h, rfl⟩ | h := ha
  · rw [h]
    dsimp only
    rw [if_pos hp, show ({ s with agenda := [] } : State) = s by rw [← h]]
  · rw [h]
    dsimp only
    rw [if_pos (by simp [hp])]
    rfl

theorem State.fires_none {s : State} (h : ∀ y ∈ s.regions, y.2.active = false) : s.fires = s := by
  have : s.regions.filter (fun x => x.2.active) = [] := List.filter_eq_nil_iff.2 fun y hy => by simp [h y hy]
  unfold State.fires
  rw [this]
  rfl

theorem State.elementCycle_none {s : State} (h : ∀ y ∈ s.regions, y.2.active = false ∧ y.2.state ≠ .freezing) :
    s.elementCycle = s := by
  have : s.regions.filter (fun x => x.2.active || x.2.state == .freezing) = [] :=
    List.filter_eq_nil_iff.2 fun y hy => by simp [h y hy]
  unfold State.elementCycle
  rw [this]
  rfl

/-- The firings of a cycle with one region of one element. -/
theorem State.fires_one {s : State} {rn tile : Nat} {r : Region} (hr : s.regions = [(rn, r)]) (ha : r.active = true)
    (hl : s.listed r = [tile]) : s.fires = s.elementFires tile := by
  unfold State.fires
  simp [hr, ha, hl]

theorem State.elementCycle_one {s : State} {rn tile : Nat} {r : Region} (hr : s.regions = [(rn, r)])
    (ha : r.active = true ∨ r.state = .freezing) (hl : s.listed r = [tile]) :
    s.elementCycle = if isCt tile then s.ctCycle tile else s.mtCycle tile := by
  have ha : (r.active || r.state == .freezing) = true := by rcases ha with ha | ha <;> simp [ha]
  unfold State.elementCycle
  simp [hr, ha, State.regionCycle, hl]

/-- What an element does first in a cycle: the merge, the discard, then the rules (R243, R308, R353). -/
theorem State.elementFires_of_exec {z a b c : State} {tile : Nat} (ha : exec (.barrierSnuffMerge tile) z = .next a)
    (hb : exec (.intersectDiscard tile) a = .next b) (hct : isCt tile = true → exec (.ctRuleFire tile) b = .next c)
    (hmt : isCt tile = false → ∃ m, exec (.mtRuleFire tile) b = .next m ∧ exec (.streamRuleFire tile) m = .next c) :
    z.elementFires tile = c := by
  obtain rfl : z.markMerge tile = a := Host.Outcome.next.inj ha
  obtain rfl : (z.markMerge tile).pairDiscard tile = b := Host.Outcome.next.inj hb
  unfold State.elementFires
  dsimp only
  split
  · next h => exact Host.Outcome.next.inj (hct h)
  · next h =>
    obtain ⟨m, hm, hs⟩ := hmt (by simpa using h)
    obtain rfl : ((z.markMerge tile).pairDiscard tile).mtFire tile = m := Host.Outcome.next.inj hm
    exact Host.Outcome.next.inj hs

/-! ### The elements' cycles -/

/-- A pass that ends takes one from PASSC of its element, and changes no other element and no memory (R255). -/
theorem State.passEnd_spec {s : State} {tile rn : Nat} {r : Region} {a : Nat} (hr : s.ownerOf tile = some (rn, r))
    (ha : (s.tile tile).sect = some a) :
    (s.passEnd tile).tile tile = { s.tile tile with passc := (s.tile tile).passc - 1 } ∧
    (∀ n, n ≠ tile → (s.passEnd tile).tile n = s.tile n) ∧ (s.passEnd tile).mem = s.mem := by
  have ht : (s.passEnd tile).tiles = (s.modTile tile fun x => { x with passc := x.passc - 1 }).tiles := by
    unfold State.passEnd
    rw [hr, ha]
    exact State.modRegion_tiles _ _ _
  refine ⟨?_, fun n hn => ?_, State.passEnd_mem s tile⟩
  · unfold State.tile
    rw [ht]
    exact State.tile_setTile_same _ _ _
  · unfold State.tile
    rw [ht]
    exact State.tile_setTile_other _ _ hn

theorem State.ctCycle_no_trap {s : State} {tile : Nat} (h : (s.tile tile).ctCycle.2.1 = []) :
    s.ctCycle tile = if (s.tile tile).ctCycle.2.2 then (s.setTile tile (s.tile tile).ctCycle.1).passEnd tile
      else s.setTile tile (s.tile tile).ctCycle.1 := by
  unfold State.ctCycle
  generalize (s.tile tile).ctCycle = c at h ⊢
  obtain ⟨u, traps, ends⟩ := c
  cases h
  rfl

/-- A beat that leaves changes what is owed and the output's FIFO alone. -/
theorem Tile.payOut_frame (t₀ t : Tile) (c : Nat) : ∃ q f, t₀.payOut t c = { t with owed := q, outF := f } := by
  unfold Tile.payOut
  split
  · exact ⟨_, _, rfl⟩
  · split
    · exact ⟨_, _, rfl⟩
    · split
      · split
        · dsimp only
          split <;> exact ⟨_, _, rfl⟩
        · exact ⟨_, _, rfl⟩
      · exact ⟨_, _, rfl⟩
      · exact ⟨_, _, rfl⟩

theorem Tile.foldl_payOut_frame (t₀ t : Tile) (cs : List Nat) : ∃ q f, cs.foldl t₀.payOut t = { t with owed := q, outF := f } := by
  induction cs generalizing t with
  | nil => exact ⟨_, _, rfl⟩
  | cons c cs ih =>
    obtain ⟨q, f, h⟩ := t₀.payOut_frame t c
    obtain ⟨q', f', h'⟩ := ih (t₀.payOut t c)
    rw [List.foldl_cons, h', h]
    exact ⟨_, _, rfl⟩

/-- Nothing leaves for an output to which nothing is owed. -/
theorem Tile.payOut_other (t₀ : Tile) {t : Tile} {c : Nat} (h : ∀ x ∈ t.owed, x.out ≠ c) : t₀.payOut t c = t := by
  have : t.owed.findIdx? (fun x => x.out == c) = none := by simpa [List.findIdx?_eq_none_iff] using h
  unfold Tile.payOut
  rw [this]

theorem Tile.foldl_payOut_other (t₀ : Tile) {t : Tile} {cs : List Nat} (h : ∀ c ∈ cs, ∀ x ∈ t.owed, x.out ≠ c) :
    cs.foldl t₀.payOut t = t := by
  induction cs with
  | nil => rfl
  | cons c cs ih =>
    rw [List.foldl_cons, Tile.payOut_other t₀ (h c List.mem_cons_self)]
    exact ih fun c hc => h c (List.mem_cons_of_mem _ hc)

/-- The turn of the one output to which something is owed. -/
theorem Tile.foldl_payOut_one (t₀ : Tile) {t : Tile} {c : Nat} (hc : c < 4) (h : ∀ x ∈ t.owed, x.out = c)
    (h' : ∀ x ∈ (t₀.payOut t c).owed, x.out = c) : (List.range 4).foldl t₀.payOut t = t₀.payOut t c := by
  obtain ⟨l₁, l₂, hs⟩ := List.append_of_mem (List.mem_range.2 hc)
  have hn : (l₁ ++ c :: l₂).Nodup := hs ▸ List.nodup_range
  obtain ⟨-, hn2, hn3⟩ := List.nodup_append.1 hn
  have h₁ : l₁.foldl t₀.payOut t = t :=
    Tile.foldl_payOut_other t₀ fun k hk x hx e => hn3 k hk c List.mem_cons_self (e.symm.trans (h x hx))
  rw [hs, List.foldl_append, List.foldl_cons, h₁]
  exact Tile.foldl_payOut_other t₀ fun k hk x hx e => (List.nodup_cons.1 hn2).1 (by rw [← h' x hx, e]; exact hk)

section
variable {t : Tile} {x : Owed} (ho : t.owed = [x])
include ho

/-- A beat that is not known yet, or not due, stays owed (R353). -/
theorem Tile.payOut_stays (h : x.beats = none ∨ (x.due ≠ 0 ∧ x.beats ≠ some [])) : t.payOut t x.out = t := by
  unfold Tile.payOut
  rw [ho]
  simp only [List.findIdx?_cons, beq_self_eq_true, if_true, List.getElem?_cons_zero]
  obtain h | ⟨hd, hb⟩ := h
  · rw [h]
  · split
    · rw [if_neg (by simp [hd])]
    · next h => exact absurd h hb
    · rfl

/-- A beat that is due leaves for the FIFO of its output. -/
theorem Tile.payOut_leaves {b : Beat} {bs : List Beat} (hb : x.beats = some (b :: bs)) (hd : x.due = 0) :
    t.payOut t x.out = { t with
      owed := if bs = [] then [] else [{ x with n := x.n - 1, beats := some bs }]
      outF := t.outF.set x.out (nth t.outF x.out [] ++ [b]) } := by
  have hw : t.waitsResult x = false := by
    unfold Tile.waitsResult
    rw [ho]
    simp
  unfold Tile.payOut
  rw [ho]
  simp only [List.findIdx?_cons, beq_self_eq_true, if_true, List.getElem?_cons_zero]
  rw [hb, hw]
  dsimp only
  rw [if_pos (by simp [hd])]
  cases bs with
  | nil =>
    unfold Tile.enq
    simp [ho]
  | cons b' bs =>
    unfold Tile.enq
    simp [ho]

end

/-- The cycle of an MT, by the part of it in which beats leave. -/
theorem Tile.mtCycle_of_payOut {t : Tile} {q : List Owed} {f : List (List Beat)}
    (h : (List.range 4).foldl t.payOut t = { t with owed := q, outF := f }) :
    t.mtCycle.owed = q.map (fun x => { x with due := x.due - 1 }) ∧ t.mtCycle.outF = f := by
  unfold Tile.mtCycle
  rw [h]
  dsimp only
  split <;> exact ⟨rfl, rfl⟩

/-- What an MT's cycle does apart from the beats that leave (R238, R353). -/
theorem Tile.mtCycle_spec (t : Tile) :
    let u := t.mtCycle
    u.deqs = [0, 0, 0, 0] ∧ u.arr = [[], [], [], []] ∧ u.gone = [0, 0, 0, 0] ∧
    (∀ c < 4, nth u.inF c [] = (nth t.inF c []).drop (nth t.deqs c 0) ++ nth t.arr c []) ∧
    u.hold = t.hold - 1 ∧ u.shold = t.shold - 1 ∧ u.mtEnd = none ∧ u.banks = t.banks ∧ u.g = t.g ∧ u.passc = t.passc ∧
    (t.mtEnd = none → u.st = t.st ∧ u.preds = t.preds ∧ u.ernd = t.ernd) ∧
    (∀ e, t.mtEnd = some e → u.st = e.st ∧ u.preds = e.preds ∧ u.ernd = t.ernd + w e.round) := by
  obtain ⟨q, f, h⟩ := t.foldl_payOut_frame t (List.range 4)
  unfold Tile.mtCycle
  rw [h]
  dsimp only
  have hin : ∀ c < 4, nth ((List.range 4).map fun c => (t.fifo c).drop (nth t.deqs c 0) ++ nth t.arr c []) c [] =
      (nth t.inF c []).drop (nth t.deqs c 0) ++ nth t.arr c [] := fun c hc => by
    simp [nth, hc, Tile.fifo]
  cases he : t.mtEnd with
  | none => exact ⟨rfl, rfl, rfl, hin, rfl, rfl, rfl, rfl, rfl, rfl, fun _ => ⟨rfl, rfl, rfl⟩, fun e h => nomatch h⟩
  | some e =>
    refine ⟨rfl, rfl, rfl, hin, rfl, rfl, rfl, rfl, rfl, rfl, fun h => (nomatch h), ?_⟩
    rintro _ ⟨⟩
    exact ⟨rfl, rfl, rfl⟩

theorem Tile.mtCycle_owed_none {t : Tile} (ho : t.owed = []) : t.mtCycle.owed = [] ∧ t.mtCycle.outF = t.outF := by
  refine Tile.mtCycle_of_payOut (q := []) (f := t.outF) ?_
  rw [Tile.foldl_payOut_other t (by simp [ho]), ← ho]

theorem Tile.mtCycle_stays {t : Tile} {x : Owed} (ho : t.owed = [x]) (hx : x.out < 4)
    (h : x.beats = none ∨ (x.due ≠ 0 ∧ x.beats ≠ some [])) :
    t.mtCycle.owed = [{ x with due := x.due - 1 }] ∧ t.mtCycle.outF = t.outF := by
  refine Tile.mtCycle_of_payOut (q := [x]) (f := t.outF) ?_
  have hp := Tile.payOut_stays ho h
  rw [Tile.foldl_payOut_one t hx (by simp [ho]) (by simp [hp, ho]), hp, ← ho]

theorem Tile.mtCycle_leaves {t : Tile} {x : Owed} (ho : t.owed = [x]) (hx : x.out < 4) (hl : t.outF.length = 4) {b : Beat}
    {bs : List Beat} (hb : x.beats = some (b :: bs)) (hd : x.due = 0) :
    t.mtCycle.owed = (if bs = [] then [] else [{ x with n := x.n - 1, beats := some bs }]) ∧
      ∀ o < 4, nth t.mtCycle.outF o [] = nth t.outF o [] ++ (if o = x.out then [b] else []) := by
  have hp := Tile.payOut_leaves ho hb hd
  have hw : ∀ y ∈ (t.payOut t x.out).owed, y.out = x.out := by
    rw [hp]
    dsimp only
    split <;> simp
  have hc := Tile.mtCycle_of_payOut ((Tile.foldl_payOut_one t hx (by simp [ho]) hw).trans hp)
  refine ⟨?_, fun o h4 => ?_⟩
  · rw [hc.1]
    split
    · rfl
    · simp [hd]
  · rw [hc.2]
    split
    · next h => rw [h, nth_set_same (by omega)]
    · next h => rw [nth_set_other _ (Ne.symm h), List.append_nil]

/-! ### Credits -/

/-- The credits of an output, by what is owed to it (R239). -/
theorem Tile.credits_eq (t : Tile) (o : Nat) : t.credits o = 4 - ((nth t.outF o []).length + nth t.gone o 0 +
    (t.owed.map fun x => if x.out = o then x.n else 0).sum + (t.flights.map fun f => f.owes o).sum) := by
  unfold Tile.credits
  simp only [beq_iff_eq]
  omega

/-- Settles O46: each clause is the lemma of its event, of the cycle or of the credits. -/
theorem inputsOutsideRules : Obligations.InputsOutsideRules := by
  unfold Obligations.InputsOutsideRules
  refine ⟨fun s tile rn r hr => ?_, fun s rest hp ha => ?_, fun s tile => ?_, fun t => ?_, fun t o ho => ?_⟩
  · intro t ct d ins outs Ready Sent
    refine ⟨fun k hk he hi hh h0 hy => ?_, fun he hi hd hm hy => ?_, fun he => ?_, fun c hc hl h0 hm => ?_, fun ch b hc he hb hk h0 => ?_,
      fun ch b hb hk => ?_, fun he ht hp hl h0 h1 => ?_⟩
    · have hm := State.markMerge_some hr ((Tile.dropLoop_enabled t ct).symm.trans he) (Tile.mergeKind_some hk hi hh)
        (Tile.mergeReady_true hy) h0
      obtain ⟨hf, hq⟩ := d.merge_frame ct k (r.state == .draining)
      have ht := State.tile_setTile_same (s.setTile tile d) tile
        ((ins.foldl (fun t c => t.take c 1) d).sendMark ct k (r.state == .draining))
      refine ⟨_, congrArg Host.Outcome.next hm, rfl, fun n hn => ?_, ?_, ?_, ?_⟩
      · rw [State.tile_setTile_other _ _ hn, State.tile_setTile_other _ _ hn]
      · rw [ht]
        have hs := (ins.foldl (fun t c => t.take c 1) d).sendMark_spec ct k r.state
        rw [Tile.foldl_take] at hs ⊢
        exact hs
      · rw [ht]
        exact hf
      · rw [ht]
        exact hq
    · have hs := d.sendMark_spec ct 4 r.state
      have hm := State.markMerge_none hr ((Tile.dropLoop_enabled t ct).symm.trans he) hi hd hm (Tile.mergeReady_true hy)
      rw [show (r.state == .draining) = true by rw [hd]; rfl] at hs
      refine ⟨_, congrArg Host.Outcome.next hm, ?_, ?_⟩
      · rw [State.tile_setTile_same]
        exact hs
      · rw [State.tile_setTile_same]
        exact hs.2.trans (by simp [hd])
    · exact ⟨congrArg Host.Outcome.next (State.markMerge_disabled hr he), exec_reservedKindDrop_disabled hr he⟩
    · exact Tile.dropLoop_marker hc hl h0 hm
    · exact ⟨_, exec_reservedKindDrop_reserved hr he hb hk h0, rfl⟩
    · exact exec_reservedKindDrop_known hr hb hk
    · exact ⟨_, exec_intersectDiscard hr he ht hp, Tile.discards_spec ct hl h0 h1⟩
  · intro z older
    have hst : step s = .next (older z.fires.elementCycle) :=
      (step_tick hp ha).trans (congrArg Host.Outcome.next (State.countAll_eq _))
    refine ⟨fun hn => ?_, fun tile rn r r' a b c hr hact hl hm hd hct hmt hr' hact' hl' => ?_⟩
    · rw [hst, State.fires_none (s := z) fun y hy => (hn y hy).1, State.elementCycle_none (s := z) hn]
    · rw [hst, State.fires_one (s := z) hr hact hl, State.elementFires_of_exec hm hd hct hmt, State.elementCycle_one hr' hact' hl']
  · refine ⟨State.ctCycle_no_trap, rfl, fun rn r a hr ha => State.passEnd_spec hr ha⟩
  · intro u
    obtain ⟨h1, h2, h3, h4, h5, h6, h7, h8, h9, h10, h11, h12⟩ := t.mtCycle_spec
    exact ⟨h1, h2, h3, h4, h5, h6, h7, h8, h9, h10, h11, h12, Tile.mtCycle_owed_none, fun x ho hx hl =>
      ⟨Tile.mtCycle_stays ho hx, fun b bs hb hd => Tile.mtCycle_leaves ho hx hl hb hd⟩⟩
  · refine ⟨fun hf => ?_, fun f hf hn => ?_⟩
    · rw [Tile.credits_eq, hf]
      rfl
    · rw [Tile.credits_eq, hf]
      simp [Flight.owes, hn]

end Sys2Proof.Machine
end

section
/-! PROOF. Edge memory ports and indirect streams (O50). -/

namespace Sys2Proof.Machine

open Sys2Proof Sys2Proof.Config

/-! ### Request beats (R343) -/

/-- Lanes 0 to 2 of a beat are valid. -/
theorem low3_iff (v : BitVec 16) :
    v.toNat % 8 = 7 ↔ v.getLsbD 0 = true ∧ v.getLsbD 1 = true ∧ v.getLsbD 2 = true := by
  simp only [← BitVec.testBit_toNat, Nat.testBit_eq_decide_div_mod_eq, decide_eq_true_eq]
  omega

/-- The form of a request beat. -/
def Beat.goodRequest (b : Beat) : Prop :=
  b.valid.getLsbD 0 = true ∧ b.valid.getLsbD 1 = true ∧ b.valid.getLsbD 2 = true ∧ bits (lane b.lanes 1) 31 25 = 0 ∧
    bits (lane b.lanes 2) 31 19 = 0 ∧ bits (lane b.lanes 2) 18 16 ≤ 2 ∧ bits (lane b.lanes 2) 15 0 ≠ 0 ∧
    (bits (lane b.lanes 2) 18 16 = 1 ∨ ((lane b.lanes 0).toNat + bits (lane b.lanes 1) 24 0 * 2 ^ 32) % 64 = 0)

theorem requestOf_good {b : Beat} (hk : b.kind = 0) (hg : b.goodRequest) :
    requestOf b = some (let va := (lane b.lanes 0).toNat + bits (lane b.lanes 1) 24 0 * 2 ^ 32
      { va := w va, count := bits (lane b.lanes 2) 15 0, op := bits (lane b.lanes 2) 18 16, next := 0, tag := b.tag, cur := va }) := by
  obtain ⟨h0, h1, h2, hrest⟩ := hg
  exact if_pos ⟨hk, (low3_iff _).2 ⟨h0, h1, h2⟩, hrest⟩

theorem requestOf_bad {b : Beat} (h : b.kind = 1 ∨ (b.kind = 0 ∧ ¬ b.goodRequest)) : requestOf b = none := by
  refine if_neg fun ⟨hk, h3, hrest⟩ => ?_
  obtain h | ⟨-, hg⟩ := h
  · exact absurd (hk.symm.trans h) (by decide)
  · obtain ⟨h0, h1, h2⟩ := (low3_iff _).1 h3
    exact hg ⟨h0, h1, h2, hrest⟩

/-! ### Events at a port -/

section
variable {s : State} {rn emp ch : Nat} {r : Region} (hr : s.region? rn = some r) (ha : r.active = true)
include hr ha

/-- Nothing happens at a port whose access is withheld (R346). -/
theorem exec_port_held (hh : s.isHeld r.part (.port rn emp ch) = true) : exec (.empRequest rn emp ch) s = .next s ∧
    exec (.empWriteData rn emp ch) s = .next s ∧ exec (.empMarkerForward rn emp ch) s = .next s := by
  refine ⟨?_, ?_, ?_⟩
  · show execEmpRequest rn emp ch s = _
    unfold execEmpRequest
    rw [hr]
    dsimp only
    rw [ha, hh]
    rfl
  · show execEmpWriteData rn emp ch s = _
    unfold execEmpWriteData
    rw [hr]
    dsimp only
    rw [ha, hh]
    rfl
  · show execEmpMarkerForward rn emp ch s = _
    unfold execEmpMarkerForward
    rw [hr]
    dsimp only
    rw [hh]
    split
    · rfl
    · simp

variable (hh : s.isHeld r.part (.port rn emp ch) = false)
include hh

theorem exec_empRequest_linkIn (hi : (s.port (portKey rn emp ch)).linkIn ≠ none) (ho : (s.port (portKey rn emp ch)).linkOut = none) :
    exec (.empRequest rn emp ch) s = .next s := by
  show execEmpRequest rn emp ch s = _
  unfold execEmpRequest
  rw [hr]
  dsimp only
  rw [ha, hh]
  simp [Port.linked, Option.isSome_iff_ne_none, hi, ho]

variable (hi : (s.port (portKey rn emp ch)).linkIn = none) (ho : (s.port (portKey rn emp ch)).linkOut = none)
include hi ho

/-- The request in progress issues its next unit (R344). -/
theorem exec_empRequest_cur {q : PortReq} (hc : (s.port (portKey rn emp ch)).cur = some q) :
    exec (.empRequest rn emp ch) s = .next (s.issueUnit rn emp ch r q) := by
  show execEmpRequest rn emp ch s = _
  unfold execEmpRequest
  rw [hr]
  dsimp only
  rw [ha, hh]
  simp [Port.linked, hi, ho, hc]

section
variable (hc : (s.port (portKey rn emp ch)).cur = none)
include hc

theorem exec_empRequest_empty (hf : (s.port (portKey rn emp ch)).reqF = []) : exec (.empRequest rn emp ch) s = .next s := by
  show execEmpRequest rn emp ch s = _
  unfold execEmpRequest
  rw [hr]
  dsimp only
  rw [ha, hh]
  simp [Port.linked, hi, ho, hc, hf]

variable {b : Beat} {rest : List Beat} (hf : (s.port (portKey rn emp ch)).reqF = b :: rest)
include hf

/-- A beat of a reserved kind is dropped with a record. -/
theorem exec_empRequest_reserved (hk : 6 ≤ b.kind.toNat) : exec (.empRequest rn emp ch) s =
    .next ((s.postRg r.part rn true false { FaultRec.of fKIND 2 with place := w (portPlace emp ch) }).setPort (portKey rn emp ch)
      { s.port (portKey rn emp ch) with reqF := rest }) := by
  show execEmpRequest rn emp ch s = _
  unfold execEmpRequest
  rw [hr]
  dsimp only
  rw [ha, hh]
  simp [Port.linked, hi, ho, hc, hf, hk]

theorem exec_empRequest_kind5 (hk : b.kind = 5) :
    exec (.empRequest rn emp ch) s = .next (s.setPort (portKey rn emp ch) { s.port (portKey rn emp ch) with reqF := rest }) := by
  show execEmpRequest rn emp ch s = _
  unfold execEmpRequest
  rw [hr]
  dsimp only
  rw [ha, hh]
  simp [Port.linked, hi, ho, hc, hf, hk]

/-- A marker waits at the head while nothing is under way. -/
theorem exec_empRequest_marker (h2 : 2 ≤ b.kind.toNat) (h5 : b.kind.toNat < 5) (hw : (s.port (portKey rn emp ch)).wr = none) :
    exec (.empRequest rn emp ch) s = .next s := by
  have hk5 : b.kind ≠ 5#4 := fun h => by simp [h] at h5
  show execEmpRequest rn emp ch s = _
  unfold execEmpRequest
  rw [hr]
  dsimp only
  rw [ha, hh]
  simp [Port.linked, hi, ho, hc, hf, hw, hk5, h2, show ¬ 6 ≤ b.kind.toNat by omega]

/-- A beat that is no data where a raw write expects data is a fault at the write's unit. -/
theorem exec_empRequest_noData {x : PortReq} (h0 : b.kind ≠ 0#4) (h5 : b.kind.toNat < 5) (hw : (s.port (portKey rn emp ch)).wr = some x) :
    exec (.empRequest rn emp ch) s = .next (s.portFault rn emp ch x.next reqFault true x.cur) := by
  have hk5 : b.kind ≠ 5#4 := fun h => by simp [h] at h5
  show execEmpRequest rn emp ch s = _
  unfold execEmpRequest
  rw [hr]
  dsimp only
  rw [ha, hh]
  simp [Port.linked, hi, ho, hc, hf, hw, hk5, h0, show ¬ 6 ≤ b.kind.toNat by omega, State.badHead]

/-- A beat that breaks R343 is a fault and stays at the head. -/
theorem exec_empRequest_bad (hb : b.kind = 1 ∨ (b.kind = 0 ∧ ¬ b.goodRequest)) (hw : (s.port (portKey rn emp ch)).wr = none) :
    exec (.empRequest rn emp ch) s =
      .next (s.portFault rn emp ch 0 reqFault false ((lane b.lanes 0).toNat + bits (lane b.lanes 1) 24 0 * 2 ^ 32)) := by
  have hk : b.kind = 1 ∨ b.kind = 0 := hb.imp_right And.left
  have hk2 : b.kind.toNat < 2 := by obtain h | h := hk <;> simp [h]
  have hk5 : b.kind ≠ 5#4 := fun h => by simp [h] at hk2
  show execEmpRequest rn emp ch s = _
  unfold execEmpRequest
  rw [hr]
  dsimp only
  rw [ha, hh]
  simp [Port.linked, hi, ho, hc, hf, hw, hk5, show ¬ 6 ≤ b.kind.toNat by omega, show ¬ 2 ≤ b.kind.toNat by omega,
    requestOf_bad hb, State.badHead]

/-- A request beat is taken. -/
theorem exec_empRequest_good {q : PortReq} (hb : b.kind = 0) (hq : requestOf b = some q) (hw : (s.port (portKey rn emp ch)).wr = none) :
    exec (.empRequest rn emp ch) s = .next (s.setPort (portKey rn emp ch) (if q.op = 2
      then { s.port (portKey rn emp ch) with reqF := rest, wr := some q }
      else { s.port (portKey rn emp ch) with reqF := rest, cur := some q })) := by
  show execEmpRequest rn emp ch s = _
  unfold execEmpRequest
  rw [hr]
  dsimp only
  rw [ha, hh]
  simp [Port.linked, hi, ho, hc, hf, hw, hb, hq]

end
end

/-! ### Units of a read (R344) -/

theorem issueUnit_full {s : State} {rn emp ch : Nat} {r : Region} {q : PortReq}
    (h : 32 ≤ (s.port (portKey rn emp ch)).reply.length ∨ s.rowOpen rn emp ch = true) : s.issueUnit rn emp ch r q = s :=
  if_pos (by simpa using h)

section
variable {s : State} {rn : Nat} {x : Xlate} {rnd : BitVec 8} {q : PortReq} (hop : q.op = 0) (hcur : q.cur < 2 ^ 57)
include hop hcur

theorem readUnit_raw_error {f : XFault} (ht : translate s.mem x q.cur .read = .error f) : s.readUnit rn x rnd q = .error f := by
  simp only [State.readUnit, hop, if_neg (Nat.not_le.2 hcur), ht, Nat.zero_ne_one, if_false]

theorem readUnit_raw_ok {pa : Nat} {at_ : Nat} (ht : translate s.mem x q.cur .read = .ok (pa, at_)) : s.readUnit rn x rnd q =
    .ok ([dataBeat rnd q.tag 0xFFFF (lanesOfBytes (s.mem.read (s.shade rn pa) 64))], { q with next := q.next + 1, cur := q.cur + 64 }) := by
  simp only [State.readUnit, hop, if_neg (Nat.not_le.2 hcur), ht, Nat.zero_ne_one, if_false]
end

theorem State.shade_region {s : State} {rn pa : Nat} {r : Region} (hr : s.region? rn = some r) : s.shade rn pa = r.shadowed pa := by
  simp [State.shade, hr]

section
variable {s : State} {rn emp ch : Nat} {r : Region} {q : PortReq} (hop : q.op = 0) (hcur : q.cur < 2 ^ 57)
  (hl : (s.port (portKey rn emp ch)).reply.length < 32) (ho : s.rowOpen rn emp ch = false)
include hop hcur hl ho

theorem issueUnit_fault {f : XFault} (ht : translate s.mem (s.rgXlate r) q.cur .read = .error f) :
    s.issueUnit rn emp ch r q = s.portFault rn emp ch q.next f false q.cur := by
  unfold State.issueUnit
  simp only [Nat.not_le.2 hl, ho, readUnit_raw_error hop hcur ht, decide_false, Bool.or_self, Bool.false_eq_true, if_false]

variable {pa : Nat} {at_ : Nat} (hr : s.region? rn = some r) (ht : translate s.mem (s.rgXlate r) q.cur .read = .ok (pa, at_))
  (hn : q.next + 1 < q.count)
include hr ht hn

/-- A unit of a raw read is delivered. -/
theorem issueUnit_delivers (hd : s.rgDenied rn q.cur 64 false = none) :
    s.issueUnit rn emp ch r q = (s.touch rn q.cur 1).setPort (portKey rn emp ch) (Port.flush { s.port (portKey rn emp ch) with
      reply := (s.port (portKey rn emp ch)).reply ++
        [(r.incarn, dataBeat (s.port (portKey rn emp ch)).round q.tag 0xFFFF (lanesOfBytes (s.mem.read (r.shadowed pa) 64)))]
      cur := some { q with next := q.next + 1, cur := q.cur + 64 } } r.incarn) := by
  unfold State.issueUnit
  simp only [Nat.not_le.2 hl, ho, readUnit_raw_ok hop hcur ht, decide_false, Bool.or_self, Bool.false_eq_true, if_false,
    Nat.add_sub_cancel_left, hd, Option.isSome_none, State.shade_region hr, if_neg hn.ne, List.map_cons, List.map_nil]

/-- A unit below the least privilege of what stands there is not delivered (R12). -/
theorem issueUnit_denied {no : Nat} (hd : s.rgDenied rn q.cur 64 false = some no) :
    s.issueUnit rn emp ch r q = ((s.rgPriv rn 2 (portPlace emp ch) q.next no false).touch rn q.cur 1).setPort (portKey rn emp ch)
      (Port.flush { s.port (portKey rn emp ch) with cur := some { q with next := q.next + 1, cur := q.cur + 64 } } r.incarn) := by
  unfold State.issueUnit
  simp only [Nat.not_le.2 hl, ho, readUnit_raw_ok hop hcur ht, decide_false, Bool.or_self, Bool.false_eq_true, if_false,
    Nat.add_sub_cancel_left, hd, Option.isSome_some, if_true, if_neg hn.ne, List.map_nil, List.append_nil]
end

/-! ### Markers that have waited -/

/-- A marker that enters adds to the reply buffer and changes no request. -/
theorem Port.flush_requests (p : Port) (incarn : Half) : (p.flush incarn).reqF = p.reqF ∧ (p.flush incarn).wr = p.wr := by
  unfold Port.flush
  generalize p.marks = ms
  suffices h : ∀ x : Port, (ms.foldl (fun p k => p.enter incarn k) x).reqF = x.reqF ∧
      (ms.foldl (fun p k => p.enter incarn k) x).wr = x.wr from
    h { p with marks := [], wait := false }
  induction ms with
  | nil => exact fun x => ⟨rfl, rfl⟩
  | cons m ms ih => exact fun x => ih (x.enter incarn m)

/-- Where no marker waits, only the wait ends. -/
theorem Port.flush_of_no_marks {p : Port} (incarn : Half) (h : p.marks = []) : p.flush incarn = { p with wait := false } := by
  unfold Port.flush
  rw [h]
  cases p
  cases h
  rfl

/-! ### Write data (R343) -/

/-- The request after one more unit of 64 bytes. -/
def PortReq.step (q : PortReq) : PortReq := { q with next := q.next + 1, cur := q.cur + 64 }

/-- A port from which the data of a unit of the raw write in progress has been taken. -/
def Port.afterData (p : Port) (rest : List Beat) (q : PortReq) (open_ : Bool) (incarn : Half) : Port :=
  if open_ then { p with reqF := rest, wr := if q.step.next = q.count then none else some q.step, wait := false }
  else Port.flush { p with reqF := rest, wr := if q.step.next = q.count then none else some q.step } incarn

theorem Port.afterData_requests (p : Port) (rest : List Beat) (q : PortReq) (open_ : Bool) (incarn : Half) :
    (p.afterData rest q open_ incarn).reqF = rest ∧
    (p.afterData rest q open_ incarn).wr = if q.step.next = q.count then none else some q.step := by
  unfold Port.afterData
  split
  · exact ⟨rfl, rfl⟩
  · exact Port.flush_requests _ _

/-- The data of a unit taken from the FIFO of a region's port. -/
def State.takeData (s : State) (rn emp ch : Nat) (rest : List Beat) (q : PortReq) (incarn : Half) : State :=
  s.setPort (portKey rn emp ch) ((s.port (portKey rn emp ch)).afterData rest q (s.rowOpen rn emp ch) incarn)

theorem State.takeData_reqF (s : State) (rn emp ch : Nat) (rest : List Beat) (q : PortReq) (incarn : Half) :
    ((s.takeData rn emp ch rest q incarn).port (portKey rn emp ch)).reqF = rest := by
  rw [State.takeData, State.port_setPort_same]
  exact (Port.afterData_requests _ _ _ _ _).1

theorem State.takeData_wr (s : State) (rn emp ch : Nat) (rest : List Beat) (q : PortReq) (incarn : Half) :
    ((s.takeData rn emp ch rest q incarn).port (portKey rn emp ch)).wr = if q.step.next = q.count then none else some q.step := by
  rw [State.takeData, State.port_setPort_same]
  exact (Port.afterData_requests _ _ _ _ _).2

section
variable {s : State} {rn emp ch : Nat} {r : Region} {q : PortReq} {b : Beat} {rest : List Beat} (hr : s.region? rn = some r)
include hr

theorem writeUnit_error {f : XFault} (hcur : q.cur < 2 ^ 57) (ht : translate s.mem (s.rgXlate r) q.cur .write = .error f) :
    s.writeUnit rn q.cur b = .error f := by
  simp only [State.writeUnit, hr, if_neg (Nat.not_le.2 hcur), ht]

theorem writeUnit_ok {pa at_ : Nat} {y : State} (hcur : q.cur < 2 ^ 57)
    (ht : translate s.mem (s.rgXlate r) q.cur .write = .ok (pa, at_)) (hy : s.makeShadows [(q.cur, pa)] rn = some y) :
    s.writeUnit rn q.cur b = .ok (some { y with mem := (List.range 16).foldl (fun m l =>
      if b.valid.getLsbD l then m.writeN (y.shade rn pa + 4 * l) 4 (lane b.lanes l).toNat else m) y.mem }) := by
  simp only [State.writeUnit, hr, if_neg (Nat.not_le.2 hcur), ht, hy]

variable (ha : r.active = true) (hh : s.isHeld r.part (.port rn emp ch) = false)
  (hw : (s.port (portKey rn emp ch)).wr = some q) (hf : (s.port (portKey rn emp ch)).reqF = b :: rest)
include ha hh hw hf

theorem exec_empWriteData_other (hk : b.kind ≠ 0#4) : exec (.empWriteData rn emp ch) s = .next s := by
  show execEmpWriteData rn emp ch s = _
  unfold execEmpWriteData
  rw [hr]
  dsimp only
  rw [ha, hh, hw, hf]
  simp [hk]

variable (hi : (s.port (portKey rn emp ch)).linkIn = none) (ho : (s.port (portKey rn emp ch)).linkOut = none)
include hi ho

theorem exec_empWriteData_fault {f : XFault} (hk : b.kind = 0) (hu : s.writeUnit rn q.cur b = .error f) :
    exec (.empWriteData rn emp ch) s = .next (s.portFault rn emp ch q.next f true q.cur) := by
  show execEmpWriteData rn emp ch s = _
  unfold execEmpWriteData
  rw [hr]
  dsimp only
  rw [ha, hh, hw, hf]
  simp [Port.linked, hi, ho, hk, hu]

/-- A unit below the least privilege of what stands there is not written (R12). -/
theorem exec_empWriteData_denied {t : State} {no : Nat} (hk : b.kind = 0) (hu : s.writeUnit rn q.cur b = .ok (some t))
    (hd : s.rgDenied rn q.cur 64 true = some no) :
    exec (.empWriteData rn emp ch) s =
      .next ((s.rgPriv rn 2 (portPlace emp ch) q.next no true).takeData rn emp ch rest q r.incarn) := by
  show execEmpWriteData rn emp ch s = _
  unfold execEmpWriteData
  rw [hr]
  dsimp only
  rw [ha, hh, hw, hf]
  simp only [Port.linked, hi, ho, hk, hu, hd]
  rfl

/-- The valid lanes of a unit are written. -/
theorem exec_empWriteData_written {t : State} (hk : b.kind = 0) (hu : s.writeUnit rn q.cur b = .ok (some t))
    (hd : s.rgDenied rn q.cur 64 true = none) :
    exec (.empWriteData rn emp ch) s = .next ((t.touch rn q.cur 64).takeData rn emp ch rest q r.incarn) := by
  show execEmpWriteData rn emp ch s = _
  unfold execEmpWriteData
  rw [hr]
  dsimp only
  rw [ha, hh, hw, hf]
  simp only [Port.linked, hi, ho, hk, hu, hd]
  rfl
end

/-! ### Markers and replies (R344, R420) -/

section
variable {s : State} {rn emp ch : Nat} {r : Region} {b : Beat} {rest : List Beat} (hr : s.region? rn = some r)
include hr

section
variable (hf : (s.port (portKey rn emp ch)).reqF = b :: rest)
include hf

/-- A marker goes to the reply side once the replies and writes before it are over. -/
theorem exec_empMarkerForward_forwards (ha : r.active = true) (hh : s.isHeld r.part (.port rn emp ch) = false)
    (hi : (s.port (portKey rn emp ch)).linkIn = none) (ho : (s.port (portKey rn emp ch)).linkOut = none)
    (h2 : 2 ≤ b.kind.toNat) (h4 : b.kind.toNat ≤ 4) (hc : (s.port (portKey rn emp ch)).cur = none)
    (hw : (s.port (portKey rn emp ch)).wr = none) (hp : (s.port (portKey rn emp ch)).reply = [])
    (hm : (s.port (portKey rn emp ch)).marks = []) (hopen : s.rowOpen rn emp ch = false) :
    exec (.empMarkerForward rn emp ch) s = .next (s.setPort (portKey rn emp ch) { s.port (portKey rn emp ch) with
      reqF := rest, reply := if (s.attachOf r emp ch 0).isSome then [(r.incarn, b)] else []
      barrOut := (s.port (portKey rn emp ch)).barrOut || b.kind == 3
      snuffOut := (s.port (portKey rn emp ch)).snuffOut || b.kind == 4 }) := by
  show execEmpMarkerForward rn emp ch s = _
  unfold execEmpMarkerForward
  rw [hr]
  dsimp only
  rw [hf]
  exact congrArg _ (if_pos (by simp [ha, hh, Port.linked, hi, ho, inR, h2, h4, hc, hw, hp, hm, hopen]))

theorem exec_empMarkerForward_stays (h : b.kind.toNat < 2 ∨ 4 < b.kind.toNat ∨ (s.port (portKey rn emp ch)).cur ≠ none ∨
      (s.port (portKey rn emp ch)).wr ≠ none ∨ (s.port (portKey rn emp ch)).reply ≠ [] ∨ (s.port (portKey rn emp ch)).marks ≠ [] ∨
      s.rowOpen rn emp ch = true) :
    exec (.empMarkerForward rn emp ch) s = .next s := by
  show execEmpMarkerForward rn emp ch s = _
  unfold execEmpMarkerForward
  rw [hr]
  dsimp only
  rw [hf]
  refine congrArg _ (if_neg fun hall => ?_)
  simp only [inR, Bool.and_eq_true, decide_eq_true_eq, Option.isNone_iff_eq_none, List.isEmpty_iff, Bool.not_eq_true'] at hall
  obtain ⟨⟨⟨⟨⟨⟨⟨⟨-, -⟩, h2, h4⟩, hc⟩, hw⟩, hp⟩, hm⟩, -⟩, hopen⟩ := hall
  simp [hc, hw, hp, hm, hopen] at h
  omega
end

section
variable {inc : Half} {rest : List (Half × Beat)} (ha : r.active = true) (hi : (s.port (portKey rn emp ch)).linkIn = none)
  (ho : (s.port (portKey rn emp ch)).linkOut = none) (hp : (s.port (portKey rn emp ch)).reply = (inc, b) :: rest)
include ha hi ho hp

/-- A reply of an incarnation that is over is dropped and counted (R420). -/
theorem exec_empReply_stale (hinc : inc ≠ r.incarn) : exec (.empReply rn emp ch) s =
    .next ((s.errCount r.part 0).modPort (portKey rn emp ch) fun x => { x with reply := rest }) := by
  show execEmpReply rn emp ch s = _
  unfold execEmpReply
  rw [hr]
  simp only [hi, ha, State.linkSend, ho, hp, if_true, Bool.not_true, Bool.false_eq_true, if_false, if_pos hinc]

theorem exec_empReply_noAttach (hinc : inc = r.incarn) (hat : s.attachOf r emp ch 0 = none) : exec (.empReply rn emp ch) s =
    .next (s.modPort (portKey rn emp ch) fun x => { x with reply := rest }) := by
  show execEmpReply rn emp ch s = _
  unfold execEmpReply
  rw [hr]
  simp only [hi, ha, State.linkSend, ho, hp, if_true, Bool.not_true, Bool.false_eq_true, if_false, hinc, ne_eq, not_true, hat]

theorem exec_empReply_stays {a : Attach} (hinc : inc = r.incarn) (hat : s.attachOf r emp ch 0 = some a)
    (hl : s.launchBeat rn r a.tile (4 + a.a) b = none) : exec (.empReply rn emp ch) s = .next s := by
  show execEmpReply rn emp ch s = _
  unfold execEmpReply
  rw [hr]
  simp only [hi, ha, State.linkSend, ho, hp, if_true, Bool.not_true, Bool.false_eq_true, if_false, hinc, ne_eq, not_true, hat, hl]

/-- A reply leaves onto the routes of the region's attachment (R344). -/
theorem exec_empReply_leaves {a : Attach} {y : State} (hinc : inc = r.incarn) (hat : s.attachOf r emp ch 0 = some a)
    (hl : s.launchBeat rn r a.tile (4 + a.a) b = some y) : exec (.empReply rn emp ch) s =
    .next (y.modPort (portKey rn emp ch) fun x => { x with reply := rest }) := by
  show execEmpReply rn emp ch s = _
  unfold execEmpReply
  rw [hr]
  simp only [hi, ha, State.linkSend, ho, hp, if_true, Bool.not_true, Bool.false_eq_true, if_false, hinc, ne_eq, not_true, hat, hl]
end
end

/-! ### The tables a PRIV record leaves alone -/

theorem State.onlyMem_ports {s t : State} (h : s.onlyMem t) : t.ports = s.ports := by rw [h]
theorem State.onlyMem_dies {s t : State} (h : s.onlyMem t) : t.dies = s.dies := by rw [h]

theorem State.post_tables (s : State) (p : Nat) (guest hv : Bool) (r : FaultRec) :
    (s.post p guest hv r).ports = s.ports ∧ (s.post p guest hv r).dies = s.dies := by
  unfold State.post
  obtain ⟨hports, hdies⟩ : (if (guest && (s.part p).fqFull) = true then s.errCount p 8 else s).ports = s.ports ∧
      (if (guest && (s.part p).fqFull) = true then s.errCount p 8 else s).dies = s.dies := by
    split
    · exact ⟨State.onlyMem_ports (s.errCount_onlyMem p 8), State.onlyMem_dies (s.errCount_onlyMem p 8)⟩
    · exact ⟨rfl, rfl⟩
  cases hv <;> exact ⟨hports, hdies⟩

theorem State.trace_tables (s : State) (rn kind d0 d1 : Nat) :
    (s.trace rn kind d0 d1).ports = s.ports ∧ (s.trace rn kind d0 d1).dies = s.dies := by
  refine ⟨(s.trace_spec rn kind d0 d1).2.2.1, ?_⟩
  unfold State.trace
  split
  · rfl
  · dsimp only
    split
    · rfl
    · split
      · rfl
      · split
        · rfl
        · exact (State.modPart_dies _ _ _).trans (State.onlyMem_dies (s.gwrite_onlyMem _ _ _))

theorem State.rgPriv_tables (s : State) (rn src place detail va : Nat) (write : Bool) :
    (s.rgPriv rn src place detail va write).ports = s.ports ∧ (s.rgPriv rn src place detail va write).dies = s.dies := by
  unfold State.rgPriv
  split
  · unfold State.postRg
    obtain ⟨hp, hd⟩ := s.post_tables _ true false _
    obtain ⟨hp', hd'⟩ := State.trace_tables (s.post _ true false _) rn 5 _ _
    exact ⟨hp'.trans hp, hd'.trans hd⟩
  · exact ⟨rfl, rfl⟩

theorem State.rowOpen_congr {s t : State} (hp : t.ports = s.ports) (hd : t.dies = s.dies) (rn emp ch : Nat) :
    t.rowOpen rn emp ch = s.rowOpen rn emp ch := by
  simp only [State.rowOpen, State.port, hp, hd]

/-! ### Rows of indirect streams (R366, R367) -/

/-- A stream that is over leaves its engine to the next block of the stack's queue. -/
def State.streamEnded (s : State) (stack eng : Nat) : State := s.setDie stack ((s.die stack).nextBlock eng)

/-- A unit of a row delivered as one beat, its granules and that of its index noted. -/
def State.deliverUnit (s : State) (rn k va idx : Nat) (x : Half × Beat) : State :=
  ((s.touch rn va 64).modPort k fun p => { p with reply := p.reply ++ [x] }).touch rn idx 1

theorem State.deliverUnit_only (s : State) (rn k va idx : Nat) (x : Half × Beat) : s.deliverUnit rn k va idx x =
    { s with ports := (s.deliverUnit rn k va idx x).ports, used := (s.deliverUnit rn k va idx x).used
             lostPeriods := (s.deliverUnit rn k va idx x).lostPeriods } := by
  unfold State.deliverUnit
  rw [State.touch_only, State.touch_only s]
  rfl

theorem State.deliverUnit_port (s : State) (rn k va idx : Nat) (x : Half × Beat) :
    (s.deliverUnit rn k va idx x).port k = { s.port k with reply := (s.port k).reply ++ [x] } := by
  simp [State.deliverUnit, State.port, Tbl.get_put_same]

/-- A stream put on an engine of a stack. -/
def State.putEngine (s : State) (stack eng : Nat) (i : IStream) : State :=
  s.setDie stack { s.die stack with engines := (s.die stack).engines.put eng i }

theorem exec_indirectStreamRow_idle {s : State} {stack eng : Nat} (hd : (s.die stack).engines.find eng = none) :
    exec (.indirectStreamRow stack eng) s = .next s := by
  show execIndirectStreamRow stack eng s = _
  unfold execIndirectStreamRow
  rw [hd]

section
variable {s : State} {stack eng : Nat} {i : IStream} (hd : (s.die stack).engines.find eng = some i)
include hd

theorem exec_indirectStreamRow_noRegion (hr : s.region? i.rn = none) :
    exec (.indirectStreamRow stack eng) s = .next (s.streamEnded stack eng) := by
  show execIndirectStreamRow stack eng s = _
  unfold execIndirectStreamRow
  rw [hd]
  dsimp only
  rw [hr]
  rfl

variable {r : Region} (hr : s.region? i.rn = some r)
include hr

theorem exec_indirectStreamRow_stale (hinc : r.incarn ≠ i.incarn) :
    exec (.indirectStreamRow stack eng) s = .next (s.streamEnded stack eng) := by
  show execIndirectStreamRow stack eng s = _
  unfold execIndirectStreamRow
  rw [hd]
  dsimp only
  rw [hr]
  exact congrArg _ (if_pos hinc)

variable (hinc : r.incarn = i.incarn)
include hinc

theorem exec_indirectStreamRow_noAttach (hat : s.attachOf r (isEmp i.block) (isCh i.block) 0 = none) :
    exec (.indirectStreamRow stack eng) s = .next (s.streamEnded stack eng) := by
  show execIndirectStreamRow stack eng s = _
  unfold execIndirectStreamRow
  rw [hd]
  dsimp only
  rw [hr]
  dsimp only
  rw [if_neg (not_not.2 hinc), hat]
  rfl

variable {a : Attach} (hat : s.attachOf r (isEmp i.block) (isCh i.block) 0 = some a)
include hat

theorem exec_indirectStreamRow_pauses (hm : s.streamMay r i stack eng (s.port (a.key i.rn)) = false) :
    exec (.indirectStreamRow stack eng) s = .next s := by
  show execIndirectStreamRow stack eng s = _
  unfold execIndirectStreamRow
  rw [hd]
  dsimp only
  rw [hr]
  dsimp only
  rw [if_neg (not_not.2 hinc), hat]
  exact congrArg _ (if_pos (by rw [hm]; rfl))

variable (hm : s.streamMay r i stack eng (s.port (a.key i.rn)) = true)
include hm

/-- After its last row a stream ends, with a punctuation marker where its flags ask for one. -/
theorem exec_indirectStreamRow_end (hn : i.next = isCount i.block) : exec (.indirectStreamRow stack eng) s =
    .next ((if (isFlags i.block).testBit 1 then s.inject i.rn r a 2 else s).streamEnded stack eng) := by
  show execIndirectStreamRow stack eng s = _
  unfold execIndirectStreamRow
  rw [hd]
  dsimp only
  rw [hr]
  dsimp only
  rw [if_neg (not_not.2 hinc), hat]
  dsimp only
  rw [hm]
  exact congrArg _ (if_pos hn)

variable (hn : i.next ≠ isCount i.block) (hrow : i.row = none)
include hn hrow

/-- A row whose index stands below its least privilege is passed over (R12). -/
theorem exec_indirectStreamRow_denied {no : Nat} (hden : s.rgDenied i.rn i.idxAt (4 * 2 ^ isIsize i.block) false = some no) :
    exec (.indirectStreamRow stack eng) s =
      .next (((s.rgPriv i.rn 3 (stack + 16 * eng) i.next no false).putEngine stack eng
        { i with next := i.next + 1, stuck := false }).rowEnd i.rn a.emp a.ch r.incarn) := by
  show execIndirectStreamRow stack eng s = _
  unfold execIndirectStreamRow
  rw [hd]
  dsimp only
  rw [hr]
  dsimp only
  rw [if_neg (not_not.2 hinc), hat]
  dsimp only
  rw [hm, if_neg (by decide), if_neg hn, hrow, hden]
  rfl

/-- A row of one raw unit is delivered. -/
theorem exec_indirectStreamRow_unit {q : PortReq} {bt : Beat} (hden : s.rgDenied i.rn i.idxAt (4 * 2 ^ isIsize i.block) false = none)
    (hq : s.streamRow i = .ok q) (hal : q.cur % 64 = 0) (hc : q.count = 1) (hn0 : q.next = 0)
    (hl : (s.port (a.key i.rn)).reply.length < 32)
    (hu : s.readUnit i.rn (s.rgXlate r) (s.port (a.key i.rn)).round q = .ok ([bt], q.step))
    (hdu : s.rgDenied i.rn q.cur 64 false = none) :
    exec (.indirectStreamRow stack eng) s = .next (((s.deliverUnit i.rn (a.key i.rn) q.cur i.idxAt (r.incarn, bt)).putEngine stack eng
        { i with next := i.next + 1, row := none, stuck := false }).rowEnd i.rn a.emp a.ch r.incarn) := by
  have hf : rowFault q = none := if_neg fun h => h.2 hal
  have hb : s.rowBeats i.rn (s.rgXlate r) (s.port (a.key i.rn)).round (q.count - q.next) (s.port (a.key i.rn)).reply.length q =
      ([bt], q.step, none) := by
    rw [hc, hn0]
    simp only [State.rowBeats, if_neg (Nat.not_le.2 hl), hu, List.append_nil]
  have hcur : q.step.cur - q.cur = 64 := Nat.add_sub_cancel_left _ _
  have hnx : q.step.next - q.next = 1 := Nat.add_sub_cancel_left _ _
  have hlast : ¬ q.step.next < q.step.count := by simp [PortReq.step, hc, hn0]
  show execIndirectStreamRow stack eng s = _
  unfold execIndirectStreamRow
  rw [hd]
  dsimp only
  rw [hr]
  dsimp only
  rw [if_neg (not_not.2 hinc), hat]
  dsimp only
  rw [hm, if_neg (by decide), if_neg hn, hrow, hden]
  dsimp only
  rw [hq]
  dsimp only
  rw [hf]
  dsimp only
  rw [hb]
  dsimp only
  rw [hcur, hdu]
  simp only [Option.isSome_none, Bool.false_eq_true, if_false, hnx, if_neg hlast]
  rfl

end

theorem State.rowEnd_only (s : State) (rn emp ch : Nat) (incarn : Half) :
    s.rowEnd rn emp ch incarn = { s with ports := (s.rowEnd rn emp ch incarn).ports } := by
  unfold State.rowEnd
  dsimp only
  split <;> rfl

theorem State.rowEnd_dies (s : State) (rn emp ch : Nat) (incarn : Half) : (s.rowEnd rn emp ch incarn).dies = s.dies := by
  rw [State.rowEnd_only]

/-- Where no marker waits, the end of a row adds nothing to the reply buffer. -/
theorem State.rowEnd_reply {s : State} {rn emp ch : Nat} (incarn : Half) (hm : (s.port (portKey rn emp ch)).marks = []) :
    ((s.rowEnd rn emp ch incarn).port (portKey rn emp ch)).reply = (s.port (portKey rn emp ch)).reply := by
  unfold State.rowEnd
  dsimp only
  split
  · rfl
  · rw [State.modPort, State.port_setPort_same, Port.flush_of_no_marks incarn hm]

/-- A stream put on its engine at the end of a row: the engine has it, the reply buffer stands, and only ports and base dies change. -/
theorem State.putEngine_rowEnd (s : State) (stack eng : Nat) (i : IStream) {rn emp ch : Nat} (incarn : Half)
    (hm : (s.port (portKey rn emp ch)).marks = []) :
    ∃ z : State, (s.putEngine stack eng i).rowEnd rn emp ch incarn = z ∧ z = { s with ports := z.ports, dies := z.dies } ∧
      (z.port (portKey rn emp ch)).reply = (s.port (portKey rn emp ch)).reply ∧ (z.die stack).engines.find eng = some i := by
  refine ⟨_, rfl, ?_, State.rowEnd_reply incarn hm, ?_⟩
  · rw [State.rowEnd_dies]
    exact State.rowEnd_only _ _ _ _ _
  · rw [State.die, State.rowEnd_dies]
    exact (congrArg (fun d : Stack => d.engines.find eng) (Tbl.get_put_same _ _ _ _)).trans (Tbl.find_put_same _ _ _)

/-- When an engine may not go on with its stream. -/
theorem streamMay_false {s : State} {r : Region} {i : IStream} {stack eng : Nat} {p : Port}
    (h : (r.active = false ∧ (r.state ≠ .freezing ∨ i.row = none)) ∨ p.linkIn ≠ none ∨ p.linkOut ≠ none ∨
      s.isHeld r.part (.istrm stack eng) = true ∨ 32 ≤ p.reply.length ∨
      (i.row = none ∧ (p.snuff = true ∨ p.cur ≠ none ∨ p.wait = true ∨
        (i.stuck = false ∧ s.rowOpen i.rn (isEmp i.block) (isCh i.block) = true)))) :
    s.streamMay r i stack eng p = false := by
  refine Bool.eq_false_iff.2 fun hall => ?_
  simp only [State.streamMay, Port.linked, Bool.and_eq_true, Bool.or_eq_true, Bool.not_eq_true', Bool.or_eq_false_iff, decide_eq_true_eq,
    Option.isSome_eq_false_iff, Option.isNone_iff_eq_none, beq_iff_eq] at hall
  obtain ⟨⟨⟨⟨hrun, hi, ho⟩, hheld⟩, hlen⟩, hrow⟩ := hall
  obtain ⟨ha, h⟩ | h | h | h | h | ⟨hnone, h⟩ := h
  · obtain h' | ⟨hst, hsome⟩ := hrun
    · simp [ha] at h'
    · obtain h | h := h
      · exact h hst
      · simp [h] at hsome
  · exact h hi
  · exact h ho
  · simp [hheld] at h
  · omega
  · rw [hnone] at hrow
    obtain hrow | ⟨⟨⟨hsn, hcur⟩, hwait⟩, hopen⟩ := hrow
    · simp at hrow
    · obtain h | h | h | ⟨hst, h⟩ := h
      · simp [hsn] at h
      · exact h hcur
      · simp [hwait] at h
      · simp [hst, h] at hopen

theorem streamMay_true {s : State} {r : Region} {i : IStream} {stack eng : Nat} {p : Port} (ha : r.active = true) (hi : p.linkIn = none)
    (ho : p.linkOut = none) (hh : s.isHeld r.part (.istrm stack eng) = false) (hs : p.snuff = false) (hc : p.cur = none)
    (hw : p.wait = false) (hl : p.reply.length < 32) (hopen : s.rowOpen i.rn (isEmp i.block) (isCh i.block) = false) :
    s.streamMay r i stack eng p = true := by
  simp [State.streamMay, Port.linked, ha, hi, ho, hh, hs, hc, hw, hl, hopen]

/-- The row of an index: raw units at the address the index names. -/
theorem streamRow_raw {s : State} {i : IStream} {bs : List Byte} (hdec : (isFlags i.block).testBit 0 = false)
    (hb : s.rread i.rn i.idxAt (4 * 2 ^ isIsize i.block) = .ok bs) :
    s.streamRow i = .ok (let va : Dword := w (fieldAt i.block 16 8 + leNat bs * fieldAt i.block 24 8)
      { va := va, count := isRowLen i.block / 64, op := 0, next := 0, tag := w (fieldAt i.block 36 4 + i.next), cur := va.toNat }) := by
  unfold State.streamRow
  dsimp only
  rw [show isIdxVa i.block + 4 * 2 ^ isIsize i.block * i.next = i.idxAt from rfl, hb, hdec]
  rfl

/-- A row of one raw unit at the address its index names is delivered as one beat (R367). -/
theorem exec_indirectStreamRow_rawUnit {s : State} {stack eng : Nat} {i : IStream} {r : Region} {a : Attach} {bs : List Byte} {pa at_ : Nat}
    (hd : (s.die stack).engines.find eng = some i) (hr : s.region? i.rn = some r) (hinc : r.incarn = i.incarn)
    (hat : s.attachOf r (isEmp i.block) (isCh i.block) 0 = some a) (hm : s.streamMay r i stack eng (s.port (a.key i.rn)) = true)
    (hn : i.next ≠ isCount i.block) (hrow : i.row = none) (hdec : (isFlags i.block).testBit 0 = false) (hlen : isRowLen i.block = 64)
    (hden : s.rgDenied i.rn i.idxAt (4 * 2 ^ isIsize i.block) false = none)
    (hb : s.rread i.rn i.idxAt (4 * 2 ^ isIsize i.block) = .ok bs) (hl : (s.port (a.key i.rn)).reply.length < 32)
    (hmarks : (s.port (a.key i.rn)).marks = []) {va : Nat}
    (hva : va = (fieldAt i.block 16 8 + leNat bs * fieldAt i.block 24 8) % 2 ^ 64) (hva57 : va < 2 ^ 57) (hal : va % 64 = 0)
    (ht : translate s.mem (s.rgXlate r) va .read = .ok (pa, at_)) (hdu : s.rgDenied i.rn va 64 false = none) :
    ∃ z : State, exec (.indirectStreamRow stack eng) s = .next z ∧
      z = { s with ports := z.ports, dies := z.dies, used := z.used, lostPeriods := z.lostPeriods } ∧ z.region? i.rn = some r ∧
      (z.port (a.key i.rn)).reply = (s.port (a.key i.rn)).reply ++ [(r.incarn, dataBeat (s.port (a.key i.rn)).round
        (w (fieldAt i.block 36 4 + i.next)) 0xFFFF (lanesOfBytes (s.mem.read (r.shadowed pa) 64)))] ∧
      (z.die stack).engines.find eng = some { i with next := i.next + 1, stuck := false } := by
  have hq := streamRow_raw hdec hb
  have hvaq : (w (fieldAt i.block 16 8 + leNat bs * fieldAt i.block 24 8) : Dword).toNat = va := by rw [hva]; rfl
  rw [hlen] at hq
  dsimp only at hq
  rw [hvaq] at hq
  have hu := readUnit_raw_ok (s := s) (rn := i.rn) (rnd := (s.port (a.key i.rn)).round)
    (q := { va := w (fieldAt i.block 16 8 + leNat bs * fieldAt i.block 24 8), count := 64 / 64, op := 0, next := 0,
            tag := w (fieldAt i.block 36 4 + i.next), cur := va }) rfl hva57 ht
  rw [State.shade_region hr] at hu
  have he := exec_indirectStreamRow_unit hd hr hinc hat hm hn hrow hden hq hal rfl rfl hl hu hdu
  generalize hx : (r.incarn, dataBeat (s.port (a.key i.rn)).round (w (fieldAt i.block 36 4 + i.next)) 0xFFFF
    (lanesOfBytes (s.mem.read (r.shadowed pa) 64))) = x at he ⊢
  have hport := s.deliverUnit_port i.rn (a.key i.rn) va i.idxAt x
  have honly := s.deliverUnit_only i.rn (a.key i.rn) va i.idxAt x
  generalize s.deliverUnit i.rn (a.key i.rn) va i.idxAt x = u at he hport honly
  obtain ⟨z, hz, hzs, hreply, heng⟩ := u.putEngine_rowEnd stack eng { i with next := i.next + 1, row := none, stuck := false }
    (rn := i.rn) (emp := a.emp) (ch := a.ch) r.incarn ((congrArg Port.marks hport).trans hmarks)
  have hused : z.used = u.used := by rw [hzs]
  have hlost : z.lostPeriods = u.lostPeriods := by rw [hzs]
  have hregion : z.region? i.rn = s.region? i.rn := by rw [hzs, honly]; rfl
  refine ⟨z, he.trans (congrArg _ hz), ?_, hregion.trans hr, ?_, ?_⟩
  · calc z = { u with ports := z.ports, dies := z.dies } := hzs
      _ = { s with ports := z.ports, dies := z.dies, used := u.used, lostPeriods := u.lostPeriods } :=
        congrArg (fun t : State => { t with ports := z.ports, dies := z.dies }) honly
      _ = _ := by rw [hused, hlost]
  · exact hreply.trans (congrArg Port.reply hport)
  · rw [heng, hrow]

/-- Settles O50: at ports by the branch an event takes for the head of the FIFO, for streams by the branch the engine takes. -/
theorem edgePorts : Obligations.EdgePorts := by
  unfold Obligations.EdgePorts
  intro s rn emp ch r hr ha k p request fault
  refine ⟨exec_port_held hr ha, exec_empRequest_linkIn hr ha, ?channel, fun s stack eng hd => exec_indirectStreamRow_idle hd, ?streams⟩
  case channel =>
    intro hh hi ho
    refine ⟨exec_empRequest_empty hr ha hh hi ho, ?heads, ?units, ?data, ?markers, ?replies⟩
    case heads =>
      intro b rest hc hf
      exact ⟨exec_empRequest_reserved hr ha hh hi ho hc hf, exec_empRequest_kind5 hr ha hh hi ho hc hf,
        fun h5 h2 hw => exec_empRequest_marker hr ha hh hi ho hc hf h2 h5 hw,
        fun x h0 h5 hw => exec_empRequest_noData hr ha hh hi ho hc hf h0 h5 hw,
        exec_empRequest_bad hr ha hh hi ho hc hf,
        fun hk hg hw => exec_empRequest_good hr ha hh hi ho hc hf hk (requestOf_good hk hg) hw⟩
    case units =>
      intro q hc hop hl hopen hcur
      have hrun := fun q hc => exec_empRequest_cur (q := q) hr ha hh hi ho hc
      exact ⟨fun f ht => (hrun q hc).trans (congrArg _ (issueUnit_fault hop hcur hl hopen ht)),
        fun pa at_ ht hn =>
          ⟨fun hd => (hrun q hc).trans (congrArg _ (issueUnit_delivers hop hcur hl hopen hr ht hn hd)),
           fun no hd => (hrun q hc).trans (congrArg _ (issueUnit_denied hop hcur hl hopen hr ht hn hd))⟩,
        fun q' hc' h => (hrun q' hc').trans (congrArg _ (issueUnit_full h))⟩
    case data =>
      intro q b rest hh hi ho hw hf
      refine ⟨exec_empWriteData_other hr ha hh hw hf, fun hk hcur =>
        ⟨fun f ht => exec_empWriteData_fault hr ha hh hw hf hi ho hk (writeUnit_error hr hcur ht), fun pa at_ y ht hy => ?_⟩⟩
      have hu := writeUnit_ok (b := b) hr hcur ht hy
      refine ⟨fun no hd => ⟨_, exec_empWriteData_denied hr ha hh hw hf hi ho hk hu hd, State.takeData_reqF _ _ _ _ _ _ _, rfl⟩,
        fun hd => ⟨_, exec_empWriteData_written hr ha hh hw hf hi ho hk hu hd, ?_, ?_, State.takeData_reqF _ _ _ _ _ _ _,
          fun hlast => (State.takeData_wr _ _ _ _ _ _ _).trans (if_pos hlast),
          fun hmore => (State.takeData_wr _ _ _ _ _ _ _).trans (if_neg hmore)⟩⟩
      · rw [State.touch_only]
        rfl
      · exact State.touch_mem _ _ _ _
    case markers =>
      intro b rest hh hi ho hf
      exact ⟨fun h2 h4 hc hw hp hm hopen => exec_empMarkerForward_forwards hr hf ha hh hi ho h2 h4 hc hw hp hm hopen,
        exec_empMarkerForward_stays hr hf⟩
    case replies =>
      intro inc b rest hi ho hp
      exact ⟨exec_empReply_stale hr ha hi ho hp, exec_empReply_noAttach hr ha hi ho hp, fun a hinc hat =>
        ⟨exec_empReply_stays hr ha hi ho hp hinc hat, fun y => exec_empReply_leaves hr ha hi ho hp hinc hat⟩⟩
  case streams =>
    intro s stack eng i hd b step ended
    refine ⟨exec_indirectStreamRow_noRegion hd, fun r hr => ⟨exec_indirectStreamRow_stale hd hr, fun hinc =>
      ⟨exec_indirectStreamRow_noAttach hd hr hinc, fun a hat => ?_⟩⟩⟩
    have hpause := exec_indirectStreamRow_pauses hd hr hinc hat
    refine ⟨fun h => hpause (streamMay_false ?_), fun hrow h => hpause (streamMay_false ?_),
      fun hrow hst hopen => hpause (streamMay_false ?_),
      fun ha hi ho hh hsn hc hw hl hrow hopen => ?rows⟩
    case rows =>
      have hm := streamMay_true ha hi ho hh hsn hc hw hl hopen
      refine ⟨exec_indirectStreamRow_end hd hr hinc hat hm, fun no hn hmarks hden => ?_,
        fun bs pa at_ hn hdec hlen hden hb hva57 hal hmarks ht hdu =>
          exec_indirectStreamRow_rawUnit hd hr hinc hat hm hn hrow hdec hlen hden hb hl hmarks rfl hva57 hal ht hdu⟩
      obtain ⟨hports, -⟩ := s.rgPriv_tables i.rn 3 (stack + 16 * eng) i.next no false
      have hport : (s.rgPriv i.rn 3 (stack + 16 * eng) i.next no false).port (a.key i.rn) = s.port (a.key i.rn) := by
        simp only [State.port, hports]
      obtain ⟨z, hz, hzs, hreply, heng⟩ := (s.rgPriv i.rn 3 (stack + 16 * eng) i.next no false).putEngine_rowEnd stack eng
        { i with next := i.next + 1, stuck := false } (rn := i.rn) (emp := a.emp) (ch := a.ch) r.incarn
        ((congrArg Port.marks hport).trans hmarks)
      exact ⟨z, (exec_indirectStreamRow_denied hd hr hinc hat hm hn hrow hden).trans (congrArg _ hz), hzs,
        hreply.trans (congrArg Port.reply hport), heng⟩
    · exact h.imp_right (Or.imp_right (Or.imp_right (Or.imp_right .inl)))
    · exact .inr (.inr (.inr (.inr (.inr ⟨hrow, h.imp_right (Or.imp_right .inl)⟩))))
    · exact .inr (.inr (.inr (.inr (.inr ⟨hrow, .inr (.inr (.inr ⟨hst, hopen⟩))⟩))))

end Sys2Proof.Machine
end

section
/-! PROOF. Accesses of a Lantern hart: loads, stores, LR, SC, AMO and vector accesses, their faults and their least level (O36). -/

namespace Sys2Proof.Machine

open Sys2Proof Sys2Proof.Config

/-! ### Values of bytes -/

/-- Bytes make a number below 256 to their count. -/
theorem leNat_lt (bs : List Byte) : leNat bs < 2 ^ (8 * bs.length) := by
  induction bs with
  | nil => simp [leNat]
  | cons b bs ih =>
    have hb := b.isLt
    rw [leNat, List.length_cons, Nat.mul_succ, Nat.pow_add]
    omega

@[simp] theorem Memory.read_length (m : Memory) (a k : Nat) : (m.read a k).length = k := by
  induction k generalizing a with
  | zero => rfl
  | succ k ih => rw [Memory.read, List.length_cons, ih]

/-- The two's complement value of a number of n bits. -/
theorem snat_of_lt {n x : Nat} (hn : 0 < n) (hx : x < 2 ^ n) :
    snat n x = if 2 ^ n ≤ 2 * x then (x : Int) - 2 ^ n else x := by
  obtain ⟨m, rfl⟩ := Nat.exists_eq_succ_of_ne_zero hn.ne'
  simp only [snat, Nat.mod_eq_of_lt hx, Nat.succ_sub_one]
  rw [Nat.pow_succ]
  split <;> split <;> omega

/-- What a load of some bytes gives its register. -/
theorem loadValue_eq {bs : List Byte} (signed : Bool) (hb : bs ≠ []) :
    loadValue bs signed = BitVec.ofInt 64
      (if signed = true ∧ 2 ^ (8 * bs.length) ≤ 2 * leNat bs then (leNat bs : Int) - 2 ^ (8 * bs.length) else leNat bs) := by
  have hl : 0 < 8 * bs.length := Nat.mul_pos (by decide) (List.length_pos_iff.2 hb)
  cases signed with
  | false => exact (BitVec.ofInt_natCast 64 (leNat bs)).symm
  | true =>
    rw [loadValue, if_pos rfl, wi, snat_of_lt hl (leNat_lt bs)]
    simp only [true_and]

theorem read_ne_nil (m : Memory) (a : Nat) (log : BitVec 2) : m.read a (2 ^ log.toNat) ≠ [] := by
  rw [← List.length_pos_iff, Memory.read_length]
  exact Nat.two_pow_pos _

/-- The value an AMO leaves, its operands being of n bits. -/
theorem amoValue_eq (op : AmoOp) {n a b : Nat} (hn : 0 < n) (ha : a < 2 ^ n) (hb : b < 2 ^ n) :
    amoValue op n a b = match op with
      | .swap => b | .add => (a + b) % 2 ^ n | .xor => a ^^^ b | .and => a &&& b | .or => a ||| b
      | .min => if (if 2 ^ n ≤ 2 * a then (a : Int) - 2 ^ n else a) ≤ (if 2 ^ n ≤ 2 * b then (b : Int) - 2 ^ n else b) then a else b
      | .max => if (if 2 ^ n ≤ 2 * a then (a : Int) - 2 ^ n else a) ≤ (if 2 ^ n ≤ 2 * b then (b : Int) - 2 ^ n else b) then b else a
      | .minu => min a b | .maxu => max a b := by
  cases op <;> simp only [amoValue, snat_of_lt hn ha, snat_of_lt hn hb]

/-! ### Reservations (R500) -/

/-- The other harts as a hart's write leaves them: each may lose its reservation. -/
theorem Tbl.find_endReservations (s : State) (h : Nat) (ps : List (Nat × Nat)) (k : Nat) :
    (s.endReservations h ps).harts.find k = (s.harts.find k).map fun x => match x.resv with
      | some (pa, bs) =>
        if k != h && ps.any (fun q => decide (q.1 < pa + bs.length) && decide (pa < q.1 + q.2)) then { x with resv := none } else x
      | none => x :=
  (Tbl.find_map s.harts (f := fun y => (y.1, match y.2.resv with
    | some (pa, bs) =>
      if y.1 != h && ps.any (fun q => decide (q.1 < pa + bs.length) && decide (pa < q.1 + q.2)) then { y.2 with resv := none } else y.2
    | none => y.2)) (fun _ => rfl) k)

theorem State.hart_endReservations (s : State) (h : Nat) (ps : List (Nat × Nat)) (k : Nat) :
    (s.endReservations h ps).hart k = s.hart k ∨ (s.endReservations h ps).hart k = { s.hart k with resv := none } := by
  unfold State.hart Tbl.get
  rw [Tbl.find_endReservations]
  cases s.harts.find k with
  | none => exact .inl rfl
  | some x =>
    rw [Option.map_some, Option.getD_some, Option.getD_some]
    split
    · split
      · exact .inr rfl
      · exact .inl rfl
    · exact .inl rfl

/-- A hart's own reservation stays at its writes. -/
theorem State.hart_endReservations_self (s : State) (h : Nat) (ps : List (Nat × Nat)) : (s.endReservations h ps).hart h = s.hart h := by
  unfold State.hart Tbl.get
  rw [Tbl.find_endReservations]
  cases s.harts.find h with
  | none => rfl
  | some x =>
    rw [Option.map_some, Option.getD_some, Option.getD_some]
    split
    · exact if_neg (by simp)
    · rfl

/-! ### What a performed and a refused access leave -/

section
variable {s : State} {h : Nat}

/-- A register result of a hart's access, and the hart past its word. -/
theorem State.modHart_past (f : Hart → Hart) (hpc : (f (s.hart h)).pc = (s.hart h).pc) :
    s.modHart h (fun y => (f y).past 4) = s.setHart h { f (s.hart h) with pc := (s.hart h).pc + 4 } := by
  rw [State.modHart_eq, Hart.past, hpc]
  rfl

@[simp] theorem Hart.set_pc (x : Hart) (rd : Reg) (v : Dword) : (x.set rd v).pc = x.pc := by
  unfold Hart.set
  split <;> rfl

/-- What a store to memory m by a hart that then is x leaves: the bytes, that hart past its word, and other harts less a reservation
at most. -/
def State.StoredBy (s : State) (h : Nat) (r : Host.Outcome State Fault Refusal) (x : Hart) (m : Memory) : Prop :=
  ∃ t : State, r = .next t ∧ t.mem = m ∧ t.hart h = { x with pc := (s.hart h).pc + 4 } ∧ t = { s with harts := t.harts, mem := t.mem } ∧
    ∀ k, k ≠ h → (t.hart k = s.hart k ∨ t.hart k = { s.hart k with resv := none })

theorem State.storedBy (m : Memory) (ps : List (Nat × Nat)) (f : Hart → Hart) (hpc : (f (s.hart h)).pc = (s.hart h).pc) :
    s.StoredBy h (.next (({ s with mem := m }.endReservations h ps).modHart h fun y => (f y).past 4)) (f (s.hart h)) m := by
  have hself : ({ s with mem := m }.endReservations h ps).hart h = s.hart h := State.hart_endReservations_self _ h ps
  rw [State.modHart_past f (by rw [hself, hpc]), hself]
  refine ⟨_, rfl, rfl, State.hart_setHart_same _ _ _, rfl, fun k hk => ?_⟩
  rw [State.hart_setHart_other _ _ hk]
  exact State.hart_endReservations { s with mem := m } h ps k

/-- An access that is denied is made below HV, and its hart translates for its own partition (R12, R144). -/
theorem State.lanDenied_level {va n a : Nat} {write : Bool} (hd : s.lanDenied h va n write = some a) :
    ∃ hv : Bool, (s.hart h).mode.level = b2n hv ∧ (s.hart h).xlate.part = (s.hart h).part := by
  have hl : ¬ 2 ≤ (s.hart h).mode.level := fun hl => by
    rw [State.lanDenied, State.denied_of_level s _ va n write hl] at hd
    cases hd
  unfold Hart.xlate
  revert hl
  cases (s.hart h).mode with
  | u => exact fun _ => ⟨false, rfl, rfl⟩
  | vu => exact fun _ => ⟨false, rfl, rfl⟩
  | vs => exact fun _ => ⟨true, rfl, rfl⟩
  | hs => exact fun hl => absurd (by decide) hl
  | m => exact fun hl => absurd (by decide) hl

/-- What a denied access leaves: a PRIV record at the next level, and the hart past its word (R12, R449). -/
def State.RefusedBy (s : State) (h : Nat) (r : Host.Outcome State Fault Refusal) (a : Nat) : Prop :=
  ∃ (t : State) (f : FaultRec), r = .next t ∧ f.code = 0x35 ∧ f.src = 4 ∧ f.addr = BitVec.ofNat 64 a ∧
    t.hart h = { s.hart h with pc := (s.hart h).pc + 4 } ∧
    (t.part (s.hart h).part).fqWait = (s.part (s.hart h).part).fqWait ++ [f] ∧ ((s.part (s.hart h).part).fqFull = false → t.mem = s.mem)

theorem State.refusedBy {va n a : Nat} {write : Bool} (hd : s.lanDenied h va n write = some a) (write' : Bool) :
    s.RefusedBy h (.next (s.lanPriv h 4 a write')) a := by
  obtain ⟨hv, hl, hp⟩ := State.lanDenied_level hd
  unfold State.lanPriv
  rw [hl, hp, State.priv_post, State.post_eq]
  refine ⟨_, { privRec 4 a write' with fid := (s.part (s.hart h).part).nextFid, part := (s.hart h).part }, rfl, rfl, rfl, rfl,
    State.hart_setHart_same _ _ _, ?_, fun hf => ?_⟩
  · exact congrArg Partition.fqWait (Tbl.get_put_same _ _ _ _)
  · show (if (s.part (s.hart h).part).fqFull = true then _ else s.mem) = s.mem
    rw [hf]
    rfl

/-! ### The shared accesses, case by case -/

variable {len va n : Nat}

theorem State.lanRead_ok {f : List Byte → State} {bs : List Byte} (hb : vread s.mem (s.hart h).xlate va n = .ok bs)
    (hd : s.lanDenied h va n false = none) : s.lanRead h len va n f = f bs := by
  rw [State.lanRead, hb]; dsimp only; rw [hd]

theorem State.lanRead_denied {f : List Byte → State} {bs : List Byte} {a : Nat} (hb : vread s.mem (s.hart h).xlate va n = .ok bs)
    (hd : s.lanDenied h va n false = some a) : s.lanRead h len va n f = s.lanPriv h len a false := by
  rw [State.lanRead, hb]; dsimp only; rw [hd]

theorem State.lanRead_fault {f : List Byte → State} {o : Nat} {x : XFault} (hb : vread s.mem (s.hart h).xlate va n = .error (o, x)) :
    s.lanRead h len va n f = s.hartFault h x false false (va + o) := by
  rw [State.lanRead, hb]

theorem State.lanWrite_ok {f : State → State} {bs : List Byte} {m : Memory} (hb : vwrite s.mem (s.hart h).xlate va bs = .ok m)
    (hd : s.lanDenied h va bs.length true = none) :
    s.lanWrite h len va bs f = f ({ s with mem := m }.endReservations h (s.written h va bs.length)) := by
  rw [State.lanWrite, hb]; dsimp only; rw [hd]

theorem State.lanWrite_denied {f : State → State} {bs : List Byte} {m : Memory} {a : Nat}
    (hb : vwrite s.mem (s.hart h).xlate va bs = .ok m) (hd : s.lanDenied h va bs.length true = some a) :
    s.lanWrite h len va bs f = s.lanPriv h len a true := by
  rw [State.lanWrite, hb]; dsimp only; rw [hd]

theorem State.lanWrite_fault {f : State → State} {bs : List Byte} {o : Nat} {x : XFault}
    (hb : vwrite s.mem (s.hart h).xlate va bs = .error (o, x)) : s.lanWrite h len va bs f = s.hartFault h x true false (va + o) := by
  rw [State.lanWrite, hb]

theorem State.lanAtomic_misaligned (a : Access) {f : Nat → State} (ha : va % n ≠ 0) :
    s.lanAtomic h len va n a f = s.hartTrap h (if a != .read then cSTOREMISAL else cLOADMISAL) (w va) 0 := if_pos ha

theorem State.lanAtomic_ok {a : Access} {f : Nat → State} {pa fmt : Nat} (ha : va % n = 0)
    (hd : s.lanDenied h va n (a != .read) = none) (ht : translate s.mem (s.hart h).xlate va a = .ok (pa, fmt)) :
    s.lanAtomic h len va n a f = f pa := by
  rw [State.lanAtomic, if_neg (not_not.2 ha), ht]; dsimp only; rw [hd]

end

/-! ### The instruction -/

/-! How each access is made. -/

section
variable (s : State) (h : Nat) (log : BitVec 2) (rd rs : Reg) (addr : Dword)

theorem State.lanAccess_load (signed : Bool) : s.lanAccess h (.load log signed rd) addr =
    s.lanRead h 4 addr.toNat (2 ^ log.toNat) fun bs => s.modHart h fun y => (y.set rd (loadValue bs signed)).past 4 := rfl

theorem State.lanAccess_fload : s.lanAccess h (.fload log rd) addr =
    s.lanRead h 4 addr.toNat (2 ^ log.toNat) fun bs => s.modHart h fun y => { y with f := y.f.set rd.toNat (boxed bs) }.past 4 := rfl

theorem State.lanAccess_store : s.lanAccess h (.store log rs) addr =
    s.lanWrite h 4 addr.toNat (leBytes ((s.hart h).get rs).toNat (2 ^ log.toNat)) fun t => t.modHart h fun y => (id y).past 4 := rfl

theorem State.lanAccess_fstore : s.lanAccess h (.fstore log rs) addr =
    s.lanWrite h 4 addr.toNat (leBytes (((s.hart h).f[rs.toNat]?).getD 0).toNat (2 ^ log.toNat)) fun t =>
      t.modHart h fun y => (id y).past 4 := rfl

theorem State.lanAccess_lr : s.lanAccess h (.lr log rd) addr =
    s.lanAtomic h 4 addr.toNat (2 ^ log.toNat) .read fun pa => s.modHart h fun y =>
      { y.set rd (loadValue (s.mem.read pa (2 ^ log.toNat)) true) with resv := some (pa, s.mem.read pa (2 ^ log.toNat)) }.past 4 := rfl

/-- Whether a hart's reservation covers n bytes that still read as when it was made. -/
def State.reserved (s : State) (h pa n : Nat) : Bool :=
  match (s.hart h).resv with
  | some (a, bs) => a == pa && bs.length == n && s.mem.read pa n == bs
  | none => false

theorem State.reserved_iff (pa n : Nat) : s.reserved h pa n = true ↔ (s.hart h).resv = some (pa, s.mem.read pa n) := by
  unfold State.reserved
  cases (s.hart h).resv with
  | none => simp
  | some x =>
    obtain ⟨a, bs⟩ := x
    rw [Option.some_inj, Prod.mk.injEq, Bool.and_eq_true, Bool.and_eq_true, beq_iff_eq, beq_iff_eq, beq_iff_eq]
    constructor
    · rintro ⟨⟨ha, -⟩, hb⟩
      exact ⟨ha, hb.symm⟩
    · rintro ⟨ha, rfl⟩
      exact ⟨⟨ha, Memory.read_length _ _ _⟩, rfl⟩

theorem State.lanAccess_sc : s.lanAccess h (.sc log rd rs) addr =
    s.lanAtomic h 4 addr.toNat (2 ^ log.toNat) .write fun pa =>
      (if s.reserved h pa (2 ^ log.toNat) then
        { s with mem := s.mem.write pa (leBytes ((s.hart h).get rs).toNat (2 ^ log.toNat)) }.endReservations h [(pa, 2 ^ log.toNat)]
       else s).modHart h fun y =>
        { y.set rd (if s.reserved h pa (2 ^ log.toNat) then 0 else 1) with resv := none }.past 4 := rfl

theorem State.lanAccess_amo (aop : AmoOp) : s.lanAccess h (.amo aop log rd rs) addr =
    s.lanAtomic h 4 addr.toNat (2 ^ log.toNat) .atomic fun pa =>
      ({ s with mem := s.mem.write pa (leBytes (amoValue aop (8 * 2 ^ log.toNat) (leNat (s.mem.read pa (2 ^ log.toNat)))
          (((s.hart h).get rs).toNat % 2 ^ (8 * 2 ^ log.toNat))) (2 ^ log.toNat)) }.endReservations h [(pa, 2 ^ log.toNat)]).modHart h
        fun y => (y.set rd (loadValue (s.mem.read pa (2 ^ log.toNat)) true)).past 4 := rfl

end

/-! What each instruction comes to. -/

/-- The exception of a hart's access that faults at an address. -/
def State.faulted (s : State) (h : Nat) (f : XFault) (write : Bool) (va : Nat) : Host.Outcome State Fault Refusal :=
  .next (s.setHart h ((s.hart h).takeTrap (hartFaultCause f (s.hart h).xlate.s2.isSome write false) false (BitVec.ofNat 64 va)
    (if (s.hart h).xlate.s2.isSome then BitVec.ofNat 64 (f.ga / 4) else 0)))

/-- A hart past its word with nothing else changed but the hart itself. -/
def State.passed (s : State) (h : Nat) (x : Hart) : Host.Outcome State Fault Refusal :=
  .next (s.setHart h { x with pc := (s.hart h).pc + 4 })

section
variable {s : State} {h : Nat} {log : BitVec 2} {rd rs : Reg} {addr : Dword} (hw : (s.hart h).wait = none) (ho : s.hartOut h = false)
include hw ho

theorem exec_lanternLoadStore (op : LanOp) (addr : Dword) : exec (.lanternLoadStore h op addr) s = .next (s.lanAccess h op addr) := by
  show execLanternLoadStore h op addr s = _
  rw [execLanternLoadStore, hw, ho]
  rfl

theorem exec_load {bs : List Byte} (signed : Bool) (hb : vread s.mem (s.hart h).xlate addr.toNat (2 ^ log.toNat) = .ok bs)
    (hd : s.lanDenied h addr.toNat (2 ^ log.toNat) false = none) :
    exec (.lanternLoadStore h (.load log signed rd) addr) s = s.passed h ((s.hart h).set rd (loadValue bs signed)) := by
  rw [exec_lanternLoadStore hw ho, State.lanAccess_load, State.lanRead_ok hb hd, State.modHart_past _ (Hart.set_pc _ _ _), State.passed]

theorem exec_fload {bs : List Byte} (hb : vread s.mem (s.hart h).xlate addr.toNat (2 ^ log.toNat) = .ok bs)
    (hd : s.lanDenied h addr.toNat (2 ^ log.toNat) false = none) :
    exec (.lanternLoadStore h (.fload log rd) addr) s = s.passed h { s.hart h with f := (s.hart h).f.set rd.toNat (boxed bs) } := by
  rw [exec_lanternLoadStore hw ho, State.lanAccess_fload, State.lanRead_ok hb hd]
  rfl

theorem exec_load_denied {bs : List Byte} {a : Nat} (signed : Bool)
    (hb : vread s.mem (s.hart h).xlate addr.toNat (2 ^ log.toNat) = .ok bs)
    (hd : s.lanDenied h addr.toNat (2 ^ log.toNat) false = some a) :
    s.RefusedBy h (exec (.lanternLoadStore h (.load log signed rd) addr) s) a ∧
    s.RefusedBy h (exec (.lanternLoadStore h (.fload log rd) addr) s) a := by
  rw [exec_lanternLoadStore hw ho, exec_lanternLoadStore hw ho, State.lanAccess_load, State.lanAccess_fload, State.lanRead_denied hb hd,
    State.lanRead_denied hb hd]
  exact ⟨State.refusedBy hd false, State.refusedBy hd false⟩

theorem exec_load_fault {o : Nat} {f : XFault} (signed : Bool)
    (hb : vread s.mem (s.hart h).xlate addr.toNat (2 ^ log.toNat) = .error (o, f)) :
    exec (.lanternLoadStore h (.load log signed rd) addr) s = s.faulted h f false (addr.toNat + o) := by
  rw [exec_lanternLoadStore hw ho, State.lanAccess_load, State.lanRead_fault hb]
  rfl

theorem exec_store {m : Memory} (hb : vwrite s.mem (s.hart h).xlate addr.toNat (leBytes ((s.hart h).get rs).toNat (2 ^ log.toNat)) = .ok m)
    (hd : s.lanDenied h addr.toNat (2 ^ log.toNat) true = none) :
    s.StoredBy h (exec (.lanternLoadStore h (.store log rs) addr) s) (s.hart h) m := by
  rw [exec_lanternLoadStore hw ho, State.lanAccess_store, State.lanWrite_ok hb (by rw [leBytes_length]; exact hd)]
  exact State.storedBy m _ id rfl

theorem exec_fstore {m : Memory}
    (hb : vwrite s.mem (s.hart h).xlate addr.toNat (leBytes (((s.hart h).f[rs.toNat]?).getD 0).toNat (2 ^ log.toNat)) = .ok m)
    (hd : s.lanDenied h addr.toNat (2 ^ log.toNat) true = none) :
    s.StoredBy h (exec (.lanternLoadStore h (.fstore log rs) addr) s) (s.hart h) m := by
  rw [exec_lanternLoadStore hw ho, State.lanAccess_fstore, State.lanWrite_ok hb (by rw [leBytes_length]; exact hd)]
  exact State.storedBy m _ id rfl

theorem exec_store_denied {m : Memory} {a : Nat}
    (hb : vwrite s.mem (s.hart h).xlate addr.toNat (leBytes ((s.hart h).get rs).toNat (2 ^ log.toNat)) = .ok m)
    (hd : s.lanDenied h addr.toNat (2 ^ log.toNat) true = some a) :
    s.RefusedBy h (exec (.lanternLoadStore h (.store log rs) addr) s) a := by
  rw [exec_lanternLoadStore hw ho, State.lanAccess_store, State.lanWrite_denied hb (by rw [leBytes_length]; exact hd)]
  exact State.refusedBy hd true

theorem exec_store_fault {o : Nat} {f : XFault}
    (hb : vwrite s.mem (s.hart h).xlate addr.toNat (leBytes ((s.hart h).get rs).toNat (2 ^ log.toNat)) = .error (o, f)) :
    exec (.lanternLoadStore h (.store log rs) addr) s = s.faulted h f true (addr.toNat + o) := by
  rw [exec_lanternLoadStore hw ho, State.lanAccess_store, State.lanWrite_fault hb]
  rfl

/-- An access that must be aligned and is not is an exception with nothing performed. -/
theorem exec_misaligned (aop : AmoOp) (ha : addr.toNat % 2 ^ log.toNat ≠ 0) :
    exec (.lanternLoadStore h (.lr log rd) addr) s = .next (s.setHart h ((s.hart h).takeTrap 4 false addr 0)) ∧
    exec (.lanternLoadStore h (.sc log rd rs) addr) s = .next (s.setHart h ((s.hart h).takeTrap 6 false addr 0)) ∧
    exec (.lanternLoadStore h (.amo aop log rd rs) addr) s = .next (s.setHart h ((s.hart h).takeTrap 6 false addr 0)) := by
  have hva : (w addr.toNat : Dword) = addr := BitVec.ofNat_toNat 64 addr |>.trans (BitVec.setWidth_eq addr)
  rw [exec_lanternLoadStore hw ho, exec_lanternLoadStore hw ho, exec_lanternLoadStore hw ho, State.lanAccess_lr, State.lanAccess_sc,
    State.lanAccess_amo, State.lanAtomic_misaligned .read ha, State.lanAtomic_misaligned .write ha, State.lanAtomic_misaligned .atomic ha, hva]
  exact ⟨rfl, rfl, rfl⟩

section
variable {pa fmt : Nat} (ha : addr.toNat % 2 ^ log.toNat = 0)
include ha

theorem exec_lr (hd : s.lanDenied h addr.toNat (2 ^ log.toNat) false = none)
    (ht : translate s.mem (s.hart h).xlate addr.toNat .read = .ok (pa, fmt)) :
    exec (.lanternLoadStore h (.lr log rd) addr) s = s.passed h
      { (s.hart h).set rd (loadValue (s.mem.read pa (2 ^ log.toNat)) true) with resv := some (pa, s.mem.read pa (2 ^ log.toNat)) } := by
  rw [exec_lanternLoadStore hw ho, State.lanAccess_lr, State.lanAtomic_ok (a := .read) ha hd ht]
  exact congrArg _ (State.modHart_past (fun y => { y.set rd _ with resv := _ }) (Hart.set_pc _ _ _))

theorem exec_sc_reserved (hd : s.lanDenied h addr.toNat (2 ^ log.toNat) true = none)
    (ht : translate s.mem (s.hart h).xlate addr.toNat .write = .ok (pa, fmt))
    (hr : (s.hart h).resv = some (pa, s.mem.read pa (2 ^ log.toNat))) :
    s.StoredBy h (exec (.lanternLoadStore h (.sc log rd rs) addr) s) { (s.hart h).set rd 0 with resv := none }
      (s.mem.write pa (leBytes ((s.hart h).get rs).toNat (2 ^ log.toNat))) := by
  have hr := (s.reserved_iff h pa _).2 hr
  rw [exec_lanternLoadStore hw ho, State.lanAccess_sc, State.lanAtomic_ok (a := .write) ha hd ht, if_pos hr, if_pos hr]
  exact State.storedBy _ _ (fun y => { y.set rd 0 with resv := none }) (Hart.set_pc _ _ _)

theorem exec_sc_lost (hd : s.lanDenied h addr.toNat (2 ^ log.toNat) true = none)
    (ht : translate s.mem (s.hart h).xlate addr.toNat .write = .ok (pa, fmt))
    (hr : (s.hart h).resv ≠ some (pa, s.mem.read pa (2 ^ log.toNat))) :
    exec (.lanternLoadStore h (.sc log rd rs) addr) s = s.passed h { (s.hart h).set rd 1 with resv := none } := by
  have hr := mt (s.reserved_iff h pa _).1 hr
  rw [exec_lanternLoadStore hw ho, State.lanAccess_sc, State.lanAtomic_ok (a := .write) ha hd ht, if_neg hr, if_neg hr]
  exact congrArg _ (State.modHart_past (fun y => { y.set rd 1 with resv := none }) (Hart.set_pc _ _ _))

theorem exec_amo (aop : AmoOp) (hd : s.lanDenied h addr.toNat (2 ^ log.toNat) true = none)
    (ht : translate s.mem (s.hart h).xlate addr.toNat .atomic = .ok (pa, fmt)) :
    s.StoredBy h (exec (.lanternLoadStore h (.amo aop log rd rs) addr) s)
      ((s.hart h).set rd (loadValue (s.mem.read pa (2 ^ log.toNat)) true))
      (s.mem.write pa (leBytes (amoValue aop (8 * 2 ^ log.toNat) (leNat (s.mem.read pa (2 ^ log.toNat)))
        (((s.hart h).get rs).toNat % 2 ^ (8 * 2 ^ log.toNat))) (2 ^ log.toNat))) := by
  rw [exec_lanternLoadStore hw ho, State.lanAccess_amo, State.lanAtomic_ok (a := .atomic) ha hd ht]
  exact State.storedBy _ _ (fun y => y.set rd _) (Hart.set_pc _ _ _)

end

section
variable {vd : Reg} {elems : List (Nat × Dword)}

theorem exec_vload {es : List (Nat × List Byte)} (hd : s.vecDenied h addr (2 ^ log.toNat) elems false = none)
    (hg : gatherElems s.mem (s.hart h).xlate addr (2 ^ log.toNat) elems = .ok es) :
    exec (.lanternLoadStore h (.vload log vd elems) addr) s = s.passed h ((s.hart h).putVector vd es) := by
  rw [exec_lanternLoadStore hw ho, State.lanAccess, State.lanAccessBy]
  dsimp only
  rw [hg]
  dsimp only
  rw [hd]
  rfl

theorem exec_vload_fault {a : Nat} {f : XFault} (hg : gatherElems s.mem (s.hart h).xlate addr (2 ^ log.toNat) elems = .error (a, f)) :
    exec (.lanternLoadStore h (.vload log vd elems) addr) s = s.faulted h f false a := by
  rw [exec_lanternLoadStore hw ho, State.lanAccess, State.lanAccessBy]
  dsimp only
  rw [hg]
  rfl

theorem exec_vstore {m : Memory} (hd : s.vecDenied h addr (2 ^ log.toNat) elems true = none)
    (hs : scatterElems s.mem (s.hart h).xlate addr (2 ^ log.toNat) ((s.hart h).vecGroup vd) elems = .ok m) :
    s.StoredBy h (exec (.lanternLoadStore h (.vstore log vd elems) addr) s) (s.hart h) m := by
  rw [exec_lanternLoadStore hw ho, State.lanAccess, State.lanAccessBy]
  dsimp only
  rw [hs]
  dsimp only
  rw [hd]
  exact State.storedBy m _ id rfl

theorem exec_vstore_fault {a : Nat} {f : XFault}
    (hs : scatterElems s.mem (s.hart h).xlate addr (2 ^ log.toNat) ((s.hart h).vecGroup vd) elems = .error (a, f)) :
    exec (.lanternLoadStore h (.vstore log vd elems) addr) s = s.faulted h f true a := by
  rw [exec_lanternLoadStore hw ho, State.lanAccess, State.lanAccessBy]
  dsimp only
  rw [hs]
  rfl

end

end

/-- Settles O36: each access by the branch of the shared read, write or aligned access that it is made with. -/
theorem lanternAccesses : Obligations.LanternAccesses := by
  unfold Obligations.LanternAccesses
  intro s h addr hw ho
  refine ⟨fun log rd rs bs m => ⟨fun a signed hb hd => exec_load_denied hw ho signed hb hd, fun a hb hd => exec_store_denied hw ho hb hd,
    fun signed hd hb hne => ?load, fun hd hb => exec_fload hw ho hb hd, fun hd hb => exec_store hw ho hb hd,
    fun hd hb => exec_fstore hw ho hb hd, fun o f signed hb => exec_load_fault hw ho signed hb, fun o f hb => exec_store_fault hw ho hb⟩,
    fun log rd rs aop pa fmt => ⟨exec_misaligned hw ho aop, fun ha hd ht => ?lr, fun ha hd ht =>
      ⟨exec_sc_reserved hw ho ha hd ht, exec_sc_lost hw ho ha hd ht⟩, fun ha hd ht => ?amo⟩,
    fun log vd elems => ⟨fun es hd hg => exec_vload hw ho hd hg, fun m hd hs => exec_vstore hw ho hd hs,
      fun a f hg => exec_vload_fault hw ho hg, fun a f hs => exec_vstore_fault hw ho hs⟩⟩
  case load =>
    have he := exec_load (rd := rd) hw ho signed hb hd
    rw [loadValue_eq signed hne] at he
    exact he
  case lr =>
    have he := exec_lr (rd := rd) hw ho ha hd ht
    rw [loadValue_eq true (read_ne_nil s.mem pa log)] at he
    exact he
  case amo =>
    have hn : 0 < 8 * 2 ^ log.toNat := Nat.mul_pos (by decide) (Nat.two_pow_pos _)
    have hold : leNat (s.mem.read pa (2 ^ log.toNat)) < 2 ^ (8 * 2 ^ log.toNat) := by
      simpa using leNat_lt (s.mem.read pa (2 ^ log.toNat))
    have he := exec_amo (rd := rd) (rs := rs) hw ho ha aop hd ht
    rw [loadValue_eq true (read_ne_nil s.mem pa log), amoValue_eq aop hn hold (Nat.mod_lt _ (Nat.two_pow_pos _))] at he
    exact he

end Sys2Proof.Machine
end

section
/-! PROOF. A step runs the instruction its next word decodes to (O4). -/

namespace Sys2Proof.Machine

open Sys2Proof Sys2Proof.Config

/-! ### Words a hart fetches (R21, R78) -/

section
variable {s : State} {y : Hart} {bs : List Byte}

/-- A word whose first two bytes have low bits 11 is fetched as four bytes. -/
theorem State.hartWord_four
    (h2 : (vread s.mem y.xlate y.pc.toNat 2).toOption.any (fun b => leNat b % 4 == 3) = true)
    (h4 : vread s.mem y.xlate y.pc.toNat 4 = .ok bs) : s.hartWord y = .ok (BitVec.ofNat 32 (leNat bs)) := by
  unfold State.hartWord
  cases hv : vread s.mem y.xlate y.pc.toNat 2 with
  | error e => simp [hv, Except.toOption] at h2
  | ok b =>
    have hb : leNat b % 4 = 3 := by simpa [hv, Except.toOption] using h2
    dsimp only
    rw [if_pos hb, h4]
    rfl

/-- Any other is fetched as two. -/
theorem State.hartWord_two (h2 : vread s.mem y.xlate y.pc.toNat 2 = .ok bs) (hb : leNat bs % 4 ≠ 3) :
    s.hartWord y = .ok (BitVec.ofNat 32 (leNat bs)) := by
  rw [State.hartWord, h2]
  exact if_neg hb

end

/-- The words of Xlan have low bits 11 (R78). -/
theorem decodeXlan_none {x : Word} (hx : x.toNat % 4 ≠ 3) : decodeXlan x = none := by
  have hlow : ∀ c : BitVec 7, c.toNat % 4 = 3 → x.extractLsb' 0 7 ≠ c := fun c hc he => hx <| by
    have := congrArg BitVec.toNat he
    simp only [BitVec.extractLsb'_toNat, Nat.shiftRight_zero] at this
    omega
  rw [decodeXlan, if_neg (hlow _ (by decide)), if_neg (hlow _ (by decide))]

/-! ### Words of RISC-V (notes/assumptions 3) -/

section
variable (s : State) (h : Nat) {x : Word}

/-- A word whose low two bits are 1 runs as itself. -/
theorem State.rvStep_four (hx : x.toNat % 4 = 3) : s.rvStep h x = s.rvRun h 4 x x := by
  rw [State.rvStep, rvLen, if_pos hx, if_pos rfl]

/-- The opcode of a word of four bytes. -/
theorem State.rvStep_opcode {op : Nat} (hop : bits x 6 0 = op) (h4 : op % 4 = 3) : s.rvStep h x = s.rvRun h 4 x x :=
  s.rvStep_four h (by simp only [bits, nbits, Nat.pow_zero, Nat.div_one] at hop; omega)

/-- A word of two bytes runs as the one of four that it stands for. -/
theorem State.rvStep_two {y : Nat} (hx : x.toNat % 4 ≠ 3) (hy : rvcWord x.toNat = some y) : s.rvStep h x = s.rvRun h 2 x (w y) := by
  rw [State.rvStep, rvLen, if_neg hx, if_neg (by decide), hy]

theorem Hart.set_past (y : Hart) (rd : Reg) (v : Dword) (n : Nat) : (y.set rd v).past n = { y.set rd v with pc := y.pc + w n } := by
  unfold Hart.past Hart.set
  split <;> rfl

/-- What a word that only writes a register leaves. -/
theorem State.rvDone_eq (n : Nat) (rd : Reg) (v : Dword) :
    s.rvDone h n rd v = s.setHart h { (s.hart h).set rd v with pc := (s.hart h).pc + w n } := by
  rw [State.rvDone, State.modHart_eq, Hart.set_past]

end

/-! ### Arithmetic of words -/

/-- A number read as a two's complement value of n bits and kept in n bits. -/
theorem wi_snat_self (x : Nat) : wi 64 (snat 64 x) = BitVec.ofNat 64 x := by
  apply BitVec.eq_of_toNat_eq
  rw [wi, BitVec.toNat_ofInt, BitVec.toNat_ofNat, snat]
  split <;> omega

theorem rvInt_add (a b : Dword) : rvInt 64 0 false a b = a + b := by
  have ha := a.isLt
  have hb := b.isLt
  rw [rvInt]
  rw [if_neg (by decide), wi_snat_self, Nat.mod_eq_of_lt ha, Nat.mod_eq_of_lt hb, BitVec.ofNat_add,
    BitVec.ofNat_toNat, BitVec.ofNat_toNat, BitVec.setWidth_eq, BitVec.setWidth_eq]

theorem rvInt_sub (a b : Dword) : rvInt 64 0 true a b = a - b := by
  have ha := a.isLt
  have hb := b.isLt
  rw [rvInt]
  rw [if_pos rfl, wi_snat_self, Nat.mod_eq_of_lt ha, Nat.mod_eq_of_lt hb]
  apply BitVec.eq_of_toNat_eq
  rw [BitVec.toNat_ofNat, BitVec.toNat_sub]
  omega

theorem snat_eq_toInt {n x : Nat} : snat n x = (BitVec.ofNat n x).toInt := by
  rw [BitVec.toInt_eq_toNat_cond, BitVec.toNat_ofNat, snat]
  cases n with
  | zero => rw [Nat.pow_zero, Nat.mod_one]; rfl
  | succ n =>
    have hc : (2 : Int) ^ (n + 1) = (2 ^ n * 2 : Nat) := by push_cast; ring
    rw [Nat.succ_sub_one, hc, Nat.pow_succ]
    generalize 2 ^ n = k
    split <;> split <;> omega

theorem rvImmI_eq (x : Word) : rvImmI x = (BitVec.ofNat 12 (bits x 31 20)).signExtend 64 := by
  rw [rvImmI, wi, snat_eq_toInt]
  rfl

theorem bits_lt {n : Nat} (x : BitVec n) (i j : Nat) : bits x i j < 2 ^ (i + 1 - j) := Nat.mod_lt _ (Nat.two_pow_pos _)

theorem rvImmB_toInt (x : Word) : (rvImmB x).toInt = (bits x 11 8 * 2 + bits x 30 25 * 32 + bits x 7 7 * 2048 : Int) - bits x 31 31 * 4096 := by
  have h1 := bits_lt x 11 8
  have h2 := bits_lt x 30 25
  have h3 := bits_lt x 7 7
  have h4 := bits_lt x 31 31
  rw [rvImmB, wi, snat_of_lt (by decide) (by omega), BitVec.toInt_ofInt]
  split <;> rw [Int.bmod_eq_of_le (by omega) (by omega)] <;> omega

/-- The opcode's bits. -/
theorem bit_of_opcode {x : Word} {i : Nat} (hi : i < 7) : bit x i = (bits x 6 0).testBit i := by
  rw [bit, bits, nbits, Nat.pow_zero, Nat.div_one, Nat.testBit_mod_two_pow, decide_eq_true hi, Bool.true_and, BitVec.testBit_toNat]

/-! ### The words stated -/

section
variable (s : State) (h : Nat) {x : Word}

theorem State.rvStep_fence (hop : bits x 6 0 = 0b0001111) (hf : bits x 14 12 ≤ 1) :
    s.rvStep h x = s.setHart h { s.hart h with pc := (s.hart h).pc + 4 } := by
  rw [s.rvStep_opcode h hop rfl, State.rvRun]
  simp only [hop, if_pos hf]
  rfl

theorem rvAlu_addi {a b : Dword} (hop : bits x 6 0 = 0b0010011) (hf : bits x 14 12 = 0) : rvAlu x a b = some (a + rvImmI x) := by
  have h3 : bit x 3 = false := by rw [bit_of_opcode (by decide), hop]; rfl
  have h5 : bit x 5 = false := by rw [bit_of_opcode (by decide), hop]; rfl
  rw [rvAlu, hf, h3, h5]
  exact congrArg some (rvInt_add a _)

theorem rvAlu_add {a b : Dword} (hop : bits x 6 0 = 0b0110011) (hf : bits x 14 12 = 0) (h7 : bits x 31 25 = 0) :
    rvAlu x a b = some (a + b) := by
  have h3 : bit x 3 = false := by rw [bit_of_opcode (by decide), hop]; rfl
  have h5 : bit x 5 = true := by rw [bit_of_opcode (by decide), hop]; rfl
  rw [rvAlu, hf, h3, h5, h7]
  exact congrArg some (rvInt_add a b)

theorem rvAlu_sub {a b : Dword} (hop : bits x 6 0 = 0b0110011) (hf : bits x 14 12 = 0) (h7 : bits x 31 25 = 32) :
    rvAlu x a b = some (a - b) := by
  have h3 : bit x 3 = false := by rw [bit_of_opcode (by decide), hop]; rfl
  have h5 : bit x 5 = true := by rw [bit_of_opcode (by decide), hop]; rfl
  rw [rvAlu, hf, h3, h5, h7]
  exact congrArg some (rvInt_sub a b)

theorem State.rvRun_addi (n : Nat) (f : Word) (hop : bits x 6 0 = 0b0010011) (hf : bits x 14 12 = 0) :
    s.rvRun h n f x = s.rvDone h n (BitVec.ofNat 5 (bits x 11 7)) ((s.hart h).get (BitVec.ofNat 5 (bits x 19 15)) + rvImmI x) := by
  rw [State.rvRun]
  simp only [hop, rvAlu_addi hop hf]
  rfl

theorem State.rvStep_addi (hop : bits x 6 0 = 0b0010011) (hf : bits x 14 12 = 0) :
    s.rvStep h x = s.setHart h { (s.hart h).set (BitVec.ofNat 5 (bits x 11 7))
      ((s.hart h).get (BitVec.ofNat 5 (bits x 19 15)) + (BitVec.ofNat 12 (bits x 31 20)).signExtend 64) with pc := (s.hart h).pc + 4 } := by
  rw [s.rvStep_opcode h hop rfl, s.rvRun_addi h 4 x hop hf, State.rvDone_eq, rvImmI_eq]
  rfl

/-- A word of OP with a result writes it. -/
theorem State.rvStep_op {v : Dword} (hop : bits x 6 0 = 0b0110011)
    (hv : rvAlu x ((s.hart h).get (BitVec.ofNat 5 (bits x 19 15))) ((s.hart h).get (BitVec.ofNat 5 (bits x 24 20))) = some v) :
    s.rvStep h x = s.setHart h { (s.hart h).set (BitVec.ofNat 5 (bits x 11 7)) v with pc := (s.hart h).pc + 4 } := by
  rw [s.rvStep_opcode h hop rfl, State.rvRun]
  simp only [w, hop, hv]
  exact s.rvDone_eq h 4 _ v

theorem State.rvStep_beq (hop : bits x 6 0 = 0b1100011) (hf : bits x 14 12 = 0) :
    s.rvStep h x = s.setHart h { s.hart h with
      pc := if (s.hart h).get (BitVec.ofNat 5 (bits x 19 15)) = (s.hart h).get (BitVec.ofNat 5 (bits x 24 20)) then
        (s.hart h).pc + rvImmB x else (s.hart h).pc + 4 } := by
  rw [s.rvStep_opcode h hop rfl, State.rvRun]
  simp only [w, hop, hf, rvTaken, State.modHart_eq, beq_iff_eq]
  split <;> rfl

theorem State.rvStep_loadDword (hop : bits x 6 0 = 0b0000011) (hf : bits x 14 12 = 3) :
    s.rvStep h x = s.lanAccess h (.load 3 true (BitVec.ofNat 5 (bits x 11 7)))
      ((s.hart h).get (BitVec.ofNat 5 (bits x 19 15)) + (BitVec.ofNat 12 (bits x 31 20)).signExtend 64) := by
  rw [s.rvStep_opcode h hop rfl, State.rvRun, ← rvImmI_eq]
  simp only [w, hop, hf]
  rfl

theorem State.rvStep_ecall : s.rvStep h 0x00000073 = s.setHart h ((s.hart h).takeTrap
    (match (s.hart h).mode with | .u => 8 | .vu => 8 | .hs => 9 | .vs => 10 | .m => 11) false 0 0) := by
  have hc : ecallCause (s.hart h).mode = match (s.hart h).mode with | .u => 8 | .vu => 8 | .hs => 9 | .vs => 10 | .m => 11 := by
    cases (s.hart h).mode <;> rfl
  rw [s.rvStep_opcode h rfl rfl, ← hc]
  rfl

/-- c.nop stands for an addi to x0. -/
theorem State.rvStep_cnop : s.rvStep h 0x00000001 = s.setHart h { s.hart h with pc := (s.hart h).pc + 2 } := by
  rw [s.rvStep_two h (y := 0x13) (by decide) (by decide), s.rvRun_addi h 2 _ (by decide) (by decide), State.rvDone_eq]
  rfl

/-- c.addi of -1 to x8. -/
theorem State.rvStep_caddi : s.rvStep h 0x0000147D =
    s.setHart h { (s.hart h).set 8 ((s.hart h).get 8 - 1) with pc := (s.hart h).pc + 2 } := by
  rw [s.rvStep_two h (y := 0xFFF40413) (by decide) (by decide), s.rvRun_addi h 2 _ (by decide) (by decide), State.rvDone_eq,
    show rvImmI (w 0xFFF40413) = -1 by decide, BitVec.sub_eq_add_neg]
  rfl

end

/-! ### Moves of agents -/

section
variable {s : State} {rest : List Move} (hp : s.power = true)
include hp

theorem step_seq {sq : Nat} {r : Region} (ha : s.agenda = .seq sq :: rest) (hr : s.region? sq = some r) (hact : r.active = true)
    (hst : r.seq.stopNext = false) (hout : s.seqOut sq = false) (hdbg : State.debugDue { s with agenda := rest } sq = false) :
    step s = exec r.instr
      (State.setRegion { s with agenda := rest, curSeq := sq } sq { r with seq := { r.seq with first := false } }) := by
  have hat : ({ s with agenda := rest } : State).atSeq sq =
      State.setRegion { s with agenda := rest, curSeq := sq } sq { r with seq := { r.seq with first := false } } :=
    State.modSeq_eq (s := { s with agenda := rest, curSeq := sq }) hr _
  rw [step_move hp ha, ← hat]
  exact stepSeq_run (s := { s with agenda := rest }) hr hact hst hout hdbg

theorem step_hart {h : Nat} {x : Word} {i : Instr} (ha : s.agenda = .hart h :: rest) (hw : (s.hart h).wait = none)
    (ho : s.hartOut h = false) (hx : s.hartWord (s.hart h) = .ok x) (hi : decodeXlan x = some i) :
    step s = exec i { s with agenda := rest, curHart := h } := by
  rw [step_move hp ha]
  exact stepHart_run (s := { s with agenda := rest }) hw ho hx hi

theorem step_hart_rv {h : Nat} {x : Word} (ha : s.agenda = .hart h :: rest) (hw : (s.hart h).wait = none)
    (ho : s.hartOut h = false) (hx : s.hartWord (s.hart h) = .ok x) (hi : decodeXlan x = none) :
    step s = .next (State.rvStep { s with agenda := rest } h x) := by
  rw [step_move hp ha]
  exact stepHart_rv (s := { s with agenda := rest }) hw ho hx hi

theorem step_stream {rn : Nat} {r : Region} {i : Install} {bs : List Byte} (ha : s.agenda = .stream rn :: rest)
    (hr : s.region? rn = some r) (hi : r.inst = some i) (hc : i.byCfg = false) (hh : s.isHeld i.xl.part (.cfg rn) = false)
    (hb : vread s.mem i.xl (i.va.toNat + 4 * i.next) 4 = .ok bs) :
    step s = exec (decodeStream i.esc (BitVec.ofNat 32 (leNat bs))) { s with agenda := rest, curReg := rn } := by
  rw [step_move hp ha]
  refine stepStream_run (s := { s with agenda := rest }) ?_
  have hword : ({ s with agenda := rest } : State).streamWord rn i = .ok (BitVec.ofNat 32 (leNat bs)) := by
    rw [State.streamWord, hc]
    exact congrArg (Except.map _) hb
  have hheld : ({ s with agenda := rest } : State).isHeld (r.cfgPart i) (.cfg rn) = false := by
    rw [Region.cfgPart, hc]
    exact hh
  rw [State.streamFetch, show ({ s with agenda := rest } : State).region? rn = some r from hr]
  dsimp only
  rw [hi]
  dsimp only
  rw [hc, hheld, hword]
  rfl

theorem step_event {i : Instr} (ha : s.agenda = .ev i :: rest) (he : isEvent i = true) (hw : WellFormed i = true) :
    step s = exec i { s with agenda := rest } := by
  rw [step_move hp ha]
  exact stepEvent_run he hw

theorem step_no_event {i : Instr} (ha : s.agenda = .ev i :: rest) (h : isEvent i = false ∨ WellFormed i = false) :
    step s = .next { s with agenda := rest } := by
  rw [step_move hp ha]
  show stepEvent i _ = _
  rw [stepEvent, if_neg]
  rintro hi
  obtain ⟨he, hw⟩ := Bool.and_eq_true_iff.1 hi
  rcases h with h | h
  · rw [h] at he; cases he
  · rw [h] at hw; cases hw

end

/-- Settles O4: each agent by its move, and each stated word of RISC-V by its opcode. -/
theorem stepRunsDecoded : Obligations.StepRunsDecoded := by
  unfold Obligations.StepRunsDecoded
  refine ⟨fun s rest sq r x hp ha hr hact hst hout hdbg hpc hx => ?word, fun s rest sq r hp ha hr hact hst hout hdbg hpc => ?badpc,
    fun s rest h bs i hp ha hw ho h2 h4 hi => step_hart hp ha hw ho (State.hartWord_four h2 h4) hi,
    fun s rest rn r i bs hp ha hr hi hc hh hb => step_stream hp ha hr hi hc hh hb,
    fun s rest i hp ha he hw => step_event hp ha he hw, fun s rest i hp ha h => step_no_event hp ha h,
    fun s rest h bs hp ha hw ho h2 h4 hi => step_hart_rv hp ha hw ho (State.hartWord_four h2 h4) hi,
    fun s rest h bs hp ha hw ho h2 hb => ?short, fun s h x => ?words⟩
  case word => rw [step_seq hp ha hr hact hst hout hdbg, Region.instr_word hpc hx]
  case badpc => rw [step_seq hp ha hr hact hst hout hdbg, Region.instr_badpc hpc]
  case short =>
    refine step_hart_rv hp ha hw ho (State.hartWord_two h2 hb) (decodeXlan_none ?_)
    rw [BitVec.toNat_ofNat]
    omega
  case words =>
    exact ⟨s.rvStep_fence h, s.rvStep_addi h, fun hop hf h7 => s.rvStep_op h hop (rvAlu_add hop hf h7),
      fun hop hf h7 => s.rvStep_op h hop (rvAlu_sub hop hf h7), fun hop hf => ⟨rvImmB x, rvImmB_toInt x, s.rvStep_beq h hop hf⟩,
      fun hop hf hw ho => (exec_lanternLoadStore hw ho _ _).trans (congrArg _ (s.rvStep_loadDword h hop hf).symm),
      fun hx => hx ▸ s.rvStep_ecall h, fun hx => hx ▸ s.rvStep_cnop h, fun hx => hx ▸ s.rvStep_caddi h⟩

end Sys2Proof.Machine
end

section
/-! PROOF. Beats pass through delay lines, switches, express lanes and seams (O47). -/

namespace Sys2Proof.Machine

open Sys2Proof Sys2Proof.Config

/-! ### Delivery at the end of a route (R375) -/

section
variable (s : State) (rn : Nat) (r : Region) (tile p l src : Nat) (b : Beat)

/-- A route delivers to its own tile alone. -/
theorem State.tile_deliverTo_other {n : Nat} (hn : n ≠ tile) : (s.deliverTo rn r tile p l src b).tile n = s.tile n := by
  unfold State.deliverTo
  dsimp only
  split
  · exact s.tile_setTile_other _ hn
  · split
    · exact s.tile_setTile_other _ hn
    · split
      · simp only [State.tile, State.modRegion_tiles, State.modPort_tiles]
      · split
        · exact s.tile_setTile_other _ hn
        · rfl

/-- What it changes of that tile: its lane registers where the route leads to an output port. -/
theorem State.deliverTo_lane (hp : p < 4) : (s.deliverTo rn r tile p l src b).tile tile =
    { s.tile tile with lanes := (s.tile tile).lanes.put (laneKey p l) { src := src, beat := b } } := by
  rw [State.deliverTo, if_pos hp]
  exact s.tile_setTile_same _ _

/-- An input, where it leads to one. -/
theorem State.deliverTo_input (hp : 4 ≤ p) (hd : r.inEnd tile l src < 4) :
    (s.deliverTo rn r tile p l src b).tile tile = (s.tile tile).arrive (r.inEnd tile l src) b := by
  rw [State.deliverTo, if_neg (by omega), if_pos hd]
  exact s.tile_setTile_same _ _

/-- And neither where it leads elsewhere. -/
theorem State.deliverTo_elsewhere (hp : 4 ≤ p) (hd : 4 ≤ r.inEnd tile l src) :
    ((s.deliverTo rn r tile p l src b).tile tile).lanes = (s.tile tile).lanes ∧
    ((s.deliverTo rn r tile p l src b).tile tile).arr = (s.tile tile).arr := by
  unfold State.deliverTo
  rw [if_neg (by omega), if_neg (by omega)]
  split
  · simp only [State.tile, State.modRegion_tiles, State.modPort_tiles, and_self]
  · split
    · rw [State.tile_setTile_same]
      exact ⟨rfl, rfl⟩
    · exact ⟨rfl, rfl⟩

/-- A lane register that holds the beat keeps it through every delivery of that beat. -/
theorem State.deliverTo_keeps_lane {k : Nat} (h : (s.tile tile).lanes.find k = some { src := src, beat := b }) :
    ((s.deliverTo rn r tile p l src b).tile tile).lanes.find k = some { src := src, beat := b } := by
  rcases Nat.lt_or_ge p 4 with hp | hp
  · rw [s.deliverTo_lane rn r tile p l src b hp]
    by_cases hk : k = laneKey p l
    · rw [hk]; exact Tbl.find_put_same _ _ _
    · rw [← h]; exact Tbl.find_put_other _ _ hk
  · rcases Nat.lt_or_ge (r.inEnd tile l src) 4 with hd | hd
    · rw [s.deliverTo_input rn r tile p l src b hp hd]; exact h
    · rw [(s.deliverTo_elsewhere rn r tile p l src b hp hd).1]; exact h

/-- The beats that have arrived at the inputs stay, and the inputs are as many. -/
theorem State.deliverTo_keeps_arr :
    ((s.deliverTo rn r tile p l src b).tile tile).arr.length = (s.tile tile).arr.length ∧
    ∀ c, b ∈ nth (s.tile tile).arr c [] → b ∈ nth ((s.deliverTo rn r tile p l src b).tile tile).arr c [] := by
  rcases Nat.lt_or_ge p 4 with hp | hp
  · rw [s.deliverTo_lane rn r tile p l src b hp]
    exact ⟨rfl, fun _ h => h⟩
  · rcases Nat.lt_or_ge (r.inEnd tile l src) 4 with hd | hd
    · rw [s.deliverTo_input rn r tile p l src b hp hd]
      refine ⟨List.length_set, fun c h => ?_⟩
      unfold Tile.arrive
      dsimp only
      by_cases hc : r.inEnd tile l src = c
      · by_cases hlen : r.inEnd tile l src < (s.tile tile).arr.length
        · rw [← hc, nth_set_same hlen]
          exact List.mem_append_right _ (List.mem_singleton_self b)
        · rw [List.set_eq_of_length_le (by omega)]
          exact h
      · rw [nth_set_other _ hc]
        exact h
    · rw [(s.deliverTo_elsewhere rn r tile p l src b hp hd).2]
      exact ⟨rfl, fun _ h => h⟩

end

/-- What a step of a fold over a list makes, and every step keeps, holds after the fold. -/
theorem foldl_makes {α β : Type} {f : β → α → β} {P Q : β → Prop} {x : α} (hQ : ∀ s y, Q s → Q (f s y))
    (hP : ∀ s y, P s → P (f s y)) (hx : ∀ s, Q s → P (f s x)) {l : List α} (hl : x ∈ l) {s : β} (hs : Q s) : P (l.foldl f s) := by
  have keeps : ∀ (l : List α) (s : β), P s → P (l.foldl f s) := fun l => by
    induction l with
    | nil => exact fun _ h => h
    | cons y l ih => exact fun s h => ih _ (hP s y h)
  induction l generalizing s with
  | nil => cases hl
  | cons y l ih =>
    rcases List.mem_cons.1 hl with rfl | hl
    · exact keeps l _ (hx s hs)
    · exact ih hl (hQ s y hs)

/-! ### Fan-out (R375) -/

section
variable {s z : State} {rn : Nat} {r : Region} {tile q m src : Nat} {b : Beat}

/-- A beat leaves where every route that names it takes it. -/
theorem State.fanOut_isSome_iff : (s.fanOut rn r tile q m src b).isSome = true ↔
    r.covers tile = true ∧ s.lostAt tile = false ∧ (s.tile tile).routesFrom q m ≠ [] ∧
    ∀ x ∈ (s.tile tile).routesFrom q m, s.accepts rn r tile x.1 x.2 src = true := by
  unfold State.fanOut
  dsimp only
  rw [← List.all_eq_true, ← List.isEmpty_eq_false_iff]
  cases r.covers tile <;> cases s.lostAt tile <;> cases ((s.tile tile).routesFrom q m).isEmpty <;>
    cases ((s.tile tile).routesFrom q m).all fun x => s.accepts rn r tile x.1 x.2 src <;> simp

/-- What a beat that leaves has done: a delivery for each route. -/
theorem State.fanOut_some (h : s.fanOut rn r tile q m src b = some z) :
    z = ((s.tile tile).routesFrom q m).foldl (fun s x => s.deliverTo rn r tile x.1 x.2 src b) s := by
  unfold State.fanOut at h
  dsimp only at h
  split at h
  · cases h
  · exact (Option.some.inj h).symm

theorem State.fanOut_tile_other (h : s.fanOut rn r tile q m src b = some z) {n : Nat} (hn : n ≠ tile) : z.tile n = s.tile n := by
  have hfold : ∀ (rs : List (Nat × Nat)) (t : State),
      (rs.foldl (fun s x => s.deliverTo rn r tile x.1 x.2 src b) t).tile n = t.tile n := fun rs => by
    induction rs with
    | nil => exact fun _ => rfl
    | cons x rs ih => exact fun t => (ih _).trans (t.tile_deliverTo_other rn r tile x.1 x.2 src b hn)
  rw [State.fanOut_some h, hfold]

theorem State.fanOut_lane (h : s.fanOut rn r tile q m src b = some z) {x : Nat × Nat} (hx : x ∈ (s.tile tile).routesFrom q m)
    (hp : x.1 < 4) : (z.tile tile).lanes.find (2 * x.1 + x.2) = some { src := src, beat := b } := by
  rw [State.fanOut_some h]
  refine foldl_makes (Q := fun _ => True) (P := fun t : State => (t.tile tile).lanes.find (2 * x.1 + x.2) = some { src := src, beat := b })
    (fun _ _ h => h) (fun t y h => t.deliverTo_keeps_lane rn r tile y.1 y.2 src b h) (fun t _ => ?_) hx trivial
  rw [t.deliverTo_lane rn r tile x.1 x.2 src b hp]
  exact Tbl.find_put_same _ _ _

theorem State.fanOut_arr (h : s.fanOut rn r tile q m src b = some z) {x : Nat × Nat} (hx : x ∈ (s.tile tile).routesFrom q m)
    (hp : 4 ≤ x.1) (hd : r.inEnd tile x.2 src < 4) (hl : (s.tile tile).arr.length = 4) :
    b ∈ nth (z.tile tile).arr (r.inEnd tile x.2 src) [] := by
  rw [State.fanOut_some h]
  refine foldl_makes (Q := fun t : State => (t.tile tile).arr.length = 4)
    (P := fun t : State => b ∈ nth (t.tile tile).arr (r.inEnd tile x.2 src) [])
    (fun t y h => (t.deliverTo_keeps_arr rn r tile y.1 y.2 src b).1.trans h)
    (fun t y h => (t.deliverTo_keeps_arr rn r tile y.1 y.2 src b).2 _ h) (fun t ht => ?_) hx hl
  rw [t.deliverTo_input rn r tile x.1 x.2 src b hp hd]
  unfold Tile.arrive
  dsimp only
  rw [nth_set_same (by omega)]
  exact List.mem_append_right _ (List.mem_singleton_self b)

end

/-! ### Delay lines (R240) -/

theorem Tile.setStage_dly_length (t : Tile) (o k : Nat) (v : Option Beat) : (t.setStage o k v).dly.length = t.dly.length := List.length_set

section
variable {t : Tile} {o : Nat} (ho : o < t.dly.length) (k : Nat)
include ho

/-- The stages of a delay line after one of them is changed. -/
theorem Tile.stage?_setStage (v : Option Beat) (j : Nat) : (t.setStage o k v).stage? o j = if j = k then v else t.stage? o j := by
  unfold Tile.setStage Tile.stage?
  dsimp only
  rw [nth_set_same ho]
  by_cases hj : j < max (k + 1) (nth t.dly o []).length
  · rw [nth, List.getElem?_map, List.getElem?_range hj]
    rfl
  · rw [nth, List.getElem?_eq_none (by rw [List.length_map, List.length_range]; omega), if_neg (by omega), nth,
      List.getElem?_eq_none (by omega)]

/-- The stages of a delay line after a beat has come to one of them. -/
theorem Tile.stage?_enterStage (b : Beat) (j : Nat) : (t.enterStage o k b).stage? o j = if j = k then some b else t.stage? o j :=
  Tile.stage?_setStage ho k (some b) j

end

/-! ### BEAT_TRANSFER (R240, R375) -/

section
variable {s z : State} {tile rn : Nat} {r : Region} (hr : s.liveRegion tile = some (rn, r))
include hr

theorem exec_beatTransfer_outFifo (ch : Nat) : exec (.beatTransfer tile (.outFifo ch)) s = .next (s.moveOut rn r tile ch) := by
  show execBeatTransfer tile (.outFifo ch) s = _
  rw [execBeatTransfer, hr]

theorem exec_beatTransfer_delay (ch k : Nat) : exec (.beatTransfer tile (.delay ch k)) s = .next (s.moveDelay rn r tile ch k) := by
  show execBeatTransfer tile (.delay ch k) s = _
  rw [execBeatTransfer, hr]

theorem exec_beatTransfer_laneReg (p l : Nat) : exec (.beatTransfer tile (.laneReg p l)) s = .next (s.moveLane rn r tile p l) := by
  show execBeatTransfer tile (.laneReg p l) s = _
  rw [execBeatTransfer, hr]

theorem exec_outFifo_empty {ch : Nat} (hf : nth (s.tile tile).outF ch [] = []) :
    exec (.beatTransfer tile (.outFifo ch)) s = .next s := by
  rw [exec_beatTransfer_outFifo hr, State.moveOut, hf]

section
variable {ch : Nat} {b : Beat} {rest : List Beat} (hf : nth (s.tile tile).outF ch [] = b :: rest)
include hf

/-- The beat of an output FIFO with no delay line goes onto the routes, or stays. -/
theorem exec_outFifo_direct (hd : (s.tile tile).dlen (isCt tile) ch = 0) :
    (s.fanOut rn r tile 4 (r.outLane tile ch) (16 * tile + ch) b = none → exec (.beatTransfer tile (.outFifo ch)) s = .next s) ∧
    (∀ z, s.fanOut rn r tile 4 (r.outLane tile ch) (16 * tile + ch) b = some z → exec (.beatTransfer tile (.outFifo ch)) s =
      .next (z.modTile tile fun u => { u with outF := u.outF.set ch rest, gone := u.gone.set ch (nth u.gone ch 0 + 1) })) := by
  rw [exec_beatTransfer_outFifo hr, State.moveOut, hf]
  dsimp only
  rw [if_pos hd, State.launchBeat]
  exact ⟨fun h => by rw [h], fun z h => by rw [h]⟩

/-- With a delay line it waits for the first stage. -/
theorem exec_outFifo_waits (hd : (s.tile tile).dlen (isCt tile) ch ≠ 0) (hs : (s.tile tile).stage? ch 0 ≠ none) :
    exec (.beatTransfer tile (.outFifo ch)) s = .next s := by
  rw [exec_beatTransfer_outFifo hr, State.moveOut, hf]
  dsimp only
  rw [if_neg hd, if_neg (by rwa [Option.isNone_iff_eq_none])]

/-- And enters it when it is empty. -/
theorem exec_outFifo_enters (hd : (s.tile tile).dlen (isCt tile) ch ≠ 0) (hs : (s.tile tile).stage? ch 0 = none)
    (hc : ch < (s.tile tile).dly.length) : ∃ z : State, exec (.beatTransfer tile (.outFifo ch)) s = .next z ∧
      (z.tile tile).outF = (s.tile tile).outF.set ch rest ∧
      (z.tile tile).gone = (s.tile tile).gone.set ch (nth (s.tile tile).gone ch 0 + 1) ∧
      (z.tile tile).stage? ch 0 = some b ∧ (∀ k, k ≠ 0 → (z.tile tile).stage? ch k = (s.tile tile).stage? ch k) := by
  rw [exec_beatTransfer_outFifo hr, State.moveOut, hf]
  dsimp only
  rw [if_neg hd, if_pos (by rw [hs]; rfl)]
  refine ⟨_, rfl, ?_⟩
  rw [State.tile_setTile_same]
  refine ⟨rfl, rfl, ?_, fun k hk => ?_⟩
  · exact (Tile.stage?_enterStage (t := { s.tile tile with
      outF := (s.tile tile).outF.set ch rest, gone := (s.tile tile).gone.set ch (nth (s.tile tile).gone ch 0 + 1) }) hc 0 b 0).trans (if_pos rfl)
  · exact (Tile.stage?_enterStage (t := { s.tile tile with
      outF := (s.tile tile).outF.set ch rest, gone := (s.tile tile).gone.set ch (nth (s.tile tile).gone ch 0 + 1) }) hc 0 b k).trans (if_neg hk)

end

/-- A beat that has come to its stage in this cycle stays (R240). -/
theorem exec_delay_came {ch k : Nat} (hc : (ch, k) ∈ (s.tile tile).came) : exec (.beatTransfer tile (.delay ch k)) s = .next s := by
  rw [exec_beatTransfer_delay hr, State.moveDelay]
  split
  · rfl
  · rw [if_pos (List.contains_iff_mem.2 hc)]

section
variable {ch k : Nat} {b : Beat} (hb : (s.tile tile).stage? ch k = some b) (hc : (ch, k) ∉ (s.tile tile).came)
include hb hc

theorem exec_delay_waits (hk : k + 1 < (s.tile tile).dlen (isCt tile) ch) (hs : (s.tile tile).stage? ch (k + 1) ≠ none) :
    exec (.beatTransfer tile (.delay ch k)) s = .next s := by
  rw [exec_beatTransfer_delay hr, State.moveDelay, hb]
  dsimp only
  rw [if_neg (mt List.contains_iff_mem.1 hc), if_pos hk, if_neg (by rwa [Option.isNone_iff_eq_none])]

theorem exec_delay_moves (hk : k + 1 < (s.tile tile).dlen (isCt tile) ch) (hs : (s.tile tile).stage? ch (k + 1) = none)
    (hl : ch < (s.tile tile).dly.length) : ∃ z : State, exec (.beatTransfer tile (.delay ch k)) s = .next z ∧
      (z.tile tile).stage? ch k = none ∧ (z.tile tile).stage? ch (k + 1) = some b ∧
      ∀ j, j ≠ k → j ≠ k + 1 → (z.tile tile).stage? ch j = (s.tile tile).stage? ch j := by
  rw [exec_beatTransfer_delay hr, State.moveDelay, hb]
  dsimp only
  rw [if_neg (mt List.contains_iff_mem.1 hc), if_pos hk, if_pos (by rw [hs]; rfl)]
  have hstage : ∀ j, (((s.tile tile).setStage ch k none).enterStage ch (k + 1) b).stage? ch j =
      if j = k + 1 then some b else if j = k then none else (s.tile tile).stage? ch j := fun j => by
    rw [Tile.stage?_enterStage (by rw [Tile.setStage_dly_length]; exact hl), Tile.stage?_setStage hl]
  refine ⟨_, rfl, ?_⟩
  rw [State.tile_setTile_same]
  refine ⟨?_, ?_, fun j hj hj' => ?_⟩
  · rw [hstage, if_neg (by omega), if_pos rfl]
  · rw [hstage, if_pos rfl]
  · rw [hstage, if_neg hj', if_neg hj]

/-- The beat of the last stage goes onto the routes, or stays. -/
theorem exec_delay_last (hk : (s.tile tile).dlen (isCt tile) ch ≤ k + 1) :
    (s.fanOut rn r tile 4 (r.outLane tile ch) (16 * tile + ch) b = none → exec (.beatTransfer tile (.delay ch k)) s = .next s) ∧
    (∀ z, s.fanOut rn r tile 4 (r.outLane tile ch) (16 * tile + ch) b = some z →
      exec (.beatTransfer tile (.delay ch k)) s = .next (z.modTile tile fun u => u.setStage ch k none)) := by
  rw [exec_beatTransfer_delay hr, State.moveDelay, hb]
  dsimp only
  rw [if_neg (mt List.contains_iff_mem.1 hc), if_neg (by omega), State.launchBeat]
  exact ⟨fun h => by rw [h], fun z h => by rw [h]⟩

end

/-- The beat of a lane register passes the next switch, or stays; one that crosses a seam ends the lane's failures in a row (R15). -/
theorem exec_laneReg {p l n : Nat} {h : Hop} (hh : (s.tile tile).lanes.find (2 * p + l) = some h) (hn : neighbour tile p = some n) :
    (s.fanOut rn r n (facing p) l h.src h.beat = none → exec (.beatTransfer tile (.laneReg p l)) s = .next s) ∧
    (∀ z, s.fanOut rn r n (facing p) l h.src h.beat = some z → ∃ y : State, exec (.beatTransfer tile (.laneReg p l)) s = .next y ∧
      y.tile tile = { z.tile tile with lanes := (z.tile tile).lanes.del (2 * p + l) } ∧ (∀ j, j ≠ tile → y.tile j = z.tile j) ∧
      y.seamFails = (if chipOf tile = chipOf n then z.seamFails else z.seamFails.del (seamLaneNo (4 * tile + p) l))) := by
  rw [exec_beatTransfer_laneReg hr, State.moveLane, laneKey, hh, hn]
  dsimp only
  refine ⟨fun hz => by rw [hz], fun z hz => ?_⟩
  rw [hz]
  dsimp only
  refine ⟨_, rfl, ?_⟩
  split
  · exact ⟨State.tile_setTile_same _ _ _, fun j hj => State.tile_setTile_other _ _ hj, rfl⟩
  · exact ⟨State.tile_setTile_same _ _ _, fun j hj => State.tile_setTile_other _ _ hj, rfl⟩

end

/-! ### Express lanes (R376) -/

section
variable {s : State} {tile rn j slot : Nat} {r : Region} {h : Hop} {rest : List Hop} (hr : s.liveRegion tile = some (rn, r))
  (hb : (s.tile tile).xBuf j slot = h :: rest)
include hr hb

theorem exec_express_disabled (he : (s.tile tile).xEn j = false) : exec (.expressLaneTransfer tile j slot) s = .next s := by
  show execExpressLaneTransfer tile j slot s = _
  rw [execExpressLaneTransfer, hr]
  dsimp only
  rw [hb]
  dsimp only
  rw [he]
  rfl

/-- A beat of a leaving attachment goes onto the routes. -/
theorem exec_express_leaves {z : State} (he : (s.tile tile).xEn j = true) (hd : (s.tile tile).xDir j = 1)
    (hz : s.fanOut rn r tile 4 (r.outLane tile (8 + j)) h.src h.beat = some z) : exec (.expressLaneTransfer tile j slot) s =
      .next (z.modTile tile fun u => { u with xbuf := u.xbuf.put (4 * j + slot) rest }) := by
  show execExpressLaneTransfer tile j slot s = _
  rw [execExpressLaneTransfer, hr]
  dsimp only
  rw [hb]
  dsimp only
  rw [he, hd, hz]
  rfl

section
variable (he : (s.tile tile).xEn j = true) (hd : (s.tile tile).xDir j = 0)
include he hd

/-- A beat of an entering attachment stays where its way is lost or leads to no attachment of its context. -/
theorem exec_express_no_way (hx : r.covers (exitTile tile j ((s.tile tile).xExit j)) = false ∨
    (∃ n ∈ (expressPath tile j (exitTile tile j ((s.tile tile).xExit j))).1, s.lostAt n = true) ∨
    (s.tile (exitTile tile j ((s.tile tile).xExit j))).xLeave j ((s.tile tile).xSlot j slot).2 = none) :
    exec (.expressLaneTransfer tile j slot) s = .next s := by
  show execExpressLaneTransfer tile j slot s = _
  rw [execExpressLaneTransfer, hr]
  dsimp only
  rw [hb]
  dsimp only
  rw [he, hd, if_neg (by decide), if_neg (by decide)]
  split
  · rfl
  · next hway =>
    rw [Bool.or_eq_true, not_or, Bool.not_eq_true', List.any_eq_true] at hway
    obtain ⟨hcov, hlost⟩ := hway
    rcases hx with hx | hx | hx
    · exact absurd hx hcov
    · exact absurd hx hlost
    · rw [hx]

variable (hcov : r.covers (exitTile tile j ((s.tile tile).xExit j)) = true)
  (hway : ∀ n ∈ (expressPath tile j (exitTile tile j ((s.tile tile).xExit j))).1, s.lostAt n = false) {k : Nat}
  (hk : (s.tile (exitTile tile j ((s.tile tile).xExit j))).xLeave j ((s.tile tile).xSlot j slot).2 = some k)
include hcov hway hk

theorem exec_express_travels : exec (.expressLaneTransfer tile j slot) s = .next
    (let x := exitTile tile j ((s.tile tile).xExit j)
     if ((s.tile x).xBuf j k).length < 2 then
       { (s.modTile x fun u => { u with xbuf := u.xbuf.put (4 * j + k) (u.xBuf j k ++ [h]) }).modTile tile
           (fun u => { u with xbuf := u.xbuf.put (4 * j + slot) rest }) with
         seamFails := (expressSeams (expressPath tile j x) j).foldl (fun l k => l.del k) s.seamFails }
     else s) := by
  have hpass : (!r.covers (exitTile tile j ((s.tile tile).xExit j)) ||
      (expressPath tile j (exitTile tile j ((s.tile tile).xExit j))).1.any s.lostAt) = false := by
    rw [hcov, Bool.not_true, Bool.false_or, List.any_eq_false]
    exact fun n hn => by rw [hway n hn]; decide
  show execExpressLaneTransfer tile j slot s = _
  rw [execExpressLaneTransfer, hr]
  dsimp only
  rw [hb]
  dsimp only
  rw [he, hd, if_neg (by decide), if_neg (by decide), hpass, if_neg (by decide), hk]
  rfl

end

end

/-! ### Seams (R15, R433) -/

/-- A retry below the eighth failure in a row is counted. -/
theorem exec_seamRetry_counts (s : State) (seam lane rn : Nat) (hn : s.seamFails.get (seamLaneNo seam lane) 0 + 1 < 8) :
    exec (.seamBeatRetry seam lane rn) s = .next { s.modCount 0 with
      seamFails := s.seamFails.put (seamLaneNo seam lane) (s.seamFails.get (seamLaneNo seam lane) 0 + 1) } := by
  show execSeamBeatRetry seam lane rn s = _
  rw [execSeamBeatRetry]
  dsimp only
  rw [if_pos hn]
  rfl

/-- The eighth retires the lane and freezes the region. -/
theorem exec_seamRetry_retires (s : State) (seam lane rn : Nat) (hn : 8 ≤ s.seamFails.get (seamLaneNo seam lane) 0 + 1) :
    exec (.seamBeatRetry seam lane rn) s = .next
      ((State.modCount { s.modCount 0 with
          seamFails := s.seamFails.del (seamLaneNo seam lane)
          seamRetired := if s.seamRetired.contains (seamLaneNo seam lane) then s.seamRetired else s.seamRetired ++ [seamLaneNo seam lane] }
        1).faultFreeze rn 4 (FaultRec.of fUELINK 4)) := by
  show execSeamBeatRetry seam lane rn s = _
  rw [execSeamBeatRetry]
  dsimp only
  rw [if_neg (by omega)]
  rfl

/-- Settles O47: a tile's place by its relative number alone, a fan-out by its deliveries, and each event by the branch it takes. -/
theorem beatsPass : Obligations.BeatsPass := by
  unfold Obligations.BeatsPass
  refine ⟨fun r r' n n' code l src src' => ?place, fun s rn r tile q m src b => ⟨State.fanOut_isSome_iff, fun z hz =>
      ⟨fun n hn => State.fanOut_tile_other hz hn, fun x hx hp => State.fanOut_lane hz hx hp, fun x hx hp hd hl =>
        State.fanOut_arr hz hx hp hd hl⟩⟩,
    fun s tile rn r hr => ⟨fun ch hf => exec_outFifo_empty hr hf, fun ch b rest hf =>
        ⟨exec_outFifo_direct hr hf, fun hd => ⟨exec_outFifo_waits hr hf hd, exec_outFifo_enters hr hf hd⟩⟩,
      fun ch k hc => exec_delay_came hr hc, fun ch k b hb hl hc => ⟨exec_delay_waits hr hb hc, fun hk hs => exec_delay_moves hr hb hc hk hs hl,
        exec_delay_last hr hb hc⟩, fun p l h n hh hn => exec_laneReg hr hh hn, fun j slot h rest hb => ?express⟩,
    fun s seam lane rn => ?seams⟩
  case place =>
    intro rel hn hs hm
    refine ⟨congrArg (fun k => localOut k code % 2) hn, ?_⟩
    show localIn (rel r n) l (16 * rel r (src / 16) + src % 16) % 16 = localIn (rel r' n') l (16 * rel r' (src' / 16) + src' % 16) % 16
    rw [hn, hs, hm]
  case express =>
    intro xw exit ctx path left step
    refine ⟨fun he => exec_express_disabled hr hb he, fun he hd z hz => exec_express_leaves hr hb he hd hz,
      fun he hd hx => exec_express_no_way hr hb he hd hx, fun he hd hcov hway k hk => ⟨fun hl => ?_, fun hl => ?_⟩⟩
    · exact (exec_express_travels hr hb he hd hcov hway hk).trans (congrArg _ (if_neg (by exact Nat.not_lt.2 hl)))
    · exact (exec_express_travels hr hb he hd hcov hway hk).trans (congrArg _ (if_pos hl))
  case seams =>
    intro k n
    refine ⟨fun hn => ⟨_, exec_seamRetry_counts s seam lane rn hn, Tbl.get_put_same _ _ _ _, rfl, rfl⟩,
      fun hn => ⟨_, exec_seamRetry_retires s seam lane rn hn, rfl, ?_, rfl, rfl⟩⟩
    show k ∈ if s.seamRetired.contains k then s.seamRetired else s.seamRetired ++ [k]
    split
    · next hk => exact List.contains_iff_mem.1 hk
    · exact List.mem_append_right _ (List.mem_singleton_self k)

end Sys2Proof.Machine
end

section
/-! PROOF. The trim engine, and TRIM of a sequencer (O52). -/

namespace Sys2Proof.Machine

open Sys2Proof Sys2Proof.Config

/-! ### The candidates dropped (R329) -/

/-- One token stands no later than another in the order of dropping. -/
def Tok.upTo (a b : Tok) : Prop := a.ctr < b.ctr ∨ (a.ctr = b.ctr ∧ a.pos ≤ b.pos)

theorem Tok.upTo_trans {a b c : Tok} (h : a.upTo b) (h' : b.upTo c) : a.upTo c := by
  unfold Tok.upTo at *
  omega

theorem Tok.upTo_of_before {a b : Tok} (h : a.before b = true) : a.upTo b := by
  simp only [Tok.before, Bool.or_eq_true, Bool.and_eq_true, decide_eq_true_eq, beq_iff_eq] at h
  unfold Tok.upTo
  omega

theorem Tok.upTo_of_not_before {a b : Tok} (h : ¬ a.before b = true) : b.upTo a := by
  simp only [Tok.before, Bool.or_eq_true, Bool.and_eq_true, decide_eq_true_eq, beq_iff_eq] at h
  unfold Tok.upTo
  omega

theorem insertTok_perm (a : Tok) (l : List Tok) : (insertTok a l).Perm (a :: l) := by
  induction l with
  | nil => exact .refl _
  | cons b t ih =>
    unfold insertTok
    split
    · exact .refl _
    · exact (ih.cons b).trans (.swap a b t)

theorem insertTok_sorted (a : Tok) {l : List Tok} (h : l.Pairwise Tok.upTo) : (insertTok a l).Pairwise Tok.upTo := by
  induction l with
  | nil => exact List.pairwise_singleton _ _
  | cons b t ih =>
    obtain ⟨hb, ht⟩ := List.pairwise_cons.1 h
    unfold insertTok
    split
    · next hab =>
      have hab := Tok.upTo_of_before hab
      refine List.pairwise_cons.2 ⟨fun c hc => ?_, h⟩
      rcases List.mem_cons.1 hc with rfl | hc
      · exact hab
      · exact Tok.upTo_trans hab (hb c hc)
    · next hab =>
      refine List.pairwise_cons.2 ⟨fun c hc => ?_, ih ht⟩
      rcases List.mem_cons.1 ((insertTok_perm a t).mem_iff.1 hc) with rfl | hc
      · exact Tok.upTo_of_not_before hab
      · exact hb c hc

/-- The candidates in order of dropping. -/
theorem sortToks_perm (l : List Tok) : (l.foldr insertTok []).Perm l := by
  induction l with
  | nil => exact .refl _
  | cons a l ih => exact (insertTok_perm a _).trans (ih.cons a)

theorem sortToks_sorted (l : List Tok) : (l.foldr insertTok []).Pairwise Tok.upTo := by
  induction l with
  | nil => exact .nil
  | cons a l ih => exact insertTok_sorted a ih

/-- With a limit of tokens, as many candidates are dropped as are above it. -/
theorem trimDropped_length {c : TrimCmd} (ts : List Tok) (hm : c.mode = 0) :
    (trimDropped c ts).length = min (ts.length - c.limit) (trimCands c ts).length := by
  unfold trimDropped
  rw [if_pos hm, List.length_take, (sortToks_perm _).length_eq, Nat.min_assoc, Nat.min_self]

theorem trimDropped_mem {c : TrimCmd} {ts : List Tok} {x : Tok} (h : x ∈ trimDropped c ts) : x ∈ trimCands c ts := by
  unfold trimDropped at h
  split at h
  · exact (sortToks_perm _).mem_iff.1 (List.mem_of_mem_take h)
  · exact List.mem_of_mem_filter h

/-- And none that stays comes before one of them. -/
theorem trimDropped_upTo {c : TrimCmd} {ts : List Tok} (hm : c.mode = 0) {x y : Tok} (hx : x ∈ trimDropped c ts)
    (hy : y ∈ trimCands c ts) (hn : y ∉ trimDropped c ts) : x.upTo y := by
  unfold trimDropped at hx hn
  rw [if_pos hm] at hx hn
  generalize min (ts.length - c.limit) (trimCands c ts).length = n at hx hn
  have hs := sortToks_sorted (trimCands c ts)
  have hy := (sortToks_perm _).mem_iff.2 hy
  rw [← List.take_append_drop n ((trimCands c ts).foldr insertTok [])] at hs hy
  exact (List.pairwise_append.1 hs).2.2 x hx y ((List.mem_append.1 hy).resolve_left hn)

/-- With a threshold, those below it. -/
theorem mem_trimDropped_threshold {c : TrimCmd} {ts : List Tok} (hm : c.mode ≠ 0) (x : Tok) :
    x ∈ trimDropped c ts ↔ x ∈ trimCands c ts ∧ x.ctr < c.limit := by
  unfold trimDropped
  rw [if_neg hm, List.mem_filter, decide_eq_true_eq]

/-! ### A trim that waits, fails or ends (R329-R331, R346) -/

section
variable {s : State} {p i : Nat} {t : Trim}

theorem State.trimWaits_free (f : State → State) (hh : (s.part p).held.find? (fun h => h.who == .trim p i) = none) :
    s.trimWaits p i t f = f s := by
  rw [State.trimWaits, hh]

/-- An access that has reached the freeze limit ends its trim with PGFLT; another leaves it to wait (R331). -/
theorem State.trimWaits_held (f : State → State) {h : Held} (hh : (s.part p).held.find? (fun h => h.who == .trim p i) = some h) :
    s.trimWaits p i t f = if (s.part p).freezeLimit ≤ h.age then (s.loseSpares p t).trimFail p i t ePGFLT else s := by
  rw [State.trimWaits, hh]

/-- A trim that has not ended before ends with an error. -/
theorem State.trimFail_running (he : t.ended = none) (code : Nat) :
    s.trimFail p i t code = s.trimEnd p i t (trimCmd t.cmd).result code (trimWord0 code 0 0) 0 := by
  rw [State.trimFail, he]

section
variable {result st : Nat} {w0 w1 : Dword} (h0 : result ≠ 0) (h16 : result % 16 = 0)
include h0 h16

theorem State.trimResult_written {m : Memory}
    (hw : vwrite s.mem (s.queueXlate p t.q) result (leBytes w0.toNat 8 ++ leBytes w1.toNat 8) = .ok m) :
    s.trimResult p i t result st w0 w1 = { s with mem := m }.trimLeave p i t st w0 := by
  rw [State.trimResult, if_neg (by simp [h0, h16]), hw]

theorem State.trimResult_withheld {o : Nat} {f : XFault}
    (hw : vwrite s.mem (s.queueXlate p t.q) result (leBytes w0.toNat 8 ++ leBytes w1.toNat 8) = .error (o, f)) :
    ∃ y : State, s.trimResult p i t result st w0 w1 = y.withholdEngine p 4096 (.trim p i) f true (result + o) t.stack ∧
      y = { s with parts := y.parts } := by
  rw [State.trimResult, if_neg (by simp [h0, h16]), hw]
  exact ⟨_, rfl, rfl⟩

end

/-! ### The request of a trim (R329) -/

theorem State.trimRequest_bad (he : t.ended = none) (hc : trimCmdOk t.cmd = false) :
    s.trimRequest p i t = s.trimEnd p i t (trimCmd t.cmd).result eBADARG (trimWord0 eBADARG 0 0) 0 := by
  rw [State.trimRequest]
  dsimp only
  rw [hc]
  exact State.trimFail_running he _

section
variable (hc : trimCmdOk t.cmd = true)
include hc

theorem State.trimRequest_busy (hb : s.trimEngineBusy (s.trimStack p (s.queueXlate p t.q) (trimCmd t.cmd)).1 = true) :
    s.trimRequest p i t = s := by
  rw [State.trimRequest]
  dsimp only
  rw [hc, hb]
  rfl

/-- With its engine free and its spares in order, a trim requests its object. -/
theorem State.trimRequest_asks {hs : List Nat}
    (hb : s.trimEngineBusy (s.trimStack p (s.queueXlate p t.q) (trimCmd t.cmd)).1 = false)
    (hsp : s.trimSpares p (s.queueXlate p t.q) (trimCmd t.cmd) = .ok hs) :
    s.trimRequest p i t =
      (let k := s.trimStack p (s.queueXlate p t.q) (trimCmd t.cmd)
       let t := { t with so := some (w (trimCmd t.cmd).so), stack := some k.1 }
       match k.2.soAcq p (trimCmd t.cmd).so (.trim i) true false 0 (.trim i) with
       | (.err e, s) => s.trimFail p i t e
       | (.queued, s) => s.modPart p fun P => { P with trims := P.trims.put i t }
       | (.granted, s) => s.modPart p fun P => { P with trims := P.trims.put i { t with granted := true } }) := by
  rw [State.trimRequest]
  dsimp only
  rw [hc, hb, hsp]
  rfl

end

/-- A popped trim reads its command block: a fault withholds it. -/
theorem State.trimBegin_fault (hh : (s.part p).held.find? (fun h => h.who == .trim p i) = none) (hc : t.cmd = []) {o : Nat} {f : XFault}
    (hb : vread s.mem (s.queueXlate p t.q) t.cont.code.toNat 64 = .error (o, f)) :
    s.trimBegin p i t = s.withholdEngine p 4096 (.trim p i) f false (t.cont.code.toNat + o) t.stack := by
  rw [State.trimBegin, State.trimWaits_free _ hh, hc, tread, hb]
  rfl

theorem State.trimBegin_read (hh : (s.part p).held.find? (fun h => h.who == .trim p i) = none) (hc : t.cmd = []) {b : List Byte}
    (hb : vread s.mem (s.queueXlate p t.q) t.cont.code.toNat 64 = .ok b) :
    s.trimBegin p i t = (s.modPart p fun P => { P with trims := P.trims.put i { t with cmd := b } }).trimRequest p i { t with cmd := b } := by
  rw [State.trimBegin, State.trimWaits_free _ hh, hc, tread, hb]
  rfl

end

/-! ### TRIM_POP (R129, R134, R329) -/

/-- A trim of a record popped from a queue. -/
def Trim.ofRec (q : Nat) (r : QRec) : Trim :=
  { q := q, cont := r.cont, num := r.trim, cmd := [], so := none, granted := false, fail := none, stack := none, ended := none }

/-- The state with a TRIM record popped, its queue being Q then. -/
def State.trimPopped (s : State) (p q : Nat) (r : QRec) (Q : Queue) : State :=
  s.modPart p fun P =>
    { P with queues := P.queues.put q Q, trimNo := (s.part p).trimNo + 1, trims := P.trims.put (s.part p).trimNo (Trim.ofRec q r) }

theorem State.trimPopped_held (s : State) (p q : Nat) (r : QRec) (Q : Queue) : ((s.trimPopped p q r Q).part p).held = (s.part p).held := by
  unfold State.trimPopped State.modPart
  rw [State.part_setPart_same]

section
variable {s : State} {p q : Nat}
  (hnew : (s.part p).trims.find? (fun x => x.2.q == q && x.2.so.isNone && x.2.fail.isNone && x.2.ended.isNone) = none)
include hnew

/-- Nothing is popped above the quota of running trims. -/
theorem exec_trimPop_quota (hq : (s.part p).quota 11 ≤ (s.part p).trims.length) : exec (.trimPop p q) s = .next s := by
  show execTrimPop p q s = _
  unfold execTrimPop
  dsimp only
  rw [hnew]
  exact congrArg _ (if_pos hq)

variable (hq : (s.part p).trims.length < (s.part p).quota 11)
include hq

theorem exec_trimPop_noQueue (hf : (s.part p).queues.find q = none) : exec (.trimPop p q) s = .next s := by
  show execTrimPop p q s = _
  unfold execTrimPop
  dsimp only
  rw [hnew]
  dsimp only
  rw [if_neg (by omega), hf]

theorem exec_trimPop_empty {Q : Queue} (hf : (s.part p).queues.find q = some Q)
    (hp : Q.pop (fun r => r.cont.kind == kTRIM) (fun _ => false) = none) : exec (.trimPop p q) s = .next s := by
  show execTrimPop p q s = _
  unfold execTrimPop
  dsimp only
  rw [hnew]
  dsimp only
  rw [if_neg (by omega), hf]
  dsimp only
  rw [hp]

/-- A record popped begins as a trim. -/
theorem exec_trimPop_begins {Q Q' : Queue} {r : QRec} {n : Nat} (hf : (s.part p).queues.find q = some Q)
    (hp : Q.pop (fun r => r.cont.kind == kTRIM) (fun _ => false) = some (r, n, Q')) :
    exec (.trimPop p q) s = .next ((s.trimPopped p q r Q').trimBegin p (s.part p).trimNo (Trim.ofRec q r)) := by
  show execTrimPop p q s = _
  unfold execTrimPop
  dsimp only
  rw [hnew]
  dsimp only
  rw [if_neg (by omega), hf]
  dsimp only
  rw [hp]
  rfl

end

/-! ### TRIM_EXECUTE (R329-R331, R346, R422, R426) -/

theorem exec_trimExecute_none {s : State} {p i : Nat} (hf : (s.part p).trims.find i = none) : exec (.trimExecute p i) s = .next s := by
  show execTrimExecute p i s = _
  rw [execTrimExecute, hf]

section
variable {s : State} {p i : Nat} {t : Trim} (hf : (s.part p).trims.find i = some t)
include hf

/-- One that waits for the page of its result goes on to write it. -/
theorem exec_trimExecute_ended {st : Nat} {w0 w1 : Dword} (he : t.ended = some (st, w0, w1))
    (hh : (s.part p).held.find? (fun h => h.who == .trim p i) = none) :
    exec (.trimExecute p i) s = .next (s.trimResult p i t (trimCmd t.cmd).result st w0 w1) := by
  show execTrimExecute p i s = _
  rw [execTrimExecute, hf]
  dsimp only
  rw [he]
  exact congrArg _ (State.trimWaits_free _ hh)

variable (he : t.ended = none)
include he

theorem exec_trimExecute_failed {e : Nat} (hfl : t.fail = some e) : exec (.trimExecute p i) s =
    .next (s.trimEnd p i t (trimCmd t.cmd).result e (trimWord0 e 0 0) 0) := by
  show execTrimExecute p i s = _
  rw [execTrimExecute, hf]
  dsimp only
  rw [he, hfl]
  exact congrArg _ (State.trimFail_running he e)

variable (hfl : t.fail = none)
include hfl

theorem exec_trimExecute_asked (hg : t.granted = false) : exec (.trimExecute p i) s = .next s := by
  show execTrimExecute p i s = _
  rw [execTrimExecute, hf]
  dsimp only
  rw [he, hfl, hg]
  rfl

variable (hg : t.granted = true)
include hg

theorem exec_trimExecute_revoked (hn : hSlot (t.so.getD 0).toNat ∉ (s.part p).heldBy (.trim i)) : exec (.trimExecute p i) s =
    .next ((s.loseSpares p t).trimEnd p i t (trimCmd t.cmd).result eREVOKED (trimWord0 eREVOKED 0 0) 0) := by
  show execTrimExecute p i s = _
  rw [execTrimExecute, hf]
  dsimp only
  rw [he, hfl, hg]
  dsimp only
  rw [if_neg (by decide), if_pos (by simpa using hn)]
  exact congrArg _ (State.trimFail_running he _)

variable (hs : hSlot (t.so.getD 0).toNat ∈ (s.part p).heldBy (.trim i))
include hs

theorem exec_trimExecute_held {h : Held} (hh : (s.part p).held.find? (fun h => h.who == .trim p i) = some h) :
    exec (.trimExecute p i) s = .next (if (s.part p).freezeLimit ≤ h.age then
      (s.loseSpares p t).trimEnd p i t (trimCmd t.cmd).result ePGFLT (trimWord0 ePGFLT 0 0) 0 else s) := by
  show execTrimExecute p i s = _
  rw [execTrimExecute, hf]
  dsimp only
  rw [he, hfl, hg]
  dsimp only
  rw [if_neg (by decide), if_neg (by simpa using hs), State.trimWaits_held _ hh, State.trimFail_running he]

section
variable (hh : (s.part p).held.find? (fun h => h.who == .trim p i) = none)
include hh

/-- A command that cannot run stops. -/
theorem exec_trimExecute_stops {e : TrimStop} (hr : s.trimRun p (s.queueXlate p t.q) (trimCmd t.cmd) = .error e) :
    exec (.trimExecute p i) s = .next (s.trimStop p i t e) := by
  show execTrimExecute p i s = _
  rw [execTrimExecute, hf]
  dsimp only
  rw [he, hfl, hg]
  dsimp only
  rw [if_neg (by decide), if_neg (by simpa using hs), State.trimWaits_free _ hh, hr]

variable {r : TrimDone} (hr : s.trimRun p (s.queueXlate p t.q) (trimCmd t.cmd) = .ok r)
include hr

theorem exec_trimExecute_pinned (hp : ∃ h ∈ r.freed, s.attnPinned p i h = true) : exec (.trimExecute p i) s = .next s := by
  show execTrimExecute p i s = _
  rw [execTrimExecute, hf]
  dsimp only
  rw [he, hfl, hg]
  dsimp only
  rw [if_neg (by decide), if_neg (by simpa using hs), State.trimWaits_free _ hh, hr]
  dsimp only
  rw [if_pos (List.any_eq_true.2 hp)]

/-- The command runs: its commit is journalled, its old pages are freed, and it ends. -/
theorem exec_trimExecute_runs (hp : ∀ h ∈ r.freed, s.attnPinned p i h = false) :
    ∃ y : State, y = { s with mem := r.mem, journal := y.journal } ∧
      y.journal = s.journal ++ (match r.commit with | some (table, gen) => [.trim p (w table) gen] | none => []) ∧
      exec (.trimExecute p i) s = .next (State.trimEndAs (r.freed.foldl (fun z h => z.freeAttn p (s.queueXlate p t.q) h) y) p i t
        (trimCmd t.cmd).result
        (if (s.trimReads p t ++ s.trimWrites p t r).any (fun x => s.granLost (x.1 / 65536)) then stDATALOST else stOK)
        (trimWord0 0 r.kept r.dropped) (trimWord1 r.used r.freed.length)) := by
  refine ⟨{ s with
    mem := r.mem, journal := s.journal ++ (match r.commit with | some (table, gen) => [.trim p (w table) gen] | none => []) }, rfl, rfl, ?_⟩
  show execTrimExecute p i s = _
  rw [execTrimExecute, hf]
  dsimp only
  rw [he, hfl, hg]
  dsimp only
  rw [if_neg (by decide), if_neg (by simpa using hs), State.trimWaits_free _ hh, hr]
  dsimp only
  rw [if_neg (by rw [List.any_eq_true]; rintro ⟨h, hm, ht⟩; rw [hp h hm] at ht; cases ht)]
  cases r.commit with
  | none => rw [List.append_nil]
  | some c => rfl

end

end

/-! ### TRIM of a sequencer (R229) -/

@[simp] theorem State.setRegion_setRegion (s : State) (n : Nat) (x y : Region) : (s.setRegion n x).setRegion n y = s.setRegion n y := by
  simp only [State.setRegion, Tbl.put_put]

/-- The region whose sequencer has made a push and goes on past its word as q. -/
def Region.pushed (r : Region) (q : Seq) : Region := { r with pushIdx := r.pushIdx + 1, seq := { q with pc := r.seq.pc + 4 } }

theorem State.modSeq_pushed {s : State} {r : Region} {n : Nat} (hr : s.region? n = some r) (q : Seq → Seq)
    (hq : (q r.seq).pc = r.seq.pc + 4) :
    (s.modRegion n fun g => { g with pushIdx := g.pushIdx + 1 }).modSeq n q = s.setRegion n (r.pushed (q r.seq)) := by
  rw [State.modRegion_eq hr, State.modSeq_eq (State.region?_setRegion_same _ _ _), State.setRegion_setRegion, Region.pushed, ← hq]

/-- The token of a refused push: its status over no bytes. -/
theorem tokenWord_no_bytes (st : Nat) : tokenWord st 0 = BitVec.ofNat 64 (st * 2 ^ 48) := by
  rw [tokenWord, Nat.zero_mod, Nat.add_zero, w]

/-- A token in answer to a push: journalled and received. -/
theorem State.seqPushed_eq {s : State} {r : Region} (hr : s.region? s.curSeq = some r) (d : Reg) (v : Dword) : s.seqPushed d v =
    { s.setRegion s.curSeq (r.pushed (r.seq.set d v)) with journal := s.journal ++ [.result r.period r.pushIdx v] } := by
  rw [State.seqPushed, hr]
  dsimp only
  rw [State.seqResult, State.modRegion_curSeq]
  exact State.modSeq_pushed (s := { s with journal := s.journal ++ [.result r.period r.pushIdx v] }) hr
    (fun q => { q.set d v with pc := q.pc + 4 }) rfl

/-- A TRIM that has not been made before is made. -/
theorem exec_trim_now {s : State} {r : Region} {d : Reg} {a b : Src} (hr : s.region? s.curSeq = some r) (hi : r.mayIssue [a, b] (some d))
    (ht : s.trimPushed r.period r.pushIdx = none) (hj : s.journalled r.period r.pushIdx = none) :
    exec (.trim d a b) s = .next (s.trimNow d a b r) := by
  show execTrim d a b s = _
  rw [execTrim, State.issue_ok _ hr hi, ht, hj]

/-- The priority of the record that a region's TRIM pushes, and the record. -/
def Region.trimPrio (r : Region) : Nat := match r.run with | some c => c.prio | none => 0
def Region.trimCont (r : Region) (a : Src) : Cont := trimRec (r.src a) r.trimPrio

section
variable {s : State} {r : Region} {d : Reg} {a b : Src}

theorem State.trimNow_stale (hc : (s.part r.part).current tblQueue (r.src b).toNat = false) :
    s.trimNow d a b r = s.seqPushed d (tokenWord eSTALE 0) := by
  rw [State.trimNow]
  dsimp only
  rw [hc]
  rfl

variable (hc : (s.part r.part).current tblQueue (r.src b).toNat = true)
include hc

theorem State.trimNow_badRecord (ho : s.recOk r.part (r.trimCont a) = false) :
    s.trimNow d a b r = s.seqPushed d (tokenWord eBADREC 0) := by
  show (if !(s.part r.part).current tblQueue (r.src b).toNat then _ else if !s.recOk r.part (r.trimCont a) then _
    else if !(s.part r.part).room (hSlot (r.src b).toNat - 1) r.trimPrio 1 0 then _ else _) = _
  rw [hc, ho]
  rfl

variable (ho : s.recOk r.part (r.trimCont a) = true)
include ho

theorem State.trimNow_full (hm : (s.part r.part).room (hSlot (r.src b).toNat - 1) r.trimPrio 1 0 = false) :
    s.trimNow d a b r = s.seqPushed d (tokenWord eQFULL 0) := by
  show (if !(s.part r.part).current tblQueue (r.src b).toNat then _ else if !s.recOk r.part (r.trimCont a) then _
    else if !(s.part r.part).room (hSlot (r.src b).toNat - 1) r.trimPrio 1 0 then _ else _) = _
  rw [hc, ho, hm]
  rfl

/-- The state with the record of a TRIM pushed last into queue n, which is Q before, and journalled. -/
def State.trimRecorded (s : State) (r : Region) (a : Src) (n : Nat) (Q : Queue) : State :=
  { s.setPart r.part { s.part r.part with
      trimNo := (s.part r.part).trimNo + 1
      queues := (s.part r.part).queues.put n
        (Q.add { cont := (r.trimCont a).tagged r.iidx 0, rsv := false, period := none, trim := some (s.part r.part).trimNo }) } with
    journal := s.journal ++ [.push r.part n ((r.trimCont a).tagged r.iidx 0) (some (r.period, r.pushIdx)),
      .trimPush r.period r.pushIdx (s.part r.part).trimNo] }

/-- A TRIM pushed leaves its register empty until the command ends. -/
theorem State.trimNow_pushes (hr : s.region? s.curSeq = some r)
    (hm : (s.part r.part).room (hSlot (r.src b).toNat - 1) r.trimPrio 1 0 = true) {Q : Queue}
    (hq : (s.part r.part).queues.find (hSlot (r.src b).toNat - 1) = some Q) :
    s.trimNow d a b r = (s.trimRecorded r a (hSlot (r.src b).toNat - 1) Q).setRegion s.curSeq
      (r.pushed { r.seq.clear d with trims := r.seq.trims ++ [((s.part r.part).trimNo, d)] }) := by
  show (if !(s.part r.part).current tblQueue (r.src b).toNat then _ else if !s.recOk r.part (r.trimCont a) then _
    else if !(s.part r.part).room (hSlot (r.src b).toNat - 1) r.trimPrio 1 0 then _ else _) = _
  rw [hc, ho, hm, if_neg (by decide), if_neg (by decide), if_neg (by decide)]
  dsimp only
  rw [State.modRegion_curSeq]
  simp only [State.modPart, hq]
  exact State.modSeq_pushed (s := s.trimRecorded r a (hSlot (r.src b).toNat - 1) Q) hr
    (fun q => { q.clear d with trims := q.trims ++ [((s.part r.part).trimNo, d)], pc := q.pc + 4 }) rfl

end

/-- Settles O52: a popped record by what its block and its spares are, a trim by the branch it takes, its victims by the order of dropping,
and TRIM by the answer to its push. -/
theorem trimRuns : Obligations.TrimRuns := by
  unfold Obligations.TrimRuns
  refine ⟨fun s p q => ?pop, fun s p i hf => exec_trimExecute_none hf, fun s p i t hf => ?execute, fun c ts => ?dropped,
    fun s d a b r hr hi ht hj => ?trim⟩
  case pop =>
    intro P hnew
    refine ⟨exec_trimPop_quota hnew, exec_trimPop_noQueue hnew, fun Q hq hf => ⟨exec_trimPop_empty hnew hq hf, ?_⟩⟩
    intro r n Q' hp i t y hh
    have hrun : exec (.trimPop p q) s = .next (y.trimBegin p i t) := exec_trimPop_begins hnew hq hf hp
    have hh : (y.part p).held.find? (fun h => h.who == .trim p i) = none := by
      rw [show (y.part p).held = P.held from s.trimPopped_held p q r Q']
      exact hh
    refine ⟨fun o f hb => hrun.trans (congrArg _ (State.trimBegin_fault hh rfl hb)), fun b hb => ?_⟩
    have hrun := hrun.trans (congrArg _ (State.trimBegin_read hh rfl hb))
    refine ⟨fun hc => hrun.trans (congrArg _ (State.trimRequest_bad rfl hc)), fun hc hbusy =>
      hrun.trans (congrArg _ (State.trimRequest_busy hc hbusy)), fun hs hc hbusy hsp => ?_⟩
    have hrun := hrun.trans (congrArg _ (State.trimRequest_asks hc hbusy hsp))
    intro a t'
    have hpair : (y.modPart p fun P => { P with trims := P.trims.put i { t with cmd := b } }).trimStack p
      ((y.modPart p fun P => { P with trims := P.trims.put i { t with cmd := b } }).queueXlate p q) (trimCmd b) |>.2.soAcq p (trimCmd b).so
      (.trim i) true false 0 (.trim i) = (a.1, a.2) := rfl
    refine ⟨fun e ha => hrun.trans (congrArg _ ?_), fun ha => hrun.trans (congrArg _ ?_), fun ha => hrun.trans (congrArg _ ?_)⟩
    · dsimp only
      rw [hpair, ha]
      exact State.trimFail_running rfl e
    · dsimp only
      rw [hpair, ha]
    · dsimp only
      rw [hpair, ha]
  case execute =>
    intro c ends held
    refine ⟨fun st w0 w1 he hh h0 h16 => ?_, fun he => ⟨fun e hfl => exec_trimExecute_failed hf he hfl, fun hfl hg =>
      exec_trimExecute_asked hf he hfl hg, fun hfl hg hn => exec_trimExecute_revoked hf he hfl hg hn, fun h hfl hg hs hh => ?_,
      fun hfl hg hs hh => ⟨fun e hr => ?_, fun f wr va hr => ?_, fun r hr hp => exec_trimExecute_pinned hf he hfl hg hs hh hr hp,
        fun r hr hp => exec_trimExecute_runs hf he hfl hg hs hh hr hp⟩⟩⟩
    · have hrun := exec_trimExecute_ended hf he hh
      refine ⟨fun m hw => hrun.trans (congrArg _ (State.trimResult_written h0 h16 hw)), fun o f hw => ?_⟩
      obtain ⟨y, hy, hparts⟩ := State.trimResult_withheld (st := st) h0 h16 hw
      exact ⟨y, hrun.trans (congrArg _ hy), hparts⟩
    · have hrun := exec_trimExecute_held hf he hfl hg hs hh
      exact ⟨fun hage => hrun.trans (congrArg _ (if_pos hage)), fun hage => hrun.trans (congrArg _ (if_neg (Nat.not_le.2 hage)))⟩
    · exact (exec_trimExecute_stops hf he hfl hg hs hh hr).trans (congrArg _ (State.trimFail_running he e))
    · exact exec_trimExecute_stops hf he hfl hg hs hh hr
  case dropped =>
    exact ⟨fun x => trimDropped_mem, fun hm => ⟨trimDropped_length ts hm, fun x hx y hy hn => trimDropped_upTo hm hx hy hn⟩,
      fun hm x => mem_trimDropped_threshold hm x⟩
  case trim =>
    intro qh P prio c moved token
    have hrun := exec_trim_now hr hi ht hj
    have htoken : ∀ e : Nat, s.trimNow d a b r = s.seqPushed d (tokenWord e 0) → token e := fun e he => by
      rw [tokenWord_no_bytes] at he
      exact hrun.trans (congrArg _ (he.trans (State.seqPushed_eq hr d _)))
    refine ⟨fun hc => htoken 1 (State.trimNow_stale hc), fun hc ho => htoken 3 (State.trimNow_badRecord hc ho),
      fun hc ho hm => htoken 2 (State.trimNow_full hc ho hm), fun Q hc ho hm hq => hrun.trans (congrArg _ (State.trimNow_pushes hc ho hr hm hq))⟩

end Sys2Proof.Machine
end

section
/-! PROOF. The collective engines (O58). -/

namespace Sys2Proof.Machine

open Sys2Proof Sys2Proof.Config

/-! ### The collectives of a chiplet -/

/-- A list set is the one read under its own key, and under no other. -/
theorem State.collOf_setColl (s : State) (p chip q ch : Nat) (l : List Coll) :
    (s.setColl p chip l).collOf q ch = if collKey q ch = collKey p chip then l else s.collOf q ch := by
  show Tbl.get (if l.isEmpty then s.colls.del (collKey p chip) else s.colls.put (collKey p chip) l) (collKey q ch) [] = _
  unfold State.collOf Tbl.get
  by_cases hk : collKey q ch = collKey p chip
  · rw [if_pos hk, hk]
    cases l with
    | nil => simp
    | cons c t => simp
  · rw [if_neg hk]
    cases l with
    | nil => simp [Tbl.find_del_other _ hk]
    | cons c t => simp [Tbl.find_put_other _ _ hk]

theorem State.collOf_setColl_same (s : State) (p chip : Nat) (l : List Coll) : (s.setColl p chip l).collOf p chip = l := by
  rw [State.collOf_setColl, if_pos rfl]

theorem State.collOf_congr (s : State) {p chip q ch : Nat} (h : collKey q ch = collKey p chip) : s.collOf q ch = s.collOf p chip := by
  rw [State.collOf, State.collOf, h]

/-- A command taken is the last of its chiplet's, and its ring's head has passed it. -/
theorem State.takeCmd_collOf (s : State) (p chip : Nat) (b : List Byte) (e : Option (Nat × BitVec 6)) :
    (s.takeCmd p chip b e).collOf p chip = s.collOf p chip ++ [{ cmd := b, age := 0, stuck := false, ended := e }] :=
  State.collOf_setColl_same _ _ _ _

theorem State.takeCmd_collHead (s : State) (p chip : Nat) (b : List Byte) (e : Option (Nat × BitVec 6)) :
    (s.takeCmd p chip b e).collHead.get (16 * p + chip) 0 = s.collHead.get (16 * p + chip) 0 + 1 :=
  Tbl.get_put_same _ _ _ _

/-! ### A step of a chiplet's engines -/

section
variable {s : State} {p chip op : Nat} {peers : List PeerData}

/-- The instruction of an operation is a step of the chiplet on it. -/
theorem exec_collective (hop : op ≤ 3) :
    (if op = 0 then exec (.allreduce p chip peers) s else if op = 1 then exec (.reduce p chip peers) s
      else if op = 2 then exec (.broadcast p chip peers) s else exec (.allgather p chip peers) s) = .next (s.collStep p chip op peers) := by
  interval_cases op <;> rfl

variable (hh : s.collHeld p chip = none)
include hh

theorem State.collStep_oldest {l rest : List Coll} {c : Coll} {t : State}
    (hw : (s.collOf p chip).filter (fun c => c.ended.isNone && cmOp c.cmd == op) = l ++ c :: rest)
    (hl : ∀ x ∈ l, s.collDo p chip x.cmd peers = none) (hc : s.collDo p chip c.cmd peers = some t) : s.collStep p chip op peers = t := by
  rw [State.collStep, hh]
  dsimp only
  rw [List.findSome?_eq_some_iff.2 ⟨l, c, rest, hw, hc, hl⟩]

/-- Where no collective in progress can be carried out, the head of the ring decides. -/
theorem State.collStep_next (hw : ∀ x ∈ (s.collOf p chip).filter (fun c => c.ended.isNone && cmOp c.cmd == op),
    s.collDo p chip x.cmd peers = none) : s.collStep p chip op peers =
    match s.nextCmd p chip with
    | .error f => s.collFault p chip none f false 0
    | .ok none => s
    | .ok (some b) =>
      if cmdOk b && cmOp b == op then ((s.takeCmd p chip b none).collDo p chip b peers).getD (s.takeCmd p chip b none) else s := by
  rw [State.collStep, hh]
  dsimp only
  rw [List.findSome?_eq_none_iff.2 hw] <;> rfl

end

/-! ### The ranks of a group -/

theorem grPod_eq (e : Nat) : grPod e = e % 256 := by simp [grPod, nbits]

section
variable {s : State} {g b : List Byte}

/-- A group that stays within the module lacks no link. -/
theorem State.linkLacks_near (h : ∀ i < grN g, grPod (grEntry g i) = s.podNum) : s.linkLacks g = false := by
  have : (List.range (grN g)).any (fun i => grPod (grEntry g i) != s.podNum) = false := by simpa using h
  rw [State.linkLacks, this, Bool.false_and]

theorem State.linkLacks_allDown (h : ∃ i < grN g, grPod (grEntry g i) ≠ s.podNum) (hd : ∀ x ∈ s.akend, x.2.up = false) :
    s.linkLacks g = true := by
  have hfar : (List.range (grN g)).any (fun i => grPod (grEntry g i) != s.podNum) = true := by simpa using h
  have hdown : s.akend.any (fun a => a.2.up) = false := by
    rw [List.any_eq_false]
    exact fun x hx => by simp [hd x hx]
  rw [State.linkLacks, hfar, hdown]
  rfl

theorem State.linkLacks_allUp (hu : ∃ x ∈ s.akend, x.2.up = true) (h : ∀ q < 32, cabled q = true → (s.ak q).up = true) :
    s.linkLacks g = false := by
  have hup : s.akend.any (fun a => a.2.up) = true := List.any_eq_true.2 hu
  have hnone : (List.range numAkend).any (fun q => cabled q && !(s.ak q).up) = false := by
    rw [List.any_eq_false]
    intro q hq
    have := h q (List.mem_range.1 hq)
    simpa using this
  rw [State.linkLacks, hup, hnone]
  simp

/-- The ranks of other modules that have failed. -/
theorem peerFailed_none {pod : Nat} {peers : List PeerData}
    (h : ∀ y ∈ peers, y.rank < grN g → grPod (grEntry g y.rank) ≠ pod → y.status = 0) : peerFailed g pod peers = none := by
  rw [peerFailed, Option.map_eq_none_iff, List.find?_eq_none]
  intro y hy ht
  simp only [Bool.and_eq_true, decide_eq_true_eq, bne_iff_ne] at ht
  obtain ⟨⟨hr, hp⟩, hs⟩ := ht
  exact hs (h y hy hr hp)

theorem peerFailed_first {pod : Nat} {l rest : List PeerData} {x : PeerData}
    (hl : ∀ y ∈ l, y.rank < grN g → grPod (grEntry g y.rank) ≠ pod → y.status = 0) (hr : x.rank < grN g)
    (hp : grPod (grEntry g x.rank) ≠ pod) (hs : x.status ≠ 0) : peerFailed g pod (l ++ x :: rest) = some (x.status % 65536) := by
  have hfind : (l ++ x :: rest).find? (fun x => decide (x.rank < grN g) && grPod (grEntry g x.rank) != pod && x.status != 0) = some x := by
    refine List.find?_eq_some_iff_append.2 ⟨by simp [hr, hp, hs], l, rest, rfl, fun y hy => ?_⟩
    have := hl y hy
    simp only [Bool.not_eq_true', Bool.and_eq_false_iff, decide_eq_false_iff_not, bne_eq_false_iff_eq]
    tauto
  rw [peerFailed, hfind]
  rfl

/-- What a rank has matched a command with: a collective in progress of the same SEQNO and group, of that rank. -/
theorem State.localRank_some {e i : Nat} {c : Coll} (h : s.localRank g b e i = some c) :
    c.ended = none ∧ cmSeqno c.cmd = cmSeqno b ∧ cmRank c.cmd = i ∧ s.readGroup (grPart e) (cmGroup c.cmd) = .ok g := by
  have ht := List.find?_some h
  simp only [Bool.and_eq_true, Option.isNone_iff_eq_none, beq_iff_eq] at ht
  obtain ⟨⟨⟨he, hs⟩, hr⟩, hg⟩ := ht
  refine ⟨he, hs, hr, ?_⟩
  cases hx : s.readGroup (grPart e) (cmGroup c.cmd) with
  | error f => simp [hx, Except.toOption] at hg
  | ok y => simpa [hx, Except.toOption] using hg

end

/-! ### Collectives that end -/

/-- From one state to another collectives in progress have ended with a status, and nothing else has changed. -/
def State.EndsTo (code : Nat) (s z : State) : Prop :=
  z = { s with colls := z.colls } ∧ ∀ q ch, ∃ h : Coll → Coll, z.collOf q ch = (s.collOf q ch).map h ∧
    ∀ c, h c = c ∨ (c.ended = none ∧ h c = { c with ended := some (code, 0) })

/-- No collective of a command is in progress on a chiplet. -/
def State.NoneOf (s : State) (q ch : Nat) (b : List Byte) : Prop := ∀ c ∈ s.collOf q ch, c.cmd = b → c.ended ≠ none

theorem State.EndsTo.refl (code : Nat) (s : State) : s.EndsTo code s :=
  ⟨rfl, fun _ _ => ⟨id, (List.map_id _).symm, fun _ => .inl rfl⟩⟩

theorem State.EndsTo.trans {code : Nat} {s t z : State} (h : s.EndsTo code t) (h' : t.EndsTo code z) : s.EndsTo code z := by
  obtain ⟨ht, hc⟩ := h
  obtain ⟨hz, hc'⟩ := h'
  refine ⟨?_, fun q ch => ?_⟩
  · rw [ht] at hz
    exact hz
  · obtain ⟨f, hf, hf'⟩ := hc q ch
    obtain ⟨k, hk, hk'⟩ := hc' q ch
    refine ⟨k ∘ f, by rw [hk, hf, List.map_map], fun c => ?_⟩
    rcases hf' c with h1 | ⟨h0, h1⟩
    · rw [Function.comp_apply, h1]
      exact hk' c
    · rcases hk' (f c) with h2 | ⟨h2, -⟩
      · exact .inr ⟨h0, h2.trans h1⟩
      · rw [h1] at h2
        exact absurd h2 (by simp)

/-- What has ended stays ended. -/
theorem State.EndsTo.noneOf {code : Nat} {s z : State} {q ch : Nat} {b : List Byte} (h : s.EndsTo code z) (hn : s.NoneOf q ch b) :
    z.NoneOf q ch b := by
  obtain ⟨-, hc⟩ := h
  obtain ⟨f, hf, hf'⟩ := hc q ch
  intro d hd hcmd
  rw [hf, List.mem_map] at hd
  obtain ⟨c, hmem, rfl⟩ := hd
  rcases hf' c with h1 | ⟨-, h1⟩
  · rw [h1] at hcmd ⊢
    exact hn c hmem hcmd
  · simp [h1]

section
variable {s : State} {p chip code : Nat} {is : Coll → Bool}

/-- A collective that a test picks ends. -/
def Coll.endWhere (is : Coll → Bool) (code : Nat) (c : Coll) : Coll := if c.ended.isNone && is c then { c with ended := some (code, 0) } else c

theorem Coll.endWhere_or (is : Coll → Bool) (code : Nat) (c : Coll) :
    (c.endWhere is code = c ∧ (c.ended = none → is c = false)) ∨
      (c.ended = none ∧ is c = true ∧ c.endWhere is code = { c with ended := some (code, 0) }) := by
  unfold Coll.endWhere
  split
  · next h => simp_all
  · next h => simp_all

theorem State.collOf_endColl (s : State) (p chip q ch : Nat) (is : Coll → Bool) (code : Nat) :
    (s.endColl p chip is code 0).collOf q ch =
      if collKey q ch = collKey p chip then (s.collOf q ch).map (Coll.endWhere is code) else s.collOf q ch := by
  rw [State.endColl, State.collOf_setColl]
  split
  · next hk => rw [State.collOf_congr s hk]; rfl
  · rfl

theorem State.endsTo_endColl (s : State) (p chip : Nat) (is : Coll → Bool) (code : Nat) : s.EndsTo code (s.endColl p chip is code 0) := by
  refine ⟨rfl, fun q ch => ?_⟩
  rw [State.collOf_endColl]
  split
  · refine ⟨_, rfl, fun c => ?_⟩
    rcases c.endWhere_or is code with ⟨h, -⟩ | ⟨h0, -, h⟩
    · exact .inl h
    · exact .inr ⟨h0, h⟩
  · exact ⟨id, (List.map_id _).symm, fun c => .inl rfl⟩

theorem State.noneOf_endColl (s : State) {p chip q ch : Nat} (b : List Byte) (code : Nat) (hk : collKey q ch = collKey p chip) :
    (s.endColl p chip (fun c => c.cmd == b) code 0).NoneOf q ch b := by
  intro d hd hb
  rw [State.collOf_endColl, if_pos hk, List.mem_map] at hd
  obtain ⟨c, -, rfl⟩ := hd
  rcases c.endWhere_or (fun c => c.cmd == b) code with ⟨h, hn⟩ | ⟨-, -, h⟩
  · rw [h] at hb ⊢
    intro he
    simpa [hb] using hn he
  · simp [h]

/-- A rank's match stands where it is not itself what ends. -/
theorem State.localRank_endColl {g b : List Byte} {e i : Nat} {c : Coll} (h : s.localRank g b e i = some c)
    (hc : collKey (grPart e) (grChip e) = collKey p chip → is c = false) :
    (s.endColl p chip is code 0).localRank g b e i = some c := by
  have hsame : ∀ q a, (s.endColl p chip is code 0).readGroup q a = s.readGroup q a := fun q a => rfl
  unfold State.localRank at h ⊢
  simp only [hsame]
  rw [State.collOf_endColl]
  split
  · next hk =>
    obtain ⟨ht, l, r, hl, hn⟩ := List.find?_eq_some_iff_append.1 h
    have hcc : c.endWhere is code = c := by
      rcases c.endWhere_or is code with ⟨h1, -⟩ | ⟨-, h1, -⟩
      · exact h1
      · rw [hc hk] at h1
        cases h1
    refine List.find?_eq_some_iff_append.2 ⟨ht, l.map (Coll.endWhere is code), r.map (Coll.endWhere is code), ?_, fun x hx => ?_⟩
    · rw [hl, List.map_append, List.map_cons, hcc]
    · obtain ⟨y, hy, rfl⟩ := List.mem_map.1 hx
      rcases y.endWhere_or is code with ⟨h1, -⟩ | ⟨-, -, h1⟩
      · rw [h1]
        exact hn y hy
      · simp [h1]
  · exact h

/-- One rank of a group that has matched ends. -/
def State.endRank (s : State) (g b : List Byte) (code : Nat) (t : State) (i : Nat) : State :=
  match s.localRank g b (grEntry g i) i with
  | some c => t.endColl (grPart (grEntry g i)) (grChip (grEntry g i)) (fun y => y.cmd == c.cmd) code 0
  | none => t

theorem State.endRanks_eq (s : State) (g b : List Byte) (code : Nat) :
    s.endRanks g b code = (List.range (grN g)).foldl (s.endRank g b code) s := rfl

theorem State.endsTo_endRank (s : State) (g b : List Byte) (code : Nat) (t : State) (i : Nat) : t.EndsTo code (s.endRank g b code t i) := by
  unfold State.endRank
  split
  · exact State.endsTo_endColl _ _ _ _ _
  · exact .refl _ _

theorem State.endsTo_foldl_endRank (s : State) (g b : List Byte) (code : Nat) (is : List Nat) (t : State) :
    t.EndsTo code (is.foldl (s.endRank g b code) t) := by
  induction is generalizing t with
  | nil => exact .refl _ _
  | cons i is ih => exact (s.endsTo_endRank g b code t i).trans (ih _)

/-- Every rank that has matched is ended by the time all have been gone through. -/
theorem State.noneOf_foldl_endRank {g b : List Byte} {i : Nat} {c : Coll} (h : s.localRank g b (grEntry g i) i = some c) {is : List Nat}
    (hi : i ∈ is) (t : State) :
    (is.foldl (s.endRank g b code) t).NoneOf (grPart (grEntry g i)) (grChip (grEntry g i)) c.cmd := by
  induction is generalizing t with
  | nil => cases hi
  | cons j is ih =>
    rcases List.mem_cons.1 hi with rfl | hm
    · refine (s.endsTo_foldl_endRank g b code is _).noneOf ?_
      rw [State.endRank, h]
      exact State.noneOf_endColl _ _ _ rfl
    · exact ih hm _

variable {g b : List Byte} (hg : s.readGroup p (cmGroup b) = .ok g)
include hg

theorem State.endAll_eq : s.endAll p chip b code = if inR (grN g) 2 4096 then (s.endColl p chip (fun c => c.cmd == b) code 0).endRanks g b code
    else s.endColl p chip (fun c => c.cmd == b) code 0 := by
  rw [State.endAll, hg]

theorem State.endsTo_endAll : s.EndsTo code (s.endAll p chip b code) := by
  rw [State.endAll_eq hg]
  split
  · exact (State.endsTo_endColl _ _ _ _ _).trans (State.endsTo_foldl_endRank _ _ _ _ _ _)
  · exact State.endsTo_endColl _ _ _ _ _

theorem State.endAll_noneOf : (s.endAll p chip b code).NoneOf p chip b := by
  rw [State.endAll_eq hg]
  have h : (s.endColl p chip (fun c => c.cmd == b) code 0).NoneOf p chip b := State.noneOf_endColl _ _ _ rfl
  split
  · exact (State.endsTo_foldl_endRank _ _ _ _ _ _).noneOf h
  · exact h

/-- Every rank that has matched ends with a command. -/
theorem State.endAll_matched (h2 : 2 ≤ grN g) (hmax : grN g ≤ 4096) {i : Nat} (hi : i < grN g) {c : Coll}
    (h : s.localRank g b (grEntry g i) i = some c) :
    (s.endAll p chip b code).NoneOf (grPart (grEntry g i)) (grChip (grEntry g i)) c.cmd := by
  rw [State.endAll_eq hg, if_pos (by simp [inR, h2, hmax]), State.endRanks_eq]
  by_cases hown : collKey (grPart (grEntry g i)) (grChip (grEntry g i)) = collKey p chip ∧ c.cmd = b
  · obtain ⟨hk, hb⟩ := hown
    rw [hb]
    exact (State.endsTo_foldl_endRank _ _ _ _ _ _).noneOf (State.noneOf_endColl _ _ _ hk)
  · have hstands : (s.endColl p chip (fun c => c.cmd == b) code 0).localRank g b (grEntry g i) i = some c :=
      State.localRank_endColl h fun hk => beq_false_of_ne fun hb => hown ⟨hk, hb⟩
    exact State.noneOf_foldl_endRank hstands (List.mem_range.2 hi) _

end

/-! ### A collective carried out -/

section
variable {α β : Type}

theorem firstFault_first {l r : List (Except α β)} {a : α} (h : ∀ x ∈ l, ∃ d, x = .ok d) : firstFault (l ++ .error a :: r) = some a := by
  induction l with
  | nil => rfl
  | cons x l ih =>
    obtain ⟨d, rfl⟩ := h x (List.mem_cons_self ..)
    exact ih fun y hy => h y (List.mem_cons_of_mem _ hy)

theorem firstFault_ok (l : List β) : firstFault (l.map (Except.ok (ε := α))) = none := by
  induction l with
  | nil => rfl
  | cons x l ih => exact ih

theorem filterMap_toOption_ok (l : List β) : (l.map (Except.ok (ε := α))).filterMap (·.toOption) = l := by
  rw [List.filterMap_map]
  exact List.filterMap_some

theorem range_split {i n : Nat} (h : i < n) : ∃ r, List.range n = List.range i ++ i :: r := by
  obtain ⟨k, rfl⟩ : ∃ k, n = i + (k + 1) := ⟨n - i - 1, by omega⟩
  exact ⟨_, by rw [List.range_add, List.range_succ_eq_map, List.map_cons, Nat.add_zero]⟩

end

section
variable {s : State} {p chip : Nat} {g b : List Byte} {peers : List PeerData} (hg : s.readGroup p (cmGroup b) = .ok g)
include hg

theorem State.collDo_badGroup (ho : groupOk g b = false) : s.collDo p chip b peers = some (s.endAll p chip b eBADARG) := by
  rw [State.collDo, hg]
  dsimp only
  rw [ho]
  rfl

variable (ho : groupOk g b = true)
include ho

theorem State.collDo_linkDown (hl : s.linkLacks g = true) : s.collDo p chip b peers = some (s.endAll p chip b 0x13) := by
  rw [State.collDo, hg]
  dsimp only
  rw [ho, hl]
  rfl

variable (hl : s.linkLacks g = false)
include hl

theorem State.collDo_peerFailed {code : Nat} (hf : peerFailed g s.podNum peers = some code) :
    s.collDo p chip b peers = some (s.endAll p chip b code) := by
  rw [State.collDo, hg]
  dsimp only
  rw [ho, hl, hf]
  rfl

variable (hf : peerFailed g s.podNum peers = none)
include hf

/-- A collective that nothing has failed, by the data of its ranks. -/
theorem State.collDo_ranks : s.collDo p chip b peers =
    if ((List.range (grN g)).map (s.rankData g b peers)).any (·.isNone) then none
    else some <| match firstFault (((List.range (grN g)).map (s.rankData g b peers)).filterMap id) with
      | some (q, ch, c, f, a) => s.collFault q ch (some c) f false a
      | none =>
        let data := (((List.range (grN g)).map (s.rankData g b peers)).filterMap id).filterMap (·.toOption)
        let red := if cmOp b ≤ 1 then reduceAll b data else ([], 0)
        s.deliver b g data red.1 red.2 (List.range (grN g)) s := by
  rw [State.collDo, hg]
  dsimp only
  rw [ho, hl, hf]
  rfl

theorem State.collDo_waits {i : Nat} (hi : i < grN g) (hd : s.rankData g b peers i = none) : s.collDo p chip b peers = none := by
  rw [State.collDo_ranks hg ho hl hf, if_pos]
  rw [List.any_map, List.any_eq_true]
  exact ⟨i, List.mem_range.2 hi, by simp [hd]⟩

theorem State.collDo_faults {i q ch a : Nat} {c : List Byte} {f : XFault} (hi : i < grN g) (hall : ∀ j < grN g, s.rankData g b peers j ≠ none)
    (hbefore : ∀ j < i, ∃ d, s.rankData g b peers j = some (.ok d)) (hd : s.rankData g b peers i = some (.error (q, ch, c, f, a))) :
    s.collDo p chip b peers = some (s.collFault q ch (some c) f false a) := by
  have hany : ¬ ((List.range (grN g)).map (s.rankData g b peers)).any (·.isNone) = true := by
    simpa [List.any_eq_true, Option.isNone_iff_eq_none] using hall
  have hfault : firstFault (((List.range (grN g)).map (s.rankData g b peers)).filterMap id) = some (q, ch, c, f, a) := by
    obtain ⟨r, hr⟩ := range_split hi
    rw [hr, List.map_append, List.map_cons, List.filterMap_append, hd, List.filterMap_cons_some (f := id) rfl]
    refine firstFault_first fun x hx => ?_
    simp only [List.filterMap_map, List.mem_filterMap, List.mem_range] at hx
    obtain ⟨j, hj, hx⟩ := hx
    obtain ⟨d, hok⟩ := hbefore j hj
    exact ⟨d, Option.some.inj (hx.symm.trans hok)⟩
  rw [State.collDo_ranks hg ho hl hf, if_neg hany, hfault]

theorem State.collDo_delivers {data : List (List Byte)} (hn : data.length = grN g)
    (hd : ∀ i < grN g, s.rankData g b peers i = some (.ok (nth data i []))) :
    s.collDo p chip b peers = some (let red := if cmOp b ≤ 1 then reduceAll b data else ([], 0)
      s.deliver b g data red.1 red.2 (List.range (grN g)) s) := by
  have hds : (List.range (grN g)).map (s.rankData g b peers) = (data.map (Except.ok (ε := Nat × Nat × List Byte × XFault × Nat))).map some := by
    refine List.ext_getElem (by simp [hn]) fun i hi hi' => ?_
    have hlt : i < grN g := by simpa using hi
    simp [hd i hlt, nth, List.getElem?_eq_getElem (hn ▸ hlt : i < data.length)]
  have hvals : ((List.range (grN g)).map (s.rankData g b peers)).filterMap id = data.map Except.ok := by
    rw [hds, List.filterMap_map, Function.id_comp, List.filterMap_some]
  rw [State.collDo_ranks hg ho hl hf, hvals, firstFault_ok, filterMap_toOption_ok, if_neg]
  rw [hds, List.any_map]
  simp

end

/-! ### Commands taken, ended and late -/

section
variable {s : State} {p chip : Nat}

/-- With every engine of a chiplet at work no command of its rings is taken. -/
theorem State.nextCmd_busy (h : 4 ≤ ((List.range 16).map (fun q => (s.collOf q chip).length)).sum) (b : List Byte) :
    s.nextCmd p chip ≠ .ok (some b) := by
  have hbusy : collsPerChip ≤ s.enginesBusy chip := h
  unfold State.nextCmd
  split
  · nofun
  · dsimp only
    split
    · nofun
    · simp [hbusy]

theorem exec_collectiveReservedCode_badForm {b : List Byte} (hh : s.collHeld p chip = none) (hn : s.nextCmd p chip = .ok (some b))
    (hb : cmdOk b = false) : exec (.collectiveReservedCode p chip) s = .next (s.takeCmd p chip b (some (eBADARG, 0))) := by
  show execCollectiveReservedCode p chip s = _
  rw [execCollectiveReservedCode, hh, hn]
  simp [hb]

theorem exec_collectiveReservedCode_ok {b : List Byte} (hh : s.collHeld p chip = none) (hn : s.nextCmd p chip = .ok (some b))
    (hb : cmdOk b = true) : exec (.collectiveReservedCode p chip) s = .next s := by
  show execCollectiveReservedCode p chip s = _
  rw [execCollectiveReservedCode, hh, hn]
  simp [hb]

theorem exec_collectiveDone_none (hh : s.collHeld p chip = none) (hn : (s.collOf p chip).find? (fun c => c.ended.isSome) = none) :
    exec (.collectiveDone p chip) s = .next s := by
  show execCollectiveDone p chip s = _
  rw [execCollectiveDone, hh]
  dsimp only
  rw [hn]

theorem doneWord_eq (code : Nat) (fl : BitVec 6) : doneWord code fl = 2 ^ 63 + fl.toNat * 65536 + code := by
  unfold doneWord
  omega

/-- An ended collective writes its DONE word and leaves its engine, unless the write is withheld. -/
theorem exec_collectiveDone_writes {c : Coll} {code : Nat} {fl : BitVec 6} (hh : s.collHeld p chip = none)
    (hc : (s.collOf p chip).find? (fun c => c.ended.isSome) = some c) (he : c.ended = some (code, fl)) :
    exec (.collectiveDone p chip) s = .next
      (match vwrite s.mem (s.gpa p) (cmDone c.cmd) (leBytes (2 ^ 63 + fl.toNat * 65536 + code) 8) with
      | .ok m => State.setColl { s with mem := m } p chip ((s.collOf p chip).erase c)
      | .error (o, f) => s.collFault p chip (some c.cmd) f true (cmDone c.cmd + o)) := by
  show execCollectiveDone p chip s = _
  rw [execCollectiveDone, hh]
  dsimp only
  rw [hc, ← doneWord_eq]
  simp only [he, Option.getD_some] <;> rfl

theorem State.allMatch_iff {g b : List Byte} : s.allMatch g b = true ↔
    ∀ i < grN g, grPod (grEntry g i) = s.podNum ∧ s.localRank g b (grEntry g i) i ≠ none := by
  simp [State.allMatch, List.all_eq_true, Option.isSome_iff_ne_none]

theorem State.collLate_iff {c : Coll} : s.collLate p c = true ↔
    ∃ g, s.readGroup p (cmGroup c.cmd) = .ok g ∧ 2 ^ grTlog g ≤ c.age ∧
      ¬ ∀ i < grN g, grPod (grEntry g i) = s.podNum ∧ s.localRank g c.cmd (grEntry g i) i ≠ none := by
  unfold State.collLate
  split
  · next f hf => simp [hf]
  · next g hg => rw [hg, Bool.and_eq_true, decide_eq_true_eq, Bool.not_eq_true', ← Bool.not_eq_true, State.allMatch_iff]; simp

theorem exec_collectiveTimeout_none (h : ∀ c ∈ s.collOf p chip, ¬ (c.ended = none ∧ s.collLate p c = true)) :
    exec (.collectiveTimeout p chip) s = .next s := by
  show execCollectiveTimeout p chip s = _
  have hn : (s.collOf p chip).find? (fun c => c.ended.isNone && s.collLate p c) = none :=
    List.find?_eq_none.2 fun c hc => by simpa using h c hc
  rw [execCollectiveTimeout, hn]

theorem exec_collectiveTimeout_first {l rest : List Coll} {c : Coll} (hl : s.collOf p chip = l ++ c :: rest)
    (hn : ∀ x ∈ l, ¬ (x.ended = none ∧ s.collLate p x = true)) (he : c.ended = none) (hc : s.collLate p c = true) :
    exec (.collectiveTimeout p chip) s = .next (s.endAll p chip c.cmd 0x14) := by
  show execCollectiveTimeout p chip s = _
  have hf : (s.collOf p chip).find? (fun c => c.ended.isNone && s.collLate p c) = some c :=
    List.find?_eq_some_iff_append.2 ⟨by simp [he, hc], l, rest, hl, fun x hx => by simpa [Decidable.or_iff_not_imp_left] using hn x hx⟩
  rw [execCollectiveTimeout, hf]

end

/-! ### Sums (R457) -/

/-- The tree over up to three values: the first joins the second, then the third. -/
theorem reduceElem_upTo_three (dtype redop : Nat) {vals : List Nat} (h3 : vals.length ≤ 3) (h0 : vals ≠ []) :
    (reduceElem dtype redop vals).1 =
      (let a := nth vals 0 0
       let l := if 1 < vals.length then (reduceTwo dtype redop a (nth vals 1 0)).1 else a
       if 2 < vals.length then (reduceTwo dtype redop l (nth vals 2 0)).1 else l) := by
  match vals, h3, h0 with
  | [a], _, _ => simp [reduceElem, treePartial, nth]
  | [a, b], _, _ => simp [reduceElem, treePartial, nth]
  | [a, b, c], _, _ => simp [reduceElem, treePartial, nth]

theorem accumOf_finite {x : Nat} (h : (b32.val x).nonFinite = false) :
    accumOf (x, 0) = { sum := BitVec.ofInt 312 ((b32.val x).scaled (-149)), seen := if x = 0x80000000 then 0x10 else 0 } := by
  unfold accumOf
  cases hv : b32.val x with
  | fin s m e => simp [wi]
  | inf s => simp [hv, FV.nonFinite] at h
  | nan s => simp [hv, FV.nonFinite] at h

/-- An accumulator that has seen no infinity and no NaN. -/
def Accum.Plain (a : Accum) : Prop := a.seen = 0 ∨ a.seen = 0x10

theorem Accum.Plain.add {a b : Accum} (ha : a.Plain) (hb : b.Plain) : (a.add b).Plain := by
  unfold Accum.Plain Accum.add at *
  rcases ha with ha | ha <;> rcases hb with hb | hb <;> simp [ha, hb]

theorem Accum.Plain.final {a : Accum} (h : a.Plain) (hs : a.sum.toInt ≠ 0) :
    a.final = b32.round rmRNE false (decide (a.sum.toInt < 0)) a.sum.toInt.natAbs (-149) false := by
  have hbits : bit a.seen 2 = false ∧ bit a.seen 0 = false ∧ bit a.seen 1 = false := by
    rcases h with h | h <;> rw [h] <;> decide
  obtain ⟨h2, h0, h1⟩ := hbits
  simp [Accum.final, h2, h0, h1, hs]

theorem accumOf_plain {x : Nat} (h : (b32.val x).nonFinite = false) : (accumOf (x, 0)).Plain := by
  rw [accumOf_finite h]
  by_cases hx : x = 0x80000000
  · exact .inr (if_pos hx)
  · exact .inl (if_neg hx)

/-- Accumulators of finite values added onto one add the integers they stand for. -/
theorem foldl_add_accumOf {vals : List Nat} (h : ∀ x ∈ vals, (b32.val x).nonFinite = false) {a : Accum} (ha : a.Plain) :
    ((vals.map fun x => accumOf (x, 0)).foldl Accum.add a).Plain ∧
    ((vals.map fun x => accumOf (x, 0)).foldl Accum.add a).sum =
      a.sum + BitVec.ofInt 312 (vals.map fun x => (b32.val x).scaled (-149)).sum := by
  induction vals generalizing a with
  | nil => simpa using ha
  | cons x vals ih =>
    have hx := h x (List.mem_cons_self ..)
    obtain ⟨hp, hs⟩ := ih (fun y hy => h y (List.mem_cons_of_mem _ hy)) (ha.add (accumOf_plain hx))
    refine ⟨hp, hs.trans ?_⟩
    rw [List.map_cons, List.sum_cons, BitVec.ofInt_add, ← BitVec.add_assoc, Accum.add, accumOf_finite hx]

theorem accumSum_accumOf {vals : List Nat} (h : ∀ x ∈ vals, (b32.val x).nonFinite = false) :
    (accumSum (vals.map fun x => accumOf (x, 0))).Plain ∧
    (accumSum (vals.map fun x => accumOf (x, 0))).sum = BitVec.ofInt 312 (vals.map fun x => (b32.val x).scaled (-149)).sum := by
  cases vals with
  | nil => exact ⟨.inr rfl, by simp [accumSum]⟩
  | cons x vals =>
    have hx := h x (List.mem_cons_self ..)
    obtain ⟨hp, hs⟩ := foldl_add_accumOf (fun y hy => h y (List.mem_cons_of_mem _ hy)) (accumOf_plain hx)
    refine ⟨hp, hs.trans ?_⟩
    rw [List.map_cons, List.sum_cons, BitVec.ofInt_add, accumOf_finite hx]

/-- Settles O58: a step by what the engines find, a collective by the first thing that ends it, what ends by going through the ranks, and
the sums by the order they are taken in. -/
theorem collectivesRun : Obligations.CollectivesRun := by
  unfold Obligations.CollectivesRun
  refine ⟨fun s p chip op peers hop => ?step, fun s p chip b g peers hg => ?collective, fun s p chip h b => State.nextCmd_busy h b,
    fun s p chip hh => ?commands, fun s p chip => ?late, fun dtype redop vals h3 h0 => reduceElem_upTo_three dtype redop h3 h0,
    fun vals h => ?exact⟩
  case step =>
    intro step hh waiting
    have hstep : step = .next (s.collStep p chip op peers) := exec_collective hop
    refine ⟨fun l c rest t hw hl hc => hstep.trans (congrArg _ (State.collStep_oldest hh hw hl hc)), fun hw => ?_⟩
    rw [State.collStep_next hh hw] at hstep
    refine ⟨fun hn => ?_, fun f hn => ?_, fun b hn hb => ?_, fun b hn hb ho => ⟨s.takeCmd p chip b none, ?_, rfl,
      State.takeCmd_collOf s p chip b none, State.takeCmd_collHead s p chip b none⟩⟩
    · rw [hstep, hn]
    · rw [hstep, hn]
    · rw [hstep, hn]
      rcases hb with hb | hb <;> simp [hb]
    · rw [hstep, hn]
      simp [hb, ho]
  case collective =>
    intro n pod far
    have hpod : ∀ i, grPod (grEntry g i) = pod i := fun i => grPod_eq _
    refine ⟨State.collDo_badGroup hg, fun hfar => State.linkLacks_near fun i hi => ?_, fun hfar hd => State.linkLacks_allDown ?_ hd,
      fun hu h => State.linkLacks_allUp hu h, State.collDo_linkDown hg, fun ho hl => ⟨fun l x rest hp hn hr hx hs => ?_, fun hn => ?_⟩,
      fun e i c h => State.localRank_some h, fun code => ?_⟩
    · by_contra hne
      exact hfar ⟨i, hi, hpod i ▸ hne⟩
    · obtain ⟨i, hi, hne⟩ := hfar
      exact ⟨i, hi, (hpod i).symm ▸ hne⟩
    · refine State.collDo_peerFailed hg ho hl ?_
      rw [hp]
      exact peerFailed_first (fun y hy => by rw [hpod]; exact hn y hy) hr (by rw [hpod]; exact hx) hs
    · have hf : peerFailed g s.podNum peers = none := peerFailed_none fun y hy => by rw [hpod]; exact hn y hy
      exact ⟨fun ⟨i, hi, hd⟩ => State.collDo_waits hg ho hl hf hi hd,
        fun i q ch c f a hi hall hbefore hd => State.collDo_faults hg ho hl hf hi hall hbefore hd,
        fun data hlen hd => State.collDo_delivers hg ho hl hf hlen hd⟩
    · obtain ⟨hz, hcolls⟩ := State.endsTo_endAll (chip := chip) (code := code) hg
      exact ⟨hz, State.endAll_noneOf hg, fun h2 hmax i hi c h => State.endAll_matched hg h2 hmax hi h, hcolls⟩
  case commands =>
    refine ⟨fun b hn hb => exec_collectiveReservedCode_ok hh hn hb, fun b hn hb =>
      ⟨_, exec_collectiveReservedCode_badForm hh hn hb, rfl, State.takeCmd_collOf s p chip b _⟩, exec_collectiveDone_none hh,
      fun c code fl hc he => ?_⟩
    have hrun := exec_collectiveDone_writes hh hc he
    refine ⟨fun o f hw => ?_, fun m hw => ?_⟩
    · rw [hrun, hw]
    · rw [hrun, hw]
  case late =>
    intro Match Late
    have hlate : ∀ c, Late c ↔ c.ended = none ∧ s.collLate p c = true := fun c => by rw [State.collLate_iff]; rfl
    simp only [hlate]
    exact ⟨exec_collectiveTimeout_none, fun l c rest hl hn hc => exec_collectiveTimeout_first hl hn hc.1 hc.2⟩
  case exact =>
    intro acc sum
    obtain ⟨hp, hs⟩ := accumSum_accumOf h
    exact ⟨hs, hp.final⟩

end Sys2Proof.Machine
end


section
/-! PROOF. The words of the three agents: each well-formed instruction is decoded from its words (O1), each word is encoded again from
what its decoder reads (O2), and the words that the statements list (O3). -/

namespace Sys2Proof.Laws.RoundTrip

/-! ### From an instruction to its words and back -/

/-- The round trip of every instruction: by the law of each one with words, and for the steps with none by being events. -/
theorem statement (i : Instr) : Statement i := by
  cases i with
  | cfgBegin => exact cfgBegin _
  | cfgEnd => exact cfgEnd _
  | cfgNop => exact cfgNop _
  | cfgWin => exact cfgWin _
  | cfgHi => exact cfgHi _
  | cfgSect => exact cfgSect _
  | cfgEsc => exact cfgEsc _
  | cfgZwin => exact cfgZwin _
  | cfgElementWrite => exact cfgElementWrite _ _ _
  | add => exact add _ _ _
  | sub => exact sub _ _ _
  | and => exact and _ _ _
  | or => exact or _ _ _
  | xor => exact xor _ _ _
  | sll => exact sll _ _ _
  | srl => exact srl _ _ _
  | sra => exact sra _ _ _
  | slt => exact slt _ _ _
  | sltu => exact sltu _ _ _
  | mul => exact mul _ _ _
  | mulhu => exact mulhu _ _ _
  | addi => exact addi _ _ _
  | andi => exact andi _ _ _
  | ori => exact ori _ _ _
  | xori => exact xori _ _ _
  | slli => exact slli _ _ _
  | srli => exact srli _ _ _
  | srai => exact srai _ _ _
  | slti => exact slti _ _ _
  | lui => exact lui _ _
  | beq => exact beq _ _ _
  | bne => exact bne _ _ _
  | blt => exact blt _ _ _
  | bge => exact bge _ _ _
  | bltu => exact bltu _ _ _
  | bgeu => exact bgeu _ _ _
  | jmp => exact jmp _
  | jal => exact jal _
  | jr => exact jr _ _
  | ld => exact ld _ _ _
  | st => exact st _ _ _
  | lw => exact lw _ _ _
  | sw => exact sw _ _ _
  | cpy => exact cpy _ _
  | cpy2 => exact cpy2 _ _
  | cpyi => exact cpyi _ _ _ _
  | cfg => exact cfg _ _ _
  | arm => exact arm _ _
  | fork => exact fork _ _
  | rdv => exact rdv _
  | punct => exact punct _
  | barr => exact barr _ _
  | snuf => exact snuf
  | spawnRecord => exact spawnRecord _ _ _
  | spawnLaunch => exact spawnLaunch _ _ _
  | join => exact join _ _
  | retire => exact retire
  | yield => exact yield _
  | acq => exact acq _ _ _
  | rel => exact rel _ _
  | fencex => exact fencex _ _
  | trim => exact trim _ _ _
  | waittAll => exact waittAll _ _
  | waittAny => exact waittAny _ _
  | prof => exact prof _ _
  | trap => exact trap _ _
  | csrr => exact csrr _ _
  | csrw => exact csrw _ _
  | lanDispatch => exact lanDispatch _ _ _
  | lanJoin => exact lanJoin _ _
  | hqPush => exact hqPush _ _ _
  | hqPop => exact hqPop _ _ _
  | rgClaim => exact rgClaim _ _ _
  | rgCfg => exact rgCfg _ _ _
  | rgStart => exact rgStart _ _ _
  | rgSnuff => exact rgSnuff _ _
  | rgFreeze => exact rgFreeze _ _
  | rgSave => exact rgSave _ _ _
  | rgLoad => exact rgLoad _ _ _
  | rgRebase => exact rgRebase _ _ _
  | rgKill => exact rgKill _ _
  | rgStat => exact rgStat _ _
  | rgFree => exact rgFree _ _
  | soBind => exact soBind _ _ _
  | soAcq => exact soAcq _ _ _
  | soRel => exact soRel _ _
  | fenceX => exact fenceX _ _
  | xltInv => exact xltInv _ _
  | xltSync => exact xltSync _
  | pgMig => exact pgMig _ _ _
  | bistRun => exact bistRun _ _ _
  | bistStat => exact bistStat _ _
  | illeg => exact illeg _
  | badpc => exact badpc
  | badcmd => exact badcmd _
  | xlanIllegalInstruction => exact xlanIllegalInstruction _
  | _ => exact of_event rfl rfl

/-! ### From a word to its instruction and back -/

section
variable {x : Word}

/-- The opcode field as the literal it is compared with. -/
theorem opc_of {n : Nat} (h : fOpc x = n) : x.extractLsb' 26 6 = BitVec.ofNat 6 n := by
  rw [← h, fOpc, BitVec.ofNat_toNat, BitVec.setWidth_eq]

/-- A field that tests as zero is the zero that the encoder writes. -/
theorem zD_eq (h : zD x = true) : 0 = fD x := (eq_of_beq h).symm
theorem zFn_eq (h : zFn x = true) : 0 = fFn x := (eq_of_beq h).symm
theorem zA_eq (h : zA x = true) : noSrc = srcRA x := by
  obtain ⟨hr, ht⟩ : fA x = 0 ∧ x.getLsbD 10 = false := by simpa [zA] using h
  rw [srcRA, hr, ht, noSrc]
theorem zB_eq (h : zB x = true) : noSrc = srcRB x := by
  obtain ⟨hr, ht⟩ : fB x = 0 ∧ x.getLsbD 9 = false := by simpa [zB] using h
  rw [srcRB, hr, ht, noSrc]

/-- A FN field as the literal it is compared with. -/
theorem fFn_of {n : Nat} (h : (fFn x).toNat = n) : BitVec.ofNat 9 n = fFn x := by
  rw [← h, BitVec.ofNat_toNat, BitVec.setWidth_eq]

/-- Fields of a word, put in their places under its opcode, make the word: for each format of R75. -/
theorem encR_of {k : Nat} {d : Reg} {a b : Src} {n : BitVec 9} (h : fOpc x = k) (hd : d = fD x) (ha : a = srcRA x) (hb : b = srcRB x)
    (hn : n = fFn x) : [encR (BitVec.ofNat 6 k) d a b n] = [x] := by
  rw [hd, ha, hb, hn, ← opc_of h, encR_fields]
theorem encI_of {k : Nat} (h : fOpc x = k) : [encI (BitVec.ofNat 6 k) (fD x) (srcIA x) (x.extractLsb' 0 15)] = [x] := by
  rw [← opc_of h, encI_fields]
theorem encB_of {k : Nat} (h : fOpc x = k) : [encB (BitVec.ofNat 6 k) (srcB1 x) (srcB2 x) (x.extractLsb' 0 14)] = [x] := by
  rw [← opc_of h, encB_fields]
theorem encS_of {k : Nat} (h : fOpc x = k) : [encS (BitVec.ofNat 6 k) (srcSB x) (srcIA x) (x.extractLsb' 0 14)] = [x] := by
  rw [← opc_of h, encS_fields]
theorem encU_of {k : Nat} (h : fOpc x = k) : [encU (BitVec.ofNat 6 k) (fD x) (x.extractLsb' 0 21)] = [x] := by
  rw [← opc_of h, encU_fields]
theorem encJ_of {k : Nat} {o : BitVec 26} (h : fOpc x = k) (ho : o = x.extractLsb' 0 26) : [encJ (BitVec.ofNat 6 k) o] = [x] := by
  rw [ho, ← opc_of h, encJ_fields]

/-- A field whose upper bits test as zero is the extension of its lower bits. -/
theorem setWidth_low {k j : Nat} (h : x.extractLsb' k j = 0) : (x.extractLsb' 0 k).setWidth (j + k) = x.extractLsb' 0 (j + k) := by
  rw [← extract_append x 0 j k, Nat.zero_add, h]
  have hlt : x.toNat % 2 ^ k < 2 ^ (j + k) :=
    (Nat.mod_lt _ k.two_pow_pos).trans_le (Nat.pow_le_pow_right two_pos (k.le_add_left j))
  apply BitVec.eq_of_toNat_eq
  simp [Nat.mod_eq_of_lt hlt]

/-- A shift by a constant (R75, R203). -/
theorem encShift_of {k : Nat} (h : fOpc x = k) (hz : (x.extractLsb' 6 9 == 0) = true) :
    [encI (BitVec.ofNat 6 k) (fD x) (srcIA x) ((x.extractLsb' 0 6).setWidth 15)] = [x] := by
  rw [show (x.extractLsb' 0 6).setWidth 15 = x.extractLsb' 0 15 from setWidth_low (eq_of_beq hz)]
  exact encI_of h

/-- An instruction that rests on a test of unused fields has the word as its own, and so has the trap where the test fails (R77, R79). -/
theorem encode_orIlleg {ok : Bool} {i : Instr} (h : ok = true → encode i = [x]) : encode (orIlleg x ok i) = [x] := by
  cases ok with
  | true => exact h rfl
  | false => rfl
theorem encode_orXill {ok : Bool} {i : Instr} (h : ok = true → encode i = [x]) : encode (orXill x ok i) = [x] := by
  cases ok with
  | true => exact h rfl
  | false => rfl

theorem encode_decodeAlu (h : fOpc x = 0) : encode (decodeAlu x) = [x] := by
  unfold decodeAlu
  split
  case h_13 => rfl
  all_goals next hn => exact encR_of h rfl rfl rfl (fFn_of hn)


theorem encode_decodeLow : encode (decodeLow x) = [x] := by
  unfold decodeLow
  split
  case h_5 h | h_6 h | h_7 h => exact encode_orIlleg (encShift_of h)
  case h_9 h => exact encU_of h
  case h_10 h | h_11 h | h_12 h | h_13 h | h_14 h | h_15 h => exact encB_of h
  case h_16 h | h_17 h => exact encJ_of h rfl
  case h_18 h =>
    refine encode_orIlleg fun hz => ?_
    rw [Bool.and_eq_true] at hz
    exact encR_of h rfl rfl (zB_eq hz.1) (zFn_eq hz.2)
  case h_20 h | h_22 h => exact encS_of h
  case h_23 => rfl
  all_goals next h => exact encI_of h

theorem encode_decodeHigh : encode (decodeHigh x) = [x] := by
  unfold decodeHigh
  split
  case h_1 h | h_2 h | h_9 h | h_12 h | h_16 h =>
    refine encode_orIlleg fun hz => ?_
    rw [Bool.and_eq_true] at hz
    exact encR_of h rfl rfl (zB_eq hz.1) (zFn_eq hz.2)
  case h_3 h => exact encR_of h rfl rfl rfl rfl
  case h_4 h | h_15 h | h_18 h => exact encode_orIlleg fun hz => encR_of h rfl rfl rfl (zFn_eq hz)
  case h_5 h | h_17 h =>
    refine encode_orIlleg fun hz => ?_
    rw [Bool.and_eq_true] at hz
    exact encR_of h (zD_eq hz.1) rfl rfl (zFn_eq hz.2)
  case h_6 h =>
    refine encode_orIlleg fun hz => ?_
    rw [Bool.and_eq_true, Bool.and_eq_true] at hz
    exact encR_of h (zD_eq hz.1.1) rfl (zB_eq hz.1.2) (setWidth_low (eq_of_beq hz.2))
  case h_7 h | h_8 h | h_14 h =>
    refine encode_orIlleg fun hz => ?_
    rw [Bool.and_eq_true, Bool.and_eq_true] at hz
    exact encR_of h (zD_eq hz.1.1) rfl (zB_eq hz.1.2) (zFn_eq hz.2)
  case h_10 h | h_13 h => exact encode_orIlleg fun hz => encJ_of h (eq_of_beq hz).symm
  case h_11 h =>
    split_ifs with h0 h1
    · exact encR_of h rfl rfl rfl h0.symm
    · exact encR_of h rfl rfl rfl h1.symm
    · rfl
  case h_19 h =>
    split_ifs with hz h0 h1
    · rfl
    · exact encR_of h rfl rfl (zB_eq (by simpa using hz)) h0.symm
    · exact encR_of h rfl rfl (zB_eq (by simpa using hz)) h1.symm
    · rfl
  case h_20 h | h_22 h =>
    refine encode_orIlleg fun hz => ?_
    rw [Bool.and_eq_true] at hz
    exact encR_of h rfl (zA_eq hz.1) (zB_eq hz.2) rfl
  case h_21 h | h_23 h =>
    refine encode_orIlleg fun hz => ?_
    rw [Bool.and_eq_true] at hz
    exact encR_of h (zD_eq hz.1) rfl (zB_eq hz.2) rfl
  case h_24 => rfl

theorem encode_decodeSeq (x : Word) : encode (decodeSeq x) = [x] := by
  unfold decodeSeq
  split_ifs with h0 hl
  · exact encode_decodeAlu h0
  · exact encode_decodeLow
  · exact encode_decodeHigh

/-- The R-type layout of R78 from the number 256 * funct3 + funct7 that `decodeCustom0` and `decodeCustom1` select by. -/
theorem encX_of {k : Nat} {m f7 : BitVec 7} {f3 : BitVec 3} {rd rs1 rs2 : Reg} (hm : x.extractLsb' 0 7 = m)
    (hk : (x.extractLsb' 12 3).toNat * 256 + (x.extractLsb' 25 7).toNat = k) (hd : rd = xRd x) (h1 : rs1 = xRs1 x) (h2 : rs2 = xRs2 x)
    (h3 : f3 = BitVec.ofNat 3 (k / 256) := by rfl) (h7 : f7 = BitVec.ofNat 7 (k % 256) := by rfl) : [encX f7 rs2 rs1 f3 rd m] = [x] := by
  have hlt : (x.extractLsb' 25 7).toNat < 2 ^ 7 := (x.extractLsb' 25 7).isLt
  rw [h7, h3, show k % 256 = (x.extractLsb' 25 7).toNat by omega, show k / 256 = (x.extractLsb' 12 3).toNat by omega, hd, h1, h2, ← hm,
    BitVec.ofNat_toNat, BitVec.ofNat_toNat, BitVec.setWidth_eq, BitVec.setWidth_eq, encX_fields]

theorem encode_decodeCustom0 (hm : x.extractLsb' 0 7 = 0b0001011) : encode (decodeCustom0 x) = [x] := by
  unfold decodeCustom0
  split
  case h_2 h | h_8 h | h_9 h | h_13 h | h_14 h | h_15 h | h_18 h =>
    exact encode_orXill fun hz => encX_of hm h rfl rfl (eq_of_beq hz).symm
  case h_19 h => exact encode_orXill fun hz => encX_of hm h (eq_of_beq hz).symm rfl rfl
  case h_20 => rfl
  all_goals next h => exact encX_of hm h rfl rfl rfl

theorem encode_decodeCustom1 (hm : x.extractLsb' 0 7 = 0b0101011) : encode (decodeCustom1 x) = [x] := by
  unfold decodeCustom1
  split
  case h_1 h => exact encode_orXill fun hz => encX_of hm h (eq_of_beq hz).symm rfl rfl
  case h_2 h =>
    refine encode_orXill fun hz => ?_
    rw [Bool.and_eq_true] at hz
    exact encX_of hm h rfl (eq_of_beq hz.1).symm (eq_of_beq hz.2).symm
  case h_3 h | h_4 h => exact encX_of hm h rfl rfl rfl
  case h_5 h => exact encode_orXill fun hz => encX_of hm h rfl rfl (eq_of_beq hz).symm
  case h_6 => rfl

theorem encode_decodeXlan {i : Instr} (h : decodeXlan x = some i) : encode i = [x] := by
  unfold decodeXlan at h
  split_ifs at h with h0 h1
  · exact Option.some.inj h ▸ encode_decodeCustom0 h0
  · exact Option.some.inj h ▸ encode_decodeCustom1 h1

/-- A hart reads the words of the two major opcodes of R78 as Xlan and no other. -/
theorem decodeXlan_none : decodeXlan x = none ↔ x.extractLsb' 0 7 ≠ 0b0001011 ∧ x.extractLsb' 0 7 ≠ 0b0101011 := by
  unfold decodeXlan
  split_ifs with h0 h1
  · simp [h0]
  · simp [h1]
  · exact iff_of_true rfl ⟨h0, h1⟩

/-- A command word from its code and operand (R49, R50). -/
theorem encC_of {k : Nat} (hc : x.extractLsb' 24 8 = 0xFF) (h : (x.extractLsb' 16 8).toNat = k) :
    [encC (BitVec.ofNat 8 k) (x.extractLsb' 0 16)] = [x] := by
  rw [encC, ← hc, ← h, BitVec.ofNat_toNat, BitVec.setWidth_eq, word_fields]

theorem encode_decodeStream (x : Word) : encode (decodeStream false x) = [x] := by
  unfold decodeStream
  rw [if_neg Bool.false_ne_true]
  split_ifs with hc
  · split
    case h_9 => rfl
    all_goals next h => exact encC_of hc h
  · exact (if_neg hc).trans (by rw [word_fields])

/-! ### Words outside the tables (R77, R79, R50) -/

/-- An opcode of R76 decides which of its tables a word is read by. -/
theorem decodeSeq_low (h0 : fOpc x ≠ 0) (h : fOpc x < 0x18) : decodeSeq x = decodeLow x := low h0 h rfl
theorem decodeSeq_high (h : 0x18 ≤ fOpc x) : decodeSeq x = decodeHigh x := high h rfl

theorem decodeSeq_unassigned
    (h : fOpc x ∈ [0x13, 0x1B, 0x23, 0x2B, 0x2D, 0x2E, 0x2F, 0x35, 0x36, 0x37, 0x38, 0x39, 0x3A, 0x3B, 0x3C, 0x3D, 0x3E, 0x3F]) :
    decodeSeq x = .illeg x := by
  rw [List.mem_cons] at h
  obtain h | h := h
  · rw [decodeSeq_low (by omega) (by omega)]
    simp [decodeLow, h]
  · rw [decodeSeq_high (by simp at h; omega)]
    simp only [List.mem_cons, List.not_mem_nil, or_false] at h
    rcases h with h | h | h | h | h | h | h | h | h | h | h | h | h | h | h | h | h <;> simp [decodeHigh, h]

theorem decodeSeq_aluFn (h : fOpc x = 0) (hn : 12 ≤ (fFn x).toNat) : decodeSeq x = .illeg x := by
  refine alu h ?_
  unfold decodeAlu
  split
  case h_13 => rfl
  all_goals omega

theorem decodeSeq_unusedFn
    (h : fOpc x ∈ [0x12, 0x18, 0x19, 0x1C, 0x1D, 0x1F, 0x20, 0x21, 0x25, 0x27, 0x28, 0x29, 0x2A, 0x2C]) (hn : fFn x ≠ 0) :
    decodeSeq x = .illeg x := by
  have hz : zFn x = false := beq_false_of_ne hn
  rw [List.mem_cons] at h
  obtain h | h := h
  · rw [decodeSeq_low (by omega) (by omega)]
    simp [decodeLow, h, orIlleg, hz]
  · rw [decodeSeq_high (by simp at h; omega)]
    simp only [List.mem_cons, List.not_mem_nil, or_false] at h
    rcases h with h | h | h | h | h | h | h | h | h | h | h | h | h <;> simp [decodeHigh, h, orIlleg, hz]

theorem decodeSeq_fnAbove1 (h : fOpc x ∈ [0x24, 0x30]) (hn : 2 ≤ (fFn x).toNat) : decodeSeq x = .illeg x := by
  have h0 : fFn x ≠ 0#9 := fun e => by rw [e] at hn; exact absurd hn (by decide)
  have h1 : fFn x ≠ 1#9 := fun e => by rw [e] at hn; exact absurd hn (by decide)
  simp only [List.mem_cons, List.not_mem_nil, or_false] at h
  rw [decodeSeq_high (by omega)]
  obtain h | h := h <;> simp [decodeHigh, h, h0, h1]

theorem decodeCustom0_funct3 (h : 4 ≤ (x.extractLsb' 12 3).toNat) : decodeCustom0 x = .xlanIllegalInstruction x := by
  unfold decodeCustom0
  split
  case h_20 => rfl
  all_goals omega

theorem decodeCustom1_funct3 (h : 3 ≤ (x.extractLsb' 12 3).toNat) : decodeCustom1 x = .xlanIllegalInstruction x := by
  unfold decodeCustom1
  split
  case h_6 => rfl
  all_goals omega

theorem decodeStream_badcmd (hc : x.extractLsb' 24 8 = 0xFF) (h : 8 ≤ (x.extractLsb' 16 8).toNat) : decodeStream false x = .badcmd x := by
  refine cmd hc ?_
  split
  case h_9 => rfl
  all_goals omega

end

end Sys2Proof.Laws.RoundTrip

namespace Sys2Proof

open Laws

/-- Settles O1: by the round trip of each instruction. -/
theorem encodedWordsDecode : Obligations.EncodedWordsDecode := RoundTrip.statement

/-- Settles O2: a decoder puts the fields of a word into an instruction, and the encoder puts them back into their places. -/
theorem decodedWordsEncode : Obligations.DecodedWordsEncode :=
  ⟨RoundTrip.encode_decodeSeq, fun _ _ => RoundTrip.encode_decodeXlan, RoundTrip.encode_decodeStream, fun _ => RoundTrip.decodeXlan_none⟩

/-- Settles O3: the written words by evaluation, each class of rejected words by its lemma. -/
theorem listedWordsDecode : Obligations.ListedWordsDecode :=
  ⟨by decide, by decide, by decide, by decide, by decide, by decide,
    by simp [decodeXlan, decodeCustom0, xRd, xRs1, xRs2], by simp [decodeXlan, decodeCustom1, orXill, xRd, xRs1, xRs2],
    by simp [decodeStream], by simp [decodeStream],
    fun _ => RoundTrip.decodeSeq_unassigned, fun _ => RoundTrip.decodeSeq_aluFn, fun _ => RoundTrip.decodeSeq_unusedFn,
    fun _ => RoundTrip.decodeSeq_fnAbove1, fun _ hm h => RoundTrip.custom0 hm (RoundTrip.decodeCustom0_funct3 h),
    fun _ hm h => RoundTrip.custom1 hm (RoundTrip.decodeCustom1_funct3 h), fun _ => RoundTrip.decodeStream_badcmd⟩

end Sys2Proof
end


section
/-! PROOF. Issue of a sequencer's instructions: when it waits and when it traps FEEMPTY (O9), and the traps ILLEG, BADPC and USER (O10). -/

namespace Sys2Proof.Machine

/-! ### Issue (R199) -/

section
variable {s : State} {r : Region} {srcs : List Src} {dst : Option Reg} (f : Region → State → State)
  (hr : s.region? s.curSeq = some r) (ha : r.active = true) (hs : r.seq.stopNext = false)
include hr ha hs

/-- An empty source whose T bit is 1 traps FEEMPTY. -/
theorem State.issue_trap {x : Src} (hx : x ∈ srcs) (he : r.seq.isFull x.reg = false) (ht : x.t = true) :
    s.issue srcs dst f = s.seqTrap s.curSeq fFEEMPTY 0 0 := by
  have hany : srcs.any (fun x => !r.srcFull x && x.t) = true := List.any_eq_true.2 ⟨x, hx, by simp [Region.srcFull, he, ht]⟩
  simp [State.issue, hr, ha, hs, hany, State.trapNow]

/-- An empty source waits where no empty source has a T bit of 1. -/
theorem State.issue_waits {x : Src} (hx : x ∈ srcs) (he : r.seq.isFull x.reg = false)
    (hno : ∀ y ∈ srcs, r.seq.isFull y.reg = true ∨ y.t = false) : s.issue srcs dst f = s := by
  have htrap : srcs.any (fun x => !r.srcFull x && x.t) = false :=
    List.any_eq_false.2 fun y hy => by rcases hno y hy with h | h <;> simp [Region.srcFull, h]
  have hwait : srcs.any (fun x => !r.srcFull x) = true := List.any_eq_true.2 ⟨x, hx, by simp [Region.srcFull, he]⟩
  simp [State.issue, hr, ha, hs, htrap, hwait]

/-- With full sources an empty destination waits. -/
theorem State.issue_waitsDest {d : Reg} (hfull : ∀ y ∈ srcs, r.seq.isFull y.reg = true) (hd : r.seq.isFull d = false) :
    s.issue srcs (some d) f = s := by
  have htrap : srcs.any (fun x => !r.srcFull x && x.t) = false := List.any_eq_false.2 fun y hy => by simp [Region.srcFull, hfull y hy]
  have hwait : srcs.any (fun x => !r.srcFull x) = false := List.any_eq_false.2 fun y hy => by simp [Region.srcFull, hfull y hy]
  simp [State.issue, hr, ha, hs, htrap, hwait, hd]

end

/-- An instruction of two sources and a destination does nothing but issue what it does. -/
theorem exec_twoSources {i : Instr} {d : Reg} {a b : Src} (s : State)
    (hi : i ∈ [.add d a b, .sub d a b, .and d a b, .or d a b, .xor d a b, .sll d a b, .srl d a b, .sra d a b, .slt d a b, .sltu d a b,
      .mul d a b, .mulhu d a b, .cpyi d a b 1, .acq d a b, .trim d a b, .spawnRecord d a b, .spawnLaunch d a b]) :
    ∃ f, exec i s = .next (s.issue [a, b] (some d) f) := by
  simp only [List.mem_cons, List.not_mem_nil, or_false] at hi
  rcases hi with rfl | rfl | rfl | rfl | rfl | rfl | rfl | rfl | rfl | rfl | rfl | rfl | rfl | rfl | rfl | rfl | rfl
  all_goals exact ⟨_, rfl⟩

/-- Settles O9: what the instruction issues does not matter where a register it names is empty. -/
theorem issueWaitsOrTraps : Obligations.IssueWaitsOrTraps := by
  intro s r d a b i hr ha hs hi
  obtain ⟨f, hf⟩ := exec_twoSources s hi
  rw [hf]
  refine ⟨fun h => ?trap, fun ⟨he, ht, hb⟩ => ?waitA, fun ⟨he, ht, hb⟩ => ?waitB, fun hfa hfb hd => ?waitD⟩
  case trap =>
    rcases h with ⟨he, ht⟩ | ⟨he, ht⟩
    · rw [State.issue_trap f hr ha hs (x := a) (by simp) he ht]
    · rw [State.issue_trap f hr ha hs (x := b) (by simp) he ht]
  case waitA => rw [State.issue_waits f hr ha hs (x := a) (by simp) he (by simp [ht, hb])]
  case waitB => rw [State.issue_waits f hr ha hs (x := b) (by simp) he (by simp [ht, hb])]
  case waitD => rw [State.issue_waitsDest f hr ha hs (by simp [hfa, hfb]) hd]

/-! ### Traps (R77, R201, R202, R232) -/

/-- What a trap leaves of a region that may issue: it is FREEZING at the instruction, and the record of the trap waits. -/
theorem State.seqTrap_traps {s : State} {r : Region} (code : Nat) (addr aux : Dword) (hr : s.region? s.curSeq = some r)
    (ha : r.active = true) :
    (∃ g, (s.seqTrap s.curSeq code addr aux).region? s.curSeq = some g ∧ g.state = .freezing ∧ g.frzWhy = 5 ∧
      g.seq = { r.seq with trapped := some (BitVec.ofNat 16 code) }) ∧
    ∃ f, ((s.seqTrap s.curSeq code addr aux).part r.part).fqWait = (s.part r.part).fqWait ++ [f] ∧ f.fid = (s.part r.part).nextFid ∧
      f.code = BitVec.ofNat 16 code ∧ f.src = 1 ∧ f.flags = 4 ∧ f.place = BitVec.ofNat 32 s.curSeq ∧
      f.detail = BitVec.ofNat 32 r.seq.pc ∧ f.addr = addr ∧ f.aux = aux := by
  obtain ⟨hg, -, hf, -⟩ := State.seqTrap_active code addr aux hr ha
  exact ⟨⟨_, hg, rfl, rfl, rfl⟩, hf⟩

/-- Settles O10: each of the three issues a trap, and a trap is `seqTrap_traps`. -/
theorem sequencerTraps : Obligations.SequencerTraps := by
  intro s r hr hi Trapped
  have traps (code : Nat) (addr aux : Dword) : Trapped (s.seqTrap s.curSeq code addr aux) code addr aux :=
    State.seqTrap_traps code addr aux hr hi.1
  refine ⟨fun x => ⟨_, ?illeg, traps 0x01 0 0⟩, ⟨_, ?badpc, traps 0x03 0 0⟩, fun a n hf => ⟨_, ?user, traps 0x08 _ _⟩⟩
  case illeg => exact congrArg Host.Outcome.next (State.issue_ok _ hr hi)
  case badpc => exact congrArg Host.Outcome.next (State.issue_ok _ hr hi)
  case user =>
    obtain ⟨ha, hs, -, hd⟩ := hi
    refine (congrArg Host.Outcome.next (State.issue_ok (srcs := [a]) _ hr ⟨ha, hs, by simpa using hf, hd⟩)).trans ?_
    rw [BitVec.ofNat_toNat]
    rfl

end Sys2Proof.Machine
end


section
/-! PROOF. Harts: fields of a CSR after a field is replaced, which mode takes an exception, its entry in each mode, and the return from it
(O23; RISC-V's privileged architecture, notes/assumptions 3). -/

namespace Sys2Proof.Machine

/-! ### Replaced fields -/

/-- A number with bits h:l replaced has the new bits there and its own elsewhere. -/
theorem testBit_putNat {x h l v : Nat} (hl : l ≤ h) (i : Nat) :
    (x - nbits x h l * 2 ^ l + v % 2 ^ (h + 1 - l) * 2 ^ l).testBit i = if l ≤ i ∧ i ≤ h then v.testBit (i - l) else x.testBit i := by
  obtain ⟨k, rfl⟩ : ∃ k, h = l + k := ⟨h - l, by omega⟩
  rw [nbits, show l + k + 1 - l = k + 1 by omega]
  have hb : x % 2 ^ l < 2 ^ l := Nat.mod_lt _ l.two_pow_pos
  have hv : v % 2 ^ (k + 1) < 2 ^ (k + 1) := Nat.mod_lt _ (k + 1).two_pow_pos
  have hx : x - x / 2 ^ l % 2 ^ (k + 1) * 2 ^ l + v % 2 ^ (k + 1) * 2 ^ l =
      2 ^ l * (2 ^ (k + 1) * (x / 2 ^ l / 2 ^ (k + 1)) + v % 2 ^ (k + 1)) + x % 2 ^ l := by
    have h1 : 2 ^ l * (x / 2 ^ l) + x % 2 ^ l = x := Nat.div_add_mod x (2 ^ l)
    have h2 : 2 ^ (k + 1) * (x / 2 ^ l / 2 ^ (k + 1)) + x / 2 ^ l % 2 ^ (k + 1) = x / 2 ^ l := Nat.div_add_mod _ _
    generalize x / 2 ^ l % 2 ^ (k + 1) = m at *
    generalize 2 ^ (k + 1) * (x / 2 ^ l / 2 ^ (k + 1)) = a at *
    rw [← h2] at h1
    rw [Nat.mul_add] at h1 ⊢
    rw [Nat.mul_comm m, Nat.mul_comm (v % _)]
    omega
  rw [hx, Nat.testBit_two_pow_mul_add _ hb]
  by_cases hi : i < l
  · rw [if_pos hi, if_neg (by omega), Nat.testBit_mod_two_pow, decide_eq_true hi, Bool.true_and]
  · rw [if_neg hi, Nat.testBit_two_pow_mul_add _ hv, Nat.testBit_mod_two_pow]
    by_cases hk : i - l < k + 1
    · rw [if_pos hk, if_pos (by omega), decide_eq_true hk, Bool.true_and]
    · rw [if_neg hk, if_neg (by omega), Nat.testBit_div_two_pow, Nat.testBit_div_two_pow]
      congr 1; omega

/-- A bit of a word with a field replaced. -/
theorem bit_putBits (x : Dword) {h l : Nat} (v : Nat) (hl : l ≤ h) (hh : h < 64) (i : Nat) :
    bit (putBits x h l v) i = if l ≤ i ∧ i ≤ h then v.testBit (i - l) else bit x i := by
  rw [bit, putBits, w, BitVec.getLsbD_ofNat, testBit_putNat hl]
  by_cases hi : i < 64
  · rw [decide_eq_true hi, Bool.true_and, BitVec.testBit_toNat, bit]
  · rw [decide_eq_false hi, Bool.false_and, if_neg (by omega), bit, BitVec.getLsbD_of_ge x i (by omega)]

/-- A single bit replaced. -/
theorem bit_putBit_same (x : Dword) {i : Nat} (v : Bool) (hi : i < 64) : bit (putBits x i i (b2n v)) i = v := by
  rw [bit_putBits x _ le_rfl hi, if_pos ⟨le_rfl, le_rfl⟩, Nat.sub_self]
  cases v <;> rfl
theorem bit_putBits_other (x : Dword) {h l i : Nat} (v : Nat) (hl : l ≤ h) (hh : h < 64) (hi : i < l ∨ h < i) :
    bit (putBits x h l v) i = bit x i := by
  rw [bit_putBits x v hl hh, if_neg (by omega)]

theorem testBit_bits {n : Nat} (x : BitVec n) (h l j : Nat) : (bits x h l).testBit j = (decide (j < h + 1 - l) && bit x (l + j)) := by
  rw [bits, nbits, Nat.testBit_mod_two_pow, Nat.testBit_div_two_pow, BitVec.testBit_toNat, Nat.add_comm l j, bit]

/-- A field replaced reads as what was put there. -/
theorem bits_putBits_same (x : Dword) {h l v : Nat} (hl : l ≤ h) (hh : h < 64) (hv : v < 2 ^ (h + 1 - l)) :
    bits (putBits x h l v) h l = v := by
  apply Nat.eq_of_testBit_eq
  intro j
  rw [testBit_bits, bit_putBits x v hl hh]
  by_cases hj : j < h + 1 - l
  · rw [if_pos (by omega), Nat.add_sub_cancel_left, decide_eq_true hj, Bool.true_and]
  · rw [decide_eq_false hj, Bool.false_and, Nat.testBit_lt_two_pow (hv.trans_le (Nat.pow_le_pow_right two_pos (by omega)))]

/-- A field reads as before where another one is replaced. -/
theorem bits_putBits_other (x : Dword) {h l h' l' : Nat} (v : Nat) (hl : l ≤ h) (hh : h < 64) (hd : h' < l ∨ h < l') :
    bits (putBits x h l v) h' l' = bits x h' l' := by
  apply Nat.eq_of_testBit_eq
  intro j
  rw [testBit_bits, testBit_bits]
  by_cases hj : j < h' + 1 - l'
  · rw [bit_putBits_other x v hl hh (by omega)]
  · rw [decide_eq_false hj, Bool.false_and, Bool.false_and]

/-- The lowest bits cleared. -/
theorem putBits_low (x : Dword) {h : Nat} (hh : h < 64) : putBits x h 0 0 = x &&& ~~~BitVec.ofNat 64 (2 ^ (h + 1) - 1) := by
  apply BitVec.eq_of_getLsbD_eq
  intro i hi
  have hb := bit_putBits x 0 (Nat.zero_le h) hh i
  rw [bit] at hb
  rw [hb, BitVec.getLsbD_and, BitVec.getLsbD_not, BitVec.getLsbD_ofNat, Nat.testBit_two_pow_sub_one, decide_eq_true hi, bit]
  by_cases hih : i ≤ h
  · rw [if_pos ⟨Nat.zero_le i, hih⟩, decide_eq_true (Nat.lt_succ_of_le hih), Nat.zero_testBit]
    simp
  · rw [if_neg (fun h => hih h.2), decide_eq_false (by omega)]
    simp

/-! ### CSRs of a hart -/

@[simp] theorem Hart.rcsr_setRcsr_same (h : Hart) (n : Nat) (v : Dword) : (h.setRcsr n v).rcsr n = v := Tbl.get_put_same _ _ _ _
theorem Hart.rcsr_setRcsr_other (h : Hart) {n k : Nat} (v : Dword) (hn : k ≠ n) : (h.setRcsr n v).rcsr k = h.rcsr k :=
  Tbl.get_put_other _ _ _ hn

/-- The CSRs stay where the mode, the pc and the wait of a hart are set. (In parentheses, so that `simp` rewrites by it and leaves no
conversion to the kernel.) -/
theorem Hart.rcsr_goTo (h : Hart) (md : Mode) (pc : Dword) (wt : Option HartWait) (n : Nat) :
    ({ h with mode := md, pc := pc, wait := wt } : Hart).rcsr n = h.rcsr n := (rfl)

/-! ### Taking an exception or an interrupt -/

/-- Where a handler stands: at BASE, or for an interrupt in vectored mode the cause's 4 bytes on. -/
theorem tvecPc_eq (v : Dword) (cause : Nat) (irq : Bool) :
    tvecPc v cause irq = if irq = true ∧ v.toNat % 4 = 1 then (v &&& ~~~(3 : Dword)) + BitVec.ofNat 64 (4 * cause) else v &&& ~~~(3 : Dword) := by
  have hb : bits v 1 0 = v.toNat % 4 := by rw [bits, nbits, Nat.pow_zero, Nat.div_one]; rfl
  have hp : putBits v 1 0 0 = v &&& ~~~(3 : Dword) := putBits_low v (by decide)
  simp only [tvecPc, hb, hp, Bool.and_eq_true, decide_eq_true_eq, and_comm (a := v.toNat % 4 = 1)]
  rfl

/-- Which mode takes it: M unless medeleg or mideleg delegates it, VS where hedeleg or hideleg delegates that of a guest further. -/
theorem Hart.trapMode_eq (h : Hart) (cause : Nat) (irq : Bool) :
    h.trapMode cause irq =
      (if h.mode = .m ∨ bit (h.rcsr (if irq then 0x303 else 0x302)) cause = false then .m
       else if (h.mode == .vs || h.mode == .vu) = true ∧ bit (h.rcsr (if irq then 0x603 else 0x602)) cause = true then .vs
       else .hs) := by
  simp only [Hart.trapMode, mIDELEG, mEDELEG, hIDELEG, hEDELEG, Bool.or_eq_true, Bool.and_eq_true, beq_iff_eq, Bool.not_eq_true']

/-- The status registers as an entry leaves them: the interrupt enable of the mode that takes it stacked and cleared, and the mode before
recorded. -/
def Hart.mStatusEntered (h : Hart) : Dword :=
  putBits (putBits (putBits (putBits (h.rcsr mSTATUS) 7 7 (b2n (bit (h.rcsr mSTATUS) 3))) 3 3 0) 12 11
    (match h.mode with | .u | .vu => 0 | .vs | .hs => 1 | .m => 3)) 39 39 (b2n (h.mode == .vs || h.mode == .vu))
def Hart.sStatusEntered (h : Hart) : Dword :=
  putBits (putBits (putBits (h.rcsr mSTATUS) 5 5 (b2n (bit (h.rcsr mSTATUS) 1))) 1 1 0) 8 8 (b2n (h.mode == .vs || h.mode == .hs))
def Hart.hStatusEntered (h : Hart) : Dword :=
  if h.mode == .vs || h.mode == .vu then
    putBits (putBits (h.rcsr hSTATUS) 7 7 (b2n (h.mode == .vs || h.mode == .vu))) 8 8 (b2n (h.mode == .vs))
  else putBits (h.rcsr hSTATUS) 7 7 (b2n (h.mode == .vs || h.mode == .vu))
def Hart.vStatusEntered (h : Hart) : Dword :=
  putBits (putBits (putBits (h.rcsr vSTATUS) 5 5 (b2n (bit (h.rcsr vSTATUS) 1))) 1 1 0) 8 8 (b2n (h.mode == .vs))

section
variable {h : Hart} {cause : Nat} {irq : Bool} (tval tval2 : Dword)

theorem Hart.takeTrap_m (hm : h.trapMode cause irq = .m) : h.takeTrap cause irq tval tval2 =
    { (((((h.setRcsr mSTATUS h.mStatusEntered).setRcsr mEPC h.pc).setRcsr mCAUSE (w (cause + 2 ^ 63 * b2n irq))).setRcsr mTVAL tval).setRcsr
        mTVAL2 tval2) with mode := .m, pc := tvecPc (h.rcsr mTVEC) cause irq, wait := none } := by
  simp only [Hart.takeTrap, hm]
  simp (disch := decide) only [Hart.rcsr_setRcsr_other]
  rfl

theorem Hart.takeTrap_hs (hm : h.trapMode cause irq = .hs) : h.takeTrap cause irq tval tval2 =
    { ((((((h.setRcsr mSTATUS h.sStatusEntered).setRcsr hSTATUS h.hStatusEntered).setRcsr xEPC h.pc).setRcsr xCAUSE
        (w (cause + 2 ^ 63 * b2n irq))).setRcsr xTVAL tval).setRcsr hTVAL tval2) with
      mode := .hs, pc := tvecPc (h.rcsr xTVEC) cause irq, wait := none } := by
  simp only [Hart.takeTrap, hm]
  simp (disch := decide) only [Hart.rcsr_setRcsr_other]
  rfl

theorem Hart.takeTrap_vs (hm : h.trapMode cause irq = .vs) : h.takeTrap cause irq tval tval2 =
    { ((((h.setRcsr vSTATUS h.vStatusEntered).setRcsr vEPC h.pc).setRcsr vCAUSE
        (if irq then w (cause - 1 + 2 ^ 63) else w (cause + 2 ^ 63 * b2n irq))).setRcsr vTVAL tval) with
      mode := .vs, pc := tvecPc (h.rcsr vTVEC) (if irq then cause - 1 else cause) irq, wait := none } := by
  simp only [Hart.takeTrap, hm]
  simp (disch := decide) only [Hart.rcsr_setRcsr_other]
  rfl

end

/-- The mode that takes it is never below HS, but for VS. -/
theorem Hart.trapMode_cases (h : Hart) (cause : Nat) (irq : Bool) :
    h.trapMode cause irq = .m ∨ h.trapMode cause irq = .hs ∨ h.trapMode cause irq = .vs := by
  rw [Hart.trapMode_eq]
  split_ifs <;> simp

/-- An entry leaves all of a hart but its mode, its pc, its wait and its CSRs. -/
theorem Hart.takeTrap_frame (h : Hart) (cause : Nat) (irq : Bool) (tval tval2 : Dword) : ∃ csr pc,
    h.takeTrap cause irq tval tval2 = { h with csr := csr, mode := h.trapMode cause irq, pc := pc, wait := none } := by
  obtain hm | hm | hm := h.trapMode_cases cause irq
  · simp only [Hart.takeTrap_m tval tval2 hm, hm, Hart.setRcsr]; exact ⟨_, _, rfl⟩
  · simp only [Hart.takeTrap_hs tval tval2 hm, hm, Hart.setRcsr]; exact ⟨_, _, rfl⟩
  · simp only [Hart.takeTrap_vs tval tval2 hm, hm, Hart.setRcsr]; exact ⟨_, _, rfl⟩

@[simp] theorem decide_b2n_mod_two (v : Bool) : decide (b2n v % 2 = 1) = v := by cases v <;> rfl

section
variable (h : Hart)

theorem Hart.mStatusEntered_fields :
    bit h.mStatusEntered 3 = false ∧ bit h.mStatusEntered 7 = bit (h.rcsr mSTATUS) 3 ∧
    bits h.mStatusEntered 12 11 = (match h.mode with | .u => 0 | .vu => 0 | .vs => 1 | .hs => 1 | .m => 3) ∧
    bit h.mStatusEntered 39 = (h.mode == .vs || h.mode == .vu) := by
  refine ⟨by simp [mStatusEntered, bit_putBits], by simp [mStatusEntered, bit_putBits], ?_, by simp [mStatusEntered, bit_putBits]⟩
  rw [mStatusEntered, bits_putBits_other _ _ (by decide) (by decide) (by decide), bits_putBits_same _ (by decide) (by decide)
    (by cases h.mode <;> decide)]

theorem Hart.sStatusEntered_fields :
    bit h.sStatusEntered 1 = false ∧ bit h.sStatusEntered 5 = bit (h.rcsr mSTATUS) 1 ∧
    bit h.sStatusEntered 8 = (h.mode == .vs || h.mode == .hs) :=
  ⟨by simp [sStatusEntered, bit_putBits], by simp [sStatusEntered, bit_putBits], by simp [sStatusEntered, bit_putBits]⟩

theorem Hart.hStatusEntered_fields :
    bit h.hStatusEntered 7 = (h.mode == .vs || h.mode == .vu) ∧
    ((h.mode == .vs || h.mode == .vu) = true → bit h.hStatusEntered 8 = (h.mode == .vs)) := by
  unfold hStatusEntered
  refine ⟨?_, fun hv => by simp [hv, bit_putBits]⟩
  split_ifs <;> simp [bit_putBits]

theorem Hart.vStatusEntered_fields :
    bit h.vStatusEntered 1 = false ∧ bit h.vStatusEntered 5 = bit (h.rcsr vSTATUS) 1 ∧ bit h.vStatusEntered 8 = (h.mode == .vs) :=
  ⟨by simp [vStatusEntered, bit_putBits], by simp [vStatusEntered, bit_putBits], by simp [vStatusEntered, bit_putBits]⟩

end

/-! ### Returning from one -/

section
variable (y : Hart)

/-- The pc that an entry saved, at an even address. -/
theorem putBits_even (v : Dword) : putBits v 0 0 0 = v &&& ~~~(1 : Dword) := putBits_low v (by decide)

/-- mstatus as mret leaves it: the interrupt enable unstacked, MPP and MPV cleared, and MPRV too where the hart leaves M-mode. -/
def Hart.mStatusReturned (y : Hart) : Dword :=
  putBits (putBits (putBits (putBits (y.rcsr mSTATUS) 3 3 (b2n (bit (y.rcsr mSTATUS) 7))) 7 7 1) 12 11 0) 39 39 0

theorem Hart.mret_status :
    y.mret.rcsr mSTATUS = if y.mret.mode == .m then y.mStatusReturned else putBits y.mStatusReturned 17 17 0 :=
  Hart.rcsr_setRcsr_same _ _ _

theorem Hart.mStatusReturned_fields :
    bit y.mStatusReturned 3 = bit (y.rcsr mSTATUS) 7 ∧ bit y.mStatusReturned 7 = true ∧ bits y.mStatusReturned 12 11 = 0 ∧
    bit y.mStatusReturned 39 = false := by
  refine ⟨?_, ?_, ?_, ?_⟩ <;> simp [mStatusReturned, bit_putBits, bits_putBits_other, bits_putBits_same]

theorem Hart.mret_returns :
    y.mret.pc = (y.rcsr mEPC &&& ~~~(1 : Dword)) ∧
    y.mret.mode = (if bits (y.rcsr mSTATUS) 12 11 = 3 then .m
      else if bits (y.rcsr mSTATUS) 12 11 = 0 then (if bit (y.rcsr mSTATUS) 39 then .vu else .u)
      else if bit (y.rcsr mSTATUS) 39 then .vs else .hs) ∧
    bit (y.mret.rcsr mSTATUS) 3 = bit (y.rcsr mSTATUS) 7 ∧ bit (y.mret.rcsr mSTATUS) 7 = true ∧ bits (y.mret.rcsr mSTATUS) 12 11 = 0 ∧
    bit (y.mret.rcsr mSTATUS) 39 = false ∧ y.mret.x = y.x := by
  have hm : y.mret.mode = (if bits (y.rcsr mSTATUS) 12 11 = 3 then .m
      else if bits (y.rcsr mSTATUS) 12 11 = 0 then (if bit (y.rcsr mSTATUS) 39 then .vu else .u)
      else if bit (y.rcsr mSTATUS) 39 then .vs else .hs) := by
    rw [Hart.mret]
    dsimp only
    split <;> simp_all
  obtain ⟨h3, h7, hpp, h39⟩ := y.mStatusReturned_fields
  rw [y.mret_status]
  refine ⟨putBits_even _, hm, ?_⟩
  split_ifs
  · exact ⟨h3, h7, hpp, h39, rfl⟩
  · refine ⟨?_, ?_, ?_, ?_, rfl⟩ <;> simp [bit_putBits, bits_putBits_other, h3, h7, hpp, h39]

/-- vsstatus as sret leaves it in VS-mode. -/
theorem Hart.sret_vs (hv : y.mode = .vs) :
    y.sret = { y.setRcsr vSTATUS (putBits (putBits (putBits (y.rcsr vSTATUS) 1 1 (b2n (bit (y.rcsr vSTATUS) 5))) 5 5 1) 8 8 0) with
      mode := if bit (y.rcsr vSTATUS) 8 then .vs else .vu, pc := y.rcsr vEPC &&& ~~~(1 : Dword) } := by
  rw [← putBits_even, Hart.sret, hv]
  rfl

theorem Hart.sret_returns (hv : y.mode = .vs) :
    y.sret.pc = (y.rcsr vEPC &&& ~~~(1 : Dword)) ∧ y.sret.mode = (if bit (y.rcsr vSTATUS) 8 then .vs else .vu) ∧
    bit (y.sret.rcsr vSTATUS) 1 = bit (y.rcsr vSTATUS) 5 ∧ bit (y.sret.rcsr vSTATUS) 5 = true ∧ bit (y.sret.rcsr vSTATUS) 8 = false ∧
    y.sret.x = y.x := by
  have hst : y.sret.rcsr vSTATUS = putBits (putBits (putBits (y.rcsr vSTATUS) 1 1 (b2n (bit (y.rcsr vSTATUS) 5))) 5 5 1) 8 8 0 := by
    rw [y.sret_vs hv]
    exact Hart.rcsr_setRcsr_same _ _ _
  rw [hst, y.sret_vs hv]
  exact ⟨rfl, rfl, by simp [bit_putBits], by simp [bit_putBits], by simp [bit_putBits], rfl⟩

end

/-! ### The words of the returns -/

theorem State.rvStep_mret (s : State) {h : Nat} (hm : (s.hart h).mode = .m) : s.rvStep h 0x30200073 = s.setHart h (s.hart h).mret := by
  rw [s.rvStep_opcode h rfl rfl]
  show s.rvPriv h 0x30200073 = _
  simp [State.rvPriv, hm, State.modHart_eq]

theorem State.rvStep_sret (s : State) {h : Nat} (hv : (s.hart h).mode = .vs) (ht : bit ((s.hart h).rcsr hSTATUS) 22 = false) :
    s.rvStep h 0x10200073 = s.setHart h (s.hart h).sret := by
  rw [s.rvStep_opcode h rfl rfl]
  show s.rvPriv h 0x10200073 = _
  simp [State.rvPriv, hv, ht, State.modHart_eq]

/-- The cause register's word. -/
theorem causeWord_eq (cause : Nat) (irq : Bool) :
    (w (cause + 2 ^ 63 * b2n irq) : Dword) = BitVec.ofNat 64 (cause + if irq then 2 ^ 63 else 0) := by cases irq <;> rfl

/-- Settles O23: the words of the returns by `mret_returns` and `sret_returns`, an entry by the mode that takes it. -/
theorem hartExceptionEntry : Obligations.HartExceptionEntry := by
  refine ⟨fun s h => ⟨fun hm => ⟨_, s.rvStep_mret hm, Hart.mret_returns _⟩, fun hv ht => ⟨_, s.rvStep_sret hv ht, Hart.sret_returns _ hv⟩⟩, ?_⟩
  intro h cause irq tval tval2 _ t cw base handler virt
  obtain ⟨csr, pc, ht⟩ := h.takeTrap_frame cause irq tval tval2
  refine ⟨h.trapMode_eq cause irq, ?_, ?_, ?_, ?_, ?_, ?_, ?_, ?_, ?_, ?_, ?_, fun hm => ?m, fun hm => ?hs, fun hm => ?vs⟩
  case m =>
    rw [show t = _ from Hart.takeTrap_m tval tval2 hm]
    simp (disch := decide) only [Hart.rcsr_goTo, Hart.rcsr_setRcsr_same, Hart.rcsr_setRcsr_other, true_and, and_true]
    obtain ⟨h3, h7, hpp, hv⟩ := h.mStatusEntered_fields
    exact ⟨causeWord_eq cause irq, tvecPc_eq _ _ _, h3, h7, hpp, hv⟩
  case hs =>
    rw [show t = _ from Hart.takeTrap_hs tval tval2 hm]
    simp (disch := decide) only [Hart.rcsr_goTo, Hart.rcsr_setRcsr_same, Hart.rcsr_setRcsr_other, true_and, and_true]
    obtain ⟨h1, h5, h8⟩ := h.sStatusEntered_fields
    obtain ⟨hv, hp⟩ := h.hStatusEntered_fields
    exact ⟨causeWord_eq cause irq, tvecPc_eq _ _ _, h1, h5, h8, hv, hp⟩
  case vs =>
    rw [show t = _ from Hart.takeTrap_vs tval tval2 hm]
    simp (disch := decide) only [Hart.rcsr_goTo, Hart.rcsr_setRcsr_same, Hart.rcsr_setRcsr_other, true_and]
    obtain ⟨h1, h5, h8⟩ := h.vStatusEntered_fields
    refine ⟨?_, ?_, h1, h5, h8⟩
    · cases irq <;> rfl
    · rw [tvecPc_eq]
      cases irq <;> rfl
  all_goals rw [show t = _ from ht]

end Sys2Proof.Machine
end


section
/-! PROOF. The end of an install (R156, R193, R214): its trace record, its result, and what is left of its region. -/

namespace Sys2Proof.Machine

open Sys2Proof.Config

/-! ### Trace records -/

/-- A change of a partition reads the partitions and changes them alone. -/
theorem State.modPart_congr {s t : State} (h : t.parts = s.parts) (p : Nat) (f : Partition → Partition) :
    t.modPart p f = { t with parts := (s.modPart p f).parts } := by
  unfold State.modPart State.setPart State.part
  rw [h]

/-- A trace record reads the memory, the partitions and what it names of its region, and changes memory and the partition's trace
registers alone. -/
theorem State.trace_congr {s t : State} {rn : Nat} {r q : Region} (hr : s.region? rn = some r) (hq : t.region? rn = some q)
    (hm : t.mem = s.mem) (hP : t.parts = s.parts) (hp : q.part = r.part) (hv : q.version = r.version) (hc : q.cycles = r.cycles)
    (kind d0 d1 : Nat) :
    t.trace rn kind d0 d1 = { t with mem := (s.trace rn kind d0 d1).mem, parts := (s.trace rn kind d0 d1).parts } := by
  have hpart : ∀ p, t.part p = s.part p := fun p => by unfold State.part; rw [hP]
  have hw : ∀ p ga bs, t.gwrite p ga bs = { t with mem := (s.gwrite p ga bs).mem } := fun p ga bs => by
    unfold State.gwrite State.gpa
    rw [hpart, hm]
    split
    · rfl
    · rw [← hm]
  have hsame : t = { t with mem := s.mem, parts := s.parts } := by rw [← hm, ← hP]
  unfold State.trace
  rw [hr, hq]
  dsimp only
  rw [hp, hv, hc, hpart]
  split
  · exact hsame
  · split
    · exact hsame
    · split
      · unfold State.setPart
        rw [hP, ← hm]
      · rw [hw]
        refine State.modPart_congr ?_ _ _
        exact hP.trans (State.onlyMem_parts (s.gwrite_onlyMem _ _ _)).symm

/-! ### Frames of the shared operations -/

/-- Two states with the same regions and tiles, and in each partition the same results still to be written. -/
def State.sameInstalls (s t : State) : Prop :=
  t.regions = s.regions ∧ t.tiles = s.tiles ∧ ∀ p, (t.part p).results = (s.part p).results

theorem State.sameInstalls_refl (s : State) : s.sameInstalls s := ⟨rfl, rfl, fun _ => rfl⟩
theorem State.sameInstalls_trans {s t u : State} (h : s.sameInstalls t) (h' : t.sameInstalls u) : s.sameInstalls u :=
  ⟨h'.1.trans h.1, h'.2.1.trans h.2.1, fun p => (h'.2.2 p).trans (h.2.2 p)⟩
theorem State.sameInstalls_onlyMem {s t : State} (h : s.onlyMem t) : s.sameInstalls t :=
  ⟨State.onlyMem_regions h, by rw [h], fun p => by rw [State.onlyMem_part h]⟩
theorem State.sameInstalls_modPart (s : State) (p : Nat) (f : Partition → Partition) (hf : ∀ P, (f P).results = P.results) :
    s.sameInstalls (s.modPart p f) := by
  refine ⟨rfl, rfl, fun q => ?_⟩
  by_cases hq : q = p
  · subst hq
    rw [State.modPart, State.part_setPart_same, hf]
  · rw [State.modPart, State.part_setPart_other _ _ hq]
theorem State.sameInstalls_trace (s : State) (rn kind d0 d1 : Nat) : s.sameInstalls (s.trace rn kind d0 d1) := by
  obtain ⟨hr, ht, -, -, -, -, hp⟩ := s.trace_spec rn kind d0 d1
  exact ⟨hr, ht, fun p => by rw [hp p]⟩
theorem State.sameInstalls_post (s : State) (p : Nat) (guest hv : Bool) (r : FaultRec) : s.sameInstalls (s.post p guest hv r) := by
  unfold State.post
  dsimp only
  generalize hu : (if (guest && (s.part p).fqFull) = true then s.errCount p 8 else s) = u
  have h1 : s.sameInstalls u := by
    subst hu; split
    · exact State.sameInstalls_onlyMem (s.errCount_onlyMem _ _)
    · exact s.sameInstalls_refl
  have h2 := State.sameInstalls_trans h1 (u.sameInstalls_modPart p (fun P => { P with
    nextFid := nextFid P.nextFid, fqWait := if guest then P.fqWait ++ [{ r with fid := (s.part p).nextFid, part := p }] else P.fqWait })
    fun _ => rfl)
  cases hv <;> exact h2
theorem State.sameInstalls_withholdHart (s : State) (rn : Nat) (who : Holder) (x : Xlate) (detail : Nat) (f : XFault) (write : Bool)
    (va : Nat) : s.sameInstalls (s.withholdHart rn who x detail f write va) :=
  State.sameInstalls_trans (State.sameInstalls_trans (s.sameInstalls_post _ _ _ _) (State.sameInstalls_trace _ _ _ _ _))
    (State.sameInstalls_modPart _ _ _ fun _ => rfl)

/-! ### The result of an install and its region (R144, R156, R214) -/

/-- What the end of an install leaves, in a state whose trace record is written (u): of an rg.cfg the result is written and its region in
state st with version v, or waits for its page; of a CFG the register is filled. -/
structure InstallEnds (u : State) (tiles : Tbl Tile) (rn : Nat) (r : Region) (i : Install) (st : RgState) (v : Half) (result : List Byte)
    (token : Nat) (t : State) (g : Region) : Prop where
  region : t.region? rn = some g
  inst : g.inst = none
  tiles : t.tiles = tiles
  version : g.version = r.version ∨ g.version = v
  seq : i.byCfg = false → g.seq = r.seq
  written : i.byCfg = false → ∀ m, vwrite u.mem i.xl i.result.toNat result = .ok m → t.mem = m ∧ g.state = st ∧ g.version = v
  waits : i.byCfg = false → ∀ o f, vwrite u.mem i.xl i.result.toNat result = .error (o, f) → f.kind = .page →
    g.state = r.state ∧ g.version = r.version ∧ (t.part i.xl.part).results = (u.part i.xl.part).results ++
      [{ addr := i.result, xl := i.xl, bytes := result, next := some (rn, st, v) }]
  filled : i.byCfg = true → t.mem = u.mem ∧ t.parts = u.parts ∧ g.version = v ∧ g.state = r.state ∧
    g.seq = { (r.seq.set i.reg (BitVec.ofNat 64 token)) with cfgReg := none }

/-- The write of a result, and the state of the region that names it. -/
theorem State.putResult_ends {s : State} {rn : Nat} {g : Region} (hg : s.region? rn = some g) (c : CfgResult) {st : RgState} {v : Half}
    (hc : c.next = some (rn, st, v)) : ∃ x y,
    (s.putResult rn c).region? rn = some { g with state := x, version := y } ∧ (s.putResult rn c).tiles = s.tiles ∧
    (y = g.version ∨ y = v) ∧
    (∀ m, vwrite s.mem c.xl c.addr.toNat c.bytes = .ok m → (s.putResult rn c).mem = m ∧ x = st ∧ y = v) ∧
    (∀ o f, vwrite s.mem c.xl c.addr.toNat c.bytes = .error (o, f) → f.kind = .page → x = g.state ∧ y = g.version ∧
      ((s.putResult rn c).part c.xl.part).results = (s.part c.xl.part).results ++ [c]) := by
  have hin : ∀ m, ({ s with mem := m } : State).installed c = ({ s with mem := m } : State).setRegion rn { g with state := st, version := v } :=
    fun m => by
      unfold State.installed
      rw [hc]
      exact State.modRegion_eq (s := { s with mem := m }) hg _
  unfold State.putResult
  cases hv : vwrite s.mem c.xl c.addr.toNat c.bytes with
  | ok m =>
    refine ⟨st, v, ?_, ?_, .inr rfl, fun _ hm => ?_, fun _ _ he => (nomatch he)⟩
    · dsimp only
      rw [hin, State.region?_setRegion_same]
    · dsimp only
      rw [hin]
      rfl
    · dsimp only
      rw [hin]
      exact ⟨Except.ok.inj hm, rfl, rfl⟩
  | error e =>
    obtain ⟨o, f⟩ := e
    dsimp only
    by_cases hk : f.kind = .page
    · rw [if_pos (by rw [hk]; rfl)]
      obtain ⟨hr, ht, hp⟩ := s.sameInstalls_withholdHart rn (.result c.addr) c.xl o f true (c.addr.toNat + o)
      refine ⟨g.state, g.version, ?_, ht, .inl rfl, fun _ hm => (nomatch hm), fun _ _ _ _ => ⟨rfl, rfl, ?_⟩⟩
      · unfold State.region? at hg ⊢
        rw [State.modPart_regions, hr]
        exact hg
      · rw [State.modPart, State.part_setPart_same, hp]
    · rw [if_neg (by simp [hk]), hin s.mem]
      refine ⟨st, v, State.region?_setRegion_same _ _ _, rfl, .inr rfl, fun _ hm => (nomatch hm), fun _ f' he hk' => ?_⟩
      cases he
      exact absurd hk' hk

section
variable {s u : State} {rn : Nat} {r : Region} {i : Install} (hr : s.region? rn = some r) (hi : r.inst = some i)
  (win : Option (Nat × Nat)) (idx : Option Byte)
include hr hi

/-- The end of an install whose trace record is u's: with success the region is READY with the new version, else CLAIMED with its own. -/
theorem State.installEnd_ends {status off : Nat} (hu : s.trace rn 6 status off = { s with mem := u.mem, parts := u.parts }) : ∃ g,
    InstallEnds u s.tiles rn r i (if status = cOK then .ready else .claimed) (if status = cOK then i.version else r.version)
      (installResult status win idx off i.version.toNat (freeWord s.freeCtr)) (status * 2 ^ 48 + off)
      (s.installEnd rn status win idx off) g := by
  unfold State.installEnd
  rw [hr]
  dsimp only
  rw [hi]
  dsimp only
  rw [hu]
  have hr' : ({ s with mem := u.mem, parts := u.parts } : State).region? rn = some r := hr
  cases hb : i.byCfg
  case false =>
    rw [if_neg Bool.false_ne_true, State.modRegion_eq hr']
    obtain ⟨x, y, hg, ht, hy, hok, hpage⟩ := State.putResult_ends (rn := rn) (g := { r with inst := none })
      (s := { ({ s with mem := u.mem, parts := u.parts } : State).setRegion rn { r with inst := none } with freeCtr := s.freeCtr + 1 })
      (State.region?_setRegion_same _ _ _)
      { addr := i.result, xl := i.xl, bytes := installResult status win idx off i.version.toNat (freeWord s.freeCtr)
        next := some (rn, if status = cOK then .ready else .claimed, if status = cOK then i.version else r.version) } rfl
    exact ⟨_, hg, rfl, ht, hy, fun _ => rfl, fun _ => hok, fun _ => hpage, fun h => absurd h (by simp [hb])⟩
  case true =>
    rw [if_pos rfl, State.modRegion_eq hr', State.modSeq_eq (State.region?_setRegion_same _ _ _), State.setRegion_setRegion]
    exact ⟨_, State.region?_setRegion_same _ _ _, rfl, rfl, .inr rfl, fun h => absurd h (by simp [hb]), fun h => absurd h (by simp [hb]),
      fun h => absurd h (by simp [hb]), fun _ => ⟨rfl, rfl, rfl, rfl, rfl⟩⟩

end

end Sys2Proof.Machine
end


section
/-! PROOF. One word of an install (R49-R51): the end it makes of the install where it is rejected or last, and the change it makes
otherwise. -/

namespace Sys2Proof.Machine

open Sys2Proof.Config

/-! ### Changes of tiles alone -/

/-- Two states that agree but for their tiles. -/
def State.onlyTiles (s t : State) : Prop := t = { s with tiles := t.tiles }

section
variable {s t : State} (h : s.onlyTiles t)
include h
theorem State.onlyTiles_region (n : Nat) : t.region? n = s.region? n := by rw [h]; rfl
theorem State.onlyTiles_setRegion (n : Nat) (x : Region) : (s.setRegion n x).onlyTiles (t.setRegion n x) := by rw [h]; rfl
end

theorem State.onlyTiles_refl (s : State) : s.onlyTiles s := rfl
theorem State.onlyTiles_trans {s t u : State} (h : s.onlyTiles t) (h' : t.onlyTiles u) : s.onlyTiles u := by rw [h', h]; rfl
theorem State.onlyTiles_setTile (s : State) (n : Nat) (x : Tile) : s.onlyTiles (s.setTile n x) := rfl
theorem State.onlyTiles_foldl {α : Type} {f : State → α → State} (hf : ∀ (s : State) a, s.onlyTiles (f s a)) (l : List α) (s : State) :
    s.onlyTiles (l.foldl f s) := by
  induction l generalizing s with
  | nil => exact s.onlyTiles_refl
  | cons a l ih => exact State.onlyTiles_trans (hf s a) (ih _)

/-! ### Performing a word -/

section
variable {s t : State} {r : Region} {i : Install} {f : Region → Install → State → Except Reject State}
  (hr : s.region? s.curReg = some r) (hi : r.inst = some i) (he : i.ended = false)
include hr hi he

/-- A rejected word ends the install. -/
theorem State.streamWordDo_error {x : Reject} (hf : f r i s = .error x) :
    s.streamWordDo f = (x.leaves s).installEnd s.curReg x.status (x.win <|> i.win) (some x.idx) i.next := by
  unfold State.streamWordDo
  simp only [hr, hi, he, hf, Bool.false_eq_true, if_false]

variable {r' : Region} {j : Install} (hf : f r i s = .ok t) (ht : t.region? s.curReg = some r') (hj : r'.inst = some j)
include hf ht hj

/-- A word that is not the last leaves the stream at the next one. -/
theorem State.streamWordDo_next (hn : j.next + 1 < j.count) :
    s.streamWordDo f = t.setRegion s.curReg { r' with inst := some { j with next := j.next + 1 } } := by
  unfold State.streamWordDo
  simp only [hr, hi, he, hf, Bool.false_eq_true, if_false, State.modRegion_eq ht, hj, Option.map_some, State.region?_setRegion_same,
    Option.bind_some, if_pos hn]

/-- END as the last word ends the install with success. -/
theorem State.streamWordDo_last (hn : j.next + 1 = j.count) (hd : j.ended = true) :
    s.streamWordDo f = (t.setRegion s.curReg { r' with inst := some { j with next := j.count } }).installEnd s.curReg cOK none none j.count := by
  unfold State.streamWordDo
  simp only [hr, hi, he, hf, Bool.false_eq_true, if_false, State.modRegion_eq ht, hj, Option.map_some, State.region?_setRegion_same,
    Option.bind_some, hn, lt_irrefl, hd, if_true]

end

/-! ### Commands that change the install -/

theorem State.modInst_eq {s : State} {rn : Nat} {r : Region} {i : Install} (hr : s.region? rn = some r) (hi : r.inst = some i)
    (g : Install → Install) : s.modInst rn g = s.setRegion rn { r with inst := some (g i) } := by
  rw [State.modInst, State.modRegion_eq hr, hi]
  rfl

/-- A word that changes its install beside what it changes of the state, and is not the last. -/
theorem State.streamWordDo_modInst {s t : State} {r q : Region} {i : Install} {f : Region → Install → State → Except Reject State}
    (hr : s.region? s.curReg = some r) (hi : r.inst = some i) (he : i.ended = false) (hn : i.next + 1 < i.count) {g : Install → Install}
    (hf : f r i s = .ok (t.modInst s.curReg g)) (ht : t.region? s.curReg = some q) (hq : q.inst = some i)
    (hnext : (g i).next = i.next) (hcount : (g i).count = i.count) :
    s.streamWordDo f = t.setRegion s.curReg { q with inst := some { g i with next := i.next + 1 } } := by
  rw [State.modInst_eq ht hq] at hf
  rw [State.streamWordDo_next hr hi he hf (State.region?_setRegion_same _ _ _) rfl (by rw [hnext, hcount]; exact hn),
    State.setRegion_setRegion, hnext]

/-! ### Words that change tiles (R50-R53, R191, R236) -/

/-- Nothing is found under a key that a filter drops. -/
theorem Tbl.find_filter_drop {α : Type} (t : Tbl α) {p : Nat × α → Bool} {k : Nat} (hp : ∀ v, p (k, v) = false) :
    Tbl.find (t.filter p) k = none := by
  induction t with
  | nil => rfl
  | cons x t ih =>
    obtain ⟨a, v⟩ := x
    rw [List.filter_cons]
    split
    · next h =>
      have hk : a ≠ k := fun e => by rw [e, hp] at h; cases h
      simp only [Tbl.find, if_neg hk, ih]
    · exact ih

theorem State.zeroTiles_tile (s : State) {r : Region} {n : Nat} (h : r.covers n = true) : (s.zeroTiles r).tile n = Tile.cleared := by
  unfold State.tile State.zeroTiles Tbl.get
  rw [Tbl.find_filter_drop _ fun _ => by simp [h]]
  rfl

/-- A change of the listed tiles leaves each as it was or changed. -/
theorem State.modListed_tile (s : State) (r : Region) (f : Tile → Tile) (n : Nat) :
    (s.modListed r f).tile n = s.tile n ∨ (s.modListed r f).tile n = f (s.tile n) := by
  unfold State.tile State.modListed Tbl.get
  dsimp only
  rw [Tbl.find_map _ fun x => by split <;> rfl]
  cases s.tiles.find n with
  | none => exact .inl rfl
  | some x =>
    dsimp only [Option.map_some, Option.getD_some]
    split
    · exact .inr rfl
    · exact .inl rfl

theorem State.modTiles_only (s : State) (l : List Nat) (f : Nat → Tile → Tile) : s.onlyTiles (s.modTiles l f) :=
  State.onlyTiles_foldl (fun s n => s.onlyTiles_setTile n _) l s

theorem State.modTile_tile_same (s : State) (n : Nat) (f : Tile → Tile) : (s.modTile n f).tile n = f (s.tile n) :=
  State.tile_setTile_same _ _ _
theorem State.modTile_tile_other (s : State) {n k : Nat} (f : Tile → Tile) (h : k ≠ n) : (s.modTile n f).tile k = s.tile k :=
  State.tile_setTile_other _ _ h

theorem State.modTiles_tile_other {l : List Nat} {n : Nat} (h : n ∉ l) (s : State) (f : Nat → Tile → Tile) :
    (s.modTiles l f).tile n = s.tile n := by
  induction l generalizing s with
  | nil => rfl
  | cons a l ih =>
    rw [List.mem_cons, not_or] at h
    exact (ih h.2 _).trans (s.modTile_tile_other _ h.1)

/-- A change that is made once or more to each tile of a list, and that made again changes nothing. -/
theorem State.modTiles_tile {l : List Nat} {n : Nat} (h : n ∈ l) (s : State) {f : Nat → Tile → Tile} (hf : ∀ x, f n (f n x) = f n x) :
    (s.modTiles l f).tile n = f n (s.tile n) := by
  induction l generalizing s with
  | nil => cases h
  | cons a l ih =>
    show ((s.modTile a (f a)).modTiles l f).tile n = _
    by_cases hl : n ∈ l
    · rw [ih hl]
      by_cases ha : n = a
      · rw [← ha, State.modTile_tile_same, hf]
      · rw [s.modTile_tile_other _ ha]
    · obtain rfl : n = a := by simpa [hl] using h
      rw [State.modTiles_tile_other hl, State.modTile_tile_same]

/-- The listed tiles of a window. -/
def State.winListed (s : State) (r : Region) (win : Nat × Nat) : List Nat :=
  ((List.range 256).filterMap (r.winTile win)).filter fun n => (s.tiles.find n).isSome

theorem State.mem_winListed {s : State} {r : Region} {win : Nat × Nat} {n : Nat} :
    n ∈ s.winListed r win ↔ (∃ k, k < 256 ∧ r.winTile win k = some n) ∧ (s.tiles.find n).isSome = true := by
  simp [State.winListed]

/-- The good elements of a window cleared (R236). -/
def State.zeroWindow (s : State) (r : Region) (win : Nat × Nat) : State :=
  s.modTiles ((s.winListed r win).filter fun n => !s.fusedAt n) fun _ t => t.zeroed

theorem State.zeroWindow_only (s : State) (r : Region) (win : Nat × Nat) : s.onlyTiles (s.zeroWindow r win) := s.modTiles_only _ _

/-- A good tile of the window is cleared but for what its CRC check gathers: a listed one by ZWIN, an unlisted one is clear. -/
theorem State.zeroWindow_tile {s : State} {r : Region} {win : Nat × Nat} {k n : Nat} (hk : k < 256) (hw : r.winTile win k = some n)
    (hf : s.fusedAt n = false) : (s.zeroWindow r win).tile n =
      { Tile.cleared with crcAcc := ((s.zeroWindow r win).tile n).crcAcc, crcLo := ((s.zeroWindow r win).tile n).crcLo } := by
  by_cases hl : (s.tiles.find n).isSome = true
  · have hm : n ∈ (s.winListed r win).filter fun n => !s.fusedAt n :=
      List.mem_filter.2 ⟨State.mem_winListed.2 ⟨⟨k, hk, hw⟩, hl⟩, by rw [hf]; rfl⟩
    have ht : (s.zeroWindow r win).tile n = (s.tile n).zeroed := State.modTiles_tile hm s fun _ => rfl
    rw [ht]
    rfl
  · have hm : n ∉ (s.winListed r win).filter fun n => !s.fusedAt n := fun hm => hl (State.mem_winListed.1 (List.mem_filter.1 hm).1).2
    have hc : s.tile n = Tile.cleared := by
      unfold State.tile Tbl.get
      rw [Option.not_isSome_iff_eq_none.1 hl]
      rfl
    have ht : (s.zeroWindow r win).tile n = Tile.cleared := (State.modTiles_tile_other hm s _).trans hc
    rw [ht]

theorem State.zeroWindow_tile_outside {s : State} {r : Region} {win : Nat × Nat} {n : Nat}
    (h : ∀ k, k < 256 → r.winTile win k ≠ some n) : (s.zeroWindow r win).tile n = s.tile n := by
  refine State.modTiles_tile_other (fun hm => ?_) s _
  obtain ⟨⟨k, hk, hw⟩, -⟩ := State.mem_winListed.1 (List.mem_filter.1 hm).1
  exact h k hk hw

/-- A tile whose CRC begins anew (R53). -/
def Tile.crcBegun (t : Tile) : Tile := { t with crcAcc := 0xFFFFFFFF }

/-- The tiles of a region at BEGIN: cleared in a full install, with their CRCs begun anew otherwise (R50, R191). -/
def State.tilesBegun (s : State) (r : Region) (full : Bool) : State := if full then s.zeroTiles r else s.modListed r Tile.crcBegun

theorem State.tilesBegun_only (s : State) (r : Region) (full : Bool) : s.onlyTiles (s.tilesBegun r full) := by cases full <;> rfl
theorem State.tilesBegun_curReg (s : State) (r : Region) (full : Bool) : (s.tilesBegun r full).curReg = s.curReg := by cases full <;> rfl
theorem State.tilesBegun_tile (s : State) (r : Region) (n : Nat) : ∃ c, (s.tilesBegun r false).tile n = { s.tile n with crcAcc := c } := by
  obtain h | h := s.modListed_tile r Tile.crcBegun n
  · exact ⟨_, h⟩
  · exact ⟨_, h⟩

/-- Two states that agree but for the marks of loop inputs (R240). -/
def State.onlyLoops (s t : State) : Prop := s.onlyTiles t ∧ ∀ n, ∃ l, t.tile n = { s.tile n with loopIn := l }

theorem State.onlyLoops_trans {s t u : State} (h : s.onlyLoops t) (h' : t.onlyLoops u) : s.onlyLoops u := by
  refine ⟨State.onlyTiles_trans h.1 h'.1, fun n => ?_⟩
  obtain ⟨l, hl⟩ := h.2 n
  obtain ⟨l', hl'⟩ := h'.2 n
  exact ⟨l', by rw [hl', hl]⟩

theorem State.onlyLoops_modListed (s : State) (r : Region) (l : BitVec 4) : s.onlyLoops (s.modListed r fun t => { t with loopIn := l }) := by
  refine ⟨rfl, fun n => ?_⟩
  obtain h | h := s.modListed_tile r (fun t => { t with loopIn := l }) n
  · exact ⟨_, h⟩
  · exact ⟨_, h⟩

theorem State.onlyLoops_modTile (s : State) (k : Nat) {f : Tile → Tile} (hf : ∀ x, ∃ l, f x = { x with loopIn := l }) :
    s.onlyLoops (s.modTile k f) := by
  refine ⟨rfl, fun n => ?_⟩
  by_cases hn : n = k
  · rw [hn, State.modTile_tile_same]
    exact hf _
  · rw [s.modTile_tile_other _ hn]
    exact ⟨_, rfl⟩

theorem State.onlyLoops_foldl {α : Type} {f : State → α → State} (hf : ∀ (s : State) a, s.onlyLoops (f s a)) (l : List α) (s : State) :
    s.onlyLoops (l.foldl f s) := by
  induction l generalizing s with
  | nil => exact ⟨rfl, fun _ => ⟨_, rfl⟩⟩
  | cons a l ih => exact State.onlyLoops_trans (hf s a) (ih _)

theorem State.onlyLoops_markLoops (s : State) (r : Region) : s.onlyLoops (s.markLoops r) := by
  refine State.onlyLoops_trans (s.onlyLoops_modListed r 0) (State.onlyLoops_foldl ?_ _ _)
  refine fun s x => s.onlyLoops_modTile x.1 fun t => ?_
  split
  · exact ⟨_, rfl⟩
  · exact ⟨_, rfl⟩

/-! ### Element writes (R52, R53, R192, R214) -/

/-- Whether an install may write a field of a tile: not in a lost window, a fused-off element but for ZERO and switch fields, or, by CFG, a
tile of an armed section. -/
def State.mayWrite (s : State) (r : Region) (i : Install) (n : Nat) (fld : Byte) : Bool :=
  !(s.lostAt n || (s.fusedAt n && fld.toNat != 0xF1 && !inR fld.toNat 0xC8 0xEF) || (i.byCfg && s.armed r n))

theorem State.mayWrite_iff {s : State} {r : Region} {i : Install} {n : Nat} {fld : Byte} : s.mayWrite r i n fld = true ↔
    (s.lostAt n || (s.fusedAt n && fld.toNat != 0xF1 && !inR fld.toNat 0xC8 0xEF) || (i.byCfg && s.armed r n)) = false := by
  rw [State.mayWrite, Bool.not_eq_true']

theorem State.mayWrite_of {s : State} {r : Region} {i : Install} {n : Nat} {fld : Byte} (hl : s.lostAt n = false)
    (hf : s.fusedAt n = false ∨ fld = 0xF1 ∨ (0xC8 ≤ fld.toNat ∧ fld.toNat ≤ 0xEF)) (ha : i.byCfg = false ∨ s.armed r n = false) :
    s.mayWrite r i n fld = true := by
  have hfused : (s.fusedAt n && fld.toNat != 0xF1 && !inR fld.toNat 0xC8 0xEF) = false := by
    obtain h | rfl | ⟨h1, h2⟩ := hf
    · simp [h]
    · simp
    · simp [inR, h1, h2]
  have harm : (i.byCfg && s.armed r n) = false := by
    obtain h | h := ha <;> simp [h]
  rw [State.mayWrite_iff, hl, hfused, harm]
  rfl

/-- A tile after an accepted element write, from what the field makes of it: its CRC has taken the words of the write, but for the CRC
fields themselves, and it joins the section, but for ZERO and where it is fused off. -/
def Install.tileWritten (i : Install) (fused : Bool) (idx fld : Byte) (v : BitVec 16) (t : Tile) : Tile :=
  let t := if fld.toNat = 0xF3 || fld.toNat = 0xF4 then t
    else { t with crcAcc := crcRun castagnoli t.crcAcc ((crcWords i (idx ++ fld ++ v)).flatMap (fun x => leBytes x.toNat 4)) }
  if fld.toNat = 0xF1 || fused then t else { t with sect := some i.section_ }

theorem Install.tileWritten_eq (i : Install) (fused : Bool) (idx fld : Byte) (v : BitVec 16) (t : Tile) :
    i.tileWritten fused idx fld v t =
      { t with crcAcc := (i.tileWritten fused idx fld v t).crcAcc
               sect := if fld = 0xF1 ∨ fused = true then t.sect else some i.section_ } := by
  have hfld : fld.toNat = 0xF1 ↔ fld = 0xF1 := BitVec.toNat_inj (y := (0xF1 : Byte))
  unfold Install.tileWritten
  simp only [Bool.or_eq_true, decide_eq_true_eq, hfld]
  split <;> split <;> rfl

theorem Install.tileWritten_crc (i : Install) (fused : Bool) {idx fld : Byte} (v : BitVec 16) (t : Tile) (h : fld.toNat < 0xC8) :
    (i.tileWritten fused idx fld v t).crcAcc = crcRun castagnoli t.crcAcc
      ((i.crcHi.toList ++ i.crcEsc.toList ++ [idx ++ fld ++ v]).flatMap (fun y => leBytes y.toNat 4)) := by
  have hcrc : (decide (fld.toNat = 0xF3) || decide (fld.toNat = 0xF4)) = false := by
    rw [decide_eq_false (by omega), decide_eq_false (by omega)]
    rfl
  simp only [Install.tileWritten, hcrc, Bool.false_eq_true, if_false]
  split <;> rfl

end Sys2Proof.Machine
end


section
/-! PROOF. The words of configuration streams (O42; R49-R53, R156, R192, R193, R214): what each does where it is performed, and where it is
rejected. -/

namespace Sys2Proof.Machine

open Sys2Proof Sys2Proof.Config

section
variable {s : State} {r : Region} {i : Install} (hr : s.region? s.curReg = some r) (hi : r.inst = some i) (he : i.ended = false)
include hr hi he

section
variable (hn : i.next + 1 < i.count)
include hn

/-! ### BEGIN (R50, R191) -/

theorem exec_cfgBegin_cfg {v : BitVec 16} (hb : i.begun = false) (hv : v ≠ 0) (hc : i.byCfg = true) :
    exec (.cfgBegin v) s = .next ((s.tilesBegun r i.full).setRegion s.curReg
      { r with cfgFrom := some r.cycles, inst := some { i with begun := true, version := v, next := i.next + 1 } }) := by
  have hcfg : ((s.tilesBegun r i.full).modRegion s.curReg fun g => { g with cfgFrom := some g.cycles }) =
      (s.tilesBegun r i.full).setRegion s.curReg { r with cfgFrom := some r.cycles } :=
    State.modRegion_eq ((State.onlyTiles_region (s.tilesBegun_only r i.full) _).trans hr) _
  refine congrArg Host.Outcome.next ((State.streamWordDo_modInst hr hi he hn (g := fun i => { i with begun := true, version := v })
    (t := (s.tilesBegun r i.full).setRegion s.curReg { r with cfgFrom := some r.cycles })
    ?_ (State.region?_setRegion_same _ _ _) hi rfl rfl).trans (State.setRegion_setRegion _ _ _ _))
  simp only [hb, hc, beq_eq_false_iff_ne.2 hv, Bool.or_self, Bool.false_eq_true, if_false, if_true, State.modRegion_curReg]
  rw [← hcfg, ← State.tilesBegun_curReg s r i.full]
  rfl

theorem exec_cfgBegin_host {v : BitVec 16} (hb : i.begun = false) (hv : v ≠ 0) (hc : i.byCfg = false) :
    exec (.cfgBegin v) s = .next ((s.tilesBegun r i.full).setRegion s.curReg
      { r with inst := some { i with begun := true, version := v, next := i.next + 1 } }) := by
  refine congrArg Host.Outcome.next (State.streamWordDo_modInst hr hi he hn (g := fun i => { i with begun := true, version := v })
    ?_ ((State.onlyTiles_region (s.tilesBegun_only r i.full) _).trans hr) hi rfl rfl)
  simp only [hb, hc, beq_eq_false_iff_ne.2 hv, Bool.or_self, Bool.false_eq_true, if_false]
  rw [← State.tilesBegun_curReg s r i.full]
  rfl

/-! ### NOP, HI, ESC, WIN and SECT (R50, R51) -/

section
variable (hb : i.begun = true)
include hb

theorem exec_cfgNop : exec (.cfgNop 0) s = .next (s.setRegion s.curReg { r with inst := some { i with next := i.next + 1 } }) :=
  congrArg Host.Outcome.next (State.streamWordDo_next hr hi he (by simp [hb]) hr hi hn)

theorem exec_cfgHi (v : BitVec 16) : exec (.cfgHi v) s = .next (s.setRegion s.curReg
    { r with inst := some { i with hi := some v, crcHi := some (BitVec.ofNat 32 (0xFF040000 + v.toNat)), next := i.next + 1 } }) :=
  congrArg Host.Outcome.next (State.streamWordDo_modInst hr hi he hn
    (g := fun i => { i with hi := some v, crcHi := some (BitVec.ofNat 32 (0xFF040000 + v.toNat)) })
    (if_pos hb) hr hi rfl rfl)

theorem exec_cfgEsc : exec (.cfgEsc 0) s = .next (s.setRegion s.curReg
    { r with inst := some { i with esc := true, crcEsc := some 0xFF060000, next := i.next + 1 } }) :=
  congrArg Host.Outcome.next (State.streamWordDo_modInst hr hi he hn (g := fun i => { i with esc := true, crcEsc := some 0xFF060000 })
    (by simp [hb]) hr hi rfl rfl)

variable (hh : i.hi = none)
include hh

theorem exec_cfgWin {v : BitVec 16} (h7 : bits v 7 6 = 0) (h15 : bits v 15 14 = 0) (hw : 16 * bits v 5 0 < r.width)
    (hy : 16 * bits v 13 8 < r.height) : exec (.cfgWin v) s = .next (s.setRegion s.curReg
      { r with inst := some { i with win := some (bits v 5 0, bits v 13 8), next := i.next + 1 } }) :=
  congrArg Host.Outcome.next (State.streamWordDo_modInst hr hi he hn (g := fun i => { i with win := some (bits v 5 0, bits v 13 8) })
    (by simp [hb, hh, h7, h15, hw, hy]) hr hi rfl rfl)

theorem exec_cfgSect {v : BitVec 16} (h15 : bits v 15 8 = 0) : exec (.cfgSect v) s = .next (s.setRegion s.curReg
    { r with inst := some { i with section_ := v.toNat, next := i.next + 1 } }) :=
  congrArg Host.Outcome.next (State.streamWordDo_modInst hr hi he hn (g := fun i => { i with section_ := v.toNat })
    (by simp [hb, hh, h15]) hr hi rfl rfl)

/-! ### ZWIN (R50, R192, R236) -/

theorem exec_cfgZwin {win : Nat × Nat} (hw : i.win = some win)
    (ha : i.byCfg = false ∨ ∀ k n, k < 256 → r.winTile win k = some n → s.armed r n = false) :
    exec (.cfgZwin 0) s = .next ((s.zeroWindow r win).setRegion s.curReg
      { r with inst := some { i with next := i.next + 1 } }) := by
  have harm : (i.byCfg && (s.winListed r win).any (s.armed r)) = false := by
    obtain ha | ha := ha
    · rw [ha, Bool.false_and]
    · rw [Bool.and_eq_false_iff, List.any_eq_false]
      refine .inr fun n hn => ?_
      obtain ⟨⟨k, hk, hkn⟩, -⟩ := State.mem_winListed.1 hn
      simp [ha k n hk hkn]
  refine congrArg Host.Outcome.next (State.streamWordDo_next hr hi he
    (t := s.zeroWindow r win) ?_
    ((State.onlyTiles_region (s.zeroWindow_only _ _) _).trans hr) hi hn)
  rw [if_pos (by simp [hb, hh, hw])]
  dsimp only
  rw [hw]
  exact if_neg (Bool.not_eq_true _ ▸ harm)

end

/-! ### Element writes (R51-R53, R192, R214) -/

theorem exec_cfgElementWrite {idx fld : Byte} {v : BitVec 16} {win : Nat × Nat} {n : Nat} {tl : Tile} (hb : i.begun = true)
    (hw : i.win = some win) (ht : r.winTile win (if i.esc then 0xFF else idx).toNat = some n) (hg : s.mayWrite r i n fld = true)
    (hf : s.fieldWrite r i n fld.toNat v = .ok tl) :
    exec (.cfgElementWrite idx fld v) s = .next ((s.setTile n (i.tileWritten (s.fusedAt n) idx fld v tl)).setRegion s.curReg
      { r with inst := some { i with hi := none, esc := false, crcHi := none, crcEsc := none, next := i.next + 1,
                                     touched := touchAfter i.touched n fld.toNat } }) := by
  refine congrArg Host.Outcome.next (State.streamWordDo_modInst hr hi he hn (t := s.setTile n (i.tileWritten (s.fusedAt n) idx fld v tl))
    (g := fun i => { i with hi := none, esc := false, crcHi := none, crcEsc := none, touched := touchAfter i.touched n fld.toNat })
    ?_ hr hi rfl rfl)
  simp only [hb, hw, Option.isNone_some, Option.getD_some, ht, State.mayWrite_iff.1 hg, hf, Bool.not_true, Bool.or_false,
    Bool.false_eq_true, if_false]
  rfl

end

/-! ### END (R51, R193) -/

theorem exec_cfgEnd (hb : i.begun = true) (hh : i.hi = none) (hn : i.next + 1 = i.count) (hf : s.endFault r i.touched = none) :
    exec (.cfgEnd 0) s = .next (((s.markLoops r).setRegion s.curReg
      { r with inst := some { i with ended := true, next := i.count } }).installEnd s.curReg cOK none none i.count) := by
  have hL : (s.markLoops r).region? s.curReg = some r := (State.onlyTiles_region (s.onlyLoops_markLoops r).1 _).trans hr
  refine congrArg Host.Outcome.next ((State.streamWordDo_last hr hi he
    (t := (s.markLoops r).setRegion s.curReg { r with inst := some { i with ended := true } })
    ?_ (State.region?_setRegion_same _ _ _) rfl hn rfl).trans (by rw [State.setRegion_setRegion]))
  rw [if_pos (by simp [hb, hh])]
  simp only [hf]
  rw [State.modInst_eq hL hi]

/-- END as the last word of a stream that passes its checks: the region is READY with the stream's version. -/
theorem exec_cfgEnd_ends (hb : i.begun = true) (hh : i.hi = none) (hn : i.next + 1 = i.count) (hf : s.endFault r i.touched = none) :
    ∃ t g, exec (.cfgEnd 0) s = .next t ∧
      InstallEnds ((s.markLoops r).trace s.curReg 6 0 i.count) (s.markLoops r).tiles s.curReg r i .ready i.version
        (installResult 0 none none i.count i.version.toNat (freeWord s.freeCtr)) i.count t g := by
  have hL : (s.markLoops r).region? s.curReg = some r := (State.onlyTiles_region (s.onlyLoops_markLoops r).1 _).trans hr
  have hfree : (s.markLoops r).freeCtr = s.freeCtr := by rw [(s.onlyLoops_markLoops r).1]
  have htr := State.trace_congr (t := (s.markLoops r).setRegion s.curReg { r with inst := some { i with ended := true, next := i.count } })
    hL (State.region?_setRegion_same _ _ _) rfl rfl rfl rfl rfl 6 cOK i.count
  have htoken : cOK * 2 ^ 48 + i.count = i.count := by simp [cOK]
  obtain ⟨g, hg⟩ := State.installEnd_ends (State.region?_setRegion_same _ _ _) rfl none none htr
  rw [if_pos rfl, if_pos rfl, show ((s.markLoops r).setRegion _ _).freeCtr = s.freeCtr from hfree, htoken] at hg
  refine ⟨_, g, exec_cfgEnd hr hi he hb hh hn hf, ?_⟩
  exact ⟨hg.region, hg.inst, hg.tiles, hg.version, hg.seq, hg.written, hg.waits, hg.filled⟩

end

/-! ### Rejected words (R50, R51, R156) -/

/-- An outcome that rejects the word of an install. -/
def Rejects (s : State) (r : Region) (i : Install) (o : Host.Outcome State Fault Refusal) (x : Reject) : Prop :=
  ∃ f, o = .next (s.streamWordDo f) ∧ f r i s = .error x

section
variable {s : State} {r : Region} {i : Install}

theorem rejects_cfgBegin {v : BitVec 16} (h : i.begun = true ∨ v = 0) : Rejects s r i (exec (.cfgBegin v) s) badCmd :=
  ⟨_, rfl, if_pos (by obtain h | h := h <;> simp [h])⟩

theorem rejects_badcmd (x : Word) : Rejects s r i (exec (.badcmd x) s) badCmd := ⟨_, rfl, rfl⟩

theorem rejects_cfgNop {v : BitVec 16} (h : v ≠ 0) : Rejects s r i (exec (.cfgNop v) s) badCmd := ⟨_, rfl, if_neg (by simpa using fun _ => h)⟩

theorem rejects_elementWrite_noWindow {idx fld : Byte} {v : BitVec 16} (h : i.begun = false ∨ i.win = none) :
    Rejects s r i (exec (.cfgElementWrite idx fld v) s) badCmd :=
  ⟨_, rfl, if_pos (by obtain h | h := h <;> simp [h])⟩

theorem rejects_elementWrite {idx fld : Byte} {v : BitVec 16} {win : Nat × Nat} {n c : Nat} (hb : i.begun = true)
    (hw : i.win = some win) (ht : r.winTile win (if i.esc then 0xFF else idx).toNat = some n) (hg : s.mayWrite r i n fld = true)
    (hf : s.fieldWrite r i n fld.toNat v = .error c) : Rejects s r i (exec (.cfgElementWrite idx fld v) s)
      { status := c, idx := if i.esc then 0xFF else idx, win := none, crc := if c = cCRC then some n else none } := by
  refine ⟨_, rfl, ?_⟩
  simp only [hb, hw, Option.isNone_some, Option.getD_some, ht, State.mayWrite_iff.1 hg, hf, Bool.not_true, Bool.or_false,
    Bool.false_eq_true, if_false]

theorem Reject.leaves_only (x : Reject) (s : State) : s.onlyTiles (x.leaves s) := by
  unfold Reject.leaves
  cases x.crc <;> rfl

/-- A rejected word ends the install: the region is CLAIMED, with the version it had. -/
theorem Rejects.ends {o : Host.Outcome State Fault Refusal} {x : Reject} (h : Rejects s r i o x) (hx : x.status ≠ cOK)
    (hr : s.region? s.curReg = some r) (hi : r.inst = some i) (he : i.ended = false) : ∃ t g, o = .next t ∧
      InstallEnds (s.trace s.curReg 6 x.status i.next) (x.leaves s).tiles s.curReg r i .claimed r.version
        (installResult x.status (x.win <|> i.win) (some x.idx) i.next i.version.toNat (freeWord s.freeCtr))
        (x.status * 2 ^ 48 + i.next) t g := by
  obtain ⟨f, ho, hf⟩ := h
  have hl := x.leaves_only s
  have hr' : (x.leaves s).region? s.curReg = some r := (State.onlyTiles_region hl _).trans hr
  have hfree : (x.leaves s).freeCtr = s.freeCtr := by rw [hl]
  obtain ⟨g, hg⟩ := State.installEnd_ends hr' hi (x.win <|> i.win) (some x.idx)
    (State.trace_congr hr hr' (by rw [hl]) (by rw [hl]) rfl rfl rfl 6 x.status i.next)
  rw [if_neg hx, if_neg hx, hfree] at hg
  exact ⟨_, g, ho.trans (congrArg Host.Outcome.next (State.streamWordDo_error hr hi he hf)), hg⟩

end

/-! ### The words of a stream -/

/-- The 16 bytes of a result that names an index. -/
theorem installResult_named (status : Nat) (win : Option (Nat × Nat)) (idx : Byte) (off ver : Nat) (free : Word) :
    installResult status win (some idx) off ver free = leBytes status 2 ++
      leBytes (match win with | some (c, y) => c + 256 * y | none => bits free 5 0 + 256 * bits free 13 8) 2 ++
      [idx] ++ leBytes 0 3 ++ leBytes off 4 ++ leBytes ver 4 := by
  cases win <;> rfl

/-- Settles O42: a word that is performed by the lemma of its command, a word that is rejected by `Rejects.ends`, END by `exec_cfgEnd_ends`. -/
theorem streamWords : Obligations.StreamWords := by
  refine ⟨fun s r i hr hi he hn => ?words, fun s r i hr hi he hb hh hn hf => ?last⟩
  case words =>
    intro went Ended Rejected
    have ends {o : Host.Outcome State Fault Refusal} {x : Reject} (h : Rejects s r i o x) (hx : x.status ≠ cOK) (hw : x.win = none) :
        Ended o x.status x.idx (x.leaves s).tiles := by
      obtain ⟨t, g, ho, hg⟩ := h.ends hx hr hi he
      rw [hw, show ((none : Option (Nat × Nat)) <|> i.win) = i.win from rfl, installResult_named] at hg
      refine ⟨t, g, ho, hg.region, hg.inst, or_self_iff.1 hg.version, hg.tiles, fun hc => ⟨hg.seq hc, fun m hm => ?_, fun o f hv hk => ?_⟩,
        fun hc => ?_⟩
      · obtain ⟨hmem, hst, -⟩ := hg.written hc m hm
        exact ⟨hmem, hst⟩
      · obtain ⟨hst, -, hres⟩ := hg.waits hc o f hv hk
        exact ⟨hst, hres⟩
      · obtain ⟨hmem, hparts, -, hst, hseq⟩ := hg.filled hc
        exact ⟨hmem, hparts, hst, hseq⟩
    have bad {o : Host.Outcome State Fault Refusal} (h : Rejects s r i o badCmd) : Rejected o 1 0xFF := ends h (by decide) rfl
    refine ⟨fun v hb hv hc hf => ?beginCfg, fun v hb hv hc => ?beginHost, fun v h => bad (rejects_cfgBegin h), fun x => bad (rejects_badcmd x),
      fun hb v => ⟨exec_cfgNop hr hi he hn hb, fun hv => bad (rejects_cfgNop hv), exec_cfgHi hr hi he hn hb v, exec_cfgEsc (i := i) hr hi he hn hb,
        fun hh h7 h15 hw hy => exec_cfgWin hr hi he hn hb hh h7 h15 hw hy, fun hh h15 => exec_cfgSect hr hi he hn hb hh h15,
        fun hh hw ha => ?zwin⟩,
      fun idx fld v win n hb hw ht hl hf ha => ?element, fun idx fld v h => bad (rejects_elementWrite_noWindow h)⟩
    case beginCfg =>
      refine ⟨_, exec_cfgBegin_cfg hr hi he hn hb hv hc, s.tilesBegun_only r _, fun n => ?_⟩
      rw [hf]
      exact s.tilesBegun_tile r n
    case beginHost =>
      refine ⟨_, exec_cfgBegin_host hr hi he hn hb hv hc, s.tilesBegun_only r _, fun hf n hc => ?_, fun hf n => ?_⟩
      · rw [hf]
        exact s.zeroTiles_tile hc
      · rw [hf]
        exact s.tilesBegun_tile r n
    case zwin =>
      obtain ⟨win, hw⟩ := Option.isSome_iff_exists.1 hw
      rw [hw] at ha ⊢
      exact ⟨_, exec_cfgZwin hr hi he hn hb hh hw ha, s.zeroWindow_only r win, fun k n hk => State.zeroWindow_tile hk,
        fun n => State.zeroWindow_tile_outside⟩
    case element =>
      have hg := State.mayWrite_of hl hf ha
      refine ⟨fun tl hfw => ⟨_, exec_cfgElementWrite hr hi he hn hb hw ht hg hfw, rfl, fun k hk => State.tile_setTile_other _ _ hk, ?_, ?_⟩,
        fun c h0 h4 hfw => ?_, fun hfw => ?_⟩
      · rw [State.tile_setTile_same]
        exact Install.tileWritten_eq _ _ _ _ _ _
      · rw [State.tile_setTile_same]
        exact Install.tileWritten_crc _ _ _ _
      · have h := ends (rejects_elementWrite hb hw ht hg hfw) h0 rfl
        rw [if_neg (show ¬c = cCRC from h4)] at h
        exact h
      · exact ends (rejects_elementWrite hb hw ht hg hfw) (show 4 ≠ cOK by decide) rfl
  case last =>
    obtain ⟨t, g, ho, hg⟩ := exec_cfgEnd_ends hr hi he hb hh hn hf
    refine ⟨t, g, ho, hg.region, hg.inst, fun n => ?_, fun hc => ⟨hg.seq hc, hg.written hc, hg.waits hc⟩, fun hc => ?_⟩
    · rw [State.tile, hg.tiles]
      exact (s.onlyLoops_markLoops r).2 n
    · obtain ⟨-, -, hv, hst, hseq⟩ := hg.filled hc
      exact ⟨hv, hst, hseq⟩

end Sys2Proof.Machine
end

section
/-! PROOF. The state right after a reset (R463). -/

namespace Sys2Proof.Machine

/-- Settles O59: no table lists anything at reset, so every entry is what an unlisted one stands for. -/
theorem resetHolds : Obligations.ResetHolds := by
  have unlisted {α : Type} (k : Nat) (d : α) : Tbl.get [] k d = d := rfl
  refine ⟨rfl, fun _ => rfl, fun _ => rfl, fun _ => rfl, fun t => unlisted t _, fun p => ?_, fun v => ?_, fun n => ?_, rfl, rfl, fun h => ?_⟩
  · rw [State.part, show State.reset.parts = [] from rfl, unlisted]
    exact ⟨rfl, rfl, rfl⟩
  · rw [State.vfPart, State.vf, show State.reset.vfs = [] from rfl, unlisted]
    rfl
  · rw [State.ak, show State.reset.akend = [] from rfl, unlisted]
    rfl
  · rw [State.hart, show State.reset.harts = [] from rfl, unlisted]
    exact ⟨rfl, rfl, rfl⟩

end Sys2Proof.Machine
end

section
/-! PROOF. Work that is pushed, dispatched and joined: what each operation can change, and the words of both kinds of agent that make it
(R126-R132, R148-R151, R222, R223). -/

namespace Sys2Proof.Machine

open Sys2Proof.Config

/-! ### What the operations on records can change -/

/-- Two states that agree but for memory, the partitions, the journal and the count of the device's choices. -/
def State.onlyWork (s t : State) : Prop :=
  t = { s with mem := t.mem, parts := t.parts, journal := t.journal, freeCtr := t.freeCtr }

section
variable {s t u : State}

theorem State.onlyWork_refl (s : State) : s.onlyWork s := rfl
theorem State.onlyWork_trans (h : s.onlyWork t) (h' : t.onlyWork u) : s.onlyWork u := by
  unfold State.onlyWork at h h' ⊢
  rw [h', h]
theorem State.onlyWork_onlyMem (h : s.onlyMem t) : s.onlyWork t := by
  unfold State.onlyWork
  rw [h]
theorem State.onlyWork_modPart (s : State) (p : Nat) (f : Partition → Partition) : s.onlyWork (s.modPart p f) := rfl
theorem State.onlyWork_foldl {α : Type} {f : State → α → State} (hf : ∀ (s : State) a, s.onlyWork (f s a)) (l : List α) (s : State) :
    s.onlyWork (l.foldl f s) := by
  induction l generalizing s with
  | nil => exact s.onlyWork_refl
  | cons a l ih => exact State.onlyWork_trans (hf s a) (ih _)

section
variable (h : s.onlyWork t)
include h
theorem State.onlyWork_regions : t.regions = s.regions := by rw [h]
theorem State.onlyWork_curSeq : t.curSeq = s.curSeq := by rw [h]
theorem State.onlyWork_region (n : Nat) : t.region? n = s.region? n := by rw [State.region?, State.onlyWork_regions h, State.region?]
end

end

/-! ### Counting a child of a join block (R132) -/

section
variable {s : State} {x : Xlate} {addr pa fmt : Nat}

theorem State.joinSpawn_none (s : State) (x : Xlate) : s.joinSpawn x 0 = .ok (some s) := if_pos rfl

theorem State.joinSpawn_counts (ha : addr ≠ 0) (ht : translate s.mem x addr .atomic = .ok (pa, fmt)) (hn : s.mem.readN pa 4 ≠ 0xFFFFFFFF) :
    s.joinSpawn x addr = .ok (some { s with
      mem := s.mem.writeN pa 4 (s.mem.readN pa 4 + 1), journal := s.journal ++ [.join x.part (w addr) (s.mem.readN pa 4 + 1)] }) := by
  simp only [State.joinSpawn, if_neg ha, ht, if_neg hn]

theorem State.joinSpawn_full (ha : addr ≠ 0) (ht : translate s.mem x addr .atomic = .ok (pa, fmt)) (hn : s.mem.readN pa 4 = 0xFFFFFFFF) :
    s.joinSpawn x addr = .ok none := by
  simp only [State.joinSpawn, if_neg ha, ht, if_pos hn]

theorem State.joinSpawn_only {t : State} (h : s.joinSpawn x addr = .ok (some t)) : s.onlyWork t := by
  unfold State.joinSpawn at h
  split at h
  · cases h
    exact s.onlyWork_refl
  · split at h
    · cases h
    · dsimp only at h
      split at h
      · cases h
      · cases h
        rfl

end

/-! ### Pushing a record (R126, R128, R150) -/

/-- Tagging a record leaves its priority. -/
theorem Cont.tagged_prio (c : Cont) (iidx istat : Nat) : (c.tagged iidx istat).prio = c.prio := by
  simp only [Cont.prio, Cont.tagged, bits, nbits, w, BitVec.toNat_ofNat]
  omega

/-- A push into a queue that exists: the record last in its level, and journalled. -/
theorem State.push_eq {s : State} {p q : Nat} {Q : Queue} (hq : (s.part p).queues.find q = some Q) (c : Cont) : s.push p q c =
    { s.setPart p { s.part p with
        queues := (s.part p).queues.put q (Q.add { cont := c, rsv := false, period := none, trim := none }) } with
      journal := s.journal ++ [.push p q c none] } := by
  rw [State.push, State.modPart, hq]
  rfl

/-- A push looks at the queues alone. -/
theorem State.push_counted (s : State) (m : Memory) (j : List JEntry) (p q : Nat) (c : Cont) :
    State.push { s with mem := m, journal := j } p q c = { s.push p q c with mem := m, journal := j ++ [.push p q c none] } := rfl

theorem State.push_only (s : State) (p q : Nat) (c : Cont) : s.onlyWork (s.push p q c) := rfl

section
variable {s : State} {p qh iidx : Nat} {x : Xlate} {c : Cont}

theorem State.pushRec_stale (hc : (s.part p).current tblQueue qh = false) : s.pushRec p x qh c iidx = .ok (errWord eSTALE, s) := by
  simp [State.pushRec, hc]

theorem State.pushRec_badRecord (hc : (s.part p).current tblQueue qh = true) (ho : s.recOk p c = false) :
    s.pushRec p x qh c iidx = .ok (errWord eBADREC, s) := by
  simp [State.pushRec, hc, ho]

section
variable (hc : (s.part p).current tblQueue qh = true) (ho : s.recOk p c = true)
include hc ho

theorem State.pushRec_full (hm : (s.part p).room (hSlot qh - 1) c.prio 1 0 = false) :
    s.pushRec p x qh c iidx = .ok (errWord eQFULL, s) := by
  simp [State.pushRec, hc, ho, hm]

/-- A record that may be pushed is, once the block it names has counted it. -/
theorem State.pushRec_pushes (hm : (s.part p).room (hSlot qh - 1) c.prio 1 0 = true) {t : State}
    (hj : s.joinSpawn x c.join.toNat = .ok (some t)) :
    s.pushRec p x qh c iidx = .ok (0, t.push p (hSlot qh - 1) (c.tagged iidx 0)) := by
  simp [State.pushRec, hc, ho, hm, hj]

end

theorem State.pushRec_only {t : State} {v : Dword} (h : s.pushRec p x qh c iidx = .ok (v, t)) : s.onlyWork t := by
  unfold State.pushRec at h
  dsimp only at h
  split at h
  · cases h; exact s.onlyWork_refl
  · split at h
    · cases h; exact s.onlyWork_refl
    · split at h
      · cases h; exact s.onlyWork_refl
      · split at h
        · cases h
        · cases h; exact s.onlyWork_refl
        · next hj => cases h; exact State.onlyWork_trans (State.joinSpawn_only hj) (State.push_only _ _ _ _)

end

/-! ### A push by a period (R222, R223, R423, R425) -/

/-- The commit point of a period that is not in-place changes nothing. -/
theorem State.commit_outOfPlace {s : State} {rn : Nat} {r : Region} (hr : s.region? rn = some r) (hi : r.inPlace = false) :
    s.commit rn = s := by
  rw [State.commit, hr]
  dsimp only
  rw [hi]
  rfl

section
variable {s : State} {r : Region} (hr : s.region? s.curSeq = some r) (d : Reg)
include hr

/-- A replayed push receives its journalled result. -/
theorem State.seqPush_replayed (f : State → State) {u : Dword} (hj : s.journalled r.period r.pushIdx = some u) :
    s.seqPush d r f = s.setRegion s.curSeq (r.pushed (r.seq.set d u)) := by
  rw [State.seqPush, hj]
  dsimp only
  rw [State.seqResult, State.modRegion_curSeq]
  exact State.modSeq_pushed hr (fun q => { q.set d u with pc := q.pc + 4 }) rfl

/-- A push that is not replayed is made, once the accesses before it are performed. -/
theorem State.seqPush_made (f : State → State) (hj : s.journalled r.period r.pushIdx = none) (ha : r.seq.acc = []) (hi : r.inPlace = false) :
    s.seqPush d r f = f s := by
  rw [State.seqPush, hj, ha, State.commit_outOfPlace hr hi]
  rfl

/-- A push that has been made: what it journalled is the period's own, its result is journalled and received. -/
theorem State.seqJoined_ok {t : State} (ht : s.onlyWork t) (va : Nat) (v : Dword) : s.seqJoined d r va (.ok (v, t)) =
    { t.setRegion s.curSeq (r.pushed (r.seq.set d v)) with
      journal := (t.ownPushes s.journal.length r.period r.pushIdx).journal ++ [.result r.period r.pushIdx v] } := by
  have ho : s.onlyWork (t.ownPushes s.journal.length r.period r.pushIdx) := State.onlyWork_trans ht rfl
  have hc := State.onlyWork_curSeq ho
  have hr' := (State.onlyWork_region ho s.curSeq).trans hr
  show (t.ownPushes s.journal.length r.period r.pushIdx).seqPushed d v = _
  rw [State.seqPushed_eq (r := r) (by rw [hc]; exact hr'), hc]
  rfl

end

/-- A block that is aligned, in the address space and not withheld is read. -/
theorem State.seqBlock_ok {s : State} (d : Reg) {r : Region} {va : Dword} {n k : Nat} {bs : List Byte} (f : List Byte → State → State)
    (hk : va.toNat % k = 0) (hb : bits va 63 57 = 0) (hh : s.isHeld r.part (.seqAccess s.curSeq (2 ^ 20)) = false)
    (hv : s.rread s.curSeq va.toNat n = .ok bs) : s.seqBlock d r va n k f = f bs (s.touch s.curSeq va.toNat n) := by
  rw [State.seqBlock, if_neg (by simp [hk]), if_neg (by simp [hb]), hh, hv]
  rfl

theorem State.touch_region (s : State) (rn va n k : Nat) : (s.touch rn va n).region? k = s.region? k := by
  rw [State.region?, State.touch_regions, State.region?]

section
variable {s : State} {r : Region} (hr : s.region? s.curSeq = some r) (d : Reg) {va : Dword} {n k : Nat} {bs : List Byte}
include hr

/-- A push that is not replayed, of a block that can be read, is made with the block's bytes. -/
theorem State.seqPush_block (hj : s.journalled r.period r.pushIdx = none) (ha : r.seq.acc = []) (hi : r.inPlace = false) (hk : va.toNat % k = 0)
    (hb : bits va 63 57 = 0) (hh : s.isHeld r.part (.seqAccess s.curSeq (2 ^ 20)) = false) (hv : s.rread s.curSeq va.toNat n = .ok bs)
    (f : List Byte → State → State) : s.seqPush d r (fun s => s.seqBlock d r va n k f) = f bs (s.touch s.curSeq va.toNat n) := by
  rw [State.seqPush_made hr d _ hj ha hi, State.seqBlock_ok d f hk hb hh hv]

/-- What a push makes that was made from a block the region has read. -/
theorem State.seqJoined_touch {t : State} {v : Dword} {at_ len : Nat} (ht : (s.touch s.curSeq at_ len).onlyWork t) (jn : Nat) :
    (s.touch s.curSeq at_ len).seqJoined d r jn (.ok (v, t)) = { t.setRegion s.curSeq (r.pushed (r.seq.set d v)) with
      journal := (t.ownPushes s.journal.length r.period r.pushIdx).journal ++ [.result r.period r.pushIdx v] } := by
  rw [State.seqJoined_ok (by rw [State.touch_region, State.touch_curSeq]; exact hr) d ht, State.touch_curSeq, State.touch_journal]

end

theorem State.touch_rgXlate (s : State) (rn va n : Nat) (r : Region) : (s.touch rn va n).rgXlate r = s.rgXlate r := by
  rw [State.touch_only]
  rfl

/-- The block of an instruction of a hart that is aligned and translates is read. -/
theorem State.xBlock_ok {s : State} (rd : Reg) {h : Hart} {va : Dword} {n k : Nat} {bs : List Byte} (f : List Byte → State → State)
    (hk : va.toNat % k = 0) (hv : vread s.mem h.xlate va.toNat n = .ok bs) : s.xBlock rd h va n k f = f bs s := by
  rw [State.xBlock, if_neg (by simp [hk]), State.hartRead, hv]

/-! ### hq.push, and SPAWN of a record -/

theorem exec_hqPush {s : State} {rd rs1 rs2 : Reg} {bs : List Byte} (hm : s.mayRun 0) (ha : (s.me.get rs2).toNat % 32 = 0)
    (hb : vread s.mem s.me.xlate (s.me.get rs2).toNat 32 = .ok bs) : exec (.hqPush rd rs1 rs2) s =
    .next (s.xJoined rd (contOf bs).join.toNat (s.pushRec s.me.actPart s.me.xlate (bits (s.me.get rs1) 31 0) (contOf bs) noInst)) := by
  show execHqPush rd rs1 rs2 s = _
  rw [execHqPush, State.xPart_ok rd _ _ hm, State.xBlock_ok rd _ ha hb]

theorem State.xJoined_ok (s t : State) (rd : Reg) (va : Nat) (v : Dword) : s.xJoined rd va (.ok (v, t)) = t.withResult rd v :=
  t.xResult_eq rd v

section
variable {s : State} {r : Region} {d : Reg} {a b : Src} (hr : s.region? s.curSeq = some r) (hi : r.mayIssue [a, b] (some d))
include hr hi

theorem exec_spawnRecord_replayed {u : Dword} (hj : s.journalled r.period r.pushIdx = some u) :
    exec (.spawnRecord d a b) s = .next (s.setRegion s.curSeq (r.pushed (r.seq.set d u))) := by
  show execSpawnRecord d a b s = _
  rw [execSpawnRecord, State.issue_ok _ hr hi, State.seqPush_replayed hr d _ hj]

theorem exec_spawnRecord {bs : List Byte} {v : Dword} {t : State} (hj : s.journalled r.period r.pushIdx = none) (hacc : r.seq.acc = [])
    (hp : r.inPlace = false) (hal : (r.seq.get a.reg).toNat % 32 = 0) (hva : bits (r.seq.get a.reg) 63 57 = 0)
    (hh : s.isHeld r.part (.seqAccess s.curSeq (2 ^ 20)) = false) (hb : s.rread s.curSeq (r.seq.get a.reg).toNat 32 = .ok bs)
    (hq : bits (r.seq.get b.reg) 63 32 = 0)
    (ht : (s.touch s.curSeq (r.seq.get a.reg).toNat 32).pushRec r.part (s.rgXlate r) (bits (r.seq.get b.reg) 31 0) (contOf bs) r.iidx =
      .ok (v, t)) :
    exec (.spawnRecord d a b) s = .next { t.setRegion s.curSeq (r.pushed (r.seq.set d v)) with
      journal := (t.ownPushes s.journal.length r.period r.pushIdx).journal ++ [.result r.period r.pushIdx v] } := by
  show execSpawnRecord d a b s = _
  rw [execSpawnRecord, State.issue_ok _ hr hi, Region.src, Region.src, State.seqPush_block hr d hj hacc hp hal hva hh hb]
  dsimp only
  rw [if_neg (by simp [hq]), State.touch_rgXlate, ht, State.seqJoined_touch hr d (State.pushRec_only ht)]

end

/-- Settles O18: a record by the first check it fails, a word by what its push answers. -/
theorem recordsPushed : Obligations.RecordsPushed := by
  unfold Obligations.RecordsPushed
  refine ⟨fun s p qh iidx x c Q => ⟨State.pushRec_stale, State.pushRec_badRecord, State.pushRec_full, fun hc ho hm hQ => ?push⟩,
    fun s t rd rs1 rs2 bs v hm ha hb ht => ?hart, fun s t r d a b bs v hr hi => ⟨fun u hj => exec_spawnRecord_replayed hr hi hj, ?spawn⟩⟩
  case push =>
    have hl : Q.level c.prio = (Q.recs[c.prio]?).getD [] := rfl
    refine ⟨fun hj => ?_, fun pa fmt n hj ht hn hlt => ?_⟩
    · have h0 : s.joinSpawn x c.join.toNat = .ok (some s) := by rw [hj]; exact s.joinSpawn_none x
      rw [State.pushRec_pushes hc ho hm h0, State.push_eq hQ, Queue.add, Cont.tagged_prio, hl]
    · subst hn
      have hne : c.join.toNat ≠ 0 := fun h => hj (BitVec.eq_of_toNat_eq h)
      rw [State.pushRec_pushes hc ho hm (State.joinSpawn_counts hne ht (by omega)),
        State.push_counted, State.push_eq hQ, Queue.add, Cont.tagged_prio, hl, w, BitVec.ofNat_toNat, BitVec.setWidth_eq,
        List.append_assoc]
      rfl
  case hart =>
    rw [exec_hqPush hm ha hb, show noInst = 0xFFFF from rfl, ht, State.xJoined_ok]
  case spawn =>
    exact fun hj hacc hp hal hva hh hb hq ht => exec_spawnRecord hr hi hj hacc hp hal hva hh hb hq ht

end Sys2Proof.Machine
end

section
/-! PROOF. Join blocks armed by lan.join and JOIN (R132, R149, R223). -/

namespace Sys2Proof.Machine

open Sys2Proof.Config

/-- The bytes of a record. -/
@[simp] theorem Cont.bytes_length (c : Cont) : c.bytes.length = 32 := by simp [Cont.bytes]

/-- A push from a reserve leaves all but the partitions and the journal. -/
theorem State.pushReserve_only (s : State) (p q : Nat) (c : Cont) (period : Option Nat) : s.onlyWork (s.pushReserve p q c period) := rfl

/-- What the partitions become by it rests on the partitions alone. -/
theorem State.pushReserve_parts {s t : State} (h : t.parts = s.parts) (p q : Nat) (c : Cont) (period : Option Nat) :
    (t.pushReserve p q c period).parts = (s.pushReserve p q c period).parts := by
  simp only [State.pushReserve, State.modPart, State.setPart, State.part, h]

/-- What an arming leaves of a block whose bytes were `old`: COUNT kept, QUEUE and STATE written, the record at its end (R132). -/
def armedBlock (old : List Byte) (q : Nat) (c : Cont) : List Byte :=
  old.take 4 ++ leBytes q 1 ++ leBytes (if fieldAt old 0 4 == 0 then 2 else 1) 1 ++ (old.drop 6).take 26 ++ c.bytes

theorem armedBlock_length {old : List Byte} (h : old.length = 64) (q : Nat) (c : Cont) : (armedBlock old q c).length = 64 := by
  simp [armedBlock, h]

theorem armedBlock_bytes (old : List Byte) (q : Nat) (c : Cont) : armedBlock old q c =
    old.take 4 ++ [BitVec.ofNat 8 q, if fieldAt old 0 4 = 0 then 2 else 1] ++ (old.drop 6).take 26 ++ c.bytes := by
  by_cases h : fieldAt old 0 4 = 0 <;> simp [armedBlock, h, leBytes]

/-- The state in which a join block has been written whole, and its COUNT journalled. -/
def State.writeJoin (s : State) (p pa addr count : Nat) (bs : List Byte) : State :=
  { s with mem := s.mem.write pa bs, journal := s.journal ++ [.join p (w addr) count] }

theorem State.writeJoin_parts (s : State) (p pa addr count : Nat) (bs : List Byte) : (s.writeJoin p pa addr count bs).parts = s.parts := rfl

theorem State.writeJoin_only (s : State) (p pa addr count : Nat) (bs : List Byte) : s.onlyWork (s.writeJoin p pa addr count bs) := rfl

/-- A block armed: written, and where it has no children left its record is pushed. -/
def State.blockArmed (s : State) (p pa addr q : Nat) (old : List Byte) (c : Cont) : State :=
  if fieldAt old 0 4 == 0 then
    (s.writeJoin p pa addr (fieldAt old 0 4) (armedBlock old q c)).pushReserve p q (c.tagged (fieldAt old 8 2) (fieldAt old 6 2)) none
  else s.writeJoin p pa addr (fieldAt old 0 4) (armedBlock old q c)

section
variable (s : State) (p pa addr q : Nat) {old : List Byte} (c : Cont)

theorem State.blockArmed_waits (h : fieldAt old 0 4 ≠ 0) :
    s.blockArmed p pa addr q old c = s.writeJoin p pa addr (fieldAt old 0 4) (armedBlock old q c) := if_neg (by simpa using h)

theorem State.blockArmed_fires (h : fieldAt old 0 4 = 0) : s.blockArmed p pa addr q old c =
    (s.writeJoin p pa addr (fieldAt old 0 4) (armedBlock old q c)).pushReserve p q (c.tagged (fieldAt old 8 2) (fieldAt old 6 2)) none :=
  if_pos (by simpa using h)

/-- What an arming changes: memory, the journal, and the partition whose reserve takes the record. -/
theorem State.blockArmed_eq : s.blockArmed p pa addr q old c = { s with
    mem := s.mem.write pa (armedBlock old q c)
    journal := (s.blockArmed p pa addr q old c).journal, parts := (s.blockArmed p pa addr q old c).parts } := by
  by_cases h : fieldAt old 0 4 = 0
  · rw [State.blockArmed_fires _ _ _ _ _ _ h]
    rfl
  · rw [State.blockArmed_waits _ _ _ _ _ _ h]
    rfl

theorem State.blockArmed_only : s.onlyWork (s.blockArmed p pa addr q old c) := by
  unfold State.onlyWork
  rw [State.blockArmed_eq]

theorem State.blockArmed_mem : (s.blockArmed p pa addr q old c).mem = s.mem.write pa (armedBlock old q c) := by
  rw [State.blockArmed_eq]

end

section
variable {s : State} {p addr q pa fmt : Nat} {x : Xlate} {c : Cont} (ht : translate s.mem x addr .atomic = .ok (pa, fmt))
include ht

theorem State.joinArm_busy (hb : fieldAt (s.mem.read pa 64) 5 1 ≠ 0) : s.joinArm p x addr q c = .ok (false, s) := by
  rw [State.joinArm, ht]
  exact if_pos hb

theorem State.joinArm_idle (hb : fieldAt (s.mem.read pa 64) 5 1 = 0) :
    s.joinArm p x addr q c = .ok (true, s.blockArmed p pa addr q (s.mem.read pa 64) c) := by
  rw [State.joinArm, ht]
  exact if_neg (not_not.mpr hb)

end

theorem State.joinArm_only {s t : State} {p addr q : Nat} {x : Xlate} {c : Cont} {ok : Bool} (h : s.joinArm p x addr q c = .ok (ok, t)) :
    s.onlyWork t := by
  cases ht : translate s.mem x addr .atomic with
  | error f =>
    rw [State.joinArm, ht] at h
    cases h
  | ok a =>
    by_cases hb : fieldAt (s.mem.read a.1 64) 5 1 = 0
    · rw [State.joinArm_idle ht hb] at h
      cases h
      exact s.blockArmed_only _ _ _ _ _
    · rw [State.joinArm_busy ht hb] at h
      cases h
      exact s.onlyWork_refl

section
variable {s : State} {p : Nat} {x : Xlate} {blk : List Byte}

/-- An arm block that passes the checks: the join block it names is armed, or refused. -/
theorem State.armJoin_ok (ha : fieldAt blk 0 8 % 64 = 0) (h0 : fieldAt blk 0 8 ≠ 0) (hz : zeroAt blk 12 32 = true)
    (hc : (s.part p).current tblQueue (fieldAt blk 8 4) = true) (ho : s.recOk p (contOf (blk.drop 32)) = true) {ok : Bool} {t : State}
    (h : s.joinArm p x (fieldAt blk 0 8) (hSlot (fieldAt blk 8 4) - 1) (contOf (blk.drop 32)) = .ok (ok, t)) :
    s.armJoin p x blk = .ok (if ok then 0 else errWord eBADJOIN, t) := by
  simp [State.armJoin, ha, h0, hz, hc, ho, h]

theorem State.armJoin_only {t : State} {v : Dword} (h : s.armJoin p x blk = .ok (v, t)) : s.onlyWork t := by
  unfold State.armJoin at h
  dsimp only at h
  split at h
  · cases h; exact s.onlyWork_refl
  · split at h
    · cases h; exact s.onlyWork_refl
    · split at h
      · cases h; exact s.onlyWork_refl
      · split at h
        · cases h
        · next hj => cases h; exact State.joinArm_only hj

end

theorem exec_lanJoin {s : State} {rd rs1 : Reg} {blk : List Byte} (hm : s.mayRun 0) (ha : (s.me.get rs1).toNat % 64 = 0)
    (hb : vread s.mem s.me.xlate (s.me.get rs1).toNat 64 = .ok blk) :
    exec (.lanJoin rd rs1) s = .next (s.xJoined rd (fieldAt blk 0 8) (s.armJoin s.me.actPart s.me.xlate blk)) := by
  show execLanJoin rd rs1 s = _
  rw [execLanJoin, State.xPart_ok rd _ _ hm, State.xBlock_ok rd _ ha hb]

/-- JOIN not replayed, of an arm block that can be read. -/
theorem exec_join {s t : State} {r : Region} {d : Reg} {a : Src} {blk : List Byte} {v : Dword} (hr : s.region? s.curSeq = some r)
    (hi : r.mayIssue [a] (some d)) (hj : s.journalled r.period r.pushIdx = none) (hacc : r.seq.acc = []) (hp : r.inPlace = false)
    (hal : (r.seq.get a.reg).toNat % 64 = 0) (hva : bits (r.seq.get a.reg) 63 57 = 0)
    (hh : s.isHeld r.part (.seqAccess s.curSeq (2 ^ 20)) = false) (hb : s.rread s.curSeq (r.seq.get a.reg).toNat 64 = .ok blk)
    (ht : (s.touch s.curSeq (r.seq.get a.reg).toNat 64).armJoin r.part (s.rgXlate r) blk = .ok (v, t)) :
    exec (.join d a) s = .next { t.setRegion s.curSeq (r.pushed (r.seq.set d v)) with
      journal := (t.ownPushes s.journal.length r.period r.pushIdx).journal ++ [.result r.period r.pushIdx v] } := by
  show execJoin d a s = _
  rw [execJoin, State.issue_ok _ hr hi, Region.src, State.seqPush_block hr d hj hacc hp hal hva hh hb]
  dsimp only
  rw [State.touch_rgXlate, ht, State.seqJoined_touch hr d (State.armJoin_only ht)]

/-- Settles O20: an idle block by whether it has children left, the two words by what arming a block answers. -/
theorem joinBlocksArmed : Obligations.JoinBlocksArmed := by
  unfold Obligations.JoinBlocksArmed
  refine ⟨fun s p pa fmt x blk old ha h0 hz hc ho ht hold hw => ⟨fun hb => ?busy, fun hb => ?idle⟩,
    fun s t rd rs1 blk v hm ha hb ht => ?hart, fun s t r d a blk v hr hi hj hacc hp hal hva hh hb ht => ?seq⟩
  case busy =>
    exact State.armJoin_ok ha h0 hz hc ho (State.joinArm_busy ht (hold ▸ hb))
  case idle =>
    subst hold
    set old := s.mem.read pa 64 with hold
    set c := contOf (blk.drop 32) with hcdef
    set q := hSlot (fieldAt blk 8 4) - 1 with hqdef
    have hlen : (armedBlock old q c).length = 64 := armedBlock_length (s.mem.read_length pa 64) q c
    have hread : (s.mem.write pa (armedBlock old q c)).read pa 64 = armedBlock old q c := by
      have := Memory.read_write hw pa (armedBlock old q c)
      rwa [hlen] at this
    refine ⟨s.blockArmed p pa (fieldAt blk 0 8) q old c, State.armJoin_ok ha h0 hz hc ho (State.joinArm_idle ht hb), fun b hb => ?_, ?_,
      ?_, fun hn => ?_, fun hz => ?_⟩
    · rw [State.blockArmed_mem]
      exact Memory.get_write_other hw _ (by rwa [hlen])
    · rw [State.blockArmed_mem, hread, armedBlock_bytes]
    · rw [State.blockArmed_eq]
    · rw [State.blockArmed_waits _ _ _ _ _ _ hn, State.writeJoin]
    · rw [State.blockArmed_fires _ _ _ _ _ _ hz]
      exact State.pushReserve_parts (s.writeJoin_parts _ _ _ _ _) _ _ _ _
  case hart =>
    rw [exec_lanJoin hm ha hb, ht, State.xJoined_ok]
  case seq =>
    exact exec_join hr hi hj hacc hp hal hva hh hb ht

end Sys2Proof.Machine
end

section
/-! PROOF. Submissions of the host: the checks in their order, and what an accepted launch leaves (R117, R118). -/

namespace Sys2Proof.Machine

open Sys2Proof.Config

/-- A write to a submission page that is refused, by the kind of the write. -/
theorem State.refuseWrite_eq (s : State) (v : Nat) (dmw : Bool) : s.refuseWrite v dmw =
    if dmw then s.setVf v { s.vf v with cpl := .ur } else s.setVf v { s.vf v with cpl := .none, errs := (s.vf v).errs + 1 } := by
  cases dmw <;> rfl

theorem exec_hostSubmission_unbound {s : State} {vf page : Nat} (h : HostWrite) (hn : s.vfPart vf = none ∨ (s.vf vf).pages.find page = none) :
    exec (.hostSubmission vf page h) s = .next (s.refuseWrite vf h.dmw) := by
  show execHostSubmission vf page h s = _
  unfold execHostSubmission
  split
  · next p sp hp hsp => simp [hp, hsp] at hn
  · rfl

/-- A submission breaks check 2 of R117: a field that is not zero, a queue that is not there or not the page's, a sequence number too high. -/
def State.subBad (s : State) (p : Nat) (sp : SubPage) (b : List Byte) : Prop :=
  subFieldsOk b = false ∨ 64 ≤ fieldAt b 8 1 ∨ sp.qmask.getLsbD (fieldAt b 8 1) = false ∨ (s.part p).queues.find (fieldAt b 8 1) = none ∨
    sp.lastseq.toNat + 1 < fieldAt b 0 8

section
variable {s : State} {vf page p : Nat} {h : HostWrite} {sp : SubPage} (hp : s.vfPart vf = some p) (hs : (s.vf vf).pages.find page = some sp)
include hp hs

theorem exec_hostSubmission_form (hf : h.dmw = false ∨ h.bytes.length ≠ 128 ∨ h.off % 128 ≠ 0) :
    exec (.hostSubmission vf page h) s = .next (s.refuseWrite vf h.dmw) := by
  show execHostSubmission vf page h s = _
  rw [execHostSubmission, hp, hs]
  exact congrArg _ (if_pos (by simpa [or_assoc] using hf))

variable (hd : h.dmw = true) (hl : h.bytes.length = 128) (ho : h.off % 128 = 0)
include hd hl ho

theorem exec_hostSubmission_bad (hb : s.subBad p sp h.bytes) : exec (.hostSubmission vf page h) s = .next (s.answer vf .ur) := by
  show execHostSubmission vf page h s = _
  rw [execHostSubmission, hp, hs]
  refine congrArg _ ((if_neg (by simp [hd, hl, ho])).trans (if_pos ?_))
  simpa [State.subBad, or_assoc] using hb

variable (hb : ¬ s.subBad p sp h.bytes)
include hb

theorem exec_hostSubmission_repeat (hq : fieldAt h.bytes 0 8 ≤ sp.lastseq.toNat) :
    exec (.hostSubmission vf page h) s = .next (s.answer vf .sc) := by
  show execHostSubmission vf page h s = _
  rw [execHostSubmission, hp, hs]
  refine congrArg _ ((if_neg (by simp [hd, hl, ho])).trans ((if_neg ?_).trans (if_pos hq)))
  simpa [State.subBad, or_assoc] using hb

variable (hq : sp.lastseq.toNat < fieldAt h.bytes 0 8)
include hq

/-- A short form with the next sequence number is accepted where there is room. -/
theorem exec_hostSubmission_short (hk : fieldAt h.bytes 10 1 % 2 = 1) : exec (.hostSubmission vf page h) s =
    .next (if s.subRoom p vf (fieldAt h.bytes 8 1) (fieldAt h.bytes 9 1) then
      s.accept p vf page (fieldAt h.bytes 8 1) h.bytes (shortRecord h.bytes).1 (!(shortRecord h.bytes).2) else s.answer vf .rrs) := by
  show execHostSubmission vf page h s = _
  rw [execHostSubmission, hp, hs]
  refine congrArg _ ((if_neg (by simp [hd, hl, ho])).trans ((if_neg ?_).trans ((if_neg (by omega)).trans (if_pos hk))))
  simpa [State.subBad, or_assoc] using hb

variable (hk : fieldAt h.bytes 10 1 % 2 = 0)
include hk

/-- A pointer with the next sequence number is followed. -/
theorem exec_hostSubmission_pointer : exec (.hostSubmission vf page h) s =
    .next (match vread s.mem (s.queueXlate p (fieldAt h.bytes 8 1)) (fieldAt h.bytes 32 8) 256 with
      | .error (o, f) =>
        (s.post p true (f.stage == 2) (FaultRec.ofX 4 f false (fieldAt h.bytes 32 8 + o))).answer vf (if f.kind == .page then .rrs else .ur)
      | .ok record =>
        if s.subRoom p vf (fieldAt h.bytes 8 1) (fieldAt h.bytes 9 1) then s.accept p vf page (fieldAt h.bytes 8 1) h.bytes record false
        else s.answer vf .rrs) := by
  show execHostSubmission vf page h s = _
  rw [execHostSubmission, hp, hs]
  refine congrArg _ ((if_neg (by simp [hd, hl, ho])).trans ((if_neg ?_).trans ((if_neg (by omega)).trans (if_neg (by omega)))))
  simpa [State.subBad, or_assoc] using hb

end

/-- An accepted launch: its partition's launches end with it, and its queue's acceptance number is its own. -/
theorem State.accept_launches {s : State} {p q : Nat} {Q : Queue} (hQ : (s.part p).queues.find q = some Q) (v page : Nat) (b record : List Byte)
    (short : Bool) : (s.accept p v page q b record short).part p = { s.part p with
      launches := (s.part p).launches ++ [{ q := q, accNo := Q.accNo + 1, prio := fieldAt b 9 1, short := short, record := record
                                            act := .host v page (BitVec.ofNat 64 (fieldAt b 0 8)) (BitVec.ofNat 32 (fieldAt b 12 4)) ((fieldAt b 10 1).testBit 1)
                                            expanded := false, join := 0, units := [], status := none }]
      queues := (s.part p).queues.put q { Q with accNo := Q.accNo + 1 } } := by
  simp only [State.accept, hQ, State.answer, State.modVf, State.modPart]
  exact State.part_setPart_same _ _ _

theorem State.accept_journal {s : State} {p q : Nat} {Q : Queue} (hQ : (s.part p).queues.find q = some Q) (v page : Nat) (b record : List Byte)
    (short : Bool) : (s.accept p v page q b record short).journal = s.journal ++ [.accept p q (Q.accNo + 1) (b.take 32) record] := by
  simp only [State.accept, hQ]
  rfl

theorem State.accept_vf {s : State} {v page : Nat} {sp : SubPage} (hs : (s.vf v).pages.find page = some sp) (p q : Nat) (b record : List Byte)
    (short : Bool) : (s.accept p v page q b record short).vf v =
      { s.vf v with pages := (s.vf v).pages.put page { qmask := sp.qmask, lastseq := BitVec.ofNat 64 (fieldAt b 0 8) }, cpl := .sc } := by
  have hg : (s.vf v).pages.get page { qmask := 0, lastseq := 0 } = sp := by rw [Tbl.get, hs]; rfl
  rw [← hg, State.accept, State.answer]
  simp only [State.modVf, State.vf_setVf_same]
  rfl

theorem State.accept_only (s : State) (p v page q : Nat) (b record : List Byte) (short : Bool) :
    let t := s.accept p v page q b record short
    t = { s with parts := t.parts, vfs := t.vfs, journal := t.journal } := rfl

/-- Settles O38: a write by the first check that it fails; one that fails none is accepted. -/
theorem hostSubmissions : Obligations.HostSubmissions := by
  unfold Obligations.HostSubmissions
  intro s vf page h x answer refused b q seq
  have href : refused = .next (s.refuseWrite vf h.dmw) := by
    rw [State.refuseWrite_eq]
    cases hd : h.dmw <;> simp only [refused, hd] <;> rfl
  rw [href]
  refine ⟨exec_hostSubmission_unbound h, fun p sp hp hs => ?_⟩
  intro bad Accepted
  have accepted (record : List Byte) (short : Bool)
      (he : exec (.hostSubmission vf page h) s = .next (s.accept p vf page q b record short)) : Accepted record short := fun Q hQ => by
    have hl := State.accept_launches hQ vf page b record short
    exact ⟨_, he, by rw [hl], by rw [hl], State.accept_journal hQ vf page b record short, State.accept_vf hs p q b record short,
      s.accept_only p vf page q b record short⟩
  refine ⟨exec_hostSubmission_form hp hs, fun hd hl ho => ⟨exec_hostSubmission_bad hp hs hd hl ho,
    fun hb hq => exec_hostSubmission_repeat hp hs hd hl ho hb hq, fun hb hq hk => ?short, fun record hb hq hk hv => ?pointer,
    fun o f hb hq hk hv => ?fault⟩⟩
  case short =>
    have he := exec_hostSubmission_short hp hs hd hl ho hb hq hk
    refine ⟨fun hm => ?_, fun hm => accepted _ _ ?_⟩
    · rw [he, hm]
      rfl
    · rw [he, hm]
      rfl
  case pointer =>
    have he := exec_hostSubmission_pointer hp hs hd hl ho hb hq hk
    rw [hv] at he
    refine ⟨fun hm => ?_, fun hm => accepted _ _ ?_⟩
    · rw [he, hm]
      rfl
    · rw [he, hm]
      rfl
  case fault =>
    rw [exec_hostSubmission_pointer hp hs hd hl ho hb hq hk, hv]
    simp only [beq_iff_eq]
    rfl

end Sys2Proof.Machine
end

section
/-! PROOF. Units of the frame area, and the expansion of a launch into its join block, frames and root records (R122, R140). -/

namespace Sys2Proof.Machine

open Sys2Proof.Config

/-! ### The units taken -/

theorem takeUnits_unused (used : List Nat) (total fuel i k : Nat) : ∀ u ∈ takeUnits used total fuel i k, u ∉ used := by
  induction fuel generalizing i k with
  | zero => simp [takeUnits]
  | succ fuel ih =>
    unfold takeUnits
    split
    · simp
    · split
      · exact ih _ _
      · next hn => simpa using ⟨by simpa using hn, ih _ _⟩

/-- As many units are taken as were asked for, where the tries outnumber those units by the ones in use that they meet. -/
theorem takeUnits_length_of_tries (used : List Nat) (total fuel i k : Nat)
    (h : k + ((List.range' i fuel).filter (fun j => used.contains (j % total))).length ≤ fuel) : (takeUnits used total fuel i k).length = k := by
  induction fuel generalizing i k with
  | zero => simp at h; simp [takeUnits, h]
  | succ fuel ih =>
    rw [List.range'_succ] at h
    unfold takeUnits
    split
    · next hk => simp [hk]
    · next hk =>
      split
      · next hu =>
        rw [List.filter_cons_of_pos (p := fun j => used.contains (j % total)) hu, List.length_cons] at h
        exact ih _ _ (by omega)
      · next hu =>
        rw [List.filter_cons_of_neg (p := fun j => used.contains (j % total)) hu] at h
        rw [List.length_cons, ih _ _ (by omega)]
        omega

/-- No two of as many successive numbers as there are units stand for the same unit. -/
theorem nodup_range'_mod {total fuel : Nat} (h : fuel ≤ total) (i : Nat) : ((List.range' i fuel).map (· % total)).Nodup := by
  refine List.Nodup.map_on (fun a ha b hb hab => ?_) List.nodup_range'
  rw [List.mem_range'_1] at ha hb
  exact Nat.ModEq.eq_of_abs_lt (m := total) hab (by rw [abs_lt]; omega)

/-- As many units are taken as were asked for, where the free part of the area holds them. -/
theorem takeUnits_length {used : List Nat} {total k : Nat} (h : used.length + k ≤ total) (i : Nat) :
    (takeUnits used total (used.length + k) i k).length = k := by
  refine takeUnits_length_of_tries used total _ i k ?_
  have hn := ((nodup_range'_mod h i).sublist ((List.range' i (used.length + k)).filter_sublist.map _) :
    (((List.range' i (used.length + k)).filter (fun j => used.contains (j % total))).map (· % total)).Nodup)
  have hs : ((List.range' i (used.length + k)).filter (fun j => used.contains (j % total))).map (· % total) ⊆ used := by
    intro u hu
    obtain ⟨j, hj, rfl⟩ := List.mem_map.mp hu
    simpa using (List.mem_filter.mp hj).2
  have hl := (List.subperm_of_subset hn hs).length_le
  rw [List.length_map] at hl
  omega

/-- Units are allocated where the free part of the area holds them: none of them was in use. -/
theorem State.allocFrames_ok {s : State} {p k : Nat} (h : (s.part p).frames.length + k ≤ (s.part p).frameUnits) :
    ∃ us : List Nat, s.allocFrames p k = some (us, { s with freeCtr := s.freeCtr + 1 }.modPart p fun P => { P with frames := P.frames ++ us }) ∧
      us.length = k ∧ ∀ u ∈ us, u ∉ (s.part p).frames := by
  refine ⟨takeUnits (s.part p).frames (s.part p).frameUnits ((s.part p).frames.length + k) (s.pick (s.part p).frameUnits).1 k, ?_,
    takeUnits_length h _, takeUnits_unused _ _ _ _ _⟩
  rw [State.allocFrames, if_pos h]
  rfl

/-! ### The records and frames of a launch -/

/-- The addresses of units, and the root that translates the area, are the descriptor's. -/
theorem Partition.frameVa_desc {P P' : Partition} (h : P'.desc = P.desc) (u : Nat) : P'.frameVa u = P.frameVa u := by
  rw [Partition.frameVa, Partition.frameVa, h]
theorem Partition.frameGa_desc {P P' : Partition} (h : P'.desc = P.desc) (u : Nat) : P'.frameGa u = P.frameGa u := by
  rw [Partition.frameGa, Partition.frameGa, h]

/-- What a write of a partition's own structures makes of memory rests on memory and the descriptor. -/
theorem State.gwrite_mem_congr {s t : State} {p : Nat} (hm : t.mem = s.mem) (hd : (t.part p).desc = (s.part p).desc) (ga : Nat) (bs : List Byte) :
    (t.gwrite p ga bs).mem = (s.gwrite p ga bs).mem := by
  have hg : t.gpa p = s.gpa p := by rw [State.gpa, State.gpa, hd]
  rw [State.gwrite, State.gwrite, hm, hg]
  cases vwrite s.mem (s.gpa p) ga bs <;> simp [hm]

theorem State.push_part {s : State} {p q : Nat} {Q : Queue} (hQ : (s.part p).queues.find q = some Q) (c : Cont) :
    (s.push p q c).part p = { s.part p with
      queues := (s.part p).queues.put q (Q.add { cont := c, rsv := false, period := none, trim := none }) } := by
  rw [State.push_eq hQ]
  exact State.part_setPart_same _ _ _

/-- A push changes of its partition no more than the queues. -/
theorem State.push_part_queues (s : State) (p q : Nat) (c : Cont) :
    (s.push p q c).part p = { s.part p with queues := ((s.push p q c).part p).queues } := by
  cases hQ : (s.part p).queues.find q with
  | some Q => rw [State.push_part hQ]
  | none =>
    have : (s.push p q c).part p = s.part p := by
      rw [State.push, State.modPart, hQ]
      exact State.part_setPart_same _ _ _
    rw [this]

/-- One of the periods a launch makes: its frame written, its root record pushed. -/
def State.expandOne (p q : Nat) (at_ : Nat → Nat) (frame : Nat → List Byte) (root : Nat → Cont) (s : State) (k : Nat) : State :=
  (s.gwrite p (at_ k) (frame k)).push p q (root k)

section
variable (s : State) (p q : Nat) (at_ : Nat → Nat) (frame : Nat → List Byte) (root : Nat → Cont) (l : List Nat)

theorem State.expandOnes_only : s.onlyWork (l.foldl (State.expandOne p q at_ frame root) s) :=
  State.onlyWork_foldl (fun u _ => State.onlyWork_trans (State.onlyWork_onlyMem (u.gwrite_onlyMem _ _ _)) (State.push_only _ _ _ _)) l s

/-- Of its partition, expanding a launch changes no more than the queues. -/
theorem State.expandOnes_part : let t := l.foldl (State.expandOne p q at_ frame root) s
    t.part p = { s.part p with queues := (t.part p).queues } := by
  induction l generalizing s with
  | nil => rfl
  | cons k l ih =>
    have hk : (State.expandOne p q at_ frame root s k).part p =
        { s.part p with queues := ((State.expandOne p q at_ frame root s k).part p).queues } := by
      have h := State.push_part_queues (s.gwrite p (at_ k) (frame k)) p q (root k)
      rwa [State.onlyMem_part (s.gwrite_onlyMem _ _ _)] at h
    have h := ih (State.expandOne p q at_ frame root s k)
    dsimp only at h ⊢
    rw [List.foldl_cons, h, hk]

/-- What the memory becomes by it: the frames written in order. -/
theorem State.expandOnes_mem : (l.foldl (State.expandOne p q at_ frame root) s).mem =
    (l.foldl (fun u k => u.gwrite p (at_ k) (frame k)) s).mem := by
  suffices h : ∀ u : State, u.mem = s.mem → (u.part p).desc = (s.part p).desc →
      (l.foldl (State.expandOne p q at_ frame root) u).mem = (l.foldl (fun u k => u.gwrite p (at_ k) (frame k)) s).mem from h s rfl rfl
  induction l generalizing s with
  | nil => exact fun u hm _ => hm
  | cons k l ih =>
    intro u hm hd
    refine ih (s.gwrite p (at_ k) (frame k)) _ (State.gwrite_mem_congr hm hd _ _) ?_
    rw [State.expandOne, State.push_part_queues, State.onlyMem_part (u.gwrite_onlyMem _ _ _), State.onlyMem_part (s.gwrite_onlyMem _ _ _), hd]

end

/-- Records of one level added to a queue in order stand at the end of that level. -/
theorem Queue.foldl_add {prio : Nat} (rec_ : Nat → QRec) (l : List Nat) (h : ∀ k ∈ l, (rec_ k).cont.prio = prio) (Q : Queue) :
    l.foldl (fun Q k => Q.add (rec_ k)) Q = { Q with recs := Q.recs.set prio ((Q.recs[prio]?).getD [] ++ l.map rec_) } := by
  induction l generalizing Q with
  | nil =>
    have : Q.recs.set prio ((Q.recs[prio]?).getD []) = Q.recs := by
      apply List.ext_getElem?
      intro i
      rw [List.getElem?_set]
      split
      · next hi => subst hi; split <;> simp_all
      · rfl
    simp [this]
  | cons k l ih =>
    have hk : Q.add (rec_ k) = { Q with recs := Q.recs.set prio ((Q.recs[prio]?).getD [] ++ [rec_ k]) } := by
      rw [Queue.add, h k List.mem_cons_self]
      rfl
    rw [List.foldl_cons, ih (fun j hj => h j (List.mem_cons_of_mem _ hj)), hk]
    dsimp only
    rw [List.set_set]
    by_cases hp : prio < Q.recs.length
    · rw [List.getElem?_set_self hp]
      simp
    · rw [List.set_eq_of_length_le (by omega), List.set_eq_of_length_le (by omega)]

/-- The root records stand in their queue one after another. -/
theorem State.expandOnes_queue {s : State} {p q : Nat} {Q : Queue} (at_ : Nat → Nat) (frame : Nat → List Byte) (root : Nat → Cont) (l : List Nat)
    (hQ : (s.part p).queues.find q = some Q) : ((l.foldl (State.expandOne p q at_ frame root) s).part p).queues.find q =
    some (l.foldl (fun Q k => Q.add { cont := root k, rsv := false, period := none, trim := none }) Q) := by
  induction l generalizing s Q with
  | nil => exact hQ
  | cons k l ih =>
    refine ih ?_
    have hg : ((s.gwrite p (at_ k) (frame k)).part p).queues.find q = some Q := by rw [State.onlyMem_part (s.gwrite_onlyMem _ _ _), hQ]
    rw [State.expandOne, State.push_part hg]
    exact Tbl.find_put_same _ _ _

/-! ### The expansion of a launch -/

/-- The first 512 bytes of a launch's join block: one count for each of its periods, armed. -/
def launchBlock (n q : Nat) : List Byte := leBytes n 4 ++ leBytes q 1 ++ leBytes 1 1 ++ List.replicate 506 0

section
variable (s : State) (p q prio cls : Nat) (b : List Byte) (us : List Nat)

/-- The join block written, then each frame and record. -/
theorem State.expand_eq : s.expand p q prio cls b us = (List.range (lrInstances b)).foldl
    (State.expandOne p q (fun k => (s.part p).frameGa (nth us (k + 1) 0)) (frameBytes b)
      (fun k => rootRec b cls prio ((s.part p).frameVa (nth us (k + 1) 0)) ((s.part p).frameVa (us.headD 0)) k))
    (s.gwrite p ((s.part p).frameGa (us.headD 0)) (launchBlock (lrInstances b) q)) := rfl

theorem State.expand_only : s.onlyWork (s.expand p q prio cls b us) := by
  rw [State.expand_eq]
  exact State.onlyWork_trans (State.onlyWork_onlyMem (s.gwrite_onlyMem _ _ _)) (State.expandOnes_only _ _ _ _ _ _ _)

theorem State.expand_part : (s.expand p q prio cls b us).part p =
    { s.part p with queues := ((s.expand p q prio cls b us).part p).queues } := by
  have h := State.expandOnes_part (s.gwrite p ((s.part p).frameGa (us.headD 0)) (launchBlock (lrInstances b) q)) p q
    (fun k => (s.part p).frameGa (nth us (k + 1) 0)) (frameBytes b)
    (fun k => rootRec b cls prio ((s.part p).frameVa (nth us (k + 1) 0)) ((s.part p).frameVa (us.headD 0)) k) (List.range (lrInstances b))
  rwa [State.onlyMem_part (s.gwrite_onlyMem _ _ _), ← State.expand_eq] at h

end

/-! ### The oldest launch that is not expanded -/

/-- A launch changed, of those of its partition. -/
theorem State.modLaunch_part (s : State) (p q no : Nat) (f : Launch → Launch) : (s.modLaunch p q no f).part p =
    { s.part p with launches := (s.part p).launches.map (fun m => if m.q = q ∧ m.accNo = no then f m else m) } := by
  rw [State.modLaunch, State.modPart, State.part_setPart_same]
  simp

section
variable {s : State} {p q : Nat} {l : Launch} (hl : s.unexpanded p q = some l)
include hl

/-- The oldest launch ends with the status of the first check it fails. -/
theorem State.expandNext_fails {st : Nat} (h : (l.short = true ∧ st = stBADREC) ∨ (l.short = false ∧ s.launchCheck p l.record false = .error st)) :
    s.expandNext p q = s.modLaunch p q l.accNo fun m => { m with expanded := true, status := some st } := by
  rw [State.expandNext, hl]
  dsimp only
  obtain ⟨hs, rfl⟩ | ⟨hs, hc⟩ := h
  · rw [hs]
    rfl
  · rw [hs]
    simp only [Bool.false_eq_true, if_false, hc]

section
variable {cls : Nat} (hs : l.short = false) (hc : s.launchCheck p l.record false = .ok cls)
include hs hc

/-- It waits for places in its level. -/
theorem State.expandNext_waits (hm : (s.part p).room q l.prio (lrInstances l.record) (lrInstances l.record + 1) = false) :
    s.expandNext p q = s := by
  rw [State.expandNext, hl]
  simp [hs, hc, hm]

/-- It is expanded in the units it is given. -/
theorem State.expandNext_expands (hm : (s.part p).room q l.prio (lrInstances l.record) (lrInstances l.record + 1) = true) {us : List Nat} {t : State}
    (ha : s.allocFrames p (lrInstances l.record + 1) = some (us, t)) : s.expandNext p q =
    (t.modLaunch p q l.accNo fun m => { m with expanded := true, join := w ((t.part p).frameVa (us.headD 0)), units := us }).expand
      p q l.prio cls l.record us := by
  rw [State.expandNext, hl]
  simp [hs, hc, hm, ha]

end

end

/-! ### Completions (R123, R124) -/

theorem cplBytes_eq (ctag : Word) (st q : Nat) (phase : Bool) (seq : Dword) (page : Nat) : cplBytes ctag st q phase seq page =
    leBytes ctag.toNat 4 ++ leBytes st 2 ++ leBytes q 1 ++ leBytes (if phase then 1 else 0) 1 ++ leBytes seq.toNat 6 ++ leBytes page 1 ++ [0] := rfl

/-- A VF whose ring holds one more record, but for the message. -/
def Vf.posted (x : Vf) : Vf :=
  { x with crtail := (x.crtail + 1) % 2 ^ x.log2n, phase := if (x.crtail + 1) % 2 ^ x.log2n = 0 then !x.phase else x.phase }

/-- A message changes neither the ring's tail nor its phase. -/
theorem Vf.message_ring (x : Vf) (n : Nat) : (x.message n).crtail = x.crtail ∧ (x.message n).phase = x.phase := by
  unfold Vf.message
  split <;> exact ⟨rfl, rfl⟩

/-- The VF after the post: with the message of its queue, unless that is switched off. -/
def Vf.told (x : Vf) (q : Nat) (noirq : Bool) : Vf := if noirq then x.posted else x.posted.message (x.qvec.get q 0)

theorem Vf.told_ring (x : Vf) (q : Nat) (noirq : Bool) :
    (x.told q noirq).crtail = x.posted.crtail ∧ (x.told q noirq).phase = x.posted.phase := by
  unfold Vf.told
  split
  · exact ⟨rfl, rfl⟩
  · exact Vf.message_ring _ _

/-- The state in which a completion record stands in its ring, the VF is told, and the launch is gone. -/
def State.completed (s : State) (vf q p : Nat) (l : Launch) (bs : List Byte) (noirq : Bool) : State :=
  ((State.setVf { s with mem := s.mem.write (hostPa ((s.vf vf).crbase.toNat + 16 * (s.vf vf).crtail)) bs } vf ((s.vf vf).told q noirq)).modPart p
    fun P => { P with launches := P.launches.filter (fun m => !(m.q == l.q && m.accNo == l.accNo)) })

/-- The oldest host launch of a queue, completed, is posted where the ring has room. -/
theorem exec_completionPost {s : State} {vf q p page st : Nat} {l : Launch} {seq : Dword} {ctag : Word} {noirq : Bool}
    (hp : s.vfPart vf = some p) (hl : (s.part p).launches.find? (fun m => m.q == q && m.fromHost) = some l)
    (ha : l.act = .host vf page seq ctag noirq) (hst : l.status = some st) (hf : (s.vf vf).ringFree ≠ 0) :
    exec (.completionPost vf q) s = .next (s.completed vf q p l (cplBytes ctag st q (s.vf vf).phase seq page) noirq) := by
  show execCompletionPost vf q s = _
  rw [execCompletionPost, hp]
  dsimp only
  rw [hl]
  dsimp only
  rw [ha, hst]
  exact congrArg _ (if_neg (by simp [hf]))

section
variable (s : State) (vf q p : Nat) (l : Launch) (bs : List Byte) (noirq : Bool)

theorem State.completed_mem : (s.completed vf q p l bs noirq).mem =
    s.mem.write (hostPa ((s.vf vf).crbase.toNat + 16 * (s.vf vf).crtail)) bs := rfl

theorem State.completed_only : let t := s.completed vf q p l bs noirq
    t = { s with parts := t.parts, vfs := t.vfs, mem := t.mem } := rfl

theorem State.completed_vf : (s.completed vf q p l bs noirq).vf vf = (s.vf vf).told q noirq := Tbl.get_put_same _ _ _ _

theorem State.completed_part : (s.completed vf q p l bs noirq).part p =
    { s.part p with launches := (s.part p).launches.filter (fun m => !(m.q == l.q && m.accNo == l.accNo)) } := Tbl.get_put_same _ _ _ _

end

/-- Settles O40: an expansion by the checks of its launch, a post by the ring it goes to. -/
theorem launchesExpandAndComplete : Obligations.LaunchesExpandAndComplete := by
  unfold Obligations.LaunchesExpandAndComplete
  refine ⟨fun s p q l hl => ⟨fun st h => ?fails, fun cls hs hc => ⟨fun hm => ?waits, fun hm hf => ?expands⟩⟩,
    fun s vf q p l page seq ctag noirq st hp hl ha hst hf => ?posts⟩
  case fails =>
    show Host.Outcome.next (s.expandNext p q) = _
    rw [State.expandNext_fails hl h, State.modLaunch]
    simp [State.modPart]
  case waits =>
    show Host.Outcome.next (s.expandNext p q) = _
    rw [State.expandNext_waits hl hs hc hm]
  case expands =>
    obtain ⟨us, hus, hlen, hfree⟩ := State.allocFrames_ok hf
    refine ⟨_, us, congrArg Host.Outcome.next (State.expandNext_expands hl hs hc hm hus), hlen, hfree, ?_, ?_, ?_⟩
    · rw [State.expand_part, State.modLaunch_part, State.modPart, State.part_setPart_same]
      rfl
    · rw [State.expand_part, State.modLaunch_part, State.modPart, State.part_setPart_same]
      rfl
    · refine State.onlyWork_trans ?_ (State.expand_only _ _ _ _ _ _ _)
      rfl
  case posts =>
    obtain ⟨htail, hphase⟩ := (s.vf vf).told_ring q noirq
    refine ⟨_, exec_completionPost hp hl ha hst hf, ?_, ?_⟩
    · rw [State.completed_mem, cplBytes_eq]
    · rw [State.completed_vf, State.completed_part]
      exact ⟨htail, hphase, fun hn => by rw [hn]; exact ⟨rfl, rfl⟩, rfl, s.completed_only _ _ _ _ _ _⟩

end Sys2Proof.Machine
end

section
/-! PROOF. The pops of a region (R122, R129, R438), with what reading the pod channel table can change (R454). -/

namespace Sys2Proof.Machine

open Sys2Proof.Config

/-! ### Channels between modules read for a region (R454) -/

/-- Two states that agree but for the ports of the regions and those of the links. -/
def State.onlyLinks (s t : State) : Prop := t = { s with ports := t.ports, akend := t.akend }

section
variable {s t u : State}

theorem State.onlyLinks_refl (s : State) : s.onlyLinks s := rfl
theorem State.onlyLinks_trans (h : s.onlyLinks t) (h' : t.onlyLinks u) : s.onlyLinks u := by
  unfold State.onlyLinks at h h' ⊢
  rw [h', h]
theorem State.onlyLinks_foldl {α : Type} {f : State → α → State} (hf : ∀ (s : State) a, s.onlyLinks (f s a)) (l : List α) (s : State) :
    s.onlyLinks (l.foldl f s) := by
  induction l generalizing s with
  | nil => exact s.onlyLinks_refl
  | cons a l ih => exact State.onlyLinks_trans (hf s a) (ih _)

theorem State.modAk_onlyLinks (s : State) (n : Nat) (f : Akend → Akend) : s.onlyLinks (s.modAk n f) := rfl
theorem State.modPort_onlyLinks (s : State) (k : Nat) (f : Port → Port) : s.onlyLinks (s.modPort k f) := rfl
theorem State.sendFlit_onlyLinks (s : State) (port type nbeat slot credit : Nat) (payload : List Byte) :
    s.onlyLinks (s.sendFlit port type nbeat slot credit payload) := rfl

theorem State.drainSlot_onlyLinks (n : Nat) (s : State) (port slot : Nat) : s.onlyLinks (State.drainSlot n s port slot) := by
  induction n generalizing s with
  | zero => exact s.onlyLinks_refl
  | succ n ih =>
    unfold State.drainSlot
    split
    · split
      · exact s.onlyLinks_refl
      · split
        · exact s.onlyLinks_refl
        · exact State.onlyLinks_trans (State.onlyLinks_trans (State.onlyLinks_trans (s.modPort_onlyLinks _ _) (State.modAk_onlyLinks _ _ _))
            (State.sendFlit_onlyLinks _ _ _ _ _ _ _)) (ih _)
    · exact s.onlyLinks_refl

theorem State.grantSlot_onlyLinks (s : State) (port slot : Nat) : s.onlyLinks (s.grantSlot port slot) := by
  unfold State.grantSlot
  split
  · exact s.onlyLinks_refl
  · exact State.onlyLinks_trans (State.onlyLinks_trans (s.modAk_onlyLinks _ _) (State.sendFlit_onlyLinks _ _ _ _ _ _ _))
      (State.sendFlit_onlyLinks _ _ _ _ _ _ _)

theorem State.linkPort_onlyLinks (s : State) (rn : Nat) (r : Region) (e : Nat × Nat × Nat × PodLink) : s.onlyLinks (s.linkPort rn r e) := by
  unfold State.linkPort
  dsimp only
  split
  · exact s.onlyLinks_refl
  · split
    · exact s.modPort_onlyLinks _ _
    · split
      · exact State.onlyLinks_trans (State.onlyLinks_trans (s.modPort_onlyLinks _ _) (State.grantSlot_onlyLinks _ _ _))
          (State.drainSlot_onlyLinks _ _ _ _)
      · exact s.modPort_onlyLinks _ _

theorem State.readChannels_onlyLinks (s : State) (rn : Nat) : s.onlyLinks (s.readChannels rn) := by
  unfold State.readChannels
  split
  · exact s.onlyLinks_refl
  · dsimp only
    split
    · rfl
    · refine State.onlyLinks_trans ?_ (State.onlyLinks_foldl (fun s e => s.linkPort_onlyLinks rn _ e) _ _)
      rfl

end

/-! ### The start of a period -/

/-- A change of the listed elements: of those the region covers, where an element that is not listed stays so (R439). -/
theorem State.modListed_tile_eq {f : Tile → Tile} (hf : f Tile.cleared = Tile.cleared) (s : State) (r : Region) (n : Nat) :
    (s.modListed r f).tile n = if r.covers n then f (s.tile n) else s.tile n := by
  unfold State.tile State.modListed Tbl.get
  dsimp only
  rw [Tbl.find_map _ fun x => by split <;> rfl]
  cases Tbl.find s.tiles n with
  | none => simp [hf]
  | some v => cases h : r.covers n <;> simp [h]

/-- The elements and ports of a region, ready for its next period. -/
def State.warmed (s : State) (rn : Nat) (r : Region) : State :=
  { s.modListed r Tile.warm with
    ports := s.ports.map (fun (x : Nat × Port) => if x.1 / 2048 == rn then (x.1, x.2.warm) else x) }

/-- A region as the start of a record leaves it: what a period starts afresh, its elements' configuration and its attachment kept. -/
def State.started (s : State) (r : Region) (c : Cont) (no : Nat) : Region :=
  { r with
    state := .running, run := some c, period := no, origq := (r.attach.getD (0, 0)).1, code := s.codeOf r.part c
    seq := { (((Seq.zero.set 1 c.frame).set 2 c.join)) with pc := c.entry, first := true }
    sects := [], cycles := 0, phase := 0, phaseStart := 0, cfgFrom := none, cfgLoad := 0, prof := [0, 0, 0, 0], firings := 0
    beatsOut := 0, sampleAt := 0, pushIdx := 0, inPlace := s.graphInPlace r.part c.graph, shadows := []
    warm := s.warmOf (s.queueXlate r.part (hSlot (r.attach.getD (0, 0)).1.toNat - 1)) c.frame.toNat, why := 0, saved := false }

theorem State.startPeriod_eq {s : State} {rn : Nat} {r : Region} (hr : s.region? rn = some r) (c : Cont) (no : Nat) :
    s.startPeriod rn r c no = (s.warmed rn r).setRegion rn (s.started r c no) :=
  State.modRegion_eq (s := s.warmed rn r) hr _

theorem State.warmed_tile (s : State) (rn : Nat) (r : Region) (n : Nat) :
    (s.warmed rn r).tile n = if r.covers n then (s.tile n).warm else s.tile n := s.modListed_tile_eq rfl r n

/-- The state in which a record has been taken from its queue, and journalled under the number of the period it starts (R129, R423). -/
def State.popped (s : State) (rn p q : Nat) (Q : Queue) (no : Nat) (c : Cont) : State :=
  { s.modPart p (fun P => { P with queues := P.queues.put q Q }) with
    periodNo := s.periodNo + 1, journal := s.journal ++ [JEntry.pop no p q c.prio rn c] }

theorem State.popped_part (s : State) (rn p q : Nat) (Q : Queue) (no : Nat) (c : Cont) :
    (s.popped rn p q Q no c).part p = { s.part p with queues := (s.part p).queues.put q Q } := State.part_setPart_same _ _ _

section
variable {s : State} {rn : Nat} {r : Region} {qh : Word} {cls : Nat} {Q : Queue} (hr : s.region? rn = some r) (ha : r.attach = some (qh, cls))
  (hs : r.state = .idle) (hc : (s.part r.part).current tblQueue qh.toNat = true) (hh : s.isHeld r.part (.image rn) = false)
  (hQ : (s.part r.part).queues.find (hSlot qh.toNat - 1) = some Q)
include hr ha hs hc hh hQ

theorem exec_regionPop_nothing
    (hpop : Q.pop (fun x => (x.cont.kind == kPERIOD || x.cont.kind == kRESUME) && x.cont.sclass == cls) (fun x => x.cont.kind == kRESUME) = none) :
    exec (.regionPop rn) s = .next s := by
  show execRegionPop rn s = _
  rw [execRegionPop, hr]
  dsimp only
  rw [ha]
  dsimp only
  rw [if_neg (by simp [hs, hc, hh]), hQ]
  dsimp only
  rw [hpop]

/-- A region takes a PERIOD record of a graph that is current. -/
theorem exec_regionPop_period {lvl : Nat} {Q' : Queue} {e : QRec}
    (hpop : Q.pop (fun x => (x.cont.kind == kPERIOD || x.cont.kind == kRESUME) && x.cont.sclass == cls) (fun x => x.cont.kind == kRESUME) =
      some (e, lvl, Q')) (hk : e.cont.kind = 0) (hg : (s.part r.part).current tblGraph e.cont.graph = true) :
    exec (.regionPop rn) s = .next ((((s.popped rn r.part (hSlot qh.toNat - 1) Q' (e.period.getD s.periodNo) e.cont).startPeriod rn r e.cont
      (e.period.getD s.periodNo)).readChannels rn).trace rn 1 e.cont.plain.flags.toNat 0) := by
  have hk' : e.cont.kind ≠ kRESUME := by rw [hk]; decide
  have hg' : ((s.popped rn r.part (hSlot qh.toNat - 1) Q' (e.period.getD s.periodNo) e.cont).part r.part).current tblGraph e.cont.graph = true := by
    rw [State.popped_part]
    exact hg
  show execRegionPop rn s = _
  rw [execRegionPop, hr]
  dsimp only
  rw [ha]
  dsimp only
  rw [if_neg (by simp [hs, hc, hh]), hQ]
  dsimp only
  rw [hpop]
  dsimp only
  rw [if_neg hk', State.startRecord, ha]
  dsimp only [Option.getD_some]
  rw [if_neg hk', if_neg hk']
  exact congrArg _ (if_neg fun h => absurd ((congrArg not hg').symm.trans h) (by decide))

end

/-- Settles O41: a pop by the record that is there, and the retry of the reserve pushes by what the queue holds. -/
theorem regionPops : Obligations.RegionPops := by
  unfold Obligations.RegionPops
  refine ⟨fun s rn r qh cls Q hr ha hs hc hh hQ => ⟨exec_regionPop_nothing hr ha hs hc hh hQ, fun e lvl Q' hpop hk hg => ?pop⟩,
    fun s p q Q hQ => ⟨?retry, fun Q' e he => ?reserve⟩⟩
  case pop =>
    set no := e.period.getD s.periodNo
    set u := s.popped rn r.part (hSlot qh.toNat - 1) Q' no e.cont with hu
    set g := u.started r e.cont no with hgdef
    set v := (u.startPeriod rn r e.cont no).readChannels rn with hv
    have hr' : u.region? rn = some r := hr
    have hlinks : (u.startPeriod rn r e.cont no).onlyLinks v := State.readChannels_onlyLinks _ _
    have hstart := State.startPeriod_eq hr' e.cont no
    have hregions : v.regions = ((u.warmed rn r).setRegion rn g).regions := by rw [hlinks, hstart]
    have htiles : v.tiles = (u.warmed rn r).tiles := by rw [hlinks, hstart]; rfl
    have hparts : v.parts = u.parts := by rw [hlinks, hstart]; rfl
    obtain ⟨htr, htt, -, -, -, -, htp⟩ := v.trace_spec rn 1 e.cont.plain.flags.toNat 0
    have hregion (n : Nat) : (v.trace rn 1 e.cont.plain.flags.toNat 0).region? n = ((u.warmed rn r).setRegion rn g).region? n := by
      rw [State.region?, htr, hregions, State.region?]
    have htile (n : Nat) : (v.trace rn 1 e.cont.plain.flags.toNat 0).tile n = if r.covers n then (s.tile n).warm else s.tile n := by
      rw [State.tile, htt, htiles]
      exact u.warmed_tile rn r n
    refine ⟨_, g, exec_regionPop_period hr ha hs hc hh hQ hpop hk hg, by rw [hregion, State.region?_setRegion_same], rfl, rfl, ?_, rfl, ?_, rfl,
      rfl, rfl, rfl, rfl, fun n hn => ?_, fun n hn => ?_, ?_, fun n hn => ?_⟩
    · rw [hgdef, State.started, ha]
      rfl
    · rw [hgdef, State.started, State.codeOf, hu, State.popped_part, State.codeOf]
    · rw [htile, if_pos hn]
      rfl
    · rw [htile, hn]
      rfl
    · rw [htp, State.part, hparts]
      exact congrArg Partition.queues (s.popped_part rn r.part _ Q' no e.cont)
    · rw [hregion, State.region?_setRegion_other _ _ hn]
      rfl
  case retry =>
    show execReservePushRetry p q s = _
    rw [execReservePushRetry, State.modPart, hQ]
  case reserve =>
    simp only [Queue.addReserve, Queue.add, he, List.filter_nil, List.isEmpty_nil, and_true, List.nil_append]
    rfl

end Sys2Proof.Machine
end

section
/-! PROOF. The failure of a part (R406, R423-R427). -/

namespace Sys2Proof.Machine

open Sys2Proof.Config

/-- The state in which a part is out of service for this boot. -/
def State.partOut (s : State) (f : FailedPart) : State :=
  { s with failed := if s.failed.contains f then s.failed else s.failed ++ [f] }

/-- The periods not retired that used a part, replayed in the order of their pops. -/
def State.replayAll (s : State) (us : List Nat) : State := ((openPops s.journal).filter (s.usedBy us)).foldl State.replayPeriod s

/-! ### The words of a pseudo-channel -/

/-- With no trim that holds its object, an error in memory meets none. -/
theorem State.failTrims_idle {s : State} (h : ∀ x ∈ s.parts, ∀ y ∈ x.2.trims, y.2.granted = false) (pa : Nat) : s.failTrims pa = s := by
  rw [State.failTrims, List.flatMap_eq_nil_iff.mpr fun x hx => ?_]
  · rfl
  · rw [List.map_eq_nil_iff, List.filter_eq_nil_iff]
    intro y hy
    simp [h x hx y hy]

theorem State.foldl_failTrims_idle {s : State} (h : ∀ x ∈ s.parts, ∀ y ∈ x.2.trims, y.2.granted = false) (l : List Nat) :
    l.foldl State.failTrims s = s := by
  induction l with
  | nil => rfl
  | cons a l ih => rw [List.foldl_cons, State.failTrims_idle h, ih]

/-- A word that becomes zero ends no period. -/
theorem State.zeroWord_lostPeriods (s : State) (pa : Nat) : (s.zeroWord pa).lostPeriods = s.lostPeriods := by
  unfold State.zeroWord
  split <;> rfl

theorem State.foldl_zeroWord_lostPeriods (l : List Nat) (s : State) : (l.foldl State.zeroWord s).lostPeriods = s.lostPeriods := by
  induction l generalizing s with
  | nil => rfl
  | cons a l ih => rw [List.foldl_cons, ih, State.zeroWord_lostPeriods]

/-- The periods that complete with DATA_LOST are those that did, and those that run on the regions named. -/
theorem State.mem_loseData {s : State} {rns : List Nat} {n : Nat} : n ∈ (s.loseData rns).lostPeriods ↔
    n ∈ s.lostPeriods ∨ ∃ rn ∈ rns, ∃ r, s.region? rn = some r ∧ r.run.isSome = true ∧ r.period = n := by
  have one (rn : Nat) : (match s.region? rn with | some r => if r.run.isSome then some r.period else none | none => none) = some n ↔
      ∃ r, s.region? rn = some r ∧ r.run.isSome = true ∧ r.period = n := by
    cases s.region? rn <;> simp
  simp only [State.loseData, List.mem_append, List.mem_filterMap]
  exact or_congr_right (exists_congr fun rn => and_congr_right fun _ => one rn)

/-! ### What becomes of the work -/

/-- No region runs a period. -/
theorem State.find_running_none {s : State} {n : Nat} (h : ∀ x ∈ s.regions, x.2.run.isSome = true → x.2.period ≠ n) :
    s.regions.find? (fun x => x.2.run.isSome && x.2.period == n) = none := by
  rw [List.find?_eq_none]
  intro x hx
  simpa using h x hx

section
variable {s : State} {n : Nat} (p q rn : Nat) (c : Cont)

theorem State.reportLost_waiting (h : ∀ x ∈ s.regions, x.2.run.isSome = true → x.2.period ≠ n) : s.reportLost (n, p, q, rn, c) =
    (State.post { s with journal := s.journal ++ [.retire n] } p true false (FaultRec.of fPARTFAIL 4)).retireJoin p
      (s.queueXlate p q) c.join.toNat stDATALOST c.iidx := by
  rw [State.reportLost, State.find_running_none h]

theorem State.replayPeriod_waiting (h : ∀ x ∈ s.regions, x.2.run.isSome = true → x.2.period ≠ n) : s.replayPeriod (n, p, q, rn, c) =
    s.pushOr p q (s.queueXlate p q) (if (s.commitImage n).isSome then resumeOf c else c) (some n) := by
  rw [State.replayPeriod, State.find_running_none h]

section
variable {m : Nat} {g : Region} (h : s.regions.find? (fun x => x.2.run.isSome && x.2.period == n) = some (m, g))
include h

theorem State.reportLost_running : s.reportLost (n, p, q, rn, c) = (s.postRg p m true false (FaultRec.of fPARTFAIL 4)).kill m (some stDATALOST) := by
  rw [State.reportLost, h]

theorem State.replayPeriod_running : s.replayPeriod (n, p, q, rn, c) = (s.postRg p m true false (FaultRec.of fPARTFAIL 4)).kill m none := by
  rw [State.replayPeriod, h]

end

end

/-- A pseudo-channel fails: the words of it that are gone become zero, once the periods that used it are known to lose data. -/
theorem exec_partFailure_pseudoChannel (s : State) (users lost : List Nat) (stack pc : Nat) :
    let gone := lost.filter (fun pa => paDevice pa && !paLpddr pa && stackOf pa == stack && nbits pa 18 11 == pc)
    let o := s.partOut (.pseudoChannel stack pc)
    let us := users ++ o.usersOf o.granLost
    exec (.partFailure (.pseudoChannel stack pc) users lost) s =
      .next ((gone.foldl State.zeroWord ((gone.foldl State.failTrims o).loseData us)).replayAll us) := rfl

/-- Settles O54: each kind of part by what its failure takes out of service, and the work of a period by whether a region runs it. -/
theorem partFailures : Obligations.PartFailures := by
  unfold Obligations.PartFailures
  intro s users lost out replayed
  refine ⟨fun sq => rfl, fun rn => rfl, fun port lane => ⟨rfl, rfl⟩, fun h => ⟨_, rfl, rfl⟩, fun stack pc => ?channel,
    fun ns => ⟨rfl, fun n p q rn c y => ⟨State.reportLost_waiting p q rn c, fun m g hm => State.reportLost_running p q rn c hm⟩⟩,
    fun n p q rn c y => State.replayPeriod_waiting p q rn c, fun n p q rn c y m g hm => State.replayPeriod_running p q rn c hm⟩
  case channel =>
    intro gone o us z
    refine ⟨fun h => State.foldl_failTrims_idle (s := o) h gone, ?_⟩
    intro zeroed
    have hz : zeroed = State.zeroWord := rfl
    have hl := State.foldl_zeroWord_lostPeriods gone (z.loseData us)
    refine ⟨gone.foldl State.zeroWord (z.loseData us), exec_partFailure_pseudoChannel s users lost stack pc, ?_, fun n => ?_⟩
    · rw [hz, hl]
      rfl
    · rw [hl]
      exact State.mem_loseData

end Sys2Proof.Machine
end

section
/-! PROOF. Where RETIRE reaches beyond its period: a join block whose page stage 2 does not map (R131, R224, R346, R407). -/

namespace Sys2Proof.Machine

open Sys2Proof.Config

/-- The partition of the refutation: in force, stage 2 mapping no page. -/
def unmappedPart : Partition :=
  { Partition.inactive with
    desc := some { reqsig := false, fqlog := 4, frzlim := 0, trlog := 6, s2root := 0x10000, sctab := 0, attntab := 0, attnstat := 0, fqbase := 0
                   trbase := 0, errblk := 0, svctab := 0, qtab := 0, framebase := 0, framelen := 0, frameva := 0, shadowbase := 0, shadowlen := 0
                   pchtab := 0, coldesc := 0, keytab := 0, nstab := 0, nattn := 0, quotas := [] } }

/-- The record of its period, which names the join block at 64. -/
def unmappedCont : Cont := { code := 0, frame := 0, join := 64, flags := 0 }

/-- The region that runs the period: every register full, no access to perform. -/
def unmappedRegion : Region :=
  { newRegion 0 1 1 { x := 0, y := 0, wd := 2, ht := 2 } with state := .running, run := some unmappedCont }

/-- The machine with that partition and that region. -/
def unmappedState : State := { State.reset with parts := [(0, unmappedPart)], regions := [(0, unmappedRegion)], curSeq := 0 }

/-- RETIRE there reports the fault of the join block to the hypervisor. -/
theorem retire_unmapped_reports :
    (match exec .retire unmappedState with | .next t => t.hvq.length | _ => 0) = 1 := by
  decide

/-- Refutes O21: where stage 2 does not map the join block of the period that retires, the fault's record is also the hypervisor's (R407), so that the
hypervisor's queue changes, which the statement leaves as it was. -/
theorem not_retireAndYield : ¬ Obligations.RetireAndYield := by
  unfold Obligations.RetireAndYield
  intro h
  obtain ⟨-, -, hends⟩ := h unmappedState unmappedRegion unmappedCont ⟨0, false⟩ rfl rfl
    ⟨rfl, rfl, by decide, by decide⟩ rfl
  obtain ⟨⟨t, ht, ⟨-, -, -, hkeeps⟩, -⟩, -⟩ := hends rfl rfl rfl rfl (by decide)
  have hone := retire_unmapped_reports
  have hnone : t.hvq = [] := by rw [hkeeps]; rfl
  rw [ht] at hone
  dsimp only at hone
  rw [hnone] at hone
  exact absurd hone (by decide)

end Sys2Proof.Machine
end

section
/-! PROOF. Queues created and destroyed, and partition descriptors put in force (R136-R139). -/

namespace Sys2Proof.Machine

open Sys2Proof.Config

/-! ### vdqctl -/

/-- A write of vdqctl for a partition in force: what the queue's creation or destruction answers is what the hart reads back. -/
theorem State.queueCtl_ok {s t : State} {h : Nat} {v u : Dword} {f : State → Nat → Nat → Dword × State} (hw : (s.hart h).wait = none)
    (ho : s.hartOut h = false) (hl : 1 ≤ (s.hart h).mode.level) (ha : (s.part (s.hart h).actPart).active = true)
    (hf : f s (s.hart h).actPart (bits v 5 0) = (u, t)) (ht : t.harts = s.harts) :
    s.queueCtl h v f = t.setHart h { s.hart h with vdqctl := u, pc := (s.hart h).pc + 4 } := by
  have hh : t.hart h = s.hart h := by rw [State.hart, ht, State.hart]
  unfold State.queueCtl
  rw [State.csrGate_ok hw ho _ (by decide : csrLeast nVDQCTL true = some 1) hl]
  dsimp only
  rw [if_pos ha, hf, State.csrSet_advance, hh]
  rfl

/-- The highest acceptance number among the launches of a queue's number: 0 where there is none. -/
theorem Partition.le_lastAcc {P : Partition} {q : Nat} {l : Launch} (hl : l ∈ P.launches) (hq : l.q = q) : l.accNo ≤ P.lastAcc q := by
  have bound : ∀ (L : List Launch) (n : Nat), n ≤ L.foldl (fun n l => max n l.accNo) n ∧ ∀ l ∈ L, l.accNo ≤ L.foldl (fun n l => max n l.accNo) n := by
    intro L
    induction L with
    | nil => simp
    | cons a L ih =>
      intro n
      obtain ⟨h0, h1⟩ := ih (max n a.accNo)
      rw [List.foldl_cons]
      refine ⟨by omega, fun m hm => ?_⟩
      obtain rfl | hm := List.mem_cons.mp hm
      · omega
      · exact h1 m hm
  exact (bound _ 0).2 l (List.mem_filter.mpr ⟨hl, by simp [hq]⟩)

theorem Partition.lastAcc_none {P : Partition} {q : Nat} (h : ∀ l ∈ P.launches, l.q ≠ q) : P.lastAcc q = 0 := by
  rw [Partition.lastAcc, List.filter_eq_nil_iff.mpr fun l hl => by simpa using h l hl]
  rfl

/-- The queue that an entry of the queue table describes (R139). -/
def Partition.newQueue (P : Partition) (q : Nat) (e : List Byte) : Queue :=
  { asid := fieldAt e 4 2, s1root := fieldAt e 8 8, share := fieldAt e 16 4, log2n := (List.range 4).map (qeLog e)
    ring := (List.range 4).map (qeRing e), recs := [[], [], [], []], age := 0, accNo := P.lastAcc q, rsv := [] }

section
variable {s : State} {p q : Nat}

theorem State.createQueue_used {Q : Queue} (hQ : (s.part p).queues.find q = some Q) : s.createQueue p q = (errWord eBUSY, s) := by
  unfold State.createQueue
  dsimp only
  rw [hQ]
  rfl

section
variable {d : Desc} (hd : (s.part p).desc = some d) (hQ : (s.part p).queues.find q = none)
include hd hQ

theorem State.createQueue_bad (he : s.queueEntryOk p (s.gread p (d.qtab + 128 * q) 128) = false) :
    s.createQueue p q = (errWord eBADARG, s) := by
  unfold State.createQueue
  dsimp only
  rw [hQ, hd]
  simp [he]

section
variable (he : s.queueEntryOk p (s.gread p (d.qtab + 128 * q) 128) = true)
include he

theorem State.createQueue_over
    (hs : (s.part p).quota 3 < ((s.part p).queues.map (fun y => y.2.share)).sum + fieldAt (s.gread p (d.qtab + 128 * q) 128) 16 4) :
    s.createQueue p q = (errWord eQUOTA, s) := by
  unfold State.createQueue
  dsimp only
  rw [hQ, hd]
  simp [he, hs]

theorem State.createQueue_makes
    (hs : ((s.part p).queues.map (fun y => y.2.share)).sum + fieldAt (s.gread p (d.qtab + 128 * q) 128) 16 4 ≤ (s.part p).quota 3) :
    s.createQueue p q = (w ((s.part p).handle tblQueue (q + 1)),
      s.setPart p { s.part p with queues := (s.part p).queues.put q ((s.part p).newQueue q (s.gread p (d.qtab + 128 * q) 128)) }) := by
  unfold State.createQueue
  dsimp only
  rw [hQ, hd]
  simp [he, Nat.not_lt.mpr hs, State.modPart, Partition.newQueue, hd]

end

end

section
variable {Q : Queue} (hQ : (s.part p).queues.find q = some Q)
include hQ

theorem State.destroyQueue_busy (hb : s.queueBusy p q = true) : s.destroyQueue p q = (errWord eBUSY, s) := by
  simp [State.destroyQueue, hQ, hb]

theorem State.destroyQueue_idle (hb : s.queueBusy p q = false) :
    s.destroyQueue p q = (0, s.setPart p ((s.part p).bump tblQueue (q + 1))) := by
  simp [State.destroyQueue, hQ, hb, State.modPart]

end

end

/-! ### vdpupd -/

section
variable {s : State} {v : Dword}

theorem State.updateDesc_bad {o : Nat} {ok : Bool}
    (hc : (s.descChecks (bits v 3 0) (s.mem.read (s.vdtab + 1024 * bits v 3 0) 1024)).find? (fun y => !y.2) = some (o, ok)) :
    s.updateDesc v = { s with updBad := true, updOffset := o, updPart := bits v 3 0 } := by
  unfold State.updateDesc
  dsimp only
  rw [hc]

/-- A first descriptor that is sound is put in force. -/
theorem State.updateDesc_first
    (hc : (s.descChecks (bits v 3 0) (s.mem.read (s.vdtab + 1024 * bits v 3 0) 1024)).find? (fun y => !y.2) = none)
    (hd : (s.part (bits v 3 0)).desc = none) : s.updateDesc v = { s.setPart (bits v 3 0) { s.part (bits v 3 0) with
      desc := some (descOf (s.mem.read (s.vdtab + 1024 * bits v 3 0) 1024)) } with updBad := false, updOffset := 0, updPart := bits v 3 0 } := by
  unfold State.updateDesc
  dsimp only
  rw [hc]
  dsimp only
  have he : (s.part (bits v 3 0)).enforce (descOf (s.mem.read (s.vdtab + 1024 * bits v 3 0) 1024)) =
      { s.part (bits v 3 0) with desc := some (descOf (s.mem.read (s.vdtab + 1024 * bits v 3 0) 1024)) } := by
    rw [Partition.enforce, hd]
  rw [State.modPart, ← he]
  rfl

/-- A write of vdpupd, and the hart past it. -/
theorem exec_partitionDescriptorUpdate {h : Nat} {t : State} (hw : (s.hart h).wait = none) (ho : s.hartOut h = false)
    (hl : 2 ≤ (s.hart h).mode.level) (hu : s.updateDesc v = t) (ht : t.harts = s.harts) :
    exec (.partitionDescriptorUpdate h v) s = .next (t.setHart h { s.hart h with pc := (s.hart h).pc + 4 }) := by
  have hh : t.hart h = s.hart h := by rw [State.hart, ht, State.hart]
  rw [exec_csr_ok hw ho (f := fun _ s => s.updateDesc v) rfl (by decide : csrLeast nVDPUPD true = some 2) hl, hu, State.modHart_eq, hh]
  rfl

end

/-- Settles O34: a queue's creation and destruction, and a descriptor's update, by the first check that each fails. -/
theorem queuesAndDescriptors : Obligations.QueuesAndDescriptors := by
  unfold Obligations.QueuesAndDescriptors
  intro s h v hw ho x p q gives
  refine ⟨fun hl ha => ⟨fun Q hQ => ?used, fun d hd hQ => ⟨fun he => ?bad, fun he hs => ?overQuota, fun he hs => ?makes⟩, fun Q hQ hb => ?busy,
    fun Q hQ hb => ?idle⟩, fun hl => ⟨fun o bad hc => ?refused, fun hc hd => ?first⟩⟩
  case used => exact congrArg _ (State.queueCtl_ok hw ho hl ha (State.createQueue_used hQ) rfl)
  case bad => exact congrArg _ (State.queueCtl_ok hw ho hl ha (State.createQueue_bad hd hQ he) rfl)
  case overQuota => exact congrArg _ (State.queueCtl_ok hw ho hl ha (State.createQueue_over hd hQ he hs) rfl)
  case makes =>
    exact ⟨_, rfl, rfl, rfl, rfl, rfl, fun hn => Partition.lastAcc_none hn, fun l hl hq => Partition.le_lastAcc hl hq, rfl, rfl,
      congrArg _ (State.queueCtl_ok hw ho hl ha (State.createQueue_makes hd hQ he hs) rfl)⟩
  case busy => exact congrArg _ (State.queueCtl_ok hw ho hl ha (State.destroyQueue_busy hQ hb) rfl)
  case idle => exact congrArg _ (State.queueCtl_ok hw ho hl ha (State.destroyQueue_idle hQ hb) rfl)
  case refused => exact exec_partitionDescriptorUpdate hw ho hl (State.updateDesc_bad hc) rfl
  case first => exact exec_partitionDescriptorUpdate hw ho hl (State.updateDesc_first hc hd) rfl

end Sys2Proof.Machine
end

section
/-! PROOF. The instructions on a region (R152, R153, R156-R159, R162). -/

namespace Sys2Proof.Machine

open Sys2Proof.Config

/-! ### Stale handles, and states that do not admit an instruction -/

theorem State.xErr_eq (s : State) (rd : Reg) (code : Nat) : s.xErr rd code = s.withResult rd (errWord code) := s.xResult_eq rd _

theorem State.xRegion_stale {s : State} {rd rs1 : Reg} (adr : Option Reg) (f : Hart → Nat → Region → State → State) (h : s.mayRun 1)
    (hr : s.rgOf s.me.actPart (bits (s.me.get rs1) 31 0) = none) : s.xRegion rd rs1 adr f = s.withResult rd (errWord eSTALE) := by
  rw [State.xRegion, State.xPart_ok rd _ _ h, hr]
  exact s.xErr_eq rd _

section
variable (s : State) (rd : Reg) {r : Region} {ok : List RgState} (f : State → State)

theorem State.xGate_ok (h : r.state ∈ ok) : s.xGate rd r ok f = f s := if_pos (by simpa using h)

theorem State.xGate_refused (h : r.state ∉ ok) : s.xGate rd r ok f = s.withResult rd (errWord
    (if r.state ∈ [RgState.installing, .draining, .freezing, .saving, .loading] then 7 else 0xA)) := by
  have hb : r.state.busy = true ↔ r.state ∈ [RgState.installing, .draining, .freezing, .saving, .loading] := by
    cases r.state <;> decide
  rw [State.xGate, if_neg (by simpa using h)]
  by_cases hs : r.state ∈ [RgState.installing, .draining, .freezing, .saving, .loading]
  · rw [if_pos (hb.mpr hs), if_pos hs]
    exact s.xErr_eq rd _
  · rw [if_neg (mt hb.mp hs), if_neg hs]
    exact s.xErr_eq rd _

end

/-! ### Drains, freezes and resumptions -/

theorem State.inject_regions (s : State) (rn : Nat) (r : Region) (a : Attach) (kind : BitVec 4) :
    s.inject rn r a kind = { s with ports := (s.inject rn r a kind).ports } := rfl

/-- A drain changes its region's state, and ports. -/
theorem State.drain_eq {s : State} {rn : Nat} {r : Region} (hr : s.region? rn = some r) :
    s.drain rn = { s.setRegion rn { r with state := .draining } with ports := (s.drain rn).ports } := by
  have inject (l : List Attach) (u : State) :
      l.foldl (fun s a => s.inject rn r a 4) u = { u with ports := (l.foldl (fun s a => s.inject rn r a 4) u).ports } := by
    induction l generalizing u with
    | nil => rfl
    | cons a l ih =>
      rw [List.foldl_cons, ih]
      rfl
  unfold State.drain
  rw [hr]
  dsimp only
  rw [inject, State.modRegion_eq hr]

/-- A freeze changes its region and the partition of it. -/
theorem State.freeze_only (s : State) (rn why : Nat) :
    s.freeze rn why = { s with regions := (s.freeze rn why).regions, parts := (s.freeze rn why).parts } := by
  unfold State.freeze
  split
  · rfl
  · split <;> rfl

/-- What goes on with a stream that was paused: the dies, the ports, and the device's choices. -/
def State.onlyStreams (s t : State) : Prop := t = { s with ports := t.ports, dies := t.dies, freeCtr := t.freeCtr }

theorem State.onlyStreams_trans {s t u : State} (h : s.onlyStreams t) (h' : t.onlyStreams u) : s.onlyStreams u := by
  unfold State.onlyStreams at h h' ⊢
  rw [h', h]

theorem State.onlyStreams_foldl {α : Type} {f : State → α → State} (hf : ∀ (s : State) a, s.onlyStreams (f s a)) (l : List α) (s : State) :
    s.onlyStreams (l.foldl f s) := by
  induction l generalizing s with
  | nil => rfl
  | cons a l ih => exact State.onlyStreams_trans (hf s a) (ih _)

theorem State.streamStack_onlyStreams (s : State) (x : Xlate) (b : List Byte) : s.onlyStreams (s.streamStack x b).2 := by
  unfold State.streamStack
  split
  · split <;> rfl
  · rfl

theorem State.startStream_onlyStreams {s t : State} {stack : Nat} {i : IStream} (h : s.startStream stack i = some t) : s.onlyStreams t := by
  unfold State.startStream at h
  dsimp only at h
  split at h
  · cases h
    rfl
  · split at h <;> cases h
    rfl

theorem State.restart_onlyStreams (s : State) (i : IStream) : s.onlyStreams (s.restart i) := by
  unfold State.restart
  split
  · rfl
  · dsimp only
    split
    · next h => exact State.onlyStreams_trans (s.streamStack_onlyStreams _ _) (State.startStream_onlyStreams h)
    · exact State.onlyStreams_trans (s.streamStack_onlyStreams _ _) rfl

theorem State.restream_onlyStreams (s : State) (k : Nat) : s.onlyStreams (s.restream k) :=
  State.onlyStreams_trans (t := s.modPort k fun p => { p with streams := [] }) rfl (State.onlyStreams_foldl State.restart_onlyStreams _ _)

/-- An element of a region that resumes. -/
def Tile.untrapped (t : Tile) : Tile := { t with trap := none, merged := false }

/-- The elements and ports of a region that resumes: no trap, no drain. -/
def State.untrapped (s : State) (rn : Nat) (r : Region) : State :=
  { s.modListed r Tile.untrapped with
    ports := s.ports.map (fun (x : Nat × Port) => if x.1 / 2048 == rn then (x.1, x.2.resumed) else x) }

theorem State.untrapped_tile (s : State) (rn : Nat) (r : Region) (n : Nat) :
    (s.untrapped rn r).tile n = if r.covers n then (s.tile n).untrapped else s.tile n :=
  State.modListed_tile_eq (f := Tile.untrapped) rfl s r n

/-- A region that resumes. -/
def Region.goesOn (r : Region) : Region :=
  { r with
    state := .running, why := 0, frzWhy := 0, saved := false
    seq := { r.seq with trapped := none, stopNext := false, acqWait := none } }

/-- The ACQNs that wait in a region rest on the elements it lists and their operations. -/
theorem State.waitingAcqns_congr {s t : State} {r q : Region} (hl : t.listed q = s.listed r) (ho : ∀ n, (t.tile n).ops = (s.tile n).ops) :
    t.waitingAcqns q = s.waitingAcqns r := by
  unfold State.waitingAcqns
  rw [hl]
  simp only [ho]

theorem State.untrapped_waitingAcqns (s : State) (rn : Nat) (r : Region) :
    ((s.untrapped rn r).setRegion rn r.goesOn).waitingAcqns r.goesOn = s.waitingAcqns r := by
  refine State.waitingAcqns_congr ?_ fun n => ?_
  · show ((s.tiles.map fun x : Nat × Tile => if r.covers x.1 then (x.1, x.2.untrapped) else x).map (·.1)).filter r.covers = _
    rw [List.map_map, State.listed]
    congr 1
    refine List.map_congr_left fun x _ => ?_
    dsimp only [Function.comp]
    split <;> rfl
  · show ((s.untrapped rn r).tile n).ops = _
    rw [State.untrapped_tile]
    split <;> rfl

/-- A region with no ACQN that waits resumes: its elements, itself, and what its streams and its pod channels need. -/
theorem State.resume_ok {s : State} {rn : Nat} {r : Region} (hr : s.region? rn = some r) (ha : s.waitingAcqns r = []) :
    ∃ u : State, ((s.untrapped rn r).setRegion rn r.goesOn).onlyStreams u ∧ u.onlyLinks (s.resume rn) := by
  have hu : (s.untrapped rn r).modRegion rn Region.goesOn = (s.untrapped rn r).setRegion rn r.goesOn :=
    State.modRegion_eq (s := s.untrapped rn r) hr _
  have hq : ((s.untrapped rn r).setRegion rn r.goesOn).reAcqns rn = (s.untrapped rn r).setRegion rn r.goesOn := by
    rw [State.reAcqns, State.region?_setRegion_same]
    dsimp only
    rw [State.untrapped_waitingAcqns, ha]
    rfl
  have he : s.resume rn = ((((((s.untrapped rn r).modRegion rn Region.goesOn).reAcqns rn).ports.filter (fun x => x.1 / 2048 == rn)).map (·.1)).foldl
      State.restream (((s.untrapped rn r).modRegion rn Region.goesOn).reAcqns rn)).readChannels rn := by
    unfold State.resume
    rw [hr]
    rfl
  rw [he, hu, hq]
  exact ⟨_, State.onlyStreams_foldl State.restream_onlyStreams _ _, State.readChannels_onlyLinks _ _⟩

/-! ### The instructions -/

section
variable {s : State} {rd rs1 : Reg} {rn : Nat} {r : Region} (hm : s.mayRun 1) (h : s.rgOf s.me.actPart (bits (s.me.get rs1) 31 0) = some (rn, r))
include hm h

theorem exec_rgStat : exec (.rgStat rd rs1) s = .next (s.withResult rd (s.rgStat rn r)) := by
  show execRgStat rd rs1 s = _
  rw [execRgStat, State.xRegion_ok _ _ hm h, State.xResult_eq]

theorem exec_rgSnuff : exec (.rgSnuff rd rs1) s = .next (s.xGate rd r [.idle, .running] fun s =>
    if r.state == .idle then (s.modRegion rn fun g => { g with state := .ready, attach := none }).xResult rd 0 else (s.drain rn).xResult rd 0) := by
  show execRgSnuff rd rs1 s = _
  rw [execRgSnuff, State.xRegion_ok _ _ hm h]

theorem exec_rgFreeze : exec (.rgFreeze rd rs1) s =
    .next (s.xGate rd r [.running, .draining] fun s => (s.freeze rn 2).xResult rd 0) := by
  show execRgFreeze rd rs1 s = _
  rw [execRgFreeze, State.xRegion_ok _ _ hm h]

theorem exec_rgFree : exec (.rgFree rd rs1) s =
    .next (s.xGate rd r [.claimed, .ready, .idle, .stopped] fun s => ((s.settle rn r).freeRegion rn).xResult rd 0) := by
  show execRgFree rd rs1 s = _
  rw [execRgFree, State.xRegion_ok _ _ hm h]

theorem exec_rgKill : exec (.rgKill rd rs1) s = .next ((s.kill rn r.killStatus).withResult rd 0) := by
  show execRgKill rd rs1 s = _
  rw [execRgKill, State.xRegion_ok _ _ hm h, State.xResult_eq]

section
variable {rs2 : Reg}

theorem exec_rgSave_misaligned (hb : (s.me.get rs2).toNat % 64 ≠ 0) : exec (.rgSave rd rs1 rs2) s = .next (s.withResult rd (errWord eBADARG)) := by
  show execRgSave rd rs1 rs2 s = _
  rw [execRgSave, State.xRegion_ok _ _ hm h]
  dsimp only
  rw [if_pos hb, State.xErr_eq]

theorem exec_rgLoad_misaligned (hb : (s.me.get rs2).toNat % 64 ≠ 0) : exec (.rgLoad rd rs1 rs2) s = .next (s.withResult rd (errWord eBADARG)) := by
  show execRgLoad rd rs1 rs2 s = _
  rw [execRgLoad, State.xRegion_ok _ _ hm h]
  dsimp only
  rw [if_pos hb, State.xErr_eq]

theorem exec_rgSave (hb : (s.me.get rs2).toNat % 64 = 0) (hs : r.state = .stopped) : exec (.rgSave rd rs1 rs2) s =
    .next ((s.setRegion rn { r with state := .saving, async := some (.save (s.me.get rs2) s.me.xlate) }).withResult rd 0) := by
  show execRgSave rd rs1 rs2 s = _
  rw [execRgSave, State.xRegion_ok _ _ hm h]
  dsimp only
  rw [if_neg (not_not.mpr hb), State.xGate_ok _ _ _ (by simp [hs]), State.modRegion_eq (State.region?_of_rgOf h), State.xResult_eq]

theorem exec_rgLoad (hb : (s.me.get rs2).toNat % 64 = 0) (hs : r.state ∈ [RgState.claimed, .ready]) : exec (.rgLoad rd rs1 rs2) s =
    .next ((s.setRegion rn { r with state := .loading, async := some (.load (s.me.get rs2) s.me.xlate) }).withResult rd 0) := by
  show execRgLoad rd rs1 rs2 s = _
  rw [execRgLoad, State.xRegion_ok _ _ hm h]
  dsimp only
  rw [if_neg (not_not.mpr hb), State.xGate_ok _ _ _ hs, State.modRegion_eq (State.region?_of_rgOf h), State.xResult_eq]

/-- rg.cfg of a descriptor that can be read. -/
theorem exec_rgCfg {d : List Byte} (hb : (s.me.get rs2).toNat % 8 = 0) (hd : vread s.mem s.me.xlate (s.me.get rs2).toNat 32 = .ok d) :
    exec (.rgCfg rd rs1 rs2) s = .next (if cfgDescOk d then s.xGate rd r [.claimed, .ready] fun s =>
      (s.modRegion rn fun g => { g with
        state := .installing
        inst := some (newInstall (r.state == .claimed) false (w (fieldAt d 0 8)) (fieldAt d 8 4) s.me.xlate (w (fieldAt d 16 8)) 0 0) }).xResult rd 0
      else s.xErr rd eBADARG) := by
  show execRgCfg rd rs1 rs2 s = _
  rw [execRgCfg, State.xRegion_ok _ _ hm h, State.xBlock_ok _ _ hb hd]
  cases cfgDescOk d <;> rfl

section
variable (hz : bits (s.me.get rs2) 63 56 = 0)
include hz

theorem exec_rgStart_recordWaits (hs : r.state = .stopped) (hw : s.recordWaits r = true) :
    exec (.rgStart rd rs1 rs2) s = .next (s.withResult rd (errWord eBUSY)) := by
  show execRgStart rd rs1 rs2 s = _
  rw [execRgStart, State.xRegion_ok _ _ hm h]
  dsimp only
  rw [if_neg (not_not.mpr hz), State.xGate_ok _ _ _ (by simp [hs]), if_pos (by simp [hs, hw]), State.xErr_eq]

theorem exec_rgStart_attaches (hs : r.state = .ready) (hb : s.me.get rs2 ≠ 0)
    (hq : (s.part r.part).current tblQueue (bits (s.me.get rs2) 31 0) = true) (hc : s.classFits r (bits (s.me.get rs2) 55 32) = true) :
    exec (.rgStart rd rs1 rs2) s = .next (((s.setRegion rn { r with
      state := .idle, attach := some (w (bits (s.me.get rs2) 31 0), bits (s.me.get rs2) 55 32) }).readChannels rn).withResult rd 0) := by
  show execRgStart rd rs1 rs2 s = _
  rw [execRgStart, State.xRegion_ok _ _ hm h]
  dsimp only
  rw [if_neg (not_not.mpr hz), State.xGate_ok _ _ _ (by simp [hs]), if_neg (by simp [hs]), if_neg (by simp [hq]), if_neg (by simp [hc]),
    if_pos (by simp [hs]), if_neg hb, if_neg hb, State.modRegion_eq (State.region?_of_rgOf h), State.xResult_eq]

end

section
variable (hb : s.me.get rs2 = 0)
include hb

theorem exec_rgStart_noQueue (hs : r.state = .ready) : exec (.rgStart rd rs1 rs2) s = .next (s.withResult rd (errWord eBADARG)) := by
  show execRgStart rd rs1 rs2 s = _
  rw [execRgStart, State.xRegion_ok _ _ hm h]
  dsimp only
  rw [hb, if_neg (by decide), State.xGate_ok _ _ _ (by simp [hs]), if_neg (by simp [hs]), if_neg (by simp), if_neg (by simp),
    if_pos (by simp [hs]), if_pos rfl, State.xErr_eq]

section
variable (hs : r.state = .stopped) (hw : s.recordWaits r = false)
include hs hw

theorem exec_rgStart_lost (hy : r.why = 4) : exec (.rgStart rd rs1 rs2) s = .next (s.withResult rd (errWord eBADSTATE)) := by
  show execRgStart rd rs1 rs2 s = _
  rw [execRgStart, State.xRegion_ok _ _ hm h]
  dsimp only
  rw [hb, if_neg (by decide), State.xGate_ok _ _ _ (by simp [hs]), if_neg (by simp [hw]), if_neg (by simp), if_neg (by simp),
    if_neg (by simp [hs]), if_pos (by simp [hy]), State.xErr_eq]

theorem exec_rgStart_resumes (hy : r.why ≠ 4) : exec (.rgStart rd rs1 rs2) s =
    .next (((s.setRegion rn { r with attach := none }).resume rn).withResult rd 0) := by
  show execRgStart rd rs1 rs2 s = _
  rw [execRgStart, State.xRegion_ok _ _ hm h]
  dsimp only
  rw [hb, if_neg (by decide), State.xGate_ok _ _ _ (by simp [hs]), if_neg (by simp [hw]), if_neg (by simp), if_neg (by simp),
    if_neg (by simp [hs]), if_neg (by simp [hy]), if_pos rfl, State.modRegion_eq (State.region?_of_rgOf h), State.xResult_eq]

end

end

end

end

/-- A field of 8 bytes as a word. -/
theorem toNat_fieldAt (bs : List Byte) (o : Nat) : (w (fieldAt bs o 8) : Dword).toNat = fieldAt bs o 8 := by
  have hl := leNat_lt ((bs.drop o).take 8)
  have hp : 2 ^ (8 * ((bs.drop o).take 8).length) ≤ 2 ^ 64 := Nat.pow_le_pow_right (by decide) (by simp only [List.length_take]; omega)
  rw [w, BitVec.toNat_ofNat]
  exact Nat.mod_eq_of_lt (Nat.lt_of_lt_of_le hl hp)

/-- The word of rg.stat by its fields. -/
theorem State.rgStat_eq (s : State) (rn : Nat) (r : Region) : s.rgStat rn r = BitVec.ofNat 64 (r.version.toNat * 2 ^ 40 + r.incarn.toNat * 2 ^ 24 +
    r.lasterr.toNat * 2 ^ 16 + (if r.state = .stopped then r.why else 0) * 2 ^ 8 + (if s.portHeld rn r then 2 ^ 4 else 0) + r.state.code) := by
  have hp : b2n (s.portHeld rn r) * 2 ^ 4 = if s.portHeld rn r then 2 ^ 4 else 0 := by cases s.portHeld rn r <;> rfl
  rw [State.rgStat, hp]
  simp only [beq_iff_eq]
  rfl

/-- Settles O28: a stale handle, a state that does not admit the instruction, and each instruction on a region that admits it. -/
theorem regionControl : Obligations.RegionControl := by
  unfold Obligations.RegionControl
  intro s rd rs1 rs2 hm
  refine ⟨fun h i hi => ?stale, fun rn r h => ?known⟩
  case stale =>
    simp only [List.mem_cons, List.not_mem_nil, or_false] at hi
    obtain rfl | rfl | rfl | rfl | rfl | rfl | rfl | rfl | rfl | rfl := hi <;> exact congrArg _ (State.xRegion_stale _ _ hm h)
  case known =>
    have hr := State.region?_of_rgOf h
    refine ⟨fun i ok hi hs => ?gate, ?stat, fun hs => ?detach, fun hs => ?drain, fun ha => ?freeze, fun hb => ⟨exec_rgSave_misaligned hm h hb,
      exec_rgLoad_misaligned hm h hb⟩, fun hb hs => exec_rgSave hm h hb hs, fun hb hs => exec_rgLoad hm h hb hs, fun d hb hd => ⟨fun hc => ?cfgBad,
      fun hc hs => ?cfg⟩, fun hs hz hw => exec_rgStart_recordWaits hm h hz hs hw, fun hs hz hb hq hc => ?attach, fun hs hb =>
      exec_rgStart_noQueue hm h hb hs, fun hs hw hb hy => exec_rgStart_lost hm h hb hs hw hy, fun hs hw hb hy ha => ?resume⟩
    case gate =>
      simp only [List.mem_cons, List.not_mem_nil, or_false, Prod.mk.injEq] at hi
      obtain ⟨rfl, rfl⟩ | ⟨rfl, rfl⟩ | ⟨rfl, rfl⟩ := hi
      · rw [exec_rgSnuff hm h, State.xGate_refused _ _ _ hs]
      · rw [exec_rgFreeze hm h, State.xGate_refused _ _ _ hs]
      · rw [exec_rgFree hm h, State.xGate_refused _ _ _ hs]
    case stat => rw [exec_rgStat hm h, State.rgStat_eq]
    case detach =>
      rw [exec_rgSnuff hm h, State.xGate_ok _ _ _ (by simp [hs]), if_pos (by simp [hs]), State.modRegion_eq hr, State.xResult_eq]
    case drain =>
      refine ⟨s.drain rn, ?_, ?_, ?_⟩
      · rw [exec_rgSnuff hm h, State.xGate_ok _ _ _ (by simp [hs]), if_neg (by simp [hs]), State.xResult_eq]
      · rw [State.drain_eq hr]
        exact State.region?_setRegion_same s rn _
      · rw [State.drain_eq hr]
        rfl
    case freeze =>
      have hs : r.state ∈ [RgState.running, .draining] := by simpa [Region.active] using ha
      obtain ⟨hsame, hother, -, -, -⟩ := State.freeze_active 2 hr ha
      refine ⟨s.freeze rn 2, ?_, hsame, hother, ?_⟩
      · rw [exec_rgFreeze hm h, State.xGate_ok _ _ _ hs, State.xResult_eq]
      · rw [State.freeze_only]
    case cfgBad =>
      rw [exec_rgCfg hm h hb hd, if_neg (by simp [hc]), State.xErr_eq]
      rfl
    case cfg =>
      refine ⟨newInstall (r.state == .claimed) false (w (fieldAt d 0 8)) (fieldAt d 8 4) s.me.xlate (w (fieldAt d 16 8)) 0 0, toNat_fieldAt d 0, rfl,
        toNat_fieldAt d 16, ?_, rfl, rfl, rfl, ?_⟩
      · cases r.state <;> rfl
      · rw [exec_rgCfg hm h hb hd, if_pos hc, State.xGate_ok _ _ _ hs, State.modRegion_eq hr, State.xResult_eq]
    case attach =>
      have hl := State.readChannels_onlyLinks (s.setRegion rn { r with
        state := .idle, attach := some (w (bits (s.me.get rs2) 31 0), bits (s.me.get rs2) 55 32) }) rn
      refine ⟨_, exec_rgStart_attaches hm h hz hs hb hq hc, ?_, ?_⟩
      · rw [hl]
        exact State.region?_setRegion_same s rn _
      · rw [hl]
        rfl
    case resume =>
      set q : Region := { r with attach := none } with hq
      set y := s.setRegion rn q with hy'
      obtain ⟨u, hu, hl⟩ := State.resume_ok (s := y) (State.region?_setRegion_same s rn q) ha
      have hregions : (y.resume rn).regions = ((y.untrapped rn q).setRegion rn q.goesOn).regions := by rw [hl, hu]
      have hregion (n : Nat) : (y.resume rn).region? n = ((y.untrapped rn q).setRegion rn q.goesOn).region? n := by
        rw [State.region?, hregions, State.region?]
      have htiles : (y.resume rn).tiles = (y.untrapped rn q).tiles := by rw [hl, hu]; rfl
      refine ⟨y.resume rn, exec_rgStart_resumes hm h hb hs hw hy, ?_, fun n hn => ?_, ?_, fun n hn => ?_⟩
      · rw [hregion, State.region?_setRegion_same]
        rfl
      · rw [State.tile, htiles]
        exact (y.untrapped_tile rn q n).trans (if_pos hn)
      · rw [State.resume_mem]
        rfl
      · rw [hregion, State.region?_setRegion_other _ _ hn]
        exact State.region?_setRegion_other s q hn

end Sys2Proof.Machine
end

section
/-! PROOF. Launches dispatched by lan.dispatch and SPAWN (R121, R122, R148, R222). -/

namespace Sys2Proof.Machine

open Sys2Proof.Config

/-! ### The launches accepted before -/

/-- Two states that agree but for the work and have one descriptor of a partition in force. -/
def State.onlyWorkOf (s : State) (p : Nat) (t : State) : Prop := s.onlyWork t ∧ (t.part p).desc = (s.part p).desc

theorem State.onlyWorkOf_trans {s t u : State} {p : Nat} (h : s.onlyWorkOf p t) (h' : t.onlyWorkOf p u) : s.onlyWorkOf p u :=
  ⟨State.onlyWork_trans h.1 h'.1, h'.2.trans h.2⟩

theorem State.modLaunch_onlyWorkOf (s : State) (p q no : Nat) (f : Launch → Launch) : s.onlyWorkOf p (s.modLaunch p q no f) :=
  ⟨rfl, by rw [State.modLaunch_part]⟩

theorem State.expand_onlyWorkOf (s : State) (p q prio cls : Nat) (b : List Byte) (us : List Nat) :
    s.onlyWorkOf p (s.expand p q prio cls b us) :=
  ⟨s.expand_only _ _ _ _ _ _, by rw [State.expand_part]⟩

theorem State.allocFrames_onlyWorkOf {s t : State} {p k : Nat} {us : List Nat} (h : s.allocFrames p k = some (us, t)) : s.onlyWorkOf p t := by
  unfold State.allocFrames at h
  dsimp only at h
  split at h
  · cases h
    exact ⟨rfl, by rw [State.modPart, State.part_setPart_same]; rfl⟩
  · cases h

theorem State.expandNext_onlyWorkOf (s : State) (p q : Nat) : s.onlyWorkOf p (s.expandNext p q) := by
  have kept : s.onlyWorkOf p s := ⟨s.onlyWork_refl, rfl⟩
  unfold State.expandNext
  split
  · exact kept
  · split
    · exact s.modLaunch_onlyWorkOf _ _ _ _
    · dsimp only
      split
      · exact kept
      · split
        · exact kept
        · next h =>
          exact State.onlyWorkOf_trans (State.onlyWorkOf_trans (State.allocFrames_onlyWorkOf h) (State.modLaunch_onlyWorkOf _ _ _ _ _))
            (State.expand_onlyWorkOf _ _ _ _ _ _ _)

theorem State.expandAll_onlyWorkOf (n : Nat) (s : State) (p q : Nat) : s.onlyWorkOf p (State.expandAll n s p q) := by
  induction n generalizing s with
  | zero => exact ⟨s.onlyWork_refl, rfl⟩
  | succ n ih =>
    unfold State.expandAll
    split
    · exact ⟨s.onlyWork_refl, rfl⟩
    · exact State.onlyWorkOf_trans (s.expandNext_onlyWorkOf p q) (ih _)

theorem State.expandEarlier_onlyWorkOf (s : State) (p q : Nat) : s.onlyWorkOf p (s.expandEarlier p q) := State.expandAll_onlyWorkOf _ s p q

theorem State.expandEarlier_none {s : State} {p q : Nat} (h : s.unexpanded p q = none) : s.expandEarlier p q = s := by
  unfold State.expandEarlier
  cases (s.part p).launches.length with
  | zero => rfl
  | succ n => rw [State.expandAll, h]; rfl

/-! ### The queue and the memory after an expansion -/

/-- A record's level is PRIO's, which a checked launch record has below 4. -/
theorem rootRec_prio {b : List Byte} {cls prio : Nat} (h : prio ≤ 3) (frame join k : Nat) : (rootRec b cls prio frame join k).prio = prio := by
  simp only [rootRec, Cont.tagged_prio]
  simp only [Cont.prio, bits, nbits, w, BitVec.toNat_ofNat]
  omega

theorem lrOk_prio {b : List Byte} (h : lrOk b true = true) : fieldAt b 4 1 ≤ 3 := by
  unfold lrOk at h
  simp only [Bool.and_eq_true, Bool.not_true, Bool.false_or, decide_eq_true_eq] at h
  tauto

/-- A launch record that passes the checks has PRIO below 4. -/
theorem State.launchCheck_prio {s : State} {p cls : Nat} {b : List Byte} (h : s.launchCheck p b true = .ok cls) : fieldAt b 4 1 ≤ 3 := by
  refine lrOk_prio ?_
  by_contra hn
  rw [State.launchCheck, if_pos (by simpa using hn)] at h
  cases h

theorem State.expand_queue {s : State} {p q : Nat} {Q : Queue} (hQ : (s.part p).queues.find q = some Q) {prio : Nat} (hp : prio ≤ 3) (cls : Nat)
    (b : List Byte) (us : List Nat) : ((s.expand p q prio cls b us).part p).queues.find q = some { Q with
      recs := Q.recs.set prio ((Q.recs[prio]?).getD [] ++ (List.range (lrInstances b)).map fun k =>
        { cont := rootRec b cls prio ((s.part p).frameVa (nth us (k + 1) 0)) ((s.part p).frameVa (us.headD 0)) k
          rsv := false, period := none, trim := none }) } := by
  have hg : ((s.gwrite p ((s.part p).frameGa (us.headD 0)) (launchBlock (lrInstances b) q)).part p).queues.find q = some Q := by
    rw [State.onlyMem_part (s.gwrite_onlyMem _ _ _), hQ]
  rw [State.expand_eq, State.expandOnes_queue _ _ _ _ hg, Queue.foldl_add (prio := prio)]
  exact fun k _ => rootRec_prio hp _ _ _

/-- What writes of a partition's own structures make of memory rests on memory and the descriptor. -/
theorem State.foldl_gwrite_mem_congr (p : Nat) (at_ : Nat → Nat) (bs : Nat → List Byte) (l : List Nat) {s t : State} (hm : t.mem = s.mem)
    (hd : (t.part p).desc = (s.part p).desc) :
    (l.foldl (fun u k => u.gwrite p (at_ k) (bs k)) t).mem = (l.foldl (fun u k => u.gwrite p (at_ k) (bs k)) s).mem := by
  induction l generalizing s t with
  | nil => exact hm
  | cons k l ih =>
    refine ih (State.gwrite_mem_congr hm hd _ _) ?_
    rw [State.onlyMem_part (t.gwrite_onlyMem _ _ _), State.onlyMem_part (s.gwrite_onlyMem _ _ _), hd]

theorem State.expand_mem (s : State) (p q prio cls : Nat) (b : List Byte) (us : List Nat) : (s.expand p q prio cls b us).mem =
    ((List.range (lrInstances b)).foldl (fun u k => u.gwrite p ((s.part p).frameGa (nth us (k + 1) 0)) (frameBytes b k))
      (s.gwrite p ((s.part p).frameGa (us.headD 0)) (launchBlock (lrInstances b) q))).mem := by
  rw [State.expand_eq, State.expandOnes_mem]

/-! ### A launch dispatched -/

section
variable {s : State} {p iidx : Nat} {x : Xlate} {b blk : List Byte}

theorem State.dispatch_badArg (hk : State.dispatchOk blk = false) : s.dispatch p x b blk iidx = .ok (errWord eBADARG, s) := by
  simp [State.dispatch, hk]

section
variable (hk : State.dispatchOk blk = true)
include hk

theorem State.dispatch_stale (hc : (s.part p).current tblQueue (fieldAt blk 0 4) = false) :
    s.dispatch p x b blk iidx = .ok (errWord eSTALE, s) := by
  simp [State.dispatch, hk, hc]

section
variable (hc : (s.part p).current tblQueue (fieldAt blk 0 4) = true)
include hc

/-- A launch that fails a check is refused with the code of its completion status. -/
theorem State.dispatch_unchecked {e : Nat} (he : s.launchCheck p b true = .error e) : s.dispatch p x b blk iidx =
    .ok (errWord (if e = stBADREC then eBADREC else if e = stSTALE then eSTALE else if e = stNOSHAPE then eNOSHAPE else eQUOTA), s) := by
  simp [State.dispatch, hk, hc, he]

end

end

/-- A launch that passes the checks of its block and its record, with the state in which those accepted before on its queue are expanded. -/
structure State.Dispatching (s : State) (p : Nat) (b blk : List Byte) (q cls : Nat) (y : State) : Prop where
  block : State.dispatchOk blk = true
  handle : (s.part p).current tblQueue (fieldAt blk 0 4) = true
  check : s.launchCheck p b true = .ok cls
  slot : hSlot (fieldAt blk 0 4) - 1 = q
  earlier : s.expandEarlier p q = y

/-- Its entry among the accepted launches: expanded at once. -/
def dispatchedLaunch (q acc : Nat) (b : List Byte) (parent iidx jb : Nat) (us : List Nat) : Launch :=
  { q := q, accNo := acc, prio := fieldAt b 4 1, short := false, record := b
    act := if parent = 0 then .nothing else .parent (w parent) iidx
    expanded := true, join := w jb, units := us, status := none }

/-- A launch accepted by its queue under the next number, and journalled. -/
def State.launched (s : State) (p q : Nat) (l : Launch) (Q : Queue) : State :=
  { s.modPart p fun P => { P with launches := P.launches ++ [l], queues := P.queues.put q { Q with accNo := l.accNo } } with
    journal := s.journal ++ [JEntry.accept p q l.accNo [] l.record] }

section
variable {q cls : Nat} {y : State} (h : s.Dispatching p b blk q cls y)
include h

theorem State.dispatch_full
    (hf : y.unexpanded p q ≠ none ∨ (y.part p).room q (fieldAt b 4 1) (lrInstances b) (lrInstances b + 1) = false) :
    s.dispatch p x b blk iidx = .ok (errWord eQFULL, s) := by
  obtain ⟨hk, hc, hl, rfl, rfl⟩ := h
  simp only [State.dispatch, hk, hc, hl, Bool.not_true, Bool.false_eq_true, if_false]
  refine if_pos ?_
  obtain h | h := hf
  · simp [Option.isSome_iff_ne_none.mpr h]
  · simp [h]

section
variable (hu : y.unexpanded p q = none) (hm : (y.part p).room q (fieldAt b 4 1) (lrInstances b) (lrInstances b + 1) = true)
include hu hm

theorem State.dispatch_parentFull (hj : y.joinSpawn x (fieldAt blk 8 8) = .ok none) : s.dispatch p x b blk iidx = .ok (errWord eQFULL, s) := by
  obtain ⟨hk, hc, hl, rfl, rfl⟩ := h
  simp [State.dispatch, hk, hc, hl, hu, hm, hj]

/-- The launch is counted in its parent's block, takes its units, is accepted, and expands. -/
theorem State.dispatch_makes {z u : State} {us : List Nat} {Q : Queue} (hj : y.joinSpawn x (fieldAt blk 8 8) = .ok (some z))
    (ha : z.allocFrames p (lrInstances b + 1) = some (us, u)) (hQ : (y.part p).queues.find q = some Q) (hQ' : (u.part p).queues.find q = some Q) :
    s.dispatch p x b blk iidx = .ok (w (Q.accNo + 1),
      (u.launched p q (dispatchedLaunch q (Q.accNo + 1) b (fieldAt blk 8 8) iidx ((s.part p).frameVa (us.headD 0)) us) Q).expand
        p q (fieldAt b 4 1) cls b us) := by
  obtain ⟨hk, hc, hl, rfl, rfl⟩ := h
  simp [State.dispatch, hk, hc, hl, hu, hm, hj, ha, hQ, hQ', State.modPart, State.launched, dispatchedLaunch]

end

/-- What a dispatch leaves but for the work. -/
theorem State.earlier_onlyWorkOf : s.onlyWorkOf p y := h.earlier ▸ s.expandEarlier_onlyWorkOf p q

end

theorem State.dispatch_only {t : State} {v : Dword} (h : s.dispatch p x b blk iidx = .ok (v, t)) : s.onlyWork t := by
  unfold State.dispatch at h
  dsimp only at h
  split at h
  · cases h; exact s.onlyWork_refl
  · split at h
    · cases h; exact s.onlyWork_refl
    · split at h
      · cases h; exact s.onlyWork_refl
      · split at h
        · cases h; exact s.onlyWork_refl
        · split at h
          · cases h
          · cases h; exact s.onlyWork_refl
          · next hj =>
            split at h
            · cases h; exact s.onlyWork_refl
            · next ha =>
              cases h
              have hz := State.onlyWork_trans (s.expandEarlier_onlyWorkOf p _).1 (State.joinSpawn_only hj)
              refine State.onlyWork_trans (State.onlyWork_trans hz (State.allocFrames_onlyWorkOf ha).1) ?_
              refine State.onlyWork_trans ?_ (State.expand_only _ _ _ _ _ _ _)
              rfl

end

/-- What a dispatch that finds units makes of the state z that its parent's count left (R122, R148). -/
theorem State.dispatch_result {s y z : State} {p q cls iidx : Nat} {x : Xlate} {b blk : List Byte} {Q : Queue} (h : s.Dispatching p b blk q cls y)
    (hp : fieldAt b 4 1 ≤ 3) (hu : y.unexpanded p q = none)
    (hm : (y.part p).room q (fieldAt b 4 1) (lrInstances b) (lrInstances b + 1) = true) (hj : y.joinSpawn x (fieldAt blk 8 8) = .ok (some z))
    (hz : z.part p = y.part p) (hQ : (y.part p).queues.find q = some Q)
    (hf : (y.part p).frames.length + (lrInstances b + 1) ≤ (y.part p).frameUnits) :
    ∃ (t : State) (us : List Nat), s.dispatch p x b blk iidx = .ok (w (Q.accNo + 1), t) ∧
      us.length = lrInstances b + 1 ∧ (∀ u ∈ us, u ∉ (y.part p).frames) ∧ (t.part p).frames = (y.part p).frames ++ us ∧
      (t.part p).launches = (y.part p).launches ++
        [dispatchedLaunch q (Q.accNo + 1) b (fieldAt blk 8 8) iidx ((s.part p).frameVa (us.headD 0)) us] ∧
      (t.part p).queues.find q = some { Q with
        accNo := Q.accNo + 1
        recs := Q.recs.set (fieldAt b 4 1) ((Q.recs[fieldAt b 4 1]?).getD [] ++ (List.range (lrInstances b)).map fun k =>
          { cont := rootRec b cls (fieldAt b 4 1) ((s.part p).frameVa (nth us (k + 1) 0)) ((s.part p).frameVa (us.headD 0)) k
            rsv := false, period := none, trim := none }) } ∧
      t.mem = ((List.range (lrInstances b)).foldl (fun u k => u.gwrite p ((s.part p).frameGa (nth us (k + 1) 0)) (frameBytes b k))
        (z.gwrite p ((s.part p).frameGa (us.headD 0)) (launchBlock (lrInstances b) q))).mem ∧
      z.onlyWork t := by
  have hf' : (z.part p).frames.length + (lrInstances b + 1) ≤ (z.part p).frameUnits := by rw [hz]; exact hf
  obtain ⟨us, ha, hlen, hfree⟩ := State.allocFrames_ok hf'
  set u : State := { z with freeCtr := z.freeCtr + 1 }.modPart p fun P => { P with frames := P.frames ++ us } with hudef
  have hupart : u.part p = { y.part p with frames := (y.part p).frames ++ us } := by
    rw [← hz]
    exact State.part_setPart_same _ _ _
  have hQ' : (u.part p).queues.find q = some Q := by rw [hupart]; exact hQ
  set l := dispatchedLaunch q (Q.accNo + 1) b (fieldAt blk 8 8) iidx ((s.part p).frameVa (us.headD 0)) us with hldef
  set a := u.launched p q l Q with hadef
  have hapart : a.part p = { y.part p with
      frames := (y.part p).frames ++ us, launches := (y.part p).launches ++ [l]
      queues := (y.part p).queues.put q { Q with accNo := Q.accNo + 1 } } := by
    have : a.part p = { u.part p with
        launches := (u.part p).launches ++ [l], queues := (u.part p).queues.put q { Q with accNo := l.accNo } } :=
      State.part_setPart_same _ _ _
    rw [this, hupart]
    rfl
  have hQa : (a.part p).queues.find q = some { Q with accNo := Q.accNo + 1 } := by rw [hapart]; exact Tbl.find_put_same _ _ _
  have hdesc : (y.part p).desc = (s.part p).desc := (State.earlier_onlyWorkOf h).2
  have hadesc : (a.part p).desc = (s.part p).desc := by rw [hapart]; exact hdesc
  have hmem : ∀ ga bs, (a.gwrite p ga bs).mem = (z.gwrite p ga bs).mem := fun ga bs =>
    State.gwrite_mem_congr (s := z) (t := a) rfl (by rw [hadesc, hz, hdesc]) ga bs
  refine ⟨a.expand p q (fieldAt b 4 1) cls b us, us, State.dispatch_makes h hu hm hj ha hQ hQ', hlen, fun v hv => hz ▸ hfree v hv, ?_, ?_, ?_, ?_, ?_⟩
  · rw [State.expand_part, hapart]
  · rw [State.expand_part, hapart]
  · rw [State.expand_queue hQa hp]
    simp only [Partition.frameVa_desc hadesc]
  · rw [State.expand_mem]
    simp only [Partition.frameGa_desc hadesc]
    refine State.foldl_gwrite_mem_congr p _ _ _ (hmem _ _) ?_
    rw [State.onlyMem_part (a.gwrite_onlyMem _ _ _), State.onlyMem_part (z.gwrite_onlyMem _ _ _), hadesc, hz, hdesc]
  · refine State.onlyWork_trans ?_ (State.expand_only _ _ _ _ _ _ _)
    rfl

/-! ### lan.dispatch, and SPAWN of a launch -/

theorem exec_lanDispatch {s : State} {rd rs1 rs2 : Reg} {b blk : List Byte} (hm : s.mayRun 0) (h1 : (s.me.get rs1).toNat % 64 = 0)
    (h2 : (s.me.get rs2).toNat % 16 = 0) (hk : vread s.mem s.me.xlate (s.me.get rs2).toNat 16 = .ok blk)
    (hb : vread s.mem s.me.xlate (s.me.get rs1).toNat 256 = .ok b) : exec (.lanDispatch rd rs1 rs2) s =
    .next (s.xJoined rd (fieldAt blk 8 8) (s.dispatch s.me.actPart s.me.xlate b blk noInst)) := by
  show execLanDispatch rd rs1 rs2 s = _
  rw [execLanDispatch, State.xPart_ok rd _ _ hm, if_neg (by simp [h1, h2]), State.xBlock_ok rd _ h2 hk, State.xBlock_ok rd _ h1 hb]

/-- What a region reads does not rest on the granules noted. -/
theorem State.touch_rread (s : State) (rn va n k a m : Nat) : (s.touch rn va n).rread k a m = s.rread k a m := by
  rw [State.touch_only]
  rfl

theorem State.touch_isHeld (s : State) (rn va n p : Nat) (who : Holder) : (s.touch rn va n).isHeld p who = s.isHeld p who := by
  rw [State.touch_only]
  rfl

/-- SPAWN of a launch not replayed, whose block and record can be read. -/
theorem exec_spawnLaunch {s t : State} {r : Region} {d : Reg} {a b : Src} {rec_ blk : List Byte} {v : Dword} (hr : s.region? s.curSeq = some r)
    (hi : r.mayIssue [a, b] (some d)) (hj : s.journalled r.period r.pushIdx = none) (hacc : r.seq.acc = []) (hp : r.inPlace = false)
    (ha : (r.seq.get a.reg).toNat % 64 = 0) (hb : (r.seq.get b.reg).toNat % 16 = 0) (hva : bits (r.seq.get a.reg) 63 57 = 0)
    (hvb : bits (r.seq.get b.reg) 63 57 = 0) (hh : s.isHeld r.part (.seqAccess s.curSeq (2 ^ 20)) = false)
    (hk : s.rread s.curSeq (r.seq.get b.reg).toNat 16 = .ok blk) (hrec : s.rread s.curSeq (r.seq.get a.reg).toNat 256 = .ok rec_)
    (ht : ((s.touch s.curSeq (r.seq.get b.reg).toNat 16).touch s.curSeq (r.seq.get a.reg).toNat 256).dispatch r.part (s.rgXlate r) rec_ blk r.iidx =
      .ok (v, t)) :
    exec (.spawnLaunch d a b) s = .next { t.setRegion s.curSeq (r.pushed (r.seq.set d v)) with
      journal := (t.ownPushes s.journal.length r.period r.pushIdx).journal ++ [.result r.period r.pushIdx v] } := by
  set y := s.touch s.curSeq (r.seq.get b.reg).toNat 16 with hy
  have hc : y.curSeq = s.curSeq := s.touch_curSeq _ _ _
  have hr' : (y.touch s.curSeq (r.seq.get a.reg).toNat 256).region? s.curSeq = some r := by
    rw [State.touch_region, hy, State.touch_region]
    exact hr
  have hread : y.rread y.curSeq (r.seq.get a.reg).toNat 256 = .ok rec_ := by rw [hc, hy, State.touch_rread]; exact hrec
  have hheld : y.isHeld r.part (.seqAccess y.curSeq (2 ^ 20)) = false := by rw [hc, hy, State.touch_isHeld]; exact hh
  show execSpawnLaunch d a b s = _
  rw [execSpawnLaunch, State.issue_ok _ hr hi, Region.src, Region.src, State.seqPush_block hr d hj hacc hp hb hvb hh hk, ← hy,
    State.seqBlock_ok d _ ha hva hheld hread, hc, State.touch_rgXlate, hy, State.touch_rgXlate, ← hy, ht]
  have hs : (y.touch s.curSeq (r.seq.get a.reg).toNat 256).curSeq = s.curSeq := (y.touch_curSeq _ _ _).trans hc
  have hn : (y.touch s.curSeq (r.seq.get a.reg).toNat 256).journal = s.journal := (y.touch_journal _ _ _).trans (s.touch_journal _ _ _)
  rw [State.seqJoined_ok (by rw [hs]; exact hr') d (State.dispatch_only ht), hs, hn]

/-- Settles O19: a launch by the first check it fails; one that fails none by what its dispatch makes. -/
theorem launchesDispatched : Obligations.LaunchesDispatched := by
  unfold Obligations.LaunchesDispatched
  refine ⟨fun s p iidx x b blk => ⟨State.dispatch_badArg, State.dispatch_stale, fun e hk hc he => ?unchecked, fun cls hk hc hl => ?checked⟩,
    fun s t rd rs1 rs2 b blk v hm h1 h2 hk hb ht => ?hart,
    fun s t r d a b rec_ blk v hr hi hj hacc hp ha hb hva hvb hh hk hrec ht => exec_spawnLaunch hr hi hj hacc hp ha hb hva hvb hh hk hrec ht⟩
  case unchecked =>
    refine ⟨_, ?_, State.dispatch_unchecked hk hc he, fun h => ?_, fun h => ?_, fun h => ?_, fun h => ?_⟩
    · split
      · simp [eBADREC]
      · split
        · simp [eSTALE]
        · split <;> simp [eNOSHAPE, eQUOTA]
    all_goals
      subst h
      rfl
  case checked =>
    intro q n y
    have h : s.Dispatching p b blk q cls y := ⟨hk, hc, hl, rfl, rfl⟩
    refine ⟨State.expandEarlier_none, State.dispatch_full h, ?_⟩
    intro parent full
    refine ⟨fun pa fmt hf h0 ht hn => State.dispatch_parentFull h hf.1 hf.2 (State.joinSpawn_full h0 ht hn), fun Q z hf hQ hz0 hz1 hunits => ?_⟩
    have hprio : fieldAt b 4 1 ≤ 3 := State.launchCheck_prio hl
    have hz : y.joinSpawn x parent = .ok (some z) ∧ z.part p = y.part p := by
      by_cases h0 : parent = 0
      · rw [hz0 h0, h0]
        exact ⟨y.joinSpawn_none x, rfl⟩
      · obtain ⟨pa, fmt, ht, hn, rfl⟩ := hz1 h0
        exact ⟨State.joinSpawn_counts h0 ht hn, rfl⟩
    obtain ⟨t, us, hd, hlen, hfree, hframes, hlaunches, hqueue, hmem, honly⟩ :=
      State.dispatch_result (iidx := iidx) h hprio hf.1 hf.2 hz.1 hz.2 hQ hunits
    refine ⟨t, us, hd, hlen, hfree, hframes, ⟨hlaunches, ?_, ?_⟩, ?_⟩
    · exact hqueue
    · exact hmem
    · exact honly.trans rfl
  case hart =>
    rw [exec_lanDispatch hm h1 h2 hk hb]
    exact congrArg (fun o => Host.Outcome.next (s.xJoined rd (fieldAt blk 8 8) o)) ht |>.trans (congrArg _ (State.xJoined_ok s t rd _ v))

end Sys2Proof.Machine
end

section
/-! PROOF. What the end of a period leaves of the handles, the objects and the records of every partition (R131, R132, R224, R405, R407). -/

namespace Sys2Proof.Machine

open Sys2Proof.Config

/-! ### Handles, records and objects kept -/

/-- The generations of a partition's handles stay, and the records that wait for its fault ring. -/
structure Partition.KeepsHandles (P Q : Partition) : Prop where
  gens : Q.gens = P.gens
  fqWait : ∀ f ∈ P.fqWait, f ∈ Q.fqWait

/-- And its sync objects stay. -/
structure Partition.KeepsTables (P Q : Partition) : Prop extends P.KeepsHandles Q where
  sos : Q.sos = P.sos

theorem Partition.keepsHandles_refl (P : Partition) : P.KeepsHandles P := ⟨rfl, fun _ h => h⟩
theorem Partition.keepsTables_refl (P : Partition) : P.KeepsTables P := ⟨P.keepsHandles_refl, rfl⟩

theorem Partition.keepsHandles_trans {P Q R : Partition} (h : P.KeepsHandles Q) (h' : Q.KeepsHandles R) : P.KeepsHandles R :=
  ⟨h'.gens.trans h.gens, fun f hf => h'.fqWait f (h.fqWait f hf)⟩

/-- Every partition keeps its handles and its waiting records, and what is journalled stays journalled. -/
structure State.KeepsHandles (s t : State) : Prop where
  part : ∀ p, (s.part p).KeepsHandles (t.part p)
  journal : ∀ e ∈ s.journal, e ∈ t.journal

/-- What the retirement of work can change: every partition keeps its handles, its waiting records and its objects, and but for memory, the
partitions, the journal, the device's choices and the hypervisor's records nothing changes. -/
structure State.RetiresWork (s t : State) : Prop where
  part : ∀ p, (s.part p).KeepsTables (t.part p)
  journal : ∀ e ∈ s.journal, e ∈ t.journal
  only : t = { s with mem := t.mem, parts := t.parts, journal := t.journal, freeCtr := t.freeCtr, hvq := t.hvq }

section
variable {s t u : State}

theorem State.keepsHandles_refl (s : State) : s.KeepsHandles s := ⟨fun _ => Partition.keepsHandles_refl _, fun _ h => h⟩

theorem State.keepsHandles_trans (h : s.KeepsHandles t) (h' : t.KeepsHandles u) : s.KeepsHandles u :=
  ⟨fun p => Partition.keepsHandles_trans (h.part p) (h'.part p), fun e he => h'.journal e (h.journal e he)⟩

theorem State.RetiresWork.handles (h : s.RetiresWork t) : s.KeepsHandles t := ⟨fun p => (h.part p).toKeepsHandles, h.journal⟩

theorem State.retiresWork_refl (s : State) : s.RetiresWork s := ⟨fun _ => Partition.keepsTables_refl _, fun _ h => h, rfl⟩

theorem State.retiresWork_trans (h : s.RetiresWork t) (h' : t.RetiresWork u) : s.RetiresWork u := by
  refine ⟨fun p => ⟨Partition.keepsHandles_trans (h.part p).toKeepsHandles (h'.part p).toKeepsHandles, (h'.part p).sos.trans (h.part p).sos⟩,
    fun e he => h'.journal e (h.journal e he), ?_⟩
  rw [h'.only, h.only]

/-- A change of one partition that keeps its handles, its waiting records and its objects. -/
theorem State.modPart_retiresWork (s : State) (p : Nat) {f : Partition → Partition} (hf : ∀ P : Partition, P.KeepsTables (f P)) :
    s.RetiresWork (s.modPart p f) := by
  refine ⟨fun q => ?_, fun _ h => h, rfl⟩
  by_cases hq : q = p
  · subst hq
    rw [State.modPart, State.part_setPart_same]
    exact hf _
  · rw [State.modPart, State.part_setPart_other _ _ hq]
    exact Partition.keepsTables_refl _

theorem State.onlyMem_retiresWork (h : s.onlyMem t) : s.RetiresWork t := by
  refine ⟨fun p => ?_, fun e he => ?_, ?_⟩
  · rw [State.onlyMem_part h]
    exact Partition.keepsTables_refl _
  · rw [h]
    exact he
  · rw [h]

/-- More is journalled, and memory changes. -/
theorem State.journal_retiresWork (s : State) (m : Memory) (es : List JEntry) :
    s.RetiresWork { s with mem := m, journal := s.journal ++ es } :=
  ⟨fun _ => Partition.keepsTables_refl _, fun _ h => List.mem_append_left _ h, rfl⟩

theorem State.freeCtr_retiresWork (s : State) (n : Nat) : s.RetiresWork { s with freeCtr := n } :=
  ⟨fun _ => Partition.keepsTables_refl _, fun _ h => h, rfl⟩

theorem State.hvq_retiresWork (s : State) (l : List FaultRec) : s.RetiresWork { s with hvq := l } :=
  ⟨fun _ => Partition.keepsTables_refl _, fun _ h => h, rfl⟩

end

/-! ### Records posted, traced and withheld (R346, R407, R444) -/

theorem State.post_retiresWork (s : State) (p : Nat) (guest hv : Bool) (r : FaultRec) : s.RetiresWork (s.post p guest hv r) := by
  have counted : s.RetiresWork (if guest && (s.part p).fqFull then s.errCount p 8 else s) := by
    split
    · exact State.onlyMem_retiresWork (s.errCount_onlyMem _ _)
    · exact s.retiresWork_refl
  have waits (t : State) (n : Nat) (f : FaultRec) : t.RetiresWork (t.modPart p fun P =>
      { P with nextFid := nextFid P.nextFid, fqWait := if guest then P.fqWait ++ [f] else P.fqWait }) :=
    t.modPart_retiresWork p fun P => ⟨⟨rfl, fun g hg => by
      dsimp only
      split
      · exact List.mem_append_left _ hg
      · exact hg⟩, rfl⟩
  have posted := State.retiresWork_trans counted (waits _ (s.part p).nextFid { r with fid := (s.part p).nextFid, part := p })
  unfold State.post
  dsimp only
  split
  · exact State.retiresWork_trans posted (State.hvq_retiresWork _ _)
  · exact posted

theorem State.trace_retiresWork (s : State) (rn kind d0 d1 : Nat) : s.RetiresWork (s.trace rn kind d0 d1) := by
  unfold State.trace
  split
  · exact s.retiresWork_refl
  · next g _ =>
    dsimp only
    split
    · exact s.retiresWork_refl
    · split
      · exact s.retiresWork_refl
      · split
        · exact s.modPart_retiresWork g.part (f := fun P => { P with trLost := true }) fun P => ⟨⟨rfl, fun _ h => h⟩, rfl⟩
        · exact State.retiresWork_trans (State.onlyMem_retiresWork (s.gwrite_onlyMem _ _ _))
            (State.modPart_retiresWork _ g.part fun P => ⟨⟨rfl, fun _ h => h⟩, rfl⟩)

theorem State.postRg_retiresWork (s : State) (p rn : Nat) (guest hv : Bool) (r : FaultRec) : s.RetiresWork (s.postRg p rn guest hv r) :=
  State.retiresWork_trans (s.post_retiresWork p guest hv _) (State.trace_retiresWork _ _ _ _ _)

theorem State.withhold_retiresWork (s : State) (p rn : Nat) (who : Holder) (counts guest hv : Bool) (r : FaultRec) :
    s.RetiresWork (s.withhold p rn who counts guest hv r) := by
  unfold State.withhold
  dsimp only
  exact State.retiresWork_trans (s.postRg_retiresWork p rn guest hv r) (State.modPart_retiresWork _ p fun _ => ⟨⟨rfl, fun _ h => h⟩, rfl⟩)

theorem State.withholdEngine_retiresWork (s : State) (p rn : Nat) (who : Holder) (f : XFault) (write : Bool) (va : Nat) (stack : Option Nat) :
    s.RetiresWork (s.withholdEngine p rn who f write va stack) :=
  State.retiresWork_trans (s.freeCtr_retiresWork _) (State.withhold_retiresWork _ _ _ _ _ _ _ _)

/-! ### Retirements and pushes from the reserve (R128, R132, R422) -/

theorem State.pushReserve_retiresWork (s : State) (p q : Nat) (c : Cont) (period : Option Nat) : s.RetiresWork (s.pushReserve p q c period) := by
  unfold State.pushReserve
  refine State.retiresWork_trans (s.modPart_retiresWork p fun P => ?_) (State.journal_retiresWork _ _ _)
  split
  · exact ⟨⟨rfl, fun _ h => h⟩, rfl⟩
  · exact P.keepsTables_refl

/-- A change of a partition's launches and frames. -/
theorem State.modWork_retiresWork (s : State) (p : Nat) {f : Partition → Partition} (hg : ∀ P, (f P).gens = P.gens) (hw : ∀ P, (f P).fqWait = P.fqWait)
    (hs : ∀ P, (f P).sos = P.sos) : s.RetiresWork (s.modPart p f) :=
  s.modPart_retiresWork p fun P => ⟨⟨hg P, fun x hx => by rw [hw]; exact hx⟩, hs P⟩

theorem State.freeFrames_retiresWork (s : State) (p : Nat) (us : List Nat) : s.RetiresWork (s.freeFrames p us) :=
  s.modWork_retiresWork p (fun _ => rfl) (fun _ => rfl) fun _ => rfl

/-- Whether a retirement's status becomes a join block's, and the status and index the block then has (R132). -/
def joinIsNew (blk : List Byte) (status iidx : Nat) : Bool := status != 0 && (fieldAt blk 6 2 == 0 || decide (iidx < fieldAt blk 8 2))
def joinStatus (blk : List Byte) (status iidx : Nat) : Nat := if joinIsNew blk status iidx then status else fieldAt blk 6 2
def joinIndex (blk : List Byte) (status iidx : Nat) : Nat := if joinIsNew blk status iidx then iidx else fieldAt blk 8 2

/-- Whether a retirement fires the block. -/
def joinFires (blk : List Byte) : Bool := fieldAt blk 0 4 == 1 && fieldAt blk 5 1 == 1

/-- A block with one child fewer, written and journalled. -/
def State.childRetired (s : State) (p pa addr : Nat) (blk : List Byte) (status iidx : Nat) : State :=
  s.writeJoin p pa addr (fieldAt blk 0 4 - 1)
    (joinBytes blk (fieldAt blk 0 4 - 1) (if joinFires blk then 2 else fieldAt blk 5 1) (joinStatus blk status iidx) (joinIndex blk status iidx))

/-- What a block that fires makes of its CONT, or of the launch whose block it is. -/
def State.fireJoin (fuel : Nat) (s : State) (p : Nat) (x : Xlate) (addr : Nat) (blk : List Byte) (st sidx : Nat) : State :=
  match (s.part p).launchAt addr with
  | none =>
    let raw := contOf (blk.drop 32)
    let c := raw.tagged sidx st
    if !s.recOk p raw then State.joinRetire fuel s p x c.join.toNat stBADREC c.iidx
    else if ((s.part p).queues.find (fieldAt blk 4 1)).isSome then s.pushReserve p (fieldAt blk 4 1) c none
    else State.joinRetire fuel s p x c.join.toNat stREVOKED c.iidx
  | some l =>
    let s := s.freeFrames p l.units
    match l.act with
    | .host .. =>
      s.modPart p fun P => { P with launches := P.launches.map (fun m =>
        if m.q == l.q && m.accNo == l.accNo then { m with status := some st, expanded := true, units := [] , join := 0 } else m) }
    | .parent a ix =>
      let s := s.modPart p fun P => { P with launches := P.launches.filter (fun m => !(m.q == l.q && m.accNo == l.accNo)) }
      State.joinRetire fuel s p (s.queueXlate p l.q) a.toNat st ix
    | .nothing =>
      s.modPart p fun P => { P with launches := P.launches.filter (fun m => !(m.q == l.q && m.accNo == l.accNo)) }

theorem State.joinRetire_nothing (fuel : Nat) (s : State) (p : Nat) (x : Xlate) (status iidx : Nat) :
    State.joinRetire fuel s p x 0 status iidx = s := by
  cases fuel with
  | zero => rfl
  | succ fuel => exact if_pos rfl

section
variable {s : State} {x : Xlate} {addr : Nat} (fuel p status iidx : Nat) (ha : addr ≠ 0)
include ha

theorem State.joinRetire_faults {f : XFault} (ht : translate s.mem x addr .atomic = .error f) :
    State.joinRetire (fuel + 1) s p x addr status iidx = (s.withholdEngine p 4096 (.join (w addr)) f true addr none).modPart p fun P =>
      { P with joins := P.joins ++ [{ addr := w addr, xl := x, retire := some (status, iidx) }] } := by
  rw [State.joinRetire, if_neg ha, ht]

section
variable {pa fmt : Nat} (ht : translate s.mem x addr .atomic = .ok (pa, fmt))
include ht

theorem State.joinRetire_underflow (hn : fieldAt (s.mem.read pa 64) 0 4 = 0) : State.joinRetire (fuel + 1) s p x addr status iidx =
    State.post { s with freeCtr := s.freeCtr + 1 } p true false
      { FaultRec.of fJOINUF 3 with addr := w addr, place := s.engineWhere (stackAt pa) } := by
  rw [State.joinRetire, if_neg ha, ht]
  exact if_pos hn

theorem State.joinRetire_counts (hn : fieldAt (s.mem.read pa 64) 0 4 ≠ 0) : State.joinRetire (fuel + 1) s p x addr status iidx =
    if !joinFires (s.mem.read pa 64) then s.childRetired p pa addr (s.mem.read pa 64) status iidx
    else (s.childRetired p pa addr (s.mem.read pa 64) status iidx).fireJoin fuel p x addr (s.mem.read pa 64)
      (joinStatus (s.mem.read pa 64) status iidx) (joinIndex (s.mem.read pa 64) status iidx) := by
  rw [State.joinRetire, if_neg ha, ht]
  exact if_neg hn

end

end

theorem State.joinRetire_retiresWork (fuel : Nat) (s : State) (p : Nat) (x : Xlate) (addr status iidx : Nat) :
    s.RetiresWork (State.joinRetire fuel s p x addr status iidx) := by
  induction fuel generalizing s x addr status iidx with
  | zero => exact s.retiresWork_refl
  | succ fuel ih =>
    have launches (t : State) (g : List Launch → List Launch) : t.RetiresWork (t.modPart p fun P => { P with launches := g P.launches }) :=
      t.modWork_retiresWork p (fun _ => rfl) (fun _ => rfl) fun _ => rfl
    have fires (t : State) (blk : List Byte) (st sidx : Nat) : t.RetiresWork (t.fireJoin fuel p x addr blk st sidx) := by
      unfold State.fireJoin
      split
      · dsimp only
        split
        · exact ih _ _ _ _ _
        · split
          · exact t.pushReserve_retiresWork _ _ _ _
          · exact ih _ _ _ _ _
      · next l _ =>
        refine State.retiresWork_trans (t.freeFrames_retiresWork p l.units) ?_
        dsimp only
        split
        · exact launches _ _
        · exact State.retiresWork_trans (launches _ _) (ih _ _ _ _ _)
        · exact launches _ _
    by_cases ha : addr = 0
    · rw [ha, State.joinRetire_nothing]
      exact s.retiresWork_refl
    cases ht : translate s.mem x addr .atomic with
    | error f =>
      rw [State.joinRetire_faults fuel p status iidx ha ht]
      exact State.retiresWork_trans (s.withholdEngine_retiresWork _ _ _ _ _ _ _)
        (State.modWork_retiresWork _ p (fun _ => rfl) (fun _ => rfl) fun _ => rfl)
    | ok a =>
      by_cases hn : fieldAt (s.mem.read a.1 64) 0 4 = 0
      · rw [State.joinRetire_underflow fuel p status iidx ha ht hn]
        exact State.retiresWork_trans (s.freeCtr_retiresWork _) (State.post_retiresWork _ _ _ _ _)
      · rw [State.joinRetire_counts fuel p status iidx ha ht hn]
        have counted : s.RetiresWork (s.childRetired p a.1 addr (s.mem.read a.1 64) status iidx) := s.journal_retiresWork _ _
        split
        · exact counted
        · exact State.retiresWork_trans counted (fires _ _ _ _)

theorem State.retireJoin_retiresWork (s : State) (p : Nat) (x : Xlate) (addr status iidx : Nat) :
    s.RetiresWork (s.retireJoin p x addr status iidx) := State.joinRetire_retiresWork _ s p x addr status iidx

theorem State.pushOr_retiresWork (s : State) (p q : Nat) (x : Xlate) (c : Cont) (period : Option Nat) : s.RetiresWork (s.pushOr p q x c period) := by
  unfold State.pushOr
  split
  · exact s.pushReserve_retiresWork _ _ _ _
  · exact s.retireJoin_retiresWork _ _ _ _ _

theorem State.replay_retiresWork (s : State) (r : Region) : s.RetiresWork (s.replay r) := by
  unfold State.replay
  split
  · exact s.retiresWork_refl
  · exact s.pushOr_retiresWork _ _ _ _ _

/-- The result of an install that changes no region's state. -/
theorem State.putResult_retiresWork {c : CfgResult} (h : c.next = none) (s : State) (rn : Nat) : s.RetiresWork (s.putResult rn c) := by
  have inst (t : State) : t.installed c = t := by rw [State.installed, h]
  unfold State.putResult
  split
  · rw [inst]
    exact State.onlyMem_retiresWork (s.onlyMem_mem _)
  · split
    · exact State.retiresWork_trans (s.withhold_retiresWork _ _ _ _ _ _ _) (State.modWork_retiresWork _ _ (fun _ => rfl) (fun _ => rfl) fun _ => rfl)
    · rw [inst]
      exact s.retiresWork_refl

/-- A change of every listed partition that keeps what an unlisted one has. -/
theorem State.part_mapParts (s : State) {f : Partition → Partition} (hf : f Partition.inactive = Partition.inactive) (p : Nat) :
    State.part { s with parts := s.parts.map fun x : Nat × Partition => (x.1, f x.2) } p = f (s.part p) := by
  show (Tbl.find (s.parts.map fun x : Nat × Partition => (x.1, f x.2)) p).getD _ = _
  rw [Tbl.find_map s.parts (f := fun x => (x.1, f x.2)) (fun _ => rfl), State.part, Tbl.get]
  cases Tbl.find s.parts p <;> simp [hf]

theorem State.mapParts_retiresWork (s : State) {f : Partition → Partition} (hf : f Partition.inactive = Partition.inactive)
    (hk : ∀ P : Partition, P.KeepsTables (f P)) : s.RetiresWork { s with parts := s.parts.map fun x : Nat × Partition => (x.1, f x.2) } :=
  ⟨fun p => by rw [State.part_mapParts s hf]; exact hk _, fun _ h => h, rfl⟩

theorem State.forgetResults_retiresWork (s : State) (rn : Nat) : s.RetiresWork (s.forgetResults rn) :=
  s.mapParts_retiresWork (f := fun P => { P with
    results := P.results.map (fun (c : CfgResult) => if c.next.any (fun y => y.1 == rn) then { c with next := none } else c) })
    rfl fun _ => ⟨⟨rfl, fun _ h => h⟩, rfl⟩

theorem State.dropHeld_retiresWork (s : State) (rn : Nat) : s.RetiresWork (s.dropHeld rn) :=
  s.mapParts_retiresWork (f := fun P => { P with
    held := P.held.filter (fun h => h.rn != rn || (match h.who with | .result _ => true | _ => false)) })
    rfl fun _ => ⟨⟨rfl, fun _ h => h⟩, rfl⟩

end Sys2Proof.Machine
end

section
/-! PROOF. rg.kill and rg.free (R127, R153, R161, R163, R408). -/

namespace Sys2Proof.Machine

open Sys2Proof.Config

/-! ### Holds released (R167, R224) -/

/-- What is found in a table stands in it. -/
theorem Tbl.mem_of_find {α : Type} {t : Tbl α} {k : Nat} {v : α} (h : t.find k = some v) : (k, v) ∈ t := by
  induction t with
  | nil => cases h
  | cons x t ih =>
    obtain ⟨a, b⟩ := x
    rw [Tbl.find] at h
    split at h
    · next hk =>
      cases h
      rw [hk]
      exact List.mem_cons_self
    · exact List.mem_cons_of_mem _ (ih h)

/-- A change of one partition that keeps its handles and its waiting records. -/
theorem State.modPart_keepsHandles (s : State) (p : Nat) {f : Partition → Partition} (hf : ∀ P : Partition, P.KeepsHandles (f P)) :
    s.KeepsHandles (s.modPart p f) := by
  refine ⟨fun q => ?_, fun _ h => h⟩
  by_cases hq : q = p
  · subst hq
    rw [State.modPart, State.part_setPart_same]
    exact hf _
  · rw [State.modPart, State.part_setPart_other _ _ hq]
    exact Partition.keepsHandles_refl _

/-- Two states that agree but for the partitions. -/
def State.onlyParts (s t : State) : Prop := t = { s with parts := t.parts }

theorem State.onlyParts_trans {s t u : State} (h : s.onlyParts t) (h' : t.onlyParts u) : s.onlyParts u := by
  unfold State.onlyParts at h h' ⊢
  rw [h', h]

/-- An object of a partition without its holds of a party, where it has any. -/
def State.released (s : State) (p slot : Nat) (who : SoParty) : State := (s.soRelease p slot who).getD s

section
variable (s : State) (p slot : Nat) (who : SoParty)

theorem State.modSo_keepsHandles (f : SyncObj → SyncObj) : s.KeepsHandles (s.modSo p slot f) :=
  s.modPart_keepsHandles p fun P => by
    split
    · exact ⟨rfl, fun _ h => h⟩
    · exact P.keepsHandles_refl

/-- The release changes nothing, or takes the holds of the party from the object. -/
theorem State.released_cases : (s.released p slot who = s ∧ ∀ o, (s.part p).sos.find slot = some o → o.holds? who = false) ∨
    ∃ o, (s.part p).sos.find slot = some o ∧
      s.released p slot who = s.modSo p slot fun o => { o with holds := o.holds.filter (fun h => h.who != who) } := by
  unfold State.released State.soRelease
  split
  · next h => exact .inl ⟨rfl, fun o ho => by rw [h] at ho; cases ho⟩
  · next o h =>
    split
    · exact .inr ⟨o, h, rfl⟩
    · next hn => exact .inl ⟨rfl, fun o' ho => by rw [h] at ho; cases ho; simpa using hn⟩

theorem State.released_onlyParts : s.onlyParts (s.released p slot who) := by
  obtain ⟨h, -⟩ | ⟨o, -, h⟩ := s.released_cases p slot who
  · rw [h]; rfl
  · rw [h]; rfl

theorem State.released_keepsHandles : s.KeepsHandles (s.released p slot who) := by
  obtain ⟨h, -⟩ | ⟨o, -, h⟩ := s.released_cases p slot who
  · rw [h]; exact s.keepsHandles_refl
  · rw [h]; exact s.modSo_keepsHandles _ _ _

/-- After it, the party does not hold the object. -/
theorem State.released_holds {o : SyncObj} (h : ((s.released p slot who).part p).sos.find slot = some o) : o.holds? who = false := by
  obtain ⟨hs, hn⟩ | ⟨o', ho, hs⟩ := s.released_cases p slot who
  · rw [hs] at h
    exact hn o h
  · rw [hs, State.modSo, State.modPart, State.part_setPart_same] at h
    rw [ho] at h
    dsimp only at h
    rw [Tbl.find_put_same] at h
    cases h
    simp [SyncObj.holds?]

theorem State.released_other {k : Nat} (hk : k ≠ slot) : ((s.released p slot who).part p).sos.find k = (s.part p).sos.find k := by
  obtain ⟨hs, -⟩ | ⟨o, ho, hs⟩ := s.released_cases p slot who
  · rw [hs]
  · rw [hs, State.modSo, State.modPart, State.part_setPart_same]
    rw [ho]
    exact Tbl.find_put_other _ _ hk

end

theorem State.foldl_released_onlyParts (p : Nat) (who : SoParty) (l : List Nat) (s : State) :
    s.onlyParts (l.foldl (fun s slot => s.released p slot who) s) ∧ s.KeepsHandles (l.foldl (fun s slot => s.released p slot who) s) := by
  induction l generalizing s with
  | nil => exact ⟨rfl, s.keepsHandles_refl⟩
  | cons a l ih =>
    obtain ⟨h1, h2⟩ := ih (s.released p a who)
    exact ⟨State.onlyParts_trans (s.released_onlyParts p a who) h1, State.keepsHandles_trans (s.released_keepsHandles p a who) h2⟩

/-- Once every object of a list is released, the party holds none of those, and none that it did not hold before. -/
theorem State.foldl_released_holds (p : Nat) (who : SoParty) (l : List Nat) (s : State)
    (h : ∀ slot o, slot ∉ l → (s.part p).sos.find slot = some o → o.holds? who = false) (slot : Nat) (o : SyncObj)
    (ho : ((l.foldl (fun s slot => s.released p slot who) s).part p).sos.find slot = some o) : o.holds? who = false := by
  induction l generalizing s with
  | nil => exact h slot o List.not_mem_nil ho
  | cons a l ih =>
    refine ih (s.released p a who) (fun k x hk hx => ?_) ho
    by_cases hka : k = a
    · subst hka
      exact s.released_holds p k who hx
    · rw [State.released_other _ _ _ _ hka] at hx
      exact h k x (by simp [hka, hk]) hx

section
variable (s : State) (p : Nat) (who : SoParty)

theorem State.releaseAll_eq : s.releaseAll p who = (((s.part p).heldBy who).foldl (fun s slot => s.released p slot who) s).modPart p
    fun P => { P with ended := P.ended.filter (fun e => e.2 != who) } := rfl

theorem State.releaseAll_onlyParts : s.onlyParts (s.releaseAll p who) := by
  rw [State.releaseAll_eq]
  exact State.onlyParts_trans (State.foldl_released_onlyParts p who _ s).1 rfl

theorem State.releaseAll_keepsHandles : s.KeepsHandles (s.releaseAll p who) := by
  rw [State.releaseAll_eq]
  exact State.keepsHandles_trans (State.foldl_released_onlyParts p who _ s).2 (State.modPart_keepsHandles _ p fun _ => ⟨rfl, fun _ h => h⟩)

/-- A party that has released everything holds no object of the partition. -/
theorem State.releaseAll_holds (slot : Nat) (o : SyncObj) (h : ((s.releaseAll p who).part p).sos.find slot = some o) : o.holds? who = false := by
  rw [State.releaseAll_eq, State.modPart, State.part_setPart_same] at h
  refine State.foldl_released_holds p who _ s (fun k x hk hx => ?_) slot o h
  by_contra hn
  refine hk ?_
  rw [Partition.heldBy, List.mem_map]
  exact ⟨(k, x), List.mem_filter.mpr ⟨Tbl.mem_of_find hx, by simpa using hn⟩, rfl⟩

end

theorem State.countStale_retiresWork (s : State) (rn p : Nat) : s.RetiresWork (s.countStale rn p) := by
  unfold State.countStale
  generalize List.range _ = l
  induction l generalizing s with
  | nil => exact s.retiresWork_refl
  | cons a l ih => exact State.retiresWork_trans (State.onlyMem_retiresWork (s.errCount_onlyMem p 0)) (ih _)

/-! ### What an operation on one region leaves -/

/-- The region of a sequencer becomes g, the elements and the handles stay, and, of an operation that meets no other region, every other region. -/
structure State.Leaves (alone : Prop) (s : State) (rn : Nat) (g : Region) (t : State) : Prop where
  region : t.region? rn = some g
  others : alone → ∀ n, n ≠ rn → t.region? n = s.region? n
  tiles : t.tiles = s.tiles
  handles : s.KeepsHandles t

section
variable {alone : Prop} {s t u : State} {rn : Nat} {r g : Region}

theorem State.leaves_trans (h : s.Leaves alone rn r t) (h' : t.Leaves alone rn g u) : s.Leaves alone rn g u :=
  ⟨h'.region, fun ha n hn => (h'.others ha n hn).trans (h.others ha n hn), h'.tiles.trans h.tiles, State.keepsHandles_trans h.handles h'.handles⟩

theorem State.setRegion_leaves (s : State) (rn : Nat) (g : Region) : s.Leaves alone rn g (s.setRegion rn g) :=
  ⟨State.region?_setRegion_same s rn g, fun _ _ hn => State.region?_setRegion_other s g hn, rfl, ⟨fun _ => Partition.keepsHandles_refl _, fun _ h => h⟩⟩

variable (hr : s.region? rn = some r)
include hr

theorem State.refl_leaves : s.Leaves alone rn r s := ⟨hr, fun _ _ _ => rfl, rfl, s.keepsHandles_refl⟩

theorem State.modRegion_leaves (f : Region → Region) : s.Leaves alone rn (f r) (s.modRegion rn f) := by
  rw [State.modRegion_eq hr]
  exact s.setRegion_leaves rn _

theorem State.retiresWork_leaves (h : s.RetiresWork t) : s.Leaves alone rn r t := by
  have hn : ∀ n, t.region? n = s.region? n := fun n => by rw [State.region?, State.region?, h.only]
  exact ⟨by rw [hn, hr], fun _ n _ => hn n, by rw [h.only], h.handles⟩

theorem State.onlyParts_leaves (h : s.onlyParts t) (hk : s.KeepsHandles t) : s.Leaves alone rn r t := by
  have hn : ∀ n, t.region? n = s.region? n := fun n => by rw [State.region?, State.region?, h]
  exact ⟨by rw [hn, hr], fun _ n _ => hn n, by rw [h], hk⟩

theorem State.withdrawAcqs_leaves (p : Nat) : s.Leaves alone rn r (s.withdrawAcqs rn p) :=
  State.onlyParts_leaves hr rfl (s.modPart_keepsHandles p fun _ => ⟨rfl, fun _ h => h⟩)

theorem State.releaseAll_leaves (p : Nat) (who : SoParty) : s.Leaves alone rn r (s.releaseAll p who) :=
  State.onlyParts_leaves hr (s.releaseAll_onlyParts p who) (s.releaseAll_keepsHandles p who)

/-- Memory that becomes zero, or is written. -/
theorem State.memory_leaves (m : Memory) : s.Leaves alone rn r { s with mem := m } :=
  State.retiresWork_leaves hr (State.onlyMem_retiresWork (s.onlyMem_mem m))

theorem State.dropShadows_leaves : s.Leaves alone rn { r with shadows := [] } (s.dropShadows rn) := by
  unfold State.dropShadows
  rw [hr]
  exact State.leaves_trans (State.memory_leaves hr _) (State.setRegion_leaves _ _ _)

/-! ### The end of a region's period -/

theorem State.endPeriod_idle (hn : r.run = none) (st : Nat) : s.endPeriod rn st = s := by
  rw [State.endPeriod, hr]
  dsimp only
  rw [hn]

theorem State.endPeriod_runs {c : Cont} (hc : r.run = some c) (st : Nat) : s.endPeriod rn st =
    (State.retireJoin { s with journal := s.journal ++ [.retire r.period] } r.part (s.rgXlate r) c.join.toNat st c.iidx).modRegion rn
      fun r => { r with run := none } := by
  rw [State.endPeriod, hr]
  dsimp only
  rw [hc]

/-- The end of a period changes of its region no more than the record. -/
theorem State.endPeriod_leaves (st : Nat) : s.Leaves alone rn { r with run := none } (s.endPeriod rn st) ∧
    (∀ p, ((s.endPeriod rn st).part p).sos = (s.part p).sos) ∧ (r.run.isSome = true → JEntry.retire r.period ∈ (s.endPeriod rn st).journal) := by
  cases hc : r.run with
  | none =>
    rw [State.endPeriod_idle hr hc, show ({ r with run := none } : Region) = r by rw [← hc]]
    exact ⟨State.refl_leaves hr, fun _ => rfl, fun h => by cases h⟩
  | some c =>
    rw [State.endPeriod_runs hr hc]
    have hj : s.RetiresWork { s with journal := s.journal ++ [.retire r.period] } := s.journal_retiresWork s.mem _
    have hw := State.retireJoin_retiresWork { s with journal := s.journal ++ [.retire r.period] } r.part (s.rgXlate r) c.join.toNat st c.iidx
    have hl := State.retiresWork_leaves (alone := alone) hr (State.retiresWork_trans hj hw)
    have hm := State.modRegion_leaves (alone := alone) hl.region fun r => { r with run := none }
    refine ⟨State.leaves_trans hl hm, fun p => ?_, fun _ => ?_⟩
    · rw [State.modRegion_eq hl.region]
      exact (hw.part p).sos
    · rw [State.modRegion_eq hl.region]
      exact hw.journal _ (List.mem_append_right _ List.mem_cons_self)

/-- A period that completes with a status, or is replayed where there is none. -/
def State.finish (s : State) (rn : Nat) (r : Region) (status : Option Nat) : State :=
  match status with
  | some st => s.endPeriod rn st
  | none => s.replay r

/-- What is left of the region but for its record. -/
theorem State.finish_leaves (q : Region) (status : Option Nat) : ∃ c, s.Leaves alone rn { r with run := c } (s.finish rn q status) ∧
    ∀ p, ((s.finish rn q status).part p).sos = (s.part p).sos := by
  cases status with
  | some st => exact ⟨none, (State.endPeriod_leaves hr st).1, (State.endPeriod_leaves (alone := alone) hr st).2.1⟩
  | none => exact ⟨r.run, State.retiresWork_leaves hr (s.replay_retiresWork q), fun p => ((s.replay_retiresWork q).part p).sos⟩

theorem State.finish_idle (hn : r.run = none) {q : Region} (hq : q.run = none) (status : Option Nat) : s.finish rn q status = s := by
  cases status with
  | some st => exact State.endPeriod_idle hr hn st
  | none =>
    show s.replay q = s
    rw [State.replay, hq]

end

/-! ### A region zeroed (R439) -/

/-- Two states that agree but for the ports, those of the links, and the dies. -/
def State.onlyPorts (s t : State) : Prop := t = { s with ports := t.ports, akend := t.akend, dies := t.dies }

theorem State.dropSlot_onlyLinks (s : State) (p : Port) : s.onlyLinks (s.dropSlot p) := by
  unfold State.dropSlot
  split
  · exact s.onlyLinks_refl
  · dsimp only
    split
    · exact s.onlyLinks_refl
    · exact State.onlyLinks_trans (s.modAk_onlyLinks _ _) (State.onlyLinks_foldl (fun s _ => s.sendFlit_onlyLinks _ _ _ _ _ _) _ _)

theorem State.dropPorts_onlyLinks (s : State) (rn : Nat) : s.onlyLinks (s.dropPorts rn) := by
  have h := State.onlyLinks_foldl (fun (s : State) (x : Nat × Port) => s.dropSlot_onlyLinks x.2) (s.ports.filter (fun x => x.1 / 2048 == rn)) s
  exact State.onlyLinks_trans h rfl

theorem State.dropStreams_dropPorts_onlyPorts (s : State) (rn : Nat) : s.onlyPorts ((s.dropPorts rn).dropStreams rn) := by
  have h := s.dropPorts_onlyLinks rn
  unfold State.onlyPorts State.dropStreams
  rw [h]

/-- A region as a zeroing leaves it. -/
def Region.zeroed (r : Region) : Region :=
  { r with seq := Seq.zero, sects := [], version := 0, cycles := 0, phase := 0, zeroing := true, code := [], attach := none }

theorem State.zeroTiles_tile_other (s : State) {r : Region} {n : Nat} (h : r.covers n = false) : (s.zeroTiles r).tile n = s.tile n := by
  unfold State.tile State.zeroTiles Tbl.get
  dsimp only
  induction s.tiles with
  | nil => rfl
  | cons x t ih =>
    obtain ⟨a, v⟩ := x
    rw [List.filter_cons]
    by_cases ha : a = n
    · subst ha
      simp [h, Tbl.find]
    · split
      · simp only [Tbl.find, if_neg ha, ih]
      · simp only [Tbl.find, if_neg ha, ih]

/-- A zeroed region: its elements zero, the other regions and elements, the handles and the objects as they were. -/
structure State.Zeroes (s : State) (rn : Nat) (r : Region) (t : State) : Prop where
  region : t.region? rn = some r.zeroed
  others : ∀ n, n ≠ rn → t.region? n = s.region? n
  inside : ∀ n, r.covers n = true → t.tile n = Tile.cleared
  outside : ∀ n, r.covers n = false → t.tile n = s.tile n
  handles : s.KeepsHandles t
  sos : ∀ p, (t.part p).sos = (s.part p).sos

theorem State.zeroRegion_zeroes {s : State} {rn : Nat} {r : Region} (hr : s.region? rn = some r) : s.Zeroes rn r (s.zeroRegion rn) := by
  have hd := s.dropHeld_retiresWork rn
  set u := ((s.dropHeld rn).dropPorts rn).dropStreams rn with hu
  have hp : (s.dropHeld rn).onlyPorts u := State.dropStreams_dropPorts_onlyPorts _ _
  have hregion (n : Nat) : u.region? n = s.region? n := by rw [State.region?, hp, State.region?, hd.only]
  have htile (n : Nat) : u.tile n = s.tile n := by rw [State.tile, hp, State.tile, hd.only]
  have hpart (p : Nat) : u.part p = (s.dropHeld rn).part p := by rw [State.part, hp, State.part]
  have hjournal : u.journal = (s.dropHeld rn).journal := by rw [hp]
  have hz : s.zeroRegion rn = (u.zeroTiles r).setRegion rn r.zeroed := by
    have he : s.zeroRegion rn = (u.zeroTiles r).modRegion rn Region.zeroed := by
      unfold State.zeroRegion
      rw [hr]
      rfl
    rw [he]
    exact State.modRegion_eq (s := u.zeroTiles r) ((hregion rn).trans hr) _
  rw [hz]
  refine ⟨State.region?_setRegion_same _ _ _, fun n hn => ?_, fun n hn => u.zeroTiles_tile hn, fun n hn => ?_, ⟨fun p => ?_, fun e he => ?_⟩,
    fun p => ?_⟩
  · exact (State.region?_setRegion_other _ _ hn).trans (hregion n)
  · exact (u.zeroTiles_tile_other hn).trans (htile n)
  · show (s.part p).KeepsHandles (u.part p)
    rw [hpart]
    exact hd.handles.part p
  · show e ∈ u.journal
    rw [hjournal]
    exact hd.journal e he
  · show (u.part p).sos = _
    rw [hpart]
    exact (hd.part p).sos

/-! ### A region killed (R161) -/

theorem State.setRegion_part (s : State) (rn : Nat) (g : Region) (p : Nat) : (s.setRegion rn g).part p = s.part p := rfl

/-- A change of some region, which may be this one. -/
theorem State.modRegion_any {alone : Prop} {s : State} {rn : Nat} {r : Region} (hr : s.region? rn = some r) (ha : ¬ alone) (m : Nat) (st : RgState) :
    ∃ st' a, s.Leaves alone rn { r with state := st', async := a } (s.modRegion m fun g => { g with state := st, async := none }) := by
  by_cases hm : m = rn
  · subst hm
    exact ⟨st, none, State.modRegion_leaves hr fun g => { g with state := st, async := none }⟩
  · refine ⟨r.state, r.async, ?_, fun h => absurd h ha, ?_, ?_⟩
    · unfold State.modRegion
      split
      · rw [State.region?_setRegion_other _ _ (Ne.symm hm)]
        exact hr
      · exact hr
    · unfold State.modRegion
      split <;> rfl
    · unfold State.modRegion
      split
      · exact ⟨fun _ => Partition.keepsHandles_refl _, fun _ h => h⟩
      · exact s.keepsHandles_refl

theorem State.putInstall_retiresWork (s : State) (rn : Nat) (i : Install) (status : Nat) (win : Option (Nat × Nat)) (idx : Option Byte) (off : Nat) :
    s.RetiresWork (s.putInstall rn i status win idx off none) :=
  State.retiresWork_trans (s.freeCtr_retiresWork _) (State.putResult_retiresWork rfl _ rn)

/-- What an abandoned install leaves: its trace record, and its result where it is rg.cfg's. -/
def State.abandonInstall (s : State) (rn : Nat) (r : Region) : State :=
  match r.inst with
  | some i =>
    let s := s.trace rn 6 6 i.next
    if i.byCfg then s else s.putInstall rn i 6 none none i.next none
  | none => s

theorem State.abandonInstall_retiresWork (s : State) (rn : Nat) (r : Region) : s.RetiresWork (s.abandonInstall rn r) := by
  unfold State.abandonInstall
  split
  · dsimp only
    split
    · exact s.trace_retiresWork _ _ _ _
    · exact State.retiresWork_trans (s.trace_retiresWork _ _ _ _) (State.putInstall_retiresWork _ _ _ _ _ _ _)
  · exact s.retiresWork_refl

/-- What an abandoned save, load or move leaves. -/
def State.abandonAsync (s : State) (r : Region) : State :=
  match r.async with
  | some (.save va x) =>
    (match vwrite s.mem x (va.toNat + 248) (leBytes 0 8) with
     | .ok m => { s with mem := m }
     | .error _ => s)
  | some (.rebaseFrom dst) => s.modRegion dst fun g => { g with state := .claimed, async := none }
  | some (.rebaseTo src) => s.modRegion src fun g => { g with state := .stopped, async := none }
  | _ => s

theorem State.abandonAsync_leaves {s : State} {rn : Nat} {r : Region} (hr : s.region? rn = some r) :
    ∃ st a, s.Leaves (r.async = none) rn { r with state := st, async := a } (s.abandonAsync r) := by
  have kept : ∃ st a, s.Leaves (r.async = none) rn { r with state := st, async := a } s := ⟨r.state, r.async, State.refl_leaves hr⟩
  unfold State.abandonAsync
  split
  · split
    · exact ⟨r.state, r.async, State.memory_leaves hr _⟩
    · exact kept
  · next h => exact State.modRegion_any hr (by simp [h]) _ _
  · next h => exact State.modRegion_any hr (by simp [h]) _ _
  · exact kept

theorem State.abandon_eq {s : State} {rn : Nat} {r : Region} (hr : s.region? rn = some r) : s.abandon rn =
    ((((s.forgetResults rn).abandonInstall rn r).abandonAsync r).modRegion rn fun g => { g with inst := none, async := none }) := by
  unfold State.abandon
  rw [hr]
  rfl

/-- A region whose operations under way are abandoned: its install, and the side of a move it takes part in. -/
theorem State.abandon_leaves {s : State} {rn : Nat} {r : Region} (hr : s.region? rn = some r) :
    ∃ st, s.Leaves (r.async = none) rn { r with state := st, inst := none, async := none } (s.abandon rn) := by
  rw [State.abandon_eq hr]
  have h1 := State.retiresWork_leaves (alone := r.async = none) hr
    (State.retiresWork_trans (s.forgetResults_retiresWork rn) (State.abandonInstall_retiresWork _ rn r))
  obtain ⟨st, a, h2⟩ := State.abandonAsync_leaves h1.region
  exact ⟨st, State.leaves_trans (State.leaves_trans h1 h2) (State.modRegion_leaves h2.region fun g => { g with inst := none, async := none })⟩

/-- With nothing under way, it changes no memory and no port. -/
theorem State.abandon_idle {s : State} {rn : Nat} {r : Region} (hr : s.region? rn = some r) (hi : r.inst = none) (ha : r.async = none) :
    (s.abandon rn).mem = s.mem ∧ (s.abandon rn).ports = s.ports := by
  rw [State.abandon_eq hr, State.modRegion_mem, State.modRegion_ports, State.abandonAsync, ha, State.abandonInstall, hi]
  exact ⟨rfl, rfl⟩

/-- With no reply at its ports there is none to count. -/
theorem State.countStale_quiet {s : State} {rn : Nat} (h : ∀ x ∈ s.ports, x.1 / 2048 = rn → x.2.reply = []) (p : Nat) : s.countStale rn p = s := by
  have hsum : ((s.ports.filter (fun x => x.1 / 2048 == rn)).map (fun x => x.2.reply.length)).sum = 0 := by
    rw [List.sum_eq_zero_iff]
    intro n hn
    obtain ⟨x, hx, rfl⟩ := List.mem_map.mp hn
    obtain ⟨hm, hk⟩ := List.mem_filter.mp hx
    rw [h x hm (by simpa using hk)]
    rfl
  rw [State.countStale, hsum]
  rfl

theorem State.dropShadows_mem_none {s : State} {rn : Nat} {r : Region} (hr : s.region? rn = some r) (hn : r.shadows = []) :
    (s.dropShadows rn).mem = s.mem := by
  unfold State.dropShadows
  rw [hr]
  dsimp only
  rw [hn]
  rfl

/-- The state in which a region that is killed has abandoned what was under way, lost its shadows, and holds nothing. -/
def State.killing (s : State) (rn : Nat) (r : Region) : State :=
  ((((((s.modRegion rn fun g => { g with incarn := g.incarn + 1 }).abandon rn).countStale rn r.part).dropShadows rn).withdrawAcqs rn
    r.part).releaseAll r.part (.seq rn))

/-- A region that has been killed. -/
def Region.killed (r : Region) : Region :=
  { r with
    incarn := r.incarn + 1, inst := none, async := none, shadows := [], seq := Seq.zero, sects := [], version := 0, cycles := 0, phase := 0
    zeroing := true, code := [], attach := none, state := .claimed, why := 0, frzWhy := 0, run := none, debug := false }

section
variable {s : State} {rn : Nat} {r : Region} (hr : s.region? rn = some r)
include hr

theorem State.kill_eq (status : Option Nat) : s.kill rn status = (((s.killing rn r).finish rn r status).zeroRegion rn).modRegion rn
    fun g => { g with state := .claimed, why := 0, frzWhy := 0, run := none, debug := false } := by
  unfold State.kill
  rw [hr]
  rfl

theorem State.killing_leaves : ∃ st, s.Leaves (r.async = none) rn
    { r with incarn := r.incarn + 1, state := st, inst := none, async := none, shadows := [] } (s.killing rn r) := by
  have h1 := State.modRegion_leaves (alone := r.async = none) hr fun g => { g with incarn := g.incarn + 1 }
  obtain ⟨st, h2⟩ := State.abandon_leaves h1.region
  have h3 := State.retiresWork_leaves (alone := r.async = none) h2.region (State.countStale_retiresWork _ rn r.part)
  have h4 := State.dropShadows_leaves (alone := r.async = none) h3.region
  have h5 := State.withdrawAcqs_leaves (alone := r.async = none) h4.region r.part
  have h6 := State.releaseAll_leaves (alone := r.async = none) h5.region r.part (.seq rn)
  exact ⟨st, State.leaves_trans (State.leaves_trans (State.leaves_trans (State.leaves_trans (State.leaves_trans h1 h2) h3) h4) h5) h6⟩


/-- What is left of a killed region, and of the rest. -/
theorem State.kill_zeroes (status : Option Nat) : let t := s.kill rn status
    t.region? rn = some r.killed ∧ (r.async = none → ∀ n, n ≠ rn → t.region? n = s.region? n) ∧
    (∀ n, r.covers n = true → t.tile n = Tile.cleared) ∧ (∀ n, r.covers n = false → t.tile n = s.tile n) ∧ s.KeepsHandles t ∧
    (∀ slot o, (t.part r.part).sos.find slot = some o → o.holds? (.seq rn) = false) := by
  obtain ⟨st, hk⟩ := State.killing_leaves hr
  obtain ⟨c, hf, hsos⟩ := State.finish_leaves (alone := r.async = none) hk.region r status
  have hl := State.leaves_trans hk hf
  have hz := State.zeroRegion_zeroes hf.region
  have hm := State.modRegion_leaves (alone := r.async = none) hz.region
    fun g => { g with state := .claimed, why := 0, frzWhy := 0, run := none, debug := false }
  have htile (n : Nat) : ((s.killing rn r).finish rn r status).tile n = s.tile n := by rw [State.tile, hl.tiles, State.tile]
  rw [State.kill_eq hr]
  refine ⟨hm.region, fun ha n hn => ?_, fun n hn => ?_, fun n hn => ?_, ?_, fun slot o ho => ?_⟩
  · rw [hm.others ha n hn, hz.others n hn, hl.others ha n hn]
  · rw [State.tile, hm.tiles]
    exact hz.inside n hn
  · rw [State.tile, hm.tiles]
    exact (hz.outside n hn).trans (htile n)
  · exact State.keepsHandles_trans (State.keepsHandles_trans hl.handles hz.handles) hm.handles
  · rw [State.modRegion_eq hz.region, State.setRegion_part, hz.sos, hsos] at ho
    exact State.releaseAll_holds _ r.part (.seq rn) slot o ho

/-- Of a period that completes, the killing is journalled. -/
theorem State.kill_journals (hc : r.run.isSome = true) (st : Nat) : JEntry.retire r.period ∈ (s.kill rn (some st)).journal := by
  obtain ⟨_, hk⟩ := State.killing_leaves hr
  obtain ⟨hf, -, hj⟩ := State.endPeriod_leaves (alone := r.async = none) hk.region st
  have hz := State.zeroRegion_zeroes (s := (s.killing rn r).finish rn r (some st)) hf.region
  have hm := State.modRegion_leaves (alone := r.async = none) hz.region
    fun g => { g with state := .claimed, why := 0, frzWhy := 0, run := none, debug := false }
  rw [State.kill_eq hr]
  exact hm.handles.journal _ (hz.handles.journal _ (hj hc))

/-- Killing a region with nothing under way, no shadow and no reply at its ports changes no memory. -/
theorem State.kill_mem (hc : r.run = none) (hi : r.inst = none) (ha : r.async = none) (hs : r.shadows = [])
    (hp : ∀ x ∈ s.ports, x.1 / 2048 = rn → x.2.reply = []) (status : Option Nat) : (s.kill rn status).mem = s.mem := by
  have h1 := State.modRegion_leaves (alone := True) hr fun g => { g with incarn := g.incarn + 1 }
  obtain ⟨_, h2⟩ := State.abandon_leaves h1.region
  obtain ⟨hm, hports⟩ := State.abandon_idle h1.region hi ha
  have hquiet := State.countStale_quiet (s := (s.modRegion rn fun g => { g with incarn := g.incarn + 1 }).abandon rn) (rn := rn)
    (by rw [hports, State.modRegion_ports]; exact hp) r.part
  obtain ⟨_, hk⟩ := State.killing_leaves hr
  rw [State.kill_eq hr, State.modRegion_mem, State.zeroRegion_mem, State.finish_idle hk.region hc hc, State.killing, State.releaseAll_mem,
    State.withdrawAcqs_mem, hquiet, State.dropShadows_mem_none h2.region hs, hm, State.modRegion_mem]

end

/-! ### A region freed (R163) -/

/-- The number of a freed area stands for no region, and is not the region's own. -/
theorem State.areaKey_free (s : State) (rn : Nat) : s.region? (s.areaKey rn) = none ∧ s.areaKey rn ≠ rn := by
  have hex : ∃ k ∈ (List.range (s.regions.length + 1)).map (fun i => rn + 1024 * (i + 1)), (s.region? k).isNone = true := by
    by_contra hn
    push Not at hn
    have hsub : (List.range (s.regions.length + 1)).map (fun i => rn + 1024 * (i + 1)) ⊆ s.regions.map (·.1) := by
      intro k hk
      have hs := hn k hk
      obtain ⟨r, hr⟩ := Option.isSome_iff_exists.mp (by simpa [Option.isSome_iff_ne_none] using hs : (s.region? k).isSome = true)
      exact List.mem_map.mpr ⟨(k, r), Tbl.mem_of_find hr, rfl⟩
    have hnd : ((List.range (s.regions.length + 1)).map (fun i => rn + 1024 * (i + 1))).Nodup :=
      List.nodup_range.map fun a b h => by omega
    have hl := (List.subperm_of_subset hnd hsub).length_le
    simp only [List.length_map, List.length_range] at hl
    omega
  cases hf : ((List.range (s.regions.length + 1)).map (fun i => rn + 1024 * (i + 1))).find? (fun k => (s.region? k).isNone) with
  | none =>
    obtain ⟨k, hk, hn⟩ := hex
    exact absurd hn (List.find?_eq_none.mp hf k hk)
  | some k =>
    have hk : s.areaKey rn = k := by rw [State.areaKey, hf]; rfl
    obtain ⟨i, -, hi⟩ := List.mem_map.mp (List.mem_of_find?_eq_some hf)
    rw [hk]
    exact ⟨by simpa using List.find?_some hf, by omega⟩

/-- The area of a freed region while it is zeroed. -/
def Region.area (r : Region) : Region := { r.zeroed with freeing := true, state := .claimed, run := none }

section
variable {s : State} {rn : Nat} {r : Region} (hr : s.region? rn = some r)
include hr

/-- The state in which a zeroed region's handle is stale and its sequencer free. -/
theorem State.freeRegion_eq : let z := (s.zeroRegion rn).modPart r.part fun P => P.bump tblRegion r.slot
    let y : State := { z with regions := z.regions.del rn }
    s.freeRegion rn = y.setRegion (y.areaKey rn) r.area := by
  unfold State.freeRegion
  dsimp only
  rw [(State.zeroRegion_zeroes hr).region]
  rfl

/-- What is left of a freed region, and of the rest. -/
theorem State.freeRegion_frees : ∃ k, k ≠ rn ∧ (s.freeRegion rn).region? k = some r.area ∧ (s.freeRegion rn).region? rn = none ∧
    (∀ n, n ≠ rn → n ≠ k → (s.freeRegion rn).region? n = s.region? n) ∧
    (∀ n, r.covers n = true → (s.freeRegion rn).tile n = Tile.cleared) ∧ (∀ n, r.covers n = false → (s.freeRegion rn).tile n = s.tile n) ∧
    (((s.freeRegion rn).part r.part).gen tblRegion r.slot =
      if (s.part r.part).gen tblRegion r.slot = 4095 then 1 else (s.part r.part).gen tblRegion r.slot + 1) ∧
    ((s.freeRegion rn).part r.part).sos = (s.part r.part).sos ∧
    (∀ p f, f ∈ (s.part p).fqWait → f ∈ ((s.freeRegion rn).part p).fqWait) := by
  have hz := State.zeroRegion_zeroes hr
  set z := (s.zeroRegion rn).modPart r.part fun P => P.bump tblRegion r.slot with hzdef
  set y : State := { z with regions := z.regions.del rn } with hy
  obtain ⟨hfree, hne⟩ := y.areaKey_free rn
  have he : s.freeRegion rn = y.setRegion (y.areaKey rn) r.area := State.freeRegion_eq hr
  have hpart : y.part r.part = ((s.zeroRegion rn).part r.part).bump tblRegion r.slot := State.part_setPart_same _ _ _
  have hgens : ((s.zeroRegion rn).part r.part).gen tblRegion r.slot = (s.part r.part).gen tblRegion r.slot := by
    rw [Partition.gen, (hz.handles.part r.part).gens, Partition.gen]
  rw [he]
  refine ⟨y.areaKey rn, hne, State.region?_setRegion_same _ _ _, ?_, fun n hn hk => ?_, hz.inside, hz.outside, ?_, ?_, fun p f hf => ?_⟩
  · rw [State.region?_setRegion_other _ _ (Ne.symm hne)]
    exact Tbl.find_del_same _ _
  · rw [State.region?_setRegion_other _ _ hk]
    exact (Tbl.find_del_other _ hn).trans (hz.others n hn)
  · rw [State.setRegion_part, hpart, ← hgens]
    exact Tbl.get_put_same _ _ _ _
  · rw [State.setRegion_part, hpart]
    exact hz.sos r.part
  · rw [State.setRegion_part]
    have hf' := (hz.handles.part p).fqWait f hf
    by_cases hp : p = r.part
    · rw [hp, hpart]
      rw [hp] at hf'
      exact hf'
    · have : y.part p = (s.zeroRegion rn).part p := State.part_setPart_other _ _ hp
      rw [this]
      exact hf'

end

/-! ### The period and the holds of a region that is freed (R408, R419) -/

theorem State.moveHolds_onlyParts (s : State) (p : Nat) (old new : SoParty) : s.onlyParts (s.moveHolds p old new) := rfl

theorem State.moveHolds_keepsHandles (s : State) (p : Nat) (old new : SoParty) : s.KeepsHandles (s.moveHolds p old new) :=
  s.modPart_keepsHandles p fun _ => ⟨rfl, fun _ h => h⟩

/-- An object whose holds of one party are another's. -/
def SyncObj.moved (o : SyncObj) (old new : SoParty) : SyncObj :=
  { o with holds := o.holds.map (fun h => if h.who == old then { h with who := new } else h) }

/-- A party whose holds have moved to another holds nothing. -/
theorem State.moveHolds_holds {s : State} {p : Nat} {old new : SoParty} (hne : new ≠ old) {slot : Nat} {o : SyncObj}
    (h : ((s.moveHolds p old new).part p).sos.find slot = some o) : o.holds? old = false := by
  rw [State.moveHolds, State.modPart, State.part_setPart_same] at h
  have hf := Tbl.find_map (s.part p).sos (f := fun x => (x.1, x.2.moved old new)) (fun _ => rfl) slot
  obtain ⟨q, -, rfl⟩ := Option.map_eq_some_iff.mp (hf.symm.trans h)
  simp only [SyncObj.moved, SyncObj.holds?, List.any_map, List.any_eq_false, Function.comp]
  intro x _
  by_cases hx : x.who = old
  · simp [hx, hne]
  · simp [hx]

section
variable {s : State} {rn : Nat} {r : Region} (hr : s.region? rn = some r)
include hr

/-- The shadows of a period made visible: a switch of memory, journalled. -/
theorem State.showShadows_leaves {alone : Prop} : s.Leaves alone rn { r with shadows := [] } (s.showShadows rn) := by
  unfold State.showShadows
  rw [hr]
  dsimp only
  split
  · next h =>
    rw [show ({ r with shadows := [] } : Region) = r by rw [← List.isEmpty_iff.mp h]]
    exact State.refl_leaves hr
  · exact State.leaves_trans (State.retiresWork_leaves hr (s.journal_retiresWork _ _)) (State.setRegion_leaves _ _ _)

/-- A region that is settled holds nothing and has no shadow; but for its record and the objects the rest is as it was. -/
theorem State.settle_leaves : ∃ c, s.Leaves True rn { r with shadows := [], run := c } (s.settle rn r) ∧
    (∀ slot o, ((s.settle rn r).part r.part).sos.find slot = some o → o.holds? (.seq rn) = false) ∧
    (r.run = none → r.shadows = [] → (s.settle rn r).mem = s.mem) := by
  by_cases hkept : (r.state == .stopped && r.saved && r.run.isSome) = true
  · have he : s.settle rn r = (s.showShadows rn).moveHolds r.part (.seq rn) .orphan := if_pos hkept
    have h1 := State.showShadows_leaves (alone := True) hr
    have h2 := State.onlyParts_leaves (alone := True) h1.region (State.moveHolds_onlyParts _ r.part (.seq rn) .orphan)
      (State.moveHolds_keepsHandles _ _ _ _)
    rw [he]
    refine ⟨r.run, State.leaves_trans h1 h2, fun slot o ho => State.moveHolds_holds (by simp) ho, fun hn => ?_⟩
    simp [hn] at hkept
  · have he : s.settle rn r = ((s.dropShadows rn).releaseAll r.part (.seq rn)).finish rn r r.killStatus := if_neg hkept
    have h1 := State.dropShadows_leaves (alone := True) hr
    have h2 := State.releaseAll_leaves (alone := True) h1.region r.part (.seq rn)
    obtain ⟨c, h3, hsos⟩ := State.finish_leaves (alone := True) h2.region r r.killStatus
    rw [he]
    refine ⟨c, State.leaves_trans (State.leaves_trans h1 h2) h3, fun slot o ho => ?_, fun hn hs => ?_⟩
    · rw [hsos] at ho
      exact State.releaseAll_holds _ r.part (.seq rn) slot o ho
    · rw [State.finish_idle h2.region hn hn, State.releaseAll_mem, State.dropShadows_mem_none hr hs]

end

/-- Settles O29: a kill by what its abandoning, its releases and its zeroing leave, a free by its settling and the area that stays. -/
theorem regionKillAndFree : Obligations.RegionKillAndFree := by
  unfold Obligations.RegionKillAndFree
  intro s rd rs1 rn r hm h
  have hr := State.region?_of_rgOf h
  refine ⟨?kill, fun hs => ?free⟩
  case kill =>
    obtain ⟨hregion, hothers, hin, hout, -, hholds⟩ := State.kill_zeroes hr r.killStatus
    refine ⟨s.kill rn r.killStatus, r.killed, exec_rgKill hm h, hregion, rfl, rfl, rfl, rfl, rfl, rfl, rfl, rfl, rfl, rfl, rfl, rfl, rfl, rfl,
      hin, hout, hholds, fun hc hi ha => ⟨hothers ha, fun hsh hp => State.kill_mem hr hc hi ha hsh hp _⟩, fun hc hst => ?_⟩
    obtain ⟨st, hst⟩ := Option.isSome_iff_exists.mp hst
    rw [hst]
    exact State.kill_journals hr hc st
  case free =>
    obtain ⟨c, hl, hholds, hmem⟩ := State.settle_leaves hr
    obtain ⟨k, hk, harea, hgone, hothers, hin, hout, hgen, hsos, -⟩ := State.freeRegion_frees hl.region
    have htile (n : Nat) : (s.settle rn r).tile n = s.tile n := by rw [State.tile, hl.tiles, State.tile]
    refine ⟨(s.settle rn r).freeRegion rn, k, _, ?_, ?_, hgone, hk, harea, rfl, fun slot o ho => ?_, fun hn => ⟨fun n hn hnk => ?_, fun hsh => ?_⟩,
      rfl, rfl, rfl, rfl, hin, fun n hn => (hout n hn).trans (htile n)⟩
    · rw [exec_rgFree hm h, State.xGate_ok _ _ _ hs, State.xResult_eq]
    · refine hgen.trans ?_
      have hg : ((s.settle rn r).part r.part).gen tblRegion r.slot = (s.part r.part).gen tblRegion r.slot := by
        rw [Partition.gen, (hl.handles.part r.part).gens, Partition.gen]
      rw [hg]
    · exact hholds slot o (hsos ▸ ho)
    · exact (hothers n hn hnk).trans (hl.others trivial n hn)
    · rw [State.freeRegion_mem, hmem hn hsh]

end Sys2Proof.Machine
end

section
/-! PROOF. Revocations of a graph, a sync object, an ATTN page, a region and a queue (R127, R421, R422). -/

namespace Sys2Proof.Machine

open Sys2Proof.Config

/-! ### Handles that become stale (R127) -/

/-- The generation after a generation: 4,095 wraps to 1. -/
def nextGen (g : Nat) : Nat := if g = 4095 then 1 else g + 1

theorem Partition.bump_gen (P : Partition) (tbl slot : Nat) : (P.bump tbl slot).gen tbl slot = nextGen (P.gen tbl slot) := by
  unfold Partition.bump
  split <;> exact Tbl.get_put_same _ _ _ _

theorem Partition.bump_graph (P : Partition) (slot : Nat) : P.bump tblGraph slot =
    { P with gens := P.gens.put slot (nextGen (P.gen tblGraph slot)), graphs := P.graphs.del slot } := by
  show ({ P with gens := P.gens.put (0 * 2 ^ 20 + slot) _, graphs := _ } : Partition) = _
  rw [Nat.zero_mul, Nat.zero_add]
  rfl

section
variable {P : Partition} {tbl hd : Nat} (hc : P.current tbl hd = true)
include hc

/-- A current handle names a slot other than 0 that holds a live object. -/
theorem Partition.current_live : hSlot hd ≠ 0 ∧ P.live tbl (hSlot hd) = true := by
  simp only [Partition.current, Bool.and_eq_true, bne_iff_ne] at hc
  exact ⟨hc.1.1, hc.2⟩

/-- A current handle is the handle of its slot. -/
theorem Partition.handle_of_current (hl : hd < 2 ^ 32) : P.handle tbl (hSlot hd) = hd := by
  simp only [Partition.current, Bool.and_eq_true, beq_iff_eq] at hc
  rw [Partition.handle, ← hc.1.2, hGen, hSlot]
  omega

end

/-! ### Graphs and sync objects (R166, R227, R422) -/

theorem State.revokeGraph_stale {s : State} {p hd : Nat} (hc : (s.part p).current tblGraph hd = false) : s.revokeGraph p hd = s :=
  if_neg (by simp [hc])

theorem State.revokeGraph_current {s : State} {p hd : Nat} (hc : (s.part p).current tblGraph hd = true) :
    s.revokeGraph p hd = s.setPart p { s.part p with
      gens := (s.part p).gens.put (hSlot hd) (nextGen ((s.part p).gen tblGraph (hSlot hd))), graphs := (s.part p).graphs.del (hSlot hd) } := by
  rw [State.revokeGraph, if_pos hc, State.modPart, Partition.bump_graph]

/-- An answer leaves the objects of a partition, the generations and the former holders. -/
structure Partition.KeepsObjects (P Q : Partition) : Prop where
  sos : Q.sos = P.sos
  gens : Q.gens = P.gens
  ended : Q.ended = P.ended

section
variable (s : State) (p : Nat) (v : Dword)

theorem State.soAnswer_keepsObjects (r : SoReply) : (s.part p).KeepsObjects ((s.soAnswer p r v).part p) := by
  cases r with
  | hart h rd => exact ⟨rfl, rfl, rfl⟩
  | mtOp t op => exact ⟨rfl, rfl, rfl⟩
  | seqReg rn rd =>
    have hp : (s.soAnswer p (.seqReg rn rd) v).parts = s.parts := State.modSeq_parts _ _ _
    rw [State.part, State.part, hp]
    exact ⟨rfl, rfl, rfl⟩
  | trim i =>
    rw [State.soAnswer, State.modPart, State.part_setPart_same]
    split <;> exact ⟨rfl, rfl, rfl⟩

theorem State.soAnswer_hart_same (k : Nat) (rd : Reg) : (s.soAnswer p (.hart k rd) v).hart k =
    { (({ s.hart k with wait := none } : Hart).set rd v) with pc := (s.hart k).pc + 4 } := by
  refine (State.hart_setHart_same s k _).trans ?_
  unfold Hart.advance Hart.set
  split <;> rfl

theorem State.soAnswer_hart_other {k : Nat} {r : SoReply} (hr : ∀ rd, r ≠ .hart k rd) : (s.soAnswer p r v).hart k = s.hart k := by
  cases r with
  | hart h rd => exact s.hart_setHart_other _ fun hk => hr rd (by rw [hk])
  | mtOp t op => rfl
  | seqReg rn rd => rw [State.hart, State.soAnswer, State.modSeq_harts, State.hart]
  | trim i => rfl

theorem State.foldl_soAnswer_keepsObjects (l : List SoWait) :
    (s.part p).KeepsObjects ((l.foldl (fun s x => s.soAnswer p x.reply v) s).part p) := by
  induction l generalizing s with
  | nil => exact ⟨rfl, rfl, rfl⟩
  | cons x l ih =>
    have h := ih (s.soAnswer p x.reply v)
    have h1 := s.soAnswer_keepsObjects p v x.reply
    exact ⟨h.sos.trans h1.sos, h.gens.trans h1.gens, h.ended.trans h1.ended⟩

theorem State.foldl_soAnswer_hart {k : Nat} {l : List SoWait} (hl : ∀ z ∈ l, ∀ rd, z.reply ≠ .hart k rd) :
    (l.foldl (fun s x => s.soAnswer p x.reply v) s).hart k = s.hart k := by
  induction l generalizing s with
  | nil => rfl
  | cons x l ih =>
    rw [List.foldl_cons, ih _ fun z hz => hl z (List.mem_cons_of_mem _ hz)]
    exact s.soAnswer_hart_other p v (hl x List.mem_cons_self)

/-- Of waiters one of which is a hart's, and only one, the hart has the answer once all are answered. -/
theorem State.foldl_soAnswer_answers {k : Nat} {rd : Reg} {l : List SoWait} {y : SoWait} (hy : y ∈ l) (hr : y.reply = .hart k rd)
    (ho : ∀ z ∈ l, z ≠ y → ∀ rd', z.reply ≠ .hart k rd') (hn : l.Nodup) : (l.foldl (fun s x => s.soAnswer p x.reply v) s).hart k =
      { (({ s.hart k with wait := none } : Hart).set rd v) with pc := (s.hart k).pc + 4 } := by
  obtain ⟨a, b, rfl⟩ := List.append_of_mem hy
  have hne : ∀ z ∈ a ++ b, z ≠ y := fun z hz he =>
    (List.nodup_cons.mp (List.perm_middle.nodup_iff.mp hn)).1 (he ▸ hz)
  rw [List.foldl_append, List.foldl_cons, hr, State.foldl_soAnswer_hart _ p v fun z hz =>
    ho z (by simp [hz]) (hne z (List.mem_append_right _ hz)), State.soAnswer_hart_same, State.foldl_soAnswer_hart s p v fun z hz =>
    ho z (by simp [hz]) (hne z (List.mem_append_left _ hz))]

end

theorem State.revokeSo_stale {s : State} {p hd : Nat} (hc : (s.part p).current tblSo hd = false) : s.revokeSo p hd = s :=
  if_neg (by simp [hc])

/-- The state in which an object is gone and its handle stale, its holders told, and its waiters not yet answered. -/
def State.soGone (s : State) (p slot : Nat) (o : SyncObj) : State :=
  s.modPart p fun P => { (P.bump tblSo slot) with ended := P.ended ++ o.told.map (fun x => (P.handle tblSo slot, x)) }

section
variable {s : State} {p hd : Nat} {o : SyncObj} (hc : (s.part p).current tblSo hd = true) (ho : (s.part p).sos.find (hSlot hd) = some o)
include hc ho

theorem State.revokeSo_current : s.revokeSo p hd =
    o.waits.foldl (fun s x => s.soAnswer p x.reply (errWord eREVOKED)) (s.soGone p (hSlot hd) o) := by
  rw [State.revokeSo, if_pos hc, State.soEnd, ho]
  rfl

theorem State.revokeSo_ends (hl : hd < 2 ^ 32) : let t := s.revokeSo p hd
    (t.part p).sos = (s.part p).sos.del (hSlot hd) ∧
    (t.part p).gen tblSo (hSlot hd) = nextGen ((s.part p).gen tblSo (hSlot hd)) ∧ (∀ y ∈ o.holds, (hd, y.who) ∈ (t.part p).ended) ∧
    (∀ y k rd, y ∈ o.waits → y.reply = .hart k rd → (∀ z ∈ o.waits, z ≠ y → ∀ rd', z.reply ≠ .hart k rd') → o.waits.Nodup →
      t.hart k = { (({ s.hart k with wait := none } : Hart).set rd (errWord 0xD)) with pc := (s.hart k).pc + 4 }) := by
  have hk := (s.soGone p (hSlot hd) o).foldl_soAnswer_keepsObjects p (errWord eREVOKED) o.waits
  have hp : (s.soGone p (hSlot hd) o).part p = { ((s.part p).bump tblSo (hSlot hd)) with
      ended := (s.part p).ended ++ o.told.map (fun x => (hd, x)) } := by
    rw [State.soGone, State.modPart, State.part_setPart_same, Partition.handle_of_current hc hl]
  rw [State.revokeSo_current hc ho]
  refine ⟨hk.sos.trans ?_, ?_, fun y hy => ?_, fun y k rd hy hr hz hn => ?_⟩
  · rw [hp]
    rfl
  · rw [Partition.gen, hk.gens, hp]
    exact (s.part p).bump_gen tblSo (hSlot hd)
  · rw [hk.ended, hp]
    exact List.mem_append_right _ (List.mem_map.mpr ⟨y.who, List.mem_append_left _ (List.mem_map_of_mem hy), rfl⟩)
  · exact (s.soGone p (hSlot hd) o).foldl_soAnswer_answers p (errWord eREVOKED) hy hr hz hn

end

/-! ### ATTN pages (R210, R329, R422) -/

/-- A copy that touches revoked bytes before it has ended stops; any other goes on. -/
def Copy.revoked (lo hi : Nat) (c : Copy) : Copy :=
  if !c.ended && c.desc.isNone && c.touches lo hi then { c with status := eREVOKED } else c

/-- The copies of a region of a partition revoked. -/
def Region.copiesRevoked (p lo hi : Nat) (r : Region) : Region :=
  if r.part == p then { r with seq := { r.seq with copies := r.seq.copies.map fun y : Nat × Copy => (y.1, y.2.revoked lo hi) } } else r

theorem Region.copiesRevoked_part (r : Region) (p lo hi : Nat) : (r.copiesRevoked p lo hi).part = r.part := by
  unfold Region.copiesRevoked
  split <;> rfl

theorem Region.copiesRevoked_find {r : Region} {p : Nat} (lo hi k : Nat) (hp : r.part = p) :
    (r.copiesRevoked p lo hi).seq.copies.find k = (r.seq.copies.find k).map (Copy.revoked lo hi) := by
  rw [Region.copiesRevoked, if_pos (by simpa using hp)]
  exact Tbl.find_map (f := fun y : Nat × Copy => (y.1, y.2.revoked lo hi)) _ (fun _ => rfl) k

section
variable {c : Copy} (hd : c.desc = none)
include hd

theorem Copy.revoked_touching {lo hi : Nat} (he : c.ended = false) (ht : c.touches lo hi = true) :
    c.revoked lo hi = { c with status := eREVOKED } := if_pos (by simp [he, hd, ht])

omit hd in
theorem Copy.revoked_apart {lo hi : Nat} (ht : c.touches lo hi = false) : c.revoked lo hi = c := if_neg (by simp [ht])

/-- A copy that has stopped stays as it is. -/
theorem Copy.revoked_stopped (lo hi : Nat) : ({ c with status := eREVOKED } : Copy).revoked lo hi = { c with status := eREVOKED } :=
  if_neg (by simp [Copy.ended, hd, eREVOKED])

/-- A copy that touches one of two ranges has stopped once both are revoked. -/
theorem Copy.revoked_either {a b e f : Nat} (he : c.ended = false) (ht : c.touches a b = true ∨ c.touches e f = true) :
    (c.revoked a b).revoked e f = { c with status := 0xD } := by
  cases h : c.touches a b with
  | true => rw [Copy.revoked_touching hd he h, Copy.revoked_stopped hd]; rfl
  | false =>
    have h2 : c.touches e f = true := by simpa [h] using ht
    rw [Copy.revoked_apart h, Copy.revoked_touching hd he h2]; rfl

end

theorem State.revokeCopies_region? (s : State) (p lo hi n : Nat) :
    (s.revokeCopies p lo hi).region? n = (s.region? n).map (Region.copiesRevoked p lo hi) := by
  have hc : ∀ y : Nat × Copy, (if !y.2.ended && y.2.desc.isNone && y.2.touches lo hi then (y.1, { y.2 with status := eREVOKED }) else y) =
      (y.1, y.2.revoked lo hi) := fun y => by
    unfold Copy.revoked
    split <;> rfl
  show Tbl.find (s.regions.map _) n = _
  rw [Tbl.find_map _ fun x => by split <;> rfl]
  refine congrArg (fun f => (s.region? n).map f) (funext fun r => ?_)
  simp only [hc, Region.copiesRevoked]
  split <;> rfl

/-- Two states that agree but for the collectives. -/
def State.onlyColls (s t : State) : Prop := t = { s with colls := t.colls }

theorem State.onlyColls_foldl {α : Type} {f : State → α → State} (hf : ∀ (s : State) a, s.onlyColls (f s a)) (l : List α) (s : State) :
    s.onlyColls (l.foldl f s) := by
  induction l generalizing s with
  | nil => rfl
  | cons a l ih =>
    have h1 := hf s a
    have h2 := ih (f s a)
    unfold State.onlyColls at h1 h2 ⊢
    rw [List.foldl_cons, h2, h1]

theorem State.endAll_onlyColls (s : State) (p chip : Nat) (b : List Byte) (code : Nat) : s.onlyColls (s.endAll p chip b code) := by
  unfold State.endAll
  dsimp only
  split
  · split
    · exact ((s.endsTo_endColl p chip _ code).trans (State.endsTo_foldl_endRank _ _ b code _ _)).1
    · rfl
  · rfl

theorem State.revokeColls_onlyColls (s : State) (p lo hi : Nat) : s.onlyColls (s.revokeColls p lo hi) := by
  unfold State.revokeColls
  refine State.onlyColls_foldl (fun t chip => ?_) _ s
  exact State.onlyColls_foldl (f := fun u (c : Coll) => u.endAll p chip c.cmd eREVOKED) (fun u c => u.endAll_onlyColls p chip c.cmd eREVOKED) _ t

theorem State.attnEntry_congr {s t : State} (hp : t.parts = s.parts) (hm : t.mem = s.mem) (p hd : Nat) : t.attnEntry p hd = s.attnEntry p hd := by
  have hpart : t.part p = s.part p := by rw [State.part, hp, State.part]
  have hread (a n : Nat) : t.gread p a n = s.gread p a n := by rw [State.gread, State.gpa, hpart, hm, State.gread, State.gpa]
  rw [State.attnEntry, State.attnEntry, hpart]
  simp only [hread]

theorem State.attnEntry_desc {s : State} {p hd : Nat} {e : Nat × Nat} (h : s.attnEntry p hd = some e) : ∃ d, (s.part p).desc = some d := by
  unfold State.attnEntry at h
  split at h
  · cases h
  · next d hd => exact ⟨d, hd⟩

theorem State.zeroGranule_onlyMem (s : State) (x : Xlate) (va : Nat) : s.onlyMem (s.zeroGranule x va) := by
  unfold State.zeroGranule
  split
  · rfl
  · rfl

/-- Freeing an ATTN page changes memory, and the generation of its handle. -/
theorem State.freeAttn_frees {s : State} {p hd ka va : Nat} (x : Xlate) (h : s.attnEntry p hd = some (ka, va)) :
    ∃ m, s.freeAttn p x hd = State.modPart { s with mem := m } p fun P => P.bump tblAttn (hSlot hd) := by
  obtain ⟨d, hdesc⟩ := State.attnEntry_desc h
  set z := (((s.zeroGranule x ka).zeroGranule x va).gwrite p (d.attntab + 16 * hSlot hd) (List.replicate 16 0)) with hzdef
  have hz : z = { s with mem := z.mem } := by
    have h1 := s.zeroGranule_onlyMem x ka
    have h2 := (s.zeroGranule x ka).zeroGranule_onlyMem x va
    have h3 := ((s.zeroGranule x ka).zeroGranule x va).gwrite_onlyMem p (d.attntab + 16 * hSlot hd) (List.replicate 16 0)
    unfold State.onlyMem at h1 h2 h3
    rw [hzdef, h3, h2, h1]
  refine ⟨z.mem, ?_⟩
  rw [State.freeAttn, h, hdesc]
  exact congrArg (fun t => State.modPart t p fun P => P.bump tblAttn (hSlot hd)) hz

theorem State.revokeAttn_none {s : State} {p hd : Nat} (x : Xlate) (h : s.attnEntry p hd = none) : s.revokeAttn p x hd = s := by
  rw [State.revokeAttn, h]

/-- The state in which the copies and the collectives that touch two granules have stopped. -/
def State.granulesStopped (s : State) (p k v : Nat) : State :=
  ((((s.revokeCopies p k (k + 65536)).revokeCopies p v (v + 65536)).revokeColls p k (k + 65536)).revokeColls p v (v + 65536))

theorem State.granulesStopped_eq (s : State) (p k v : Nat) : ∃ cs, s.granulesStopped p k v =
    { (s.revokeCopies p k (k + 65536)).revokeCopies p v (v + 65536) with colls := cs } := by
  have h1 := ((s.revokeCopies p k (k + 65536)).revokeCopies p v (v + 65536)).revokeColls_onlyColls p k (k + 65536)
  have h2 := State.revokeColls_onlyColls (((s.revokeCopies p k (k + 65536)).revokeCopies p v (v + 65536)).revokeColls p k (k + 65536)) p v (v + 65536)
  unfold State.onlyColls at h1 h2
  refine ⟨(s.granulesStopped p k v).colls, ?_⟩
  unfold State.granulesStopped
  rw [h2, h1]

section
variable {s : State} {p hd ka va : Nat} (x : Xlate) (h : s.attnEntry p hd = some (ka, va))
include h

theorem State.revokeAttn_stops : ∃ cs m, s.revokeAttn p x hd = State.modPart
    { (s.revokeCopies p ka (ka + 65536)).revokeCopies p va (va + 65536) with colls := cs, mem := m } p fun P => P.bump tblAttn (hSlot hd) := by
  obtain ⟨cs, hg⟩ := s.granulesStopped_eq p ka va
  have he : (s.granulesStopped p ka va).attnEntry p hd = some (ka, va) := by
    rw [hg, ← h]
    exact State.attnEntry_congr (s := s) rfl rfl p hd
  obtain ⟨m, hm⟩ := State.freeAttn_frees x he
  refine ⟨cs, m, ?_⟩
  rw [State.revokeAttn, h]
  exact hm.trans (by rw [hg])

theorem State.revokeAttn_revokes : let t := s.revokeAttn p x hd
    (t.part p).gen tblAttn (hSlot hd) = nextGen ((s.part p).gen tblAttn (hSlot hd)) ∧
    (∀ rn r k c, s.region? rn = some r → r.part = p → r.seq.copies.find k = some c → c.ended = false → c.desc = none →
      (c.touches ka (ka + 65536) = true ∨ c.touches va (va + 65536) = true) →
      ∃ g, t.region? rn = some g ∧ g.seq.copies.find k = some { c with status := 0xD }) ∧
    t = { s with mem := t.mem, parts := t.parts, regions := t.regions, colls := t.colls } := by
  obtain ⟨cs, m, ht⟩ := State.revokeAttn_stops x h
  rw [ht]
  refine ⟨?_, fun rn r k c hr hp hk he hd ht => ?_, rfl⟩
  · rw [State.modPart, State.part_setPart_same]
    exact Partition.bump_gen _ tblAttn (hSlot hd)
  · refine ⟨(r.copiesRevoked p ka (ka + 65536)).copiesRevoked p va (va + 65536), ?_, ?_⟩
    · show ((s.revokeCopies p ka (ka + 65536)).revokeCopies p va (va + 65536)).region? rn = _
      rw [State.revokeCopies_region?, State.revokeCopies_region?, hr]
      rfl
    · rw [Region.copiesRevoked_find _ _ _ (r.copiesRevoked_part p _ _ ▸ hp), Region.copiesRevoked_find _ _ _ hp, hk]
      exact congrArg some (Copy.revoked_either hd he ht)

end

/-! ### Regions (R161, R163, R422) -/

theorem State.revokeRegion_none {s : State} {p hd : Nat} (h : s.rgOf p hd = none) : s.revokeRegion p hd = s := by
  rw [State.revokeRegion, h]

/-- A record posted for a region waits for the guest kernel under the next FID. -/
theorem State.postRg_waits (s : State) (p rn : Nat) (r : FaultRec) :
    ∃ f ∈ ((s.postRg p rn true false r).part p).fqWait, f.code = r.code ∧ f.src = r.src ∧ f.fid = (s.part p).nextFid := by
  unfold State.postRg
  dsimp only
  refine ⟨{ s.inRegion rn r with fid := (s.part p).nextFid, part := p }, ((State.trace_retiresWork _ rn _ _ _).part p).fqWait _ ?_, ?_⟩
  · rw [(s.post_guest p _).1]
    exact List.mem_append_right _ List.mem_cons_self
  · unfold State.inRegion
    split <;> exact ⟨rfl, rfl, rfl⟩

theorem State.revokeRegion_frees {s : State} {p hd rn : Nat} {r : Region} (h : s.rgOf p hd = some (rn, r)) : let t := s.revokeRegion p hd
    (t.part r.part).gen tblRegion r.slot = nextGen ((s.part r.part).gen tblRegion r.slot) ∧
    (∃ f ∈ (t.part p).fqWait, f.code = 0x33 ∧ f.src = 4 ∧ f.fid = (s.part p).nextFid) ∧
    (∀ n, r.covers n = true → t.tile n = Tile.cleared) := by
  have hpost := s.postRg_retiresWork p rn true false (FaultRec.of fREVOKED 4)
  have hr := (State.retiresWork_leaves (alone := True) (State.region?_of_rgOf h) hpost).region
  obtain ⟨hk, -, -, -, hkeep, -⟩ := State.kill_zeroes hr (some stREVOKED)
  obtain ⟨k, -, -, -, -, ht, -, hg, -, hw⟩ := State.freeRegion_frees hk
  have hkeeps := State.keepsHandles_trans hpost.handles hkeep
  obtain ⟨f, hf, hcode⟩ := s.postRg_waits p rn (FaultRec.of fREVOKED 4)
  rw [State.revokeRegion, h]
  refine ⟨hg.trans ?_, ⟨f, hw p f ((hkeep.part p).fqWait f hf), hcode⟩, ht⟩
  have hgen : (((s.postRg p rn true false (FaultRec.of fREVOKED 4)).kill rn (some stREVOKED)).part r.part).gen tblRegion r.slot =
      (s.part r.part).gen tblRegion r.slot := by rw [Partition.gen, (hkeeps.part r.part).gens, Partition.gen]
  exact congrArg nextGen hgen

/-! ### Queues (R132, R421, R422) -/

/-- A fold each of whose steps changes nothing. -/
theorem foldl_of_fixed {α β : Type} {f : α → β → α} {l : List β} (h : ∀ b ∈ l, ∀ a, f a b = a) {a : α} : l.foldl f a = a := by
  induction l with
  | nil => rfl
  | cons b l ih =>
    rw [List.foldl_cons, h b List.mem_cons_self]
    exact ih fun c hc => h c (List.mem_cons_of_mem _ hc)

theorem State.revokeQueue_stale {s : State} {p hd : Nat} (hc : (s.part p).current tblQueue hd = false) : s.revokeQueue p hd = s := by
  unfold State.revokeQueue
  dsimp only
  split
  · rfl
  · exact if_pos (by simp [hc])

/-- The state in which a queue is gone and its handle stale, its launches not expanded complete, its root kept, and none of its records is
retired. -/
def State.queueGone (s : State) (p hd : Nat) (Q : Queue) : State :=
  s.modPart p fun P => { ((P.failLaunches (hSlot hd - 1)).bump tblQueue (hSlot hd)) with oldq := P.oldq ++ [(hd, Q.asid, Q.s1root)] }

section
variable {s : State} {p hd : Nat} {Q : Queue} (hc : (s.part p).current tblQueue hd = true)
  (hq : (s.part p).queues.find (hSlot hd - 1) = some Q)

include hc hq in
/-- With no trim of the queue under way, each record is retired in order. -/
theorem State.revokeQueue_current (ht : ∀ y ∈ (s.part p).trims, y.2.q ≠ hSlot hd - 1) (he : ∀ e ∈ Q.recs.flatten ++ Q.rsv, e.trim = none) :
    s.revokeQueue p hd = (Q.recs.flatten ++ Q.rsv).foldl
      (fun z e => z.retireJoin p (s.queueXlate p (hSlot hd - 1)) e.cont.join.toNat 4 e.cont.iidx) (s.queueGone p hd Q) := by
  have hslot : hSlot hd - 1 + 1 = hSlot hd := Nat.succ_pred_eq_of_ne_zero (Partition.current_live hc).1
  have htrims : (s.part p).trims.filter (fun y => y.2.q == hSlot hd - 1) = [] :=
    List.filter_eq_nil_iff.mpr fun y hy => by simpa using ht y hy
  unfold State.revokeQueue
  dsimp only
  rw [hq]
  dsimp only
  rw [if_neg (by simp [hc]), htrims, List.foldl_nil, hslot]
  refine congrArg (fun z => List.foldl _ z (Q.recs.flatten ++ Q.rsv)) ((foldl_of_fixed fun e hm z => ?_).trans rfl)
  rw [he e hm]

theorem State.queueGone_part : (s.queueGone p hd Q).part p =
    { (((s.part p).failLaunches (hSlot hd - 1)).bump tblQueue (hSlot hd)) with oldq := (s.part p).oldq ++ [(hd, Q.asid, Q.s1root)] } :=
  State.part_setPart_same _ _ _

theorem State.queueGone_gone : let t := s.queueGone p hd Q
    (t.part p).queues = (s.part p).queues.del (hSlot hd - 1) ∧
    (t.part p).gen tblQueue (hSlot hd) = nextGen ((s.part p).gen tblQueue (hSlot hd)) ∧ (hd, Q.asid, Q.s1root) ∈ (t.part p).oldq ∧
    (∀ l ∈ (s.part p).launches, l.q = hSlot hd - 1 → l.expanded = false → { l with expanded := true, status := some 4 } ∈ (t.part p).launches) ∧
    t = { s with parts := t.parts } := by
  dsimp only
  rw [State.queueGone_part]
  refine ⟨rfl, ?_, ?_, fun l hl hlq hx => ?_, rfl⟩
  · exact Partition.bump_gen _ tblQueue (hSlot hd)
  · exact List.mem_append_right _ List.mem_cons_self
  · exact List.mem_map.mpr ⟨l, hl, if_pos (by simp [hlq, hx])⟩

end

/-! ### A retirement that leaves children (R132) -/

theorem Memory.read_part (m : Memory) {n o k : Nat} (h : o + k ≤ n) (a : Nat) : ((m.read a n).drop o).take k = m.read (a + o) k := by
  induction n generalizing a o k with
  | zero =>
    obtain ⟨rfl, rfl⟩ : o = 0 ∧ k = 0 := by omega
    rfl
  | succ n ih =>
    cases o with
    | zero =>
      cases k with
      | zero => rfl
      | succ k =>
        have h1 := ih (o := 0) (k := k) (by omega) (a + 1)
        rw [List.drop_zero] at h1
        rw [List.drop_zero, Memory.read, List.take_succ_cons, h1]
        rfl
    | succ o =>
      rw [Memory.read, List.drop_succ_cons, ih (by omega), Nat.add_assoc, Nat.add_comm 1 o]

/-- A field of bytes read is the number read in its place. -/
theorem fieldAt_read (m : Memory) (a : Nat) {n o k : Nat} (h : o + k ≤ n) : fieldAt (m.read a n) o k = m.readN (a + o) k := by
  rw [fieldAt, Memory.read_part m h, Memory.readN]

/-- A field of bytes written reads as it was written. -/
theorem Memory.readN_write {m : Memory} (hm : m.wf = true) (a : Nat) {bs : List Byte} {o k : Nat} (h : o + k ≤ bs.length) :
    (m.write a bs).readN (a + o) k = fieldAt bs o k := by
  rw [← fieldAt_read _ _ h, Memory.read_write hm]

theorem fieldAt_append (a b c : List Byte) : fieldAt (a ++ b ++ c) a.length b.length = leNat b := by simp [fieldAt]

section
variable {blk : List Byte} (hb : blk.length = 64) (count state status sidx : Nat)

include hb in
theorem joinBytes_length : (joinBytes blk count state status sidx).length = 64 := by simp [joinBytes, hb]

theorem joinBytes_count : fieldAt (joinBytes blk count state status sidx) 0 4 = count % 2 ^ 32 := by
  have h := fieldAt_append [] (leBytes count 4) ((blk.drop 4).take 1 ++ leBytes state 1 ++ leBytes status 2 ++ leBytes sidx 2 ++ blk.drop 10)
  rw [leNat_leBytes] at h
  simpa [joinBytes] using h

include hb in
theorem joinBytes_status : fieldAt (joinBytes blk count state status sidx) 6 2 = status % 2 ^ 16 := by
  have h := fieldAt_append (leBytes count 4 ++ (blk.drop 4).take 1 ++ leBytes state 1) (leBytes status 2) (leBytes sidx 2 ++ blk.drop 10)
  rw [leNat_leBytes] at h
  simpa [joinBytes, hb] using h

include hb in
theorem joinBytes_index : fieldAt (joinBytes blk count state status sidx) 8 2 = sidx % 2 ^ 16 := by
  have h := fieldAt_append (leBytes count 4 ++ (blk.drop 4).take 1 ++ leBytes state 1 ++ leBytes status 2) (leBytes sidx 2) (blk.drop 10)
  rw [leNat_leBytes] at h
  simpa [joinBytes, hb] using h

end

theorem State.retireJoin_nothing (s : State) (p : Nat) (x : Xlate) (status iidx : Nat) : s.retireJoin p x 0 status iidx = s :=
  State.joinRetire_nothing _ s p x status iidx

/-- A first failing status becomes a block's that has none. -/
theorem joinStatus_first {blk : List Byte} {status : Nat} (iidx : Nat) (hs : status ≠ 0) (h : fieldAt blk 6 2 = 0) :
    joinStatus blk status iidx = status ∧ joinIndex blk status iidx = iidx := by
  have hn : joinIsNew blk status iidx = true := by simp [joinIsNew, hs, h]
  exact ⟨if_pos hn, if_pos hn⟩

section
variable (s : State) (p pa addr : Nat) (blk : List Byte) (status iidx : Nat)

theorem State.childRetired_mem : (s.childRetired p pa addr blk status iidx).mem = s.mem.write pa (joinBytes blk (fieldAt blk 0 4 - 1)
    (if joinFires blk then 2 else fieldAt blk 5 1) (joinStatus blk status iidx) (joinIndex blk status iidx)) := rfl

theorem State.childRetired_only : s.childRetired p pa addr blk status iidx = { s with
    mem := (s.childRetired p pa addr blk status iidx).mem, journal := (s.childRetired p pa addr blk status iidx).journal } := rfl

end

/-- A block in memory with one child fewer, and with a status that it had not. -/
theorem Memory.write_joinBytes {m : Memory} (hm : m.wf = true) {pa status iidx : Nat} (state : Nat) (hs : status ≠ 0) (hs' : status < 65536)
    (hi : iidx < 65536) : let m' := m.write pa (joinBytes (m.read pa 64) (fieldAt (m.read pa 64) 0 4 - 1) state
      (joinStatus (m.read pa 64) status iidx) (joinIndex (m.read pa 64) status iidx))
    m'.readN pa 4 = m.readN pa 4 - 1 ∧ (∀ b, (b < pa ∨ pa + 64 ≤ b) → m'.get b = m.get b) ∧
    (m.readN (pa + 6) 2 = 0 → m'.readN (pa + 6) 2 = status ∧ m'.readN (pa + 8) 2 = iidx) := by
  have hlen : (m.read pa 64).length = 64 := Memory.read_length _ _ _
  have hcount : fieldAt (m.read pa 64) 0 4 = m.readN pa 4 := fieldAt_read m pa (o := 0) (by omega)
  have hlt : m.readN pa 4 < 2 ^ 32 := by
    have h := leNat_lt (m.read pa 4)
    rwa [Memory.read_length] at h
  have hl (c st si : Nat) : (joinBytes (m.read pa 64) c state st si).length = 64 := joinBytes_length hlen _ _ _ _
  intro m'
  refine ⟨?_, fun b hb => Memory.get_write_other hm _ (by rwa [hl]), fun h0 => ?_⟩
  · refine (Memory.readN_write hm pa (o := 0) (by rw [hl]; omega)).trans ?_
    rw [joinBytes_count, hcount]
    omega
  · obtain ⟨hst, hix⟩ := joinStatus_first iidx hs ((fieldAt_read m pa (n := 64) (by omega)).trans h0)
    refine ⟨(Memory.readN_write hm pa (by rw [hl]; omega)).trans ?_, (Memory.readN_write hm pa (by rw [hl]; omega)).trans ?_⟩
    · rw [joinBytes_status hlen, hst]
      exact Nat.mod_eq_of_lt hs'
    · rw [joinBytes_index hlen, hix]
      exact Nat.mod_eq_of_lt hi

section
variable {s : State} {x : Xlate} {addr pa fmt : Nat} (p status iidx : Nat) (ha : addr ≠ 0)
  (ht : translate s.mem x addr .atomic = .ok (pa, fmt)) (hn : 2 ≤ s.mem.readN pa 4)
include ha ht hn

/-- A block with other children left counts one child fewer and does not fire. -/
theorem State.retireJoin_counts : s.retireJoin p x addr status iidx = s.childRetired p pa addr (s.mem.read pa 64) status iidx := by
  have hf : fieldAt (s.mem.read pa 64) 0 4 = s.mem.readN pa 4 := fieldAt_read s.mem pa (o := 0) (by omega)
  refine (State.joinRetire_counts _ p status iidx ha ht (by omega)).trans (if_pos ?_)
  have h1 : fieldAt (s.mem.read pa 64) 0 4 ≠ 1 := by omega
  simp [joinFires, h1]

theorem State.retireJoin_revoked (hm : s.memOk) (hi : iidx < 65536) : ∃ t, s.retireJoin p x addr 4 iidx = t ∧
    t = { s with mem := t.mem, journal := t.journal } ∧ t.mem.readN pa 4 = s.mem.readN pa 4 - 1 ∧ sameMemoryBut s t pa 64 ∧
    (s.mem.readN (pa + 6) 2 = 0 → t.mem.readN (pa + 6) 2 = 4 ∧ t.mem.readN (pa + 8) 2 = iidx) := by
  refine ⟨_, State.retireJoin_counts p 4 iidx ha ht hn, State.childRetired_only _ _ _ _ _ _ _, ?_⟩
  unfold sameMemoryBut
  rw [State.childRetired_mem]
  exact Memory.write_joinBytes hm _ (by decide) (by decide) hi

end

/-- Settles O35: each kind of handle is revoked as its lemma says, and the hart moves past its write. -/
theorem revocations : Obligations.Revocations := by
  unfold Obligations.Revocations
  intro s h v hw ho hl ha x p hd slot next past
  have runs {i : Instr} {f : Hart → Nat → State → State} (he : exec i s = .next (s.csrPart h nVDREVOKE f)) : exec i s = past (f x p s) :=
    (exec_csrPart_ok hw ho he (by decide) hl ha).trans rfl
  have hlt : hd < 2 ^ 32 := bits_lt v 31 0
  refine ⟨fun hc => ?_, fun hc => ?_, fun hc => ?_, fun o hc hs => ⟨_, runs rfl, State.revokeSo_ends hc hs hlt⟩, fun hn => ?_,
    fun ka va pk fk pv fv he _ _ => ⟨_, runs rfl, State.revokeAttn_revokes _ he⟩, fun hn => ?_,
    fun rn r hr => ⟨_, runs rfl, State.revokeRegion_frees hr⟩, fun hc => ?_, fun Q hc hq htr hrec => ⟨s.queueGone p hd Q, ?_, State.queueGone_gone⟩,
    fun z xl ix => z.retireJoin_nothing p xl 4 ix,
    fun z xl a ix pa fmt n hm ha ht hn h2 hi => ?_⟩
  · exact (runs rfl).trans (congrArg past (State.revokeGraph_stale hc))
  · exact (runs rfl).trans (congrArg past (State.revokeGraph_current hc))
  · exact (runs rfl).trans (congrArg past (State.revokeSo_stale hc))
  · exact (runs rfl).trans (congrArg past (State.revokeAttn_none _ hn))
  · exact (runs rfl).trans (congrArg past (State.revokeRegion_none hn))
  · exact (runs rfl).trans (congrArg past (State.revokeQueue_stale hc))
  · exact (runs rfl).trans (congrArg past (State.revokeQueue_current hc hq htr hrec))
  · subst hn
    exact State.retireJoin_revoked p ix ha ht h2 hm hi

end Sys2Proof.Machine
end
